-- ==== Sys2Proof/Word.lean ====
section
/-! DEFINITION. The word types of the CW4 and the sparse total map that the state is made of. -/

namespace Sys2Proof

/-- One byte. -/
abbrev Byte := BitVec 8
/-- A register of the management address space (R8). -/
abbrev Word64 := BitVec 64
/-- A scalar register, a tag entry, a brand word. -/
abbrev Word32 := BitVec 32

/-- A total map over the natural numbers that differs from `dflt` at finitely many keys. In canonical form
`cells` is strictly rising in the key and no cell equals `dflt`, so equal maps are equal data. -/
structure GMap (α : Type) where
  dflt  : α
  cells : List (Nat × α)
  deriving DecidableEq, Repr

/-- A sparse byte memory: the listed bytes in rising address order, none of them 0. An unlisted byte reads 0. -/
abbrev Mem := List (Nat × BitVec 8)

end Sys2Proof
end

