-- ==== Sys2Proof/Syntax.lean ====
section
/-! DEFINITION. The commands of the CW4 block: one constructor of `Instr` for each row of spec/opcode_table.json, with the
operands that name the unit it happens at and what comes from outside the part (register data, cars, pin edges, measurements). -/

namespace Sys2Proof

/-- A logical stall ID, Y * 1024 + X (R4). -/
abbrev StallId := Fin 1048576
/-- A yard, 0-63 (R4). -/
abbrev YardId := Fin 64
/-- A logical shed within its yard, 0-63 (R4). -/
abbrev ShedNo := Fin 64
/-- A port, 0-143 (R13). -/
abbrev PortId := Fin 144
/-- A place of the tack rack, 0-6 (R205). -/
abbrev PlaceNo := Fin 7
/-- A physical shed number, yard * 72 + shed row * 9 + physical shed column (R415). -/
abbrev PShedNo := Fin 4608
/-- A physical stall ID, pY * 1224 + pX (R14). -/
abbrev PStallId := Fin 1253376

/-- Where a register or window access comes from (R328, R468). `keadigor` carries the ORIG bit of R293. -/
inductive Origin where
  | i3c
  | hostPort
  | keadigor (orig : Bool)
  | hostler
  | groom
  deriving DecidableEq, Repr

/-- A failing unit handed to the remap engine (R21, R23): a physical stall or a whole physical shed. -/
inductive FailUnit where
  | stall (p : PStallId)
  | shed (n : PShedNo)
  deriving DecidableEq, Repr

/-- A car as a port receives it (R290, R291), decrypted, with the outcomes of the checks that need the bits on the wire
or the keys: CRC and FEC (R296 step 1) and the GCM tag (step 3) (log 6). -/
structure RxCar where
  crcOk   : Bool
  tagOk   : Bool
  typ     : BitVec 4
  lvc     : BitVec 2
  enc     : Bool
  kp      : Bool
  seq     : BitVec 16
  rsv     : BitVec 8
  w1      : Word32
  w2      : Word32
  w3      : Word32
  payload : List Byte
  deriving DecidableEq, Repr

/-- What one lane shows at the end of a training attempt (R287): pre-FEC errored bits of the test window, no uncorrectable
codeword, receive polarity found inverted, and lock found. -/
structure LaneResult where
  errBits  : Nat
  noUncorr : Bool
  inverted : Bool
  locked   : Bool
  deriving DecidableEq, Repr

/-- One reading of the temperature sensors of a physical shed (R367), in whole degrees C; `none` for a sensor that does not answer. -/
structure ShedReading where
  shed  : PShedNo
  floor : List (Option Int)
  loft  : List (Option Int)
  deriving DecidableEq, Repr

/-- The powers measured over the last 10 us interval, in W (R343-R347, R361). -/
structure PowerMeas where
  input    : Nat
  links    : Nat
  lofts    : Nat
  standing : Nat
  compute  : Nat
  ballast  : Nat
  deriving DecidableEq, Repr

/-- What the ramp governor meets in one 10 us interval (R347, R348): the demand, and the draw that remains against the target
after n, ballast and wakes are spent (`short`: the slope was missed). -/
structure RampMeas where
  demand : Nat
  draw   : Nat
  short  : Bool
  deriving DecidableEq, Repr

/-- What happens on a shed that makes the idle selection propose again (R356). -/
inductive ProposalCause where
  | quietChange
  | nextEvent
  | wake
  | recheck
  deriving DecidableEq, Repr

/-- Why a shed wakes (R357). -/
inductive WakeCause where
  | held
  | gate
  | flip
  | planned
  deriving DecidableEq, Repr

/-- A message that a Hostler cluster sends to a stall through a siding (R125, R215). -/
structure UnitMsg where
  cluster : Fin 4
  dest    : StallId
  tag     : BitVec 10
  vc      : Fin 3
  payload : List Byte
  deriving DecidableEq, Repr

/-- What an I/O ring unit injects (R170): the next write or message its port's unit has built, or a Hostler message. -/
inductive Injection where
  | unit
  | message (m : UnitMsg)
  deriving DecidableEq, Repr

/-- Outcomes of the Groom's start that need its media and keys (R446, R447): the self-check, the two firmware slots
(ARB when the slot's image verifies), the certificate chain and its key, the two studbook copies and the MRAM head. -/
structure GroomInputs where
  selfCheck : Bool
  slot0     : Option Nat
  slot1     : Option Nat
  keyMatch  : Bool
  chainOk   : Bool
  copyA     : Bool
  copyB     : Bool
  mramHead  : Bool
  mgroom    : BitVec 512
  deriving DecidableEq, Repr

/-- The outcome of verifying a signed image under R322 and R323: its header fields and whether signature and digest verify. -/
structure ImageCheck where
  sigOk  : Bool
  digOk  : Bool
  kind   : Nat
  arb    : Nat
  keyId  : Nat
  digest : BitVec 512
  deriving DecidableEq, Repr

/-- What the running bring-up step finds (R450-R456): rails that trip as they come up, units that fail BIST or the loft test, RO frequency
in kHz and Vmin in mV of sheds (R429), and the firmware image's check. Each is used by the step it belongs to. -/
structure StepResult where
  trips     : List YardId
  badStalls : List PStallId
  badSheds  : List PShedNo
  aging     : List (PShedNo × Nat × Nat)
  image     : Option ImageCheck
  timedOut  : Bool
  elapsedMs : Nat
  deriving DecidableEq, Repr

/-- The result of a lunge (R409). -/
structure LungeResult where
  failed  : Bool
  stall   : Fin 256
  whole   : Bool
  spscol  : Fin 9
  spsrow  : Fin 8
  spcol   : Fin 17
  sprow   : Fin 16
  roKhz   : Nat
  vminMv  : Nat
  deriving DecidableEq, Repr

/-- How a commit of the studbook went on its media: programmings that failed in step 3 of R419, and whether a copy has failed as a whole (R425). -/
structure CommitResult where
  failures : Nat
  copyBad  : Bool
  deriving DecidableEq, Repr

/-- An I3C bus transaction (R478): a private write of bytes, or a private read. -/
inductive I3cOp where
  | privateWrite (bytes : List Byte)
  | privateRead
  deriving DecidableEq, Repr

/-- The common command codes the I3C target supports (R477). -/
inductive I3cCcc where
  | setdasa (addr : BitVec 7)
  | entdaa (addr : BitVec 7)
  | rstdaa
  | enec
  | disec
  | getpid
  | getbcr
  | getdcr
  | getstatus
  deriving DecidableEq, Repr

/-- How long RESET# was held low (R475): at least 10 us, below 8 us, or between. -/
inductive LowTime where
  | long
  | short
  | between
  deriving DecidableEq, Repr

/-- The commands, in the order of spec/opcode_table.json. A routine word's command names the stall whose sequencer issues
the word at its PC; `par` says that a read of the step finds a parity error (R390), `res` that the residue check mismatches
(R389). -/
inductive Instr where
  | nop (sid : StallId)
  | endW (sid : StallId)
  | loop (sid : StallId)
  | brt (sid : StallId)
  | brtWaitSatisfied (sid : StallId)
  | br (sid : StallId)
  | jmp (sid : StallId)
  | waitg (sid : StallId)
  | arrive (sid : StallId)
  | mov (sid : StallId) (par : Bool)
  | movq (sid : StallId)
  | movqs (sid : StallId)
  | qrel (sid : StallId)
  | lds (sid : StallId) (par : Bool)
  | sts (sid : StallId)
  | agb (sid : StallId)
  | ags (sid : StallId)
  | vadd (sid : StallId) (res : Bool)
  | vsub (sid : StallId) (res : Bool)
  | vmul (sid : StallId) (res : Bool)
  | vfma (sid : StallId) (res : Bool)
  | vmax (sid : StallId) (res : Bool)
  | vmin (sid : StallId) (res : Bool)
  | vact (sid : StallId) (res : Bool)
  | vexp2 (sid : StallId) (res : Bool)
  | vlog2 (sid : StallId) (res : Bool)
  | vrsqrt (sid : StallId) (res : Bool)
  | vrcp (sid : StallId) (res : Bool)
  | vred (sid : StallId) (res : Bool)
  | vcvt (sid : StallId) (res : Bool)
  | vcmp (sid : StallId) (res : Bool)
  | vlogic (sid : StallId)
  | vcopy (sid : StallId)
  | send (sid : StallId)
  | sendl (sid : StallId)
  | sends (sid : StallId)
  | relay (sid : StallId)
  | tinc (sid : StallId)
  | tdec (sid : StallId)
  | trd (sid : StallId)
  | tset (sid : StallId)
  | brand (sid : StallId)
  | ballast (sid : StallId)
  | salu (sid : StallId)
  | sli (sid : StallId)
  | dmm (sid : StallId)
  | drain (sid : StallId)
  | dexp (sid : StallId)
  | dstat (sid : StallId)
  | smm (sid : StallId)
  | sdd (sid : StallId)
  | psel (sid : StallId)
  | pchk (sid : StallId)
  | dmmCompletion (sid : StallId)
  | rakeCompletion (sid : StallId)
  | overflowReplay (sid : StallId) (rake : Bool)
  | dispatch (sid : StallId) (par : Bool)
  | messageAcceptance (sid : StallId) (vc : Fin 3) (par : Bool)
  | messageComplete (sid : StallId) (vc : Fin 3)
  | relayCopy (sid : StallId)
  | contributionCounted (sid : StallId) (vc : Fin 3)
  | releaseBegin (sid : StallId) (slot : Fin 8)
  | releaseComplete (sid : StallId) (slot : Fin 8)
  | penLeave (sid : StallId)
  | flitHop (mid : Nat) (flit : Nat) (adaptive : Option (Fin 4)) (crcOk : Bool)
  | sidingInjection (port : PortId) (what : Injection)
  | progressWatchdogFire (yard : YardId) (shed : ShedNo)
  | gateOpening (scope : Fin 3) (unit : Nat) (line : Fin 16)
  | epochDrained
  | secEpochWrite (o : Origin) (data : Word64)
  | routeTableWrite (version : Bool) (sid : StallId) (entries : List Byte)
  | detourInstall
  | load (o : Origin) (place : PlaceNo)
  | loadComplete (place : PlaceNo) (memErr : Bool)
  | arm (o : Origin) (place : PlaceNo) (auto : Bool)
  | armComplete
  | start (o : Origin) (place : PlaceNo)
  | abort (o : Origin)
  | abortedReached
  | disarm (o : Origin) (place : PlaceNo)
  | evict (o : Origin) (place : PlaceNo)
  | reload (o : Origin) (place : PlaceNo)
  | reloadComplete (place : PlaceNo) (memErr : Bool)
  | endLatch
  | startOpening
  | loftWriteLanding (sid : StallId)
  | streamIssue (o : Origin) (port : PortId) (ctx : Fin 32)
  | streamCancel (o : Origin) (port : PortId) (ctx : Fin 32)
  | sdata (port : PortId) (car : RxCar)
  | blockRelease (port : PortId) (ctx : Fin 32)
  | creditMessage (port : PortId)
  | ackReport (port : PortId) (ctx : Fin 32)
  | softGap (port : PortId) (ctx : Fin 32)
  | hardGap (port : PortId) (ctx : Fin 32)
  | marshallingEntryWrite (o : Origin) (version : Bool) (index : Fin 524288) (data : Word64)
  | bucketIssue (o : Origin) (ctx : Fin 64)
  | bucketCancel (o : Origin) (ctx : Fin 64)
  | gradientPart (port : PortId)
  | bucketSendStart (ctx : Fin 64)
  | bucketCloseSent (ctx : Fin 64)
  | gret (port : PortId) (car : RxCar)
  | bucketTimeout (ctx : Fin 64)
  | bagree (port : PortId) (car : RxCar)
  | brsnd (port : PortId) (car : RxCar)
  | basum (port : PortId) (car : RxCar)
  | ststop (port : PortId) (car : RxCar)
  | bstop (port : PortId) (car : RxCar)
  | portCfgWrite (o : Origin) (port : PortId) (data : Word64)
  | train (o : Origin) (port : PortId)
  | qclr (o : Origin) (port : PortId)
  | rekey (o : Origin) (port : PortId)
  | drop (o : Origin) (port : PortId)
  | trainingAttemptEnd (port : PortId) (lanes : List LaneResult)
  | tryintExpiry (port : PortId)
  | hello (port : PortId) (car : RxCar) (sigsOk : Bool)
  | kex (port : PortId) (car : RxCar) (sigsOk : Bool)
  | handshakeTimeout (port : PortId)
  | authRetry (port : PortId)
  | markerCar (port : PortId) (good : Bool) (frame : BitVec 32)
  | lctl (port : PortId) (car : RxCar)
  | lctlSend (port : PortId)
  | replayTimeout (port : PortId)
  | berWindow (port : PortId) (errBits : List Nat) (uncorr : Nat) (lost : List Bool)
  | noCarTimeout (port : PortId)
  | retrainTimeout (port : PortId)
  | rekeyTimer (port : PortId)
  | beaconSend
  | beacon (port : PortId) (car : RxCar) (t4 : Word64)
  | mgmt (port : PortId) (car : RxCar)
  | bridgeTimeout (port : PortId) (tid : BitVec 16)
  | svc (port : PortId) (car : RxCar)
  | windowRead (o : Origin) (addr : BitVec 40) (wlen : Nat)
  | windowWrite (o : Origin) (addr : BitVec 40) (data : List Byte)
  | registerWrite (o : Origin) (addr : BitVec 40) (data : Word64)
  | mbxPost (o : Origin) (n : Fin 10) (hi : Word64)
  | mbxRing (o : Origin) (n : Fin 10) (data : Word64)
  | mbxDoorClear (o : Origin) (n : Fin 10) (data : Word64)
  | mbxMaskWrite (o : Origin) (n : Fin 10) (data : Word64)
  | pop (o : Origin) (n : Fin 10)
  | flush (o : Origin) (n : Fin 10)
  | rxrdy (o : Origin) (n : Fin 10) (value : Bool)
  | crheadWrite (o : Origin) (r : Fin 8) (data : Word64)
  | crcfgWrite (o : Origin) (r : Fin 8) (data : Word64)
  | pclr (o : Origin) (yard : YardId) (shed : ShedNo)
  | pwrCapWrite (o : Origin) (data : Word64)
  | allocatorInterval (m : PowerMeas)
  | rampInterval (m : RampMeas)
  | idleProposal (yard : YardId) (shed : ShedNo) (cause : ProposalCause)
  | shedWake (yard : YardId) (shed : ShedNo) (cause : WakeCause)
  | wakeComplete (yard : YardId) (shed : ShedNo)
  | yardRailInterval (yard : YardId) (watts : Nat)
  | staggerArm (o : Origin) (data : Word64)
  | staggerSlotReached
  | nextevWrite (o : Origin) (data : Word64)
  | lshedAssert
  | lreq (o : Origin) (data : Word64)
  | loadShedEnd
  | feedChange (feedB : Bool) (present : Bool) (rideThrough : Bool)
  | thmClkWrite (o : Origin) (data : Word64)
  | droopDetect (yard : YardId) (shed : ShedNo) (deep : Bool)
  | droopRecovery (yard : YardId) (shed : ShedNo)
  | sensorSample (sheds : List ShedReading) (supplies : List (YardId × Int))
  | throttleStep (yard : YardId) (shed : ShedNo) (up : Bool)
  | tripRailOff
  | coreRailTrip (yard : YardId)
  | trackRailTrip (yard : YardId)
  | remapFault (u : FailUnit)
  | remapRun
  | remapComplete
  | spareRetirement (u : FailUnit)
  | lungeStart (o : Origin) (data : Word64)
  | lungeComplete (r : LungeResult)
  | studbookCommit (r : CommitResult)
  | lifeUpdate (hours : Nat) (hourly : Bool)
  | attest (internal : Bool)
  | keyreg (sigOk : Bool)
  | sbread (internal : Bool)
  | suspect
  | lungeset (img : ImageCheck)
  | groomStart (g : GroomInputs)
  | firmwareRecoveryImage (last : Bool) (img : Option ImageCheck)
  | track (o : Origin) (auto hsrc : Bool)
  | core (o : Origin) (auto hsrc : Bool)
  | clocks (o : Origin) (auto hsrc : Bool)
  | bist (o : Origin) (auto hsrc : Bool)
  | remap (o : Origin) (auto hsrc : Bool)
  | loft (o : Origin) (auto hsrc : Bool)
  | ports (o : Origin) (auto hsrc : Bool)
  | hostler (o : Origin) (auto hsrc : Bool)
  | ready (o : Origin) (auto hsrc : Bool)
  | bootStepComplete (r : StepResult)
  | cold (o : Origin)
  | warm (o : Origin)
  | resetPin (low : LowTime)
  | powerOn (feedB : Bool)
  | groomLock (o : Origin) (data : Word64)
  | i3cTransaction (op : I3cOp)
  | extest (drive : List Bool)
  | idcode
  | samplePreload (preload : List Bool)
  | bypass
  | tapReset
  | rekeyRetry (port : PortId)
  | operatorImageLoad (img : ImageCheck)
  | i3cCcc (ccc : I3cCcc)
  | ballastRunOut (sid : StallId)
  deriving DecidableEq, Repr

end Sys2Proof
end

