-- ==== Sys2Proof/Config.lean ====
section
/-! DEFINITION. The free values: what the spec leaves open and the machine goes on with (log 4). Each is a constant without a
body, so nothing can be proved of its values. Most are applied to the counter `State.fresh`, which each use advances. -/

namespace Sys2Proof

/-- A 16-bit number from the hardware entropy source of a shed (R71, RND 2). DESIGN CHOICE, log 4. -/
opaque Config.entropy : Nat → BitVec 16
/-- The phase that PSEL draws once per word under COUNTED (R118). DESIGN CHOICE, log 4. -/
opaque Config.phase : Nat → BitVec 4
/-- Which of the results inside the ulp bound of R56 an approximation gives. DESIGN CHOICE, log 14. -/
opaque Config.pick : Nat → Nat
/-- A result that the spec does not state (log 4). DESIGN CHOICE. -/
opaque Config.freeWord : Nat → Word32
/-- A byte of undefined memory contents (R486): by the event that undefined it and the byte's address. DESIGN CHOICE, log 4. -/
opaque Config.freeByte : Nat → Nat → Byte
/-- A cell of an undefined bank (R79): by the event, the bank's number in the grid (4 * stall + bank) and the cell. Log 4. -/
opaque Config.freeCell : Nat → Nat → Nat → Int
/-- How many shed cycles a wait or an idle time took (log 10). DESIGN CHOICE. -/
opaque Config.freeCycles : Nat → Nat
/-- Whether RESET# held low for between 8 us and 10 us resets (R475). DESIGN CHOICE, log 4. -/
opaque Config.freeReset : Nat → Bool
/-- A route entry of the detour tables for a set of dead yards, at a router of one yard toward another (R172). DESIGN CHOICE, log 15. -/
opaque Config.detourEntry : List Nat → Nat → Nat → BitVec 8
/-- 32 fresh random bytes of a HELLO (R300, R301). DESIGN CHOICE, log 6. -/
opaque Config.random : Nat → List Byte
/-- The ML-DSA-87 public key of a 32-byte seed (R431). PRESUMED to be the function of FIPS 204; left without a body, log 6. -/
opaque Config.mldsaPublic : List Byte → List Byte
/-- The ML-DSA-87 signature by the key of a seed, under a context string, of a message (R300, R437). Log 6. -/
opaque Config.mldsaSign : List Byte → List Byte → List Byte → List Byte
/-- A fresh ML-KEM-1024 encapsulation key (R300). Log 6. -/
opaque Config.mlkemKey : Nat → List Byte
/-- The ML-KEM-1024 shared secret that decapsulation gives, by the key's number and the ciphertext (R302). Log 6. -/
opaque Config.mlkemShared : Nat → List Byte → List Byte
/-- The certificate chain of the device, leaf then factory CA (R301, R432): what bring-up finds in the fixed region. Log 6. -/
opaque Config.certChain : List Byte
/-- Equaliser settings of a lane in a LANECHAR record (R417), by port and lane. Log 4. -/
opaque Config.equaliser : Nat → Nat → Nat
/-- The bytes of a record's BODY by its kind and fields, whose layout R417 leaves open. Log 29. -/
opaque Config.recordBody : Nat → List Nat → List Byte
/-- The bytes of the key registry and REGSEQ that REGDIG digests, whose layout R437 leaves open. Log 29. -/
opaque Config.registryBytes : List Nat → List Byte
/-- The provisioned identifier of the I3C target, its bus and device characteristics (R477 names the CCCs and gives no values). Log 32. -/
opaque Config.i3cPid : List Byte
/-- BCR of the I3C target. Log 32. -/
opaque Config.i3cBcr : Byte
/-- DCR of the I3C target. Log 32. -/
opaque Config.i3cDcr : Byte

end Sys2Proof
end

