-- ==== Sys2Proof/Machine/Bits.lean ====
section
/-! DEFINITION. Bit fields, byte order and small integer helpers (R8: bit 0 is the least significant; words are little-endian). -/

namespace Sys2Proof.Machine

/-- Bits [hi:lo] of a number. -/
def bitsOf (v hi lo : Nat) : Nat := (v >>> lo) % 2 ^ (hi + 1 - lo)

/-- Bit i of a number. -/
def bitOf (v i : Nat) : Bool := Nat.testBit v i

/-- The value 1 or 0 of a flag. -/
def b2n (b : Bool) : Nat := if b then 1 else 0

/-- `v` with bits [hi:lo] replaced by `x`. -/
def setBits (v hi lo x : Nat) : Nat :=
  let w := 2 ^ (hi + 1 - lo)
  v - (bitsOf v hi lo) * 2 ^ lo + (x % w) * 2 ^ lo

/-- The signed value of a `w`-bit two's complement number. -/
def signedOf (w v : Nat) : Int :=
  let v := v % 2 ^ w
  if 2 * v < 2 ^ w then (v : Int) else (v : Int) - (2 ^ w : Nat)

/-- The `w`-bit two's complement pattern of an integer. -/
def patternOf (w : Nat) (x : Int) : Nat := (x % ((2 ^ w : Nat) : Int)).toNat

/-- A count that holds at its maximum `2^w - 1`. -/
def satAdd (w a b : Nat) : Nat := min (a + b) (2 ^ w - 1)

/-- `⌊x / 2^k⌋`. -/
def floorShift (x : Int) (k : Nat) : Int := Int.fdiv x ((2 ^ k : Nat) : Int)

/-- Little-endian value of a byte list. -/
def leNat : List Byte → Nat
  | [] => 0
  | b :: bs => b.toNat + 256 * leNat bs

/-- The `n` little-endian bytes of a number. -/
def leBytes : Nat → Nat → List Byte
  | 0, _ => []
  | n + 1, v => BitVec.ofNat 8 v :: leBytes n (v / 256)

/-- A byte list cut or zero-filled to `n` bytes. -/
def padTo (n : Nat) (bs : List Byte) : List Byte := (bs ++ List.replicate (n - bs.length) 0#8).take n

/-- Bytes `off` to `off + n - 1` of a byte list, bytes past its end reading 0. -/
def slice (bs : List Byte) (off n : Nat) : List Byte := padTo n (bs.drop off)

/-- The little-endian value at byte `off`, `n` bytes wide. -/
def leAt (bs : List Byte) (off n : Nat) : Nat := leNat (slice bs off n)

/-- `⌈a / b⌉`. -/
def ceilDiv (a b : Nat) : Nat := (a + b - 1) / b

/-- Replace element `i` of a list. -/
def setAt {α : Type} (l : List α) (i : Nat) (v : α) : List α := l.set i v

/-- Clamp a number into `lo` to `hi`. -/
def clampNat (v lo hi : Nat) : Nat := if v < lo then lo else if hi < v then hi else v

/-- The nearest bound of a signed range. -/
def clampInt (v lo hi : Int) : Int := if v < lo then lo else if hi < v then hi else v

/-- One bit fed into the CRC-16 of R483: polynomial 0x1021, not reflected. -/
def crc16Bit (c : Nat) (bit : Bool) : Nat :=
  let top := xor (c.testBit 15) bit
  let c' := (2 * c) % 65536
  if top then c' ^^^ 0x1021 else c'

/-- The CRC-16 of R483 over the low `n` bits of a number, fed from bit n - 1 down to bit 0; initial value 0xFFFF, no final XOR. -/
def crc16 (n v : Nat) : Nat := (List.range n).foldl (fun c i => crc16Bit c (v.testBit (n - 1 - i))) 0xFFFF

end Sys2Proof.Machine
end

