-- ==== Sys2Proof/Machine/Maps.lean ====
section
/-! DEFINITION. The operations of the sparse map and of byte memory, each of which keeps the canonical form. -/

namespace Sys2Proof.Machine

/-- The value listed for a key, if any. -/
def lookupKey {α : Type} (k : Nat) : List (Nat × α) → Option α
  | [] => none
  | (j, v) :: r => if j = k then some v else lookupKey k r

/-- The list without the key's cell. -/
def eraseKey {α : Type} (k : Nat) : List (Nat × α) → List (Nat × α)
  | [] => []
  | (j, v) :: r => if j = k then r else (j, v) :: eraseKey k r

/-- The list with the key's cell put in its place of the rising order. -/
def insertKey {α : Type} (k : Nat) (v : α) : List (Nat × α) → List (Nat × α)
  | [] => [(k, v)]
  | (j, w) :: r =>
    if k < j then (k, v) :: (j, w) :: r
    else if j = k then (k, v) :: r
    else (j, w) :: insertKey k v r

/-- Every key of the list lies above `lo`, in strictly rising order. -/
def keysRise {α : Type} : Nat → List (Nat × α) → Bool
  | _, [] => true
  | lo, (k, _) :: r => decide (lo ≤ k) && keysRise (k + 1) r

/-- A constant map. -/
def gconst {α : Type} (d : α) : GMap α := ⟨d, []⟩

/-- The value at a key. -/
def gget {α : Type} (m : GMap α) (k : Nat) : α := (lookupKey k m.cells).getD m.dflt

/-- The map with a new value at one key. -/
def gset {α : Type} [DecidableEq α] (m : GMap α) (k : Nat) (v : α) : GMap α :=
  if v = m.dflt then ⟨m.dflt, eraseKey k m.cells⟩ else ⟨m.dflt, insertKey k v m.cells⟩

/-- The map with the value at one key changed by `f`. -/
def gmod {α : Type} [DecidableEq α] (m : GMap α) (k : Nat) (f : α → α) : GMap α := gset m k (f (gget m k))

/-- The map with every value changed: `f` at the listed keys and `f0` everywhere else. -/
def gmapWith {α β : Type} [DecidableEq β] (m : GMap α) (f : Nat → α → β) (f0 : α → β) : GMap β :=
  ⟨f0 m.dflt, (m.cells.map (fun c => (c.1, f c.1 c.2))).filter (fun c => decide (c.2 ≠ f0 m.dflt))⟩

/-- The map with every value changed by `f`. -/
def gmapAll {α β : Type} [DecidableEq β] (m : GMap α) (f : α → β) : GMap β := gmapWith m (fun _ => f) f

/-- Make sure a key is listed in the working form used while several keys are changed alike. -/
def gkeys {α : Type} (m : GMap α) : List Nat := m.cells.map (·.1)

/-- The map with the values at several keys changed by `f`. -/
def gmodKeys {α : Type} [DecidableEq α] (m : GMap α) (ks : List Nat) (f : Nat → α → α) : GMap α :=
  ks.foldl (fun m k => gmod m k (f k)) m

/-- The map with every value changed: by `f` at the listed keys and at the keys `ks`, and by `f0` everywhere else. -/
def gupdate {α : Type} [DecidableEq α] (m : GMap α) (ks : List Nat) (f : Nat → α → α) (f0 : α → α) : GMap α :=
  (gkeys m ++ ks).foldl (fun g k => gset g k (f k (gget m k))) (gconst (f0 m.dflt))

/-- The canonical form of a map. -/
def gwf {α : Type} [DecidableEq α] (m : GMap α) : Bool :=
  keysRise 0 m.cells && m.cells.all (fun c => decide (c.2 ≠ m.dflt))

/-- The byte at an address; an unlisted byte reads 0 (log 5). -/
def Memory.read (m : Mem) (a : Nat) : Byte := (lookupKey a m).getD 0#8

/-- The memory with one byte written. -/
def Memory.write (m : Mem) (a : Nat) (v : Byte) : Mem := if v = 0#8 then eraseKey a m else insertKey a v m

/-- The canonical form of a memory: rising addresses, no listed byte 0. -/
def Memory.wf (m : Mem) : Bool := keysRise 0 m && m.all (fun c => decide (c.2 ≠ 0#8))

/-- The `n` bytes from an address. -/
def Memory.readBytes (m : Mem) (a n : Nat) : List Byte := (List.range n).map (fun i => Memory.read m (a + i))

/-- The memory with a run of bytes written from an address. -/
def Memory.writeBytes (m : Mem) (a : Nat) : List Byte → Mem
  | [] => m
  | b :: bs => Memory.writeBytes (Memory.write m a b) (a + 1) bs

/-- The little-endian value of `n` bytes from an address. -/
def Memory.readLe (m : Mem) (a n : Nat) : Nat := leNat (Memory.readBytes m a n)

/-- The listed part of a memory between two addresses, rebased to 0. -/
def Memory.window (m : Mem) (lo len : Nat) : Mem :=
  (m.filter (fun c => decide (lo ≤ c.1) && decide (c.1 < lo + len))).map (fun c => (c.1 - lo, c.2))

/-- The memory with bytes `lo` to `lo + len - 1` replaced by a rebased part. -/
def Memory.putWindow (m : Mem) (lo len : Nat) (p : Mem) : Mem :=
  m.filter (fun c => decide (c.1 < lo)) ++
  (p.filter (fun c => decide (c.1 < len))).map (fun c => (lo + c.1, c.2)) ++
  m.filter (fun c => decide (lo + len ≤ c.1))

/-- The `n` little-endian words of `w` bytes from an address. -/
def Memory.words (W w : Nat) (m : Mem) (lo n : Nat) : GMap (BitVec W) :=
  (Memory.window m lo (n * w)).foldl
    (fun g c => gmod g (c.1 / w) (fun v => v ||| BitVec.ofNat W (c.2.toNat * 2 ^ (8 * (c.1 % w))))) (gconst 0)

end Sys2Proof.Machine
end

