-- ==== Sys2Proof/Machine/State.lean ====
section
/-! DEFINITION. The state of the CW4 as plain data, its faults and refusals, and the state after reset. INVENTORY.md, State,
lists every field with the rule that names it. -/

namespace Sys2Proof.Machine

/-- Why a step stops. -/
inductive Fault where
  /-- The command is no command of the table: a list operand has a length that no such command has (WellFormed refuses it).
  Raised by the meanings that take list operands. Safe: no such command exists. -/
  | malformedCommand
  deriving DecidableEq, Repr

/-- Why a command has no meaning here. -/
inductive Refusal where
  /-- The command has no meaning in this model yet. Raised by arms of exec only. Safe. -/
  | notModelled (mnemonic : String)
  deriving DecidableEq, Repr

/-- A message header (R124). -/
structure Hdr where
  dest   : Nat
  tag    : Nat
  vc     : Nat
  gen    : Nat
  epoch  : Bool
  f      : Bool
  fcount : Nat
  len    : Nat
  src    : Nat
  srcx   : Bool
  rly    : Bool
  deriving DecidableEq, Repr

/-- A loft-write header (R236). -/
structure LoftHdr where
  dest  : Nat
  runm1 : Nat
  kind  : Nat
  epoch : Bool
  brd   : Bool
  uaddr : Nat
  space : Nat
  len   : Nat
  ngen  : Nat
  ntf   : Bool
  src   : Nat
  tag   : Nat
  brand : Nat
  stream : Nat
  block  : Nat
  deriving DecidableEq, Repr

/-- A message or a loft write. -/
inductive Packet where
  | msg (h : Hdr) (payload : List Byte)
  | loft (h : LoftHdr) (payload : List Byte)
  deriving DecidableEq, Repr

/-- A router input that a packet's header has entered: the router's logical stall, the side it came from (0 east, 1 west, 2 south,
3 north, 4 injection) and, on VC1, whether the escape class was taken (R155). -/
structure Hop where
  router : Nat
  side   : Nat
  escape : Bool
  deriving DecidableEq, Repr

/-- What the destination has decided about a packet. -/
inductive Fate where
  | moving
  | landing
  | penned
  | dropped
  deriving DecidableEq, Repr

/-- A packet on the track (R151-R157): the inputs its header has entered in order, and for each flit the index of the input it
stands in. `refusals` counts the consecutive CRC refusals of the flit now crossing (R153); `waited` says that its wait for pen space
has been counted (R161). -/
structure TrackMsg where
  id       : Nat
  packet   : Packet
  epoch    : Bool
  vc       : Nat
  inbound  : Bool
  path     : List Hop
  pos      : List Nat
  refusals : Nat
  fate     : Fate
  waited   : Bool
  deriving DecidableEq, Repr

/-- An address generator (R44), counted in 64-byte units. -/
structure AddrGen where
  space : Nat
  base  : Int
  str0  : Int
  cnt0  : Nat
  str1  : Int
  cnt1  : Nat
  row   : Int
  addr  : Int
  i     : Nat
  j     : Nat
  deriving DecidableEq, Repr

/-- An entry of the loop stack (R47): first word and last word of the body, and iterations left after this one. -/
structure Loop where
  first : Nat
  last  : Nat
  left  : Nat
  deriving DecidableEq, Repr

/-- A message in a queue (R128). -/
structure QMsg where
  id       : Nat
  tag      : Nat
  payload  : List Byte
  len      : Nat
  complete : Bool
  deriving DecidableEq, Repr

/-- A combining slot (R136-R139): lane sums, contributions accepted and counted in the round, the tag of the last one counted, whether
it holds a completed sum, whether its release is under way, and the release message's number. -/
structure Slot where
  lanes     : GMap Int
  accepted  : Nat
  counted   : Nat
  tag       : Nat
  held      : Bool
  releasing : Bool
  relId     : Nat
  deriving DecidableEq, Repr

/-- A penned message (R161). -/
structure PenEntry where
  id      : Nat
  hdr     : Hdr
  payload : List Byte
  landed  : Bool
  deriving DecidableEq, Repr

/-- A relay copy waiting for injection, with the queue space of its original (R133-R135, R129). -/
structure RelayCopy where
  id       : Nat
  hdr      : Hdr
  payload  : List Byte
  queue    : Nat
  units    : Nat
  released : Bool
  deriving DecidableEq, Repr

/-- Where the message now landing from an ejection input goes. -/
inductive Landing where
  | queue (id q : Nat)
  | slot (id c : Nat)
  deriving DecidableEq, Repr

/-- A stall's slice-borne configuration (R213). -/
structure Cfg where
  store : GMap Word64
  tags  : GMap Word32
  conf  : GMap Word32
  mask  : Word32
  fout  : GMap Word32
  fin   : GMap Word32
  tdesc : GMap Word64
  freq  : Bool
  oregs : GMap Word32
  param : Mem
  deriving DecidableEq, Repr

/-- A cell of a long accumulator bank or of its check column (R79): the integer V in fixed-point mode, the FP32 bits in FP32 mode. -/
structure Cell where
  v     : Int
  nan   : Bool
  clamp : Bool
  deriving DecidableEq, Repr

/-- A long accumulator bank (R79). `undef` is the event that left its contents undefined (an abort or a stall fault), if any. -/
structure Bank where
  cells   : GMap Cell
  checks  : GMap Cell
  e       : Int
  fp32    : Bool
  inexact : Bool
  sat     : Bool
  nan     : Bool
  replays : Nat
  undef   : Option Nat
  deriving DecidableEq, Repr

/-- A Draft or Rake word accepted and not completed (R77, R110): its encoding and address, the replays of its execution, whether
it now saturates (R83), and the code segment an SDD read at acceptance (R108). -/
structure Job where
  word       : Word64
  pc         : Nat
  started    : Bool
  replays    : Nat
  saturating : Bool
  codes      : List Byte
  deriving DecidableEq, Repr

/-- The sequencer of a stall (R30-R32, R41-R44, R66, R67). `lost` and `lostNow` name the loss of state (R354), if any, since which the
sequencer has not run and since which the stall has not flipped. -/
structure Seq where
  pc         : Nat
  run        : Nat
  tag        : Nat
  queue      : Nat
  fcode      : Nat
  fpc        : Nat
  retired    : Nat
  dispatched : Nat
  last       : Nat
  sregs      : GMap Word32
  ags        : GMap AddrGen
  loops      : List Loop
  bound0     : Option Nat
  bound1     : Option Nat
  fin        : Bool
  cyc        : Nat
  dispCyc    : Option Nat
  lost       : Option Nat
  lostNow    : Option Nat
  deriving DecidableEq, Repr

/-- The queue unit of a stall (R127-R144, R158-R161). -/
structure QueueUnit where
  queues  : GMap (List QMsg)
  slots   : GMap Slot
  pen     : List PenEntry
  foutCnt : GMap Nat
  finCnt  : GMap Nat
  tallies : GMap Nat
  wmsgs   : GMap Nat
  wcycles : GMap Nat
  relays  : List RelayCopy
  ej      : GMap (List Nat)
  landing : GMap (Option Landing)
  notice  : Option (Hdr × List Byte)
  deriving DecidableEq, Repr

/-- The matrix engines of a stall. -/
structure Engines where
  banks   : GMap Bank
  dexec   : Option Job
  dwait   : Option Job
  rexec   : Option Job
  rwait   : Option Job
  ballast : Option (Nat × Nat)
  deriving DecidableEq, Repr

/-- The memory of a stall (R233): manger, lofts (the tack rack is the top of Loft C) and the brand words at 32 * SPACE + block
(R386). `undef` names the loft blocks whose contents are undefined (R486) and the event that made them so. -/
structure StallMem where
  manger : Mem
  loftA  : Mem
  loftB  : Mem
  loftC  : Mem
  brands : GMap Word32
  undef  : GMap (Option Nat)
  deriving DecidableEq, Repr

/-- A logical stall. -/
structure Stall where
  active : Cfg
  shadow : Cfg
  bank   : Bool
  seq    : Seq
  opened : Bool
  cg     : Nat
  qu     : QueueUnit
  pend   : Nat
  eng    : Engines
  mem    : StallMem
  deriving DecidableEq, Repr

/-- The first events of SHED.GCHK (R192). -/
structure GateCheck where
  drift    : Bool
  dstall   : Nat
  dtally   : Nat
  under    : Bool
  ustall   : Nat
  utally   : Nat
  leftopen : Bool
  gstall   : Nat
  gline    : Nat
  deriving DecidableEq, Repr

/-- A logical shed's registers (R25, R91, R92, R117, R121, R122, R143, R145, R150, R191, R192, R194, R410). -/
structure Shed where
  pscol     : Nat
  valid     : Bool
  absent    : Bool
  tolInx    : Nat
  tolF32    : Nat
  replays   : Nat
  sats      : Nat
  maskerr   : Nat
  predMode  : Nat
  predNow   : Nat
  made      : Nat
  seen      : Nat
  examined  : Nat
  progCount : Nat
  fired     : Bool
  cause     : Bool
  progStall : Nat
  gchk      : GateCheck
  phase     : Nat
  nopart    : Nat
  tsel      : Nat
  wsel      : Nat
  wtag      : GMap Word64
  wtagNow   : GMap Word64
  err       : Nat
  ecapCode  : Nat
  ecapStall : Nat
  ecapValid : Bool
  deriving DecidableEq, Repr

/-- A physical shed (R16, R362, R379, R380, R371, R429). -/
structure PShed where
  rcol     : GMap Nat
  unusable : Bool
  live     : Bool
  depth    : Nat
  proposed : Nat
  bduty    : Nat
  vetoed   : Bool
  wakeReq  : Bool
  waking   : Bool
  tfloor   : Int
  tloft    : Int
  tlim     : Nat
  hold     : Bool
  parked   : Bool
  openLatched : Bool
  sfail    : Nat
  lfail    : Nat
  dlim     : Nat
  droops   : Nat
  stretch  : Nat
  aging    : List (Nat × Nat × Nat)
  deriving DecidableEq, Repr

/-- What a route table version holds: plain X-then-Y tables or the detours of a set of dead yards (R163, R172), and the entries
written over that base, keyed by stall * 64 + destination yard. -/
structure RouteTable where
  dead    : List Nat
  entries : GMap (Option Byte)
  deriving DecidableEq, Repr

/-- A yard (R27, R28, R173-R176, R191, R260, R381, R342, R373). -/
structure Yard where
  lame      : Bool
  valid     : Bool
  exh       : Nat
  rcol      : GMap Nat
  cnt0      : Nat
  cnt1      : Nat
  retries   : Nat
  linkfail  : Bool
  ldir      : Nat
  psid      : Nat
  unreach   : Nat
  fmiss     : Nat
  penwait   : Nat
  rtrefuse  : Nat
  rtsel     : Nat
  phase     : Nat
  lwcnt     : Nat
  core      : Bool
  track     : Bool
  coretrip  : Bool
  tracktrip : Bool
  tcause    : Nat
  vrmt      : Nat
  corew     : Nat
  railLim   : Nat
  hot       : Bool
  deriving DecidableEq, Repr

/-- A car the device sends (R290-R293), in the clear. -/
structure TxCar where
  typ     : Nat
  lvc     : Nat
  enc     : Bool
  kp      : Bool
  w1      : Nat
  w2      : Nat
  w3      : Nat
  payload : List Byte
  deriving DecidableEq, Repr

/-- A stream context of a marshalling unit (R242, R243, R257). `tackBuf` holds what a MODE 2 stream has given the tack distributor (R244). -/
structure StreamCtx where
  desc     : GMap Word64
  st       : Nat
  gapseen  : Bool
  bfail    : Bool
  miss     : Bool
  ack      : Nat
  credit   : Nat
  rsrq     : Nat
  released : List Nat
  bfails   : GMap Nat
  reported : Nat
  overrun  : Option Nat
  tackBuf  : Mem
  deriving DecidableEq, Repr

/-- An assembly slot (R245): the cars of a block that are present. -/
structure ASlot where
  ctx   : Nat
  block : Nat
  cars  : GMap (Option (List Byte))
  brand : Nat
  ok    : Bool
  deriving DecidableEq, Repr

/-- The training of a port (R285-R287): rate under test, attempts made at it, lanes ready at it, the best rate, width and ready lanes so
far, and the attempts made at that rate. -/
structure Training where
  rate     : Nat
  attempts : Nat
  ready    : Nat
  best     : Option (Nat × Nat × Nat)
  bestTries : GMap Nat
  deriving DecidableEq, Repr

/-- The handshake of a port (R300, R301) and the rekey exchange (R303): step reached, chunks held, hellos, encapsulation key number and
key, ciphertext, and the hash so far. -/
structure Handshake where
  step    : Nat
  chunks  : GMap (Option (List Byte))
  count   : Nat
  devHello  : List Byte
  peerHello : List Byte
  kemNo   : Nat
  kex1    : List Byte
  secret  : List Byte
  h2      : List Byte
  h3      : List Byte
  deriving DecidableEq, Repr

/-- The session of a port (R295-R303): sequences, LCTL counters, credit given and taken, replay buffer, keys. `adv` counts are the
limits last advertised to the partner. -/
structure Session where
  rxExp     : Nat
  txNext    : Nat
  lctlTx    : Nat
  lctlRx    : Nat
  ackSeq    : Nat
  clim0     : Nat
  clim2     : Nat
  clim3     : Nat
  slim      : GMap Nat
  sent0     : Nat
  sent2     : Nat
  sent3     : Nat
  rcv0      : Nat
  rcv2      : Nat
  rcv3      : Nat
  srcv      : GMap Nat
  adv0      : Nat
  adv2      : Nat
  adv3      : Nat
  sadv      : GMap Nat
  replay    : List (Nat × TxCar)
  waiting   : List TxCar
  resent    : Nat
  epoch     : Nat
  txKey     : List Byte
  rxKey     : List Byte
  oldRxKey  : List Byte
  rxKp      : Bool
  txCars    : Nat
  rxCars    : Nat
  txLctls   : Nat
  rxLctls   : Nat
  deriving DecidableEq, Repr

/-- A request that the host-mode port has forwarded and that has no response yet (R309): its TID, the port it went out on, if there was
one, its W1 and its payload. -/
structure Bridged where
  tid     : Nat
  via     : Option Nat
  w1      : Nat
  payload : List Byte
  deriving DecidableEq, Repr

/-- A port (R313-R319) with its marshalling unit (R245-R258). -/
structure Port where
  en      : Bool
  maxrate : Nat
  minw    : Nat
  host    : Bool
  tsrc    : Bool
  tryint  : Nat
  st      : Nat
  rate    : Nat
  width   : Nat
  lanes   : Nat
  role    : Nat
  kp      : Bool
  fails   : Nat
  qcause  : Nat
  errAuth : Bool
  errBer  : Bool
  leftUp  : Bool
  crcfail : Nat
  gcmfail : Nat
  replays : Nat
  malform : Nat
  unauth  : Nat
  uncorr  : Nat
  retrains : Nat
  rekeys  : Nat
  peer    : Word64
  errbits : GMap Nat
  ready   : Nat
  pol     : Nat
  attempts : GMap Nat
  train   : Training
  hs      : Handshake
  sess    : Session
  master  : Bool
  gcmWin  : List Nat
  hsFails : List Nat
  frame   : Nat
  badMarks : Nat
  locked  : Bool
  bridged : List Bridged
  ctxs    : GMap StreamCtx
  slots   : List ASlot
  mctx    : Nat
  mcmd    : Nat
  merr    : Bool
  dupdrop : Nat
  overrun : Nat
  bfails  : Nat
  misses  : Nat
  outbox  : List Packet
  inbox   : List (Hdr × List Byte)
  sent    : List TxCar
  deriving DecidableEq, Repr

/-- A bucket context (R266-R279). `clean` says that its section ended cleanly (R269); `back`, `cars`, `brands`, `racc` and `rfails` are the
return of the running round: blocks verified, cars and brands of the others, the checksum so far, brand failures (R273). -/
structure Bucket where
  desc    : GMap Word64
  st      : Nat
  agreed  : Bool
  rounds  : Nat
  bound   : Bool
  gchk    : Bool
  gcause  : Nat
  halves  : List Nat
  sats    : Nat
  late    : Nat
  resends : Nat
  csum    : Nat
  asum    : Nat
  rsum    : Nat
  haveA   : Bool
  clean   : Bool
  back    : List Nat
  cars    : GMap (Option (List Byte))
  brands  : GMap Nat
  racc    : Nat
  rfails  : GMap Nat
  deriving DecidableEq, Repr

/-- A mailbox (R330-R334). -/
structure Mailbox where
  door    : Nat
  mask    : Nat
  postLo  : Word64
  postHi  : Word64
  queue   : List (Word64 × Word64)
  rxrdy   : Bool
  refused : Nat
  posted  : Nat
  deriving DecidableEq, Repr

/-- A command ring (R339). -/
structure Ring where
  en      : Bool
  sec     : Bool
  log2    : Nat
  cluster : Nat
  base    : Nat
  head    : Nat
  tail    : Nat
  stopped : Bool
  badhead : Nat
  deriving DecidableEq, Repr

/-- The MBX block (R340), and the SVC ring's write position and fill (R326). -/
structure MbxBlock where
  boxes   : GMap Mailbox
  rings   : GMap Ring
  prottop : Nat
  nsbase  : Nat
  nsblks  : Nat
  ibi     : Bool
  evt     : Bool
  hcluster : Nat
  svcBase : Nat
  svcSlots : Nat
  svcPos  : Nat
  svcFill : Nat
  drops   : Nat
  irqs    : List Nat
  deriving DecidableEq, Repr

/-- The DEV block (R443, R445, R461, R462, R312). -/
structure DevBlock where
  vcode     : Nat
  maxmhz    : Nat
  vok       : Bool
  maxkw     : Nat
  st        : Nat
  hcause    : Nat
  step      : Nat
  auto      : Bool
  hsrc      : Bool
  done      : Nat
  busy      : Bool
  bootErr   : Nat
  portsdown : Nat
  btime     : Nat
  resetRefused : Bool
  wall      : Nat
  srcport   : Nat
  locked    : Bool
  offset    : Int
  slew      : Int
  goodExch  : Nat
  reqT1     : Option Nat
  warmBusy  : Bool
  hostlerUp : Bool
  runStep   : Nat
  phase     : Nat
  deriving DecidableEq, Repr

/-- Fuses, kept over every reset (R412-R415, R441). The thermometers are held as their number of contiguous blown bits. -/
structure Fuses where
  serial    : Nat
  variant   : Nat
  idseed    : Nat
  arb       : GMap Nat
  rootrev   : Nat
  sheds     : GMap Nat
  yards     : GMap Nat
  mapOk     : Bool
  mapSheds  : GMap Nat
  mapYards  : GMap Nat
  deriving DecidableEq, Repr

/-- A record of the journal (R416, R417); the body is held as the fields that R417 lists, one number each. -/
structure SbRec where
  kind  : Nat
  snap  : Bool
  last  : Bool
  boots : Nat
  seq   : Nat
  wall  : Nat
  body  : List Nat
  deriving DecidableEq, Repr

/-- A unit on probation (R427), with the start times of its last counted passes, at most 8, oldest first. -/
structure Probation where
  unit   : FailUnit
  passes : List Nat
  deriving DecidableEq, Repr

/-- An operator key (R434): 0 never used, 1 active, 2 revoked. -/
structure OpKey where
  st    : Nat
  admin : Bool
  img   : Bool
  key   : List Byte
  deriving DecidableEq, Repr

/-- The answer that a Groom service owes once its record is committed (R438): mailbox, pointer, TYPE, and the record. -/
structure Due where
  box  : Nat
  ptr  : Nat
  typ  : Nat
  kind : Nat
  body : List Nat
  deriving DecidableEq, Repr

/-- The GRM block and the studbook (R411-R440, R463, R471). `energy` counts mJ and `mjSeen` is the PWR.ENERGY it has taken in; `tcNew` holds
the thermal cycles since the life counters were updated; `budget` is what the write budget leaves, in bytes (R423). -/
structure GrmBlock where
  idok     : Bool
  keymis   : Bool
  chainfail : Bool
  fwerr    : Bool
  fwslot   : Bool
  slotArb0 : Option Nat
  slotArb1 : Option Nat
  fwBuf    : List Byte
  lock     : Bool
  garb     : Nat
  harb     : Nat
  ready    : Bool
  onecopy  : Bool
  repair   : Bool
  throttled : Bool
  predict  : Bool
  badsect  : Nat
  erasemax : Nat
  wrkib    : Nat
  predret  : Bool
  poh      : Nat
  tcyc     : Nat
  energy   : Nat
  mjSeen   : Nat
  tcNew    : Nat
  tcPeak   : Int
  tcMin    : Int
  budget   : Nat
  due      : Option Due
  recs     : List SbRec
  queue    : List SbRec
  copyB    : Bool
  seq      : Nat
  boots    : Nat
  pendArb  : GMap Nat
  acquired : List FailUnit
  bad      : List FailUnit
  prob     : List Probation
  retireWait : List FailUnit
  keys     : GMap OpKey
  regseq   : Nat
  lungeArb : Nat
  fuseConflicts : Nat
  mgroom   : Nat
  mhostler : Nat
  mlunge   : Nat
  moper    : Nat
  operRuns : Nat
  deriving DecidableEq, Repr

/-- The PWR block and the power manager (R343-R361). `limit` and `gprev` are in hundredths of a watt, the smallest step of a slope in
10 us; `shoots` holds the times of the overshoots of the last 100 ms. -/
structure PwrBlock where
  capw     : Nat
  limit    : Nat
  up       : Nat
  down     : Nat
  level    : Nat
  lreq     : Bool
  pin      : Bool
  maxdepth : Nat
  pend     : Bool
  nslotm1  : Nat
  slotsrc  : Bool
  slot     : Nat
  slotw    : Nat
  tslot    : Nat
  stagt0   : Nat
  nextev   : Nat
  nextpw   : Nat
  alloc    : Bool
  unmet    : Bool
  veto     : Bool
  feeda    : Bool
  feedb    : Bool
  nAlloc   : Nat
  nRamp    : Nat
  target   : Nat
  inw      : Nat
  linkw    : Nat
  loftw    : Nat
  ballw    : Nat
  basew    : Nat
  overshoot : Nat
  vetoes   : Nat
  slopemiss : Nat
  fallback : Nat
  mj       : Nat
  uj       : Nat
  gprev    : Int
  shoots   : List Nat
  learning : Bool
  peak     : Nat
  learn    : GMap (Option (Nat × Nat × Nat))
  deriving DecidableEq, Repr

/-- The THM block (R377, R378). -/
structure ThmBlock where
  mhz      : Nat
  throttle : Nat
  hold     : Nat
  release  : Nat
  tmax     : Nat
  tyard    : Nat
  tshed    : Nat
  tripped  : Bool
  sensfail : Nat
  railsOff : Bool
  deriving DecidableEq, Repr

/-- The ERR block (R406-R409). -/
structure ErrBlock where
  sticky  : Nat
  secrec  : Nat
  lastrec : Nat
  alerten : Nat
  code    : Nat
  kind    : Nat
  loc     : Nat
  fvalid  : Bool
  firstt  : Nat
  cnt     : GMap Nat
  lyard   : Nat
  lshed   : Nat
  lscope  : Nat
  lstate  : Nat
  lrefused : Bool
  lstall  : Nat
  lwhole  : Bool
  lver    : Nat
  spscol  : Nat
  spsrow  : Nat
  spcol   : Nat
  sprow   : Nat
  deriving DecidableEq, Repr

/-- A place of the tack rack as the section controller and tack distributor keep it (R208, R210, R231, R437). -/
structure Place where
  st      : Nat
  rld     : Bool
  gen     : Nat
  cmderr  : Nat
  secid   : Word64
  source  : Word64
  predsec : Word64
  epsw    : Bool
  digest  : Nat
  rtd     : List Word64
  mrd     : List (Nat × Word64)
  pwr     : List (Nat × Nat × Nat × Nat × Nat)
  smap    : GMap Word64
  ranGen  : Option Nat
  rldFor  : List Nat
  rldRun  : Bool
  deriving DecidableEq, Repr

/-- The SEC block (R226-R231, R166). -/
structure SecBlock where
  cmd     : Nat
  cplace  : Nat
  cauto   : Bool
  loadsrc : Word64
  cg      : Nat
  held    : Bool
  auto    : Bool
  valid   : Bool
  outcome : Bool
  late    : Bool
  closeerr : Bool
  acause  : Nat
  rplace  : Nat
  runus   : Nat
  lastsec : Word64
  stale   : Nat
  afStall : Nat
  afReason : Nat
  places  : GMap Place
  inj     : Bool
  earm    : Bool
  eline   : Nat
  drained : Bool
  wantStart : Option Nat
  openOut : Bool
  arming  : Option Nat
  gphase  : Nat
  lateErr : Bool
  deriving DecidableEq, Repr

/-- The MARS block (R247, R259, R276-R280). -/
structure MarsBlock where
  verA    : GMap Word64
  verB    : GMap Word64
  refused : Nat
  lostv   : Bool
  lport   : Nat
  lctx    : Nat
  buckets : GMap Bucket
  bctx    : Nat
  bcmd    : Nat
  berr    : Bool
  deriving DecidableEq, Repr

/-- A change of the remap (R21, R24): a stall row of a physical shed or a shed row of a yard gets a retired column, or a yard is lame for
a row. -/
inductive RemapEdit where
  | stallRow (shed row col : Nat)
  | shedRow (yard row col : Nat)
  | lame (yard row : Nat)
  deriving DecidableEq, Repr

/-- A remap under way (R21-R23): the units it answers, its yard, its changes in order, the logical stalls that move, those whose racks are to
be reloaded, and those that lose their loft data. -/
structure RemapRun where
  units  : List FailUnit
  yard   : Nat
  edits  : List RemapEdit
  moved  : List Nat
  stalls : List Nat
  lost   : List Nat
  deriving DecidableEq, Repr

/-- The remap engine (R21-R23): the faults it has still to handle, in order, how many of them the next remap applies together, and the
remap that runs. -/
structure RemapEngine where
  faults  : List FailUnit
  batch   : Nat
  running : Option RemapRun
  deriving DecidableEq, Repr

/-- The lunge engine (R402): yard, logical shed and SCOPE of the running lunge, and when it started. -/
structure LungeEngine where
  running : Option (Nat × Nat × Nat)
  start   : Nat
  deriving DecidableEq, Repr

/-- The I3C target (R477, R478): its dynamic address, whether in-band interrupts are enabled, the mandatory byte of the last one raised, the
response not yet read, and the bytes it sent last. -/
structure I3c where
  addr    : Option (BitVec 7)
  ibiEn   : Bool
  ibi     : Option Nat
  unread  : Option (List Byte)
  out     : List Byte
  deriving DecidableEq, Repr

/-- The TAP (R479): the instruction in force (0 BYPASS, 1 IDCODE, 2 SAMPLE/PRELOAD, 3 EXTEST), the boundary-scan register and what is shifted out. -/
structure Tap where
  ir      : Nat
  bsr     : List Bool
  driving : Bool
  out     : Nat
  deriving DecidableEq, Repr

/-- The level of the input pins and of PWR_GOOD (R475). ALERT# and THERMTRIP# follow DEV.ALERT and THM.STATUS. -/
structure Pins where
  resetN  : Bool
  lshedN  : Bool
  pwrGood : Bool
  strap   : Nat
  deriving DecidableEq, Repr

/-- The answer to the last management transaction (R308): STATUS, register data or window bytes. The model's own place for it (log 20). -/
structure Resp where
  status : Nat
  data   : Word64
  bytes  : List Byte
  deriving DecidableEq, Repr

/-- The whole state: everything the spec gives the device, the free-value counter and the queue of commands. -/
structure State where
  dev     : DevBlock
  fuses   : Fuses
  grm     : GrmBlock
  pwr     : PwrBlock
  thm     : ThmBlock
  err     : ErrBlock
  sec     : SecBlock
  mbx     : MbxBlock
  mars    : MarsBlock
  ports   : GMap Port
  yards   : GMap Yard
  sheds   : GMap Shed
  psheds  : GMap PShed
  stalls  : GMap Stall
  routeA  : RouteTable
  routeB  : RouteTable
  track   : List TrackMsg
  nextId  : Nat
  rm      : RemapEngine
  lunge   : LungeEngine
  i3c     : I3c
  tap     : Tap
  pins    : Pins
  hmem    : Mem
  gwin    : Mem
  fresh   : Nat
  resp    : Resp
  pending : List Instr
  deriving DecidableEq, Repr

/-! The state after reset. Values that the spec does not state are named in log 13 and log 19. -/

/-- A scalar address generator as R42 leaves it: SPACE manger, BASE 0, STR0 1, CNT0 4,096, STR1 0, CNT1 4,096. -/
def AddrGen.atFlip : AddrGen := ⟨0, 0, 1, 4096, 0, 4096, 0, 0, 0, 0⟩

/-- A bank as the flip leaves it (R79): zero, fixed point, e = 0, statuses clear. -/
def Bank.zero : Bank := ⟨gconst ⟨0, false, false⟩, gconst ⟨0, false, false⟩, 0, false, false, false, false, 0, none⟩

/-- An empty combining slot (R140). -/
def Slot.empty : Slot := ⟨gconst 0, 0, 0, 0, false, false, 0⟩

/-- The configuration of an IDLE stall (R201): no tag in use, no queue, no slot, empty lists, RLINE 31. -/
def Cfg.idle : Cfg :=
  ⟨gconst 0, gconst 0, gconst 0, 0, gconst 0, gconst 0, gconst (BitVec.ofNat 64 (31 * 2 ^ 45)), false, gconst 0, []⟩

/-- The sequencer of a stall that has never been dispatched (log 19). -/
def Seq.start : Seq :=
  ⟨0, 0, 0, 0, 0, 0, 0, 0, 31, gconst 0, gconst AddrGen.atFlip, [], none, none, false, 0, none, none, none⟩

/-- An empty queue unit. -/
def QueueUnit.empty : QueueUnit :=
  ⟨gconst [], gconst Slot.empty, [], gconst 0, gconst 0, gconst 0, gconst 0, gconst 0, [], gconst [], gconst none, none⟩

/-- Idle engines with zero banks. -/
def Engines.idle : Engines := ⟨gconst Bank.zero, none, none, none, none, none⟩

/-- A stall after reset: closed, idle, memory reading 0 (logs 5, 19). -/
def Stall.atReset : Stall :=
  ⟨Cfg.idle, Cfg.idle, false, Seq.start, false, 0, QueueUnit.empty, 0, Engines.idle, ⟨[], [], [], [], gconst 0, gconst none⟩⟩

/-- A logical shed's registers after reset (R25, R91, R92, R117, R121, R122, R143, R145, R150, R191, R192, R194, R410). -/
def Shed.atReset : Shed :=
  ⟨0, false, false, 4, 8, 0, 0, 0, 0, 0, 0, 0, 0, 0, false, false, 0, ⟨false, 0, 0, false, 0, 0, false, 0, 0⟩, 0, 0, 0, 0,
   gconst 0, gconst 0, 0, 0, 0, false⟩

/-- A physical shed after reset (R26, R362, R379, R380). -/
def PShed.atReset : PShed :=
  ⟨gconst 31, false, false, 0, 0, 0, false, false, false, 0, 0, 16, false, false, false, 0, 0, 16, 0, 0, []⟩

/-- A yard after reset (R27, R28, R173-R176, R191, R260, R381). -/
def Yard.atReset : Yard :=
  ⟨false, false, 0, gconst 15, 0, 0, 0, false, 0, 0, 0, 0, 0, 0, 0, 0, 0, false, false, false, false, 0, 0, 0, 16, false⟩

/-- A stream context after reset (R256, R257). -/
def StreamCtx.atReset : StreamCtx := ⟨gconst 0, 0, false, false, false, 0, 0, 0, [], gconst 0, 0, none, []⟩

/-- No handshake under way. -/
def Handshake.idle : Handshake := ⟨0, gconst none, 0, [], [], 0, [], [], [], []⟩

/-- A session that has not begun: sequences at 0, every limit 0, nothing kept (R297, R298). -/
def Session.new : Session :=
  { rxExp := 0, txNext := 0, lctlTx := 0, lctlRx := 2 ^ 32 - 1, ackSeq := 0, clim0 := 0, clim2 := 0, clim3 := 0, slim := gconst 0,
    sent0 := 0, sent2 := 0, sent3 := 0, rcv0 := 0, rcv2 := 0, rcv3 := 0, srcv := gconst 0, adv0 := 0, adv2 := 0, adv3 := 0,
    sadv := gconst 0, replay := [], waiting := [], resent := 0, epoch := 0, txKey := [], rxKey := [], oldRxKey := [], rxKp := false,
    txCars := 0, rxCars := 0, txLctls := 0, rxLctls := 0 }

/-- A port after reset (R313-R319, R257, R258). -/
def Port.atReset : Port :=
  { en := true, maxrate := 0, minw := 0, host := false, tsrc := true, tryint := 0, st := 1, rate := 0, width := 0, lanes := 0,
    role := 0, kp := false, fails := 0, qcause := 0, errAuth := false, errBer := false, leftUp := false, crcfail := 0,
    gcmfail := 0, replays := 0, malform := 0, unauth := 0, uncorr := 0, retrains := 0, rekeys := 0, peer := 0,
    errbits := gconst 0, ready := 0, pol := 0, attempts := gconst 0, train := ⟨0, 0, 0, none, gconst 0⟩, hs := Handshake.idle,
    sess := Session.new, master := false, gcmWin := [], hsFails := [], frame := 0, badMarks := 0, locked := false, bridged := [],
    ctxs := gconst StreamCtx.atReset, slots := [], mctx := 0, mcmd := 0, merr := false, dupdrop := 0, overrun := 0, bfails := 0,
    misses := 0, outbox := [], inbox := [], sent := [] }

/-- A bucket context after reset (R276-R279). -/
def Bucket.atReset : Bucket :=
  { desc := gconst 0, st := 0, agreed := false, rounds := 0, bound := false, gchk := false, gcause := 0, halves := [], sats := 0,
    late := 0, resends := 0, csum := 0, asum := 0, rsum := 0, haveA := false, clean := false, back := [],
    cars := gconst none, brands := gconst 0, racc := 0, rfails := gconst 0 }

/-- A mailbox after cold reset (R334). -/
def Mailbox.atReset : Mailbox := ⟨0, 2 ^ 32 - 1, 0, 0, [], false, 0, 0⟩

/-- A command ring after reset (R339). -/
def Ring.atReset : Ring := ⟨false, true, 16, 0, 0, 0, 0, false, 0⟩

/-- The MBX block after cold reset (R334, R339, R340). -/
def MbxBlock.atReset : MbxBlock :=
  ⟨gconst Mailbox.atReset, gconst Ring.atReset, 0x2000, 0, 0, true, false, 0, 0, 0, 0, 0, 0, []⟩

/-- A place after reset: EMPTY (R231). -/
def Place.atReset : Place := ⟨0, false, 0, 0, 0, 0, 0, false, 0, [], [], [], gconst 0, none, [], false⟩

/-- The SEC block after reset (R226-R231, R166). -/
def SecBlock.atReset : SecBlock :=
  { cmd := 0, cplace := 0, cauto := false, loadsrc := 0, cg := 0, held := false, auto := false, 
    valid := false, outcome := false, late := false, closeerr := false, acause := 0, rplace := 0, runus := 0, lastsec := 0,
    stale := 0, afStall := 0, afReason := 0, places := gconst Place.atReset, inj := false, earm := false, eline := 15,
    drained := true, wantStart := none, openOut := false, arming := none, gphase := 0, lateErr := false }

/-- The DEV block after cold reset: BOOT, the lowest variant until the Groom has read the fuses (R443, R445, R461, R462, R312). -/
def DevBlock.atReset : DevBlock :=
  { vcode := 3, maxmhz := 800, vok := false, maxkw := 18, st := 1, hcause := 0, step := 0, auto := false, hsrc := false, done := 0,
    busy := false, bootErr := 0, portsdown := 0, btime := 0, resetRefused := false, wall := 0, srcport := 255, locked := false,
    offset := 0, slew := 0, goodExch := 0, reqT1 := none, warmBusy := false, hostlerUp := false, runStep := 0, phase := 0 }

/-- The PWR block after cold reset under a fused maximum power in W (R359-R361). -/
def PwrBlock.atReset (maxW : Nat) : PwrBlock :=
  { capw := maxW, limit := 100 * maxW, up := 0x28, down := 0x28, level := 0x1F40, lreq := false, pin := false, maxdepth := 4,
    pend := false, nslotm1 := 0, slotsrc := false, slot := 0, slotw := 0, tslot := 0, stagt0 := 0, nextev := 0, nextpw := 0,
    alloc := false, unmet := false, veto := false, feeda := true, feedb := true, nAlloc := 16, nRamp := 16, target := 0, inw := 0,
    linkw := 0, loftw := 0, ballw := 0, basew := 0, overshoot := 0, vetoes := 0, slopemiss := 0, fallback := 0, mj := 0, uj := 0,
    gprev := 0, shoots := [], learning := false, peak := 0, learn := gconst none }

/-- The THM block after cold reset under a fused maximum shed clock (R377, R378). -/
def ThmBlock.atReset (maxMhz : Nat) : ThmBlock := ⟨maxMhz, 0x5F, 0x66, 0x5A, 0, 0, 0, false, 0, false⟩

/-- The ERR block after cold reset (R406-R409). -/
def ErrBlock.atReset : ErrBlock :=
  { sticky := 0, secrec := 0, lastrec := 0, alerten := 0x1475DF, code := 0, kind := 0, loc := 0, fvalid := false, firstt := 0,
    cnt := gconst 0, lyard := 0, lshed := 0, lscope := 0, lstate := 0, lrefused := false, lstall := 0, lwhole := false, lver := 0,
    spscol := 0, spsrow := 0, spcol := 0, sprow := 0 }

/-- The MARS block after cold reset (R259, R276-R280). -/
def MarsBlock.atReset : MarsBlock := ⟨gconst 0, gconst 0, 0, false, 0, 0, gconst Bucket.atReset, 0, 0, false⟩

/-- The fuses of the modelled module (log 13): a sound CLW4-B26 with serial 1, no factory defect and no anti-rollback bit blown. -/
def Fuses.sound : Fuses :=
  { serial := 1, variant := 0x01A3AC02 + 2 ^ 32 * crc16 32 0x01A3AC02, idseed := 0, arb := gconst 0, rootrev := 0,
    sheds := gconst (2 ^ 80 + 2 ^ 112 * crc16 112 (2 ^ 80)), yards := gconst (2 ^ 80 * crc16 80 0), mapOk := true,
    mapSheds := gconst (2 ^ 80), mapYards := gconst 0 }

/-- The GRM block and the studbook of a module that has recorded nothing yet (R439, R440, R463, R471; log 13). -/
def GrmBlock.atReset : GrmBlock :=
  { idok := false, keymis := false, chainfail := false, fwerr := false, fwslot := false, slotArb0 := none, slotArb1 := none,
    fwBuf := [], lock := false, garb := 0, harb := 0, ready := false, onecopy := false, repair := false, throttled := false,
    predict := false, badsect := 0, erasemax := 0, wrkib := 0, predret := true, poh := 0, tcyc := 0, energy := 0, mjSeen := 0, tcNew := 0,
    tcPeak := 0, tcMin := 0, budget := 2 ^ 26, due := none, recs := [], queue := [], copyB := false, seq := 0, boots := 0, pendArb := gconst 0, acquired := [], bad := [],
    prob := [], retireWait := [], keys := gconst ⟨0, false, false, []⟩, regseq := 0, lungeArb := 0, fuseConflicts := 0,
    mgroom := 0, mhostler := 0, mlunge := 0, moper := 0, operRuns := 0 }

/-- The device right after a cold reset, with both feeds present and an empty queue. -/
def State.reset : State :=
  { dev := DevBlock.atReset, fuses := Fuses.sound, grm := GrmBlock.atReset, pwr := PwrBlock.atReset 18000,
    thm := ThmBlock.atReset 800, err := ErrBlock.atReset, sec := SecBlock.atReset, mbx := MbxBlock.atReset,
    mars := MarsBlock.atReset, ports := gconst Port.atReset, yards := gconst Yard.atReset, sheds := gconst Shed.atReset,
    psheds := gconst PShed.atReset, stalls := gconst Stall.atReset, routeA := ⟨[], gconst none⟩, routeB := ⟨[], gconst none⟩,
    track := [], nextId := 1, rm := ⟨[], 1, none⟩, lunge := ⟨none, 0⟩, i3c := ⟨none, false, none, none, []⟩,
    tap := ⟨1, [], false, 0⟩, pins := ⟨true, true, false, 0⟩, hmem := [], gwin := [], fresh := 0, resp := ⟨0, 0, []⟩,
    pending := [] }

end Sys2Proof.Machine
end

