-- ==== Sys2Proof/Machine/Ops.lean ====
section
/-! DEFINITION. The shared operations: grid arithmetic (R4, R14, R16, R17), access to the parts of the state, free values,
interrupts and doorbells (R331), the journal (R417) and error records (R391-R394). -/

namespace Sys2Proof.Machine

/-! Grid arithmetic. -/

/-- X of a stall ID (R4). -/
def xOf (sid : Nat) : Nat := sid % 1024
/-- Y of a stall ID (R4). -/
def yOf (sid : Nat) : Nat := sid / 1024 % 1024
/-- Yard of a stall (R4). -/
def yardOf (sid : Nat) : Nat := yOf sid / 128 * 8 + xOf sid / 128
/-- Logical shed within its yard (R4). -/
def shedInYard (sid : Nat) : Nat := yOf sid % 128 / 16 * 8 + xOf sid % 128 / 16
/-- Stall within its shed, numbered as in SHED.WSEL (R145). -/
def stallInShed (sid : Nat) : Nat := yOf sid % 16 * 16 + xOf sid % 16
/-- Key of a logical shed: yard * 64 + shed. -/
def shedKey (yard shed : Nat) : Nat := yard * 64 + shed
/-- Key of a stall's logical shed. -/
def shedOf (sid : Nat) : Nat := shedKey (yardOf sid) (shedInYard sid)
/-- The stall ID of stall `n` of a logical shed (inverse of `shedOf` and `stallInShed`). -/
def sidOf (k n : Nat) : Nat :=
  let yard := k / 64; let shed := k % 64
  let x := yard % 8 * 128 + shed % 8 * 16 + n % 16
  let y := yard / 8 * 128 + shed / 8 * 16 + n / 16
  y * 1024 + x

/-- Where a logical column stands when `rcol` is retired (R16); `none` is coded as a column that no logical column reaches. -/
def place (c rcol : Nat) : Nat := if c < rcol then c else c + 1

/-- The physical stall's shed row and shed column arithmetic (R14): physical shed number of a physical stall. -/
def pshedOfPhys (p : Nat) : Nat :=
  let px := p % 1224; let py := p / 1224
  (py / 128 * 8 + px / 153) * 72 + py % 128 / 16 * 9 + px % 153 / 17
/-- Stall row in its physical shed. -/
def prowOf (p : Nat) : Nat := p / 1224 % 16
/-- Stall column in its physical shed. -/
def pcolOf (p : Nat) : Nat := p % 1224 % 153 % 17
/-- The physical stall at a row and column of a physical shed. -/
def physOf (n row col : Nat) : Nat :=
  let yard := n / 72; let srow := n % 72 / 9; let scol := n % 9
  let px := yard % 8 * 153 + scol * 17 + col
  let py := yard / 8 * 128 + srow * 16 + row
  py * 1224 + px

/-! Access to the parts of the state. -/

/-- A stall. -/
def State.stall (s : State) (sid : Nat) : Stall := gget s.stalls sid
/-- A logical shed by its key. -/
def State.shed (s : State) (k : Nat) : Shed := gget s.sheds k
/-- A yard. -/
def State.yard (s : State) (y : Nat) : Yard := gget s.yards y
/-- A physical shed. -/
def State.pshed (s : State) (n : Nat) : PShed := gget s.psheds n
/-- A port. -/
def State.port (s : State) (p : Nat) : Port := gget s.ports p
/-- A place of the tack rack. -/
def State.place (s : State) (p : Nat) : Place := gget s.sec.places p
/-- A bucket context. -/
def State.bucket (s : State) (c : Nat) : Bucket := gget s.mars.buckets c
/-- A mailbox. -/
def State.box (s : State) (n : Nat) : Mailbox := gget s.mbx.boxes n

/-- Change one stall. -/
def modStall (s : State) (sid : Nat) (f : Stall → Stall) : State := { s with stalls := gmod s.stalls sid f }
/-- Change one logical shed. -/
def modShed (s : State) (k : Nat) (f : Shed → Shed) : State := { s with sheds := gmod s.sheds k f }
/-- Change one yard. -/
def modYard (s : State) (y : Nat) (f : Yard → Yard) : State := { s with yards := gmod s.yards y f }
/-- Change one physical shed. -/
def modPShed (s : State) (n : Nat) (f : PShed → PShed) : State := { s with psheds := gmod s.psheds n f }
/-- Change one port. -/
def modPort (s : State) (p : Nat) (f : Port → Port) : State := { s with ports := gmod s.ports p f }
/-- Change one place. -/
def modPlace (s : State) (p : Nat) (f : Place → Place) : State :=
  { s with sec := { s.sec with places := gmod s.sec.places p f } }
/-- Change one bucket context. -/
def modBucket (s : State) (c : Nat) (f : Bucket → Bucket) : State :=
  { s with mars := { s.mars with buckets := gmod s.mars.buckets c f } }
/-- Change one mailbox. -/
def modBox (s : State) (n : Nat) (f : Mailbox → Mailbox) : State :=
  { s with mbx := { s.mbx with boxes := gmod s.mbx.boxes n f } }
/-- Change one command ring. -/
def modRing (s : State) (r : Nat) (f : Ring → Ring) : State :=
  { s with mbx := { s.mbx with rings := gmod s.mbx.rings r f } }
/-- Change the stream context of a port. -/
def modCtx (s : State) (p c : Nat) (f : StreamCtx → StreamCtx) : State :=
  modPort s p fun q => { q with ctxs := gmod q.ctxs c f }

/-- Change the sequencer of a stall. -/
def modSeq (s : State) (sid : Nat) (f : Seq → Seq) : State := modStall s sid fun t => { t with seq := f t.seq }
/-- Change the queue unit of a stall. -/
def modQu (s : State) (sid : Nat) (f : QueueUnit → QueueUnit) : State := modStall s sid fun t => { t with qu := f t.qu }
/-- Change the engines of a stall. -/
def modEng (s : State) (sid : Nat) (f : Engines → Engines) : State := modStall s sid fun t => { t with eng := f t.eng }
/-- Change the memory of a stall. -/
def modMem (s : State) (sid : Nat) (f : StallMem → StallMem) : State := modStall s sid fun t => { t with mem := f t.mem }

/-- The next free-value index; the counter advances. -/
def takeFresh (s : State) : Nat × State := (s.fresh, { s with fresh := s.fresh + 1 })

/-! Where logical units stand. -/

/-- The physical shed that presents a logical shed (R17). -/
def pshedOf (s : State) (k : Nat) : Nat :=
  let yard := k / 64; let row := k % 64 / 8
  yard * 72 + row * 9 + place (k % 8) (gget (s.yard yard).rcol row)

/-- The physical stall that presents a logical stall (R17). -/
def physStall (s : State) (sid : Nat) : Nat :=
  let n := pshedOf s (shedOf sid)
  let row := stallInShed sid / 16
  physOf n row (place (stallInShed sid % 16) (gget (s.pshed n).rcol row))

/-- The logical shed that a physical shed presents, if any. -/
def logicalShed (s : State) (n : Nat) : Option Nat :=
  let yard := n / 72; let row := n % 72 / 9; let c := n % 9
  let r := gget (s.yard yard).rcol row
  if c = r then none
  else
    let l := if c < r then c else c - 1
    if l < 8 then some (yard * 64 + row * 8 + l) else none

/-- The logical stall that a physical stall presents, if any. -/
def logicalStall (s : State) (p : Nat) : Option Nat :=
  let n := pshedOfPhys p
  match logicalShed s n with
  | none => none
  | some k =>
    let r := gget (s.pshed n).rcol (prowOf p)
    let c := pcolOf p
    if c = r then none
    else
      let l := if c < r then c else c - 1
      if l < 16 then some (sidOf k (prowOf p * 16 + l)) else none

/-- A logical shed cannot run stalls (R25). -/
def shedAbsent (s : State) (k : Nat) : Bool := (s.shed k).absent || (s.yard (k / 64)).lame

/-- The idle depth of the physical shed under a logical shed (R350). -/
def shedDepth (s : State) (k : Nat) : Nat := (s.pshed (pshedOf s k)).depth

/-- The keys of the logical sheds of a yard. -/
def shedsOfYard (y : Nat) : List Nat := (List.range 64).map (fun k => y * 64 + k)

/-- How many stalls belong to sheds that are not ABSENT. -/
def presentStalls (s : State) : Nat :=
  let absent := (List.range 4096).filter (fun k => shedAbsent s k)
  (4096 - absent.length) * 256

/-- Every stall of the sheds that are not ABSENT satisfies `p`: the listed ones one by one, and the unlisted ones, which are all
alike, once. -/
def allPresent (s : State) (p : Nat → Stall → Bool) : Bool :=
  let listed := s.stalls.cells.filter (fun c => decide (c.1 < 1048576) && !shedAbsent s (shedOf c.1))
  listed.all (fun c => p c.1 c.2) && (decide (listed.length = presentStalls s) || p 1048576 s.stalls.dflt)

/-- Every stall of a logical shed satisfies `p`. -/
def allInShed (s : State) (k : Nat) (p : Stall → Bool) : Bool :=
  (List.range 256).all (fun n => p (s.stall (sidOf k n)))

/-- Some stall of a logical shed satisfies `p`. -/
def anyInShed (s : State) (k : Nat) (p : Stall → Bool) : Bool := !allInShed s k (fun t => !p t)

/-! The place that runs, and the like (R228). -/

/-- The place in one of the given states, if any. -/
def placeIn (s : State) (sts : List Nat) : Option Nat := (List.range 7).find? (fun p => sts.contains (s.place p).st)
/-- The RUNNING place. -/
def runningPlace (s : State) : Option Nat := placeIn s [4]
/-- The place RUNNING or ABORTING. -/
def activePlace (s : State) : Option Nat := placeIn s [4, 6]
/-- The ARMED place. -/
def armedPlace (s : State) : Option Nat := placeIn s [3]

/-- The stall map entry of a stall in a place (R198). -/
def mapEntry (s : State) (p sid : Nat) : Nat := (gget (s.place p).smap sid).toNat
/-- IDLE of a stall's map entry. -/
def mapIdle (s : State) (p sid : Nat) : Bool := bitOf (mapEntry s p sid) 16

/-- Some stall of a shed has IDLE = 0 in a place's stall map (R355). -/
def anyBusy (s : State) (p k : Nat) : Bool := (List.range 256).any (fun n => !mapIdle s p (sidOf k n))

/-! Interrupts, doorbells, journal, error records. -/

/-- Interrupt a Hostler cluster (0-3) or the Groom (4) (R331). -/
def raiseIrq (s : State) (c : Nat) : State := { s with mbx := { s.mbx with irqs := s.mbx.irqs ++ [c] } }

/-- The calling bits of a mailbox: DOOR and not MASK (R331). -/
def Mailbox.calling (b : Mailbox) : Nat := b.door &&& (b.mask ^^^ 0xFFFFFFFF)

/-- Call the receiver of mailboxes 0, 2, 4, 6, 8 and 9 when a doorbell bit newly calls (R331). -/
def callCore (s : State) (n old : Nat) : State :=
  let new := (s.box n).calling
  if new &&& (old ^^^ 0xFFFFFFFF) = 0 then s
  else if n = 2 ∨ n = 6 ∨ n = 9 then raiseIrq s s.mbx.hcluster
  else if n = 0 ∨ n = 4 ∨ n = 8 then raiseIrq s 4
  else s

/-- Set doorbell bits of a mailbox whose receiver is inside the device. -/
def ringCore (s : State) (n bits : Nat) : State :=
  let old := (s.box n).calling
  callCore (modBox s n fun b => { b with door := b.door ||| bits }) n old

/-- An ERROR record that waits for a record of the same code takes it in (R417). -/
def coalesce (r : SbRec) : List SbRec → Option (List SbRec)
  | [] => none
  | q :: qs =>
    if q.kind = 8 ∧ q.body.head? = r.body.head? then
      some ({ r with body := r.body.dropLast ++ [q.body.getLastD 0 + r.body.getLastD 0] } :: qs)
    else (coalesce r qs).map (q :: ·)

/-- Hand a journal record to the Groom, which commits it in its turn (R419). -/
def journal (s : State) (kind : Nat) (body : List Nat) : State :=
  let r : SbRec := { kind := kind, snap := false, last := false, boots := s.grm.boots, seq := 0, wall := s.dev.wall, body := body }
  let q := if kind = 8 then (coalesce r s.grm.queue).getD (s.grm.queue ++ [r]) else s.grm.queue ++ [r]
  { s with grm := { s.grm with queue := q } }

/-- The unit an error is recorded against (R393). -/
inductive Src where
  | stall (sid : Nat)
  | shed (k : Nat)
  | yard (y : Nat)
  | port (p : Nat)
  | ring (src : Nat)
  | device
  deriving DecidableEq, Repr

/-- KIND and LOC of a recording unit (R393). -/
def Src.kind : Src → Nat
  | .stall _ => 0 | .shed _ => 1 | .yard _ => 2 | .port _ => 3 | .ring _ => 4 | .device => 5
/-- LOC of a recording unit (R393). -/
def Src.loc : Src → Nat
  | .stall sid => sid | .shed k => k | .yard y => y | .port p => p | .ring r => r | .device => 0

/-- Set a code in SHED.ERR of the sheds a record counts against, and capture it in SHED.ECAP (R392, R410). -/
def markSheds (s : State) (code : Nat) : Src → State
  | .stall sid => modShed s (shedOf sid) fun h =>
      let h := { h with err := h.err ||| 2 ^ code }
      if h.ecapValid then h else { h with ecapCode := code, ecapStall := stallInShed sid, ecapValid := true }
  | .shed k => modShed s k fun h => { h with err := h.err ||| 2 ^ code }
  | .yard y => { s with sheds := gmodKeys s.sheds (shedsOfYard y) (fun _ h => { h with err := h.err ||| 2 ^ code }) }
  | .port _ => s
  | .ring _ => s
  | .device => s

/-- The parts of an error record that lie in the ERR block (R392, R393). -/
def ErrBlock.record (e : ErrBlock) (code : Nat) (src : Src) (enters : Bool) (wall : Nat) : ErrBlock :=
  let e := { e with sticky := e.sticky ||| 2 ^ code, cnt := gmod e.cnt code (fun n => satAdd 16 n 1) }
  let e := if enters then { e with secrec := e.secrec ||| 2 ^ code } else e
  if e.fvalid then e
  else { e with code := code, kind := src.kind, loc := src.loc, fvalid := true, firstt := wall }

/-- Make an error record (R391-R394). `enters` is false for the records that R392 keeps out of ERR.SECREC; a record made while no
section is RUNNING or ABORTING stays out of it too. A bit of ERR.STICKY that goes from 0 to 1 is journalled, and when ERR.ALERTEN enables it the Groom is interrupted and doorbell 0 of mailbox 9 is rung. -/
def recordWith (s : State) (code : Nat) (src : Src) (enters : Bool) : State :=
  let newly := !bitOf s.err.sticky code
  let captured := !s.err.fvalid
  let s := { s with err := s.err.record code src (enters && (activePlace s).isSome) s.dev.wall }
  let s := markSheds s code src
  if newly then
    let s := journal s 8 [code, b2n captured, src.kind, src.loc, 1]
    if bitOf s.err.alerten code then ringCore (raiseIrq s 4) 9 1 else s
  else s

/-- An error record that enters ERR.SECREC unless R392 names it: BRAND_FAIL and PARITY of a marshalling unit, a bucket engine or
Hostler memory (KIND 3 and 4), and GRAD_CHECK. -/
def record (s : State) (code : Nat) (src : Src) : State :=
  let inRing := src.kind = 3 ∨ src.kind = 4
  recordWith s code src (!(decide ((code = 1 ∨ code = 2) ∧ inRing) || decide (code = 14)))

/-- The class R and class F codes of R391. -/
def recoveryCodes : Nat := 0x1475DF

/-- An error that calls for recovery stands in ERR.SECREC (R391). -/
def needsRecovery (s : State) : Bool := decide (s.err.secrec &&& recoveryCodes ≠ 0)

/-- Increment SEC.STALE and record STALE_DROP against a stall (R214, R217). -/
def staleDrop (s : State) (sid : Nat) : State :=
  let s := record s 9 (.stall sid)
  { s with sec := { s.sec with stale := satAdd 32 s.sec.stale 1 } }

end Sys2Proof.Machine
end

