-- ==== Sys2Proof/Machine/Link.lean ====
section
/-! DEFINITION. The sending side of a port (R292-R299): credits, the replay buffer, control records, and leaving UP. -/

namespace Sys2Proof.Machine

/-- A count of cars lies below a credit limit, both modulo 2^16 (R295, R297). -/
def creditLeft (sent lim : Nat) : Bool :=
  let d := (lim % 65536 + 65536 - sent % 65536) % 65536
  decide (0 < d) && decide (d < 32768)

/-- A sequenced car may go now on its link VC (R297): room in the replay buffer, credit, and keys that may still send (R303). -/
def Session.canSend (e : Session) (c : TxCar) : Bool :=
  decide (e.replay.length < 512) && decide (e.txCars < 2 ^ 32 - 1024) &&
  (match c.lvc with
   | 0 => creditLeft e.sent0 e.clim0
   | 2 => creditLeft e.sent2 e.clim2
   | 3 => creditLeft e.sent3 e.clim3
   | _ => false)

/-- A sequenced car is first sent: it takes its number, a credit and a place in the replay buffer (R297-R299). -/
def Session.take (e : Session) (c : TxCar) (kp : Bool) : Session :=
  let e := { e with replay := e.replay ++ [(e.txNext, { c with kp := kp })], txNext := (e.txNext + 1) % 2 ^ 32, txCars := e.txCars + 1 }
  match c.lvc with
  | 0 => { e with sent0 := e.sent0 + 1 }
  | 2 => { e with sent2 := e.sent2 + 1 }
  | _ => { e with sent3 := e.sent3 + 1 }

/-- A BOPEN or BCLOSE, which follows the gradient cars before it (R270, R294). -/
def TxCar.followsGradient (c : TxCar) : Bool := decide (c.typ = 4) && (c.payload.head? = some 0x11#8 || c.payload.head? = some 0x13#8)

/-- Send every waiting car that may go; a car that may not holds the later cars of its own link VC only (R297). -/
def Session.pump (kp : Bool) : List TxCar → List Nat → Session → Session × List TxCar
  | [], _, e => (e, [])
  | c :: cs, blocked, e =>
    if c.followsGradient && blocked.contains 2 then
      let r := Session.pump kp cs blocked e
      (r.1, c :: r.2)
    else if !blocked.contains c.lvc && e.canSend c then Session.pump kp cs blocked (e.take c kp)
    else
      let r := Session.pump kp cs (c.lvc :: blocked) e
      (r.1, c :: r.2)

/-- The port sends what it can while it is UP. -/
def Port.pump (q : Port) : Port :=
  if q.st = 4 then
    let r := Session.pump q.kp q.sess.waiting [] q.sess
    { q with sess := { r.1 with waiting := r.2 } }
  else q

/-- Hand a sequenced car to a port. A port outside UP and RETRAIN has no session, and the car is not sent. -/
def sendCar (s : State) (p : Nat) (c : TxCar) : State :=
  modPort s p fun q =>
    if q.st = 4 ∨ q.st = 5 then { q with sess := { q.sess with waiting := q.sess.waiting ++ [c] } }.pump else q

/-- Put an unsequenced car (LCTL, HELLO and KEX of AUTH) on the link. -/
def sendPlain (s : State) (p : Nat) (c : TxCar) : State := modPort s p fun q => { q with sent := q.sent ++ [c] }

/-- A car of a type, link VC and payload with type-specific words (R291-R293). -/
def mkCar (typ lvc w1 w2 w3 : Nat) (payload : List Byte) : TxCar := ⟨typ, lvc, true, false, w1, w2, w3, padTo 256 payload⟩

/-- One control record in an SCTL car (R294). -/
def sctlRecord (kind id a0 a1 a2 : Nat) : List Byte :=
  leBytes 1 kind ++ leBytes 3 0 ++ leBytes 4 id ++ leBytes 8 a0 ++ leBytes 8 a1 ++ leBytes 8 a2

/-- Send an SCTL car with one record; the other records are padding (R294). -/
def sendSctl (s : State) (p kind id a0 a1 a2 : Nat) : State := sendCar s p (mkCar 4 0 0 0 0 (sctlRecord kind id a0 a1 a2))

/-- Record LINK_AUTH against a port (R316). -/
def linkAuth (s : State) (p : Nat) : State := record (modPort s p fun q => { q with errAuth := true }) 16 (.port p)
/-- Record LINK_BER against a port (R316). -/
def linkBer (s : State) (p : Nat) : State := record (modPort s p fun q => { q with errBer := true }) 17 (.port p)

/-- Everything of a session is discarded when a port goes DOWN, DISABLED or QUARANTINED (R288, R299). -/
def Port.endSession (q : Port) (st : Nat) : Port :=
  { q with st := st, leftUp := q.leftUp || decide (q.st = 4), sess := Session.new, hs := Handshake.idle, role := 0, master := false,
           rate := 0, width := 0, lanes := 0, kp := false, bridged := [], gcmWin := [] }

/-- A port enters RETRAIN (R289): session, sequence and replay state are kept. -/
def Port.toRetrain (q : Port) : Port :=
  { q with st := 5, leftUp := true, retrains := satAdd 16 q.retrains 1,
           train := ⟨q.maxrate, 0, 0, none, gconst 0⟩, attempts := gconst 0, ready := 0 }

/-! The source port of the wall counter (R310, R311). -/

/-- The lowest-numbered UP port with TSRC whose partner marks MASTER; 255 for none. -/
def pickSource (s : State) : Nat :=
  match (List.range 144).find? (fun p => let q := s.port p; decide (q.st = 4) && q.tsrc && q.master) with
  | some p => p
  | none => 255

/-- Bring DEV.TSYNC.SRCPORT up to date. -/
def fixSource (s : State) : State := { s with dev := { s.dev with srcport := pickSource s } }

/-- Change the state of a port in a way that may take it out of UP. -/
def portState (s : State) (p : Nat) (f : Port → Port) : State := fixSource (modPort s p f)

/-- The lowest-numbered UP Keadigor port (R309, R331). -/
def keadigorPort (s : State) : Option Nat :=
  (List.range 144).find? (fun p => let q := s.port p; decide (q.st = 4) && !q.host)

/-- The host-mode port while it is UP (R331). -/
def hostPort (s : State) : Option Nat := (List.range 144).find? (fun p => let q := s.port p; decide (q.st = 4) && q.host)

end Sys2Proof.Machine
end

