-- ==== Sys2Proof/Machine/Abort.lean ====
section
/-! DEFINITION. What ends a section from outside: stopping a stream (R243, R255), the end of a section for its buckets (R269), the
abort and its arbitration (R220-R222), and the stall fault (R65). -/

namespace Sys2Proof.Machine

/-! Streams. -/

/-- STREAMID of a context's descriptor (R242). -/
def StreamCtx.id (c : StreamCtx) : Nat := bitsOf (gget c.desc 0).toNat 31 0
/-- MODE of a context's descriptor (R242). -/
def StreamCtx.mode (c : StreamCtx) : Nat := bitsOf (gget c.desc 0).toNat 35 34
/-- SECBIND of a context's descriptor (R242). -/
def StreamCtx.secbind (c : StreamCtx) : Bool := bitOf (gget c.desc 0).toNat 36
/-- A context in REQUESTED, FLOWING or GAP (R243). -/
def StreamCtx.active (c : StreamCtx) : Bool := decide (c.st = 1 ∨ c.st = 2 ∨ c.st = 3)

/-- Empty a place of the rack, keeping the generation last assigned (R231), with a CMDERR code. -/
def Place.emptied (q : Place) (code : Nat) : Place := { Place.atReset with gen := q.gen, cmderr := code }

/-- SEC.LOADSRC names this stream (R227). -/
def srcIsStream (w : Word64) (id : Nat) : Bool := bitOf w.toNat 0 && decide (bitsOf w.toNat 63 32 = id)

/-- A stream that ends LOST or CANCELLED fails the LOAD or RELOAD that reads it with CMDERR 11 (R208, R209, R244). -/
def failLoads (s : State) (id : Nat) : State :=
  { s with sec := { s.sec with places := gmapAll s.sec.places (fun q =>
      if srcIsStream q.source id ∧ (q.st = 1 ∨ q.rldRun) then q.emptied 11 else q) } }

/-- Stop a stream on CANCEL, LOST or an abort (R243): the state, a stop car, and its incomplete and held blocks discarded. -/
def stopStream (s : State) (p c st : Nat) : State :=
  let x := gget (s.port p).ctxs c
  let s := modCtx s p c fun x => { x with st := st, overrun := none }
  let s := modPort s p fun q => { q with slots := q.slots.filter (fun a => decide (a.ctx ≠ c)) }
  let s := sendSctl s p 4 x.id 0 0 0
  if x.mode = 2 then failLoads s x.id else s

/-- A context of a port. -/
def State.ctx (s : State) (p c : Nat) : StreamCtx := gget (s.port p).ctxs c
/-- Assembly slots of the unit in use. -/
def Port.slotsUsed (q : Port) : Nat := q.slots.length
/-- Assembly slots a context holds. -/
def Port.slotsOf (q : Port) (c : Nat) : Nat := (q.slots.filter (fun a => decide (a.ctx = c))).length
/-- A resend request naming a block (R251). -/
def sendResend (s : State) (p c b : Nat) : State :=
  let s := modCtx s p c fun x => { x with rsrq := satAdd 8 x.rsrq 1 }
  sendSctl s p 3 (s.ctx p c).id b 0 0

/-- Once a slot is free, every stream that lost cars for want of room asks again for the lowest of those blocks (R251). -/
def slotFreed (s : State) (p : Nat) : State :=
  (List.range 32).foldl (fun s c =>
    let x := s.ctx p c
    match x.overrun with
    | some b =>
      if x.active && decide ((s.port p).slotsUsed < 64) && decide ((s.port p).slotsOf c < 32) then
        sendResend (modCtx s p c fun x => { x with overrun := none }) p c b
      else s
    | none => s) s

/-- The stream contexts of all ports that satisfy `f`. -/
def ctxsWhere (s : State) (f : StreamCtx → Bool) : List (Nat × Nat) :=
  s.ports.cells.flatMap (fun q => (q.2.ctxs.cells.filter (fun c => f c.2)).map (fun c => (q.1, c.1)))

/-- Cancel every active stream with SECBIND = 1 (R255). -/
def cancelBound (s : State) : State :=
  let cs := ctxsWhere s (fun c => c.active && c.secbind)
  cs.foldl (fun s pc => slotFreed s pc.1) (cs.foldl (fun s pc => stopStream s pc.1 pc.2 6) s)

/-- Some SECBIND stream is in GAP (R253). -/
def anyBoundGap (s : State) : Bool := !(ctxsWhere s (fun c => decide (c.st = 3) && c.secbind)).isEmpty

/-- Some physical shed that presents a logical shed is in thermal hold (R371). -/
def anyHold (s : State) : Bool :=
  s.psheds.cells.any (fun c => c.2.hold && (logicalShed s c.1).isSome)

/-- SEC.STATUS.HELD clears when nothing holds the section any longer (R253, R371). -/
def fixHeld (s : State) : State :=
  if anyBoundGap s || anyHold s then s else { s with sec := { s.sec with held := false } }

/-! Buckets at the end of the section (R269). -/

/-- Empty a bucket for a re-run: staging marks, contribution checksum and SATS cleared (R269). -/
def Bucket.emptied (b : Bucket) : Bucket := { b with st := 1, bound := false, halves := [], csum := 0, sats := 0 }

/-- Record GRAD_CHECK for a bucket context against its engine (R265, R277). -/
def gradCheck (s : State) (c cause : Nat) : State :=
  let p := bitsOf (gget (s.bucket c).desc 0).toNat 7 0
  record (modBucket s c fun b => { b with gchk := true, gcause := cause }) 14 (.ring p)

/-- One bound bucket when its section leaves RUNNING (R269). -/
def bucketEnd (clean : Bool) (s : State) (c : Nat) : State :=
  let b := s.bucket c
  if !b.bound || b.clean then s
  else if b.st = 1 then
    let s := modBucket s c Bucket.emptied
    if clean then gradCheck s c 5 else s
  else if b.st = 2 then
    modBucket s c fun b => if clean then { b with clean := true } else b.emptied
  else s

/-- Every bucket when the running section leaves RUNNING (R269). -/
def bucketsEnd (s : State) (clean : Bool) : State := (List.range 64).foldl (bucketEnd clean) s

/-! The abort. -/

/-- A loft write stands under this track number. -/
def isLoft (track : List TrackMsg) (id : Nat) : Bool :=
  track.any (fun m => decide (m.id = id) && (match m.packet with | .loft _ _ => true | .msg _ _ => false))

/-- The 4 KiB blocks of a slice's output regions (R200), as keys of the brand words. -/
def outBlocks (c : Cfg) : List Nat :=
  (List.range 8).flatMap (fun k =>
    let w := (gget c.oregs k).toNat
    let sp := bitsOf w 1 0
    if sp = 0 then [] else (List.range (bitsOf w 12 7)).map (fun i => sp * 32 + bitsOf w 6 2 + i))

/-- Mark blocks invalid (R386). -/
def invalidate (m : StallMem) (ks : List Nat) : StallMem :=
  { m with brands := gmodKeys m.brands ks (fun _ _ => 0x80000000#32) }

/-- The queue unit with everything it holds discarded (R222); counters, tallies and loft writes at the ejection input stay. -/
def QueueUnit.discarded (u : QueueUnit) (loft : Nat → Bool) : QueueUnit :=
  { u with queues := gconst [], slots := gconst Slot.empty, pen := [], relays := [], landing := gconst none, notice := none,
           ej := gmapAll u.ej (fun l => l.filter loft) }

/-- What every stall does on an abort (R222); PENDs clear (R183), and the banks become undefined by event `ev` (R79). -/
def Stall.aborted (t : Stall) (ev : Nat) (loft : Nat → Bool) : Stall :=
  { t with
    seq := { t.seq with run := if t.seq.run = 5 then 5 else 0, bound0 := none, bound1 := none, dispCyc := none },
    opened := false, qu := t.qu.discarded loft, pend := 0,
    eng := ⟨gmapAll t.eng.banks (fun b => { b with undef := some ev }), none, none, none, none, none⟩,
    mem := invalidate t.mem (outBlocks t.active) }

/-- The messages that stand at ejection inputs, land or are penned are discarded; what is still to come of them is dropped. -/
def dropArrived (s : State) : List TrackMsg :=
  let waiting := s.stalls.cells.flatMap (fun c => c.2.qu.ej.cells.flatMap (·.2))
  s.track.map (fun m =>
    match m.packet with
    | .loft _ _ => m
    | .msg _ _ => if m.fate ≠ .moving ∨ waiting.contains m.id then { m with fate := .dropped } else m)

/-- ABORTED: the place becomes ABORTING, the result is recorded, the pending AUTO start is cancelled (R211), bound streams are
cancelled (R255), bound buckets emptied (R269) and every stall stops (R222). -/
def abortNow (s : State) (p cause : Nat) : State :=
  let (ev, s) := takeFresh s
  let s := modPlace s p fun q => { q with st := 6 }
  let s := { s with sec := { s.sec with valid := true, outcome := true, closeerr := false, acause := cause, rplace := p,
                                        auto := false, held := false } }
  let s := cancelBound s
  let s := bucketsEnd s false
  let track := dropArrived s
  let loft := isLoft s.track
  { s with stalls := gmapAll s.stalls (fun t => t.aborted ev loft), track := track }

/-- A request that meets no RUNNING section records ABORT_LATE and has no other effect (R221). -/
def abortLate (s : State) (cause : Nat) : State :=
  record { s with sec := { s.sec with late := true, acause := cause } } 23 .device

/-- An abort request at the arbiter (R221). -/
def requestAbort (s : State) (cause : Nat) : State :=
  match runningPlace s with
  | some p => abortNow s p cause
  | none => abortLate s cause

/-- An abort request raised by hardware, only while a section is RUNNING (R220). -/
def hwAbort (s : State) (cause : Nat) : State :=
  match runningPlace s with
  | some p => abortNow s p cause
  | none => s

/-! The stall fault. -/

/-- SHED.PROG when NO_PROGRESS is recorded for the first time in the section (R150). -/
def Shed.progFired (h : Shed) (cause : Bool) (stall : Nat) : Shed :=
  if h.fired then h else { h with fired := true, cause := cause, progStall := stall }

/-- A stall fault (R65): the sequencer stops at the word, the shed records NO_PROGRESS, and the section is aborted with ACAUSE 3.
A stall faults once. The banks become undefined (R79). -/
def stallFault (s : State) (sid code pc : Nat) : State :=
  if (s.stall sid).seq.run = 5 then s
  else
    let (ev, s) := takeFresh s
    let s := modStall s sid fun t =>
      { t with seq := { t.seq with run := 5, fcode := code, fpc := pc },
               eng := ⟨gmapAll t.eng.banks (fun b => { b with undef := some ev }), none, none, none, none, none⟩ }
    let s := modShed s (shedOf sid) fun h => h.progFired true (stallInShed sid)
    let s := record s 10 (.shed (shedOf sid))
    hwAbort s 3

end Sys2Proof.Machine
end

