-- ==== Sys2Proof/Machine/Digest.lean ====
section
/-! DEFINITION. The two functions that R196 and R200 name and do not spell out: SHA3-512 and the IEEE 802.3 CRC-32. Both are
PRESUMED from their public definitions (log 7). -/

namespace Sys2Proof.Machine

/-! SHA3-512. -/

/-- A left rotation of a 64-bit lane. -/
def rotl64 (v n : Nat) : Nat := ((v <<< (n % 64)) ||| (v >>> (64 - n % 64))) % 2 ^ 64

/-- The round constants of Keccak-f[1600]. -/
def keccakRound : List Nat :=
  [0x0000000000000001, 0x0000000000008082, 0x800000000000808A, 0x8000000080008000, 0x000000000000808B, 0x0000000080000001,
   0x8000000080008081, 0x8000000000008009, 0x000000000000008A, 0x0000000000000088, 0x0000000080008009, 0x000000008000000A,
   0x000000008000808B, 0x800000000000008B, 0x8000000000008089, 0x8000000000008003, 0x8000000000008002, 0x8000000000000080,
   0x000000000000800A, 0x800000008000000A, 0x8000000080008081, 0x8000000000008080, 0x0000000080000001, 0x8000000080008008]

/-- The rotation offset of lane x + 5 y. -/
def keccakRot : List Nat :=
  [0, 1, 62, 28, 27, 36, 44, 6, 55, 20, 3, 10, 43, 25, 39, 41, 45, 15, 21, 8, 18, 2, 61, 56, 14]

/-- One round of the permutation on 25 lanes, lane (x, y) at x + 5 y. -/
def keccakStep (a : List Nat) (rc : Nat) : List Nat :=
  let at' (l : List Nat) (x y : Nat) := l.getD (x % 5 + 5 * (y % 5)) 0
  let c := (List.range 5).map (fun x => (List.range 5).foldl (fun acc y => acc ^^^ at' a x y) 0)
  let d := (List.range 5).map (fun x => c.getD ((x + 4) % 5) 0 ^^^ rotl64 (c.getD ((x + 1) % 5) 0) 1)
  let a := (List.range 25).map (fun i => a.getD i 0 ^^^ d.getD (i % 5) 0)
  -- the lane (x, y) goes, rotated, to (y, 2 x + 3 y)
  let src (x' y' : Nat) : Nat := (x' + 3 * y') % 5 + 5 * x'
  let b := (List.range 25).map (fun i => let j := src (i % 5) (i / 5); rotl64 (a.getD j 0) (keccakRot.getD j 0))
  let e := (List.range 25).map (fun i =>
    let x := i % 5; let y := i / 5
    at' b x y ^^^ (((2 ^ 64 - 1) ^^^ at' b (x + 1) y) &&& at' b (x + 2) y))
  e.set 0 (e.getD 0 0 ^^^ rc)

/-- Absorb one block of 72 bytes. -/
def keccakAbsorb (a : List Nat) (blk : List Byte) : List Nat :=
  keccakRound.foldl keccakStep ((List.range 25).map (fun i => if i < 9 then a.getD i 0 ^^^ leAt blk (8 * i) 8 else a.getD i 0))

/-- Absorb `n` blocks. -/
def keccakBlocks : Nat → List Byte → List Nat → List Nat
  | 0, _, a => a
  | n + 1, bs, a => keccakBlocks n (bs.drop 72) (keccakAbsorb a (bs.take 72))

/-- The SHA3-512 digest as its 64 bytes read little-endian. -/
def sha3 (bs : List Byte) : Nat :=
  let r := 72 - bs.length % 72
  let padded := if r = 1 then bs ++ [0x86#8] else bs ++ [0x06#8] ++ List.replicate (r - 2) 0#8 ++ [0x80#8]
  let a := keccakBlocks (padded.length / 72) padded (List.replicate 25 0)
  (List.range 8).foldl (fun acc i => acc + a.getD i 0 * 2 ^ (64 * i)) 0

/-- The digest as bytes. -/
def sha3Bytes (bs : List Byte) : List Byte := leBytes 64 (sha3 bs)

/-! CRC-32. -/

/-- One byte of the reflected CRC-32. -/
def crc32Byte (c : Nat) (b : Byte) : Nat :=
  (List.range 8).foldl (fun c _ => if c % 2 = 1 then (c / 2) ^^^ 0xEDB88320 else c / 2) (c ^^^ b.toNat)

/-- The IEEE 802.3 CRC-32 of a byte list. -/
def crc32 (bs : List Byte) : Nat := bs.foldl crc32Byte 0xFFFFFFFF ^^^ 0xFFFFFFFF

end Sys2Proof.Machine
end

