-- ==== Sys2Proof/Machine/Cars.lean ====
section
/-! DEFINITION. What a port does with a received car (R292-R299, R307), and its link control cars (R295). -/

namespace Sys2Proof.Machine

/-! Credits that the port offers (R297). -/

/-- Cars of a context that lie in its slots. -/
def Port.carsOf (q : Port) (c : Nat) : Nat :=
  ((q.slots.filter (fun a => decide (a.ctx = c))).map (fun a => (a.cars.cells.filter (fun x => x.2.isSome)).length)).foldl (· + ·) 0

/-- The limit the unit offers a stream context: the cars whose room is free again, and 16 for each slot it holds or could get (R245,
R297; log 24). An inactive context is offered none. -/
def Port.streamLimit (q : Port) (c : Nat) : Nat :=
  let now := gget q.sess.sadv c
  if (gget q.ctxs c).active then
    let held := q.slotsOf c
    max now (gget q.sess.srcv c - q.carsOf c + 16 * (held + min (32 - held) (64 - q.slotsUsed)))
  else now

/-- The session with the limits it advertises now (R297): a delivered car's buffer is free at once, but for the requests that the port has
forwarded and that wait for their responses, at most 16 (R309). -/
def Port.advertise (q : Port) : Session :=
  let e := q.sess
  let sadv := gmodKeys e.sadv (List.range 32) (fun c _ => q.streamLimit c)
  { e with adv0 := e.rcv0 + 64, adv2 := e.rcv2 + 256, adv3 := max e.adv3 (e.rcv3 + 16 - q.bridged.length), sadv := sadv }

/-- An LCTL payload (R295). -/
def lctlPayload (e : Session) (nak : Bool) : List Byte :=
  leBytes 4 e.rxExp ++ leBytes 1 (b2n nak) ++ leBytes 3 0 ++ leBytes 2 (e.adv0 % 65536) ++ leBytes 2 (e.adv2 % 65536) ++
  leBytes 2 (e.adv3 % 65536) ++ leBytes 2 0 ++ (List.range 32).flatMap (fun c => leBytes 2 (gget e.sadv c % 65536))

/-- Send an LCTL (R295, R298). -/
def sendLctl (s : State) (p : Nat) (nak : Bool) : State :=
  modPort s p fun q =>
    let e := q.advertise
    let c : TxCar := { mkCar 0 0 0 0 0 (lctlPayload e nak) with kp := q.kp }
    { q with sess := { e with lctlTx := (e.lctlTx + 1) % 2 ^ 32, txLctls := e.txLctls + 1 }, sent := q.sent ++ [c] }

/-- A NAK goes out while the port is UP. -/
def sendNak (s : State) (p : Nat) : State := if (s.port p).st = 4 then sendLctl s p true else s

/-! Leaving UP. -/

/-- The port enters QUARANTINED (R305). -/
def quarantine (s : State) (p cause : Nat) : State := portState s p fun q => { q.endSession 6 with qcause := cause }

/-- Times of a window that are younger than `span` ns, and now. -/
def window (s : State) (times : List Nat) (span : Nat) : List Nat := times.filter (fun t => decide (s.dev.wall < t + span)) ++ [s.dev.wall]

/-- A GCM failure (R296 step 3, R305): LINK_AUTH, and quarantine at the sixteenth within 1 s. -/
def gcmFail (s : State) (p : Nat) : State :=
  let w := window s (s.port p).gcmWin (10 ^ 9)
  let s := linkAuth (modPort s p fun q => { q with gcmfail := satAdd 16 q.gcmfail 1, gcmWin := w }) p
  if 16 ≤ w.length then quarantine s p 1 else sendNak s p

/-! Step 5 of R296. -/

/-- The link VC of a car type that a partner may send (R292). -/
def lvcOf (typ : Nat) : Option Nat :=
  if typ = 1 then some 1 else if typ = 3 then some 2 else if typ = 6 ∨ typ = 9 ∨ typ = 10 then some 3
  else if typ = 0 ∨ typ = 4 ∨ typ = 7 ∨ typ = 8 then some 0 else none

/-- Every bit of W1-W3 that R293 does not name is 0. -/
def wordsOk (typ w1 w2 w3 : Nat) : Bool :=
  if typ = 1 then decide (bitsOf w2 31 28 = 0) && (decide (bitsOf w2 27 24 = 15) || decide (w3 = 0))
  else if typ = 3 then decide (bitsOf w2 31 22 = 0) && (decide (bitsOf w2 19 16 = 15) || decide (w3 = 0))
  else if typ = 6 then decide (bitsOf w1 31 23 = 0) && decide (w2 = 0) && decide (w3 = 0)
  else if typ = 9 ∨ typ = 10 then decide (w2 = 0) && decide (w3 = 0)
  else decide (w1 = 0) && decide (w2 = 0) && decide (w3 = 0)

/-- The car takes a credit that the port has advertised (R297). -/
def Port.creditOk (q : Port) (c : RxCar) : Bool :=
  match c.lvc.toNat with
  | 0 => decide (q.sess.rcv0 < q.sess.adv0)
  | 1 => let x := bitsOf c.w1.toNat 4 0; decide (gget q.sess.srcv x < gget q.sess.sadv x)
  | 2 => decide (q.sess.rcv2 < q.sess.adv2)
  | _ => decide (q.sess.rcv3 < q.sess.adv3)

/-- The car is well formed for this port (R292, R293, R307). -/
def Port.wellFormed (q : Port) (c : RxCar) : Bool :=
  let typ := c.typ.toNat
  decide (lvcOf typ = some c.lvc.toNat) && decide (c.rsv = 0) && (c.enc || decide (typ = 9 ∨ typ = 10)) &&
  (!(c.enc && decide (typ = 9))) && wordsOk typ c.w1.toNat c.w2.toNat c.w3.toNat && decide (c.payload.length = 256) &&
  (!q.host || decide (typ = 6 ∨ typ = 7 ∨ typ = 0 ∨ typ = 9 ∨ typ = 10))

/-- The session after a car of a link VC has been counted (R297). -/
def Session.count (e : Session) (c : RxCar) : Session :=
  match c.lvc.toNat with
  | 0 => { e with rcv0 := e.rcv0 + 1 }
  | 1 => { e with srcv := gmod e.srcv (bitsOf c.w1.toNat 4 0) (· + 1) }
  | 2 => { e with rcv2 := e.rcv2 + 1 }
  | _ => { e with rcv3 := e.rcv3 + 1 }

/-- The session after the expected car has been accepted; the first car of a new key phase ends the old key (R298, R303). -/
def Session.accept (e : Session) (kp : Bool) : Session :=
  let e := { e with rxExp := (e.rxExp + 1) % 2 ^ 32 }
  if kp = e.rxKp then { e with rxCars := e.rxCars + 1 } else { e with rxKp := kp, rxCars := 1, rxLctls := 0, oldRxKey := [] }

/-- Where a car's sequence number lies: how far past the expected one, modulo 2^16 (R298). -/
def seqAhead (e : Session) (c : RxCar) : Nat := (c.seq.toNat + 65536 - e.rxExp % 65536) % 65536

/-- What becomes of a received car: dropped, or delivered to its unit (R296). -/
inductive Got where
  | drop (s : State)
  | take (s : State)
  deriving DecidableEq, Repr

/-- A malformed car: dropped and counted, its number consumed (R296 step 5). -/
def malformed (s : State) (p : Nat) : State := modPort s p fun q => { q with malform := satAdd 16 q.malform 1 }

/-- A received car other than an LCTL goes through the checks of R296 in order. A port outside AUTH and UP, or
without lock, receives nothing. -/
def receiveCar (s : State) (p : Nat) (c : RxCar) : Got :=
  let q := s.port p
  if (q.st ≠ 3 ∧ q.st ≠ 4) ∨ !q.locked then .drop s
  else if !c.crcOk then .drop (sendNak (modPort s p fun q => { q with crcfail := satAdd 16 q.crcfail 1 }) p)
  else if (q.st = 3 ∧ (c.enc ∨ (c.typ ≠ 9 ∧ c.typ ≠ 10))) ∨ (q.st = 4 ∧ !c.enc) then
    .drop (modPort s p fun q => { q with unauth := satAdd 16 q.unauth 1 })
  else if q.st = 3 then (if q.wellFormed c then .take s else .drop (malformed s p))
  else if !c.tagOk then .drop (gcmFail s p)
  else
    let d := seqAhead q.sess c
    if 32768 ≤ d then .drop s
    else if 0 < d then .drop (sendNak s p)
    else
      let s := modPort s p fun q => { q with sess := q.sess.accept c.kp }
      if q.wellFormed c && q.creditOk c then .take (modPort s p fun q => { q with sess := q.sess.count c })
      else .drop (malformed s p)

/-! SCTL records (R294). -/

/-- A control record: KIND, ID and arguments. -/
structure Ctl where
  kind : Nat
  id   : Nat
  a0   : Nat
  a1   : Nat
  a2   : Nat
  deriving DecidableEq, Repr

/-- The records of an SCTL payload, padding left out. -/
def ctlRecords (payload : List Byte) : List Ctl :=
  ((List.range 8).map (fun i =>
    let o := 32 * i
    { kind := leAt payload o 1, id := leAt payload (o + 4) 4, a0 := leAt payload (o + 8) 8, a1 := leAt payload (o + 16) 8,
      a2 := leAt payload (o + 24) 8 : Ctl })).filter (fun r => decide (r.kind ≠ 0))

/-- The kinds a Keadigor may send. -/
def ctlKinds : List Nat := [0x04, 0x12, 0x14, 0x15, 0x16]

/-- The car is one whose records a row of this kind handles: it is an SCTL car that holds such a record, or none of a known kind. -/
def ctlCar (c : RxCar) (kind : Nat) : Bool :=
  let ks := (ctlRecords c.payload).map (·.kind)
  decide (c.typ = 4) && (ks.contains kind || ks.all (fun k => !ctlKinds.contains k))

/-! Replay. -/

/-- The sender resends from the oldest car not acknowledged; the sixteenth replay without an advance ends in RETRAIN (R299). -/
def replayCars (s : State) (p : Nat) : State :=
  let q := s.port p
  if q.sess.replay.isEmpty then s
  else
    let s := modPort s p fun q => { q with replays := satAdd 16 q.replays 1, sess := { q.sess with resent := q.sess.resent + 1 } }
    if 16 ≤ q.sess.resent + 1 then linkBer (portState s p Port.toRetrain) p else s

/-- The partner acknowledges every car before `ack` (R295). A number that no sent car reaches is passed over. -/
def Session.acked (e : Session) (ack : Nat) : Session :=
  let una := match e.replay with | [] => e.txNext | r :: _ => r.1
  let n := (ack + 2 ^ 32 - una) % 2 ^ 32
  if n = 0 ∨ e.replay.length < n then e else { e with replay := e.replay.drop n, ackSeq := ack, resent := 0 }

/-- The fields of an LCTL take effect (R295, R299). -/
def applyLctl (s : State) (p : Nat) (payload : List Byte) : State :=
  let s := modPort s p fun q =>
    let e := q.sess.acked (leAt payload 0 4)
    let slim := gmodKeys e.slim (List.range 32) (fun c _ => leAt payload (16 + 2 * c) 2)
    { q with sess := { e with clim0 := leAt payload 8 2, clim2 := leAt payload 10 2, clim3 := leAt payload 12 2, slim := slim } }
  let s := if bitOf (leAt payload 4 1) 0 then replayCars s p else s
  modPort s p Port.pump

/-- LCTL_SEND (R295). -/
def execLctlSend (port : PortId) (s : State) : Host.Outcome State Fault Refusal :=
  .next (if (s.port port).st = 4 then sendLctl s port false else s)

/-- REPLAY_TIMEOUT (R299): 10 us with cars outstanding and no advance of ACKSEQ (log 3). -/
def execReplayTimeout (port : PortId) (s : State) : Host.Outcome State Fault Refusal :=
  .next (if (s.port port).st = 4 then replayCars s port else s)

end Sys2Proof.Machine
end

