-- ==== Sys2Proof/Machine/Operands.lean ====
section
/-! DEFINITION. How a routine word gets at its operands and how it ends: scalar registers (R41), spaces (R43), address generators
(R44), the interlocks with Draft and Rake words (R78, R111), the loop stack (R47), retirement, holds and stall faults (R65). -/

namespace Sys2Proof.Machine

/-! Stall fault causes (R65). -/

/-- FCODE 1. -/
def fIllegal : Nat := 1
/-- FCODE 2. -/
def fRange : Nat := 2
/-- FCODE 3. -/
def fAlign : Nat := 3
/-- FCODE 4. -/
def fLoop : Nat := 4
/-- FCODE 5. -/
def fPcovf : Nat := 5
/-- FCODE 6. -/
def fQread : Nat := 6
/-- FCODE 7. -/
def fSendlist : Nat := 7
/-- FCODE 8. -/
def fTagmiss : Nat := 8
/-- FCODE 9. -/
def fOversize : Nat := 9
/-- FCODE 10. -/
def fGateop : Nat := 10

/-! Scalar registers. -/

/-- The value of a scalar register (R41). -/
def Stall.sreg (t : Stall) (sid i : Nat) : Nat :=
  if i = 0 then 0
  else if i = 27 then sid
  else if i = 31 then t.seq.cyc % 2 ^ 32
  else (gget t.seq.sregs i).toNat

/-- A write of a scalar register; s0 reads 0, and writes to s27 and s31 are ignored (R41). -/
def Stall.setSreg (t : Stall) (i v : Nat) : Stall :=
  if i = 0 ∨ i = 27 ∨ i = 31 then t
  else { t with seq := { t.seq with sregs := gset t.seq.sregs i (BitVec.ofNat 32 v) } }

/-! Lost state (R354): the values are free, one for each stall and each loss (log 4). -/

/-- The free value number `i` of a stall that lost its state at event `ev`. -/
def lostWord (ev sid i : Nat) : Word32 := Config.freeWord (ev + sid * 64 + i)

/-- The sequencer of a stall that runs again for the first time after its state was lost. -/
def Seq.settle (sid : Nat) (q : Seq) : Seq :=
  match q.lost with
  | none => q
  | some ev =>
    { q with lost := none, pc := (lostWord ev sid 0).toNat % 512, tag := (lostWord ev sid 1).toNat % 1024,
             queue := (lostWord ev sid 2).toNat % 32, last := (lostWord ev sid 3).toNat % 32,
             sregs := gset (gset (gset q.sregs 28 (lostWord ev sid 4)) 29 (lostWord ev sid 5)) 30 (lostWord ev sid 6) }

/-- A stall whose sequencer is about to run. -/
def Stall.settle (sid : Nat) (t : Stall) : Stall := { t with seq := t.seq.settle sid }

/-- The stall with the counts and tallies that it lost and that no flip has set since, as software reads them. -/
def Stall.settleCounts (sid : Nat) (t : Stall) : Stall :=
  match t.seq.lostNow with
  | none => t
  | some ev =>
    { t with
      seq := { t.seq with lostNow := none, fcode := (lostWord ev sid 7).toNat % 16, fpc := (lostWord ev sid 8).toNat % 512,
                          retired := (lostWord ev sid 9).toNat + 2 ^ 32 * ((lostWord ev sid 10).toNat % 2 ^ 16),
                          dispatched := (lostWord ev sid 11).toNat }
      qu := { t.qu with tallies := gmodKeys t.qu.tallies (List.range 32) (fun k _ => (lostWord ev sid (12 + k)).toNat % 2 ^ 15) } }

/-! Spaces. -/

/-- The limit of a space for routines (R43). -/
def spaceLimit (sp : Nat) : Nat := if sp = 0 then 0xC000 else if sp = 3 then 0x10000 else 0x20000
/-- The reach L of a space in shed cycles (R43). -/
def reach (sp : Nat) : Nat := if sp = 0 then 1 else if sp = 1 then 3 else if sp = 2 then 5 else 6

/-- The memory of a space. -/
def StallMem.space (m : StallMem) (sp : Nat) : Mem :=
  if sp = 0 then m.manger else if sp = 1 then m.loftA else if sp = 2 then m.loftB else m.loftC
/-- The stall memory with one space replaced. -/
def StallMem.setSpace (m : StallMem) (sp : Nat) (x : Mem) : StallMem :=
  if sp = 0 then { m with manger := x } else if sp = 1 then { m with loftA := x }
  else if sp = 2 then { m with loftB := x } else { m with loftC := x }

/-- The event that left a byte's block undefined, if any (R486); the manger has no such blocks. -/
def StallMem.undefAt (m : StallMem) (sp a : Nat) : Option Nat := if sp = 0 then none else gget m.undef (sp * 32 + a / 4096)

/-- The byte of a space at an address; a byte of an undefined block is a free value (R486, log 4). -/
def StallMem.readByte (m : StallMem) (sid sp a : Nat) : Byte :=
  match m.undefAt sp a with
  | some ev => Config.freeByte ev (sid * 2 ^ 20 + sp * 2 ^ 17 + a)
  | none => Memory.read (m.space sp) a

/-- `n` bytes of a space. -/
def StallMem.readBytes (m : StallMem) (sid sp a n : Nat) : List Byte := (List.range n).map (fun i => m.readByte sid sp (a + i))

/-- The stall memory with the free bytes of an undefined block written out, so that part of it can be written. -/
def StallMem.settle (m : StallMem) (sid sp blk : Nat) : StallMem :=
  match m.undefAt sp (blk * 4096) with
  | none => m
  | some _ =>
    let bs := m.readBytes sid sp (blk * 4096) 4096
    { (m.setSpace sp (Memory.writeBytes (m.space sp) (blk * 4096) bs)) with undef := gset m.undef (sp * 32 + blk) none }

/-- A write of bytes inside one 4 KiB block of a space. -/
def StallMem.writeBytes (m : StallMem) (sid sp a : Nat) (bs : List Byte) : StallMem :=
  let m := m.settle sid sp (a / 4096)
  m.setSpace sp (Memory.writeBytes (m.space sp) a bs)

/-- The brand of a 4 KiB block (R385): the weighted sum of its signed words modulo 2^31 - 1. -/
def brandOf (bs : List Byte) : Nat :=
  ((List.range 1024).foldl (fun (acc : Int) (j : Nat) => acc + ((j : Int) + 1) * signedOf 32 (leAt bs (4 * j) 4)) 0 % (2 ^ 31 - 1 : Int)).toNat

/-- The brand word of a block (R386). -/
def StallMem.brand (m : StallMem) (sp blk : Nat) : Nat := (gget m.brands (sp * 32 + blk)).toNat
/-- The brand word of a block written. -/
def StallMem.setBrand (m : StallMem) (sp blk v : Nat) : StallMem :=
  { m with brands := gset m.brands (sp * 32 + blk) (BitVec.ofNat 32 v) }
/-- A brand check (R387). -/
def brandOk (computed stored : Nat) : Bool := decide (computed = stored) && !bitOf stored 31

/-! Address generators. -/

/-- A generator set to a base and restarted (R44). -/
def AddrGen.restart (g : AddrGen) (base : Int) : AddrGen := { g with base := base, row := base, addr := base, i := 0, j := 0 }

/-- The generator after one use (R44). -/
def AddrGen.step (g : AddrGen) : AddrGen :=
  if g.i + 1 < g.cnt0 then { g with i := g.i + 1, addr := g.addr + g.str0 }
  else if g.j + 1 < g.cnt1 then { g with i := 0, j := g.j + 1, row := g.row + g.str1, addr := g.row + g.str1 }
  else { g with i := 0, j := 0, row := g.base, addr := g.base }

/-- The byte address a use yields, or none where it lies below 0 or at or above the limit of the space (R43, R52). -/
def AddrGen.yields (g : AddrGen) : Option Nat :=
  let a := g.addr * 64
  if a < 0 then none else if spaceLimit g.space ≤ a.toNat then none else some a.toNat

/-- A generator of the stall. -/
def Stall.ag (t : Stall) (k : Nat) : AddrGen := gget t.seq.ags k
/-- The stall with a generator replaced. -/
def Stall.setAg (t : Stall) (k : Nat) (g : AddrGen) : Stall := { t with seq := { t.seq with ags := gset t.seq.ags k g } }

/-- One use of a generator: the stall after it and the byte address, or none for RANGE (R44, R52). -/
def Stall.useAg (t : Stall) (k : Nat) : Stall × Option Nat := (t.setAg k (t.ag k).step, (t.ag k).yields)

/-- Read the 64-byte unit a use yields (R44). -/
def Stall.readUnit (t : Stall) (sid k : Nat) : Stall × Option (List Byte) :=
  let sp := (t.ag k).space
  match t.useAg k with
  | (t, some a) => (t, some (t.mem.readBytes sid sp a 64))
  | (t, none) => (t, none)

/-- Write the first bytes of the 64-byte unit a use yields; the rest of the unit is unchanged. -/
def Stall.writeUnit (t : Stall) (sid k : Nat) (bs : List Byte) : Stall × Bool :=
  let sp := (t.ag k).space
  match t.useAg k with
  | (t, some a) => ({ t with mem := t.mem.writeBytes sid sp a bs }, true)
  | (t, none) => (t, false)

/-- Read `n` units in use order; none when one of the uses raises RANGE. -/
def Stall.readUnits (sid k : Nat) : Nat → Stall → Stall × Option (List Byte)
  | 0, t => (t, some [])
  | n + 1, t =>
    match t.readUnit sid k with
    | (t, none) => (t, none)
    | (t, some b) =>
      match Stall.readUnits sid k n t with
      | (t, none) => (t, none)
      | (t, some bs) => (t, some (b ++ bs))

/-- Write bytes unit by unit in use order, the last unit partly; false when a use raises RANGE, the units before it written. -/
def Stall.writeUnits (sid k : Nat) : Nat → List Byte → Stall → Stall × Bool
  | 0, _, t => (t, true)
  | n + 1, bs, t =>
    if bs.isEmpty then (t, true)
    else
      match t.writeUnit sid k (bs.take 64) with
      | (t, false) => (t, false)
      | (t, true) => Stall.writeUnits sid k n (bs.drop 64) t

/-! Interlocks. -/

/-- The Draft and Rake words that are incomplete (R78, R110). -/
def Engines.draftJobs (e : Engines) : List Job := e.dexec.toList ++ e.dwait.toList
/-- The incomplete Rake words. -/
def Engines.rakeJobs (e : Engines) : List Job := e.rexec.toList ++ e.rwait.toList
/-- Every incomplete matrix word. -/
def Engines.jobs (e : Engines) : List Job := e.draftJobs ++ e.rakeJobs

/-- The bank a Draft or Rake word targets (R75, R105). -/
def Job.bank (j : Job) : Nat := bitsOf j.word.toNat 56 55
/-- The word's opcode. -/
def Job.op (j : Job) : Nat := bitsOf j.word.toNat 63 58
/-- The generators a Draft or Rake word names: AGA, AGB, with MX = 1 AGS, and for an SDD AGC (R78, R111). -/
def matrixAgs (w : Nat) : List Nat :=
  [bitsOf w 46 44, bitsOf w 43 41] ++ (if bitOf w 37 then [bitsOf w 40 38] else []) ++
  (if bitsOf w 63 58 = 0x19 then [bitsOf w 11 9] else [])
/-- The generators of a job. -/
def Job.ags (j : Job) : List Nat := matrixAgs j.word.toNat

/-- A word that uses or sets the generators `ags` and writes the spaces `spaces` holds on an incomplete DMM, SMM or SDD (R78, R111). -/
def Stall.interlocked (t : Stall) (ags spaces : List Nat) : Bool :=
  t.eng.jobs.any (fun j => j.ags.any (fun a => ags.contains a || spaces.contains (t.ag a).space))

/-- A word that names a bank holds until the matrix words that target it complete (R78, R111). -/
def Stall.bankBusy (t : Stall) (b : Nat) : Bool := t.eng.jobs.any (fun j => decide (j.bank = b))

/-! The loop stack. -/

/-- Where the sequencer goes after the word at `pc`: back into the innermost loop that ends there and has iterations left, or on,
leaving the loops that are through (R47). -/
def advance (pc : Nat) : List Loop → Nat × List Loop
  | [] => (pc + 1, [])
  | l :: r => if pc = l.last then (if 0 < l.left then (l.first, { l with left := l.left - 1 } :: r) else advance pc r) else (pc + 1, l :: r)

/-- A taken branch pops every loop whose body does not contain the target (R47). -/
def popLoops (target : Nat) (ls : List Loop) : List Loop := ls.filter (fun l => decide (l.first ≤ target) && decide (target ≤ l.last))

/-! Issue, retirement, holds. -/

/-- How the execution of a word ends. The state carries every effect of the word but the sequencer's own progress. `port` says that
the word used the loft port, where it may wait for landings (R234, log 10). -/
inductive WordEnd where
  /-- Retires after `cost` shed cycles; the next word follows. -/
  | retire (s : State) (cost : Nat) (port : Bool)
  /-- Retires and goes to a target. -/
  | jump (s : State) (target cost : Nat)
  /-- Retires and continues as after the word at `last` (a LOOP with count 0, R47). -/
  | skipTo (s : State) (last cost : Nat)
  /-- Holds with this RUN code (R66). -/
  | hold (s : State) (run : Nat)
  /-- Meets a stall fault. -/
  | fault (s : State) (code : Nat)
  /-- Has already set the sequencer itself (END). -/
  | done (s : State)

/-- The stall's shed is at D0 and can run stalls. -/
def stallLive (s : State) (sid : Nat) : Bool :=
  let k := shedOf sid
  !shedAbsent s k && decide (shedDepth s k = 0) && !(s.pshed (pshedOf s k)).waking

/-- The sequencer has a word to issue or holds on one (R30, R66). -/
def canIssue (s : State) (sid : Nat) : Bool :=
  let t := s.stall sid
  t.opened && stallLive s sid && decide (1 ≤ t.seq.run) && decide (t.seq.run ≤ 4)

/-- An unassigned opcode (R45, R75, R105). -/
def unassignedOp (o : Nat) : Bool :=
  decide (o = 0x11) || (decide (0x15 ≤ o) && decide (o ≤ 0x17)) || (decide (0x1C ≤ o) && decide (o ≤ 0x1F)) ||
  (decide (0x34 ≤ o) && decide (o ≤ 0x37))

/-- Every bit outside the opcode and the listed fields is 0 (R45). -/
def onlyFields (w : Nat) (fs : List (Nat × Nat)) : Bool :=
  decide (w % 2 ^ 58 = fs.foldl (fun acc f => acc + bitsOf w f.1 f.2 * 2 ^ f.2) 0)

/-- The watchdog's count of a shed returns to 0 on progress, unless it holds after firing (R148, R150). -/
def progress (s : State) (sid : Nat) : State :=
  modShed s (shedOf sid) fun h => if h.fired && !h.cause then h else { h with progCount := 0 }

/-- Shed cycles pass at a stall. -/
def passCycles (s : State) (sid n : Nat) : State := modSeq s sid fun q => { q with cyc := q.cyc + n }

/-- A wait of unstated length passes at a stall (log 10). -/
def passFree (s : State) (sid : Nat) : State :=
  let (ev, s) := takeFresh s
  passCycles s sid (Config.freeCycles ev)

/-- A word retires: RETIRED counts (R67), cycles pass, and the sequencer stands at `pc` with `loops`. -/
def retireAt (s : State) (sid pc : Nat) (loops : List Loop) (cost : Nat) : State :=
  let s := modSeq s sid fun q => { q with pc := pc, loops := loops, run := 1, retired := (q.retired + 1) % 2 ^ 48, cyc := q.cyc + cost }
  progress s sid

/-- The sequencer goes on after the word at `at`; past word 511 it raises PCOVF at `pc` (R47). -/
def goOn (s : State) (sid pc at' cost : Nat) : State :=
  let nx := advance at' (s.stall sid).seq.loops
  if nx.1 < 512 then retireAt s sid nx.1 nx.2 cost else stallFault s sid fPcovf pc

/-- The end of a word's execution at a stall. -/
def finishWord (sid pc : Nat) : WordEnd → State
  | .retire s cost port => goOn (if port then passFree s sid else s) sid pc pc cost
  | .jump s target cost => retireAt s sid target (popLoops target (s.stall sid).seq.loops) cost
  | .skipTo s last cost => goOn s sid pc last cost
  | .hold s run => modSeq (passFree s sid) sid fun q => { q with run := run }
  | .fault s code => stallFault s sid code pc
  | .done s => s

/-- The word at a stall's PC (R29). -/
def wordAt (t : Stall) : Nat := (gget t.active.store t.seq.pc).toNat

/-- Issue the word at the stall's PC when it is this command's word. A word with an unassigned opcode raises ILLEGAL; with the
opcode of another word the command is not the stall's next step, and nothing happens (log 12). -/
def issueWord (s : State) (sid op : Nat) (body : Stall → Nat → WordEnd) : State :=
  if canIssue s sid then
    let t := s.stall sid
    let w := wordAt t
    let o := bitsOf w 63 58
    if unassignedOp o then stallFault s sid fIllegal t.seq.pc
    else if o = op then finishWord sid t.seq.pc (body t w)
    else s
  else s

/-- The state with one stall replaced. -/
def putStall (s : State) (sid : Nat) (t : Stall) : State := { s with stalls := gset s.stalls sid t }

end Sys2Proof.Machine
end

