-- ==== Sys2Proof/Machine/Origins.lean ====
section
/-! DEFINITION. Where an access comes from, what it may reach (R328, R468), and the answer it gets (R308, R465). -/

namespace Sys2Proof.Machine

/-- The origin is a core of the device. -/
def Origin.internal : Origin → Bool
  | .i3c => false
  | .hostPort => false
  | .keadigor _ => false
  | .hostler => true
  | .groom => true

/-- The origin is authenticated (R308, R328), or a core of the device. -/
def Origin.auth : Origin → Bool
  | .i3c => true
  | .hostPort => true
  | .keadigor orig => orig
  | .hostler => true
  | .groom => true

/-- The answer to an access: STATUS, register data, window bytes (R308). -/
def answer (s : State) (status : Nat) (data : Word64) (bytes : List Byte) : State := { s with resp := ⟨status, data, bytes⟩ }

/-- A write that takes any authenticated origin (R328): another gets STATUS 2 and changes nothing. -/
def asAuth (o : Origin) (s : State) (f : State → State) : State :=
  if Origin.auth o then answer (f s) 0 0 [] else answer s 2 0 []

/-- A write that only the Hostler side makes (R468). -/
def asHostler (o : Origin) (s : State) (f : State → State) : State :=
  if Origin.internal o then answer (f s) 0 0 [] else answer s 2 0 []

/-- The listed stalls of sheds that are not ABSENT and satisfy `p`, in ascending order; every stall is asked when the unlisted ones,
which are all alike, satisfy it. -/
def stallsWhere (s : State) (p : Stall → Bool) : List Nat :=
  if p s.stalls.dflt then (List.range 1048576).filter (fun sid => p (s.stall sid) && !shedAbsent s (shedOf sid))
  else (s.stalls.cells.filter (fun c => p c.2 && !shedAbsent s (shedOf c.1))).map (·.1)

end Sys2Proof.Machine
end

