-- ==== Sys2Proof/Machine/Track.lean ====
section
/-! DEFINITION. The track (R151-R157, R163, R165, R167-R171): routing, injection, a flit's hop with its check, and leaving the mesh.
The model holds a message as the router inputs its header has entered and, for each flit, the input it stands in; log 16. -/

namespace Sys2Proof.Machine

/-! Packets. -/

/-- DEST of a packet. -/
def Packet.dest : Packet → Nat
  | .msg h _ => h.dest
  | .loft h _ => h.dest
/-- Payload flits of a packet. -/
def Packet.len : Packet → Nat
  | .msg h _ => h.len
  | .loft h _ => h.len
/-- The packet is a loft write (R236). -/
def Packet.isLoft : Packet → Bool
  | .msg _ _ => false
  | .loft _ _ => true
/-- Virtual channel of a packet. -/
def Packet.vc : Packet → Nat
  | .msg h _ => h.vc
  | .loft _ _ => 2
/-- SRCX of a packet. -/
def Packet.srcx : Packet → Bool
  | .msg h _ => h.srcx
  | .loft _ _ => true
/-- EPOCH of a packet. -/
def Packet.epoch : Packet → Bool
  | .msg h _ => h.epoch
  | .loft h _ => h.epoch

/-! Route tables (R163). -/

/-- The entry bring-up builds for a device without absent yards: X then Y, every minimal direction open (R163). -/
def plainEntry (yard dest : Nat) : Nat :=
  let x := yard % 8; let y := yard / 8; let dx := dest % 8; let dy := dest / 8
  let dir := if x < dx then 0 else if dx < x then 1 else if y < dy then 2 else 3
  let mask := (if x < dx then 1 else 0) + (if dx < x then 2 else 0) + (if y < dy then 4 else 0) + (if dy < y then 8 else 0)
  dir + 4 * mask

/-- The entry of a table at a router toward a yard. The detours of a set of dead yards are free values, but for UNR, which is 1 exactly
for the dead yards (R172, log 15). -/
def RouteTable.entry (r : RouteTable) (router dest : Nat) : Nat :=
  match gget r.entries (router * 64 + dest) with
  | some b => b.toNat
  | none =>
    if r.dead.isEmpty then plainEntry (yardOf router) dest
    else setBits (Config.detourEntry r.dead (yardOf router) dest).toNat 7 6 (b2n (r.dead.contains dest))

/-- The table of an epoch. -/
def routeTable (s : State) (epoch : Bool) : RouteTable := if epoch then s.routeB else s.routeA

/-- X then Y inside the destination yard; none at the destination (R163). -/
def yardDir (router dest : Nat) : Option Nat :=
  if xOf router < xOf dest then some 0 else if xOf dest < xOf router then some 1
  else if yOf router < yOf dest then some 2 else if yOf dest < yOf router then some 3 else none

/-- The neighbour in a direction; none at the grid edge (R12). -/
def neighbour (router dir : Nat) : Option Nat :=
  let x := xOf router; let y := yOf router
  if dir = 0 then (if x < 1023 then some (router + 1) else none)
  else if dir = 1 then (if 0 < x then some (router - 1) else none)
  else if dir = 2 then (if y < 1023 then some (router + 1024) else none)
  else (if 0 < y then some (router - 1024) else none)

/-- The input side that a flit travelling in a direction arrives at: travelling east it arrives from the west. -/
def arriveSide (dir : Nat) : Nat := if dir = 0 then 1 else if dir = 1 then 0 else if dir = 2 then 3 else 2

/-! Sidings (R169, R170). -/

/-- The edge stall of link j of a port's siding (R169). -/
def sidingStall (port j : Nat) : Nat :=
  let side := port / 36
  let pos := 8 + 28 * (port % 36) + j
  if side = 0 then pos else if side = 1 then pos * 1024 + 1023 else if side = 2 then 1023 * 1024 + pos else pos * 1024

/-- The port whose siding reaches a stall, if it is a siding stall (R169). A corner position has no siding. -/
def sidingPort (sid : Nat) : Option Nat :=
  let x := xOf sid; let y := yOf sid
  let at' := fun (side pos : Nat) => if 8 ≤ pos ∧ pos < 1016 then some (side * 36 + (pos - 8) / 28) else none
  if y = 0 ∧ 8 ≤ x ∧ x < 1016 then at' 0 x
  else if x = 1023 ∧ 8 ≤ y ∧ y < 1016 then at' 1 y
  else if y = 1023 ∧ 8 ≤ x ∧ x < 1016 then at' 2 x
  else if x = 0 ∧ 8 ≤ y ∧ y < 1016 then at' 3 y
  else none

/-- A packet leaves the mesh at its destination toward a port: VC2, SRCX 0, DEST a siding stall (R156). -/
def leavesAt (p : Packet) : Option Nat :=
  if p.isLoft || p.srcx || decide (p.vc ≠ 2) then none else sidingPort p.dest

/-! Buffers. -/

/-- Where a flit stands that has left the mesh. -/
def gone : Nat := 1000000

/-- Flits that stand in an input, of one buffer class: the virtual channel, its escape class (VC1) and its direction class (VC2) (R151, R155, R156). -/
def occupancy (s : State) (h : Hop) (vc : Nat) (inbound : Bool) : Nat :=
  (s.track.map (fun m =>
    if m.vc = vc ∧ m.inbound = inbound then
      (m.pos.filter (fun p => match m.path[p]? with | some x => decide (x = h) | none => false)).length
    else 0)).foldl (· + ·) 0

/-- An input has room for one more flit of a class (R151). -/
def hasRoom (s : State) (h : Hop) (vc : Nat) (inbound : Bool) : Bool := decide (occupancy s h vc inbound < 4)

/-- The injection input of a router or siding entry is still taken by an earlier message of the class (log 16). -/
def injectBusy (s : State) (router side vc : Nat) (inbound : Bool) : Bool :=
  s.track.any (fun m => decide (m.vc = vc) && decide (m.inbound = inbound) &&
    (match m.path with | h :: _ => decide (h.router = router) && decide (h.side = side) | [] => false) && m.pos.contains 0)

/-- Some message of the virtual channel has started on the link into an input and not finished (R157). -/
def linkTaken (s : State) (id vc : Nat) (router side : Nat) : Bool :=
  s.track.any (fun m => decide (m.id ≠ id) && decide (m.vc = vc) &&
    (List.range m.path.length).any (fun q =>
      match m.path[q]? with
      | some h => decide (h.router = router) && decide (h.side = side) && decide (0 < q) && decide (m.pos.getLastD 0 < q)
      | none => false))

/-- Another message of the class stands before this one in the input its header stands in (R151, R157): its header has gone on and flits
of it are still there, or its header came first. The track list keeps headers in the order in which they entered their inputs. -/
def behindOther (s : State) (m : TrackMsg) : Bool :=
  let x := m.path.getLast?
  let before := s.track.takeWhile (fun k => decide (k.id ≠ m.id))
  s.track.any (fun k => decide (k.id ≠ m.id) && decide (k.vc = m.vc) && decide (k.inbound = m.inbound) &&
    k.pos.any (fun p => decide (k.path[p]? = x) && decide (p < k.pos.headD 0))) ||
  before.any (fun k => decide (k.vc = m.vc) && decide (k.inbound = m.inbound) && decide (k.path.getLast? = x) &&
    decide (k.pos.headD gone ≠ gone))

/-! In-flight counts (R165, R239). -/

/-- The count of a yard goes up by one as a header enters it. -/
def countIn (s : State) (p : Packet) (y : Nat) : State :=
  modYard s y fun r => if p.isLoft then { r with lwcnt := r.lwcnt + 1 }
                       else if p.epoch then { r with cnt1 := r.cnt1 + 1 } else { r with cnt0 := r.cnt0 + 1 }
/-- The count of a yard goes down by one as a last flit leaves it. -/
def countOut (s : State) (p : Packet) (y : Nat) : State :=
  modYard s y fun r => if p.isLoft then { r with lwcnt := r.lwcnt - 1 }
                       else if p.epoch then { r with cnt1 := r.cnt1 - 1 } else { r with cnt0 := r.cnt0 - 1 }

/-- A packet enters the mesh at a router input: side 4 is the stall's injection port, side 5 a siding link. -/
def inject (s : State) (p : Packet) (router side : Nat) : State :=
  let m : TrackMsg := { id := s.nextId, packet := p, epoch := p.epoch, vc := p.vc, inbound := p.srcx, path := [⟨router, side, false⟩],
                        pos := List.replicate (1 + p.len) 0, refusals := 0, fate := .moving, waited := false }
  countIn { s with track := s.track ++ [m], nextId := s.nextId + 1 } p (yardOf router)

/-- Put a packet at the end of the track list with a new value: its header has just entered an input. -/
def requeue (s : State) (m : TrackMsg) : State :=
  { s with track := s.track.filter (fun x => decide (x.id ≠ m.id)) ++ [m] }

/-- Change one packet of the track. -/
def modTrack (s : State) (id : Nat) (f : TrackMsg → TrackMsg) : State :=
  { s with track := s.track.map (fun m => if m.id = id then f m else m) }
/-- A packet of the track. -/
def trackMsg (s : State) (id : Nat) : Option TrackMsg := s.track.find? (fun m => decide (m.id = id))
/-- The router a packet's header stands at. -/
def TrackMsg.head (m : TrackMsg) : Nat := match m.path.getLast? with | some h => h.router | none => 0
/-- Take a packet off the track; its count in the last yard goes down (R165). -/
def removeTrack (s : State) (m : TrackMsg) : State :=
  countOut { s with track := s.track.filter (fun x => decide (x.id ≠ m.id)) } m.packet (yardOf m.head)

/-- Every flit of a packet has left the mesh. -/
def TrackMsg.drained (m : TrackMsg) : Bool := m.pos.all (fun p => decide (p = gone))

/-- A packet is discarded at the router its header stands at: the header goes, and the flits behind it as they come (R171, R214).
With nothing behind it the packet is off the track. -/
def discardAt (s : State) (id : Nat) : State :=
  match trackMsg s id with
  | none => s
  | some m =>
    let m' := { m with fate := .dropped, pos := setAt m.pos 0 gone }
    if m'.drained then removeTrack s m' else modTrack s id (fun _ => m')

/-- Count a discard in UNREACH of a yard (R171, R175). -/
def countUnreach (s : State) (y : Nat) : State := modYard s y fun r => { r with unreach := satAdd 16 r.unreach 1 }

/-! The hop. -/

/-- Where a header may go next. -/
inductive Next where
  | hop (h : Hop)
  | eject
  | siding (port : Nat)
  | discard
  deriving DecidableEq, Repr

/-- The direction VC0 would take at a router (R154, R163). -/
def plainDir (s : State) (router dest : Nat) (epoch : Bool) : Option Nat :=
  if yardOf router = yardOf dest then yardDir router dest
  else some (bitsOf ((routeTable s epoch).entry router (yardOf dest)) 1 0)

/-- The outputs open to VC1 adaptive at a router (R155, R163). -/
def adaptiveOpen (s : State) (router dest : Nat) (epoch : Bool) (dir : Nat) : Bool :=
  if yardOf router = yardOf dest then decide (yardDir router dest = some dir)
  else bitOf ((routeTable s epoch).entry router (yardOf dest)) (2 + dir)

/-- The header's next step (R154-R156, R163, R171). `adaptive` names the output a VC1 header takes in its adaptive class, none its
escape class. None when the command is not a step the router makes. -/
def headerNext (s : State) (m : TrackMsg) (adaptive : Option (Fin 4)) : Option Next :=
  let r := m.head
  let d := m.packet.dest
  if r = d then (match leavesAt m.packet with | some p => some (.siding p) | none => some .eject)
  else if yardOf r ≠ yardOf d ∧ bitOf ((routeTable s m.epoch).entry r (yardOf d)) 6 then some .discard
  else
    let go := fun (dir : Nat) (esc : Bool) =>
      match neighbour r dir with
      | none => none
      | some n => if (s.yard (yardOf n)).track then some (Next.hop ⟨n, arriveSide dir, esc⟩) else some .discard
    if m.vc = 1 then
      match adaptive with
      | some dir => if adaptiveOpen s r d m.epoch dir then go dir false else none
      | none =>
        let free := (List.range 4).any (fun dir => adaptiveOpen s r d m.epoch dir &&
          (match neighbour r dir with | some n => hasRoom s ⟨n, arriveSide dir, false⟩ 1 m.inbound | none => false))
        if free then none else (match plainDir s r d m.epoch with | some dir => go dir true | none => none)
    else
      match adaptive with
      | some _ => none
      | none => (match plainDir s r d m.epoch with | some dir => go dir false | none => none)

/-- A VC0 flit waits at a router for the link into an input, and could cross it now (R157). -/
def vc0Waits (s : State) (h : Hop) : Bool :=
  s.track.any (fun m => decide (m.vc = 0) &&
    ((match headerNext s m none with
      | some (.hop x) => decide (x.router = h.router) && decide (x.side = h.side) && m.pos.head?.any (fun p => decide (p + 1 = m.path.length)) &&
          decide (m.fate = .moving) && hasRoom s x 0 m.inbound && !linkTaken s m.id 0 x.router x.side
      | _ => false) ||
     (List.range m.pos.length).any (fun i =>
       decide (0 < i) &&
       (match m.pos[i]?, m.pos[i - 1]? with
        | some p, some q =>
          decide (p < q) &&
          (match m.path[p + 1]? with
           | some x => decide (x.router = h.router) && decide (x.side = h.side) && hasRoom s x 0 m.inbound
           | none => false)
        | _, _ => false))))

/-- LDIR of the link into an input (R174): a bypass where physical positions lie between the two routers. -/
def ldirOf (s : State) (prev : Nat) (h : Hop) : Nat :=
  if 1 < h.side then h.side
  else
    let a := physStall s prev % 1224; let b := physStall s h.router % 1224
    let d := if a < b then b - a else a - b
    if d ≤ 1 then h.side else if d < 17 then 4 + h.side else 6

/-- A number for a failing unit in a journal record: level and physical number. -/
def unitCode : FailUnit → List Nat
  | .stall p => [0, p.val]
  | .shed n => [1, n.val]

/-- A unit presents a logical one (R24). -/
def unitInUse (s : State) : FailUnit → Bool
  | .stall p => (logicalStall s p).isSome
  | .shed n => (logicalShed s n).isSome

/-- A unit is retired already: it stands in the retired column of its row, or its shed does. -/
def unitRetired (s : State) (u : FailUnit) : Bool :=
  let gone := fun (n : Nat) => decide (n % 9 = gget (s.yard (n / 72)).rcol (n % 72 / 9))
  match u with
  | .stall p => gone (pshedOfPhys p) || decide (pcolOf p = gget (s.pshed (pshedOfPhys p)).rcol (prowOf p))
  | .shed n => gone n

/-- The yard of a unit. -/
def failYard : FailUnit → Nat
  | .stall p => pshedOfPhys p / 72
  | .shed n => n.val / 72

/-- A yard in which nothing can be remapped any longer: lame, or without its core rail. -/
def yardOut (s : State) (y : Nat) : Bool := (s.yard y).lame || !(s.yard y).core

/-- The unit is known as bad and waits for its retirement. -/
def failKnown (s : State) (u : FailUnit) : Bool :=
  s.rm.faults.contains u || s.grm.retireWait.contains u || (match s.rm.running with | some r => r.units.contains u | none => false)

/-- A unit fails (R21, R23, R24, R428): its DEFECT record is handed to the Groom, and it waits for the remap engine or, as an unused spare,
for its retirement. `source` is 0 BIST, 1 lunge, 2 run time, 3 prediction, 4 spare. -/
def failUnit (s : State) (u : FailUnit) (source : Nat) : State :=
  if unitRetired s u || yardOut s (failYard u) || failKnown s u then s
  else
    let used := unitInUse s u
    let s := journal s 1 (unitCode u ++ [if used then source else 4, 0])
    if used then { s with rm := { s.rm with faults := s.rm.faults ++ [u] } }
    else { s with grm := { s.grm with retireWait := s.grm.retireWait ++ [u] } }

/-- A flit is refused by its CRC-16 at an input (R153): resent, or after 8 consecutive refusals the link is failed. -/
def refuseFlit (s : State) (m : TrackMsg) (prev : Nat) (h : Hop) : State :=
  let y := yardOf h.router
  if m.refusals < 7 then
    modTrack (modYard s y fun r => { r with retries := satAdd 32 r.retries 1 }) m.id fun m => { m with refusals := m.refusals + 1 }
  else
    let ps := physStall s h.router
    let s := modTrack s m.id fun m => { m with refusals := 0 }
    let s := modYard s y fun r => { r with linkfail := true, ldir := ldirOf s prev h, psid := ps }
    let s := record s 2 (.yard y)
    let s := hwAbort s 7
    if h : ps < 1253376 then failUnit s (.stall ⟨ps, h⟩) 2 else s

/-- A message has come out at a port's siding (R156): it waits for the port's units. -/
def toInbox (s : State) (port : Nat) (p : Packet) : State :=
  match p with
  | .msg h pl => modPort s port fun q => { q with inbox := q.inbox ++ [(h, pl)] }
  | .loft _ _ => s

/-- A flit behind its header leaves the mesh at the end of the path, as its packet's fate says: it lands in the pen, is discarded, or
goes out at a siding. The last flit takes the packet off the track. Landing in a queue or slot belongs to MESSAGE_COMPLETE and
CONTRIBUTION_COUNTED for the last flit. -/
def exitFlit (s : State) (m : TrackMsg) (i : Nat) : State :=
  let last := decide (i + 1 = m.pos.length)
  let m' := { m with pos := setAt m.pos i gone, refusals := 0 }
  match m.fate with
  | .moving => s
  | .landing =>
    match leavesAt m.packet with
    | some p => if last then toInbox (removeTrack s m') p m.packet else modTrack s m.id (fun _ => m')
    | none => if last then s else modTrack s m.id (fun _ => m')
  | .penned =>
    let s := modTrack s m.id (fun _ => m')
    if last then
      let s := removeTrack s m'
      modQu s m.packet.dest fun u => { u with pen := u.pen.map (fun e => if e.id = m.id then { e with landed := true } else e) }
    else s
  | .dropped => if last then removeTrack s m' else modTrack s m.id (fun _ => m')

/-- A flit behind its header crosses to the next input of the path (R151, R153). -/
def bodyHop (s : State) (m : TrackMsg) (i p : Nat) (crcOk : Bool) : State :=
  match m.path[p]?, m.path[p + 1]? with
  | some a, some b =>
    if !hasRoom s b m.vc m.inbound || (decide (m.vc ≠ 0) && vc0Waits s b) then s
    else if !crcOk then refuseFlit s m a.router b
    else
      let m' := { m with pos := setAt m.pos i (p + 1), refusals := 0 }
      let s := modTrack s m.id (fun _ => m')
      if i + 1 = m.pos.length ∧ yardOf a.router ≠ yardOf b.router then countOut s m.packet (yardOf a.router) else s
  | _, _ => s

/-- The header's step (R154-R157, R165, R171). -/
def headerHop (s : State) (m : TrackMsg) (adaptive : Option (Fin 4)) (crcOk : Bool) : State :=
  if behindOther s m then s else
  match headerNext s m adaptive with
  | none => s
  | some .discard => discardAt (countUnreach s (yardOf m.head)) m.id
  | some .eject =>
    if (gget (s.stall m.packet.dest).qu.ej m.vc).isEmpty then
      let s := modTrack s m.id fun m => { m with pos := setAt m.pos 0 gone, refusals := 0 }
      modQu s m.packet.dest fun u => { u with ej := gset u.ej m.vc [m.id] }
    else s
  | some (.siding port) =>
    let m' := { m with pos := setAt m.pos 0 gone, refusals := 0, fate := .landing }
    if m'.drained then toInbox (removeTrack s m') port m.packet else modTrack s m.id (fun _ => m')
  | some (.hop h) =>
    if !hasRoom s h m.vc m.inbound || linkTaken s m.id m.vc h.router h.side || (decide (m.vc ≠ 0) && vc0Waits s h) then s
    else if !crcOk then refuseFlit s m m.head h
    else
      let y := yardOf m.head
      let m' := { m with path := m.path ++ [h], pos := setAt m.pos 0 m.path.length, refusals := 0 }
      let s := requeue s m'
      let s := if yardOf h.router ≠ y then countIn s m.packet (yardOf h.router) else s
      if m.pos.length = 1 ∧ yardOf h.router ≠ y then countOut s m.packet y else s

/-- A flit crosses a hop (R153). A flit that is not at the front of its message's next step, or has no room ahead, stays (log 1). -/
def flitHop (s : State) (id i : Nat) (adaptive : Option (Fin 4)) (crcOk : Bool) : State :=
  match trackMsg s id with
  | none => s
  | some m =>
    match m.pos[i]? with
    | none => s
    | some p =>
      if !(s.yard (yardOf (match m.path[p]? with | some h => h.router | none => 0))).track then s
      else if p = gone then s
      else if i = 0 then (if m.fate = .moving then headerHop s m adaptive crcOk else s)
      else
        match m.pos[i - 1]? with
        | none => s
        | some q =>
          if q ≤ p then s
          else if p + 1 < m.path.length then bodyHop s m i p crcOk
          else if m.pos.head? = some gone then exitFlit s m i
          else s

/-- FLIT_HOP (R153). -/
def execFlitHop (mid flit : Nat) (adaptive : Option (Fin 4)) (crcOk : Bool) (s : State) : Host.Outcome State Fault Refusal :=
  .next (flitHop s mid flit adaptive crcOk)

/-! Injection from the I/O ring. -/

/-- The distance of link j's edge position from a destination along the port's edge (R170). -/
def edgeDist (port j dest : Nat) : Nat :=
  let e := sidingStall port j
  let a := if port / 36 % 2 = 0 then xOf e else yOf e
  let b := if port / 36 % 2 = 0 then xOf dest else yOf dest
  if a < b then b - a else a - b

/-- The link that takes a header: the nearest to the destination, the lower j on a tie, among those that do not refuse it (R170). -/
def sidingLink (s : State) (port : Nat) (p : Packet) : Option Nat :=
  ((List.range 28).filter (fun j => !injectBusy s (sidingStall port j) 5 p.vc p.srcx)).foldl
    (fun best j => match best with
      | none => some j
      | some b => if edgeDist port j p.dest < edgeDist port b p.dest then some j else some b) none

/-- The generation units of the I/O ring stamp (R215): the open section's, between sections the armed one's, none when no section is
armed. -/
def ringGen (s : State) : Option Nat :=
  match activePlace s with
  | some p => if (s.place p).st = 4 then some s.sec.cg else (armedPlace s).map (fun a => (s.place a).gen)
  | none => (armedPlace s).map (fun a => (s.place a).gen)

/-- The remap engine holds loft writes toward a yard (R239): from the moment the remap that comes next may run until it ends. -/
def writesHeld (s : State) (yard : Nat) : Bool :=
  match s.rm.running with
  | some r => decide (r.yard = yard)
  | none =>
    (runningPlace s).isNone &&
    (match s.rm.faults with
     | [] => false
     | .stall p :: _ => decide (pshedOfPhys p / 72 = yard)
     | .shed n :: _ => decide (n.val / 72 = yard))

/-- Inject a packet through a port's siding; false when every link refuses it. -/
def injectSiding (s : State) (port : Nat) (p : Packet) : Option State :=
  (sidingLink s port p).map (fun j => inject s p (sidingStall port j) 5)

/-- SIDING_INJECTION (R170): the head of what the port's unit has built, or a Hostler cluster's message stamped under R215. -/
def execSidingInjection (port : PortId) (what : Injection) (s : State) : Host.Outcome State Fault Refusal :=
  .next (match what with
    | .unit =>
      match (s.port port).outbox with
      | [] => s
      | p :: rest =>
        if p.isLoft && writesHeld s (yardOf p.dest) then s else
        let p := match p with
          | .msg h pl => Packet.msg { h with epoch := s.sec.inj } pl
          | .loft h pl => Packet.loft { h with epoch := s.sec.inj } pl
        match injectSiding s port p with
        | none => s
        | some s => modPort s port fun q => { q with outbox := rest }
    | .message m =>
      match ringGen s with
      | none => s
      | some g =>
        let h : Hdr := { dest := m.dest, tag := m.tag.toNat, vc := m.vc, gen := g, epoch := s.sec.inj, f := false, fcount := 0,
                         len := ceilDiv m.payload.length 16, src := 256 + m.cluster, srcx := true, rly := false }
        if m.payload.length ≤ 1024 then
          (match injectSiding s port (.msg h (padTo (16 * h.len) m.payload)) with | none => s | some s => s)
        else s)

end Sys2Proof.Machine
end

