-- ==== Sys2Proof/Machine/Streams.lean ====
section
/-! DEFINITION. Streams and marshalling (R241-R260): issue and cancel, stream cars, release of blocks, credits, acknowledgement and gaps. -/

namespace Sys2Proof.Machine

/-! Descriptors (R242). -/

/-- A word of the descriptor. -/
def StreamCtx.word (x : StreamCtx) (w : Nat) : Nat := (gget x.desc w).toNat
/-- NBLK. -/
def StreamCtx.nblk (x : StreamCtx) : Nat := bitsOf (x.word 2) 24 0
/-- WINDOW. -/
def StreamCtx.win (x : StreamCtx) : Nat := bitsOf (x.word 3) 47 36
/-- The soft gap in us. -/
def StreamCtx.soft (x : StreamCtx) : Nat := if bitsOf (x.word 3) 19 0 = 0 then 5000 else bitsOf (x.word 3) 19 0
/-- The hard gap in us. -/
def StreamCtx.hard (x : StreamCtx) : Nat := 1000 * (if bitsOf (x.word 3) 35 20 = 0 then 2000 else bitsOf (x.word 3) 35 20)

/-- The descriptor is valid for context `c` of port `p` (R242). -/
def StreamCtx.valid (x : StreamCtx) (p c : Nat) : Bool :=
  let w0 := x.word 0; let w1 := x.word 1; let w2 := x.word 2; let w3 := x.word 3
  let taddr := bitsOf w1 47 0; let hblk := bitsOf w2 41 25
  decide (bitsOf w0 4 0 = c) && decide (bitsOf w0 7 5 = 0) && decide (bitsOf w0 15 8 = p) && decide (bitsOf w0 33 32 < 3) &&
  decide (x.mode < 3) && decide (bitsOf w0 63 37 = 0) && decide (bitsOf w1 63 48 = 0) && decide (taddr % 4096 = 0) &&
  decide (1 ≤ x.nblk) && decide (x.nblk ≤ 2 ^ 24) && decide (bitsOf w3 63 48 = 0) &&
  decide (bitsOf w3 19 0 ≤ 1000000) && decide (bitsOf w3 35 20 = 0 ∨ 10 ≤ bitsOf w3 35 20) &&
  decide (taddr + 4096 * x.nblk ≤ 2 ^ 48) &&
  (if x.mode = 0 then decide (bitsOf w2 63 63 = 0) && decide (bitsOf w2 43 25 + bitsOf w2 62 44 < 524288)
   else if x.mode = 1 then decide (bitsOf w2 63 42 = 0) && decide (hblk + x.nblk ≤ 131072) && !x.secbind
   else decide (bitsOf w2 63 25 = 0) && !x.secbind) &&
  decide (x.soft < x.hard)

/-! Commands (R243). -/

/-- ISSUE, as the unit takes it: the context starts afresh and the stream request goes out. -/
def takeIssue (p c : Nat) (s : State) : State :=
  let x := s.ctx p c
  if !x.active && x.valid p c then
    let s := modCtx s p c fun x => { x with st := 1, ack := 0, credit := 0, released := [], bfails := gconst 0, reported := 0,
                                             overrun := none, tackBuf := [] }
    sendSctl s p 1 x.id (bitsOf (x.word 1) 47 0 + bitsOf (x.word 0) 33 32 * 2 ^ 48) x.nblk 0
  else modPort s p fun q => { q with merr := true }

/-- CANCEL, as the unit takes it. -/
def takeCancel (p c : Nat) (s : State) : State :=
  if (s.ctx p c).active then slotFreed (fixHeld (stopStream s p c 6)) p else modPort s p fun q => { q with merr := true }

/-- A write of PORT.MCTRL (R258): CTX, CMD, GO; ERR is cleared by writing 1, and an error of the same step stands (R9). -/
def writeMctrl (p data : Nat) (s : State) : State :=
  let s := modPort s p fun q => { q with mctx := bitsOf data 4 0, mcmd := bitsOf data 6 5, merr := q.merr && !bitOf data 8 }
  if !bitOf data 7 then s
  else if bitsOf data 6 5 = 1 then takeIssue p (bitsOf data 4 0) s
  else if bitsOf data 6 5 = 2 then takeCancel p (bitsOf data 4 0) s
  else s

/-- STREAM_ISSUE (R243). -/
def execStreamIssue (o : Origin) (port : PortId) (ctx : Fin 32) (s : State) : Host.Outcome State Fault Refusal :=
  .next (asAuth o s (writeMctrl port (ctx + 32 + 128)))

/-- STREAM_CANCEL (R243). -/
def execStreamCancel (o : Origin) (port : PortId) (ctx : Fin 32) (s : State) : Host.Outcome State Fault Refusal :=
  .next (asAuth o s (writeMctrl port (ctx + 64 + 128)))

/-! Resend, loss, and slots (R245, R251, R254). -/

/-- Take a block's slot away. -/
def freeSlot (s : State) (p c b : Nat) : State :=
  modPort s p fun q => { q with slots := q.slots.filter (fun a => !(decide (a.ctx = c) && decide (a.block = b))) }

/-- A stream goes LOST (R254): recorded, captured, stopped, and, when it is bound, the running section is aborted. -/
def loseStream (s : State) (p c : Nat) : State :=
  let bound := (s.ctx p c).secbind
  let s := recordWith s 12 (.ring p) bound
  let s := if s.mars.lostv then s else { s with mars := { s.mars with lostv := true, lport := p, lctx := c } }
  let s := slotFreed (fixHeld (stopStream s p c 5)) p
  if bound then hwAbort s 4 else s

/-- A block failed its brand check (R245, R254): discarded, recorded, and asked for again, or the stream is lost at its third failure. -/
def blockFailed (s : State) (p c b : Nat) : State :=
  let s := record (freeSlot s p c b) 1 (.ring p)
  let n := gget (s.ctx p c).bfails b + 1
  let s := modPort s p fun q => { q with bfails := satAdd 16 q.bfails 1 }
  let s := modCtx s p c fun x => { x with bfail := true, bfails := gset x.bfails b n }
  if 3 ≤ n then loseStream s p c else slotFreed (sendResend s p c b) p

/-- The bytes of a complete block, in car order. -/
def ASlot.bytes (a : ASlot) : List Byte := (List.range 16).flatMap (fun i => (gget a.cars i).getD [])
/-- All 16 cars are present (R245). -/
def ASlot.complete (a : ASlot) : Bool := (List.range 16).all (fun i => (gget a.cars i).isSome)
/-- The slot of a block. -/
def Port.slotAt (q : Port) (c b : Nat) : Option ASlot := q.slots.find? (fun a => decide (a.ctx = c) && decide (a.block = b))

/-- A car dropped and counted in DUPDROP. -/
def dupDrop (s : State) (p : Nat) : State := modPort s p fun q => { q with dupdrop := satAdd 16 q.dupdrop 1 }
/-- A car dropped for window or slot (R251). -/
def overrunDrop (s : State) (p c b : Nat) : State :=
  let s := modPort s p fun q => { q with overrun := satAdd 16 q.overrun 1 }
  modCtx s p c fun x => { x with overrun := some (match x.overrun with | some k => min k b | none => b) }

/-- Place a car in its block's slot; a block then complete is checked against its brand (R245). -/
def placeCar (s : State) (p c b k : Nat) (car : RxCar) (a : ASlot) : State :=
  let a := { a with cars := gset a.cars k (some car.payload), brand := if k = 15 then car.w3.toNat else a.brand }
  let done := a.complete
  let good := decide (brandOf a.bytes = a.brand)
  let a := { a with ok := done && good }
  let s := modPort s p fun q => { q with slots := q.slots.filter (fun x => !(decide (x.ctx = c) && decide (x.block = b))) ++ [a] }
  if done && !good then blockFailed s p c b else s

/-- A stream car of an active context (R245, R251). -/
def takeStreamCar (s : State) (p c b k : Nat) (car : RxCar) : State :=
  let s := if (s.ctx p c).st = 2 then s else fixHeld (modCtx s p c fun x => { x with st := 2 })
  let x := s.ctx p c
  let q := s.port p
  if b < x.ack ∨ x.released.contains b ∨ x.nblk ≤ b then dupDrop s p
  else if x.ack + 64 ≤ b then overrunDrop s p c b
  else
    match q.slotAt c b with
    | some a => if (gget a.cars k).isSome then dupDrop s p else placeCar s p c b k car a
    | none =>
      if q.slotsUsed < 64 ∧ q.slotsOf c < 32 then
        placeCar s p c b k car { ctx := c, block := b, cars := gconst none, brand := 0, ok := false }
      else overrunDrop s p c b

/-- SDATA (R245). -/
def execSdata (port : PortId) (car : RxCar) (s : State) : Host.Outcome State Fault Refusal :=
  .next (
    if car.typ ≠ 1 then s
    else
      match receiveCar s port car with
      | .drop s => s
      | .take s =>
        let id := car.w1.toNat
        let c := bitsOf id 4 0
        let x := s.ctx port c
        if x.id ≠ id ∨ !x.active then dupDrop s port
        else takeStreamCar s port c (bitsOf car.w2.toNat 23 0) (bitsOf car.w2.toNat 27 24) car)

/-! Release (R246-R249). -/

/-- The entry that a block of a MODE 0 stream uses now (R248). -/
def entryFor (s : State) (x : StreamCtx) (b : Nat) : Nat :=
  let i := bitsOf (x.word 2) 43 25 + b % (bitsOf (x.word 2) 62 44 + 1)
  (gget (if s.sec.inj then s.mars.verB else s.mars.verA) i).toNat

/-- The entry may be used (R249). -/
def entryOk (s : State) (e : Nat) : Bool :=
  decide (bitsOf e 31 30 ≠ 0) && (decide (bitsOf e 31 30 ≠ 3) || decide (bitsOf e 36 32 < 16)) && decide (bitsOf e 63 38 = 0) &&
  !shedAbsent s (shedOf (bitsOf e 19 0))

/-- A verified block may be released (R246). -/
def releasable (s : State) (x : StreamCtx) (b : Nat) : Bool :=
  let e := entryFor s x b
  (decide (x.win = 0) || decide (b < x.credit + x.win)) && (decide (x.mode ≠ 2) || decide (b = x.ack)) &&
  (decide (x.mode ≠ 0) || ((!bitOf e 37 || (ringGen s).isSome) && !writesHeld s (yardOf (bitsOf e 19 0))))

/-- The loft write of a block (R236, R246). -/
def blockWrite (s : State) (p : Nat) (x : StreamCtx) (b e : Nat) (a : ASlot) : Packet :=
  .loft { dest := bitsOf e 19 0, runm1 := 0, kind := 0, epoch := s.sec.inj, brd := true, uaddr := bitsOf e 36 32 * 64,
          space := bitsOf e 31 30, len := 256, ngen := (ringGen s).getD 0, ntf := bitOf e 37, src := p, tag := bitsOf e 29 20,
          brand := a.brand, stream := x.id, block := b } a.bytes

/-- Where a released block goes (R244, R249). -/
def deliverBlock (s : State) (p c b : Nat) (a : ASlot) : State :=
  let x := s.ctx p c
  if x.mode = 0 then
    let e := entryFor s x b
    if entryOk s e then
      let w := blockWrite s p x b e a
      modPort s p fun q => { q with outbox := q.outbox ++ [w] }
    else
      let s := modPort (record s 13 (.ring p)) p fun q => { q with misses := satAdd 16 q.misses 1 }
      modCtx s p c fun x => { x with miss := true }
  else if x.mode = 1 then { s with hmem := Memory.writeBytes s.hmem ((bitsOf (x.word 2) 41 25 + b) * 4096) a.bytes }
  else modCtx s p c fun x => { x with tackBuf := Memory.writeBytes x.tackBuf (b * 4096) a.bytes }

/-- ACK after one more block: it passes every block released without a gap (R251). -/
def advanceAck : Nat → List Nat → Nat → Nat
  | 0, _, ack => ack
  | n + 1, released, ack => if released.contains ack then advanceAck n released (ack + 1) else ack

/-- A block counts as released; at ACK = NBLK the stream is DONE (R243, R251). -/
def countReleased (x : StreamCtx) (b : Nat) : StreamCtx :=
  let rel := x.released ++ [b]
  let ack := advanceAck (rel.length) rel x.ack
  { x with released := rel.filter (fun k => decide (ack ≤ k)), ack := ack, st := if ack = x.nblk then 4 else x.st }

/-- Release one verified block. -/
def releaseBlock (s : State) (p c b : Nat) (a : ASlot) : State :=
  let s := deliverBlock s p c b a
  let s := modCtx (freeSlot s p c b) p c fun x => countReleased x b
  fixHeld (slotFreed s p)

/-- The verified blocks of a context in ascending order. -/
def Port.verified (q : Port) (c : Nat) : List Nat :=
  let bs := (q.slots.filter (fun a => decide (a.ctx = c) && a.ok)).map (·.block)
  bs.foldl (fun l b => l.takeWhile (fun k => decide (k < b)) ++ [b] ++ l.dropWhile (fun k => decide (k < b))) []

/-- BLOCK_RELEASE (R246): the lowest verified block of the context that may go is released. -/
def execBlockRelease (port : PortId) (ctx : Fin 32) (s : State) : Host.Outcome State Fault Refusal :=
  .next (
    let x := s.ctx port ctx
    if !x.active then s
    else
      match ((s.port port).verified ctx).find? (fun b => releasable s x b) with
      | none => s
      | some b => match (s.port port).slotAt ctx b with | none => s | some a => releaseBlock s port ctx b a)

/-! Credits, acknowledgement, gaps (R250-R254). -/

/-- A credit message's payload (R250). -/
def takeCredit (s : State) (p : Nat) (h : Hdr) (payload : List Byte) : State :=
  let id := leAt payload 0 4; let n := leAt payload 4 4
  let c := bitsOf id 4 0
  let x := s.ctx p c
  if h.tag = 1 ∧ !h.f ∧ h.len = 1 ∧ x.id = id ∧ x.active ∧ 1 ≤ n ∧ n ≤ 4095 then
    modCtx s p c fun x => { x with credit := satAdd 25 x.credit n }
  else dupDrop s p

/-- CREDIT_MESSAGE (R250): the message at the head of what has come out at the port's siding, unless it is a gradient part. One with a
tag of its own is dropped here (R264). -/
def execCreditMessage (port : PortId) (s : State) : Host.Outcome State Fault Refusal :=
  .next (match (s.port port).inbox with
    | [] => s
    | (h, payload) :: rest =>
      if h.tag = 2 then s else takeCredit (modPort s port fun q => { q with inbox := rest }) port h payload)

/-- ACK_REPORT (R251). -/
def execAckReport (port : PortId) (ctx : Fin 32) (s : State) : Host.Outcome State Fault Refusal :=
  .next (
    let x := s.ctx port ctx
    if x.ack ≠ x.reported ∧ (x.active ∨ x.st = 4) then
      sendSctl (modCtx s port ctx fun x => { x with reported := x.ack }) port 2 x.id x.ack 0 0
    else s)

/-- The gap timer of a context does not run: a block of it is held, or its credits are withheld (R252). -/
def gapPaused (s : State) (p c : Nat) : Bool :=
  let q := s.port p
  !(q.verified c).isEmpty || decide (q.streamLimit c ≤ gget q.sess.srcv c)

/-- SOFT_GAP (R253): the gap timer has reached the soft gap, or a further one (log 3). -/
def execSoftGap (port : PortId) (ctx : Fin 32) (s : State) : Host.Outcome State Fault Refusal :=
  .next (
    let x := s.ctx port ctx
    if !x.active || gapPaused s port ctx then s
    else if x.st = 3 then sendResend s port ctx x.ack
    else
      let s := record s 11 (.ring port)
      let s := modCtx s port ctx fun x => { x with st := 3, gapseen := true }
      let s := sendResend s port ctx x.ack
      if x.secbind && (runningPlace s).isSome then { s with sec := { s.sec with held := true } } else s)

/-- HARD_GAP (R254): the gap timer has reached the hard gap (log 3). -/
def execHardGap (port : PortId) (ctx : Fin 32) (s : State) : Host.Outcome State Fault Refusal :=
  .next (if (s.ctx port ctx).active && !gapPaused s port ctx then loseStream s port ctx else s)

/-! The marshalling table (R248, R259). -/

/-- A write of an entry: the version in use is refused and counted (R248). -/
def writeEntry (version : Bool) (index : Nat) (data : Word64) (s : State) : State :=
  if version = s.sec.inj then { s with mars := { s.mars with refused := satAdd 16 s.mars.refused 1 } }
  else if version then { s with mars := { s.mars with verB := gset s.mars.verB index data } }
  else { s with mars := { s.mars with verA := gset s.mars.verA index data } }

/-- MARSHALLING_ENTRY_WRITE (R248). -/
def execMarshallingEntryWrite (o : Origin) (version : Bool) (index : Fin 524288) (data : Word64) (s : State) : Host.Outcome State Fault Refusal :=
  .next (asAuth o s (writeEntry version index data))


end Sys2Proof.Machine
end

