-- ==== Sys2Proof/Machine/Buckets.lean ====
section
/-! DEFINITION. Gradient buckets (R261-R280). -/

namespace Sys2Proof.Machine

/-! Descriptors (R266). -/

/-- A word of the descriptor. -/
def Bucket.word (b : Bucket) (w : Nat) : Nat := (gget b.desc w).toNat
/-- PORT. -/
def Bucket.port (b : Bucket) : Nat := bitsOf (b.word 0) 7 0
/-- NBLK. -/
def Bucket.nblk (b : Bucket) : Nat := if bitsOf (b.word 1) 16 0 = 0 then 16384 else bitsOf (b.word 1) 16 0
/-- First byte of the staging area. -/
def Bucket.sbase (b : Bucket) : Nat := bitsOf (b.word 1) 36 20 * 4096
/-- First byte of the scale table. -/
def Bucket.table (b : Bucket) : Nat := bitsOf (b.word 1) 63 41 * 64
/-- First byte of the return area. -/
def Bucket.rbase (b : Bucket) : Nat := bitsOf (b.word 2) 16 0 * 4096
/-- RMODE 0: reduced blocks are written. -/
def Bucket.writes (b : Bucket) : Bool := !bitOf (b.word 0) 8
/-- The bucket ID of context `c`. -/
def Bucket.id (b : Bucket) (c : Nat) : Nat := bitsOf (b.word 0) 31 16 * 2 ^ 16 + b.port * 2 ^ 8 + c
/-- The scale byte of a block. -/
def scaleOf (s : State) (b : Bucket) (k : Nat) : Byte := Memory.read s.hmem (b.table + k)

/-- The areas of a bucket: first byte and length (R266). -/
def Bucket.areas (b : Bucket) : List (Nat × Nat) :=
  [(b.sbase, ceilDiv b.nblk 4 * 4096), (b.table, b.nblk)] ++ (if b.writes then [(b.rbase, b.nblk * 4096)] else [])

/-- The areas lie in Hostler memory and do not overlap. -/
def areasFit : List (Nat × Nat) → Bool
  | [] => true
  | (o, n) :: r => decide (o + n ≤ 0x20000000) && r.all (fun q => decide (o + n ≤ q.1) || decide (q.1 + q.2 ≤ o)) && areasFit r

/-- The descriptor is valid (R266). -/
def bucketValid (s : State) (b : Bucket) : Bool :=
  let n := bitsOf (b.word 1) 16 0; let r := bitsOf (b.word 2) 47 32
  decide (b.port < 144) && decide (bitsOf (b.word 0) 15 9 = 0) && decide (bitsOf (b.word 0) 63 32 = 0) &&
  (decide (n = 0) || (decide (4096 ≤ n) && decide (n ≤ 65536))) && decide (bitsOf (b.word 1) 19 17 = 0) &&
  decide (bitsOf (b.word 1) 40 37 = 0) && decide (bitsOf (b.word 2) 31 17 = 0) && decide (bitsOf (b.word 2) 63 48 = 0) &&
  (decide (r = 0) || decide (10 ≤ r)) && decide (b.word 3 = 0) && areasFit b.areas &&
  (List.range b.nblk).all (fun k => decide (scaleOf s b k ≠ 0xFF#8))

/-! Commands (R267). -/

/-- A bucket control record to the bucket's port. -/
def sendBucketCtl (s : State) (c kind a0 a1 a2 : Nat) : State := sendSctl s (s.bucket c).port kind ((s.bucket c).id c) a0 a1 a2

/-- The cars of a bucket that wait at its port are given up. -/
def dropWaiting (s : State) (c : Nat) : State :=
  let id := (s.bucket c).id c
  modPort s (s.bucket c).port fun q =>
    { q with sess := { q.sess with waiting := q.sess.waiting.filter (fun x => !(decide (x.typ = 2 ∨ x.typ = 5) && decide (x.w1 = id))) } }

/-- The scale table in STAB cars (R293). -/
def sendTable (s : State) (c : Nat) : State :=
  let b := s.bucket c
  (List.range (ceilDiv b.nblk 256)).foldl (fun s i =>
    let n := min 256 (b.nblk - 256 * i)
    sendCar s b.port (mkCar 5 2 (b.id c) i 0 (Memory.readBytes s.hmem (b.table + 256 * i) n))) s

/-- The bucket after ISSUE (R267). -/
def Bucket.issued (b : Bucket) : Bucket :=
  { Bucket.atReset with desc := b.desc, st := 1, gchk := b.gchk, gcause := b.gcause }

/-- ISSUE, as the engines take it (R267). -/
def takeBucketIssue (c : Nat) (s : State) : State :=
  let b := s.bucket c
  if (b.st = 0 ∨ b.st = 5 ∨ b.st = 6 ∨ b.st = 7) ∧ bucketValid s b then
    let s := sendTable (modBucket s c Bucket.issued) c
    sendBucketCtl s c 0x11 b.nblk 0 0
  else { s with mars := { s.mars with berr := true } }

/-- CANCEL, as the engines take it (R267). -/
def takeBucketCancel (c : Nat) (s : State) : State :=
  let b := s.bucket c
  if b.st = 0 ∨ b.st = 5 ∨ b.st = 6 then { s with mars := { s.mars with berr := true } }
  else sendBucketCtl (modBucket (dropWaiting s c) c fun b => { b with st := 7 }) c 0x15 0 0 0

/-- A write of MARS.BCTRL (R280). -/
def writeBctrl (data : Nat) (s : State) : State :=
  let s := { s with mars := { s.mars with bctx := bitsOf data 5 0, bcmd := bitsOf data 7 6, berr := s.mars.berr && !bitOf data 9 } }
  if !bitOf data 8 then s
  else if bitsOf data 7 6 = 1 then takeBucketIssue (bitsOf data 5 0) s
  else if bitsOf data 7 6 = 2 then takeBucketCancel (bitsOf data 5 0) s
  else s

/-- BUCKET_ISSUE (R267). -/
def execBucketIssue (o : Origin) (ctx : Fin 64) (s : State) : Host.Outcome State Fault Refusal :=
  .next (asAuth o s (writeBctrl (ctx + 64 + 256)))

/-- BUCKET_CANCEL (R267). -/
def execBucketCancel (o : Origin) (ctx : Fin 64) (s : State) : Host.Outcome State Fault Refusal :=
  .next (asAuth o s (writeBctrl (ctx + 128 + 256)))

/-! Parts (R264, R265). -/

/-- p of R271. -/
def csumMod : Nat := 2 ^ 61 - 1

/-- A sum of terms modulo p. -/
def csumAdd (acc : Nat) (x : Int) : Nat := (((acc : Int) + x) % (csumMod : Int)).toNat

/-- The term of element `i` with value `x` (R271). -/
def csumTerm (i : Nat) (x : Int) : Int := ((i : Int) + 1) * x

/-- The part's fields: context, block, half, scale; and whether its reserved bytes are 0. -/
structure Part where
  ctx   : Nat
  block : Nat
  half  : Nat
  scale : Byte
  ok    : Bool
  deriving DecidableEq, Repr

/-- Read the part header (R264). -/
def Part.ofPayload (pl : List Byte) : Part :=
  { ctx := bitsOf (leAt pl 0 4) 5 0, block := bitsOf (leAt pl 4 4) 15 0, half := bitsOf (leAt pl 4 4) 16 16, scale := pl.getD 8 0,
    ok := decide (bitsOf (leAt pl 0 4) 31 6 = 0) && decide (bitsOf (leAt pl 4 4) 31 17 = 0) && decide (leAt pl 9 7 = 0) }

/-- A part dropped and counted in LATE. -/
def partLate (s : State) (c : Nat) : State := modBucket s c fun b => { b with late := satAdd 16 b.late 1 }

/-- Stage a part (R263, R265, R268, R271). -/
def stagePart (s : State) (x : Part) (pl : List Byte) : State :=
  let es := slice pl 16 512
  let base := 1024 * x.block + 512 * x.half
  let b := s.bucket x.ctx
  let vs := es.map (fun e => signedOf 8 e.toNat)
  let csum := (List.range 512).foldl (fun acc j => csumAdd acc (csumTerm (base + j) (vs.getD j 0))) b.csum
  let sats := (vs.filter (fun v => decide (v = -128 ∨ v = 127))).length
  let s := { s with hmem := Memory.writeBytes s.hmem (b.sbase + base) es }
  modBucket s x.ctx fun b =>
    let halves := b.halves ++ [2 * x.block + x.half]
    { b with bound := true, halves := halves, csum := csum, sats := satAdd 32 b.sats sats,
             st := if halves.length = 2 * b.nblk then 2 else 1 }

/-- A part at a port goes through the checks of R265 in order. -/
def takePart (s : State) (p : Nat) (h : Hdr) (pl : List Byte) : State :=
  let x := Part.ofPayload pl
  let b := s.bucket x.ctx
  if (runningPlace s).isNone ∨ h.gen ≠ s.sec.cg then partLate (record s 9 (.ring p)) x.ctx
  else if b.st ≠ 1 ∨ b.port ≠ p then partLate s x.ctx
  else if h.len ≠ 33 ∨ !x.ok ∨ b.nblk ≤ x.block then gradCheck s x.ctx 2
  else if x.scale ≠ scaleOf s b x.block then gradCheck s x.ctx 3
  else if b.halves.contains (2 * x.block + x.half) then gradCheck s x.ctx 4
  else stagePart s x pl

/-- GRADIENT_PART (R265): the message at the head of what has come out at the port's siding, when it is a part. -/
def execGradientPart (port : PortId) (s : State) : Host.Outcome State Fault Refusal :=
  .next (match (s.port port).inbox with
    | [] => s
    | (h, pl) :: rest => if h.tag = 2 then takePart (modPort s port fun q => { q with inbox := rest }) port h pl else s)

/-! Sending (R270). -/

/-- Hand the cars of blocks `b` to NBLK - 1 to the port, in ascending order (R270, R293). -/
def sendBlocks (s : State) (c b : Nat) : State :=
  let x := s.bucket c
  (List.range (x.nblk - b)).foldl (fun s i =>
    let k := b + i
    (List.range 4).foldl (fun s j =>
      let w2 := k + j * 2 ^ 16 + x.rounds * 2 ^ 18 + (scaleOf s x k).toNat * 2 ^ 20
      sendCar s x.port (mkCar 2 2 (x.id c) w2 0 (Memory.readBytes s.hmem (x.sbase + 1024 * k + 256 * j) 256))) s) s

/-- The close (R270, R294). -/
def sendClose (s : State) (c : Nat) : State :=
  let b := s.bucket c
  sendBucketCtl s c 0x13 (b.nblk + b.rounds * 2 ^ 32) b.sats b.csum

/-- The context enters SENDING: a round begins (R267, R274). -/
def startRound (s : State) (c : Nat) : State :=
  let s := modBucket s c fun b => { b with st := 3, back := [], cars := gconst none, brands := gconst 0, racc := 0, rfails := gconst 0,
                                           haveA := false }
  sendBlocks s c 0

/-- BUCKET_SEND_START (R267): HELD, its section ended cleanly, agreed, and the port UP. -/
def execBucketSendStart (ctx : Fin 64) (s : State) : Host.Outcome State Fault Refusal :=
  .next (
    let b := s.bucket ctx
    if b.st = 2 ∧ b.clean ∧ b.agreed ∧ (s.port b.port).st = 4 then startRound s ctx else s)

/-- No gradient car of the bucket waits at its port. -/
def allSent (s : State) (c : Nat) : Bool :=
  let b := s.bucket c
  (s.port b.port).sess.waiting.all (fun x => !(decide (x.typ = 2) && decide (x.w1 = b.id c)))

/-- BUCKET_CLOSE_SENT (R267, R270). -/
def execBucketCloseSent (ctx : Fin 64) (s : State) : Host.Outcome State Fault Refusal :=
  .next (if (s.bucket ctx).st = 3 ∧ allSent s ctx then modBucket (sendClose s ctx) ctx fun b => { b with st := 4 } else s)

/-! The return (R273, R274). -/

/-- The round ends in a mismatch: a further round, or FAILED after the third (R267, R274). -/
def roundFailed (s : State) (c : Nat) : State :=
  let s := gradCheck (modBucket s c fun b => { b with rsum := b.racc }) c 1
  if (s.bucket c).rounds < 2 then startRound (modBucket s c fun b => { b with rounds := b.rounds + 1 }) c
  else modBucket s c fun b => { b with st := 6 }

/-- With every block and A here, the engine compares R with A (R273). -/
def checkReturn (s : State) (c : Nat) : State :=
  let b := s.bucket c
  if b.haveA ∧ b.back.length = b.nblk then
    if b.racc = b.asum then modBucket s c fun b => { b with rsum := b.racc, st := 5 } else roundFailed s c
  else s

/-- A complete returned block is verified, added to R and handled by RMODE, or asked for again (R273). -/
def takeReturned (s : State) (p c k : Nat) (bytes : List Byte) (brand : Nat) : State :=
  let drop := fun (b : Bucket) => { b with cars := gmodKeys b.cars ((List.range 16).map (fun i => 16 * k + i)) (fun _ _ => none) }
  let b := s.bucket c
  if brandOf bytes = brand then
    let racc := (List.range 1024).foldl (fun acc j => csumAdd acc (csumTerm (1024 * k + j) (signedOf 32 (leAt bytes (4 * j) 4)))) b.racc
    let s := if b.writes then { s with hmem := Memory.writeBytes s.hmem (b.rbase + 4096 * k) bytes } else s
    checkReturn (modBucket s c fun b => { (drop b) with racc := racc, back := b.back ++ [k] }) c
  else
    let n := gget b.rfails k + 1
    let s := modBucket (record s 1 (.ring p)) c fun b => { (drop b) with rfails := gset b.rfails k n }
    if 3 ≤ n then roundFailed s c else sendBucketCtl s c 3 k 0 0

/-- A car of a returned block (R273, R293). Cars of another bucket, round or block, and duplicates, are dropped. -/
def takeReturnCar (s : State) (p : Nat) (car : RxCar) : State :=
  let id := car.w1.toNat; let c := bitsOf id 5 0
  let k := bitsOf car.w2.toNat 15 0; let j := bitsOf car.w2.toNat 19 16
  let b := s.bucket c
  if b.st ≠ 4 ∨ b.id c ≠ id ∨ b.port ≠ p ∨ bitsOf car.w2.toNat 21 20 ≠ b.rounds ∨ b.nblk ≤ k ∨ b.back.contains k ∨
      (gget b.cars (16 * k + j)).isSome then s
  else
    let s := modBucket s c fun b => { b with cars := gset b.cars (16 * k + j) (some car.payload),
                                             brands := if j = 15 then gset b.brands k car.w3.toNat else b.brands }
    let b := s.bucket c
    if (List.range 16).all (fun i => (gget b.cars (16 * k + i)).isSome) then
      takeReturned s p c k ((List.range 16).flatMap (fun i => (gget b.cars (16 * k + i)).getD [])) (gget b.brands k)
    else s

/-- GRET (R273). -/
def execGret (port : PortId) (car : RxCar) (s : State) : Host.Outcome State Fault Refusal :=
  .next (
    if car.typ ≠ 3 then s
    else match receiveCar s port car with | .drop s => s | .take s => takeReturnCar s port car)

/-- BUCKET_TIMEOUT (R275): the bucket's timer has reached RTIMEOUT (log 3). -/
def execBucketTimeout (ctx : Fin 64) (s : State) : Host.Outcome State Fault Refusal :=
  .next (
    let b := s.bucket ctx
    if b.st = 3 ∨ b.st = 4 then
      let s := recordWith s 12 (.ring b.port) false
      sendBucketCtl (modBucket (dropWaiting s ctx) ctx fun b => { b with st := 6 }) ctx 0x15 0 0 0
    else s)

/-! Control records from the Keadigor (R294). -/

/-- BAGREE (R267). -/
def takeBagree (s : State) (c a0 : Nat) : State :=
  let b := s.bucket c
  if a0 = 0 ∧ (b.st = 1 ∨ b.st = 2) then modBucket s c fun b => { b with agreed := true }
  else if a0 = 1 ∧ b.st = 1 then modBucket (gradCheck s c 6) c fun b => { b with st := 6 }
  else s

/-- BRSND (R270). A request of another round, or for a block past the last, is passed over. -/
def takeBrsnd (s : State) (c k round : Nat) : State :=
  let b := s.bucket c
  if (b.st = 3 ∨ b.st = 4) ∧ round = b.rounds ∧ k < b.nblk then
    let s := sendBlocks (modBucket s c fun b => { b with resends := satAdd 16 b.resends 1 }) c k
    if b.st = 4 then sendClose s c else s
  else s

/-- BASUM (R273). -/
def takeBasum (s : State) (c a round : Nat) : State :=
  let b := s.bucket c
  if b.st = 4 ∧ round = b.rounds then checkReturn (modBucket s c fun b => { b with asum := a % 2 ^ 61, haveA := true }) c else s

/-- One record of an SCTL car. One of an unknown kind or ID is ignored and counted in MALFORM (R294). A STSTOP or BSTOP stops the
Keadigor's sending only, and the timers of R252 and R275 act. -/
def takeRecord (p : Nat) (s : State) (r : Ctl) : State :=
  let c := bitsOf r.id 5 0
  let known := decide ((s.bucket c).st ≠ 0) && decide ((s.bucket c).id c = r.id) && decide ((s.bucket c).port = p)
  if r.kind = 0x04 then
    (let x := s.ctx p (bitsOf r.id 4 0); if x.id = r.id ∧ x.st ≠ 0 then s else malformed s p)
  else if !(ctlKinds.contains r.kind) || !known then malformed s p
  else if r.kind = 0x12 then takeBagree s c r.a0
  else if r.kind = 0x14 then takeBrsnd s c r.a0 r.a1
  else if r.kind = 0x16 then takeBasum s c r.a0 r.a1
  else s

/-- An SCTL car whose records a row of `kind` names: it is received, and its records are taken in order. -/
def takeSctl (port : PortId) (kind : Nat) (car : RxCar) (s : State) : State :=
  if !ctlCar car kind then s
  else match receiveCar s port car with | .drop s => s | .take s => (ctlRecords car.payload).foldl (takeRecord port) s

/-- BAGREE (R267). -/
def execBagree (port : PortId) (car : RxCar) (s : State) : Host.Outcome State Fault Refusal := .next (takeSctl port 0x12 car s)
/-- BRSND (R270). -/
def execBrsnd (port : PortId) (car : RxCar) (s : State) : Host.Outcome State Fault Refusal := .next (takeSctl port 0x14 car s)
/-- BASUM (R273). -/
def execBasum (port : PortId) (car : RxCar) (s : State) : Host.Outcome State Fault Refusal := .next (takeSctl port 0x16 car s)
/-- STSTOP (R294). -/
def execStstop (port : PortId) (car : RxCar) (s : State) : Host.Outcome State Fault Refusal := .next (takeSctl port 0x04 car s)
/-- BSTOP (R294). -/
def execBstop (port : PortId) (car : RxCar) (s : State) : Host.Outcome State Fault Refusal := .next (takeSctl port 0x15 car s)

end Sys2Proof.Machine
end

