-- ==== Sys2Proof/Machine/Mailboxes.lean ====
section
/-! DEFINITION. Mailboxes (R329-R334), command rings (R335-R340), and what the host side is called with (R331, R470, R477). -/

namespace Sys2Proof.Machine

/-! ALERT# and calls. -/

/-- DEV.ALERT [5:0] (R470). -/
def devAlert (s : State) : Nat :=
  let box := fun (n i : Nat) => if (s.box n).calling ≠ 0 then 2 ^ i else 0
  b2n (decide (s.err.sticky &&& s.err.alerten ≠ 0)) + box 1 1 + box 3 2 + box 5 3 + box 7 4 + 32 * b2n s.thm.tripped

/-- An I3C in-band interrupt is raised (R331, R477): its mandatory byte carries DEV.ALERT. -/
def raiseIbi (s : State) : State :=
  if s.mbx.ibi && s.i3c.ibiEn && s.i3c.addr.isSome then { s with i3c := { s.i3c with ibi := some (devAlert s) } } else s

/-- An EVT car (R325): serial, mailbox and calling bits. -/
def evtPayload (s : State) (n : Nat) : List Byte :=
  leBytes 2 3 ++ leBytes 2 20 ++ leBytes 8 0 ++ leBytes 4 1 ++ leBytes 8 s.fuses.serial ++ leBytes 8 n ++ leBytes 4 (s.box n).calling

/-- The port an EVT car goes on (R331). -/
def evtPort (s : State) : Option Nat := match hostPort s with | some p => some p | none => keadigorPort s

/-- The host side of mailboxes 1, 3, 5 and 7 is called (R331), after its calling bits were `old`. -/
def callHost (s : State) (n old : Nat) : State :=
  let new := (s.box n).calling
  if new &&& (old ^^^ 0xFFFFFFFF) = 0 then s
  else
    let s := raiseIbi s
    if s.mbx.evt && decide (old = 0) then
      match evtPort s with | some p => sendCar s p (mkCar 7 0 0 0 0 (evtPayload s n)) | none => s
    else s

/-- The receiver of a mailbox is called, after its calling bits were `old` (R331). -/
def callReceiver (s : State) (n old : Nat) : State := if n = 1 ∨ n = 3 ∨ n = 5 ∨ n = 7 then callHost s n old else callCore s n old

/-- Set doorbell bits of a mailbox (R331). -/
def ringBox (s : State) (n bits : Nat) : State :=
  let old := (s.box n).calling
  callReceiver (modBox s n fun b => { b with door := b.door ||| bits % 2 ^ 32 }) n old

/-! Sides (R329, R334). -/

/-- The parties of a mailbox. -/
inductive Party where
  | host
  | hostler
  | groom
  deriving DecidableEq, Repr

/-- The party an origin belongs to (R329). -/
def partyOf : Origin → Party
  | .i3c => .host
  | .hostPort => .host
  | .keadigor _ => .host
  | .hostler => .hostler
  | .groom => .groom

/-- The sender of a mailbox (R329). -/
def senderOf (n : Nat) : Party := if n = 0 ∨ n = 2 ∨ n = 4 ∨ n = 6 then .host else if n = 3 ∨ n = 7 ∨ n = 8 then .hostler else .groom
/-- The receiver of a mailbox (R329). -/
def receiverOf (n : Nat) : Party := if n = 0 ∨ n = 4 ∨ n = 8 then .groom else if n = 2 ∨ n = 6 ∨ n = 9 then .hostler else .host

/-- An origin may reach a mailbox at all (R328). -/
def boxReach (o : Origin) (n : Nat) : Bool :=
  if Origin.internal o then true else if 8 ≤ n then false else if n < 4 then Origin.auth o else true

/-- A write that one side of a mailbox makes (R328, R334); another gets STATUS 2 and changes nothing. -/
def asParty (o : Origin) (n : Nat) (side : Party) (s : State) (f : State → State) : State :=
  if boxReach o n && decide (partyOf o = side) then answer (f s) 0 0 [] else answer s 2 0 []

/-! Notices (R330). -/

/-- Post the notice whose pointer is in MBX.POSTn_LO (R330). -/
def post (n hi : Nat) (s : State) : State :=
  let b := s.box n
  let w : Word64 := BitVec.ofNat 64 (bitsOf hi 52 0)
  let s := modBox s n fun b => { b with postHi := w }
  if 8 ≤ b.queue.length then modBox s n fun b => { b with refused := satAdd 8 b.refused 1 }
  else
    let s := modBox s n fun b => { b with queue := b.queue ++ [(b.postLo, w)], posted := satAdd 32 b.posted 1 }
    ringBox s n (2 ^ bitsOf hi 52 48)

/-- A notice of the Groom (R330): pointer, length, type and doorbell bit. -/
def groomPost (s : State) (n ptr len typ bell : Nat) : State :=
  post n (len % 2 ^ 32 + typ * 2 ^ 32 + bell * 2 ^ 48) (modBox s n fun b => { b with postLo := BitVec.ofNat 64 ptr })

/-- MBX_POST (R330): the write of MBX.POSTn_HI. -/
def execMbxPost (o : Origin) (n : Fin 10) (hi : Word64) (s : State) : Host.Outcome State Fault Refusal :=
  .next (asParty o n (senderOf n) s (post n hi.toNat))

/-- MBX_RING (R331). -/
def execMbxRing (o : Origin) (n : Fin 10) (data : Word64) (s : State) : Host.Outcome State Fault Refusal :=
  .next (asParty o n (senderOf n) s (fun s => ringBox s n data.toNat))

/-- The receiver clears doorbell bits (R331). -/
def clearDoor (n data : Nat) (s : State) : State := modBox s n fun b => { b with door := b.door &&& (data % 2 ^ 32 ^^^ 0xFFFFFFFF) }

/-- MBX_DOOR_CLEAR (R331). -/
def execMbxDoorClear (o : Origin) (n : Fin 10) (data : Word64) (s : State) : Host.Outcome State Fault Refusal :=
  .next (asParty o n (receiverOf n) s (clearDoor n data.toNat))

/-- A write of MBX.MASKn (R331, R333): the call is decided on the new values. -/
def writeMask (n data : Nat) (s : State) : State :=
  let old := (s.box n).calling
  callReceiver (modBox s n fun b => { b with mask := data % 2 ^ 32 }) n old

/-- MBX_MASK_WRITE (R333). -/
def execMbxMaskWrite (o : Origin) (n : Fin 10) (data : Word64) (s : State) : Host.Outcome State Fault Refusal :=
  .next (asParty o n (receiverOf n) s (writeMask n data.toNat))

/-- The head notice goes (R330). -/
def popBox (n : Nat) (s : State) : State := modBox s n fun b => { b with queue := b.queue.drop 1 }
/-- The queue is emptied and the doorbells are cleared (R332, R334). -/
def flushBox (n : Nat) (s : State) : State := modBox s n fun b => { b with queue := [], door := 0 }

/-- A write of MBX.POPn (R334). -/
def writePop (n data : Nat) (s : State) : State :=
  let s := if bitOf data 0 then popBox n s else s
  if bitOf data 1 then flushBox n s else s

/-- POP (R330). -/
def execPop (o : Origin) (n : Fin 10) (s : State) : Host.Outcome State Fault Refusal := .next (asParty o n (receiverOf n) s (popBox n))
/-- FLUSH (R334). -/
def execFlush (o : Origin) (n : Fin 10) (s : State) : Host.Outcome State Fault Refusal := .next (asParty o n (receiverOf n) s (flushBox n))

/-- The receiver's ready bit (R332). When Hostler firmware sets that of mailbox 9, its level is raised (R435). -/
def setRxrdy (n : Nat) (v : Bool) (s : State) : State :=
  let s := modBox s n fun b => { b with rxrdy := v }
  if n = 9 ∧ v ∧ gget s.grm.pendArb 2 < s.grm.harb then journal s 10 [2, s.grm.harb] else s

/-- RXRDY (R332). -/
def execRxrdy (o : Origin) (n : Fin 10) (value : Bool) (s : State) : Host.Outcome State Fault Refusal :=
  .next (asParty o n (receiverOf n) s (setRxrdy n value))

/-! Command rings (R335-R339). -/

/-- A command ring. -/
def State.ring (s : State) (r : Nat) : Ring := gget s.mbx.rings r

/-- An origin may write HEAD of a ring (R328, R339): the host side, authenticated for a secure ring. -/
def headReach (o : Origin) (k : Ring) : Bool := !Origin.internal o && (Origin.auth o || !k.sec)

/-- The record at TAIL has a LEN that breaks R336 or crosses the ring's end (R338). -/
def badRecord (s : State) (k : Ring) : Bool :=
  let off := k.tail % 2 ^ k.log2
  let room := 2 ^ k.log2 - off
  let a := k.base * 65536 + off
  let len := Memory.readLe s.hmem a 2
  if Memory.readLe s.hmem (a + 2) 1 = 0 then decide (len ≠ room)
  else decide (len % 8 ≠ 0 ∨ len < 8 ∨ 4096 < len ∨ room < len)

/-- A ring whose TAIL reaches a bad record stops (R338); the record is looked at as soon as it is the first one (log 35). -/
def stopBad (r : Nat) (s : State) : State :=
  let k := s.ring r
  if k.en && decide (k.head ≠ k.tail) && badRecord s k then modRing s r fun k => { k with stopped := true } else s

/-- A write of MBX.CRHEADr (R338). -/
def writeHead (r data : Nat) (s : State) : State :=
  let k := s.ring r
  let head := data % 2 ^ 32
  if head % 8 ≠ 0 ∨ 2 ^ k.log2 < (head + 2 ^ 32 - k.tail) % 2 ^ 32 then modRing s r fun k => { k with badhead := satAdd 8 k.badhead 1 }
  else stopBad r (raiseIrq (modRing s r fun k => { k with head := head }) k.cluster)

/-- A write of MBX.CRTAILr by Hostler firmware, which goes past the records it has finished with (R338). -/
def writeTail (r data : Nat) (s : State) : State := stopBad r (modRing s r fun k => { k with tail := data % 2 ^ 32 })

/-- CRHEAD_WRITE (R338). -/
def execCrheadWrite (o : Origin) (r : Fin 8) (data : Word64) (s : State) : Host.Outcome State Fault Refusal :=
  .next (if headReach o (s.ring r) then answer (writeHead r data.toNat s) 0 0 [] else answer s 2 0 [])

/-- A write of MBX.CRCFGr (R339): while EN is 1 only EN can change. Enabling sets HEAD and TAIL to 0. -/
def Ring.configure (data : Nat) (k : Ring) : Ring :=
  let en := bitOf data 0
  if k.en then { k with en := en }
  else { k with en := en, sec := bitOf data 1, log2 := bitsOf data 6 2, cluster := bitsOf data 8 7, base := bitsOf data 28 16,
                head := if en then 0 else k.head, tail := if en then 0 else k.tail }

/-- CRCFG_WRITE (R339). -/
def execCrcfgWrite (o : Origin) (r : Fin 8) (data : Word64) (s : State) : Host.Outcome State Fault Refusal :=
  .next (asHostler o s (fun s => modRing s r (Ring.configure data.toNat)))

/-! Service cars (R326). -/

/-- Write a received SVC car into the receive ring with its port number, or drop it when the ring is full (R326). A slot holds the car's 256
bytes, with the port number in its byte 13. How many slots Hostler firmware has emptied since the last car is a free number (log 31). -/
def takeSvc (s : State) (p : Nat) (payload : List Byte) : State :=
  let (ev, s) := takeFresh s
  let fill := s.mbx.svcFill - Config.pick ev % (s.mbx.svcFill + 1)
  if s.mbx.svcSlots ≤ fill then { s with mbx := { s.mbx with svcFill := fill, drops := satAdd 32 s.mbx.drops 1 } }
  else
    let a := s.mbx.svcBase * 256 + s.mbx.svcPos * 256
    { s with hmem := Memory.writeBytes s.hmem (a % 2 ^ 29) (setAt payload 13 (BitVec.ofNat 8 p)),
             mbx := { s.mbx with svcPos := (s.mbx.svcPos + 1) % s.mbx.svcSlots, svcFill := fill + 1 } }

/-- SVC (R326). -/
def execSvc (port : PortId) (car : RxCar) (s : State) : Host.Outcome State Fault Refusal :=
  .next (
    if car.typ ≠ 7 then s
    else match receiveCar s port car with
      | .drop s => s
      | .take s => takeSvc s port car.payload)

end Sys2Proof.Machine
end

