-- ==== Sys2Proof/Machine/Sends.lean ====
section
/-! DEFINITION. The send words (R57, R58, R131, R159): SEND, SENDL, SENDS, RELAY. -/

namespace Sys2Proof.Machine

/-- A fence-list entry that is valid and names a stall and a tag (R158). -/
def fenceEntry (w : Word32) (sid tag : Nat) : Bool :=
  bitOf w.toNat 30 && decide (bitsOf w.toNat 19 0 = sid) && decide (bitsOf w.toNat 29 20 = tag)

/-- The entry of a fence list that matches a stall and a tag (R159, R160). -/
def fenceMatch (l : GMap Word32) (sid tag : Nat) : Option Nat := (List.range 16).find? (fun i => fenceEntry (gget l i) sid tag)

/-- A fenced send toward this destination is valid (R159). -/
def fenceOk (t : Stall) (f : Bool) (dest tag : Nat) : Bool := !f || (fenceMatch t.active.fout dest tag).isSome

/-- The router's injection port refuses the stall's send now: an earlier message of the class is still going in, or a relay copy waits,
which goes first (R57, R135, log 16). -/
def sendRefused (s : State) (sid vc : Nat) (t : Stall) : Bool :=
  injectBusy s sid 4 vc false || !t.qu.relays.isEmpty

/-- One message of a send word enters the router (R124, R159): its header is built, and the fence-out entry counts it. -/
def sendOne (s : State) (sid vc : Nat) (f : Bool) (tag dest : Nat) (payload : List Byte) : State :=
  let t := s.stall sid
  let e := fenceMatch t.active.fout dest tag
  let c := match e with | some i => gget t.qu.foutCnt i | none => 0
  let h : Hdr := { dest := dest, tag := tag, vc := vc, gen := t.cg, epoch := s.sec.inj, f := f, fcount := if f then c else 0,
                   len := ceilDiv payload.length 16, src := sid, srcx := false, rly := false }
  let s := match e with
    | some i => modQu s sid fun u => { u with foutCnt := gset u.foutCnt i ((c + 1) % 65536) }
    | none => s
  inject s (.msg h payload) sid 4

/-- SEND (R57, R58). -/
def execSend (sid : StallId) (s : State) : Host.Outcome State Fault Refusal :=
  .next (issueWord s sid 0x30 fun t w =>
    let vc := bitsOf w 57 56
    let f := bitOf w 55
    let dest := t.sreg sid (bitsOf w 54 50) % 2 ^ 20
    let tag := bitsOf w 49 40
    let a := bitsOf w 39 37
    let len := bitsOf w 36 30
    if !onlyFields w [(57, 56), (55, 55), (54, 50), (49, 40), (39, 37), (36, 30)] || decide (vc = 3) || decide (64 < len) ||
        !fenceOk t f dest tag then .fault s fIllegal
    else if t.interlocked [a] [] then .hold s 1
    else if sendRefused s sid vc t then .hold s 4
    else
      let sp := (t.ag a).space
      match Stall.readUnits sid a (ceilDiv len 4) t with
      | (t, none) => .fault (putStall s sid t) fRange
      | (t, some bs) => .retire (sendOne (putStall s sid t) sid vc f tag dest (padTo (16 * len) bs)) (reach sp + 1 + len) (decide (sp ≠ 0)))

/-- The stall IDs of a SENDL list (R58). -/
def sendList (t : Stall) (sid base cnt : Nat) : List Nat :=
  (List.range cnt).map (fun i => leNat (t.mem.readBytes sid 0 (base + 4 * i) 4) % 2 ^ 20)

/-- SENDL (R57, R58, R131). -/
def execSendl (sid : StallId) (s : State) : Host.Outcome State Fault Refusal :=
  .next (issueWord s sid 0x31 fun t w =>
    let vc := bitsOf w 57 56
    let f := bitOf w 55
    let base := t.sreg sid (bitsOf w 54 50)
    let tag := bitsOf w 49 40
    let a := bitsOf w 39 37
    let len := bitsOf w 36 30
    let cnt := bitsOf w 29 24
    if !onlyFields w [(57, 56), (55, 55), (54, 50), (49, 40), (39, 37), (36, 30), (29, 24)] || decide (vc = 3) || decide (64 < len) then
      .fault s fIllegal
    else if cnt = 0 ∨ 32 < cnt ∨ base % 4 ≠ 0 ∨ 0xC000 < base + 4 * cnt then .fault s fSendlist
    else
      let dests := sendList t sid base cnt
      if !dests.all (fun d => fenceOk t f d tag) then .fault s fIllegal
      else if t.interlocked [a] [] then .hold s 1
      else if sendRefused s sid vc t then .hold s 4
      else
        let sp := (t.ag a).space
        match Stall.readUnits sid a (ceilDiv len 4) t with
        | (t, none) => .fault (putStall s sid t) fRange
        | (t, some bs) =>
          let s := dests.foldl (fun s d => sendOne s sid vc f tag d (padTo (16 * len) bs)) (putStall s sid t)
          .retire s (1 + reach sp + ceilDiv len 4 + cnt * (1 + len)) (decide (sp ≠ 0)))

/-- SENDS (R57, R58). -/
def execSends (sid : StallId) (s : State) : Host.Outcome State Fault Refusal :=
  .next (issueWord s sid 0x32 fun t w =>
    let vc := bitsOf w 57 56
    let f := bitOf w 55
    let dest := t.sreg sid (bitsOf w 54 50) % 2 ^ 20
    let tag := bitsOf w 49 40
    let sa := bitsOf w 39 35
    let n := bitsOf w 34 33 + 1
    if !onlyFields w [(57, 56), (55, 55), (54, 50), (49, 40), (39, 35), (34, 33)] || decide (vc = 3) || decide (32 < sa + n) ||
        !fenceOk t f dest tag then .fault s fIllegal
    else if sendRefused s sid vc t then .hold s 4
    else
      let bs := (List.range n).flatMap (fun i => leBytes 4 (t.sreg sid (sa + i)))
      .retire (sendOne s sid vc f tag dest (padTo 16 bs)) 2 false)

/-- RELAY (R57, R58): RPROF of the tag's entry. -/
def execRelay (sid : StallId) (s : State) : Host.Outcome State Fault Refusal :=
  .next (issueWord s sid 0x33 fun _ w =>
    if !onlyFields w [(57, 56), (49, 40)] then .fault s fIllegal
    else
      let put := fun (e : Word32) => BitVec.ofNat 32 (setBits e.toNat 21 20 (bitsOf w 57 56))
      .retire (modStall s sid fun t => { t with active := { t.active with tags := gmod t.active.tags (bitsOf w 49 40) put } }) 1 false)

end Sys2Proof.Machine
end

