-- ==== Sys2Proof/Machine/Control.lean ====
section
/-! DEFINITION. The control words (R46-R49, R179, R180): NOP, END, LOOP, BRT, BR, JMP, WAITG, ARRIVE. -/

namespace Sys2Proof.Machine

/-- The word does nothing for one shed cycle (R46). -/
def execNop (sid : StallId) (s : State) : Host.Outcome State Fault Refusal :=
  .next (issueWord s sid 0x00 fun _ w => if onlyFields w [] then .retire s 1 false else .fault s fIllegal)

/-! Releasing messages (R33, R129). -/

/-- A message leaves its queue; the space of a message with a waiting relay copy stays held by the copy (R129). -/
def QueueUnit.release (u : QueueUnit) (id : Nat) : QueueUnit :=
  { u with queues := gmapAll u.queues (fun l => l.filter (fun m => decide (m.id ≠ id))),
           relays := u.relays.map (fun r => if r.id = id then { r with released := true } else r) }

/-- The bound message Q of the routine, if it is bound and not released (R51). -/
def Stall.boundMsg (t : Stall) (q : Nat) : Option QMsg :=
  match (if q = 0 then t.seq.bound0 else t.seq.bound1) with
  | none => none
  | some id => ((t.qu.queues.cells.flatMap (·.2)) ++ t.qu.queues.dflt).find? (fun m => decide (m.id = id))

/-- Release bound message Q (R33). -/
def Stall.releaseBound (t : Stall) (q : Nat) : Stall :=
  match (if q = 0 then t.seq.bound0 else t.seq.bound1) with
  | none => t
  | some id =>
    let t := { t with qu := t.qu.release id }
    if q = 0 then { t with seq := { t.seq with bound0 := none } } else { t with seq := { t.seq with bound1 := none } }

/-- The watch slots that count a tag (R143, R144). -/
def watchSlots (h : Shed) (tag : Nat) : List Nat :=
  (List.range 64).filter (fun w =>
    let r := (gget h.wtagNow (w / 4)).toNat
    let j := w % 4
    bitOf r (16 * j + 15) && decide (bitsOf r (16 * j + 9) (16 * j) = tag))

/-- END's effect on its stall (R46): messages released, loop stack emptied, FIN marked, CYCLES counted (R144), back to dispatch. -/
def Stall.ended (t : Stall) (h : Shed) (fin : Bool) : Stall :=
  let cyc := t.seq.cyc + 1
  let wc := match t.seq.dispCyc with
    | none => t.qu.wcycles
    | some c0 => gmodKeys t.qu.wcycles (watchSlots h t.seq.tag) (fun _ n => satAdd 32 n (cyc - c0))
  let t := (t.releaseBound 0).releaseBound 1
  let fin := t.seq.fin || fin
  { t with seq := { t.seq with loops := [], fin := fin, run := if fin then 6 else 0, cyc := cyc, dispCyc := none,
                               retired := (t.seq.retired + 1) % 2 ^ 48 },
           qu := { t.qu with wcycles := wc } }

/-- END (R46, R78): holds until the matrix engines are idle. -/
def execEnd (sid : StallId) (s : State) : Host.Outcome State Fault Refusal :=
  .next (issueWord s sid 0x01 fun t w =>
    if !onlyFields w [(0, 0)] then .fault s fIllegal
    else if !t.eng.jobs.isEmpty then .hold s 1
    else .done (progress (putStall s sid (t.ended (s.shed (shedOf sid)) (bitOf w 0))) sid))

/-- LOOP (R47). -/
def execLoop (sid : StallId) (s : State) : Host.Outcome State Fault Refusal :=
  .next (issueWord s sid 0x02 fun t w =>
    if !onlyFields w [(57, 57), (56, 52), (51, 36), (8, 0)] then .fault s fIllegal
    else
      let last := bitsOf w 8 0
      let count := if bitOf w 57 then t.sreg sid (bitsOf w 56 52) else bitsOf w 51 36
      let inner := match t.seq.loops with | [] => 511 | l :: _ => l.last
      if last ≤ t.seq.pc ∨ inner < last ∨ 4 ≤ t.seq.loops.length then .fault s fLoop
      else if count = 0 then .skipTo s last 1
      else .retire (modSeq s sid fun q => { q with loops := ⟨t.seq.pc + 1, last, count - 1⟩ :: q.loops }) 1 false)

/-- The value of a tally (R184). -/
def Stall.tally (t : Stall) (k : Nat) : Nat := gget t.qu.tallies k

/-- The comparison of BRT (R48). -/
def brtCond (cond v x : Nat) : Bool :=
  if cond = 0 then decide (x ≤ v) else if cond = 1 then decide (v < x) else if cond = 2 then decide (v = x) else decide (v ≠ x)

/-- BRT once its word is known (R48). -/
def brtWord (s : State) (sid : Nat) (t : Stall) (w : Nat) : WordEnd :=
  if !onlyFields w [(57, 57), (56, 55), (54, 54), (53, 49), (48, 44), (31, 16), (8, 0)] then .fault s fIllegal
  else
    let wait := bitOf w 57
    let x := if bitOf w 54 then t.sreg sid (bitsOf w 48 44) else bitsOf w 31 16
    let target := bitsOf w 8 0
    if 32767 < x ∨ 32767 < bitsOf w 31 16 ∨ (wait ∧ target ≠ 0) then .fault s fIllegal
    else
      let c := brtCond (bitsOf w 56 55) (t.tally (bitsOf w 53 49)) x
      if wait then (if c then .retire s 1 false else .hold s 3)
      else if c then .jump s target 2 else .retire s 1 false

/-- BRT at its issue (R48). -/
def execBrt (sid : StallId) (s : State) : Host.Outcome State Fault Refusal :=
  .next (if (s.stall sid).seq.run = 3 then s else issueWord s sid 0x03 (brtWord s sid))

/-- A BRT that waits finds its condition true and retires (R48); while it is false the word goes on waiting. -/
def execBrtWaitSatisfied (sid : StallId) (s : State) : Host.Outcome State Fault Refusal :=
  .next (if (s.stall sid).seq.run = 3 then
           issueWord s sid 0x03 fun t w =>
             match brtWord s sid t w with
             | .hold _ _ => .done s
             | .retire s c p => .retire s c p
             | .jump s g c => .jump s g c
             | .skipTo s l c => .skipTo s l c
             | .fault s c => .fault s c
             | .done s => .done s
         else s)

/-- The comparison of BR (R48). -/
def brCond (cond a b : Nat) : Bool :=
  match cond with
  | 0 => decide (a = b)
  | 1 => decide (a ≠ b)
  | 2 => decide (signedOf 32 a < signedOf 32 b)
  | 3 => decide (signedOf 32 b ≤ signedOf 32 a)
  | 4 => decide (a < b)
  | _ => decide (b ≤ a)

/-- BR (R48). -/
def execBr (sid : StallId) (s : State) : Host.Outcome State Fault Refusal :=
  .next (issueWord s sid 0x06 fun t w =>
    let cond := bitsOf w 57 55
    if !onlyFields w [(57, 55), (54, 50), (49, 45), (8, 0)] || decide (5 < cond) then .fault s fIllegal
    else if brCond cond (t.sreg sid (bitsOf w 54 50)) (t.sreg sid (bitsOf w 49 45)) then .jump s (bitsOf w 8 0) 2
    else .retire s 1 false)

/-- JMP (R46, R47). -/
def execJmp (sid : StallId) (s : State) : Host.Outcome State Fault Refusal :=
  .next (issueWord s sid 0x07 fun t w =>
    if !onlyFields w [(57, 57), (54, 50), (8, 0)] then .fault s fIllegal
    else .jump s (if bitOf w 57 then t.sreg sid (bitsOf w 54 50) % 512 else bitsOf w 8 0) 2)

/-! Gates. -/

/-- The bit of the gate mask and of PEND for SCOPE and LINE, coded as RLINE; none for GATEOP (R49, R180). -/
def gateBit (scope line : Nat) : Option Nat :=
  if scope = 0 then (if line < 4 then some line else none)
  else if scope = 1 then (if line < 8 then some (4 + line) else none)
  else if scope = 2 then (if line < 15 then some (12 + line) else none)
  else none

/-- A word on a line in which the stall takes no part is counted (R180). -/
def countNopart (s : State) (sid : Nat) : State :=
  modShed s (shedOf sid) fun h => { h with nopart := satAdd 16 h.nopart 1 }

/-- WAITG (R179, R180). -/
def execWaitg (sid : StallId) (s : State) : Host.Outcome State Fault Refusal :=
  .next (issueWord s sid 0x04 fun t w =>
    if !onlyFields w [(57, 56), (55, 52)] then .fault s fIllegal
    else
      match gateBit (bitsOf w 57 56) (bitsOf w 55 52) with
      | none => .fault s fGateop
      | some b =>
        if !bitOf t.active.mask.toNat b then .retire (countNopart s sid) 1 false
        else if bitOf t.pend b then .hold s 2
        else .retire s 1 false)

/-- ARRIVE (R179, R180). -/
def execArrive (sid : StallId) (s : State) : Host.Outcome State Fault Refusal :=
  .next (issueWord s sid 0x05 fun t w =>
    if !onlyFields w [(57, 56), (55, 52)] then .fault s fIllegal
    else
      match gateBit (bitsOf w 57 56) (bitsOf w 55 52) with
      | none => .fault s fGateop
      | some b =>
        if !bitOf t.active.mask.toNat b then .retire (countNopart s sid) 1 false
        else if bitOf t.pend b then .hold s 2
        else .retire (modStall s sid fun t => { t with pend := t.pend + 2 ^ b }) 1 false)

end Sys2Proof.Machine
end

