-- ==== Sys2Proof/Machine/Moves.lean ====
section
/-! DEFINITION. The move words (R50-R53): MOV, MOVQ, MOVQS, QREL, LDS, STS, AGB, AGS. -/

namespace Sys2Proof.Machine

/-- PARITY recorded against a stall when a read of the step meets a parity error (R390, log 11). -/
def parity (s : State) (sid : Nat) (par : Bool) : State := if par then record s 2 (.stall sid) else s

/-- `n` records of BRAND_FAIL against a stall (R387). -/
def brandFails (s : State) (sid : Nat) : Nat → State
  | 0 => s
  | n + 1 => brandFails (record s 1 (.stall sid)) sid n

/-- What a MOV keeps of the block it is moving (R53): the bytes read, the brand word as it stood at the first unit, the destination
block, and the failing checks so far. -/
structure MovAcc where
  t      : Stall
  bytes  : List Byte
  stored : Nat
  dspace : Nat
  dblk   : Nat
  fails  : Nat

/-- The end of one 4 KiB block of a MOV with BRD = 1 (R53, R386): source space `ssp`. -/
def MovAcc.closeBlock (m : MovAcc) (ssp : Nat) : MovAcc :=
  let b := brandOf m.bytes
  let ok := ssp = 0 ∨ brandOk b m.stored
  let t := if m.dspace = 0 then m.t
           else { m.t with mem := m.t.mem.setBrand m.dspace m.dblk (if ok then b else 0x80000000) }
  { m with t := t, bytes := [], fails := if ok then m.fails else m.fails + 1 }

/-- One unit of a MOV: the read, then the write (R53). The code of a fault, if one is met. -/
def movUnit (sid a d : Nat) (brd : Bool) (k : Nat) (m : MovAcc) : MovAcc × Option Nat :=
  let ga := m.t.ag a
  let first := brd && decide (k % 64 = 0)
  match ga.yields with
  | none => (m, some fRange)
  | some x =>
    if first && decide (x % 4096 ≠ 0) then (m, some fAlign)
    else
      let stored := if first then m.t.mem.brand ga.space (x / 4096) else m.stored
      let bs := m.t.mem.readBytes sid ga.space x 64
      let t := m.t.setAg a ga.step
      let gd := t.ag d
      match gd.yields with
      | none => ({ m with t := t }, some fRange)
      | some y =>
        if first && decide (y % 4096 ≠ 0) then ({ m with t := t }, some fAlign)
        else
          let t := t.setAg d gd.step
          let t := { t with mem := t.mem.writeBytes sid gd.space y bs }
          let m := { m with t := t, bytes := m.bytes ++ bs, stored := stored,
                            dspace := if first then gd.space else m.dspace, dblk := if first then y / 4096 else m.dblk }
          (if brd && decide (k % 64 = 63) then m.closeBlock ga.space else m, none)

/-- The units of a MOV in use order (R53): `n` units from unit `k` on. -/
def movUnits (sid a d : Nat) (brd : Bool) : Nat → Nat → MovAcc → MovAcc × Option Nat
  | 0, _, m => (m, none)
  | n + 1, k, m =>
    match movUnit sid a d brd k m with
    | (m, some c) => (m, some c)
    | (m, none) => movUnits sid a d brd n (k + 1) m

/-- MOV (R50, R53). -/
def execMov (sid : StallId) (par : Bool) (s : State) : Host.Outcome State Fault Refusal :=
  .next (issueWord s sid 0x08 fun t w =>
    let brd := bitOf w 57
    let a := bitsOf w 56 54
    let d := bitsOf w 53 51
    let n := bitsOf w 50 39
    if !onlyFields w [(57, 57), (56, 54), (53, 51), (50, 39)] || decide (n = 0) then .fault s fIllegal
    else if brd && decide (n % 64 ≠ 0) then .fault s fAlign
    else if t.interlocked [a, d] [(t.ag d).space] then .hold s 1
    else
      let sa := (t.ag a).space
      let sd := (t.ag d).space
      let r := movUnits sid a d brd n 0 ⟨t, [], 0, 0, 0, 0⟩
      let s := brandFails (parity (putStall s sid r.1.t) sid par) sid r.1.fails
      match r.2 with
      | some c => .fault s c
      | none => .retire s (reach sa + (if sa ≠ 0 ∧ sd ≠ 0 then 2 * n else n)) (decide (sa ≠ 0 ∨ sd ≠ 0)))

/-- The units of a MOVQ: `n` flits from flit `off` of a payload of `len` flits (R51). -/
def movqUnits (sid d len : Nat) (payload : List Byte) : Nat → Nat → Nat → Stall → Stall × Option Nat
  | 0, _, _, t => (t, none)
  | fuel + 1, n, off, t =>
    if n = 0 then (t, none)
    else
      let c := min n 4
      if len < off + c then (t, some fQread)
      else
        match t.writeUnit sid d (slice payload (16 * off) (16 * c)) with
        | (t, false) => (t, some fRange)
        | (t, true) => movqUnits sid d len payload fuel (n - c) (off + c) t

/-- MOVQ (R50, R51). -/
def execMovq (sid : StallId) (s : State) : Host.Outcome State Fault Refusal :=
  .next (issueWord s sid 0x09 fun t w =>
    let d := bitsOf w 53 51
    let n := bitsOf w 45 39
    if !onlyFields w [(57, 57), (53, 51), (45, 39), (37, 32)] || decide (n = 0 ∨ 64 < n) then .fault s fIllegal
    else if t.interlocked [d] [(t.ag d).space] then .hold s 1
    else
      match t.boundMsg (b2n (bitOf w 57)) with
      | none => .fault s fQread
      | some m =>
        let sd := (t.ag d).space
        match movqUnits sid d m.len m.payload n n (bitsOf w 37 32) t with
        | (t, some c) => .fault (putStall s sid t) c
        | (t, none) => .retire (putStall s sid t) (1 + ceilDiv n 4) (decide (sd ≠ 0)))

/-- MOVQS (R50, R51). -/
def execMovqs (sid : StallId) (s : State) : Host.Outcome State Fault Refusal :=
  .next (issueWord s sid 0x0E fun t w =>
    if !onlyFields w [(57, 57), (55, 51), (45, 38)] then .fault s fIllegal
    else
      let k := bitsOf w 45 38
      match t.boundMsg (b2n (bitOf w 57)) with
      | none => .fault s fQread
      | some m =>
        if 16 * m.len < 4 * k + 4 then .fault s fQread
        else .retire (putStall s sid (t.setSreg (bitsOf w 55 51) (leAt m.payload (4 * k) 4))) 2 false)

/-- QREL (R50, R51). -/
def execQrel (sid : StallId) (s : State) : Host.Outcome State Fault Refusal :=
  .next (issueWord s sid 0x0F fun t w =>
    if !onlyFields w [(57, 57)] then .fault s fIllegal
    else .retire (putStall s sid (t.releaseBound (b2n (bitOf w 57)))) 1 false)

/-- The fault of a 4-byte access, if any: RANGE before ALIGN (R43, R52, R65). -/
def wordAccessFault (sp a : Nat) : Option Nat :=
  if spaceLimit sp ≤ a then some fRange else if a % 4 ≠ 0 then some fAlign else none

/-- LDS (R50, R52). -/
def execLds (sid : StallId) (par : Bool) (s : State) : Host.Outcome State Fault Refusal :=
  .next (issueWord s sid 0x0A fun t w =>
    if !onlyFields w [(57, 56), (55, 51), (50, 46), (16, 0)] then .fault s fIllegal
    else
      let sp := bitsOf w 57 56
      let a := t.sreg sid (bitsOf w 50 46) + bitsOf w 16 0
      match wordAccessFault sp a with
      | some c => .fault s c
      | none =>
        let t := t.setSreg (bitsOf w 55 51) (leNat (t.mem.readBytes sid sp a 4))
        .retire (parity (putStall s sid t) sid par) (reach sp) (decide (sp ≠ 0)))

/-- STS (R50, R52). -/
def execSts (sid : StallId) (s : State) : Host.Outcome State Fault Refusal :=
  .next (issueWord s sid 0x0B fun t w =>
    if !onlyFields w [(57, 56), (55, 51), (50, 46), (16, 0)] then .fault s fIllegal
    else
      let sp := bitsOf w 57 56
      let a := t.sreg sid (bitsOf w 50 46) + bitsOf w 16 0
      if t.interlocked [] [sp] then .hold s 1
      else
        match wordAccessFault sp a with
        | some c => .fault s c
        | none =>
          let t := { t with mem := t.mem.writeBytes sid sp a (leBytes 4 (t.sreg sid (bitsOf w 55 51))) }
          .retire (putStall s sid t) 1 (decide (sp ≠ 0)))

/-- A 12-bit count in which 0 means 4,096 (R50). -/
def cnt12 (n : Nat) : Nat := if n = 0 then 4096 else n

/-- AGB (R50, R52). -/
def execAgb (sid : StallId) (s : State) : Host.Outcome State Fault Refusal :=
  .next (issueWord s sid 0x0C fun t w =>
    let k := bitsOf w 57 55
    let sp := bitsOf w 54 53
    let base := bitsOf w 52 42
    if !onlyFields w [(57, 55), (54, 53), (52, 42), (41, 26), (25, 14)] then .fault s fIllegal
    else if spaceLimit sp ≤ 64 * base then .fault s fRange
    else if t.interlocked [k] [] then .hold s 1
    else
      let g := { t.ag k with space := sp, str0 := signedOf 16 (bitsOf w 41 26), cnt0 := cnt12 (bitsOf w 25 14) }
      .retire (putStall s sid (t.setAg k (g.restart base))) 1 false)

/-- AGS (R50, R52). -/
def execAgs (sid : StallId) (s : State) : Host.Outcome State Fault Refusal :=
  .next (issueWord s sid 0x0D fun t w =>
    let k := bitsOf w 57 55
    let rb := bitOf w 54
    let v := t.sreg sid (bitsOf w 53 49)
    if !onlyFields w [(57, 55), (54, 54), (53, 49), (48, 33), (32, 21)] then .fault s fIllegal
    else if rb && decide (spaceLimit (t.ag k).space ≤ v / 64 * 64) then .fault s fRange
    else if rb && decide (v % 64 ≠ 0) then .fault s fAlign
    else if t.interlocked [k] [] then .hold s 1
    else
      let g := { t.ag k with str1 := signedOf 16 (bitsOf w 48 33), cnt1 := cnt12 (bitsOf w 32 21) }
      .retire (putStall s sid (t.setAg k (if rb then g.restart ((v / 64 : Nat) : Int) else g))) 1 false)

end Sys2Proof.Machine
end

