-- ==== Sys2Proof/Machine/Tallies.lean ====
section
/-! DEFINITION. The tally words (R59, R60, R184, R186): TINC, TDEC, TRD, TSET, and the captures of SHED.GCHK (R192). -/

namespace Sys2Proof.Machine

/-- A tally set to a value. -/
def setTally (s : State) (sid k v : Nat) : State := modQu s sid fun u => { u with tallies := gset u.tallies k v }

/-- TALLY_DRIFT recorded against a stall for a tally, and captured in SHED.GCHK while DRIFT is 0 (R192). -/
def tallyDrift (s : State) (sid k : Nat) : State :=
  let s := modShed s (shedOf sid) fun h =>
    if h.gchk.drift then h else { h with gchk := { h.gchk with drift := true, dstall := stallInShed sid, dtally := k } }
  record s 7 (.stall sid)

/-- TALLY_UNDER recorded against a stall for a tally, and captured in SHED.GCHK while UNDER is 0 (R192). -/
def tallyUnder (s : State) (sid k : Nat) : State :=
  let s := modShed s (shedOf sid) fun h =>
    if h.gchk.under then h else { h with gchk := { h.gchk with under := true, ustall := stallInShed sid, utally := k } }
  record s 6 (.stall sid)

/-- GATE_LEFT_OPEN recorded against a stall for its lowest open line, and captured in SHED.GCHK while LEFTOPEN is 0 (R192). -/
def gateLeftOpen (s : State) (sid line : Nat) : State :=
  let s := modShed s (shedOf sid) fun h =>
    if h.gchk.leftopen then h else { h with gchk := { h.gchk with leftopen := true, gstall := stallInShed sid, gline := line } }
  record s 8 (.stall sid)

/-- A tally goes up by `n`, to at most 32,767; past it TALLY_DRIFT is recorded (R60). -/
def tallyUp (s : State) (sid k n : Nat) : State :=
  let v := (s.stall sid).tally k + n
  if 32767 < v then tallyDrift (setTally s sid k 32767) sid k else setTally s sid k v

/-- A tally goes down by `n`; a step below zero is not made, and TALLY_UNDER is recorded (R60, R186). -/
def tallyDown (s : State) (sid k n : Nat) : State :=
  let v := (s.stall sid).tally k
  if v < n then tallyUnder s sid k else setTally s sid k (v - n)

/-- The words TINC and TDEC: the fields, the operand (an immediate, or a register taken as unsigned), the change (R59, R60). -/
def tallyWord (s : State) (sid : Nat) (change : State → Nat → Nat → Nat → State) (t : Stall) (w : Nat) : WordEnd :=
  let imm := bitsOf w 15 0
  if !onlyFields w [(57, 57), (53, 49), (48, 44), (15, 0)] || decide (32767 < imm) then .fault s fIllegal
  else .retire (change s sid (bitsOf w 53 49) (if bitOf w 57 then t.sreg sid (bitsOf w 48 44) else imm)) 1 false

/-- TINC (R59, R60). -/
def execTinc (sid : StallId) (s : State) : Host.Outcome State Fault Refusal :=
  .next (issueWord s sid 0x38 (tallyWord s sid tallyUp))

/-- TDEC (R59, R60). -/
def execTdec (sid : StallId) (s : State) : Host.Outcome State Fault Refusal :=
  .next (issueWord s sid 0x39 (tallyWord s sid tallyDown))

/-- TRD (R59, R60). -/
def execTrd (sid : StallId) (s : State) : Host.Outcome State Fault Refusal :=
  .next (issueWord s sid 0x3A fun t w =>
    if !onlyFields w [(53, 49), (48, 44)] then .fault s fIllegal
    else .retire (putStall s sid (t.setSreg (bitsOf w 48 44) (t.tally (bitsOf w 53 49)))) 1 false)

/-- TSET (R59). -/
def execTset (sid : StallId) (s : State) : Host.Outcome State Fault Refusal :=
  .next (issueWord s sid 0x3B fun _ w =>
    if !onlyFields w [(53, 49), (15, 0)] || decide (32767 < bitsOf w 15 0) then .fault s fIllegal
    else .retire (setTally s sid (bitsOf w 53 49) (bitsOf w 15 0)) 1 false)

end Sys2Proof.Machine
end

