-- ==== Sys2Proof/Machine/Queues.lean ====
section
/-! DEFINITION. The queue unit: dispatch (R32, R38), acceptance (R127, R160, R161, R214), landing (R128), relay (R133-R135), combining
(R136-R139), the pen (R161) and the progress watchdog (R148-R150). -/

namespace Sys2Proof.Machine

/-! The tag table and the stall configuration block (R37, R39). -/

/-- The tag entry of a tag. -/
def Stall.tagEntry (t : Stall) (tag : Nat) : Nat := (gget t.active.tags tag).toNat
/-- A word of the stall configuration block. -/
def Stall.confWord (t : Stall) (i : Nat) : Nat := (gget t.active.conf i).toNat
/-- SIZE of a queue. -/
def Stall.queueSize (t : Stall) (q : Nat) : Nat := bitsOf (t.confWord (1 + q)) 18 9
/-- LANES of a slot. -/
def Stall.slotLanes (t : Stall) (c : Nat) : Nat := bitsOf (t.confWord (33 + c)) 16 9
/-- COUNT of a slot. -/
def Stall.slotCount (t : Stall) (c : Nat) : Nat := bitsOf (t.confWord (33 + c)) 31 17
/-- QUEUE of a tag entry. -/
def eQueue (e : Nat) : Nat := bitsOf e 13 9
/-- EN of a tag entry. -/
def eEn (e : Nat) : Bool := bitOf e 14
/-- PAIR of a tag entry. -/
def ePair (e : Nat) : Bool := bitOf e 15
/-- CSLOT of a tag entry. -/
def eSlot (e : Nat) : Nat := bitsOf e 18 16
/-- CEN of a tag entry. -/
def eCen (e : Nat) : Bool := bitOf e 19
/-- RPROF of a tag entry. -/
def eRprof (e : Nat) : Nat := bitsOf e 21 20

/-- A combining slot. -/
def QueueUnit.slot (u : QueueUnit) (c : Nat) : Slot := gget u.slots c
/-- A queue's messages, head first. -/
def QueueUnit.queue (u : QueueUnit) (q : Nat) : List QMsg := gget u.queues q

/-- Units of a queue in use (R126, R129): its messages, and released messages whose relay copy still waits. -/
def QueueUnit.used (u : QueueUnit) (q : Nat) : Nat :=
  ((u.queue q).map (fun m => 1 + m.len)).foldl (· + ·) 0 +
  ((u.relays.filter (fun r => decide (r.queue = q) && r.released)).map (·.units)).foldl (· + ·) 0

/-- A queue has room for `n` units (R127). -/
def Stall.hasUnits (t : Stall) (q n : Nat) : Bool := decide (t.qu.used q + n ≤ t.queueSize q)

/-- LEN of a slot's release message (R138). -/
def Stall.releaseLen (t : Stall) (c : Nat) : Nat := ceilDiv (t.slotLanes c) 2

/-- A slot's round is complete and its release has not begun (R138). -/
def Stall.slotFull (t : Stall) (c : Nat) : Bool :=
  let x := t.qu.slot c
  !x.releasing && decide (0 < t.slotCount c) && decide (t.slotCount c ≤ x.counted)

/-- The queue that a slot releases into (R138). -/
def Stall.slotQueue (t : Stall) (c : Nat) : Nat := eQueue (t.tagEntry (t.qu.slot c).tag)

/-- A release into the queue could begin now; it goes before an acceptance (R139). -/
def Stall.releaseFirst (t : Stall) (q : Nat) : Bool :=
  (List.range 8).any (fun c => t.slotFull c && decide (t.slotQueue c = q) && t.hasUnits q (1 + t.releaseLen c))

/-- The target of a message has room (R127 step 4). -/
def Stall.hasRoomFor (t : Stall) (e len : Nat) : Bool :=
  if eCen e then
    let x := t.qu.slot (eSlot e)
    !x.releasing && !x.held && decide (x.accepted < t.slotCount (eSlot e))
  else t.hasUnits (eQueue e) (1 + len) && !t.releaseFirst (eQueue e)

/-! Acceptance. -/

/-- A relay copy of an accepted message is made, if its tag's profile names a direction with a neighbour (R133). `queue` and `units`
say what queue space the original holds. -/
def relayFor (s : State) (sid id e : Nat) (h : Hdr) (payload : List Byte) : State :=
  let t := s.stall sid
  let p := eRprof e
  if p = 0 then s
  else
    match neighbour sid (bitsOf (t.confWord 0) (9 + 2 * p) (8 + 2 * p)) with
    | none => s
    | some n =>
      let c : Hdr := { h with dest := n, src := sid, srcx := false, rly := true, f := false, fcount := 0, epoch := s.sec.inj }
      let r : RelayCopy := { id := id, hdr := c, payload := payload, queue := if eCen e then 32 else eQueue e,
                             units := if eCen e then 0 else 1 + h.len, released := eCen e }
      modQu s sid fun u => { u with relays := u.relays ++ [r] }

/-- The fence-in counter of a message counts its acceptance (R160). -/
def countFence (s : State) (sid : Nat) (h : Hdr) : State :=
  if h.srcx then s
  else
    match fenceMatch (s.stall sid).active.fin h.src h.tag with
    | none => s
    | some i => modQu s sid fun u => { u with finCnt := gset u.finCnt i ((gget u.finCnt i + 1) % 65536) }

/-- A message is accepted into its queue or slot, its space reserved (R127 step 4). -/
def enterTarget (s : State) (sid id e : Nat) (h : Hdr) (payload : List Byte) : State :=
  let s := countFence s sid h
  let s := relayFor s sid id e h payload
  if eCen e then
    modQu s sid fun u => { u with slots := gmod u.slots (eSlot e) (fun x => { x with accepted := x.accepted + 1 }) }
  else
    let m : QMsg := { id := id, tag := h.tag, payload := payload, len := h.len, complete := false }
    modQu s sid fun u => { u with queues := gset u.queues (eQueue e) (u.queue (eQueue e) ++ [m]) }

/-- The arrival increment, the watch counters and the watchdog when a message completes or a contribution is counted (R34, R128, R144,
R148). -/
def arrived (s : State) (sid tag : Nat) : State :=
  let e := (s.stall sid).tagEntry tag
  let s := if bitOf e 22 then tallyUp s sid (bitsOf e 27 23) 1 else s
  let h := s.shed (shedOf sid)
  let s := modQu s sid fun u => { u with wmsgs := gmodKeys u.wmsgs (watchSlots h tag) (fun _ n => satAdd 32 n 1) }
  progress s sid

/-- A queued message is complete. -/
def QueueUnit.markComplete (u : QueueUnit) (q id : Nat) : QueueUnit :=
  { u with queues := gset u.queues q ((u.queue q).map (fun m => if m.id = id then { m with complete := true } else m)) }

/-- A contribution's lanes as they are added (R136, R137), and whether one was clamped. -/
def laneValue (payload : List Byte) (len i : Nat) : Int × Bool :=
  let v := if i < 2 * len then signedOf 64 (leAt payload (8 * i) 8) else 0
  let c := clampInt v (-(2 ^ 48)) (2 ^ 48 - 1)
  (c, decide (c ≠ v))

/-- A contribution is added into its slot and counted (R136, R137). -/
def addContribution (s : State) (sid c tag len : Nat) (payload : List Byte) : State :=
  let lanes := List.range ((s.stall sid).slotLanes c)
  let s := modQu s sid fun u => { u with slots := gmod u.slots c (fun x =>
    { x with lanes := gmodKeys x.lanes lanes (fun i v => v + (laneValue payload len i).1), counted := x.counted + 1, tag := tag }) }
  let s := if lanes.any (fun i => (laneValue payload len i).2) then record s 4 (.stall sid) else s
  arrived s sid tag

/-- An accepted message whose flits are all here completes, or its contribution is counted (notices and penned messages). -/
def finishTarget (s : State) (sid id e : Nat) (h : Hdr) (payload : List Byte) : State :=
  if eCen e then addContribution s sid (eSlot e) h.tag h.len payload
  else arrived (modQu s sid fun u => u.markComplete (eQueue e) id) sid h.tag

/-- What the queue unit does with a header (R34, R127, R160, R161, R214). -/
inductive Verdict where
  | wait
  | stale
  | fault (code : Nat)
  | pen
  | penWait
  | accept (fenceMiss : Bool)
  deriving DecidableEq, Repr

/-- Units of the pen in use (R161). -/
def QueueUnit.penUnits (u : QueueUnit) : Nat := (u.pen.map (fun p => 1 + p.hdr.len)).foldl (· + ·) 0

/-- The checks on a header at the ejection port, in order (R34, R127, R160, R161, R214). -/
def verdict (t : Stall) (h : Hdr) : Verdict :=
  if h.gen = (t.cg + 1) % 4 then .wait
  else if !t.opened || decide (h.gen ≠ t.cg) then .stale
  else
    let e := t.tagEntry h.tag
    if !eEn e then .fault fTagmiss
    else if !eCen e && decide (t.queueSize (eQueue e) < 1 + h.len) then .fault fOversize
    else
      let room := t.hasRoomFor e h.len
      if !h.f then (if room then .accept false else .wait)
      else
        match (if h.srcx then none else fenceMatch t.active.fin h.src h.tag) with
        | none => if room then .accept true else .wait
        | some i =>
          if gget t.qu.finCnt i = h.fcount then (if room then .accept false else .wait)
          else if t.qu.pen.length < 8 ∧ t.qu.penUnits + 1 + h.len ≤ 128 then .pen
          else .penWait

/-- A fenced message that no fence-in entry names is counted in FMISS (R160). -/
def countMiss (s : State) (sid : Nat) (miss : Bool) : State :=
  if miss then modYard s (yardOf sid) fun y => { y with fmiss := satAdd 16 y.fmiss 1 } else s

/-- The ejection input of a virtual channel is free again. -/
def clearEj (s : State) (sid vc : Nat) : State := modQu s sid fun u => { u with ej := gset u.ej vc [] }

/-- The wake request of a stall's shed (R171, R357). -/
def requestWake (s : State) (sid : Nat) : State := modPShed s (pshedOf s (shedOf sid)) fun p => { p with wakeReq := true }

/-- A header of a message at a stall's ejection input of its shed at D0 (R127, R214). -/
def acceptHeader (s : State) (sid vc : Nat) (m : TrackMsg) (h : Hdr) (payload : List Byte) : State :=
  let t := s.stall sid
  match verdict t h with
  | .wait => s
  | .stale => clearEj (discardAt (staleDrop s sid) m.id) sid vc
  | .fault c => stallFault (clearEj (discardAt s m.id) sid vc) sid c t.seq.pc
  | .penWait =>
    if m.waited then s
    else
      let s := modTrack s m.id fun m => { m with waited := true }
      modYard s (yardOf sid) fun y => { y with penwait := satAdd 16 y.penwait 1 }
  | .pen =>
    let s := clearEj s sid vc
    let whole := decide (m.pos.length = 1)
    let s := modQu s sid fun u => { u with pen := u.pen ++ [⟨m.id, h, payload, whole⟩] }
    if whole then removeTrack s m else modTrack s m.id fun m => { m with fate := .penned }
  | .accept miss =>
    if ((gget t.qu.landing vc).isSome : Bool) then s
    else
      let e := t.tagEntry h.tag
      let s := countMiss (clearEj s sid vc) sid miss
      let s := enterTarget s sid m.id e h payload
      let l := if eCen e then Landing.slot m.id (eSlot e) else Landing.queue m.id (eQueue e)
      let s := modQu s sid fun u => { u with landing := gset u.landing vc (some l) }
      modTrack s m.id fun m => { m with fate := .landing }

/-- A notice at the landing buffer (R238): it enters R127 at step 1, and its one flit is already here. The state when it stays. -/
def acceptNotice (s : State) (sid : Nat) (h : Hdr) (payload : List Byte) : Option State :=
  let t := s.stall sid
  let clear := fun (s : State) => modQu s sid fun u => { u with notice := none }
  match verdict t h with
  | .wait => none
  | .stale => some (clear (staleDrop s sid))
  | .fault c => some (stallFault (clear s) sid c t.seq.pc)
  | .penWait => none
  | .pen => none
  | .accept miss =>
    let e := t.tagEntry h.tag
    let id := s.nextId
    let s := countMiss { (clear s) with nextId := id + 1 } sid miss
    some (finishTarget (enterTarget s sid id e h payload) sid id e h payload)

/-- The header at an ejection input. -/
def ejectHeader (s : State) (sid vc : Nat) : State :=
  match (gget (s.stall sid).qu.ej vc).head? with
  | none => s
  | some id =>
    match trackMsg s id with
    | none => s
    | some m =>
      match m.packet with
      | .loft _ _ => s
      | .msg h payload =>
        if shedAbsent s (shedOf sid) then clearEj (discardAt (countUnreach s (yardOf sid)) id) sid vc
        else if !stallLive s sid then requestWake s sid
        else acceptHeader s sid vc m h payload

/-- MESSAGE_ACCEPTANCE (R127). A notice in the landing buffer is tried before the VC2 ejection input (R238). -/
def execMessageAcceptance (sid : StallId) (vc : Fin 3) (par : Bool) (s : State) : Host.Outcome State Fault Refusal :=
  .next (
    let u := (s.stall sid).qu
    let here := !(gget u.ej vc).isEmpty || (decide (vc = 2) && u.notice.isSome)
    let s := parity s sid (par && here && stallLive s sid)
    let viaNotice := if vc = 2 ∧ stallLive s sid then
        (match (s.stall sid).qu.notice with | none => none | some n => acceptNotice s sid n.1 n.2)
      else none
    match viaNotice with
    | some s => s
    | none => ejectHeader s sid vc)

/-- The message landing from an ejection input, when only its last flit is still to land. -/
def lastFlit (s : State) (id : Nat) : Option TrackMsg :=
  match trackMsg s id with
  | none => none
  | some m =>
    let rest := m.pos.dropLast.all (fun p => decide (p = gone))
    let here := decide (m.pos.length = 1) || decide (m.pos.getLastD 0 + 1 = m.path.length)
    if rest && here then some m else none

/-- MESSAGE_COMPLETE (R128): the last flit of an accepted message lands. -/
def execMessageComplete (sid : StallId) (vc : Fin 3) (s : State) : Host.Outcome State Fault Refusal :=
  .next (match gget (s.stall sid).qu.landing vc with
    | some (.queue id q) =>
      match lastFlit s id with
      | none => s
      | some m =>
        let tag := match m.packet with | .msg h _ => h.tag | .loft _ _ => 0
        let s := removeTrack s m
        let s := modQu s sid fun u => { (u.markComplete q id) with landing := gset u.landing vc none }
        arrived s sid tag
    | some (.slot _ _) => s
    | none => s)

/-- CONTRIBUTION_COUNTED (R136, R137): the last flit of a contribution is added. -/
def execContributionCounted (sid : StallId) (vc : Fin 3) (s : State) : Host.Outcome State Fault Refusal :=
  .next (match gget (s.stall sid).qu.landing vc with
    | some (.slot id c) =>
      match lastFlit s id with
      | none => s
      | some m =>
        match m.packet with
        | .loft _ _ => s
        | .msg h payload =>
          let s := removeTrack s m
          let s := modQu s sid fun u => { u with landing := gset u.landing vc none }
          addContribution s sid c h.tag h.len payload
    | some (.queue _ _) => s
    | none => s)

/-! Relay copies. -/

/-- RELAY_COPY (R134, R135): the oldest waiting copy enters the router, and the queue space it held is free once the original has
been released (R129). -/
def execRelayCopy (sid : StallId) (s : State) : Host.Outcome State Fault Refusal :=
  .next (match (s.stall sid).qu.relays with
    | [] => s
    | r :: rest =>
      if injectBusy s sid 4 r.hdr.vc false then s
      else inject (modQu s sid fun u => { u with relays := rest }) (.msg r.hdr r.payload) sid 4)

/-! Releases of combining slots. -/

/-- The lane sums of a slot as the payload of its release message (R138). -/
def releasePayload (t : Stall) (c : Nat) : List Byte :=
  padTo (16 * t.releaseLen c) ((List.range (t.slotLanes c)).flatMap (fun i => leBytes 8 (patternOf 64 (gget (t.qu.slot c).lanes i))))

/-- RELEASE_BEGIN (R138, R139): the release message takes its units in the queue, or the slot holds its sum until they are free. -/
def execReleaseBegin (sid : StallId) (slot : Fin 8) (s : State) : Host.Outcome State Fault Refusal :=
  .next (
    let t := s.stall sid
    let q := t.slotQueue slot
    let put := fun (s : State) (f : Slot → Slot) => modQu s sid fun u => { u with slots := gmod u.slots slot f }
    if !t.slotFull slot then s
    else if !t.hasUnits q (1 + t.releaseLen slot) then put s fun x => { x with held := true }
    else
      let id := s.nextId
      let m : QMsg := { id := id, tag := (t.qu.slot slot).tag, payload := releasePayload t slot, len := t.releaseLen slot, complete := false }
      let s := put { s with nextId := id + 1 } fun x => { x with held := false, releasing := true, relId := id }
      modQu s sid fun u => { u with queues := gset u.queues q (u.queue q ++ [m]) })

/-- RELEASE_COMPLETE (R138): the last unit of the release message is written, and the slot is empty again. -/
def execReleaseComplete (sid : StallId) (slot : Fin 8) (s : State) : Host.Outcome State Fault Refusal :=
  .next (
    let t := s.stall sid
    let x := t.qu.slot slot
    if !x.releasing then s
    else
      let h := s.shed (shedOf sid)
      let s := modQu s sid fun u =>
        { (u.markComplete (t.slotQueue slot) x.relId) with
          slots := gset u.slots slot Slot.empty,
          wmsgs := gmodKeys u.wmsgs (watchSlots h x.tag) (fun _ n => satAdd 32 n 1) }
      progress s sid)

/-! The pen. -/

/-- A penned message may leave (R161): it has landed, its count is met and its target has room. -/
def penReady (t : Stall) (p : PenEntry) : Bool :=
  p.landed && t.hasRoomFor (t.tagEntry p.hdr.tag) p.hdr.len &&
  (match fenceMatch t.active.fin p.hdr.src p.hdr.tag with
   | some i => decide (gget t.qu.finCnt i = p.hdr.fcount)
   | none => false)

/-- PEN_LEAVE (R161): the first penned message that may leave is accepted, moved and completed. -/
def execPenLeave (sid : StallId) (s : State) : Host.Outcome State Fault Refusal :=
  .next (
    let t := s.stall sid
    if !t.opened || !stallLive s sid then s
    else
      match t.qu.pen.find? (penReady t) with
      | none => s
      | some p =>
        let e := t.tagEntry p.hdr.tag
        let s := modQu s sid fun u => { u with pen := u.pen.filter (fun x => decide (x.id ≠ p.id)) }
        finishTarget (enterTarget s sid p.id e p.hdr p.payload) sid p.id e p.hdr p.payload)

/-! Dispatch. -/

/-- The complete message at the head of a queue. -/
def Stall.headMsg (t : Stall) (q : Nat) : Option QMsg :=
  match t.qu.queue q with
  | [] => none
  | m :: _ => if m.complete then some m else none

/-- What a queue's head binds: the message of Q = 0 with its queue, and the partner of Q = 1 (R32, R38). None when the queue is not
eligible. -/
def Stall.eligible (t : Stall) (q : Nat) : Option ((QMsg × Nat) × Option QMsg) :=
  match t.headMsg q with
  | none => none
  | some m =>
    let e := t.tagEntry m.tag
    if !ePair e then some ((m, q), none)
    else
      let other := m.tag ^^^ 1
      let q' := eQueue (t.tagEntry other)
      match t.headMsg q' with
      | none => none
      | some n =>
        if n.tag ≠ other ∨ q' = q then none
        else if m.tag % 2 = 0 then some ((m, q), some n)
        else some ((n, q'), some m)

/-- The queue that dispatch picks (R32): the first eligible one in ascending number after the last, wrapping. -/
def Stall.pick (t : Stall) : Option (Nat × (QMsg × Nat) × Option QMsg) :=
  (List.range 32).findSome? (fun k =>
    let q := (t.seq.last + 1 + k) % 32
    (t.eligible q).map (fun r => (q, r)))

/-- The sequencer starts a routine (R32, R41): dispatch registers, program counter, counts. The first word issues 3 cycles later. -/
def Seq.dispatch (q : Seq) (last : Nat) (m : QMsg) (queue : Nat) (partner : Option QMsg) (entry : Nat) : Seq :=
  let sr := q.sregs
  let sr := gset sr 28 (BitVec.ofNat 32 (m.tag + queue * 2 ^ 10 + b2n partner.isSome * 2 ^ 15))
  let sr := gset sr 29 (BitVec.ofNat 32 (16 * m.len))
  let sr := gset sr 30 (BitVec.ofNat 32 (match partner with | some n => 16 * n.len | none => 0))
  { q with last := last, sregs := sr, pc := entry, run := 1, tag := m.tag, queue := queue, loops := [], bound0 := some m.id,
           bound1 := partner.map (·.id), dispatched := (q.dispatched + 1) % 2 ^ 32, dispCyc := some q.cyc, cyc := q.cyc + 3 }

/-- DISPATCH (R32). -/
def execDispatch (sid : StallId) (par : Bool) (s : State) : Host.Outcome State Fault Refusal :=
  .next (
    let t := s.stall sid
    if !t.opened || !stallLive s sid || (runningPlace s).isNone || decide (t.seq.run ≠ 0 ∧ t.seq.run ≠ 6) then s
    else
      match (t.settle sid).pick with
      | none => s
      | some (q, (m, mq), partner) =>
        let s := passFree (parity s sid par) sid
        modSeq s sid fun x => (x.settle sid).dispatch q m mq partner (bitsOf (t.tagEntry m.tag) 8 0))

/-! STALL.QSTAT (R146) and the watchdog. -/

/-- EJW of a virtual channel (R146): a message of the current generation waits at the ejection input. -/
def ejWaits (s : State) (sid vc : Nat) : Bool :=
  (gget (s.stall sid).qu.ej vc).any (fun id =>
    match trackMsg s id with
    | none => false
    | some m => match m.packet with | .msg h _ => decide (h.gen = (s.stall sid).cg) | .loft _ _ => false)

/-- SNE of a slot (R146). -/
def Slot.busy (x : Slot) : Bool := decide (0 < x.counted) || x.held

/-- STALL.QSTAT (R146). -/
def qstat (s : State) (sid : Nat) : Nat :=
  let u := (s.stall sid).qu
  let bits := fun (n lo : Nat) (p : Nat → Bool) => ((List.range n).map (fun i => b2n (p i) * 2 ^ (lo + i))).foldl (· + ·) 0
  bits 32 0 (fun q => !(u.queue q).isEmpty) + bits 8 32 (fun c => (u.slot c).busy) + bits 3 40 (fun v => ejWaits s sid v) +
  b2n (!u.relays.isEmpty) * 2 ^ 43

/-- A stall is busy (R148). -/
def stallBusy (s : State) (sid : Nat) : Bool :=
  let t := s.stall sid
  (decide (1 ≤ t.seq.run) && decide (t.seq.run ≤ 5)) || decide (qstat s sid % 2 ^ 43 ≠ 0)

/-- The stall that SHED.PROG names after a watchdog firing (R150). -/
def progStall (s : State) (k : Nat) : Nat :=
  let stuck := fun (n : Nat) =>
    decide ((s.stall (sidOf k n)).seq.run = 4) || (List.range 3).any (fun v => ejWaits s (sidOf k n) v)
  match (List.range 256).find? stuck with
  | some n => n
  | none => ((List.range 256).find? (fun n => stallBusy s (sidOf k n))).getD 0

/-- The watchdog of a shed counts (R148, R358): a section RUNNING and not held, the shed above D3, and a busy stall. -/
def watchdogCounts (s : State) (k : Nat) : Bool :=
  (runningPlace s).isSome && !s.sec.held && !shedAbsent s k && decide (shedDepth s k < 3) &&
  (List.range 256).any (fun n => stallBusy s (sidOf k n))

/-- PROGRESS_WATCHDOG_FIRE (R148-R150): the count has reached 2^20 (log 3). -/
def execProgressWatchdogFire (yard : YardId) (shed : ShedNo) (s : State) : Host.Outcome State Fault Refusal :=
  .next (
    let k := shedKey yard shed
    if !watchdogCounts s k || ((s.shed k).fired && !(s.shed k).cause) then s
    else
      let s := modShed s k fun h => { (h.progFired false (progStall s k)) with progCount := 0xFFFFF }
      hwAbort (record s 10 (.shed k)) 2)

end Sys2Proof.Machine
end

