-- ==== Sys2Proof/Machine/Time.lean ====
section
/-! DEFINITION. The tick (log 2): with no command waiting, one microsecond passes. The wall counter (R310), SEC.RESULT.RUNUS (R229) and
the progress watchdogs (R148) count. -/

namespace Sys2Proof.Machine

/-- The wall counter with an offset added, modulo 2^64. -/
def wallPlus (w : Nat) (d : Int) : Nat := (((w : Int) + d) % (2 ^ 64 : Int)).toNat

/-- The wall counter's step of one microsecond. A correction still to be slewed in moves it by at most 1 ns more or less, that is by at
most 1,000 ppm (R311); whether it does is a free value. -/
def tickWall (s : State) : State :=
  if s.dev.slew = 0 then { s with dev := { s.dev with wall := wallPlus s.dev.wall 1000 } }
  else
    let (ev, s) := takeFresh s
    let d : Int := if Config.pick ev % 2 = 0 then 0 else if s.dev.slew < 0 then -1 else 1
    { s with dev := { s.dev with wall := wallPlus s.dev.wall (1000 + d), slew := s.dev.slew - d } }

/-- RUNUS of the running section counts, and holds at its maximum (R229). -/
def tickRun (s : State) : State :=
  if (runningPlace s).isSome then { s with sec := { s.sec with runus := satAdd 32 s.sec.runus 1 } } else s

/-- The watchdog of one shed after a microsecond at the set clock (R148, R358): it pauses while the section is held, and a shed with no
busy stall counts from 0. -/
def tickDog (s : State) (k : Nat) : State :=
  if s.sec.held ∨ ((s.shed k).fired ∧ !(s.shed k).cause) ∨ 3 ≤ shedDepth s k then s
  else if watchdogCounts s k then modShed s k fun h => { h with progCount := min (h.progCount + s.thm.mhz) 0xFFFFF }
  else modShed s k fun h => { h with progCount := 0 }

/-- The watchdogs of every shed while a section is RUNNING. -/
def tickDogs (s : State) : State :=
  if (runningPlace s).isSome then (List.range 4096).foldl tickDog s else s

/-- One microsecond passes; in OFF nothing counts (R444). -/
def tick (s : State) : State := if s.dev.st = 0 then s else tickDogs (tickRun (tickWall s))

end Sys2Proof.Machine
end

