-- ==== Sys2Proof/Machine/Ports.lean ====
section
/-! DEFINITION. Ports (R281-R319): configuration and control, training, the handshake and rekeys, markers, link control, error windows
and time beacons. -/

namespace Sys2Proof.Machine

/-! Configuration and control (R288, R307, R313, R314). -/

/-- Another port has HOST = 1. -/
def otherHost (s : State) (p : Nat) : Bool := (List.range 144).any (fun k => decide (k ≠ p) && (s.port k).host)

/-- A write of PORT.CFG (R313). HOST is frozen by the Groom lock, and stays 0 while another port has it. -/
def writePortCfg (p data : Nat) (s : State) : State :=
  let host := if s.grm.lock then (s.port p).host else bitOf data 5 && !otherHost s p
  portState s p fun q =>
    let q := { q with maxrate := bitsOf data 2 1, minw := bitsOf data 4 3, host := host, tsrc := bitOf data 6, tryint := bitsOf data 23 16 }
    if !bitOf data 0 then { (if q.st = 0 then q else q.endSession 0) with en := false }
    else { q with en := true, st := if q.st = 0 then 1 else q.st }

/-- The port begins to train (R285). -/
def Port.toTrain (q : Port) : Port :=
  { q with st := 2, train := ⟨q.maxrate, 0, 0, none, gconst 0⟩, attempts := gconst 0, ready := 0 }

/-- TRAIN of PORT.CTRL. -/
def takeTrain (p : Nat) (s : State) : State := modPort s p fun q => if q.st = 1 then q.toTrain else q
/-- QCLR of PORT.CTRL, through I3C or an authenticated management transaction (R305). -/
def takeQclr (o : Origin) (p : Nat) (s : State) : State :=
  if Origin.internal o then s else modPort s p fun q => if q.st = 6 then { q with st := 1, qcause := 0 } else q
/-- DROP of PORT.CTRL: the session ends (R289). -/
def takeDrop (p : Nat) (s : State) : State :=
  portState s p fun q => if q.st = 3 ∨ q.st = 4 ∨ q.st = 5 then q.endSession 1 else q

/-- PORT_CFG_WRITE (R313). -/
def execPortCfgWrite (o : Origin) (port : PortId) (data : Word64) (s : State) : Host.Outcome State Fault Refusal :=
  .next (asAuth o s (writePortCfg port data.toNat))
/-- TRAIN (R314). -/
def execTrain (o : Origin) (port : PortId) (s : State) : Host.Outcome State Fault Refusal := .next (asAuth o s (takeTrain port))
/-- QCLR (R305). -/
def execQclr (o : Origin) (port : PortId) (s : State) : Host.Outcome State Fault Refusal := .next (asAuth o s (takeQclr o port))
/-- DROP (R289). -/
def execDrop (o : Origin) (port : PortId) (s : State) : Host.Outcome State Fault Refusal := .next (asAuth o s (takeDrop port))

/-- TRYINT_EXPIRY (R288): TRYINT seconds have passed in DOWN (log 3). -/
def execTryintExpiry (port : PortId) (s : State) : Host.Outcome State Fault Refusal :=
  .next (modPort s port fun q => if q.st = 1 ∧ q.tryint ≠ 0 then q.toTrain else q)

/-! Handshake messages (R300, R301). -/

/-- Cut a message into chunks of 256 bytes, the last filled with zeros (R301). -/
def chunked (n : Nat) (msg : List Byte) : List (List Byte) := (List.range n).map (fun i => slice msg (256 * i) 256)

/-- The cars of a message: chunk index and count in W1 (R293, R301). -/
def chunkCars (typ n : Nat) (enc : Bool) (msg : List Byte) : List TxCar :=
  (List.range n).map (fun i => { mkCar typ 3 (i + n * 2 ^ 16) 0 0 (slice msg (256 * i) 256) with enc := enc })

/-- Send a message of the handshake: in the clear in AUTH, as sequenced cars in UP (R292, R303). -/
def sendMessage (s : State) (p typ n : Nat) (msg : List Byte) : State :=
  if (s.port p).st = 4 then (chunkCars typ n true msg).foldl (fun s c => sendCar s p c) s
  else (chunkCars typ n false msg).foldl (fun s c => sendPlain s p c) s

/-- The seed of the device identity key (R431). -/
def identitySeed (s : State) : List Byte :=
  (sha3Bytes ([0x49#8] ++ leBytes 32 s.fuses.idseed ++ leBytes 8 s.fuses.serial)).take 32

/-- The HELLO message of the device, padded as it is hashed (R301). -/
def helloMessage (s : State) (rand : List Byte) : List Byte :=
  padTo (58 * 256) ([0#8, 1#8] ++ leBytes 2 2 ++ leBytes 4 0 ++ leBytes 8 s.fuses.serial ++ padTo 32 rand ++ List.replicate 16 0#8 ++
    padTo (2 * 7296) Config.certChain)

/-- A KEX message: header and body (R301). -/
def kexMessage (kstep epoch : Nat) (body : List Byte) : List Byte :=
  leBytes 1 kstep ++ leBytes 3 0 ++ leBytes 4 epoch ++ leBytes 8 0 ++ body

/-- AUTH begins: the device sends its HELLO (R300 step 1). -/
def startAuth (s : State) (p : Nat) : State :=
  let (ev, s) := takeFresh s
  let msg := helloMessage s (Config.random ev)
  let s := modPort s p fun q => { q with st := 3, sess := Session.new, hs := { Handshake.idle with step := 1, devHello := msg } }
  sendMessage s p 9 58 msg

/-- The device sends KEX1 with a fresh encapsulation key (R300 step 3), at the handshake or at a rekey. -/
def sendKex1 (s : State) (p epoch : Nat) : State :=
  let (ev, s) := takeFresh s
  let key := padTo 1568 (Config.mlkemKey ev)
  let s := modPort s p fun q => { q with hs := { q.hs with step := 3, chunks := gconst none, kemNo := ev, kex1 := key } }
  sendMessage s p 10 7 (kexMessage 1 epoch key)

/-- A handshake fails: LINK_AUTH, and the third failure within 60 s quarantines the port (R300, R305). -/
def failHandshake (s : State) (p : Nat) : State :=
  let w := window s (s.port p).hsFails (60 * 10 ^ 9)
  let s := linkAuth (modPort s p fun q => { q with hsFails := w, hs := Handshake.idle }) p
  if 3 ≤ w.length then quarantine s p 2 else s

/-- A rekey fails; it is tried again after 1 s (R303). -/
def failRekey (s : State) (p : Nat) : State :=
  linkAuth (modPort s p fun q => { q with hs := { q.hs with step := 7, chunks := gconst none } }) p

/-- The exchange under way fails. -/
def failExchange (s : State) (p : Nat) : State := if (s.port p).st = 4 then failRekey s p else failHandshake s p

/-- A rekey starts on an UP port with none under way (R303). -/
def startRekey (s : State) (p : Nat) : State :=
  let q := s.port p
  if q.st = 4 ∧ (q.hs.step = 6 ∨ q.hs.step = 7) then sendKex1 s p (q.sess.epoch + 1) else s

/-- A per-key count has run out (R303). -/
def Session.keysSpent (e : Session) : Bool :=
  let lim := 2 ^ 32 - 1024
  decide (lim ≤ e.txCars ∨ lim ≤ e.txLctls ∨ lim ≤ e.rxCars ∨ lim ≤ e.rxLctls)

/-- A port whose keys are spent records LINK_AUTH and returns to AUTH (R303). -/
def fixKeys (s : State) (p : Nat) : State :=
  let q := s.port p
  if q.st = 4 ∧ q.sess.keysSpent then
    let (r, w, l) := (q.rate, q.width, q.lanes)
    let s := linkAuth s p
    startAuth (portState s p fun q => { q.endSession 3 with rate := r, width := w, lanes := l }) p
  else s

/-- REKEY (R303). -/
def execRekey (o : Origin) (port : PortId) (s : State) : Host.Outcome State Fault Refusal := .next (asAuth o s (fun s => startRekey s port))
/-- REKEY_TIMER (R303): 3,600 s since the last keying, or a count limit, has been reached (log 3). -/
def execRekeyTimer (port : PortId) (s : State) : Host.Outcome State Fault Refusal :=
  .next (if (s.port port).st = 4 ∧ (s.port port).sess.keysSpent then fixKeys s port else startRekey s port)
/-- REKEY_RETRY (R303): 1 s after a failed rekey (log 3). -/
def execRekeyRetry (port : PortId) (s : State) : Host.Outcome State Fault Refusal :=
  .next (if (s.port port).hs.step = 7 then startRekey s port else s)

/-! A write of PORT.CTRL whole (R314). -/

/-- Each field acts when 1 is written to it; DROP last. -/
def writePortCtrl (o : Origin) (p data : Nat) (s : State) : State :=
  let s := if bitOf data 0 then takeTrain p s else s
  let s := if bitOf data 1 then takeQclr o p s else s
  let s := if bitOf data 2 then startRekey s p else s
  if bitOf data 3 then takeDrop p s else s

/-! Training (R285-R287). -/

/-- Errored bits in 1 s that a lane may show to be ready, by RATE code: a bit error rate of 2.0e-5 (R281, R287). -/
def laneLimit (rate : Nat) : Nat :=
  if rate = 0 then 4480000 else if rate = 1 then 4250000 else if rate = 2 then 2125000 else 1062500

/-- A lane passes its test window (R287). -/
def LaneResult.passes (rate : Nat) (l : LaneResult) : Bool := decide (l.errBits ≤ laneLimit rate) && l.noUncorr && l.locked

/-- The width that a set of ready lanes gives (R285). -/
def laneWidth (ready : Nat) : Nat :=
  if ready = 0xFF then 8 else if bitsOf ready 3 0 = 15 ∨ bitsOf ready 7 4 = 15 then 4 else if ready ≠ 0 then 1 else 0

/-- The least width that MINW allows (R285). -/
def minWidth (minw : Nat) : Nat := if minw = 0 then 1 else if minw = 1 then 4 else 8

/-- The payload figures of R283, in tenths of GB/s. -/
def payloadRate (rate w : Nat) : Nat :=
  let row : List Nat := if w = 8 then [1870, 1770, 885, 443] else if w = 4 then [933, 885, 443, 221] else if w = 1 then [233, 221, 111, 55] else []
  row.getD rate 0

/-- The lanes in use at a width (R286). -/
def lanesInUse (ready w : Nat) : Nat :=
  if w = 8 then 0xFF else if w = 4 then (if bitsOf ready 3 0 = 15 then 0x0F else 0xF0)
  else 2 ^ ((List.range 8).find? (fun i => bitOf ready i)).getD 0

/-- The code of a width in PORT.STATE (R315). -/
def widthCode (w : Nat) : Nat := if w = 8 then 3 else if w = 4 then 2 else if w = 1 then 1 else 0

/-- The lanes' results of one attempt: error bits, polarity and, for the lanes not yet ready at this rate, attempts and readiness. -/
def Port.tried (q : Port) (ls : List LaneResult) : Port :=
  let t := q.train
  let trying := (List.range 8).filter (fun i => !bitOf t.ready i)
  let pass := trying.filter (fun i => match ls[i]? with | some l => LaneResult.passes t.rate l | none => false)
  let ready := pass.foldl (fun r i => r ||| 2 ^ i) t.ready
  let pol := (List.range 8).foldl (fun a i => match ls[i]? with | some l => a + b2n l.inverted * 2 ^ i | none => a) 0
  { q with train := { t with attempts := t.attempts + 1, ready := ready }, ready := ready, pol := pol,
           attempts := gmodKeys q.attempts trying (fun _ n => n + 1),
           errbits := gmodKeys q.errbits (List.range 8) (fun i _ => match ls[i]? with | some l => min l.errBits (2 ^ 32 - 1) | none => 0) }

/-- The rate under test is judged (R285): it becomes the best when it pays more. -/
def Port.judged (q : Port) : Port :=
  let t := q.train
  let w := laneWidth t.ready
  let w := if w < minWidth q.minw then 0 else w
  let old := match t.best with | none => 0 | some b => payloadRate b.1 b.2.1
  if 0 < w ∧ old < payloadRate t.rate w then { q with train := { t with best := some (t.rate, w, t.ready), bestTries := q.attempts } } else q

/-- Training ends: the port runs at the best rate and width, or fails (R285, R288). -/
def endTraining (s : State) (p : Nat) : State :=
  let q := s.port p
  match q.train.best with
  | none => portState s p fun q => { q.endSession 1 with fails := satAdd 8 q.fails 1 }
  | some (r, w, ready) =>
    let s := modPort s p fun q => { q with rate := r, width := widthCode w, lanes := lanesInUse ready w, ready := ready,
                                           attempts := q.train.bestTries, frame := 0, badMarks := 0, locked := true }
    if q.st = 5 then portState s p fun q => ({ q with st := 4 } : Port).pump else startAuth s p

/-- TRAINING_ATTEMPT_END (R287): with results for all eight lanes. The rate is done when every lane is ready or after four attempts. -/
def execTrainingAttemptEnd (port : PortId) (lanes : List LaneResult) (s : State) : Host.Outcome State Fault Refusal :=
  if lanes.length ≠ 8 then .fault .malformedCommand
  else .next (
    if (s.port port).st ≠ 2 ∧ (s.port port).st ≠ 5 then s
    else
      let s := modPort s port fun q => q.tried lanes
      let t := (s.port port).train
      if t.ready ≠ 0xFF ∧ t.attempts < 4 then s
      else
        let s := modPort s port Port.judged
        if laneWidth t.ready = 8 ∨ 3 ≤ t.rate then endTraining s port
        else modPort s port fun q => { q with train := { q.train with rate := t.rate + 1, attempts := 0, ready := 0 },
                                              ready := 0, attempts := gconst 0 })

/-! The handshake (R300-R305). -/

/-- A chunk of a message is taken; none when its count or index fails the message (R301). -/
def Handshake.chunk (h : Handshake) (n : Nat) (c : RxCar) : Option Handshake :=
  let i := bitsOf c.w1.toNat 15 0
  if bitsOf c.w1.toNat 31 16 = n ∧ i < n then some { h with chunks := gset h.chunks i (some c.payload) } else none

/-- The message, once every chunk is here. -/
def Handshake.message (h : Handshake) (n : Nat) : Option (List Byte) :=
  if (List.range n).all (fun i => (gget h.chunks i).isSome) then
    some ((List.range n).flatMap (fun i => (gget h.chunks i).getD [])) else none

/-- A certificate has the form of R432 and a given CTYPE. -/
def certOk (cert : List Byte) (ctype : Nat) : Bool :=
  decide (leAt cert 0 4 = 0x6CE7A001) && decide (leAt cert 4 1 = ctype) && decide (leAt cert 5 3 = 0) && decide (leAt cert 0x38 8 = 0) &&
  decide (leAt cert 0x1C73 13 = 0)

/-- The partner's HELLO is accepted: its form, its chain, its role for this port and, where one is named, its serial (R301, R304, R432).
`sigs` says that both signatures verify, the CA's under a ROM root not revoked (log 6). -/
def helloAccepted (s : State) (p : Nat) (msg : List Byte) (sigs : Bool) : Bool :=
  let q := s.port p
  let leaf := slice msg 0x40 7296; let ca := slice msg 0x1CC0 7296
  let role := leAt msg 0 1; let serial := leAt msg 8 8
  sigs && decide (leAt msg 1 1 = 1) && decide (leAt msg 2 2 = 2) && decide (role = if q.host then 2 else 1) &&
  certOk ca 2 && certOk leaf (if q.host then 5 else 4) && decide (leAt leaf 8 8 = serial) &&
  decide (slice leaf 0x18 32 = (sha3Bytes (slice ca 0x40 2592)).take 32) &&
  (!q.host || decide (q.peer = 0) || decide (q.peer.toNat = serial))

/-- HELLO (R300 steps 1-3). A partner that R304 refuses is quarantined. -/
def execHello (port : PortId) (car : RxCar) (sigsOk : Bool) (s : State) : Host.Outcome State Fault Refusal :=
  .next (
    if car.typ ≠ 9 then s
    else
      match receiveCar s port car with
      | .drop s => s
      | .take s =>
        let q := s.port port
        if q.st ≠ 3 ∨ q.hs.step ≠ 1 then s
        else
          match q.hs.chunk 58 car with
          | none => failHandshake s port
          | some h =>
            let s := modPort s port fun q => { q with hs := h }
            match h.message 58 with
            | none => s
            | some msg =>
              if helloAccepted s port msg sigsOk then
                let s := modPort s port fun q => { q with hs := { q.hs with peerHello := msg }, role := leAt msg 0 1,
                                                          peer := BitVec.ofNat 64 (leAt msg 8 8) }
                if s.grm.idok then sendKex1 s port 0 else s
              else quarantine (linkAuth s port) port 3)

/-- Key and salt of a direction and epoch (R302). -/
def deriveKey (d epoch : Nat) (secret h3 : List Byte) : List Byte :=
  (sha3Bytes (leBytes 1 0x53 ++ leBytes 1 d ++ leBytes 4 epoch ++ secret ++ h3)).take 36

/-- A KEX2 message has the form of R301 for an epoch. -/
def kex2Ok (msg : List Byte) (epoch : Nat) : Bool :=
  decide (leAt msg 0 1 = 2) && decide (leAt msg 1 3 = 0) && decide (leAt msg 4 4 = epoch) && decide (leAt msg 8 8 = 0)

/-- The device takes KEX2 and answers with KEX3 (R300 step 5, R302). -/
def takeKex2 (s : State) (p : Nat) (msg : List Byte) : State :=
  let q := s.port p
  let epoch := if q.st = 4 then q.sess.epoch + 1 else 0
  let ct := slice msg 16 1568; let sig := slice msg 1584 4627
  let h2 := sha3Bytes (q.hs.devHello ++ q.hs.peerHello ++ q.hs.kex1 ++ ct)
  let h3 := sha3Bytes (h2 ++ sig)
  let secret := padTo 32 (Config.mlkemShared q.hs.kemNo ct)
  let s := modPort s p fun q => { q with hs := { q.hs with step := 5, chunks := gconst none, secret := secret, h2 := h2, h3 := h3 } }
  let s := sendMessage s p 10 19 (kexMessage 3 epoch (padTo 4627 (Config.mldsaSign (identitySeed s) [] h3)))
  if q.st = 4 then s
  else
    let s := modPort s p fun q =>
      { q with hs := { q.hs with step := 6 },
               sess := { Session.new with txKey := deriveKey 0 0 secret h3, rxKey := deriveKey 1 0 secret h3 } }
    sendLctl s p false

/-- KEX (R300, R301, R303): chunks of the partner's KEX2, at the handshake or at a rekey. `sigsOk`: its signature over h2 verifies. -/
def execKex (port : PortId) (car : RxCar) (sigsOk : Bool) (s : State) : Host.Outcome State Fault Refusal :=
  .next (
    if car.typ ≠ 10 then s
    else
      match receiveCar s port car with
      | .drop s => s
      | .take s =>
        let q := s.port port
        if q.hs.step ≠ 3 then s
        else
          match q.hs.chunk 25 car with
          | none => failExchange s port
          | some h =>
            let s := modPort s port fun q => { q with hs := h }
            match h.message 25 with
            | none => s
            | some msg =>
              if sigsOk ∧ kex2Ok msg (if q.st = 4 then q.sess.epoch + 1 else 0) then takeKex2 s port msg else failExchange s port)

/-- HANDSHAKE_TIMEOUT (R300): a step has not followed within 1 s (log 3). -/
def execHandshakeTimeout (port : PortId) (s : State) : Host.Outcome State Fault Refusal :=
  .next (
    let q := s.port port
    if q.st = 3 ∧ q.hs.step ≠ 0 then failHandshake s port
    else if q.st = 4 ∧ q.hs.step = 3 then failRekey s port
    else s)

/-- AUTH_RETRY (R288): 1 s after a failed handshake (log 3). -/
def execAuthRetry (port : PortId) (s : State) : Host.Outcome State Fault Refusal :=
  .next (if (s.port port).st = 3 ∧ (s.port port).hs.step = 0 then startAuth s port else s)

/-! Link control (R295, R298, R300 step 6). -/

/-- Once KEX3 is acknowledged the device sends under the new keys, with KP inverted (R303). -/
def finishRekey (s : State) (p : Nat) : State :=
  let q := s.port p
  if q.st = 4 ∧ q.hs.step = 5 ∧ (q.sess.replay.all (fun r => decide (r.2.typ ≠ 10))) ∧ (q.sess.waiting.all (fun c => decide (c.typ ≠ 10))) then
    modPort s p fun q =>
      let e := q.sess
      { q with kp := !q.kp, rekeys := satAdd 16 q.rekeys 1, hs := { q.hs with step := 6 },
               sess := { e with epoch := e.epoch + 1, txKey := deriveKey 0 (e.epoch + 1) q.hs.secret q.hs.h3, oldRxKey := e.rxKey,
                                rxKey := deriveKey 1 (e.epoch + 1) q.hs.secret q.hs.h3, txCars := 0, txLctls := 0 } }
  else s

/-- The value of the LCTL counter that a received SEQ stands for lies this far above the last one taken, less 1 (R298). -/
def lctlAhead (e : Session) (c : RxCar) : Nat := (c.seq.toNat + 2 * 65536 - e.lctlRx % 65536 - 1) % 65536

/-- The port enters UP (R300 step 6). -/
def enterUp (s : State) (p : Nat) : State := portState s p fun q => { q with st := 4 }

/-- LCTL (R295, R296, R298). In AUTH the first valid one under the new keys takes the port UP. -/
def execLctl (port : PortId) (car : RxCar) (s : State) : Host.Outcome State Fault Refusal :=
  .next (
    let q := s.port port
    let up := decide (q.st = 4)
    let first := decide (q.st = 3) && decide (q.hs.step = 6)
    if car.typ ≠ 0 ∨ (q.st ≠ 3 ∧ !up) ∨ !q.locked then s
    else if !car.crcOk then sendNak (modPort s port fun q => { q with crcfail := satAdd 16 q.crcfail 1 }) port
    else if !car.enc ∨ (!up ∧ !first) then modPort s port fun q => { q with unauth := satAdd 16 q.unauth 1 }
    else if !car.tagOk then gcmFail s port
    else if 32767 ≤ lctlAhead q.sess car then s
    else
      let s := modPort s port fun q =>
        { q with sess := { q.sess with lctlRx := (q.sess.lctlRx + lctlAhead q.sess car + 1) % 2 ^ 32, rxLctls := q.sess.rxLctls + 1 } }
      if !q.wellFormed car then malformed s port
      else
        let s := if first then enterUp s port else s
        fixKeys (finishRekey (applyLctl s port car.payload) port) port)

/-! Markers and error windows (R284, R289). -/

/-- MARKER_CAR (R284): three markers in a row that fail, or show another frame count, lose lock; a good one finds it again. -/
def execMarkerCar (port : PortId) (good : Bool) (frame : BitVec 32) (s : State) : Host.Outcome State Fault Refusal :=
  .next (modPort s port fun q =>
    if q.st ≠ 3 ∧ q.st ≠ 4 then q
    else if !q.locked then (if good then { q with locked := true, badMarks := 0, frame := (frame.toNat + 1) % 2 ^ 32 } else q)
    else if good ∧ frame.toNat = q.frame then { q with badMarks := 0, frame := (q.frame + 1) % 2 ^ 32 }
    else
      let q := { q with badMarks := q.badMarks + 1, frame := (q.frame + 1) % 2 ^ 32 }
      if 3 ≤ q.badMarks then { q with locked := false, badMarks := 0 } else q)

/-- Some lane in use satisfies `f`. -/
def Port.someLane (q : Port) (f : Nat → Bool) : Bool := (List.range 8).any (fun i => bitOf q.lanes i && f i)

/-- BER_WINDOW (R289): a 1 s window ends on an UP port. -/
def execBerWindow (port : PortId) (errBits : List Nat) (uncorr : Nat) (lost : List Bool) (s : State) : Host.Outcome State Fault Refusal :=
  if errBits.length ≠ 8 ∨ lost.length ≠ 8 then .fault .malformedCommand
  else .next (
    if (s.port port).st ≠ 4 then s
    else
      let s := modPort s port fun q =>
        { q with uncorr := satAdd 16 q.uncorr uncorr,
                 errbits := gmodKeys q.errbits (List.range 8) (fun i _ => min (errBits.getD i 0) (2 ^ 32 - 1)) }
      let q := s.port port
      let ber := q.someLane (fun i => decide (10 * laneLimit q.rate < errBits.getD i 0))
      let some' := q.someLane (fun i => lost.getD i false)
      let all' := !q.someLane (fun i => !lost.getD i false)
      if ber || decide (100 < uncorr) || (some' && !all') then linkBer (portState s port Port.toRetrain) port else s)

/-- NO_CAR_TIMEOUT (R289): 100 ms without a car that passes, or without lock (log 3). -/
def execNoCarTimeout (port : PortId) (s : State) : Host.Outcome State Fault Refusal :=
  .next (portState s port fun q => if q.st = 4 then q.endSession 1 else q)

/-- RETRAIN_TIMEOUT (R288): 10 s in RETRAIN (log 3). -/
def execRetrainTimeout (port : PortId) (s : State) : Host.Outcome State Fault Refusal :=
  .next (portState s port fun q => if q.st = 5 then q.endSession 1 else q)

/-! Time beacons (R310, R311). -/

/-- BEACON_SEND (R310). -/
def execBeaconSend (s : State) : Host.Outcome State Fault Refusal :=
  .next (
    let p := s.dev.srcport
    if p < 144 then
      let t1 := s.dev.wall
      let s := sendCar s p (mkCar 8 0 0 0 0 (leBytes 8 t1 ++ leBytes 8 0 ++ leBytes 8 0 ++ [1#8]))
      { s with dev := { s.dev with reqT1 := some t1 } }
    else s)

/-- The wall counter is corrected by an offset (R311). -/
def correctWall (s : State) (offset : Int) : State :=
  let small := decide (-100 ≤ offset) && decide (offset ≤ 100)
  let good := if small then s.dev.goodExch + 1 else 0
  let d := { s.dev with offset := offset, goodExch := min good 16, locked := s.dev.locked || decide (16 ≤ good), reqT1 := none }
  if !s.dev.locked || decide (10000 < offset) then { s with dev := { d with wall := wallPlus s.dev.wall offset, slew := 0 } }
  else { s with dev := { d with slew := offset } }

/-- The offset of an exchange; where the sum is odd, which way it rounds is a free value (R310). -/
def exchangeOffset (s : State) (t1 t2 t3 t4 : Nat) : Int × State :=
  let sum := ((t2 : Int) - t1) + ((t3 : Int) - t4)
  if sum % 2 = 0 then (sum / 2, s)
  else let (ev, s) := takeFresh s; (sum / 2 + ((Config.pick ev % 2 : Nat) : Int), s)

/-- BEACON (R310, R311): the partner's mark, and the reply to the outstanding request on the source port. -/
def execBeacon (port : PortId) (car : RxCar) (t4 : Word64) (s : State) : Host.Outcome State Fault Refusal :=
  .next (
    if car.typ ≠ 8 then s
    else
      match receiveCar s port car with
      | .drop s => s
      | .take s =>
        let pl := car.payload
        let t1 := leAt pl 0 8
        let wasSource := decide (s.dev.srcport = port.val)
        let s := portState s port fun q => { q with master := bitOf (leAt pl 24 1) 1 }
        if wasSource ∧ !bitOf (leAt pl 24 1) 0 ∧ s.dev.reqT1 = some t1 then
          let (off, s) := exchangeOffset s t1 (leAt pl 8 8) (leAt pl 16 8) t4.toNat
          correctWall s off
        else s)

end Sys2Proof.Machine
end

