-- ==== Sys2Proof/Machine/Misc.lean ====
section
/-! DEFINITION. The check and miscellaneous words (R61-R64): BRAND, BALLAST, SALU, SLI, and the end of routine ballast. -/

namespace Sys2Proof.Machine

/-- What BRAND has done so far: the stall, the last brand computed, and the failing checks. -/
structure BrandAcc where
  t     : Stall
  last  : Nat
  fails : Nat

/-- Read the 64 units of one block through a generator: the block's byte address and its bytes, or the code of a fault (R62). -/
def brandBlock (sid k : Nat) (t : Stall) : Stall × (Nat ⊕ (Nat × List Byte)) :=
  match (t.ag k).yields with
  | none => (t, .inl fRange)
  | some a =>
    if a % 4096 ≠ 0 then (t, .inl fAlign)
    else
      match Stall.readUnits sid k 64 t with
      | (t, none) => (t, .inl fRange)
      | (t, some bs) => (t, .inr (a, bs))

/-- The blocks of a BRAND in order (R62). -/
def brandBlocks (sid k mode : Nat) : Nat → BrandAcc → BrandAcc × Option Nat
  | 0, b => (b, none)
  | n + 1, b =>
    let sp := (b.t.ag k).space
    match brandBlock sid k b.t with
    | (t, .inl c) => ({ b with t := t }, some c)
    | (t, .inr (a, bs)) =>
      let v := brandOf bs
      let t := if mode = 0 then { t with mem := t.mem.setBrand sp (a / 4096) v } else t
      let bad := decide (mode = 1) && !brandOk v (t.mem.brand sp (a / 4096))
      brandBlocks sid k mode n ⟨t, v, b.fails + b2n bad⟩

/-- BRAND (R61, R62). -/
def execBrand (sid : StallId) (s : State) : Host.Outcome State Fault Refusal :=
  .next (issueWord s sid 0x3C fun t w =>
    let mode := bitsOf w 57 56
    let k := bitsOf w 55 53
    let nb := bitsOf w 52 45
    let sp := (t.ag k).space
    if !onlyFields w [(57, 56), (55, 53), (52, 45), (44, 40)] || decide (nb = 0 ∨ mode = 3 ∨ (mode = 2 ∧ nb ≠ 1) ∨ (mode < 2 ∧ sp = 0)) then
      .fault s fIllegal
    else if t.interlocked [k] [] then .hold s 1
    else
      let r := brandBlocks sid k mode nb ⟨t, 0, 0⟩
      let s := brandFails (putStall s sid r.1.t) sid r.1.fails
      match r.2 with
      | some c => .fault s c
      | none =>
        let s := if mode = 2 then modStall s sid fun t => t.setSreg (bitsOf w 44 40) r.1.last else s
        .retire s (reach sp + 64 * nb) (decide (sp ≠ 0)))

/-- The ramp governor drives ballast in a stall's shed (R63, R349), or the shed is under a thermal limit (R369): a BALLAST has no effect. -/
def governorBallast (s : State) (sid : Nat) : Bool :=
  let p := s.pshed (pshedOf s (shedOf sid))
  decide (0 < p.bduty) || decide (p.tlim < 16)

/-- Routine ballast of a stall stops (R63). -/
def Engines.stopBallast (e : Engines) : Engines := { e with ballast := none }

/-- BALLAST (R61, R63): the duty and the cycles are kept; the MACs have no result. -/
def execBallast (sid : StallId) (s : State) : Host.Outcome State Fault Refusal :=
  .next (issueWord s sid 0x3D fun t w =>
    let duty := bitsOf w 57 53
    let n := if bitOf w 52 then t.sreg sid (bitsOf w 51 47) else bitsOf w 23 0
    if !onlyFields w [(57, 53), (52, 52), (51, 47), (23, 0)] || decide (16 < duty) then .fault s fIllegal
    else if governorBallast s sid then .retire s 1 false
    else .retire (modEng s sid fun e => { e with ballast := if duty = 0 ∨ n = 0 then none else some (duty, n) }) 1 false)

/-- BALLAST_RUN_OUT (R63): the cycles of the routine ballast have run out. -/
def execBallastRunOut (sid : StallId) (s : State) : Host.Outcome State Fault Refusal :=
  .next (if (s.stall sid).eng.ballast.isSome then modEng s sid Engines.stopBallast else s)

/-- The operation of a SALU by FN (R64), on 32-bit values. -/
def salu (fn a b : Nat) : Nat :=
  let sh := b % 32
  if fn = 0 then (a + b) % 2 ^ 32
  else if fn = 1 then (a + 2 ^ 32 - b) % 2 ^ 32
  else if fn = 2 then a &&& b
  else if fn = 3 then a ||| b
  else if fn = 4 then a ^^^ b
  else if fn = 5 then a * 2 ^ sh % 2 ^ 32
  else if fn = 6 then a / 2 ^ sh
  else if fn = 7 then patternOf 32 (floorShift (signedOf 32 a) sh)
  else if fn = 8 then a * b % 2 ^ 32
  else if fn = 9 then (if signedOf 32 a ≤ signedOf 32 b then a else b)
  else if fn = 10 then (if signedOf 32 a ≤ signedOf 32 b then b else a)
  else if fn = 11 then b2n (decide (signedOf 32 a < signedOf 32 b))
  else b2n (decide (a < b))

/-- SALU (R61, R64). -/
def execSalu (sid : StallId) (s : State) : Host.Outcome State Fault Refusal :=
  .next (issueWord s sid 0x3E fun t w =>
    let fn := bitsOf w 57 54
    if !onlyFields w [(57, 54), (53, 49), (48, 44), (43, 39), (38, 38), (15, 0)] || decide (12 < fn) then .fault s fIllegal
    else
      let b := if bitOf w 38 then patternOf 32 (signedOf 16 (bitsOf w 15 0)) else t.sreg sid (bitsOf w 43 39)
      .retire (putStall s sid (t.setSreg (bitsOf w 53 49) (salu fn (t.sreg sid (bitsOf w 48 44)) b))) (if fn = 8 then 2 else 1) false)

/-- SLI (R61). -/
def execSli (sid : StallId) (s : State) : Host.Outcome State Fault Refusal :=
  .next (issueWord s sid 0x3F fun t w =>
    if !onlyFields w [(57, 53), (31, 0)] then .fault s fIllegal
    else .retire (putStall s sid (t.setSreg (bitsOf w 57 53) (bitsOf w 31 0))) 1 false)

end Sys2Proof.Machine
end

