-- ==== Sys2Proof/Machine/Gates.lean ====
section
/-! DEFINITION. Gate lines and realignment (R177-R182, R187), the injection epoch (R164, R166) and the route tables (R163, R172). -/

namespace Sys2Proof.Machine

/-! Epochs. -/

/-- The in-flight count of an epoch is zero in every yard (R164 step 4). -/
def epochEmpty (s : State) (e : Bool) : Bool :=
  (List.range 64).all (fun y => if e then decide ((s.yard y).cnt1 = 0) else decide ((s.yard y).cnt0 = 0))

/-- Every injection point inverts its epoch (R164 step 3). -/
def switchEpoch (s : State) : State :=
  { s with sec := { s.sec with inj := !s.sec.inj, earm := false, drained := false } }

/-- EPOCH_DRAINED (R164 step 4). -/
def execEpochDrained (s : State) : Host.Outcome State Fault Refusal :=
  .next (if epochEmpty s (!s.sec.inj) then { s with sec := { s.sec with drained := true } } else s)

/-- The effect of a write of SEC.EPOCH (R166): ARM is ignored while DRAINED is 0. -/
def writeEpoch (data : Nat) (s : State) : State :=
  let s := { s with sec := { s.sec with eline := bitsOf data 5 2 } }
  if s.sec.drained then { s with sec := { s.sec with earm := bitOf data 1 } } else s

/-- SEC_EPOCH_WRITE (R164 step 2, R166). -/
def execSecEpochWrite (o : Origin) (data : Word64) (s : State) : Host.Outcome State Fault Refusal :=
  .next (asAuth o s (writeEpoch data.toNat))

/-! Route tables. -/

/-- Change the table of a version. -/
def modRoute (s : State) (v : Bool) (f : RouteTable → RouteTable) : State :=
  if v then { s with routeB := f s.routeB } else { s with routeA := f s.routeA }

/-- A version may be written (R164): it is not the one in use, and DRAINED is 1. -/
def routeWritable (s : State) (v : Bool) : Bool := decide (v ≠ s.sec.inj) && s.sec.drained

/-- ROUTE_TABLE_WRITE (R163, R164): one router's 64 entries, the reserved bit left 0; a refused write is counted. -/
def execRouteTableWrite (version : Bool) (sid : StallId) (entries : List Byte) (s : State) : Host.Outcome State Fault Refusal :=
  if entries.length ≠ 64 then .fault .malformedCommand
  else if !routeWritable s version then
    .next (modYard s (yardOf sid) fun y => { y with rtrefuse := satAdd 16 y.rtrefuse 1 })
  else
    .next (modRoute s version fun r =>
      { r with entries := gmodKeys r.entries ((List.range 64).map (fun y => sid.val * 64 + y))
                 (fun k _ => some (entries.getD (k % 64) 0 &&& 0x7F#8)) })

/-- The yards whose track rail is lost (R375). -/
def deadYards (s : State) : List Nat := (List.range 64).filter (fun y => (s.yard y).tracktrip)

/-- DETOUR_INSTALL (R172): the detour tables of the dead yards go into the version not in use, once it may be written, and the switch is
armed with LINE 15. -/
def execDetourInstall (s : State) : Host.Outcome State Fault Refusal :=
  .next (
    let d := deadYards s
    if d.isEmpty || decide ((routeTable s s.sec.inj).dead = d) || !s.sec.drained then s
    else
      let s := modRoute s (!s.sec.inj) fun _ => ⟨d, gconst none⟩
      { s with sec := { s.sec with earm := true, eline := 15 } })

/-! Openings. -/

/-- RVAL of a tally descriptor (R185). -/
def dRval (d : Word64) : Nat := bitsOf d.toNat 29 15
/-- RLINE of a tally descriptor (R185). -/
def dRline (d : Word64) : Nat := bitsOf d.toNat 49 45

/-- One tally of a stall whose PEND for a line has cleared (R187). -/
def realignTally (bit : Nat) (sid : Nat) (s : State) (k : Nat) : State :=
  let t := s.stall sid
  let d := gget t.active.tdesc k
  if dRline d = bit ∧ t.tally k ≠ dRval d then setTally (tallyDrift s sid k) sid k (dRval d) else s

/-- The stall holds on a WAITG of a line (R182). -/
def holdsOnLine (t : Stall) (bit : Nat) : Bool :=
  let w := wordAt t
  decide (t.seq.run = 2) && decide (bitsOf w 63 58 = 0x04) && decide (gateBit (bitsOf w 57 56) (bitsOf w 55 52) = some bit)

/-- A participant's PEND clears (R179, R182, R187). -/
def clearPend (bit : Nat) (s : State) (sid : Nat) : State :=
  let wake := holdsOnLine (s.stall sid) bit && decide (shedDepth s (shedOf sid) ≠ 0)
  let s := if wake then requestWake s sid else s
  let s := modStall s sid fun t => { t with pend := t.pend - 2 ^ bit }
  (List.range 32).foldl (realignTally bit sid) s

/-- The stalls that a line of a scope belongs to (R177). -/
def inScope (scope unit sid : Nat) : Bool :=
  if scope = 0 then decide (shedOf sid = unit) else if scope = 1 then decide (yardOf sid = unit) else true

/-- The participants of a line (R180, R181): open stalls whose mask bit is 1, outside ABSENT sheds and lame yards. -/
def participants (s : State) (scope unit bit : Nat) : List Nat :=
  (stallsWhere s (fun t => t.opened && bitOf t.active.mask.toNat bit)).filter (inScope scope unit)

/-- PHASE of a line inverts (R189, R191). -/
def invertPhase (s : State) (scope unit line : Nat) : State :=
  if scope = 0 then modShed s unit fun h => { h with phase := h.phase ^^^ 2 ^ line }
  else if scope = 1 then modYard s unit fun y => { y with phase := y.phase ^^^ 2 ^ line }
  else { s with sec := { s.sec with gphase := s.sec.gphase ^^^ 2 ^ line } }

/-- A line has participants and all of them have arrived (R179). -/
def lineReady (s : State) (scope unit bit : Nat) : Bool :=
  let ps := participants s scope unit bit
  !ps.isEmpty && ps.all (fun sid => bitOf (s.stall sid).pend bit)

/-- GATE_OPENING (R179): shed lines by shed key, yard lines by yard, wafer lines G0-G14. The armed line switches the epoch (R164). -/
def execGateOpening (scope : Fin 3) (unit : Nat) (line : Fin 16) (s : State) : Host.Outcome State Fault Refusal :=
  .next (match gateBit scope line with
    | none => s
    | some bit =>
      if !lineReady s scope unit bit then s
      else
        let s := invertPhase ((participants s scope unit bit).foldl (clearPend bit) s) scope unit line
        if scope = 2 ∧ s.sec.earm ∧ s.sec.eline = line then switchEpoch s else s)

end Sys2Proof.Machine
end

