-- ==== Sys2Proof/Machine/Tack.lean ====
section
/-! DEFINITION. The tack image (R195-R204), the checks of LOAD (R197), the rack (R205, R206), the slice loader's checks (R40, R130, R158,
R185) and the deltas (R202, R203). -/

namespace Sys2Proof.Machine

/-! The image, as a memory whose address 0 is its first byte. -/

/-- Bytes of Hostler memory (R321). -/
def hmemSize : Nat := 0x20000000

/-- A little-endian field of the header. -/
def hdrField (m : Mem) (off n : Nat) : Nat := Memory.readLe m off n

/-- TLEN (R195). -/
def tackLen (m : Mem) : Nat := hdrField m 0x70 8
/-- NSLICE. -/
def tackSlices (m : Mem) : Nat := hdrField m 0x1C 4
/-- NPARAM. -/
def tackParams (m : Mem) : Nat := hdrField m 0x20 4
/-- RTD_N. -/
def tackRtdN (m : Mem) : Nat := hdrField m 0x48 4
/-- MRD_N. -/
def tackMrdN (m : Mem) : Nat := hdrField m 0x58 4
/-- PWR_N. -/
def tackPwrN (m : Mem) : Nat := hdrField m 0x68 4
/-- EPSW. -/
def tackEpsw (m : Mem) : Bool := bitOf (hdrField m 0x19 1) 0

/-- The regions of a tack: offset and size (R197). -/
def tackRegions (m : Mem) : List (Nat × Nat) :=
  [(hdrField m 0x28 8, tackSlices m * 8832), (hdrField m 0x30 8, 0x800000), (hdrField m 0x38 8, tackParams m * 64),
   (hdrField m 0x40 8, tackRtdN m * 8), (hdrField m 0x50 8, tackMrdN m * 16), (hdrField m 0x60 8, tackPwrN m * 16)]

/-- Bytes `off` to `off + n - 1` are 0. -/
def zeroBytes (m : Mem) (off n : Nat) : Bool := !m.any (fun c => decide (off ≤ c.1) && decide (c.1 < off + n))

/-- Every region of non-zero size lies in 0x100 to TLEN - 1 and no two of them overlap (R197). -/
def regionsFit (tlen : Nat) : List (Nat × Nat) → Bool
  | [] => true
  | (o, n) :: r =>
    (decide (n = 0) || (decide (0x100 ≤ o) && decide (o + n ≤ tlen) &&
      r.all (fun q => decide (q.2 = 0) || decide (o + n ≤ q.1) || decide (q.1 + q.2 ≤ o)))) && regionsFit tlen r

/-- The stall map as one word per stall (R198). -/
def tackMap (m : Mem) : GMap Word64 := Memory.words 64 8 m (hdrField m 0x30 8) 1048576

/-- A stall map entry is well formed (R198). -/
def mapEntryOk (nslice nparam e : Nat) : Bool :=
  decide (bitsOf e 19 17 = 0) && decide (bitsOf e 63 40 = 0) &&
  (bitOf e 16 || (decide (bitsOf e 15 0 < nslice) && decide (bitsOf e 39 20 < nparam)))

/-- Every entry of the stall map is well formed; the unlisted ones, which are all 0, are asked once. -/
def tackMapOk (m : Mem) : Bool :=
  let g := tackMap m
  let ok (e : Nat) := mapEntryOk (tackSlices m) (tackParams m) e
  g.cells.all (fun c => ok c.2.toNat) && (decide (g.cells.length = 1048576) || ok 0)

/-- The route-delta records (R202). -/
def tackRtd (m : Mem) : List Word64 :=
  (List.range (tackRtdN m)).map (fun i => BitVec.ofNat 64 (hdrField m (hdrField m 0x40 8 + 8 * i) 8))
/-- The marshalling-delta records: index and entry (R203). -/
def tackMrd (m : Mem) : List (Nat × Word64) :=
  (List.range (tackMrdN m)).map (fun i =>
    let o := hdrField m 0x50 8 + 16 * i
    (hdrField m o 8, BitVec.ofNat 64 (hdrField m (o + 8) 8)))
/-- The power annotation records: KIND, YARD, SHED, TOFF, VALUE (R204). -/
def tackPwr (m : Mem) : List (Nat × Nat × Nat × Nat × Nat) :=
  (List.range (tackPwrN m)).map (fun i =>
    let o := hdrField m 0x60 8 + 16 * i
    (hdrField m o 1, hdrField m (o + 1) 1, hdrField m (o + 2) 1, hdrField m (o + 4) 4, hdrField m (o + 8) 4))

/-- The power records are in range, their reserved bytes 0, and their TOFF does not fall (R197, R204). -/
def tackPwrOk (m : Mem) : Bool :=
  let rs := tackPwr m
  (List.range (tackPwrN m)).all (fun i =>
    let o := hdrField m 0x60 8 + 16 * i
    let r := rs.getD i (0, 0, 0, 0, 0)
    zeroBytes m (o + 3) 1 && zeroBytes m (o + 12) 4 && decide (r.1 ≤ 2) &&
    (decide (r.2.1 < 64) || decide (r.2.1 = 0xFF)) && (decide (r.2.2.1 < 64) || decide (r.2.2.1 = 0xFF)) &&
    (decide (i = 0) || decide ((rs.getD (i - 1) (0, 0, 0, 0, 0)).2.2.2.1 ≤ r.2.2.2.1)))

/-- The reserved bytes of the header are 0, and SECID is not (R195). -/
def tackHdrOk (m : Mem) : Bool :=
  decide (hdrField m 0x08 8 ≠ 0) && decide (hdrField m 0x18 1 < 4) && decide (hdrField m 0x19 1 < 2) &&
  zeroBytes m 0x1A 2 && zeroBytes m 0x24 4 && zeroBytes m 0x4C 4 && zeroBytes m 0x5C 4 && zeroBytes m 0x6C 4 && zeroBytes m 0x78 72

/-- The counts lie in their ranges (R195). -/
def tackCountsOk (m : Mem) : Bool :=
  decide (1 ≤ tackSlices m) && decide (tackSlices m ≤ 65536) && decide (tackParams m ≤ 1048576) &&
  decide (tackRtdN m ≤ 65536) && decide (tackMrdN m ≤ 65536) && decide (tackPwrN m ≤ 4096)

/-! Slices. -/

/-- Slice `n` of a tack as a memory of its own (R199). -/
def tackSlice (m : Mem) (n : Nat) : Mem := Memory.window m (hdrField m 0x28 8 + 8832 * n) 8832

/-- The reserved fields of a slice are 0 (R37, R39, R158, R180, R185, R199, R200; log 22). -/
def sliceReservedOk (r : Mem) : Bool :=
  zeroBytes r 0x2028 24 && zeroBytes r 0x20E8 24 && decide (bitsOf (hdrField r 0x2000 4) 31 17 = 0) &&
  (Memory.words 32 4 r 0x2008 8).cells.all (fun c => decide (bitsOf c.2.toNat 31 13 = 0)) &&
  (Memory.words 32 4 r 0x1000 1024).cells.all (fun c => decide (bitsOf c.2.toNat 31 28 = 0)) &&
  (Memory.words 32 4 r 0x2040 41).cells.all (fun c =>
    if c.1 = 0 then decide (bitsOf c.2.toNat 31 16 = 0) else decide (33 ≤ c.1) || decide (bitsOf c.2.toNat 31 19 = 0)) &&
  decide (bitsOf (hdrField r 0x20E4 4) 31 27 = 0) &&
  (Memory.words 32 4 r 0x2100 32).cells.all (fun c => !bitOf c.2.toNat 31) &&
  (Memory.words 64 8 r 0x2180 32).cells.all (fun c => decide (bitsOf c.2.toNat 63 51 = 0))

/-- The layout of a tack is one that R197 accepts. -/
def tackLayoutOk (m : Mem) : Bool :=
  tackHdrOk m && tackCountsOk m && decide (tackLen m % 64 = 0) && (tackRegions m).all (fun q => decide (q.1 % 64 = 0)) &&
  regionsFit (tackLen m) (tackRegions m) && (tackEpsw m || (decide (tackRtdN m = 0) && decide (tackMrdN m = 0))) &&
  tackMapOk m && (tackRtd m).all (fun r => decide (bitsOf r.toNat 63 35 = 0)) &&
  (tackMrd m).all (fun r => decide (r.1 < 524288) && decide (bitsOf r.2.toNat 63 38 = 0)) && tackPwrOk m &&
  (List.range (tackSlices m)).all (fun n => sliceReservedOk (tackSlice m n))

/-- The digest that the distributor computes (R196), as the little-endian value of its 64 bytes. -/
def tackDigest (m : Mem) : Nat :=
  sha3 ((List.range (tackLen m)).map (fun a => if a = 0x18 ∨ (0xC0 ≤ a ∧ a < 0x100) then 0#8 else Memory.read m a))

/-- What the distributor finds in a source of `size` bytes: the CMDERR code of its refusal, or none (R197, R208, R232; log 22). -/
def tackRefused (m : Mem) (size : Nat) : Option Nat :=
  if hdrField m 0 4 ≠ 0x7AC4C1E4 ∨ hdrField m 4 2 ≠ 1 ∨ hdrField m 6 2 ≠ 0 then some 8
  else if size < tackLen m then some 11
  else if !tackLayoutOk m then some 9
  else if tackDigest m ≠ hdrField m 0xC0 64 then some 10
  else none

/-! The rack. -/

/-- The directory entry that the distributor sends a stall (R206), VALID set. -/
def dirEntry (m : Mem) (e : Nat) : List Byte :=
  let idle := bitOf e 16
  let param := if idle then List.replicate 64 0#8 else Memory.readBytes m (hdrField m 0x38 8 + 64 * bitsOf e 39 20) 64
  param ++ leBytes 8 (hdrField m 8 8) ++ leBytes 2 (if idle then 0 else bitsOf e 15 0) ++ [if idle then 3#8 else 1#8] ++
    List.replicate 53 0#8

/-- A stall's rack after the distributor has sent it a place of a tack (R205, R208): the slice, unless the stall is idle, and the
directory entry. -/
def Stall.racked (p : Nat) (m : Mem) (e : Nat) (t : Stall) : Stall :=
  let c := if bitOf e 16 then t.mem.loftC else Memory.putWindow t.mem.loftC (0x10000 + p * 0x2400) 8832 (tackSlice m (bitsOf e 15 0))
  let d := dirEntry m e
  { t with mem := { t.mem with loftC := Memory.writeBytes c (0x1FC00 + p * 0x80) d } }

/-- The directory entry of a place: SECID, VALID, IDLE. -/
def Stall.dirSecid (p : Nat) (t : Stall) : Nat := Memory.readLe t.mem.loftC (0x1FC40 + p * 0x80) 8
/-- VALID of a directory entry. -/
def Stall.dirValid (p : Nat) (t : Stall) : Bool := bitOf (Memory.readLe t.mem.loftC (0x1FC4A + p * 0x80) 1) 0
/-- IDLE of a directory entry. -/
def Stall.dirIdle (p : Nat) (t : Stall) : Bool := bitOf (Memory.readLe t.mem.loftC (0x1FC4A + p * 0x80) 1) 1
/-- The slice of a place as the rack holds it. -/
def Stall.rackSlice (p : Nat) (t : Stall) : Mem := Memory.window t.mem.loftC (0x10000 + p * 0x2400) 8832
/-- The parameter block of a place as the rack holds it. -/
def Stall.rackParam (p : Nat) (t : Stall) : Mem := Memory.window t.mem.loftC (0x1FC00 + p * 0x80) 64

/-- What the slice loader copies of a slice (R213). -/
def Cfg.ofSlice (r param : Mem) : Cfg :=
  { store := Memory.words 64 8 r 0 512, tags := Memory.words 32 4 r 0x1000 1024, conf := Memory.words 32 4 r 0x2040 41,
    mask := BitVec.ofNat 32 (hdrField r 0x20E4 4), fout := Memory.words 32 4 r 0x2100 16, fin := Memory.words 32 4 r 0x2140 16,
    tdesc := Memory.words 64 8 r 0x2180 32, freq := bitOf (hdrField r 0x2000 4) 16, oregs := Memory.words 32 4 r 0x2008 8,
    param := param }

/-! The slice loader's checks. -/

/-- The units of queue memory that a configuration's present queues and slots take (R39). -/
def Cfg.spans (c : Cfg) : List (Nat × Nat) :=
  ((List.range 32).map (fun q => let w := (gget c.conf (1 + q)).toNat; (bitsOf w 8 0, bitsOf w 18 9)) ++
   (List.range 8).map (fun x =>
     let w := (gget c.conf (33 + x)).toNat
     (bitsOf w 8 0, if bitsOf w 16 9 = 0 then 0 else 1 + ceilDiv (bitsOf w 16 9) 2))).filter (fun q => decide (0 < q.2))

/-- No two spans overlap and none passes unit 511. -/
def spansFit : List (Nat × Nat) → Bool
  | [] => true
  | (b, n) :: r => decide (b + n ≤ 512) && r.all (fun q => decide (b + n ≤ q.1) || decide (q.1 + q.2 ≤ b)) && spansFit r

/-- R40. -/
def Cfg.r40 (c : Cfg) : Bool :=
  let size (q : Nat) := bitsOf (gget c.conf (1 + q)).toNat 18 9
  let lanes (x : Nat) := bitsOf (gget c.conf (33 + x)).toNat 16 9
  spansFit c.spans &&
  (List.range 8).all (fun x => decide (lanes x = 0) ||
    (decide (lanes x ≤ 128) && decide (bitsOf (gget c.conf (33 + x)).toNat 31 17 ≠ 0))) &&
  c.tags.cells.all (fun t =>
    let e := t.2.toNat
    !eEn e || (decide (size (eQueue e) ≠ 0) &&
      (!eCen e || (decide (lanes (eSlot e) ≠ 0) && decide (1 + ceilDiv (lanes (eSlot e)) 2 ≤ size (eQueue e))))))

/-- No two valid entries of a fence list name the same pair (R158). -/
def fenceDistinct : List Nat → Bool
  | [] => true
  | e :: r => (!bitOf e 30 || r.all (fun f => !bitOf f 30 || decide (bitsOf e 29 0 ≠ bitsOf f 29 0))) && fenceDistinct r

/-- R158. -/
def Cfg.r158 (c : Cfg) : Bool :=
  fenceDistinct ((List.range 16).map (fun i => (gget c.fout i).toNat)) && fenceDistinct ((List.range 16).map (fun i => (gget c.fin i).toNat))

/-- R185: no descriptor names an invalid line or one whose mask bit is 0. -/
def Cfg.r185 (c : Cfg) : Bool :=
  (List.range 32).all (fun k =>
    let l := dRline (gget c.tdesc k)
    decide (l = 31) || (decide (l < 27) && bitOf c.mask.toNat l))

/-- R130: the two tags of a pair do not name the same queue. -/
def Cfg.r130 (c : Cfg) : Bool :=
  c.tags.cells.all (fun t =>
    let a := t.2.toNat; let b := (gget c.tags (t.1 ^^^ 1)).toNat
    !(eEn a && ePair a && eEn b && ePair b && decide (eQueue a = eQueue b)))

/-- The CRC of a slice with its SCRC field taken as 0 matches that field (R200). -/
def sliceCrcOk (r : Mem) : Bool :=
  decide (crc32 ((List.range 8832).map (fun a => if 0x2004 ≤ a ∧ a < 0x2008 then 0#8 else Memory.read r a)) = hdrField r 0x2004 4)

/-- The reason of a stall's first failing check at ARM, or 0 (R212, R230). -/
def Stall.armFails (p secid : Nat) (t : Stall) : Nat :=
  if t.dirSecid p ≠ secid ∨ !t.dirValid p then 5
  else if t.dirIdle p then 0
  else
    let r := t.rackSlice p
    let c := Cfg.ofSlice r []
    if !sliceCrcOk r then 6 else if !c.r40 then 1 else if !c.r158 then 2 else if !c.r185 then 3 else if !c.r130 then 4 else 0

/-- The shadow state that the loader copies (R201, R213). -/
def Stall.shadowOf (p : Nat) (t : Stall) : Cfg :=
  if t.dirIdle p then { Cfg.idle with param := t.rackParam p } else Cfg.ofSlice (t.rackSlice p) (t.rackParam p)

/-! Deltas. -/

/-- The routers that a route-delta record covers (R202). -/
def rtdRouters (r : Nat) : List Nat :=
  let yard := bitsOf r 7 2; let shed := bitsOf r 13 8
  if bitsOf r 1 0 = 0 then List.range 1048576
  else if bitsOf r 1 0 = 1 then (List.range 64).flatMap (fun k => (List.range 256).map (sidOf (shedKey yard k)))
  else if bitsOf r 1 0 = 2 then (List.range 256).map (sidOf (shedKey yard shed))
  else [sidOf (shedKey yard shed) (bitsOf r 21 14)]

/-- The version not in use is written as the version in use with every record applied in order (R202). -/
def applyRtd (s : State) (rs : List Word64) : State :=
  let cur := routeTable s s.sec.inj
  let entries := rs.foldl (fun g r =>
    gmodKeys g ((rtdRouters r.toNat).map (fun sid => sid * 64 + bitsOf r.toNat 27 22)) (fun _ _ => some (BitVec.ofNat 8 (bitsOf r.toNat 35 28))))
    cur.entries
  modRoute s (!s.sec.inj) fun _ => ⟨cur.dead, entries⟩

/-- The marshalling version not in use is written as the version in use with every record applied (R203). -/
def applyMrd (s : State) (rs : List (Nat × Word64)) : State :=
  let cur := if s.sec.inj then s.mars.verB else s.mars.verA
  let new := rs.foldl (fun g r => gset g r.1 r.2) cur
  if s.sec.inj then { s with mars := { s.mars with verA := new } } else { s with mars := { s.mars with verB := new } }

end Sys2Proof.Machine
end

