-- ==== Sys2Proof/Machine/Sections.lean ====
section
/-! DEFINITION. The section controller (R207-R232): loading, arming, the open and the flip, the start opening, the end latch and close, the
abort's end, and reloads. -/

namespace Sys2Proof.Machine

/-! Commands and their refusals. -/

/-- A refused or failed command leaves its code in CMDERR of its place (R232). -/
def cmdErr (s : State) (p code : Nat) : State := modPlace s p fun q => { q with cmderr := code }

/-- The place rests: LOADED, ENDED or ABORTED (R208-R210), and no arm of it is under way. -/
def resting (s : State) (p : Nat) : Bool :=
  decide ((s.place p).st = 2 ∨ (s.place p).st = 5 ∨ (s.place p).st = 7) && decide (s.sec.arming ≠ some p)

/-- What a source of LOAD or RELOAD holds now. -/
inductive TackSource where
  | failed
  | waiting
  | ready (m : Mem) (size : Nat)
  deriving DecidableEq, Repr

/-- The source that a value of SEC.LOADSRC names (R208, R227, R244). -/
def tackSource (s : State) (w : Word64) : TackSource :=
  if bitOf w.toNat 0 then
    let id := bitsOf w.toNat 63 32
    let x := gget (s.port (bitsOf id 15 8)).ctxs (bitsOf id 4 0)
    if x.id ≠ id ∨ x.mode ≠ 2 then .waiting
    else if x.st = 4 then .ready x.tackBuf (bitsOf (gget x.desc 2).toNat 24 0 * 4096)
    else if x.st = 5 ∨ x.st = 6 then .failed else .waiting
  else
    let a := bitsOf w.toNat 28 6 * 64
    .ready (Memory.window s.hmem a (hmemSize - a)) (hmemSize - a)

/-- An uncorrectable error of Hostler memory met by a unit of the I/O ring (R321, R392). Its location is that of Hostler cluster 0 (log 22). -/
def hmemParity (s : State) : State := record s 2 (.ring 256)

/-- LOAD, as the controller takes it (R208 step 1, R210). A place loaded while a remap runs is to be reloaded after it (log 22). -/
def takeLoad (p : Nat) (s : State) : State :=
  if resting s p || decide ((s.place p).st = 0) then
    modPlace s p fun q => { (q.emptied q.cmderr) with
      st := 1, source := s.sec.loadsrc, rld := s.rm.running.isSome,
      rldFor := match s.rm.running with | some r => r.stalls | none => [] }
  else cmdErr s p 1

/-- The stalls to which the distributor sends nothing: those of ABSENT sheds and lame yards (R207). -/
def absentStalls (s : State) : List Nat :=
  ((List.range 4096).filter (fun k => shedAbsent s k)).flatMap (fun k => (List.range 256).map (sidOf k))

/-- Every stall's rack write of a place (R208 step 2). -/
def rackAll (s : State) (p : Nat) (m : Mem) : State :=
  let g := tackMap m
  let stalls := gupdate s.stalls (gkeys g ++ absentStalls s)
    (fun sid t => if shedAbsent s (shedOf sid) then t else t.racked p m (gget g sid).toNat) (fun t => t.racked p m 0)
  { s with stalls := stalls }

/-- What the distributor keeps of a tack (R208 step 3). -/
def Place.keep (q : Place) (m : Mem) : Place :=
  { q with st := 2, secid := BitVec.ofNat 64 (hdrField m 8 8), predsec := BitVec.ofNat 64 (hdrField m 16 8), epsw := tackEpsw m,
           digest := hdrField m 0xC0 64, rtd := tackRtd m, mrd := tackMrd m, pwr := tackPwr m, smap := tackMap m }

/-- LOAD_COMPLETE (R208): the tack is refused, or every rack write has landed (log 17). -/
def execLoadComplete (place : PlaceNo) (memErr : Bool) (s : State) : Host.Outcome State Fault Refusal :=
  .next (
    if (s.place place).st ≠ 1 then s
    else if memErr then modPlace (hmemParity s) place fun q => q.emptied 11
    else
      match tackSource s (s.place place).source with
      | .waiting => s
      | .failed => modPlace s place fun q => q.emptied 11
      | .ready m size =>
        match tackRefused m size with
        | some code => modPlace s place fun q => q.emptied code
        | none => modPlace (rackAll s place m) place fun q => q.keep m)

/-- EVICT, as the controller takes it (R210). -/
def takeEvict (p : Nat) (s : State) : State :=
  if resting s p then modPlace s p fun q => q.emptied q.cmderr else cmdErr s p 1

/-- RELOAD, as the controller takes it (R209). -/
def takeReload (p : Nat) (s : State) : State :=
  if resting s p && (s.place p).rld && !(s.place p).rldRun then modPlace s p fun q => { q with rldRun := true } else cmdErr s p 1

/-- RELOAD_COMPLETE (R209): the named stalls' racks are written again, or the source no longer holds the tack. -/
def execReloadComplete (place : PlaceNo) (memErr : Bool) (s : State) : Host.Outcome State Fault Refusal :=
  .next (
    let q := s.place place
    if !q.rldRun then s
    else if memErr then modPlace (hmemParity s) place fun q => q.emptied 11
    else
      match tackSource s q.source with
      | .waiting => s
      | .failed => modPlace s place fun q => q.emptied 11
      | .ready m size =>
        if (tackRefused m size).isSome || decide (hdrField m 0xC0 64 ≠ q.digest) then modPlace s place fun q => q.emptied 11
        else
          let g := tackMap m
          let s := { s with stalls := gmodKeys s.stalls (q.rldFor.filter (fun sid => !shedAbsent s (shedOf sid)))
                                        (fun sid t => t.racked place m (gget g sid).toNat) }
          if s.rm.running.isSome then modPlace s place fun q => { q with rldRun := false }
          else modPlace s place fun q => { q with rldRun := false, rld := false, rldFor := [] })

/-! The device state (R444). -/

/-- READY and RUNNING follow the sections (R444). -/
def fixDevState (s : State) : State :=
  if s.dev.st = 3 ∧ (activePlace s).isSome then { s with dev := { s.dev with st := 4 } }
  else if s.dev.st = 4 ∧ (activePlace s).isNone then { s with dev := { s.dev with st := 3 } }
  else s

/-! The flip (R218). -/

/-- Cycles 0 and 1 of the flip at one stall (R218). -/
def Stall.flipped (gen : Nat) (t : Stall) : Stall :=
  let c := t.shadow
  { active := c, shadow := t.active, bank := !t.bank, opened := true, cg := gen,
    seq := { t.seq with run := 0, fcode := 0, fpc := 0, retired := 0, dispatched := 0, ags := gconst AddrGen.atFlip, loops := [],
                        sregs := gmodKeys t.seq.sregs ((List.range 26).map (· + 1)) (fun _ _ => 0), bound0 := none, bound1 := none,
                        fin := false, cyc := 0, dispCyc := none, lostNow := none },
    qu := { QueueUnit.empty with tallies := gmapAll c.tdesc (fun d => bitsOf d.toNat 14 0), ej := t.qu.ej, notice := t.qu.notice },
    pend := 0, eng := Engines.idle,
    mem := { t.mem with manger := Memory.putWindow t.mem.manger 0xBFC0 64 c.param } }

/-- The shed-level counts and settings at the flip (R92, R117, R122, R143, R150, R191). -/
def Shed.flipped (h : Shed) : Shed :=
  { h with replays := 0, sats := 0, maskerr := 0, predNow := h.predMode, wtagNow := h.wtag, progCount := 0, fired := false, cause := false,
           progStall := 0, nopart := 0 }

/-- One logical shed performs the open (R218, R380). -/
def flipShed (s : State) (k : Nat) : State :=
  let s := { s with stalls := gmodKeys s.stalls ((List.range 256).map (sidOf k)) (fun _ t => t.flipped s.sec.cg) }
  let s := modShed s k Shed.flipped
  modPShed s (pshedOf s k) fun p => { p with droops := 0, stretch := 0, openLatched := false }

/-- The shed performs the open at once: it is at D0 and awake. -/
def flipsNow (s : State) (k : Nat) : Bool :=
  let p := s.pshed (pshedOf s k)
  decide (p.depth = 0) && !p.waking && !p.parked

/-- The open reaches every shed: it flips, or latches the open until it is awake (R218, R357, R371). -/
def openSheds (s : State) : State :=
  let here := (List.range 4096).filter (fun k => !shedAbsent s k)
  let late := here.filter (fun k => !flipsNow s k)
  let now := here.filter (fun k => flipsNow s k)
  let stays := (late ++ (List.range 4096).filter (fun k => shedAbsent s k)).flatMap (fun k => (List.range 256).map (sidOf k))
  let stalls := gupdate s.stalls stays
    (fun sid t => if shedAbsent s (shedOf sid) || !flipsNow s (shedOf sid) then t else t.flipped s.sec.cg) (fun t => t.flipped s.sec.cg)
  let s := { s with stalls := stalls }
  let s := { s with sheds := gmodKeys s.sheds now (fun _ h => h.flipped) }
  let s := now.foldl (fun s k => modPShed s (pshedOf s k) fun p => { p with droops := 0, stretch := 0 }) s
  late.foldl (fun s k => modPShed s (pshedOf s k) fun p => { p with openLatched := true, wakeReq := true }) s

/-- The yard counts of R175 at the open. -/
def Yard.opened (y : Yard) : Yard := { y with unreach := 0, fmiss := 0, penwait := 0, rtrefuse := 0 }

/-- The controller sends the open of an ARMED place (R218). -/
def sendOpen (s : State) (p : Nat) : State :=
  let s := { s with sec := { s.sec with openOut := true, auto := false, wantStart := none, cg := (s.place p).gen },
                    pwr := { s.pwr with pend := false },
                    yards := gmapAll s.yards Yard.opened }
  openSheds s

/-! Starting. -/

/-- Something holds START and the AUTO start: a remap pending or running (R22, R219), or a stagger slot still to come (R351). -/
def startHeld (s : State) : Bool :=
  !s.rm.faults.isEmpty || s.rm.running.isSome || (s.pwr.pend && decide (s.dev.wall < s.pwr.tslot))

/-- The predecessor check of R224. -/
def predOk (s : State) (p : Nat) : Bool := decide ((s.place p).predsec = 0) || decide ((s.place p).predsec = s.sec.lastsec)

/-- START, as the controller takes it (R210, R211, R219, R224). -/
def takeStart (p : Nat) (s : State) : State :=
  if (s.place p).st ≠ 3 ∨ s.sec.openOut then cmdErr s p 1
  else if (activePlace s).isSome then cmdErr s p 2
  else if !predOk s p then cmdErr s p 3
  else if startHeld s then { s with sec := { s.sec with wantStart := some p } }
  else sendOpen s p

/-- The AUTO start, once no section is RUNNING or ABORTING (R211, R219, R224). -/
def autoStart (s : State) : State :=
  match armedPlace s with
  | none => { s with sec := { s.sec with auto := false } }
  | some p =>
    if !s.sec.auto || s.sec.openOut || (activePlace s).isSome then s
    else if !predOk s p then cmdErr { s with sec := { s.sec with auto := false } } p 3
    else if startHeld s then s
    else sendOpen s p

/-- A held START or AUTO start goes on when nothing holds it any longer (R219, R351). -/
def releaseStart (s : State) : State :=
  if startHeld s then s
  else
    match s.sec.wantStart with
    | some p => takeStart p { s with sec := { s.sec with wantStart := none } }
    | none => if s.sec.auto then autoStart s else s

/-! Arming. -/

/-- An ARM that gives a stall of the shed under test IDLE = 0 ends the lunge at once, and the shed wakes (R402). -/
def armEndsLunge (s : State) (p : Nat) : State :=
  match s.lunge.running with
  | some (y, k, 0) =>
    if anyBusy s p (shedKey y k) then
      let s := { s with lunge := { s.lunge with running := none }, err := { s.err with lstate := 0 } }
      modPShed s (pshedOf s (shedKey y k)) fun q => { q with waking := true, wakeReq := false }
    else s
  | _ => s

/-- ARM, as the controller takes it (R210-R212). -/
def takeArm (p : Nat) (auto : Bool) (s : State) : State :=
  let q := s.place p
  if !resting s p then cmdErr s p 1
  else if (armedPlace s).isSome || s.sec.arming.isSome then cmdErr s p 2
  else if q.rld then cmdErr s p 7
  else if q.epsw && !s.sec.drained then cmdErr s p 6
  else
    let s := modPlace s p fun q => { q with gen := (s.sec.cg + 1) % 4 }
    armEndsLunge { s with sec := { s.sec with arming := some p, auto := auto } } p

/-- Step 4 of R212: the deltas, and the write of SEC.EPOCH. Route writes are refused while DRAINED is 0 (R164). -/
def armDeltas (s : State) (p : Nat) : State :=
  let q := s.place p
  let s := if s.sec.drained then applyRtd s q.rtd
           else { s with yards := gmapAll s.yards (fun y => { y with rtrefuse := satAdd 16 y.rtrefuse 16384 }) }
  writeEpoch (2 + 15 * 4) (applyMrd s q.mrd)

/-- The lowest stall outside ABSENT sheds whose loader refuses the place (R212, R230). -/
def armFailure (s : State) (p : Nat) : Option Nat :=
  (stallsWhere s (fun t => decide (t.armFails p (s.place p).secid.toNat ≠ 0))).head?

/-- ARM_COMPLETE (R212): the arm of the place under way fails, or the place becomes ARMED. -/
def execArmComplete (s : State) : Host.Outcome State Fault Refusal :=
  .next (match s.sec.arming with
    | none => s
    | some p =>
      let s := { s with sec := { s.sec with arming := none } }
      match armFailure s p with
      | some sid =>
        let r := (s.stall sid).armFails p (s.place p).secid.toNat
        let s := modPlace s p fun q => { q with st := 2, cmderr := if r = 5 then 5 else 4 }
        { s with sec := { s.sec with auto := false, afStall := sid, afReason := r } }
      | none =>
        let s := { s with stalls := gmapAll s.stalls (fun t => { t with shadow := t.shadowOf p }) }
        let s := if (s.place p).epsw then armDeltas s p else s
        autoStart (modPlace s p fun q => { q with st := 3 }))

/-- An ARMED place goes back to LOADED (R209, R212). -/
def disarmPlace (s : State) (p : Nat) : State :=
  let s := modPlace s p fun q => { q with st := 2 }
  { s with sec := { s.sec with auto := false, earm := false } }

/-- DISARM, as the controller takes it. -/
def takeDisarm (p : Nat) (s : State) : State :=
  if (s.place p).st = 3 ∧ !s.sec.openOut then disarmPlace s p else cmdErr s p 1

/-! SEC.CTRL. -/

/-- The controller takes a command of SEC.CTRL (R226). -/
def takeSec (cmd place : Nat) (auto : Bool) (s : State) : State :=
  if cmd = 4 then requestAbort s 1
  else if place = 7 then s
  else if cmd = 1 then takeLoad place s
  else if cmd = 2 then takeArm place auto s
  else if cmd = 3 then takeStart place s
  else if cmd = 5 then takeDisarm place s
  else if cmd = 6 then takeEvict place s
  else if cmd = 7 then takeReload place s
  else s

/-- A write of SEC.CTRL (R226); GO is taken in the same step (log 9). -/
def writeSecCtrl (data : Nat) (s : State) : State :=
  let s := { s with sec := { s.sec with cmd := bitsOf data 2 0, cplace := bitsOf data 5 3, cauto := bitOf data 6 } }
  if bitOf data 8 then takeSec (bitsOf data 2 0) (bitsOf data 5 3) (bitOf data 6) s else s

/-- A write of SEC.CTRL with GO = 1. -/
def secCommand (o : Origin) (cmd place : Nat) (auto : Bool) (s : State) : Host.Outcome State Fault Refusal :=
  .next (asAuth o s (writeSecCtrl (cmd + place * 8 + b2n auto * 64 + 256)))

/-- LOAD (R208). -/
def execLoad (o : Origin) (place : PlaceNo) (s : State) : Host.Outcome State Fault Refusal := secCommand o 1 place false s
/-- ARM (R212). -/
def execArm (o : Origin) (place : PlaceNo) (auto : Bool) (s : State) : Host.Outcome State Fault Refusal := secCommand o 2 place auto s
/-- START (R219). -/
def execStart (o : Origin) (place : PlaceNo) (s : State) : Host.Outcome State Fault Refusal := secCommand o 3 place false s
/-- ABORT (R221). -/
def execAbort (o : Origin) (s : State) : Host.Outcome State Fault Refusal := secCommand o 4 s.sec.cplace false s
/-- DISARM (R212). -/
def execDisarm (o : Origin) (place : PlaceNo) (s : State) : Host.Outcome State Fault Refusal := secCommand o 5 place false s
/-- EVICT (R210). -/
def execEvict (o : Origin) (place : PlaceNo) (s : State) : Host.Outcome State Fault Refusal := secCommand o 6 place false s
/-- RELOAD (R209). -/
def execReload (o : Origin) (place : PlaceNo) (s : State) : Host.Outcome State Fault Refusal := secCommand o 7 place false s

/-! The start opening. -/

/-- START, SEN of the stall configuration block (R39). -/
def Stall.sen (t : Stall) : Bool := bitOf (t.confWord 0) 9

/-- The stall begins its start routine (R31, R41, R218); `wait` is how long it waited for the opening (log 10). -/
def Stall.begin (wait : Nat) (t : Stall) : Stall :=
  { t with seq := { t.seq with run := 1, pc := bitsOf (t.confWord 0) 8 0, sregs := gset t.seq.sregs 28 0,
                               dispatched := (t.seq.dispatched + 1) % 2 ^ 32, cyc := t.seq.cyc + wait + 3, dispCyc := none } }

/-- The start routines begin. -/
def beginStalls (s : State) : State :=
  let ev := s.fresh
  let sids := stallsWhere s (fun t => t.opened && t.sen)
  { s with fresh := s.fresh + 1048576,
           stalls := gmodKeys s.stalls sids (fun sid t => (t.settle sid).begin (Config.freeCycles (ev + sid))) }

/-- Every shed outside ABSENT ones has flipped and its stalls may arrive at G15 (R218, R371). -/
def allArrived (s : State) : Bool :=
  (List.range 4096).all (fun k => shedAbsent s k ||
    (let p := s.pshed (pshedOf s k); decide (p.depth = 0) && !p.waking && !p.parked && !p.openLatched && !p.hold))

/-- The tack carries a kind 0 record for all yards (R346). -/
def Place.hasKind0 (q : Place) : Bool := q.pwr.any (fun r => decide (r.1 = 0) && decide (r.2.1 = 0xFF))

/-- The power manager at the start of a section (R346). -/
def startPower (s : State) (p : Nat) : State :=
  let q := s.place p
  if q.hasKind0 then { s with pwr := { s.pwr with peak := 0, shoots := [], learning := false } }
  else
    let known := match gget s.pwr.learn (q.secid.toNat % 1024) with | some e => decide (e.1 = q.secid.toNat) | none => false
    { s with pwr := { s.pwr with peak := 0, shoots := [], learning := true, fallback := satAdd 16 s.pwr.fallback 1,
                                 nAlloc := if known then s.pwr.nAlloc else 8 } }

/-- START_OPENING (R218): G15 opens for the start. -/
def execStartOpening (s : State) : Host.Outcome State Fault Refusal :=
  .next (match armedPlace s with
    | none => s
    | some p =>
      if !s.sec.openOut || !allArrived s then s
      else
        let s := modPlace s p fun q => { q with st := 4, ranGen := some q.gen }
        let s := { s with sec := { s.sec with openOut := false, runus := 0 }, err := { s.err with secrec := 0 } }
        let s := invertPhase s 2 0 15
        let s := if s.sec.earm ∧ s.sec.eline = 15 then switchEpoch s else s
        fixDevState (startPower (beginStalls s) p))

/-! The end of a section. -/

/-- A stall's end condition (R216). -/
def endReady (s : State) (sid : Nat) : Bool :=
  let t := s.stall sid
  (t.seq.fin || !t.active.freq) && decide (t.seq.run = 0 ∨ t.seq.run = 6) && t.eng.jobs.isEmpty && decide (qstat s sid = 0) &&
  t.qu.pen.isEmpty && decide ((s.yard (yardOf sid)).cnt0 = 0) && decide ((s.yard (yardOf sid)).cnt1 = 0)

/-- G15 is ready for the end: every stall outside ABSENT sheds meets its end condition (R181, R216, R217). The unlisted stalls are all
alike but for their yards' counts, which the last clause asks for. -/
def endAll (s : State) : Bool :=
  (gkeys s.stalls).all (fun sid => shedAbsent s (shedOf sid) || endReady s sid) &&
  (let t := s.stalls.dflt
   decide (s.stalls.cells.length = 1048576) ||
   ((t.seq.fin || !t.active.freq) && decide (t.seq.run = 0 ∨ t.seq.run = 6) && t.eng.jobs.isEmpty && t.qu.pen.isEmpty &&
    decide (t.qu = { QueueUnit.empty with tallies := t.qu.tallies, wmsgs := t.qu.wmsgs, wcycles := t.qu.wcycles }))) &&
  (List.range 64).all (fun y => ((shedsOfYard y).all (fun k => shedAbsent s k)) ||
    (decide ((s.yard y).cnt0 = 0) && decide ((s.yard y).cnt1 = 0)))

/-- A line other than G15 is left open at a stall (R188). -/
def Stall.leftOpen (t : Stall) : Bool := decide (t.pend ≠ 0)
/-- FCHK and FINAL of a tally are broken at a stall (R188). -/
def Stall.drifted (t : Stall) (k : Nat) : Bool :=
  let d := (gget t.active.tdesc k).toNat
  bitOf d 50 && decide (t.tally k ≠ bitsOf d 44 30)

/-- The checks of R188 at one stall. -/
def closeStall (s : State) (sid : Nat) : State :=
  let t := s.stall sid
  let s := if t.leftOpen then gateLeftOpen s sid (((List.range 27).find? (fun i => bitOf t.pend i)).getD 0) else s
  (List.range 32).foldl (fun s k => if t.drifted k then tallyDrift s sid k else s) s

/-- The stalls whose close checks fail, in ascending order. -/
def closeFailures (s : State) : List Nat := stallsWhere s (fun t => t.leftOpen || (List.range 32).any (fun k => t.drifted k))

/-- Every stall closes (R217): it stops dispatching and is no longer open. -/
def closeStalls (s : State) : State :=
  { s with stalls := gmapAll s.stalls (fun t => { t with opened := false }) }

/-- A shed in thermal hold at the close is parked at D2 (R371). -/
def parkHeld (s : State) : State :=
  let psheds := gmapWith s.psheds (fun n p => if p.hold && (logicalShed s n).isSome then { p with parked := true, depth := 2 } else p) id
  { s with psheds := psheds }

/-- The learning table at a COMPLETED end (R346). -/
def learnEnd (s : State) (p : Nat) : State :=
  let q := s.place p
  let dur := match q.pwr.find? (fun r => decide (r.1 = 2)) with | some r => r.2.2.2.2 | none => s.sec.runus
  { s with pwr := { s.pwr with learn := gset s.pwr.learn (q.secid.toNat % 1024) (some (q.secid.toNat, s.pwr.peak, dur)), learning := false } }

/-- SEC.STATUS.HELD and the bindings end with the running section. -/
def endHeld (s : State) : State := { s with sec := { s.sec with held := false } }

/-- The section is COMPLETED (R217, R229, R392). -/
def completeSection (s : State) (p : Nat) : State :=
  let bad := closeFailures s
  let s := closeStalls (bad.foldl closeStall s)
  let s := modPlace s p fun q => { q with st := 5 }
  let s := { s with sec := { s.sec with valid := true, outcome := false, closeerr := !bad.isEmpty, rplace := p, acause := 0,
                                        lastsec := (s.place p).secid } }
  let clean := !needsRecovery s
  let s := bucketsEnd s clean
  let s := learnEnd (endHeld s) p
  let s := { s with err := { s.err with lastrec := s.err.secrec } }
  parkHeld s

/-- END_LATCH (R217): the section completes, and the AUTO start follows when nothing cancels it (R211). -/
def execEndLatch (s : State) : Host.Outcome State Fault Refusal :=
  .next (match runningPlace s with
    | none => s
    | some p =>
      if !endAll s then s
      else
        let s := fixDevState (completeSection s p)
        if needsRecovery s then { s with sec := { s.sec with auto := false } }
        else if s.sec.auto then autoStart s else s)

/-- Both in-flight counts are zero in every yard whose track rail is live (R222). -/
def abortDrained (s : State) : Bool :=
  (List.range 64).all (fun y => (s.yard y).tracktrip || (decide ((s.yard y).cnt0 = 0) && decide ((s.yard y).cnt1 = 0)))

/-- ABORTED is reached (R222): an AUTO start asked for while ABORTING follows (R211). -/
def abortedReached (s : State) : State :=
  match placeIn s [6] with
  | none => s
  | some p =>
    if !abortDrained s then s
    else
      let s := modPlace s p fun q => { q with st := 7 }
      let s := fixDevState { s with err := { s.err with lastrec := s.err.secrec }, pwr := { s.pwr with learning := false } }
      if needsRecovery s then { s with sec := { s.sec with auto := false } }
      else if s.sec.auto then autoStart s else s

/-! Loft writes (R234-R239). -/

/-- Write a run of 64-byte units. -/
def StallMem.writeUnits (sid sp : Nat) : Nat → Nat → List Byte → StallMem → StallMem
  | 0, _, _, m => m
  | n + 1, a, bs, m => StallMem.writeUnits sid sp n (a + 64) (bs.drop 64) (m.writeBytes sid sp a (bs.take 64))

/-- The notice of a loft write (R238). -/
def noticeOf (h : LoftHdr) (bad : Bool) : Hdr × List Byte :=
  ({ dest := h.dest, tag := h.tag, vc := 2, gen := h.ngen, epoch := h.epoch, f := false, fcount := 0, len := 1, src := h.src, srcx := true,
     rly := false },
   leBytes 4 h.stream ++ leBytes 4 h.block ++ leBytes 4 (h.space + (h.uaddr / 64) * 4 + b2n bad * 128) ++ List.replicate 4 0#8)

/-- A loft write lands at its stall (R236-R238): data, brand and notice of a KIND 0 write; the rack bytes of the others, and the copy of a
KIND 1 run that goes on to the next stall (R207). -/
def landLoft (s : State) (sid : Nat) (h : LoftHdr) (payload : List Byte) : State :=
  let s := modMem s sid fun m => m.writeUnits sid h.space h.len (h.uaddr * 64) payload
  if h.kind ≠ 0 then
    if h.kind = 1 ∧ 0 < h.runm1 then inject s (.loft { h with dest := h.dest + 1, runm1 := h.runm1 - 1 } payload) sid 4 else s
  else
    let bad := h.brd && decide (brandOf payload ≠ h.brand)
    let s := if h.brd then modMem s sid fun m => m.setBrand h.space (h.uaddr / 64) h.brand else s
    let s := if bad then record s 1 (.stall sid) else s
    if h.ntf then modQu s sid fun u => { u with notice := some (noticeOf h bad) } else s

/-- LOFT_WRITE_LANDING (R237): the write at the VC2 ejection input begins to land, or its last flits land. It waits behind a notice. -/
def execLoftWriteLanding (sid : StallId) (s : State) : Host.Outcome State Fault Refusal :=
  .next (match (gget (s.stall sid).qu.ej 2).head? with
    | none => s
    | some id =>
      match trackMsg s id with
      | none => s
      | some m =>
        match m.packet with
        | .msg _ _ => s
        | .loft h payload =>
          if shedAbsent s (shedOf sid) then clearEj (discardAt (countUnreach s (yardOf sid)) id) sid 2
          else if !stallLive s sid then requestWake s sid
          else if (s.stall sid).qu.notice.isSome then s
          else if (lastFlit s id).isSome then clearEj (landLoft (removeTrack s m) sid h payload) sid 2
          else modTrack s id fun m => { m with fate := .landing })

end Sys2Proof.Machine
end

