-- ==== Sys2Proof/Machine/Power.lean ====
section
/-! DEFINITION. Power (R341-R362): the cap and its allocator, the ramp governor, idle depths and wakes, the staggered start and load shed.
Powers inside are hundredths of a watt, the step of a slope in 10 us. -/

namespace Sys2Proof.Machine

/-! The cap (R1, R2, R343). -/

/-- CAPW clamped to 8 kW and the fused maximum (R1, R2), in W. -/
def capClamped (s : State) : Nat := clampNat s.pwr.capw 8000 (s.dev.maxkw * 1000)

/-- LEVEL clamped (R359), in W. -/
def levelClamped (s : State) : Nat := clampNat s.pwr.level 8000 (capClamped s)

/-- Load shed is active (R352): the filtered pin or the link request. -/
def loadShed (s : State) : Bool := s.pwr.pin || s.pwr.lreq

/-- A slope in W/ms, clamped (R359); it is also the step per 10 us in hundredths of a watt. -/
def slopeOf (v : Nat) : Nat := clampNat v 5 500

/-- LIMIT after something it depends on was written (R343, R352): a rise and load shed act at once, a fall goes at the down slope. -/
def fixLimit (s : State) : State :=
  let target := 100 * capClamped s
  if loadShed s then { s with pwr := { s.pwr with limit := 100 * min (levelClamped s) (capClamped s) } }
  else if s.pwr.limit ≤ target then { s with pwr := { s.pwr with limit := target } } else s

/-- A write of PWR.CAP (R343). -/
def writeCap (data : Nat) (s : State) : State :=
  fixLimit { s with pwr := { s.pwr with capw := clampNat (bitsOf data 15 0) 8000 (s.dev.maxkw * 1000) } }

/-- PWR_CAP_WRITE (R343). -/
def execPwrCapWrite (o : Origin) (data : Word64) (s : State) : Host.Outcome State Fault Refusal := .next (asAuth o s (writeCap data.toNat))

/-! The allocator (R345, R346). -/

/-- n as set by cap and ramp (R344). -/
def nSet (s : State) : Nat := min s.pwr.nAlloc s.pwr.nRamp

/-- The learning-table entry of a SECID (R346). -/
def learnEntry (s : State) (id : Nat) : Option (Nat × Nat) :=
  match gget s.pwr.learn (id % 1024) with
  | some e => if e.1 = id then some e.2 else none
  | none => none

/-- The allocator works in learning mode (R346). -/
def inLearning (s : State) : Bool := (runningPlace s).isSome && s.pwr.learning

/-- The kind 0 value in force (R345): the last record for all yards whose TOFF has passed, in W. -/
def kind0Value (s : State) (p : Nat) : Option Nat :=
  (((s.place p).pwr.filter (fun r => decide (r.1 = 0 ∧ r.2.1 = 0xFF ∧ r.2.2.2.1 ≤ s.sec.runus))).getLast?).map (·.2.2.2.2)

/-- p16 (R345) as numerator and denominator in W, for a base in W and a measured compute draw. -/
def p16Of (s : State) (base compute : Nat) : Int × Nat :=
  let measured : Int × Nat := ((compute * 16 : Nat), nSet s)
  match runningPlace s with
  | none => measured
  | some p =>
    if s.pwr.learning then
      match learnEntry s (s.place p).secid.toNat with
      | some e => ((e.1 : Int), 1)
      | none => measured
    else
      match kind0Value s p with
      | some v => ((v : Int) - base, 1)
      | none => measured

/-- n from p16, the limit in hundredths and the base in W (R345). -/
def nFrom (p16 : Int × Nat) (limit base : Nat) : Nat :=
  if p16.1 ≤ 0 then 16
  else (clampInt (Int.fdiv (16 * ((limit : Int) - 100 * base) * p16.2) (100 * p16.1)) 1 16).toNat

/-- LIMIT moves toward a lowered cap at the down slope (R343). -/
def slewLimit (s : State) : State :=
  let target := 100 * capClamped s
  if loadShed s ∨ s.pwr.limit ≤ target then s
  else { s with pwr := { s.pwr with limit := max target (s.pwr.limit - slopeOf s.pwr.down) } }

/-- The overshoot of an interval (R343), and the third one within 100 ms of the section (R346). -/
def countOvershoot (s : State) : State :=
  let s := { s with pwr := { s.pwr with overshoot := satAdd 16 s.pwr.overshoot 1 } }
  if (runningPlace s).isNone || s.pwr.learning then s
  else
    let recent := s.pwr.shoots.filter (fun t => decide (s.dev.wall ≤ t + 100000000)) ++ [s.dev.wall]
    if recent.length < 3 then { s with pwr := { s.pwr with shoots := recent } }
    else { s with pwr := { s.pwr with shoots := [], learning := true, fallback := satAdd 16 s.pwr.fallback 1 } }

/-- PWR.MEAS and PWR.ENERGY of an interval (R361). -/
def PwrBlock.measured (p : PwrBlock) (m : PowerMeas) : PwrBlock :=
  { p with inw := min m.input 65535, linkw := min m.links 65535, loftw := min m.lofts 65535, ballw := min m.ballast 65535,
           basew := m.links + m.lofts + m.standing, mj := p.mj + (p.uj + 10 * m.input) / 1000, uj := (p.uj + 10 * m.input) % 1000 }

/-- ALLOCATOR_INTERVAL (R343, R345, R346, R361). -/
def execAllocatorInterval (m : PowerMeas) (s : State) : Host.Outcome State Fault Refusal :=
  .next (
    let nlast := nSet s
    let base := m.links + m.lofts + m.standing
    let above := decide (s.pwr.limit < 100 * m.input)
    let peak := (m.input - base) * 16 / nlast
    let unmet := decide (nlast = 1 ∧ s.pwr.limit < 100 * (m.input - m.ballast))
    let s := { s with pwr := s.pwr.measured m }
    let s := if (runningPlace s).isSome then { s with pwr := { s.pwr with peak := max s.pwr.peak peak } } else s
    let s := if above then countOvershoot s else s
    let s := slewLimit s
    let n := nFrom (p16Of s base m.compute) s.pwr.limit base
    let n := if above then min n (max 1 (nlast - 1)) else n
    { s with pwr := { s.pwr with nAlloc := n, unmet := unmet, alloc := inLearning s } })

/-! Issue-rate limits (R342, R344). -/

/-- The issue-rate limit in force in a physical shed (R344). -/
def nShed (s : State) (n : Nat) : Nat :=
  let p := s.pshed n
  min (min (nSet s) (s.yard (n / 72)).railLim) (min p.tlim p.dlim)

/-- NCAUSE of a physical shed (R362): the term that equals the limit in force, the first in the order of the codes. -/
def nCause (s : State) (n : Nat) : Nat :=
  let v := nShed s n
  if v = 16 then 0 else if nSet s = v then 1 else if (s.yard (n / 72)).railLim = v then 2 else 3

/-- The yard rail limit after an interval (R342, R373). -/
def Yard.railStep (watts : Nat) (y : Yard) : Yard :=
  let figure := if y.hot then 350 else 500
  let n := if figure < watts then max 1 (y.railLim - 1) else if 10 * watts ≤ 9 * figure then min 16 (y.railLim + 1) else y.railLim
  { y with railLim := n, corew := min watts 65535 }

/-- YARD_RAIL_INTERVAL (R342). -/
def execYardRailInterval (yard : YardId) (watts : Nat) (s : State) : Host.Outcome State Fault Refusal :=
  .next (modYard s yard (Yard.railStep watts))

/-! Idle depths (R354-R357). -/

/-- The logical sheds that are not ABSENT, in ascending yard then shed number, each with the physical shed that presents it. -/
def presented (s : State) : List (Nat × Nat) :=
  ((List.range 4096).filter (fun k => !shedAbsent s k)).map (fun k => (pshedOf s k, k))

/-- Break-even time of a depth in ns (R354). -/
def breakEven (d : Nat) : Nat := if d = 0 then 0 else if d = 1 then 100 else if d = 2 then 20000 else if d = 3 then 400000 else 5000000
/-- Wake latency of a depth in ns (R354). -/
def wakeLatency (d : Nat) : Nat := if d = 0 then 0 else if d = 1 then 20 else if d = 2 then 1500 else if d = 3 then 40000 else 350000

/-- A stall keeps its shed from being quiet (R356). -/
def Stall.quiet (t : Stall) : Bool :=
  decide (t.seq.run = 0 ∨ t.seq.run = 2 ∨ t.seq.run = 3 ∨ t.seq.run = 6) && t.eng.jobs.isEmpty && t.eng.ballast.isNone &&
  (List.range 32).all (fun q => (t.eligible q).isNone) && t.qu.relays.isEmpty

/-- A loft write lands at a stall of the shed. -/
def loftLanding (s : State) (k : Nat) : Bool :=
  s.track.any (fun m => decide (m.fate = .landing) && (match m.packet with | .loft h _ => decide (shedOf h.dest = k) | .msg _ _ => false))

/-- Every stall of a shed satisfies `p`: the listed ones one by one, and the unlisted ones, which are all alike, once. -/
def shedStalls (s : State) (k : Nat) (p : Stall → Bool) : Bool :=
  let listed := s.stalls.cells.filter (fun c => decide (c.1 < 1048576) && decide (shedOf c.1 = k))
  listed.all (fun c => p c.2) && (decide (listed.length = 256) || p s.stalls.dflt)

/-- A shed is quiet (R356). -/
def quietShed (s : State) (k : Nat) : Bool := shedStalls s k Stall.quiet && !loftLanding s k

/-- limit(s) (R355). -/
def depthLimit (s : State) (k : Nat) : Nat :=
  let m := min s.pwr.maxdepth 4
  let m := match activePlace s with | some p => if anyBusy s p k then min m 2 else m | none => m
  match armedPlace s with
  | some p => if (s.place p).predsec = s.sec.lastsec then min m 3 else m
  | none => m

/-- tslot while a stagger hold is pending, and PWR.NEXTEV while it is in the future (R356): the next module-wide event. -/
def moduleEvent (s : State) : Option Nat :=
  let a := if s.pwr.nextev ≠ 0 ∧ s.dev.wall < s.pwr.nextev then some s.pwr.nextev else none
  let b := if s.pwr.pend ∧ s.dev.wall < s.pwr.tslot then some s.pwr.tslot else none
  match a, b with
  | some x, some y => some (min x y)
  | some x, none => some x
  | none, y => y

/-- The ends, in wall time, of the idle windows of the running section that cover a shed now (R356). -/
def windowEnds (s : State) (k : Nat) : List Nat :=
  match runningPlace s with
  | none => []
  | some p =>
    ((s.place p).pwr.filter (fun r =>
      decide (r.1 = 1) && (decide (r.2.1 = 0xFF) || decide (r.2.1 = k / 64)) && (decide (r.2.2.1 = 0xFF) || decide (r.2.2.1 = k % 64)) &&
      decide (r.2.2.2.1 ≤ s.sec.runus) && decide (s.sec.runus < r.2.2.2.1 + r.2.2.2.2))).map
      (fun r => s.dev.wall + (r.2.2.2.1 + r.2.2.2.2 - s.sec.runus) * 1000)

/-- next_event(s) (R356). -/
def nextEvent (s : State) (k : Nat) : Option Nat := ((moduleEvent s).toList ++ windowEnds s k).min?

/-- select(s) (R356). -/
def selectDepth (s : State) (k : Nat) : Nat :=
  if !quietShed s k then 0
  else
    match nextEvent s k with
    | none => min 1 (depthLimit s k)
    | some t =>
      ((List.range (depthLimit s k + 1)).filter (fun d => decide (s.dev.wall + wakeLatency d + breakEven d ≤ t))).getLastD 0

/-- A shed proposes a depth (R356); a proposal of no greater depth than the present one leaves nothing to withhold. -/
def propose (s : State) (k : Nat) : State :=
  if shedAbsent s k then s
  else
    let d := selectDepth s k
    modPShed s (pshedOf s k) fun p => { p with proposed := d, vetoed := p.vetoed && decide (p.depth < d) }

/-- A physical shed waits for its proposal to be admitted. -/
def PShed.waits (p : PShed) : Bool := decide (p.depth < p.proposed) && !p.waking && !p.parked

/-- A stall loses everything but its memories (R354); its active and shadow configurations come back from the tack rack (R213). -/
def Stall.lose (ev : Nat) (t : Stall) : Stall :=
  { t with
    seq := { t.seq with run := 0, loops := [], ags := gconst AddrGen.atFlip, bound0 := none, bound1 := none, fin := false, dispCyc := none,
                        lost := some ev, lostNow := some ev },
    qu := { QueueUnit.empty with ej := t.qu.ej, notice := t.qu.notice }, pend := 0,
    eng := ⟨gmapAll t.eng.banks (fun b => { b with undef := some ev }), none, none, none, none, none⟩ }

/-- A physical shed enters a depth (R354, R355, R486). -/
def enterDepth (s : State) (n d : Nat) : State :=
  let old := (s.pshed n).depth
  let s := modPShed s n fun p => { p with depth := d, vetoed := false, bduty := 0 }
  match logicalShed s n with
  | none => s
  | some k =>
    let sids := (List.range 256).map (sidOf k)
    let ev := s.fresh
    let s := if 3 ≤ d ∧ old < 3 then
        { s with fresh := ev + 2 ^ 26, stalls := gmodKeys s.stalls sids (fun _ t => t.lose ev) } else s
    if d = 4 ∧ old < 4 then
      { s with stalls := gmodKeys s.stalls sids (fun _ t => { t with mem := { t.mem with manger := [] } }),
               sec := { s.sec with lastsec := 0 } }
    else s

/-- Admit waiting proposals of the first `n` of the given sheds. -/
def admitSheds (s : State) (ns : List Nat) : State := ns.foldl (fun s n => enterDepth s n (s.pshed n).proposed) s

/-- The physical sheds whose proposals wait, in ascending yard then shed number. -/
def waitingSheds (s : State) : List Nat := ((presented s).map (·.1)).filter (fun n => (s.pshed n).waits)

/-- No entry is withheld: every waiting proposal is admitted (R352, R372). -/
def admitAll (s : State) : State := admitSheds s (waitingSheds s)

/-- IDLE_PROPOSAL (R356). -/
def execIdleProposal (yard : YardId) (shed : ShedNo) (_cause : ProposalCause) (s : State) : Host.Outcome State Fault Refusal :=
  .next (propose s (shedKey yard shed))

/-- A shed begins to wake (R357). -/
def PShed.beginWake (p : PShed) : PShed := { p with waking := true, wakeReq := false }

/-- The planned wake is due (R357): the event time less the wake latency has come. -/
def wakeDue (s : State) (k : Nat) : Bool :=
  match nextEvent s k with
  | some t => decide (t ≤ s.dev.wall + wakeLatency (shedDepth s k))
  | none => false

/-- SHED_WAKE (R357). A parked shed ignores wake requests (R371), and the flip wakes it on leaving its hold. -/
def execShedWake (yard : YardId) (shed : ShedNo) (cause : WakeCause) (s : State) : Host.Outcome State Fault Refusal :=
  .next (
    let k := shedKey yard shed
    let n := pshedOf s k
    let p := s.pshed n
    let asked := match cause with | .held => p.wakeReq | .gate => p.wakeReq | .flip => p.wakeReq | .planned => wakeDue s k
    if shedAbsent s k || s.thm.tripped || p.parked || p.waking || decide (p.depth = 0) || !asked then s
    else modPShed s n PShed.beginWake)

/-- WAKE_COMPLETE (R357): the shed is at D0, performs the open it has latched (R219), and proposes again. -/
def execWakeComplete (yard : YardId) (shed : ShedNo) (s : State) : Host.Outcome State Fault Refusal :=
  .next (
    let k := shedKey yard shed
    let n := pshedOf s k
    if !(s.pshed n).waking || shedAbsent s k then s
    else
      let s := modPShed s n fun p => { p with depth := 0, waking := false, parked := false, proposed := 0, vetoed := false }
      let s := if (s.pshed n).openLatched then flipShed s k else s
      propose s k)

/-- A write of PWR.NEXTEV (R356): every shed proposes again. -/
def writeNextev (data : Nat) (s : State) : State :=
  (List.range 4096).foldl propose { s with pwr := { s.pwr with nextev := data } }

/-- NEXTEV_WRITE (R356). -/
def execNextevWrite (o : Origin) (data : Word64) (s : State) : Host.Outcome State Fault Refusal := .next (asAuth o s (writeNextev data.toNat))

/-! The ramp governor (R347-R350). -/

/-- The draw expected at the next event, in W (R356). -/
def expectedDraw (s : State) : Option Nat :=
  if s.pwr.nextpw ≠ 0 then some s.pwr.nextpw
  else
    match armedPlace s with
    | none => none
    | some p =>
      match (s.place p).pwr.find? (fun r => decide (r.1 = 0) && decide (r.2.1 = 0xFF)) with
      | some r => some r.2.2.2.2
      | none => (learnEntry s (s.place p).secid.toNat).map (fun e => e.1 + s.pwr.basew)

/-- The target g of an interval (R347) in hundredths of a watt. After a trip the ramp's limits are suspended (R372). -/
def rampTarget (s : State) (demand : Nat) : Int :=
  let d : Int := 100 * demand
  let lim : Int := s.pwr.limit
  if loadShed s || s.thm.tripped then min d lim
  else
    let g := clampInt d (s.pwr.gprev - slopeOf s.pwr.down) (s.pwr.gprev + slopeOf s.pwr.up)
    let g := match moduleEvent s, expectedDraw s with
      | some t, some e => max g (100 * (e : Int) - ((slopeOf s.pwr.up * (t - s.dev.wall) / 10000 : Nat) : Int))
      | _, _ => g
    min g lim

/-- A D0 shed that may run governor ballast (R349, R369). -/
def ballastOk (s : State) (n : Nat) : Bool :=
  let p := s.pshed n
  decide (p.depth = 0) && !p.waking && decide (p.tlim = 16)

/-- Governor ballast of every D0 shed at a free duty; routine ballast stops where it starts (R63, R349). -/
def setBallast (s : State) : State :=
  let ns := ((presented s).map (·.1)).filter (ballastOk s)
  let psheds := gmodKeys s.psheds ns (fun n p => { p with bduty := Config.pick (s.fresh + n) % 17 })
  let s := { s with fresh := s.fresh + 2 ^ 13, psheds := psheds }
  let stalls := gmapWith s.stalls
    (fun sid t => if decide (0 < (s.pshed (pshedOf s (shedOf sid))).bduty) then { t with eng := t.eng.stopBallast } else t) id
  { s with stalls := stalls }

/-- Governor ballast stops everywhere (R352, R372). -/
def dropBallast (s : State) : State := { s with psheds := gmapAll s.psheds (fun p => { p with bduty := 0 }) }

/-- Withhold every waiting proposal; each newly withheld entry is a veto (R348). -/
def withhold (s : State) : State :=
  let new := (waitingSheds s).filter (fun n => !(s.pshed n).vetoed)
  if new.isEmpty then s
  else
    let s := { s with psheds := gmodKeys s.psheds new (fun _ p => { p with vetoed := true }),
                      pwr := { s.pwr with vetoes := satAdd 16 s.pwr.vetoes new.length } }
    record s 24 .device

/-- Wake a free number of the given sheds, in their order (R348). -/
def wakeSome (s : State) (ns : List Nat) : State :=
  let (ev, s) := takeFresh s
  { s with psheds := gmodKeys s.psheds (ns.take (Config.pick ev % (ns.length + 1))) (fun _ p => p.beginWake) }

/-- The sheds at depths `lo` to `hi` that can be woken. -/
def sleeping (s : State) (lo hi : Nat) : List Nat :=
  ((presented s).map (·.1)).filter (fun n =>
    let p := s.pshed n; decide (lo ≤ p.depth) && decide (p.depth ≤ hi) && !p.waking && !p.parked)

/-- The draw lies above g (R348): the ramp lowers its n by a free amount and admits a free number of waiting entries. -/
def drawAbove (s : State) : State :=
  let (ev, s) := takeFresh s
  let (ev', s) := takeFresh s
  let s := { s with pwr := { s.pwr with nRamp := 1 + Config.pick ev % s.pwr.nRamp } }
  let ns := waitingSheds s
  setBallast (admitSheds s (ns.take (Config.pick ev' % (ns.length + 1))))

/-- The draw lies below g (R348): n rises again by a free amount, entries are withheld, ballast is raised and sheds are woken. -/
def drawBelow (s : State) (short : Bool) : State :=
  let (ev, s) := takeFresh s
  let s := { s with pwr := { s.pwr with nRamp := s.pwr.nRamp + Config.pick ev % (17 - s.pwr.nRamp) } }
  let s := setBallast (withhold s)
  let s := wakeSome (wakeSome s (sleeping s 1 1)) (sleeping s 2 4)
  if short then { s with pwr := { s.pwr with slopemiss := satAdd 16 s.pwr.slopemiss 1 } } else s

/-- Some entry is withheld. -/
def anyVetoed (s : State) : Bool := ((presented s).map (·.1)).any (fun n => (s.pshed n).vetoed)

/-- RAMP_INTERVAL (R347, R348, R352). -/
def execRampInterval (m : RampMeas) (s : State) : Host.Outcome State Fault Refusal :=
  .next (
    let g := rampTarget s m.demand
    let d : Int := 100 * m.draw
    let s := { s with pwr := { s.pwr with gprev := g, target := (Int.fdiv g 100).toNat % 65536 } }
    let s :=
      if loadShed s || s.thm.tripped then admitAll (dropBallast s)
      else if g < d then drawAbove s
      else if d < g then drawBelow s m.short
      else s
    { s with pwr := { s.pwr with veto := anyVetoed s } })

/-! Staggered start (R351). -/

/-- A write of PWR.STAGGER (R351, R360). -/
def writeStagger (data : Nat) (s : State) : State :=
  let p := { s.pwr with nslotm1 := bitsOf data 11 2, slotsrc := bitOf data 12, slot := bitsOf data 22 13, slotw := bitsOf data 47 24 }
  let k := if p.slotsrc then p.slot else s.fuses.serial % (p.nslotm1 + 1)
  { s with pwr := if bitOf data 0 then { p with pend := true, tslot := p.stagt0 + k * p.slotw * 1000 } else p }

/-- STAGGER_ARM (R351): the write of PWR.STAGGER. -/
def execStaggerArm (o : Origin) (data : Word64) (s : State) : Host.Outcome State Fault Refusal := .next (asAuth o s (writeStagger data.toNat))

/-- STAGGER_SLOT_REACHED (R351): the held start takes place, or PEND clears when no section is ARMED. -/
def execStaggerSlotReached (s : State) : Host.Outcome State Fault Refusal :=
  .next (
    if !s.pwr.pend || decide (s.dev.wall < s.pwr.tslot) then s
    else if (armedPlace s).isNone then { s with pwr := { s.pwr with pend := false } }
    else releaseStart s)

/-! Load shed (R352, R353). -/

/-- What changes when load shed becomes active (R352): LIMIT drops to LEVEL, ballast stops and no entry is withheld. -/
def shedBegin (s : State) : State :=
  let s := admitAll (dropBallast (fixLimit s))
  { s with pwr := { s.pwr with veto := false } }

/-- What changes when load shed ends (R353): LIMIT returns to CAPW and g rises from the draw of that moment. -/
def shedEnd (s : State) : State := { s with pwr := { s.pwr with limit := 100 * capClamped s, gprev := 100 * s.pwr.inw } }

/-- Load shed begins, goes on, ends or stays off, after the pin or LREQ changed. -/
def shedChange (old : Bool) (s : State) : State :=
  if loadShed s then (if old then fixLimit s else shedBegin s) else if old then shedEnd s else s

/-- LSHED_ASSERT (R352): LSHED# has been low for 1 us. -/
def execLshedAssert (s : State) : Host.Outcome State Fault Refusal :=
  .next (shedChange (loadShed s) { s with pwr := { s.pwr with pin := true }, pins := { s.pins with lshedN := false } })

/-- A write of PWR.LSHED (R352, R359). -/
def writeLshed (data : Nat) (s : State) : State :=
  shedChange (loadShed s) { s with pwr := { s.pwr with level := bitsOf data 15 0, lreq := bitOf data 16 } }

/-- LREQ (R352): the write of PWR.LSHED. -/
def execLreq (o : Origin) (data : Word64) (s : State) : Host.Outcome State Fault Refusal := .next (asAuth o s (writeLshed data.toNat))

/-- LOAD_SHED_END (R353): LSHED# is high; load shed ends when LREQ is 0. -/
def execLoadShedEnd (s : State) : Host.Outcome State Fault Refusal :=
  .next (shedChange (loadShed s) { s with pwr := { s.pwr with pin := false }, pins := { s.pins with lshedN := true } })

end Sys2Proof.Machine
end

