-- ==== Sys2Proof/Machine/Thermal.lean ====
section
/-! DEFINITION. Clocks, heat and supply faults (R363-R381). -/

namespace Sys2Proof.Machine

/-! Clocks (R363-R365). -/

/-- A write of THM.CLK (R363, R377). -/
def writeThmClk (data : Nat) (s : State) : State :=
  { s with thm := { s.thm with mhz := clampNat (bitsOf data 10 0) 400 s.dev.maxmhz / 10 * 10 } }

/-- THM_CLK_WRITE (R363). -/
def execThmClkWrite (o : Origin) (data : Word64) (s : State) : Host.Outcome State Fault Refusal := .next (asAuth o s (writeThmClk data.toNat))

/-- A write of THM.CFG (R368, R377): each field is clamped against the one before it. -/
def writeThmCfg (data : Nat) (s : State) : State :=
  let t := clampNat (bitsOf data 6 0) 70 105
  { s with thm := { s.thm with throttle := t, hold := clampNat (bitsOf data 14 8) (t + 1) 109, release := min (bitsOf data 22 16) (t - 4) } }

/-- The droop limit falls to at most `n` (R365); the cycles stretched meanwhile are a free number (R364). -/
def PShed.droop (n ev : Nat) (p : PShed) : PShed :=
  { p with dlim := min p.dlim n, droops := if n < p.dlim then satAdd 16 p.droops 1 else p.droops,
           stretch := satAdd 32 p.stretch (Config.freeCycles ev) }

/-- DROOP_DETECT (R365). -/
def execDroopDetect (yard : YardId) (shed : ShedNo) (deep : Bool) (s : State) : Host.Outcome State Fault Refusal :=
  .next (
    let (ev, s) := takeFresh s
    modPShed s (pshedOf s (shedKey yard shed)) (PShed.droop (if deep then 4 else 8) ev))

/-- DROOP_RECOVERY (R365). -/
def execDroopRecovery (yard : YardId) (shed : ShedNo) (s : State) : Host.Outcome State Fault Refusal :=
  .next (modPShed s (pshedOf s (shedKey yard shed)) fun p => { p with dlim := min 16 (p.dlim + 2) })

/-! Sensors (R367). -/

/-- A sensor's reading marks it failed (R367). -/
def badReading : Option Int → Bool
  | none => true
  | some t => decide (t < -20) || decide (150 < t)

/-- The failure bits of a group of sensors after a sample. -/
def failBits (old : Nat) (rs : List (Option Int)) : Nat :=
  ((List.range rs.length).filter (fun k => bitOf old k || badReading (rs.getD k none))).foldl (fun v k => v ||| 2 ^ k) 0

/-- The readings of the sensors that have not failed. -/
def goodReadings (fails : Nat) (rs : List (Option Int)) : List Int :=
  (List.range rs.length).filterMap (fun k => if bitOf fails k then none else rs.getD k none)

/-- How many bits of a number below 2^n are 1. -/
def popCount (n v : Nat) : Nat := ((List.range n).filter (fun i => bitOf v i)).length

/-- A shed under thermal or sensor limit; governor ballast there stops (R349, R369). -/
def PShed.limited (p : PShed) (n : Nat) : PShed := { p with tlim := n, bduty := if n < 16 then 0 else p.bduty }

/-- A physical shed after a sample (R367): failures, TFLOOR, TLOFT. A temperature with no sensor left keeps its last value (log 26). -/
def PShed.sampled (r : ShedReading) (p : PShed) : PShed :=
  let sf := failBits p.sfail r.floor
  let lf := failBits p.lfail r.loft
  let floor := ((goodReadings sf r.floor).max?).getD p.tfloor
  let loft := match (goodReadings lf r.loft).max? with
    | some t => t
    | none => if lf = 7 then floor else p.tloft
  { p with sfail := sf, lfail := lf, tfloor := floor, tloft := loft }

/-- A shed whose Floor sensors have all failed (R367): a failed unit, with its thermal limit held at 4/16. -/
def sensorless (s : State) (n : PShedNo) : State :=
  if (s.pshed n).sfail = 15 then modPShed (failUnit s (.shed n) 2) n fun p => p.limited 4 else s

/-- Entry into and exit from thermal hold (R370, R371). -/
def holdStep (s : State) (n : Nat) : State :=
  let p := s.pshed n
  if (logicalShed s n).isNone then s
  else if !p.hold ∧ ((s.thm.hold : Int) ≤ p.tfloor ∨ (s.thm.hold : Int) ≤ p.tloft) then
    let s := record (modPShed s n fun p => { p with hold := true }) 19 .device
    if (runningPlace s).isSome then { s with sec := { s.sec with held := true } } else s
  else if p.hold ∧ p.tfloor ≤ (s.thm.release : Int) ∧ p.tloft ≤ (s.thm.release : Int) then
    let lim := if p.sfail = 15 then 4 else 8
    fixHeld (modPShed s n fun p => { (p.limited lim) with hold := false, waking := p.waking || p.parked, parked := false })
  else s

/-- One shed's readings are taken. -/
def sampleShed (s : State) (r : ShedReading) : State :=
  let old := s.pshed r.shed
  let s := modPShed s r.shed (PShed.sampled r)
  let new := s.pshed r.shed
  let failed := popCount 4 new.sfail + popCount 3 new.lfail - popCount 4 old.sfail - popCount 3 old.lfail
  let s := { s with thm := { s.thm with sensfail := satAdd 16 s.thm.sensfail failed } }
  let s := if old.sfail ≠ 15 then sensorless s r.shed else s
  holdStep s r.shed

/-- The highest Floor or loft reading of one shed in a sample, from sensors that have not failed. -/
def peakOf (s : State) (r : ShedReading) : Option Int :=
  let p := s.pshed r.shed
  (goodReadings p.sfail r.floor ++ goodReadings p.lfail r.loft).max?

/-- The highest reading of a sample and its shed, the first on a tie. -/
def hottest (s : State) (rs : List ShedReading) : Option (Int × Nat) :=
  rs.foldl (fun best r =>
    match peakOf s r, best with
    | none, b => b
    | some t, none => some (t, r.shed.val)
    | some t, some b => if b.1 < t then some (t, r.shed.val) else some b) none

/-- Thermal cycles (R424): TMAX falls 30 K below a peak that lay 30 K or more above the minimum before it. -/
def GrmBlock.cycle (t : Int) (g : GrmBlock) : GrmBlock :=
  let peak := max g.tcPeak t
  if g.tcMin + 30 ≤ peak ∧ t ≤ peak - 30 then { g with tcNew := g.tcNew + 1, tcPeak := t, tcMin := t }
  else if t < g.tcMin ∧ peak < g.tcMin + 30 then { g with tcPeak := t, tcMin := t }
  else { g with tcPeak := peak }

/-- THM.STATUS of a sample (R378). The logical shed of a reading in a shed that presents none is a free value. -/
def setPeak (s : State) (t : Int) (n : Nat) : State :=
  let (k, s) := match logicalShed s n with
    | some k => (k % 64, s)
    | none => let (ev, s) := takeFresh s; (Config.pick ev % 64, s)
  { s with thm := { s.thm with tmax := min 255 t.toNat, tyard := n / 72, tshed := k }, grm := s.grm.cycle (min 255 t.toNat) }

/-! Supply faults (R374-R376). -/

/-- A stall that has lost everything but what stands at its ejection inputs. -/
def Stall.powerless (t : Stall) : Stall := { Stall.atReset with qu := { QueueUnit.empty with ej := t.qu.ej } }

/-- The physical sheds of a yard. -/
def pshedsOfYard (y : Nat) : List Nat := (List.range 72).map (fun i => y * 72 + i)

/-- The stalls of a yard. -/
def stallsOfYard (y : Nat) : List Nat := (shedsOfYard y).flatMap (fun k => (List.range 256).map (sidOf k))

/-- The remap engine drops what concerns a yard without power (R376). -/
def dropRemaps (s : State) (y : Nat) : State :=
  let run := match s.rm.running with | some r => if r.yard = y then none else some r | none => none
  { s with rm := { s.rm with faults := s.rm.faults.filter (fun u => decide (failYard u ≠ y)), running := run } }

/-- Steps 2 to 4 of R374: the yard's sheds are ABSENT and lose all they held; the device is DEGRADED. -/
def coreLost (s : State) (y : Nat) : State :=
  let s := { s with sheds := gmodKeys s.sheds (shedsOfYard y) (fun _ h => { h with absent := true }),
                    psheds := gmodKeys s.psheds (pshedsOfYard y) (fun _ p =>
                      { p with parked := false, hold := false, waking := false, wakeReq := false, openLatched := false, proposed := 0,
                               vetoed := false, bduty := 0 }),
                    stalls := gmodKeys s.stalls (stallsOfYard y) (fun _ t => t.powerless),
                    sec := { s.sec with lastsec := 0 } }
  let s := modYard s y fun r => { r with core := false }
  let s := fixHeld (dropRemaps s y)
  let s := if s.dev.st = 3 ∨ s.dev.st = 4 then { s with dev := { s.dev with st := 5 } } else s
  releaseStart s

/-- SUPPLY_TRIP of a yard with its journal record, and the abort request (R374, R375, R417). -/
def supplyTrip (s : State) (y : Nat) (cause : Nat) : State := hwAbort (journal (record s 18 (.yard y)) 11 [1, y, cause]) 5

/-- A core rail trips (R374). -/
def coreTrip (s : State) (y cause : Nat) : State :=
  let s := modYard s y fun r => { r with coretrip := true, tcause := cause }
  coreLost (supplyTrip s y cause) y

/-- CORE_RAIL_TRIP (R374): a live core rail shorts. -/
def execCoreRailTrip (yard : YardId) (s : State) : Host.Outcome State Fault Refusal :=
  .next (if (s.yard yard).core then coreTrip s yard 1 else s)

/-- A message still has flits on this side of a yard on its path, or in it. -/
def TrackMsg.crosses (m : TrackMsg) (y : Nat) : Bool :=
  (List.range m.path.length).any (fun q =>
    match m.path[q]? with
    | some h => decide (yardOf h.router = y) && decide (m.pos.getLastD 0 ≤ q)
    | none => false)

/-- The yards that count a message: those it has entered and its last flit has not left (R165). -/
def TrackMsg.countedIn (m : TrackMsg) : List Nat :=
  (m.path.drop (m.pos.getLastD 0)).foldl
    (fun ys h => if ys.getLast? = some (yardOf h.router) then ys else ys ++ [yardOf h.router]) []

/-- A message caught by a dead yard is discarded whole, and leaves every count it is in (R375 step 4). -/
def discardCaught (s : State) (m : TrackMsg) : State :=
  let s := m.countedIn.foldl (fun s y => countOut s m.packet y) { s with track := s.track.filter (fun x => decide (x.id ≠ m.id)) }
  modQu s m.packet.dest fun u =>
    { u with ej := gmapAll u.ej (fun l => l.filter (fun i => decide (i ≠ m.id))),
             pen := u.pen.filter (fun e => decide (e.id ≠ m.id) || e.landed),
             landing := gmapAll u.landing (fun l => match l with
               | some (.queue i q) => if i = m.id then none else some (.queue i q)
               | some (.slot i c) => if i = m.id then none else some (.slot i c)
               | none => none) }

/-- The track rail of a yard is off: what its routers and the seams into it hold is discarded (R375). -/
def trackLost (s : State) (y : Nat) : State :=
  let s := (s.track.filter (fun m => m.crosses y)).foldl discardCaught s
  modYard s y fun r => { r with cnt0 := 0, cnt1 := 0, lwcnt := 0 }

/-- A track rail trips (R375). A core rail that is already off is not switched off again. -/
def trackTrip (s : State) (y : Nat) : State :=
  let s := modYard s y fun r => { r with tracktrip := true, tcause := 1, track := false }
  let s := trackLost (supplyTrip s y 1) y
  if (s.yard y).core then coreLost s y else { s with sheds := gmodKeys s.sheds (shedsOfYard y) (fun _ h => { h with absent := true }) }

/-- TRACK_RAIL_TRIP (R375): a live track rail shorts. -/
def execTrackRailTrip (yard : YardId) (s : State) : Host.Outcome State Fault Refusal :=
  .next (if (s.yard yard).track then trackTrip s yard else s)

/-- A yard supply's reading (R373). -/
def sampleSupply (s : State) (r : YardId × Int) : State :=
  let s := modYard s r.1 fun y =>
    { y with vrmt := min 255 r.2.toNat, hot := if 115 ≤ r.2 then true else if r.2 < 110 then false else y.hot }
  if 125 ≤ r.2 ∧ (s.yard r.1).core then coreTrip s r.1 2 else s

/-! The trip (R372). -/

/-- Every shed of the device is taken to D4 (R355, R372). -/
def allToD4 (s : State) : State :=
  let ev := s.fresh
  { s with fresh := ev + 2 ^ 26,
           psheds := gmapAll s.psheds (fun p => { p with depth := 4, waking := false, vetoed := false, bduty := 0 }),
           stalls := gmapAll s.stalls (fun t => { (t.lose ev) with mem := { t.mem with manger := [] } }),
           sec := { s.sec with lastsec := 0 } }

/-- A thermal trip (R372), with its record, its journal entry (R417) and the abort request. -/
def thermTrip (s : State) (t : Int) : State :=
  let s := record { s with thm := { s.thm with tripped := true } } 20 .device
  let s := hwAbort (journal s 11 [0, t.toNat, s.thm.tyard, s.thm.tshed]) 6
  let s := allToD4 (dropBallast s)
  { s with pwr := { s.pwr with veto := false } }

/-- Every core rail is switched off and the device is HALTED; the ports leave UP (R372, R445). -/
def tripRails (s : State) : State :=
  let s := { s with yards := gmapAll s.yards (fun y => { y with core := false }),
                    stalls := gmapAll s.stalls Stall.powerless,
                    dev := { s.dev with st := 6, hcause := 1, busy := false, runStep := 0 },
                    thm := { s.thm with railsOff := true } }
  (List.range 144).foldl (fun s p => takeDrop p s) s

/-- TRIP_RAIL_OFF (R372): 10 ms have passed since the trip. -/
def execTripRailOff (s : State) : Host.Outcome State Fault Refusal :=
  .next (if s.thm.tripped ∧ !s.thm.railsOff then tripRails s else s)

/-- SENSOR_SAMPLE (R367, R370-R373, R378): the supplies act first, so that ACAUSE is 5 when both trip (R376). -/
def execSensorSample (sheds : List ShedReading) (supplies : List (YardId × Int)) (s : State) : Host.Outcome State Fault Refusal :=
  if sheds.any (fun r => decide (r.floor.length ≠ 4 ∨ r.loft.length ≠ 3)) then .fault .malformedCommand
  else .next (
    let s := supplies.foldl sampleSupply s
    let s := sheds.foldl sampleShed s
    match hottest s sheds with
    | none => s
    | some (t, n) =>
      let s := setPeak s t n
      let s := if 110 ≤ t ∧ !s.thm.tripped then thermTrip s t else s
      if 115 ≤ t ∧ !s.thm.railsOff then tripRails s else s)

/-- THROTTLE_STEP (R369): 100 us above, or 1 ms below, the band (log 3). -/
def execThrottleStep (yard : YardId) (shed : ShedNo) (up : Bool) (s : State) : Host.Outcome State Fault Refusal :=
  .next (
    let n := pshedOf s (shedKey yard shed)
    let p := s.pshed n
    let thr : Int := s.thm.throttle
    if p.sfail = 15 then s
    else if up then (if p.tfloor < thr - 3 ∧ p.tloft < 92 then modPShed s n fun p => p.limited (min 16 (p.tlim + 1)) else s)
    else if thr ≤ p.tfloor ∨ 95 ≤ p.tloft then modPShed s n fun p => p.limited (max 1 (p.tlim - 1)) else s)

end Sys2Proof.Machine
end

