-- ==== Sys2Proof/Machine/Remap.lean ====
section
/-! DEFINITION. The remap engine (R21-R24), the lunge engine (R402, R403, R409), probation after lunges (R427) and aging (R429, R430). -/

namespace Sys2Proof.Machine

/-! What a fault changes (R21, R24). -/

/-- What the handling of one or more faults does: changes of the remap, logical stalls that move, and those whose racks are reloaded. -/
structure Plan where
  edits  : List RemapEdit
  moved  : List Nat
  stalls : List Nat
  deriving DecidableEq, Repr

/-- One change of the remap. -/
def applyEdit (s : State) : RemapEdit → State
  | .stallRow n row col => modPShed s n fun p => { p with rcol := gset p.rcol row col }
  | .shedRow y row col =>
    modPShed (modYard s y fun r => { r with rcol := gset r.rcol row col }) (y * 72 + row * 9 + col) fun p => { p with unusable := true, live := false }
  | .lame y row =>
    let s := modYard s y fun r => { r with lame := true, exh := r.exh ||| 2 ^ row }
    { s with sheds := gmodKeys s.sheds (shedsOfYard y) (fun _ h => { h with absent := true }) }

/-- The stalls of a logical shed. -/
def stallsOfShed (k : Nat) : List Nat := (List.range 256).map (sidOf k)

/-- Steps 2 and 3 of R21 for a physical shed, and R24 for an unused spare shed. -/
def planShed (s : State) (n : Nat) : Plan :=
  let y := n / 72; let row := n % 72 / 9; let col := n % 9
  let rcol := gget (s.yard y).rcol row
  if col = rcol then ⟨[], [], []⟩
  else
    match logicalShed s n with
    | none => ⟨[.shedRow y row col], [], []⟩
    | some _ =>
      if rcol = 15 then
        let moved := ((List.range 8).filter (fun l => decide (col ≤ l))).flatMap (fun l => stallsOfShed (y * 64 + row * 8 + l))
        ⟨[.shedRow y row col], moved, moved⟩
      else ⟨[.lame y row], [], []⟩

/-- R21 and R24 for a unit, under the remap of `s`. -/
def planUnit (s : State) (u : FailUnit) : Plan :=
  match u with
  | .shed n => planShed s n
  | .stall p =>
    let n := pshedOfPhys p; let row := prowOf p; let col := pcolOf p
    let rcol := gget (s.pshed n).rcol row
    if unitRetired s u then ⟨[], [], []⟩
    else if rcol ≠ 31 then planShed s n
    else
      match logicalShed s n with
      | none => ⟨[.stallRow n row col], [], []⟩
      | some k =>
        if col = 16 then ⟨[.stallRow n row col], [], []⟩
        else ⟨[.stallRow n row col], ((List.range 16).filter (fun l => decide (col ≤ l))).map (fun l => sidOf k (row * 16 + l)), stallsOfShed k⟩

/-- The faults of a run are applied one after another, in order (R23). -/
def planAll (s : State) : List FailUnit → Plan
  | [] => ⟨[], [], []⟩
  | u :: us =>
    let a := planUnit s u
    let b := planAll (a.edits.foldl applyEdit s) us
    ⟨a.edits ++ b.edits, a.moved ++ b.moved, a.stalls ++ b.stalls⟩

/-- The logical stalls whose loft data the failed unit held (R22). -/
def heldBy (s : State) : FailUnit → List Nat
  | .stall p => (logicalStall s p).toList
  | .shed n => match logicalShed s n with | some k => stallsOfShed k | none => []

/-- An edit that declares a yard lame. -/
def RemapEdit.isLame : RemapEdit → Bool
  | .stallRow _ _ _ => false
  | .shedRow _ _ _ => false
  | .lame _ _ => true

/-- A REMAP record (R417). -/
def journalEdit (s : State) : RemapEdit → State
  | .stallRow n row col => journal s 3 [0, n, row, col]
  | .shedRow y row col => journal s 3 [1, y, row, col]
  | .lame y row => journal s 3 [2, y, row, 0]

/-- The DEFECT record of a unit is committed: none of it waits (R24, R428). -/
def defectCommitted (s : State) (u : FailUnit) : Bool :=
  !s.grm.queue.any (fun r => decide (r.kind = 1) && decide (r.body.take 2 = unitCode u))

/-! Running (R22, R23). -/

/-- A remap may run now (R22, R239, R402). -/
def remapReady (s : State) (us : List FailUnit) : Bool :=
  let ys := us.map failYard
  (runningPlace s).isNone && !s.sec.openOut && s.lunge.running.isNone && us.all (defectCommitted s) &&
  ys.all (fun y => decide ((s.yard y).cnt0 = 0) && decide ((s.yard y).cnt1 = 0) && decide ((s.yard y).lwcnt = 0))

/-- The logical sheds of stalls. -/
def shedsOf (sids : List Nat) : List Nat := (sids.map shedOf).eraseDups

/-- VALID of the sheds a remap affects, and of its yard for a shed remap (R25, R27). -/
def setValid (s : State) (r : RemapRun) (v : Bool) : State :=
  let s := { s with sheds := gmodKeys s.sheds (shedsOf r.stalls) (fun _ h => { h with valid := v }) }
  if r.edits.any (fun e => match e with | .shedRow _ _ _ => true | _ => false) then modYard s r.yard fun y => { y with valid := v } else s

/-- The places when a remap that moves stalls begins (R209): RLDPEND, and an ARMED place or an arm under way goes back to LOADED. -/
def markReload (s : State) (stalls : List Nat) : State :=
  if stalls.isEmpty then s
  else
    let s := match armedPlace s with | some p => disarmPlace s p | none => s
    { s with sec := { s.sec with arming := none, auto := if s.sec.arming.isSome then false else s.sec.auto,
                                 places := gmapAll s.sec.places (fun q =>
                                   if q.st = 0 then q else { q with rld := true, rldFor := q.rldFor ++ stalls.filter (fun i => !q.rldFor.contains i) }) } }

/-- REMAP_RUN (R22): the fault at the head, or the faults that a restart applies together, are handled. -/
def execRemapRun (s : State) : Host.Outcome State Fault Refusal :=
  .next (
    let us := s.rm.faults.take s.rm.batch
    if s.rm.running.isSome || us.isEmpty || !remapReady s us then s
    else
      let p := planAll s us
      let lost := if p.edits.any RemapEdit.isLame then [] else us.flatMap (heldBy s)
      let r : RemapRun := ⟨us, failYard (us.headD (.stall 0)), p.edits, p.moved, p.stalls, lost⟩
      let s := { s with rm := ⟨s.rm.faults.drop s.rm.batch, 1, some r⟩ }
      setValid (markReload (p.edits.foldl journalEdit s) p.stalls) r false)

/-- The running remap reads or writes a unit (R23): the row of a stall remap, the sheds from the retired one eastward of a shed remap. -/
def RemapRun.touches (r : RemapRun) (u : FailUnit) : Bool :=
  let n := match u with | .stall p => pshedOfPhys p | .shed n => n.val
  r.edits.any (fun e => match e with
    | .stallRow m row _ => decide (n = m) && (match u with | .stall p => decide (prowOf p = row) | .shed _ => true)
    | .shedRow y row col => decide (n / 9 = y * 8 + row) && decide (col ≤ n % 9)
    | .lame _ _ => false)

/-- The running remap is abandoned, to be restarted together with another fault (R23). -/
def restartWith (s : State) (r : RemapRun) (u : FailUnit) : State :=
  let rest := s.rm.faults.filter (fun v => decide (v ≠ u))
  let s := { s with rm := ⟨r.units ++ u :: rest, r.units.length + 1, none⟩,
                    grm := { s.grm with retireWait := s.grm.retireWait.filter (fun v => decide (v ≠ u)) } }
  setValid s r true

/-- REMAP_FAULT (R21, R23, R24): a unit failure reaches the remap engine. -/
def execRemapFault (u : FailUnit) (s : State) : Host.Outcome State Fault Refusal :=
  .next (
    let s' := failUnit s u 2
    match s'.rm.running with
    | some r => if !failKnown s u && failKnown s' u && r.touches u then restartWith s' r u else s'
    | none => s')

/-- A logical stall that has moved: everything but its lofts is gone (R22, R486). -/
def Stall.carried (ev : Nat) (t : Stall) : Stall := { (t.lose ev) with mem := { t.mem with manger := [] } }

/-- The keys of the data blocks of the lofts: 32 * SPACE + block (R233). -/
def dataBlocks : List Nat := (List.range 80).map (· + 32)

/-- Loft data that is no longer trusted: its blocks are invalid and their contents undefined (R22, R486). -/
def StallMem.distrust (ev : Nat) (m : StallMem) : StallMem :=
  { (invalidate m dataBlocks) with undef := gmodKeys m.undef dataBlocks (fun _ _ => some ev) }

/-- PSCOL of every logical shed follows the yard's shed map (R25, R28). -/
def fixPscol (s : State) (y : Nat) : State :=
  { s with sheds := gmodKeys s.sheds (shedsOfYard y) (fun k h => { h with pscol := pshedOf s k % 9 }) }

/-- A physical shed that comes into use wakes from the depth of an unused spare. -/
def wakeSpares (s : State) : RemapEdit → State
  | .shedRow y row _ => modPShed s (y * 72 + row * 9 + 8) fun p => { p with live := true, depth := 4, proposed := 4 }
  | _ => s

/-- The changes of a remap take effect (R21, R22). -/
def applyRun (s : State) (r : RemapRun) : State :=
  let (ev, s) := takeFresh s
  let s := r.edits.foldl (fun s e => applyEdit (wakeSpares s e) e) s
  let s := { s with stalls := gmodKeys s.stalls r.moved (fun _ t => t.carried ev) }
  let s := { s with stalls := gmodKeys s.stalls r.lost (fun _ t => { t with mem := t.mem.distrust ev }) }
  let s := if r.moved.isEmpty then s else { s with sec := { s.sec with lastsec := 0 } }
  fixPscol (setValid s r true) r.yard

/-- READY and RUNNING give way to DEGRADED (R404, R444). -/
def degrade (s : State) : State := if s.dev.st = 3 ∨ s.dev.st = 4 then { s with dev := { s.dev with st := 5 } } else s

/-- REMAP_COMPLETE (R22): the remap ends, and a held start goes on or is refused (R219). -/
def execRemapComplete (s : State) : Host.Outcome State Fault Refusal :=
  .next (match s.rm.running with
    | none => s
    | some r =>
      let s := applyRun { s with rm := { s.rm with running := none } } r
      let s := if r.edits.any RemapEdit.isLame then fixHeld (degrade s) else s
      releaseStart s)

/-- SPARE_RETIREMENT (R24): a failing unused spare becomes its row's retired column once its record is committed. A spare that a remap has
put to use in the meantime falls under R21. -/
def execSpareRetirement (u : FailUnit) (s : State) : Host.Outcome State Fault Refusal :=
  .next (
    if !s.grm.retireWait.contains u || !defectCommitted s u then s
    else
      let s := { s with grm := { s.grm with retireWait := s.grm.retireWait.filter (fun v => decide (v ≠ u)) } }
      if unitInUse s u then { s with rm := { s.rm with faults := s.rm.faults ++ [u] } }
      else
        let es := (planUnit s u).edits
        es.foldl applyEdit (es.foldl journalEdit s))

/-! Aging (R429, R430). -/

/-- A straight line through points, by least squares, at time `t`: n * D times its value, and n * D, where D is n times the sum of squares of
the times less the square of their sum. -/
def lineAt (pts : List (Int × Int)) (t : Int) : Int × Int :=
  let n : Int := pts.length
  let sx := (pts.map (·.1)).foldl (· + ·) 0
  let sy := (pts.map (·.2)).foldl (· + ·) 0
  let sxx := (pts.map (fun p => p.1 * p.1)).foldl (· + ·) 0
  let sxy := (pts.map (fun p => p.1 * p.2)).foldl (· + ·) 0
  let d := n * sxx - sx * sx
  (d * sy + (n * sxy - sx * sy) * (n * t - sx), n * d)

/-- 90 days in ns. -/
def ninetyDays : Int := 90 * 86400 * 1000000000

/-- The samples flag a shed for predictive retirement (R430). The first sample stands for the factory values (log 27). -/
def agingFlag (samples : List (Nat × Nat × Nat)) : Bool :=
  match samples, samples.getLast? with
  | f :: _, some l =>
    let roLow := fun (v d : Int) => decide (100 * v ≤ 95 * (f.2.1 : Int) * d)
    let vHigh := fun (v d : Int) => decide (((f.2.2 : Int) + 30) * d ≤ v)
    let pts := samples.drop (samples.length - 8)
    let t : Int := l.1 + ninetyDays
    let a := lineAt (pts.map (fun p => ((p.1 : Int), (p.2.1 : Int)))) t
    let b := lineAt (pts.map (fun p => ((p.1 : Int), (p.2.2 : Int)))) t
    roLow l.2.1 1 || vHigh l.2.2 1 ||
    (decide (8 ≤ samples.length) && decide (0 < a.2) && (roLow a.1 a.2 || vHigh b.1 b.2))
  | _, _ => false

/-- The Groom measures the ring oscillator and Vmin of a physical shed (R429), and acts on the flag of R430. Where the
PREDICT notice's data lies, their length and the doorbell bit are free values (log 28). -/
def measureAging (s : State) (n ro vmin : Nat) : State :=
  let s := journal s 4 [n, ro, vmin, (s.pshed n).tfloor.toNat]
  let s := modPShed s n fun p => { p with aging := p.aging ++ [(s.dev.wall, ro, vmin)] }
  if !agingFlag (s.pshed n).aging then s
  else
    let (ev, s) := takeFresh { s with grm := { s.grm with predict := true } }
    let s := groomPost s 9 (Config.pick ev % 2 ^ 29) (Config.pick (ev + 1)) 0x15 (Config.pick (ev + 2) % 32)
    let s := { s with fresh := s.fresh + 2 }
    if s.grm.predret && decide (gget (s.yard (n / 72)).rcol (n % 72 / 9) = 15) && (logicalShed s n).isSome then
      (if h : n < 4608 then failUnit s (.shed ⟨n, h⟩) 3 else s)
    else s

/-! Lunges (R402, R403, R409). -/

/-- A lunge on a shed may start (R402). -/
def lungeShedOk (s : State) (k : Nat) : Bool :=
  let p := s.pshed (pshedOf s k)
  let busy := [4, 6, 3].any (fun st => match placeIn s [st] with | some q => anyBusy s q k | none => false)
  !busy && !shedAbsent s k && !p.hold && decide (p.tlim = 16)

/-- The results of a lunge are clear. -/
def ErrBlock.lungeClear (e : ErrBlock) (st : Nat) : ErrBlock :=
  { e with lstate := st, lstall := 0, lwhole := false, spscol := 0, spsrow := 0, spcol := 0, sprow := 0 }

/-- A write of ERR.LCTRL (R402, R409). -/
def writeLctrl (data : Nat) (s : State) : State :=
  let y := bitsOf data 5 0; let k := bitsOf data 11 6; let scope := bitsOf data 13 12
  let s := { s with err := { s.err with lyard := y, lshed := k, lscope := scope } }
  if !bitOf data 14 then s
  else if 2 ≤ scope || s.rm.running.isSome || s.lunge.running.isSome || yardOut s y || (decide (scope = 0) && !lungeShedOk s (shedKey y k)) then
    { s with err := { s.err with lrefused := true } }
  else
    let s := { s with lunge := ⟨some (y, k, scope), s.dev.wall⟩, err := s.err.lungeClear 1 }
    if scope = 0 then
      let n := pshedOf s (shedKey y k)
      modPShed (enterDepth s n 4) n fun p => { p with waking := false, wakeReq := false }
    else s

/-- LUNGE_START (R402): the write of ERR.LCTRL. -/
def execLungeStart (o : Origin) (data : Word64) (s : State) : Host.Outcome State Fault Refusal := .next (asHostler o s (writeLctrl data.toNat))

/-- A unit lies in a physical shed. -/
def unitIn (n : Nat) : FailUnit → Bool
  | .stall p => decide (pshedOfPhys p = n)
  | .shed m => decide (m.val = n)

/-- A PROBATION record (R417): 0 enter, 1 re-test pass, 2 re-test fail, 3 leave. -/
def journalProb (s : State) (u : FailUnit) (event : Nat) : State := journal s 2 (unitCode u ++ [event, s.dev.wall])

/-- A re-test passes (R427): it counts when it started 6 hours after the last counted one; eight consecutive ones over 72 hours end probation. -/
def probationPass (s : State) (b : Probation) : State :=
  let t := s.lunge.start
  if b.passes.getLast?.any (fun l => decide (t < l + 6 * 3600 * 10 ^ 9)) then s
  else
    let passes := (b.passes ++ [t]).drop (b.passes.length - 7)
    let s := journal s 2 (unitCode b.unit ++ [1, t])
    if 8 ≤ passes.length ∧ passes.headD 0 + 72 * 3600 * 10 ^ 9 ≤ t then journalProb s b.unit 3 else s

/-- A re-test fails, or a unit on probation is named again (R427): the unit becomes an acquired defect. -/
def probationFail (s : State) (u : FailUnit) (source : Nat) : State := failUnit (journalProb s u 2) u source

/-- What a failing lunge found (R409). -/
def lungeUnit (s : State) (y k scope : Nat) (r : LungeResult) : Option FailUnit :=
  let asShed := fun (n : Nat) => if h : n < 4608 then some (FailUnit.shed ⟨n, h⟩) else none
  let asStall := fun (p : Nat) => if h : p < 1253376 then some (FailUnit.stall ⟨p, h⟩) else none
  if scope = 0 then
    if r.whole then asShed (pshedOf s (shedKey y k)) else asStall (physStall s (sidOf (shedKey y k) r.stall))
  else
    let n := y * 72 + r.spsrow * 9 + r.spscol
    if r.spscol = 8 ∧ r.whole then asShed n
    else asStall (physOf n r.sprow (if r.spscol < 8 then 16 else r.spcol))

/-- ERR.LSTAT at the end of a lunge (R409). -/
def ErrBlock.lungeDone (e : ErrBlock) (scope : Nat) (r : LungeResult) : ErrBlock :=
  if !r.failed then e.lungeClear 2
  else if scope = 0 then { (e.lungeClear 3) with lwhole := r.whole, lstall := if r.whole then 0 else r.stall.val }
  else
    let whole := r.whole && decide (r.spscol.val = 8)
    { (e.lungeClear 3) with lwhole := whole, spscol := r.spscol, spsrow := r.spsrow,
                            spcol := if whole then 0 else if r.spscol.val < 8 then 16 else r.spcol.val, sprow := if whole then 0 else r.sprow.val }

/-- LUNGE_COMPLETE (R402, R403, R427, R429): the result is reported and journalled, the unit found is retired, and the shed wakes. -/
def execLungeComplete (r : LungeResult) (s : State) : Host.Outcome State Fault Refusal :=
  .next (match s.lunge.running with
    | none => s
    | some (y, k, scope) =>
      let n := pshedOf s (shedKey y k)
      let bad := if r.failed then lungeUnit s y k scope r else none
      let s := { s with lunge := { s.lunge with running := none }, err := s.err.lungeDone scope r }
      let s := journal s 7 ([y, k, scope, b2n r.failed] ++ (match bad with | some u => unitCode u | none => []) ++ [s.grm.lungeArb])
      let tested := if scope = 0 then s.grm.prob.filter (fun b => unitIn n b.unit) else []
      let s := tested.foldl (fun s b => if bad = some b.unit then probationFail s b.unit 1 else if r.failed then s else probationPass s b) s
      let s := match bad with | some u => failUnit s u 1 | none => s
      if scope = 0 then measureAging (modPShed s n PShed.beginWake) n r.roKhz r.vminMv else s)

end Sys2Proof.Machine
end

