-- ==== Sys2Proof/Machine/Studbook.lean ====
section
/-! DEFINITION. The studbook (R411-R425), anti-rollback (R435), measurements (R436) and the Groom services (R401, R427, R434, R437,
R438). -/

namespace Sys2Proof.Machine

/-! Records (R416-R419). -/

/-- A record is of priority L (R417). -/
def deferrable (kind : Nat) : Bool := decide (kind = 4 ∨ kind = 5 ∨ kind = 6 ∨ kind = 8)

/-- The body of a record, filled with zeros to a multiple of 16 and cut at the longest record. -/
def SbRec.bodyBytes (r : SbRec) : List Byte :=
  let b := Config.recordBody r.kind r.body
  padTo (min (16 * ceilDiv b.length 16) 65488) b

/-- A record as it stands in a copy (R416). -/
def SbRec.bytes (r : SbRec) : List Byte :=
  let b := r.bodyBytes
  let front := leBytes 4 0x5B7DB00C ++ leBytes 2 r.kind ++ leBytes 2 (b2n r.snap + 2 * b2n r.last) ++ leBytes 4 (b.length + 48) ++
    leBytes 4 r.boots ++ leBytes 8 r.seq ++ leBytes 8 r.wall ++ b
  front ++ leBytes 4 (crc32 front) ++ leBytes 12 0

/-- LEN of a record (R416). -/
def SbRec.len (r : SbRec) : Nat := r.bodyBytes.length + 48

/-- The unit that a record's body names. -/
def unitOf : List Nat → Option FailUnit
  | 0 :: p :: _ => if h : p < 1253376 then some (.stall ⟨p, h⟩) else none
  | 1 :: n :: _ => if h : n < 4608 then some (.shed ⟨n, h⟩) else none
  | _ => none

/-- A PROBATION record takes effect (R427). -/
def probEffect (ps : List Probation) (u : FailUnit) (event time : Nat) : List Probation :=
  if event = 0 then (if ps.any (fun b => decide (b.unit = u)) then ps else ps ++ [⟨u, []⟩])
  else if event = 1 then
    ps.map (fun b => if b.unit = u then { b with passes := (b.passes ++ [time]).drop (b.passes.length - 7) } else b)
  else ps.filter (fun b => decide (b.unit ≠ u))

/-- What the state that the studbook holds becomes when a record is committed (R420, R426, R427, R434, R435, R401). -/
def GrmBlock.effect (g : GrmBlock) (r : SbRec) : GrmBlock :=
  match r.kind, r.body with
  | 1, b => match unitOf b with | some u => { g with acquired := if g.acquired.contains u then g.acquired else g.acquired ++ [u] } | none => g
  | 2, [l, i, event, time] => match unitOf [l, i] with | some u => { g with prob := probEffect g.prob u event time } | none => g
  | 9, [op, index, admin, img, seq, key] =>
    let k : OpKey := if op = 1 then ⟨1, decide (admin = 1), decide (img = 1), leBytes 2592 key⟩ else { gget g.keys index with st := 2 }
    { g with keys := gset g.keys index k, regseq := seq }
  | 10, [kind, level] => { g with pendArb := gmod g.pendArb kind (fun m => max m level) }
  | 11, [2] => { g with fuseConflicts := g.fuseConflicts + 1 }
  | 12, [_, digest, arb] => { g with mlunge := digest, lungeArb := arb }
  | _, _ => g

/-- The state that the studbook holds, rebuilt from its committed records (R420 step 4). -/
def GrmBlock.rebuild (g : GrmBlock) (rs : List SbRec) : GrmBlock :=
  rs.foldl GrmBlock.effect
    { g with recs := rs, seq := (rs.getLast?.map (·.seq)).getD 0, acquired := [], prob := [], keys := gconst ⟨0, false, false, []⟩, regseq := 0,
             pendArb := gconst 0, fuseConflicts := 0, mlunge := 0, lungeArb := 0 }

/-- STUDBOOK_REPAIR is recorded (R425, R391). -/
def studbookRepair (s : State) : State :=
  journal (record { s with grm := { s.grm with repair := true } } 22 .device) 11 [3]

/-! Anti-rollback (R435). -/

/-- Levels of a thermometer (R412). -/
def arbMax (kind : Nat) : Nat := if kind ≤ 2 then 512 else 256
/-- The effective level max(F, M) of an image kind. -/
def arbLevel (s : State) (kind : Nat) : Nat := max (gget s.fuses.arb kind) (gget s.grm.pendArb kind)
/-- M is raised by an ARB record when an image's level lies above it. -/
def raiseArb (s : State) (kind level : Nat) : State := if gget s.grm.pendArb kind < level then journal s 10 [kind, level] else s

/-- The pending bits of every thermometer are blown (R435, R446). -/
def blowArb (s : State) : State :=
  { s with fuses := { s.fuses with arb := gmodKeys s.fuses.arb [1, 2, 3, 4] (fun k f => min (arbMax k) (max f (gget s.grm.pendArb k))) } }

/-- An image is accepted (R322, R433, R435): its signature and digest verify, its key is Gulune's or an active operator key that may sign
images of KIND 3 and 4, and its level is neither below the effective level nor past the thermometer's end. -/
def imageOk (s : State) (kind : Nat) (i : ImageCheck) : Bool :=
  let k := gget s.grm.keys i.keyId
  let keyed := decide (i.keyId = 0) || (decide (3 ≤ kind) && decide (1 ≤ i.keyId) && decide (i.keyId ≤ 16) && decide (k.st = 1) && k.img)
  decide (i.kind = kind) && i.sigOk && i.digOk && keyed && decide (arbLevel s kind ≤ i.arb) && decide (i.arb ≤ arbMax kind)

/-! Services (R438). -/

/-- Memory that a mailbox's pointers name (R329): mailbox 0 the Groom window, mailbox 8 Hostler memory. -/
def svcMem (s : State) (box : Nat) : Mem := if box = 0 then s.gwin else s.hmem
/-- Its size. -/
def svcSize (box : Nat) : Nat := if box = 0 then 0x10000 else 0x20000000
/-- Write bytes into it. -/
def svcWrite (s : State) (box a : Nat) (bs : List Byte) : State :=
  if box = 0 then { s with gwin := Memory.writeBytes s.gwin a bs } else { s with hmem := Memory.writeBytes s.hmem a bs }

/-- The Groom answers a request (R438). LEN of an answer that is no refusal, and the doorbell bit, are free values. -/
def svcAnswer (s : State) (box ptr typ : Nat) (ok : Bool) : State :=
  let (ev, s) := takeFresh s
  let (ev', s) := takeFresh s
  groomPost s (box + 1) ptr (if ok then Config.pick ev else 0) (if ok then typ else typ ||| 0x8000) (Config.pick ev' % 32)

/-- A service takes the request of its TYPE at the head of a mailbox (R438), with its pointer. The Groom serves once its recovery has ended,
one request at a time. -/
def serve (s : State) (box typ : Nat) (f : Nat → State → State) : State :=
  match (s.box box).queue.head? with
  | none => s
  | some (ptr, hi) =>
    if !s.grm.ready || s.grm.due.isSome || decide (bitsOf hi.toNat 47 32 ≠ typ) then s else f ptr.toNat (popBox box s)

/-- The answer follows the commit of a record (R438). -/
def owe (s : State) (box ptr typ kind : Nat) (body : List Nat) : State :=
  { (journal s kind body) with grm := { (journal s kind body).grm with due := some ⟨box, ptr, typ, kind, body⟩ } }

/-! Committing (R419, R422, R423). -/

/-- The first record that may be written: priority L waits while the budget does not allow it (R423). -/
def nextRecord (budget : Nat) : List SbRec → Option (SbRec × List SbRec)
  | [] => none
  | r :: rs =>
    if deferrable r.kind && decide (budget < r.len) then (nextRecord budget rs).map (fun p => (p.1, r :: p.2)) else some (r, rs)

/-- The deferred-record buffer holds 192 KiB; when it is full the oldest AGING and LANECHAR records go first (R411, R423). -/
def trimDeferred (rs : List SbRec) : List SbRec :=
  let size := ((rs.filter (fun r => deferrable r.kind)).map SbRec.len).foldl (· + ·) 0
  if size ≤ 196608 then rs
  else
    match rs.find? (fun r => decide (r.kind = 4 ∨ r.kind = 6)) with
    | some r => rs.erase r
    | none => match rs.find? (fun r => deferrable r.kind) with | some r => rs.erase r | none => rs

/-- A record is committed (R419): it joins the journal in the copy that did not hold the head, and what it records takes effect. -/
def commitRecord (s : State) (r : SbRec) (rest : List SbRec) : State :=
  let r := { r with seq := s.grm.seq + 1, boots := s.grm.boots, wall := s.dev.wall }
  let g := s.grm.effect r
  { s with grm := { g with recs := g.recs ++ [r], seq := r.seq, queue := rest, copyB := if g.onecopy then g.copyB else !g.copyB,
                           wrkib := g.wrkib + ceilDiv r.len 1024, budget := g.budget - r.len } }

/-- The answer owed for a record goes out once it is committed, and a committed lunge set raises its level (R435, R438). -/
def afterCommit (s : State) (r : SbRec) : State :=
  let s := match r.kind, r.body with | 12, [_, _, arb] => raiseArb s 3 arb | _, _ => s
  match s.grm.due with
  | some d => if d.kind = r.kind ∧ d.body = r.body then svcAnswer { s with grm := { s.grm with due := none } } d.box d.ptr d.typ true else s
  | none => s

/-- The next record is committed, if any may be. -/
def commitNext (s : State) : State :=
  match nextRecord s.grm.budget s.grm.queue with
  | none => { s with grm := { s.grm with throttled := !s.grm.queue.isEmpty, queue := trimDeferred s.grm.queue } }
  | some (r, rest) =>
    let s := afterCommit (commitRecord s r rest) r
    { s with grm := { s.grm with throttled := s.grm.queue.any (fun r => deferrable r.kind && decide (s.grm.budget < r.len)) } }

/-- Every record that may be written is committed. -/
def commitAll (s : State) : State := (List.range s.grm.queue.length).foldl (fun s _ => commitNext s) s

/-- STUDBOOK_COMMIT (R419, R422, R425). After four failed programmings the sector is bad. -/
def execStudbookCommit (r : CommitResult) (s : State) : Host.Outcome State Fault Refusal :=
  .next (
    if !s.grm.ready then s
    else
      let s := if 4 ≤ r.failures then studbookRepair { s with grm := { s.grm with badsect := s.grm.badsect + 1 } } else s
      let s := if r.copyBad ∧ !s.grm.onecopy then studbookRepair { s with grm := { s.grm with onecopy := true } } else s
      commitNext s)

/-- Lifetime energy in kWh (R424). -/
def GrmBlock.kwh (g : GrmBlock) : Nat := g.energy / 3600000000

/-- LIFE_UPDATE (R424): every 60 s the counters take in what has passed; every hour a LIFE record is journalled and the hour's count of
KiB starts again. The write budget of 24 MiB an hour refills up to its burst of 64 MiB (R423, log 29). -/
def execLifeUpdate (hours : Nat) (hourly : Bool) (s : State) : Host.Outcome State Fault Refusal :=
  .next (
    let g := s.grm
    let g := { g with poh := g.poh + hours, tcyc := g.tcyc + g.tcNew, tcNew := 0, energy := g.energy + (s.pwr.mj - g.mjSeen), mjSeen := s.pwr.mj,
                      budget := min (2 ^ 26) (g.budget + 419430) }
    let s := { s with grm := g }
    if hourly then journal { s with grm := { g with wrkib := 0 } } 5 [g.poh, g.tcyc, g.kwh] else s)

/-! ATTEST (R437). -/

/-- The summary of an attestation report. -/
def reportSummary (s : State) : List Byte :=
  let units := s.grm.bad ++ s.grm.acquired.filter (fun u => !s.grm.bad.contains u)
  let sheds := (units.filter (fun u => match u with | .shed _ => true | .stall _ => false)).length
  let lame := ((List.range 64).filter (fun y => (s.yard y).lame)).foldl (fun v y => v + 2 ^ y) 0
  leBytes 8 s.grm.seq ++ leBytes 4 s.grm.poh ++ leBytes 4 s.grm.tcyc ++ leBytes 8 s.grm.kwh ++ leBytes 4 (units.length - sheds) ++
  leBytes 4 sheds ++ leBytes 4 s.grm.prob.length ++ leBytes 4 s.grm.fuseConflicts ++ leBytes 8 lame

/-- One place of an attestation report. -/
def reportPlace (q : Place) : List Byte :=
  leBytes 8 q.secid.toNat ++ leBytes 1 q.st ++ leBytes 1 q.gen ++ leBytes 1 (q.ranGen.getD 255) ++ leBytes 5 0 ++ leBytes 64 q.digest

/-- The registry as numbers, for REGDIG. -/
def registry (s : State) : List Nat :=
  s.grm.regseq :: (List.range 16).flatMap (fun i => let k := gget s.grm.keys (i + 1); [k.st, b2n k.admin, b2n k.img, leNat k.key])

/-- The signed part of an attestation report. -/
def reportBody (s : State) (nonce : List Byte) : List Byte :=
  leBytes 4 0xA77E5701 ++ leBytes 2 1 ++ leBytes 2 (b2n (decide (s.dev.st = 5)) + 2 * b2n s.grm.onecopy + 4 * b2n s.grm.lock) ++
  leBytes 8 s.fuses.serial ++ padTo 64 nonce ++ leBytes 8 s.dev.wall ++ leBytes 4 s.grm.boots ++ leBytes 2 s.dev.maxmhz ++
  leBytes 2 s.dev.maxkw ++ leBytes 64 s.grm.mgroom ++ leBytes 64 s.grm.mhostler ++ leBytes 64 s.grm.mlunge ++ leBytes 64 s.grm.moper ++
  (List.range 4).flatMap (fun k => leBytes 4 (arbLevel s (k + 1))) ++ (sha3Bytes (Config.registryBytes (registry s))).take 32 ++
  reportSummary s ++ (List.range 7).flatMap (fun p => reportPlace (s.place p)) ++ leBytes 16 0

/-- The context string of attestation. -/
def attestContext : List Byte := [0x41#8, 0x54#8, 0x54#8, 0x31#8]

/-- An attestation report (R437). -/
def report (s : State) (nonce : List Byte) : List Byte :=
  let b := reportBody s nonce
  b ++ padTo 4640 (padTo 4627 (Config.mldsaSign (identitySeed s) attestContext (sha3Bytes b))) ++ padTo 14592 Config.certChain

/-- ATTEST (R437, R438). -/
def execAttest (internal : Bool) (s : State) : Host.Outcome State Fault Refusal :=
  .next (
    let box := if internal then 8 else 0
    serve s box 0x10 fun ptr s =>
      if svcSize box < ptr + 0x40 + 20256 then svcAnswer s box ptr 0x10 false
      else
        let nonce := Memory.readBytes (svcMem s box) ptr 64
        svcAnswer (svcWrite s box (ptr + 0x40) (report s nonce)) box ptr 0x10 true)

/-! KEYREG (R434). -/

/-- Active ADMIN keys other than one index. -/
def otherAdmins (s : State) (index : Nat) : Bool :=
  (List.range 16).any (fun i => let k := gget s.grm.keys (i + 1); decide (i + 1 ≠ index) && decide (k.st = 1) && k.admin)

/-- A registration record is accepted (R434). -/
def keyRecordOk (s : State) (m : Mem) (a : Nat) (sigOk : Bool) : Bool :=
  let f := fun (o n : Nat) => Memory.readLe m (a + o) n
  let op := f 4 1; let index := f 5 1; let signer := f 0x14 1; let k := gget s.grm.keys signer
  let empty := (List.range 16).all (fun i => decide ((gget s.grm.keys (i + 1)).st = 0))
  decide (f 0 4 = 0x4B520001) && decide (op = 1 ∨ op = 2) && decide (1 ≤ index) && decide (index ≤ 16) && decide (signer ≤ 16) && sigOk &&
  (decide (signer = 0) || (decide (k.st = 1) && k.admin)) && (decide (f 8 8 = 0) || decide (f 8 8 = s.fuses.serial)) &&
  decide (s.grm.regseq < f 0x10 4) && (decide (op ≠ 1) || decide ((gget s.grm.keys index).st = 0)) &&
  (!(empty && decide (op = 1)) || decide (signer = 0)) &&
  (decide (op ≠ 2) || otherAdmins s index || decide (signer = 0))

/-- KEYREG (R434, R438): an accepted record is answered once its KEY record is committed. -/
def execKeyreg (sigOk : Bool) (s : State) : Host.Outcome State Fault Refusal :=
  .next (serve s 0 0x11 fun ptr s =>
    if 0x10000 < ptr + 0xA40 + 4627 || !keyRecordOk s s.gwin ptr sigOk then svcAnswer s 0 ptr 0x11 false
    else
      let f := fun (o n : Nat) => Memory.readLe s.gwin (ptr + o) n
      owe s 0 ptr 0x11 9 [f 4 1, f 5 1, f 6 1 % 2, f 6 1 / 2 % 2, f 0x10 4, leNat (Memory.readBytes s.gwin (ptr + 0x20) 2592)])

/-! SBREAD (R438). -/

/-- Whole records up to a limit of bytes. -/
def wholeRecords : Nat → List SbRec → List Byte
  | _, [] => []
  | lim, r :: rs => if r.len ≤ lim then r.bytes ++ wholeRecords (lim - r.len) rs else []

/-- SBREAD (R438). -/
def execSbread (internal : Bool) (s : State) : Host.Outcome State Fault Refusal :=
  .next (
    let box := if internal then 8 else 0
    serve s box 0x12 fun ptr s =>
      let m := svcMem s box
      let start := Memory.readLe m ptr 8; let lim := Memory.readLe m (ptr + 8) 4
      if svcSize box < ptr + 0x10 + lim then svcAnswer s box ptr 0x12 false
      else
        let bs := wholeRecords lim (s.grm.recs.filter (fun r => decide (start ≤ r.seq)))
        svcAnswer (svcWrite s box (ptr + 0x10) bs) box ptr 0x12 true)

/-! SUSPECT (R427). -/

/-- The unit that a 4-byte word of a SUSPECT request names. -/
def suspectUnit (w : Nat) : Option FailUnit := if bitOf w 31 then unitOf [1, w - 2 ^ 31] else unitOf [0, w]

/-- A unit is named for probation (R427). -/
def suspectOne (s : State) (u : FailUnit) : State :=
  if s.grm.acquired.contains u || s.grm.bad.contains u || unitRetired s u then s
  else if s.grm.prob.any (fun b => decide (b.unit = u)) then probationFail s u 2
  else journalProb s u 0

/-- SUSPECT (R427, R438): the answer follows the last record that the request causes. -/
def execSuspect (s : State) : Host.Outcome State Fault Refusal :=
  .next (serve s 8 0x13 fun ptr s =>
    let n := Memory.readLe s.hmem ptr 4
    if 0x20000000 < ptr + 4 + 4 * n then svcAnswer s 8 ptr 0x13 false
    else
      let us := (List.range n).map (fun i => suspectUnit (Memory.readLe s.hmem (ptr + 4 + 4 * i) 4))
      if us.any Option.isNone then svcAnswer s 8 ptr 0x13 false
      else
        let t := (us.filterMap id).foldl suspectOne s
        if t.grm.queue.length = s.grm.queue.length then svcAnswer t 8 ptr 0x13 true
        else
          match t.grm.queue.getLast? with
          | some r => { t with grm := { t.grm with due := some ⟨8, ptr, 0x13, r.kind, r.body⟩ } }
          | none => t)

/-! LUNGESET (R401) and operator images (R436). -/

/-- LUNGESET (R401, R438): a verified set is answered once its LUNGESET record is committed. -/
def execLungeset (img : ImageCheck) (s : State) : Host.Outcome State Fault Refusal :=
  .next (serve s 8 0x14 fun ptr s =>
    if !imageOk s 3 img then svcAnswer s 8 ptr 0x14 false
    else
      let slot := (s.grm.recs.filter (fun r => decide (r.kind = 12))).length % 2
      owe s 8 ptr 0x14 12 [slot, img.digest.toNat, img.arb])

/-- OPERATOR_IMAGE_LOAD (R322, R435, R436): a verified image extends MOPER and raises the level of KIND 4; a refused one changes nothing. -/
def execOperatorImageLoad (img : ImageCheck) (s : State) : Host.Outcome State Fault Refusal :=
  .next (
    if !s.dev.hostlerUp || !imageOk s 4 img then s
    else
      let m := sha3 (leBytes 64 s.grm.moper ++ leBytes 64 img.digest.toNat)
      raiseArb { s with grm := { s.grm with moper := m, operRuns := s.grm.operRuns + 1 } } 4 img.arb)

end Sys2Proof.Machine
end

