-- ==== Sys2Proof/Machine/Bringup.lean ====
section
/-! DEFINITION. Groom start, bring-up and resets (R426, R441-R463). -/

namespace Sys2Proof.Machine

/-! Resets (R458-R460). -/

/-- What the Groom's media keep over a cold reset (R411, R420): the committed studbook, deferred records, life counters and boot slots. -/
def GrmBlock.media (g : GrmBlock) : GrmBlock :=
  { GrmBlock.atReset with
    recs := g.recs, queue := g.queue.filter (fun r => deferrable r.kind), copyB := g.copyB, seq := g.seq, boots := g.boots, pendArb := g.pendArb,
    acquired := g.acquired, prob := g.prob, keys := g.keys, regseq := g.regseq, lungeArb := g.lungeArb, mlunge := g.mlunge,
    fuseConflicts := g.fuseConflicts, poh := g.poh, tcyc := g.tcyc, energy := g.energy, tcPeak := 0, tcMin := 0, badsect := g.badsect,
    erasemax := g.erasemax, budget := g.budget, slotArb0 := g.slotArb0, slotArb1 := g.slotArb1 }

/-- A cold reset (R458): every rail off, every register at its reset value. Fuses, the studbook's media, Hostler memory (R321), the TAP,
the pins and the presence of the feeds stay. -/
def State.cold (s : State) : State :=
  { State.reset with
    fuses := s.fuses, grm := s.grm.media, hmem := s.hmem, tap := s.tap, pins := { s.pins with pwrGood := false },
    pwr := { PwrBlock.atReset 18000 with feeda := s.pwr.feeda, feedb := s.pwr.feedb },
    nextId := s.nextId, fresh := s.fresh, resp := s.resp, pending := s.pending }

/-- The rack directory of a stall with every VALID 0 (R460). -/
def StallMem.unracked (m : StallMem) : StallMem :=
  { m with loftC := (List.range 7).foldl (fun c p =>
      let a := 0x1FC4A + p * 0x80
      Memory.write c a (Memory.read c a &&& 0xFE#8)) m.loftC }

/-- A stall after a warm reset (R460): state and manger gone, lofts and brand words kept. -/
def Stall.warm (t : Stall) : Stall :=
  { Stall.atReset with qu := { QueueUnit.empty with ej := t.qu.ej }, mem := { t.mem.unracked with manger := [] } }

/-- The counts of a shed that are said to clear at each flip (R460). -/
def Shed.warm (h : Shed) : Shed :=
  { h with replays := 0, sats := 0, maskerr := 0, progCount := 0, fired := false, cause := false, progStall := 0, nopart := 0 }

/-- A stream-side unit after a warm reset (R460): its contexts IDLE, its slots empty. -/
def Port.warm (q : Port) : Port := { q with ctxs := gconst StreamCtx.atReset, slots := [], mctx := 0, mcmd := 0, merr := false, outbox := [] }

/-- The SEC block after a warm reset (R460). -/
def SecBlock.warm (b : SecBlock) : SecBlock :=
  { SecBlock.atReset with inj := b.inj, drained := b.drained, gphase := b.gphase }

/-- Steps 3 to 5 of R459: the sheds pass through D4, the Hostler is reset, and the Groom runs HOSTLER and READY. -/
def finishWarm (s : State) : State :=
  let s := { s with
    psheds := gmapAll s.psheds (fun p => { p with depth := if p.live then 4 else p.depth, waking := false, wakeReq := false, openLatched := false,
                                                  parked := false, proposed := 0, vetoed := false, bduty := 0, droops := 0, stretch := 0 }),
    stalls := gmapAll s.stalls Stall.warm, sheds := gmapAll s.sheds Shed.warm, yards := gmapAll s.yards Yard.opened, sec := s.sec.warm }
  let s := { s with
    ports := gmapAll s.ports Port.warm, mars := { s.mars with buckets := gconst Bucket.atReset, bctx := 0, bcmd := 0, berr := false },
    mbx := { s.mbx with rings := gconst Ring.atReset, boxes := gmodKeys s.mbx.boxes [2, 6, 9] (fun _ b => { b with rxrdy := false }) },
    err := { s.err with secrec := 0, lastrec := 0 }, pwr := { s.pwr with nextev := 0, nextpw := 0, veto := false, learning := false } }
  { s with dev := { s.dev with st := 2, done := 7, busy := true, runStep := 8, auto := true, phase := 0, hostlerUp := false, warmBusy := false } }

/-- A warm reset is asked for (R457, R459): a RUNNING section is aborted first, and ABORTING runs to its end. -/
def warmReset (s : State) : State :=
  if s.dev.st ≠ 3 ∧ s.dev.st ≠ 4 ∧ s.dev.st ≠ 5 then { s with dev := { s.dev with resetRefused := true } }
  else
    let s := match runningPlace s with | some p => abortNow s p 1 | none => s
    if (activePlace s).isSome then { s with dev := { s.dev with warmBusy := true } } else finishWarm s

/-- ABORTED_REACHED (R222): a warm reset that waits for the end of ABORTING goes on (R459). -/
def execAbortedReached (s : State) : Host.Outcome State Fault Refusal :=
  .next (
    let s := abortedReached s
    if s.dev.warmBusy && (activePlace s).isNone then finishWarm s else s)

/-- A write of DEV.RESET (R461): both bits act as COLD. REFUSED is cleared by a 1. -/
def writeReset (data : Nat) (s : State) : State :=
  let s := if bitOf data 2 then { s with dev := { s.dev with resetRefused := false } } else s
  if bitOf data 1 then s.cold else if bitOf data 0 then warmReset s else s

/-- COLD (R458). -/
def execCold (o : Origin) (s : State) : Host.Outcome State Fault Refusal := .next (asAuth o s (writeReset 2))
/-- WARM (R459). -/
def execWarm (o : Origin) (s : State) : Host.Outcome State Fault Refusal := .next (asAuth o s (writeReset 1))

/-- RESET_PIN (R475): low for 10 us or longer resets, below 8 us does nothing, and between the two it may do either. -/
def execResetPin (low : LowTime) (s : State) : Host.Outcome State Fault Refusal :=
  .next (
    if s.dev.st = 0 then s
    else match low with
      | .long => s.cold
      | .short => s
      | .between => let (ev, s) := takeFresh s; if Config.freeReset ev then s.cold else s)

/-! The Groom's start (R441-R447). -/

/-- The variant word passes its CRC and names a variant (R441, R442). -/
def variantOk (w : Nat) : Bool := decide (bitsOf w 47 32 = crc16 32 (bitsOf w 31 0)) && decide (1 ≤ bitsOf w 7 0) && decide (bitsOf w 7 0 ≤ 3)

/-- FUSE_CONFLICT is recorded (R426, R442). -/
def fuseConflict (s : State) : State := journal (record s 21 .device) 11 [2]

/-- The Groom reads the variant word (R441-R443): it fixes the limits of PWR.CAP and THM.CLK, which stand at their maxima. -/
def readVariant (s : State) : State :=
  let w := s.fuses.variant
  let ok := variantOk w
  let mhz := if ok then bitsOf w 18 8 else 800
  let kw := if ok then bitsOf w 27 20 else 18
  let s := { s with dev := { s.dev with vcode := if ok then bitsOf w 7 0 else 3, maxmhz := mhz, vok := ok, maxkw := kw },
                    pwr := { s.pwr with capw := kw * 1000, limit := 100 * (kw * 1000) }, thm := { s.thm with mhz := mhz } }
  if ok then s else fuseConflict s

/-- A firmware slot holds an image that the ROM may run (R322, R435, R446). -/
def slotOk (s : State) : Option Nat → Bool
  | none => false
  | some a => decide (arbLevel s 1 ≤ a) && decide (a ≤ arbMax 1)

/-- The slot that runs: the one with the higher level first (R446). -/
def pickSlot (s : State) (a b : Option Nat) : Option (Bool × Nat) :=
  let x := slotOk s a; let y := slotOk s b
  if y && (!x || decide (a.getD 0 < b.getD 0)) then some (true, b.getD 0) else if x then some (false, a.getD 0) else none

/-- The studbook is recovered (R420, R425): without a head slot in MRAM the last committed record may be lost. -/
def recoverStudbook (g : GroomInputs) (s : State) : State :=
  let (ev, s) := takeFresh s
  let rs := if g.mramHead || Config.pick ev % 2 == 0 then s.grm.recs else s.grm.recs.dropLast
  let s := { s with grm := { s.grm.rebuild rs with onecopy := !(g.copyA && g.copyB) } }
  let s := if g.mramHead then s else studbookRepair s
  if g.copyA && g.copyB then s else studbookRepair s

/-- What the Groom firmware does once it runs (R446, R447). -/
def startFirmware (g : GroomInputs) (s : State) : State :=
  if !g.copyA && !g.copyB then { s with dev := { s.dev with st := 6, hcause := 3 } }
  else
    let s := blowArb (recoverStudbook g s)
    let ok := g.keyMatch && g.chainOk
    let s := { s with grm := { s.grm with boots := s.grm.boots + 1, ready := true, idok := ok, keymis := !g.keyMatch, chainfail := !g.chainOk } }
    let s := raiseArb s 1 s.grm.garb
    if ok then s else { s with dev := { s.dev with st := 6, hcause := 2 } }

/-- GROOM_START (R446, R447). -/
def execGroomStart (g : GroomInputs) (s : State) : Host.Outcome State Fault Refusal :=
  .next (
    if s.dev.st ≠ 1 ∨ s.grm.ready ∨ s.grm.fwerr ∨ !g.selfCheck then s
    else
      let s := blowArb (readVariant { s with pins := { s.pins with pwrGood := true } })
      let s := { s with grm := { s.grm with slotArb0 := g.slot0, slotArb1 := g.slot1 } }
      match pickSlot s g.slot0 g.slot1 with
      | none => { s with grm := { s.grm with fwerr := true } }
      | some (b, arb) => startFirmware g { s with grm := { s.grm with fwslot := b, garb := arb, mgroom := g.mgroom.toNat } })

/-- FIRMWARE_RECOVERY_IMAGE (R447): a chunk that a notice on mailbox 0 names; after the last one the ROM writes the image to the older
slot and starts again. -/
def execFirmwareRecoveryImage (last : Bool) (img : Option ImageCheck) (s : State) : Host.Outcome State Fault Refusal :=
  .next (
    match (s.box 0).queue.head? with
    | none => s
    | some (ptr, hi) =>
      if s.dev.st ≠ 1 ∨ !s.grm.fwerr then s
      else
        let s := popBox 0 { s with grm := { s.grm with fwBuf := s.grm.fwBuf ++ Memory.readBytes s.gwin ptr.toNat (bitsOf hi.toNat 31 0) } }
        if !last then s
        else
          let a := match img with | some i => if imageOk s 1 i then some i.arb else none | none => none
          let older := decide (s.grm.slotArb0.getD 0 < s.grm.slotArb1.getD 0)
          { s with grm := { s.grm with fwerr := false, fwBuf := [], slotArb0 := if older then a else s.grm.slotArb0,
                                       slotArb1 := if older then s.grm.slotArb1 else a } })

/-- GROOM_LOCK (R463): the lock is set by a 1 and stays. -/
def writeLock (data : Nat) (s : State) : State := { s with grm := { s.grm with lock := s.grm.lock || bitOf data 0 } }

/-- GROOM_LOCK: the write of GRM.LOCK. -/
def execGroomLock (o : Origin) (data : Word64) (s : State) : Host.Outcome State Fault Refusal := .next (asAuth o s (writeLock data.toNat))

/-! The bad set (R413-R415, R426). -/

/-- The physical shed units that fuse bits name as bad (R413). -/
def fuseUnits (w n : Nat) : List FailUnit :=
  let rows := (List.range 16).filterMap (fun r =>
    let c := bitsOf w (5 * r + 4) (5 * r) ^^^ 31
    let p := physOf n r c
    if h : c ≤ 16 ∧ p < 1253376 then some (.stall ⟨p, h.2⟩) else none)
  if bitOf w 80 then rows else (if h : n < 4608 then [.shed ⟨n, h⟩] else []) ++ rows

/-- What the fuses and the factory map say of a physical shed: its bad units, and whether they disagree (R426). -/
def shedSources (s : State) (n : Nat) : List FailUnit × Bool :=
  let w := gget s.fuses.sheds n
  let m := gget s.fuses.mapSheds n
  if bitsOf w 127 112 ≠ crc16 112 (bitsOf w 111 0) then
    (if s.fuses.mapOk then fuseUnits m n else (if h : n < 4608 then [.shed ⟨n, h⟩] else []), true)
  else
    let a := fuseUnits w n
    let b := if s.fuses.mapOk then (fuseUnits m n).filter (fun u => !a.contains u) else []
    (a ++ b, !b.isEmpty)

/-- The retired shed columns that yard fuse bits name (R414). -/
def yardUnits (w y : Nat) : List FailUnit :=
  (List.range 8).filterMap (fun r =>
    let c := bitsOf w (4 * r + 3) (4 * r) ^^^ 15
    let n := y * 72 + r * 9 + c
    if h : c ≤ 8 ∧ n < 4608 then some (.shed ⟨n, h.2⟩) else none)

/-- What the fuses and the factory map say of a yard (R414, R426). -/
def yardSources (s : State) (y : Nat) : List FailUnit × Bool :=
  let w := gget s.fuses.yards y
  if bitsOf w 95 80 ≠ crc16 80 (bitsOf w 79 0) then (if s.fuses.mapOk then yardUnits (gget s.fuses.mapYards y) y else [], true)
  else (yardUnits w y, false)

/-- A unit that a test of bring-up finds bad (R426, R453): a DEFECT record, source BIST. -/
def testFail (s : State) (u : FailUnit) : State :=
  if s.grm.bad.contains u then s
  else
    let s := if s.grm.prob.any (fun b => decide (b.unit = u)) then journalProb s u 2 else s
    journal { s with grm := { s.grm with bad := s.grm.bad ++ [u] } } 1 (unitCode u ++ [0, 0])

/-- The units a step's tests found. -/
def testUnits (r : StepResult) : List FailUnit := r.badStalls.map .stall ++ r.badSheds.map .shed

/-- BIST's end (R426, R429, R450): the bad set is built and committed, and the sheds' aging is measured. -/
def finishBist (s : State) (r : StepResult) : State :=
  let a := (List.range 4608).map (shedSources s)
  let b := (List.range 64).map (yardSources s)
  let units := (a ++ b).flatMap (·.1)
  let s := ((a ++ b).filter (·.2)).foldl (fun s _ => fuseConflict s) s
  let s := { s with grm := { s.grm with bad := (units ++ s.grm.acquired).eraseDups } }
  let s := (testUnits r).foldl testFail s
  let s := r.aging.foldl (fun s x => measureAging s x.1 x.2.1 x.2.2) s
  commitAll s

/-! The remap at bring-up (R452). -/

/-- The retired column of a row, and whether its shed is unusable, with one more bad stall. -/
def buildStall (g : GMap PShed) (p : Nat) : GMap PShed :=
  gmod g (pshedOfPhys p) fun q =>
    let row := prowOf p; let col := pcolOf p; let r := gget q.rcol row
    if r = 31 then { q with rcol := gset q.rcol row col } else if r = col then q else { q with unusable := true }

/-- The physical sheds as the bad set makes them. -/
def buildSheds (s : State) : GMap PShed :=
  s.grm.bad.foldl (fun g u => match u with
    | .stall p => buildStall g p
    | .shed n => gmod g n fun q => { q with unusable := true })
    (gmapAll s.psheds (fun q => { q with rcol := gconst 31, unusable := false }))

/-- The retired shed column of a yard row, and whether the row is exhausted. -/
def yardRow (g : GMap PShed) (y row : Nat) : Nat × Bool :=
  match (List.range 9).filter (fun c => (gget g (y * 72 + row * 9 + c)).unusable) with
  | [] => (15, false)
  | [c] => (c, false)
  | c :: _ => (c, true)

/-- A yard as the bad set and its rails make it: without its core rail it counts as lame (R457). -/
def buildYard (g : GMap PShed) (yard : Nat) (y : Yard) : Yard :=
  let rows := (List.range 8).map (fun r => (r, yardRow g yard r))
  let exh := if y.core then (rows.filter (fun r => r.2.2)).foldl (fun v r => v + 2 ^ r.1) 0 else 0xFF
  { y with rcol := rows.foldl (fun m r => gset m r.1 r.2.1) (gconst 15), exh := exh, lame := decide (exh ≠ 0), valid := true }

/-- The remap is built (R452 pass 1). -/
def buildRemap (s : State) : State :=
  let g := buildSheds s
  let s := { s with psheds := g, yards := gmodKeys s.yards (List.range 64) (fun k y => buildYard g k y) }
  let s := { s with sheds := gmodKeys s.sheds (List.range 4096) (fun k h =>
    { h with pscol := pshedOf s k % 9, valid := true, absent := (s.yard (k / 64)).lame || !(s.yard (k / 64)).core }) }
  { s with psheds := gmodKeys s.psheds (List.range 4608) (fun n q =>
    match logicalShed s n with
    | some _ => { q with live := (s.yard (n / 72)).core }
    | none => { q with live := false, depth := 4 }) }

/-- The route tables are written, both versions alike (R452). -/
def buildRoutes (s : State) : State :=
  let t : RouteTable := ⟨deadYards s, gconst none⟩
  { s with routeA := t, routeB := t, sec := { s.sec with inj := false, drained := true },
           mars := { s.mars with verA := gconst 0, verB := gconst 0 } }

/-- LOFT's end (R453): failing columns are bad, the remap is rebuilt, and every block is zero with brand word 0. -/
def finishLoft (s : State) (r : StepResult) : State :=
  let s := (testUnits r).foldl testFail s
  let s := if (testUnits r).isEmpty then s else buildRemap s
  commitAll { s with stalls := gmapAll s.stalls (fun t => { t with mem := ⟨t.mem.manger, [], [], [], gconst 0, gconst none⟩ }) }

/-! The steps (R449-R457). -/

/-- Every enabled port but the bridge begins to train (R454 step 2). -/
def trainOthers (s : State) : State :=
  { s with ports := gmodKeys s.ports (List.range 144) (fun _ q => if q.en && !q.host && decide (q.st = 1) then q.toTrain else q),
           dev := { s.dev with phase := 2 } }

/-- A step begins (R449): PORTS trains the bridge port first, or every port when none is named (R454). -/
def beginStep (s : State) (k : Nat) : State :=
  let s := { s with dev := { s.dev with runStep := k, busy := true, phase := 0, st := 2 } }
  if k ≠ 7 then s
  else
    match (List.range 144).find? (fun p => (s.port p).host && (s.port p).en) with
    | some p => { (modPort s p fun q => if q.st = 1 then q.toTrain else q) with dev := { s.dev with phase := 1 } }
    | none => trainOthers s

/-- A step has reached its end (R449): with AUTO the next one begins. -/
def doneStep (s : State) (k : Nat) : State :=
  let s := { s with dev := { s.dev with done := k, busy := false, runStep := 0, phase := 0 } }
  if s.dev.auto ∧ k < 9 then beginStep s (k + 1) else s

/-- A step fails (R449). -/
def failStep (s : State) (err : Nat) : State :=
  { s with dev := { s.dev with bootErr := err, busy := false, runStep := 0, phase := 0 } }

/-- A write of DEV.BOOTCTL (R449, R446, R462). -/
def writeBootctl (data : Nat) (s : State) : State :=
  let k := bitsOf data 3 0
  if !bitOf data 4 then { s with dev := { s.dev with step := k, auto := bitOf data 5, hsrc := bitOf data 6 } }
  else if s.dev.busy ∨ k ≠ s.dev.done + 1 ∨ 9 < k ∨ (s.dev.st ≠ 1 ∧ s.dev.st ≠ 2) ∨ !s.grm.idok ∨ !s.grm.ready then
    { s with dev := { s.dev with bootErr := 1 } }
  else beginStep { s with dev := { s.dev with step := k, auto := bitOf data 5, hsrc := bitOf data 6 } } k

/-- The write of DEV.BOOTCTL that starts a step. -/
def stepCommand (o : Origin) (k : Nat) (auto hsrc : Bool) (s : State) : Host.Outcome State Fault Refusal :=
  .next (asAuth o s (writeBootctl (k + 16 + 32 * b2n auto + 64 * b2n hsrc)))

/-- TRACK (R450). -/
def execTrack (o : Origin) (auto hsrc : Bool) (s : State) : Host.Outcome State Fault Refusal := stepCommand o 1 auto hsrc s
/-- CORE (R451). -/
def execCore (o : Origin) (auto hsrc : Bool) (s : State) : Host.Outcome State Fault Refusal := stepCommand o 2 auto hsrc s
/-- CLOCKS (R450). -/
def execClocks (o : Origin) (auto hsrc : Bool) (s : State) : Host.Outcome State Fault Refusal := stepCommand o 3 auto hsrc s
/-- BIST (R426). -/
def execBist (o : Origin) (auto hsrc : Bool) (s : State) : Host.Outcome State Fault Refusal := stepCommand o 4 auto hsrc s
/-- REMAP (R452). -/
def execRemap (o : Origin) (auto hsrc : Bool) (s : State) : Host.Outcome State Fault Refusal := stepCommand o 5 auto hsrc s
/-- LOFT (R453). -/
def execLoft (o : Origin) (auto hsrc : Bool) (s : State) : Host.Outcome State Fault Refusal := stepCommand o 6 auto hsrc s
/-- PORTS (R454). -/
def execPorts (o : Origin) (auto hsrc : Bool) (s : State) : Host.Outcome State Fault Refusal := stepCommand o 7 auto hsrc s
/-- HOSTLER (R455). -/
def execHostler (o : Origin) (auto hsrc : Bool) (s : State) : Host.Outcome State Fault Refusal := stepCommand o 8 auto hsrc s
/-- READY (R456). -/
def execReady (o : Origin) (auto hsrc : Bool) (s : State) : Host.Outcome State Fault Refusal := stepCommand o 9 auto hsrc s

/-- TRACK's end: every track rail is on or tripped. -/
def finishTrack (s : State) (trips : List YardId) : State :=
  let s := { s with yards := gmodKeys s.yards (List.range 64) (fun _ y => { y with track := true }) }
  trips.foldl (fun s (y : YardId) => trackTrip s y) s

/-- CORE's end: every core rail whose track rail is on is on or tripped (R451). -/
def finishCore (s : State) (trips : List YardId) : State :=
  let s := { s with yards := gmodKeys s.yards (List.range 64) (fun _ y => if y.track then { y with core := true } else y) }
  trips.foldl (fun s (y : YardId) => if (s.yard y).core then coreTrip s y 1 else s) s

/-- CLOCKS' end: every shed with its core rail on stands at D1. -/
def finishClocks (s : State) : State :=
  { s with psheds := gmodKeys s.psheds (List.range 4608) (fun n p =>
      if (s.yard (n / 72)).core then { p with depth := 1, live := true } else { p with depth := 4, live := false }) }

/-- LANECHAR records of the lanes in use (R417, R454). -/
def laneChars (s : State) : State :=
  (List.range 144).foldl (fun s p =>
    (List.range 8).foldl (fun s l =>
      let q := s.port p
      if q.st = 4 ∧ bitOf q.lanes l then journal s 6 [p, l, q.rate, Config.equaliser p l, gget q.errbits l] else s) s) s

/-- PORTS' end (R454): first the bridge port, then no port in TRAIN or AUTH. -/
def finishPorts (s : State) (timedOut : Bool) : State :=
  if s.dev.phase = 1 then
    if (hostPort s).isSome then trainOthers s else if timedOut then failStep s 4 else s
  else if (List.range 144).any (fun p => decide ((s.port p).st = 2 ∨ (s.port p).st = 3)) then s
  else
    let down := ((List.range 144).filter (fun p => (s.port p).en && decide ((s.port p).st ≠ 4))).length
    doneStep (laneChars { s with dev := { s.dev with portsdown := down } }) 7

/-- Hostler firmware comes from the image at Hostler memory 0x1000_0000 (R455): its body goes to address 0 (R321, R323). -/
def loadHostler (s : State) : State :=
  if !s.dev.hsrc then s
  else
    let len := Memory.readLe s.hmem 0x10000010 8
    if 0x0FFFED80 < len then s
    else { s with hmem := Memory.putWindow s.hmem 0 len (Memory.window s.hmem 0x10001280 len) }

/-- HOSTLER's end (R455): the image is verified and started, and the step is done at RXRDY on mailbox 9. -/
def finishHostler (s : State) (image : Option ImageCheck) (timedOut : Bool) : State :=
  if s.dev.phase = 0 then
    match image with
    | none => s
    | some i =>
      if !imageOk s 2 i then failStep s 5
      else
        let s := loadHostler s
        { s with grm := { s.grm with harb := i.arb, mhostler := i.digest.toNat }, dev := { s.dev with phase := 1, hostlerUp := true },
                 mbx := { s.mbx with boxes := gmodKeys s.mbx.boxes [2, 6, 9] (fun _ b => { b with rxrdy := false }) } }
  else if (s.box 9).rxrdy then doneStep s 8
  else if timedOut then failStep s 6
  else s

/-- READY's end (R456). -/
def finishReady (s : State) (ms : Nat) : State :=
  let broken := (List.range 64).any (fun y => (s.yard y).lame) || (List.range 4096).any (fun k => (s.shed k).absent)
  let s := { s with grm := { s.grm with lock := true }, dev := { s.dev with st := if broken then 5 else 3, btime := ms % 2 ^ 32 } }
  doneStep s 9

/-- BOOT_STEP_COMPLETE (R449-R457): the running step reaches a done condition or fails. CORE does not end while load shed is active. -/
def execBootStepComplete (r : StepResult) (s : State) : Host.Outcome State Fault Refusal :=
  .next (
    if !s.dev.busy then s
    else match s.dev.runStep with
      | 1 => doneStep (finishTrack s r.trips) 1
      | 2 => if loadShed s then s else doneStep (finishCore s r.trips) 2
      | 3 => doneStep (finishClocks s) 3
      | 4 => doneStep (finishBist s r) 4
      | 5 => doneStep (buildRoutes (buildRemap s)) 5
      | 6 => doneStep (finishLoft s r) 6
      | 7 => finishPorts s r.timedOut
      | 8 => finishHostler s r.image r.timedOut
      | 9 => finishReady s r.elapsedMs
      | _ => s)

end Sys2Proof.Machine
end

