-- ==== Sys2Proof/Machine/Registers.lean ====
section
/-! DEFINITION. What the registers read (R8-R10, R464-R472): one function per block, over offsets from its base. An offset without a
register reads 0 (R10). -/

namespace Sys2Proof.Machine

/-- A register's value: fields at their lowest bit with their width; other bits read 0. -/
def packBits (fs : List (Nat × Nat × Nat)) : Nat := fs.foldl (fun v f => v + f.2.2 % 2 ^ f.2.1 * 2 ^ f.1) 0

/-- A field of one bit. -/
def flag (lo : Nat) (b : Bool) : Nat × Nat × Nat := (lo, 1, b2n b)

/-- The bit set of the numbers below `n` that satisfy `p`. -/
def bitSet (n : Nat) (p : Nat → Bool) : Nat := (List.range n).foldl (fun v i => v + b2n (p i) * 2 ^ i) 0

/-- `n` fields of width `w` from bit 0 on, `step` bits apart. -/
def fields (n step w : Nat) (f : Nat → Nat) : Nat := packBits ((List.range n).map (fun i => (step * i, w, f i)))

/-! DEV, GRM (R443, R445, R461-R463, R470, R471, R312, R439, R440). -/

/-- Yards lame or with a rail off, counted once bring-up has switched the core rails on (R462, log 33). -/
def yardsOut (s : State) : Nat :=
  if s.dev.done < 2 then 0
  else ((List.range 64).filter (fun y => (s.yard y).lame || !(s.yard y).core || !(s.yard y).track)).length

/-- The DEV block. GO reads 0: a step is taken at once (log 9). -/
def devRead (s : State) (off : Nat) : Nat :=
  let d := s.dev
  match off with
  | 0x000 => s.fuses.serial
  | 0x008 => packBits [(0, 8, d.vcode), (8, 11, d.maxmhz), flag 19 d.vok, (20, 8, d.maxkw)]
  | 0x010 => packBits [(0, 3, d.st), flag 3 (activePlace s).isSome, (4, 4, d.hcause)]
  | 0x018 => packBits [(0, 4, d.step), flag 5 d.auto, flag 6 d.hsrc]
  | 0x020 => packBits [(0, 4, d.done), flag 4 d.busy, (8, 4, d.bootErr), (12, 8, d.portsdown), (20, 7, yardsOut s)]
  | 0x028 => packBits [(0, 32, d.btime)]
  | 0x030 => packBits [flag 2 d.resetRefused]
  | 0x038 => devAlert s
  | 0x400 => d.wall
  | 0x408 => packBits [(0, 8, d.srcport), flag 8 d.locked, (16, 32, patternOf 32 d.offset)]
  | _ => 0

/-- The units the Groom holds bad: fuses, factory map and acquired list as of bring-up, and those acquired since (R426, R440). -/
def badUnits (s : State) : List FailUnit := s.grm.bad ++ s.grm.acquired.filter (fun u => !s.grm.bad.contains u)

/-- A unit is a whole shed. -/
def isShed : FailUnit → Bool
  | .shed _ => true
  | .stall _ => false

/-- The GRM block. The registers of R440 reflect the committed state, and read 0 until recovery is done (R420). -/
def grmRead (s : State) (off : Nat) : Nat :=
  let g := s.grm
  let when (v : Nat) : Nat := if g.ready then v else 0
  let arb (k : Nat) : Nat :=
    when (packBits [(0, 16, arbLevel s k), (16, 16, gget s.fuses.arb k), flag 32 (decide (gget s.fuses.arb k < gget g.pendArb k))])
  match off with
  | 0x000 => packBits [flag 0 g.idok, flag 1 g.keymis, flag 2 g.chainfail, flag 3 g.fwerr, flag 4 g.fwslot]
  | 0x008 => b2n g.lock
  | 0x010 => packBits [(0, 32, g.garb), (32, 32, g.harb)]
  | 0x800 => packBits [flag 0 g.ready, flag 1 g.onecopy, flag 2 g.repair, flag 3 g.throttled, flag 4 g.predict, (8, 12, g.badsect)]
  | 0x808 => g.seq
  | 0x810 => packBits [(0, 16, g.erasemax), (16, 32, g.wrkib)]
  | 0x818 => b2n g.predret
  | 0x820 => when (packBits [(0, 32, g.poh), (32, 32, g.tcyc)])
  | 0x828 =>
    let us := badUnits s
    let sheds := (us.filter isShed).length
    when (packBits [(0, 21, us.length - sheds), (32, 13, sheds), (48, 12, g.prob.length)])
  | 0x830 => arb 1
  | 0x838 => arb 2
  | 0x840 => arb 3
  | 0x848 => arb 4
  | 0x850 =>
    let keys (st : Nat) : Nat := bitSet 16 (fun i => decide ((gget g.keys (i + 1)).st = st))
    when (packBits [(0, 32, g.regseq), (32, 16, keys 1), (48, 16, keys 2)])
  | _ => 0

/-! PWR, THM, ERR (R359-R361, R377, R378, R406-R409). -/

/-- The PWR block. -/
def pwrRead (s : State) (off : Nat) : Nat :=
  let p := s.pwr
  match off with
  | 0x00 => packBits [(0, 16, p.capw), (16, 16, p.limit / 100)]
  | 0x08 => packBits [(0, 10, p.up), (16, 10, p.down)]
  | 0x10 => packBits [flag 1 p.pend, (2, 10, p.nslotm1), flag 12 p.slotsrc, (13, 10, p.slot), (24, 24, p.slotw)]
  | 0x18 => p.stagt0
  | 0x20 => packBits [(0, 16, p.level), flag 16 p.lreq, flag 17 p.pin, flag 18 (loadShed s)]
  | 0x28 => packBits [(0, 3, p.maxdepth)]
  | 0x30 => p.nextev
  | 0x38 => packBits [(0, 16, p.nextpw)]
  | 0x40 => packBits [flag 0 p.alloc, flag 1 p.unmet, flag 2 p.veto, flag 3 p.feeda, flag 4 p.feedb, (5, 5, nSet s), (16, 16, p.target)]
  | 0x48 => packBits [(0, 16, p.inw), (16, 16, p.linkw), (32, 16, p.loftw), (48, 16, p.ballw)]
  | 0x50 => packBits [(0, 16, p.overshoot), (16, 16, p.vetoes), (32, 16, p.slopemiss), (48, 16, p.fallback)]
  | 0x58 => p.mj
  | _ => 0

/-- The THM block. -/
def thmRead (s : State) (off : Nat) : Nat :=
  let t := s.thm
  let count (p : PShed → Bool) : Nat := ((presented s).filter (fun x => p (s.pshed x.1))).length
  match off with
  | 0x00 => t.mhz
  | 0x08 => packBits [(0, 7, t.throttle), (8, 7, t.hold), (16, 7, t.release)]
  | 0x10 =>
    packBits [(0, 8, t.tmax), (8, 6, t.tyard), (14, 6, t.tshed), (20, 13, count (fun p => decide (p.tlim < 16))), (33, 13, count PShed.hold),
          (46, 13, count PShed.parked), flag 59 t.tripped]
  | 0x18 => packBits [(0, 16, t.sensfail)]
  | _ => 0

/-- The ERR block. -/
def errRead (s : State) (off : Nat) : Nat :=
  let e := s.err
  if 0x040 ≤ off ∧ off < 0x078 then fields 4 16 16 (fun j => gget e.cnt ((off - 0x040) / 8 * 4 + j))
  else match off with
  | 0x000 => e.sticky
  | 0x008 => e.secrec
  | 0x010 => e.lastrec
  | 0x018 => e.alerten
  | 0x020 => packBits [(0, 5, e.code), (5, 3, e.kind), (8, 20, e.loc), flag 28 e.fvalid]
  | 0x028 => e.firstt
  | 0x100 => packBits [(0, 6, e.lyard), (6, 6, e.lshed), (12, 2, e.lscope)]
  | 0x108 =>
    packBits [(0, 2, e.lstate), flag 2 e.lrefused, (3, 8, e.lstall), flag 11 e.lwhole, (12, 32, e.lver), (44, 4, e.spscol), (48, 3, e.spsrow),
          (51, 5, e.spcol), (56, 4, e.sprow)]
  | _ => 0

/-! SEC, GATE (R226-R231, R166, R189, R190). -/

/-- The SEC block. GO reads 0: a command is taken at once (log 9). -/
def secRead (s : State) (off : Nat) : Nat :=
  let c := s.sec
  if 0x100 ≤ off ∧ off < 0x138 then
    let q := s.place ((off - 0x100) / 8)
    packBits [(0, 3, q.st), flag 3 q.rld, (4, 2, q.gen), (8, 8, q.cmderr)]
  else if 0x140 ≤ off ∧ off < 0x178 then
    let q := s.place ((off - 0x140) / 8)
    if q.st = 0 then 0 else q.secid.toNat
  else match off with
  | 0x000 => packBits [(0, 3, c.cmd), (3, 3, c.cplace), flag 6 c.cauto]
  | 0x008 => c.loadsrc.toNat
  | 0x010 =>
    packBits [(0, 3, (activePlace s).getD 7), (3, 2, c.cg), flag 5 c.held, flag 6 (!s.rm.faults.isEmpty || s.rm.running.isSome),
          flag 7 (c.openOut && (presented s).any (fun x => (s.pshed x.1).parked)), (8, 3, (armedPlace s).getD 7), flag 11 c.auto]
  | 0x018 =>
    packBits [flag 0 c.valid, flag 1 c.outcome, flag 2 c.late, flag 3 c.closeerr, (4, 4, c.acause), (8, 3, c.rplace), (16, 32, c.runus)]
  | 0x020 => c.lastsec.toNat
  | 0x028 => packBits [(0, 32, c.stale)]
  | 0x030 => packBits [(0, 20, c.afStall), (20, 4, c.afReason)]
  | 0x800 => packBits [flag 0 c.inj, flag 1 c.earm, (2, 4, c.eline), flag 6 c.drained]
  | _ => 0

/-- A stall drives its contribution to G15 (R216, R218): its end condition holds, or it has made the open and may start. -/
def g15Ready (s : State) (sid : Nat) : Bool :=
  (s.stall sid).opened && (if s.sec.openOut then !(s.pshed (pshedOf s (shedOf sid))).hold else endReady s sid)

/-- The participants of a wafer line: those of R180, and for G15 every stall outside ABSENT sheds while a section is open or opens. -/
def waferParticipants (s : State) (n : Nat) : List Nat :=
  if n < 15 then participants s 2 0 (12 + n)
  else if s.sec.openOut || (activePlace s).isSome then stallsWhere s (fun _ => true) else []

/-- A stall has arrived at a wafer line. -/
def arrivedAt (s : State) (n sid : Nat) : Bool := if n < 15 then bitOf (s.stall sid).pend (12 + n) else g15Ready s sid

/-- The GATE block. A wafer line is held when a participant has arrived and, it not having opened, not all have. -/
def gateRead (s : State) (off : Nat) : Nat :=
  if off = 0 then
    let held (n : Nat) : Bool :=
      let ps := waferParticipants s n
      ps.any (fun sid => arrivedAt s n sid) && (decide (n < 15) || !ps.all (fun sid => arrivedAt s n sid))
    packBits [(0, 16, bitSet 16 held), (16, 16, s.sec.gphase)]
  else if 0x100 ≤ off ∧ off < 0x180 then
    let n := (off - 0x100) / 8
    let late := ((waferParticipants s n).filter (fun sid => !arrivedAt s n sid)).map yardOf
    bitSet 64 (fun y => late.contains y)
  else 0

/-! MBX (R334, R339, R340). -/

/-- A mailbox. -/
def boxRead (b : Mailbox) (off : Nat) : Nat :=
  match off with
  | 0x00 => b.door
  | 0x10 => b.mask
  | 0x18 => b.postLo.toNat
  | 0x20 => b.postHi.toNat
  | 0x28 => match b.queue.head? with | some n => n.1.toNat | none => 0
  | 0x30 => match b.queue.head? with | some n => n.2.toNat % 2 ^ 53 | none => 0
  | 0x40 => packBits [(0, 4, b.queue.length), flag 4 b.rxrdy, (8, 8, b.refused), (16, 32, b.posted)]
  | _ => 0

/-- A command ring. -/
def ringRead (k : Ring) (off : Nat) : Nat :=
  match off with
  | 0x00 => packBits [flag 0 k.en, flag 1 k.sec, (2, 5, k.log2), (7, 2, k.cluster), (16, 13, k.base)]
  | 0x08 => k.head
  | 0x10 => k.tail
  | 0x18 => packBits [flag 0 k.stopped, (8, 8, k.badhead)]
  | _ => 0

/-- The MBX block. -/
def mbxRead (s : State) (off : Nat) : Nat :=
  let m := s.mbx
  if off < 0xA00 then boxRead (s.box (off / 0x100)) (off % 0x100)
  else if 0x1000 ≤ off ∧ off < 0x1200 then ringRead (s.ring ((off - 0x1000) / 0x40)) (off % 0x40)
  else match off with
  | 0x2000 => packBits [(0, 17, m.prottop)]
  | 0x2008 => packBits [(0, 17, m.nsbase), (17, 17, m.nsblks)]
  | 0x2010 => packBits [flag 0 m.ibi, flag 1 m.evt, (2, 2, m.hcluster)]
  | 0x2018 => packBits [(8, 21, m.svcBase), (32, 13, m.svcSlots)]
  | 0x2020 => packBits [(0, 32, m.drops)]
  | _ => 0

/-! PORT, MARS (R313-R319, R256-R259, R276-R280). -/

/-- A PORT block. -/
def portRead (q : Port) (off : Nat) : Nat :=
  if 0x100 ≤ off ∧ off < 0x140 then
    let k := (off - 0x100) / 8
    packBits [(0, 32, gget q.errbits k), flag 32 (bitOf q.ready k), flag 33 (bitOf q.pol k), (34, 3, gget q.attempts k)]
  else if 0x800 ≤ off ∧ off < 0xC00 then
    (gget (gget q.ctxs ((off - 0x800) / 0x20)).desc (off % 0x20 / 8)).toNat
  else if 0xC00 ≤ off ∧ off < 0xD00 then
    let x := gget q.ctxs ((off - 0xC00) / 8)
    packBits [(0, 3, x.st), flag 3 x.gapseen, flag 4 x.bfail, flag 5 x.miss, (6, 25, x.ack), (31, 25, x.credit), (56, 8, x.rsrq)]
  else match off with
  | 0x000 => packBits [flag 0 q.en, (1, 2, q.maxrate), (3, 2, q.minw), flag 5 q.host, flag 6 q.tsrc, (16, 8, q.tryint)]
  | 0x010 =>
    packBits [(0, 3, q.st), (3, 2, q.rate), (5, 2, q.width), (7, 8, q.lanes), (15, 2, q.role), flag 17 q.kp, (24, 8, q.fails), (32, 3, q.qcause)]
  | 0x018 => packBits [flag 0 q.errAuth, flag 1 q.errBer, flag 2 q.leftUp]
  | 0x020 => packBits [(0, 16, q.crcfail), (16, 16, q.gcmfail), (32, 16, q.replays), (48, 16, q.malform)]
  | 0x028 => packBits [(0, 16, q.unauth), (16, 16, q.uncorr), (32, 16, q.retrains), (48, 16, q.rekeys)]
  | 0x030 => q.peer.toNat
  | 0xD08 => packBits [(0, 5, q.mctx), (5, 2, q.mcmd), flag 8 q.merr]
  | 0xD10 => packBits [(0, 16, q.dupdrop), (16, 16, q.overrun), (32, 16, q.bfails), (48, 16, q.misses)]
  | _ => 0

/-- The MARS block. -/
def marsRead (s : State) (off : Nat) : Nat :=
  let m := s.mars
  if off < 0x400000 then (gget m.verA (off / 8)).toNat
  else if off < 0x800000 then (gget m.verB ((off - 0x400000) / 8)).toNat
  else if 0x801000 ≤ off ∧ off < 0x801800 then (gget (s.bucket ((off - 0x801000) / 0x20)).desc (off % 0x20 / 8)).toNat
  else if 0x801800 ≤ off ∧ off < 0x801A00 then
    let b := s.bucket ((off - 0x801800) / 8)
    packBits [(0, 3, b.st), flag 3 b.agreed, (4, 2, b.rounds), flag 6 b.bound, flag 8 b.gchk, (9, 3, b.gcause), (13, 18, b.halves.length)]
  else if 0x801A00 ≤ off ∧ off < 0x801C00 then
    let b := s.bucket ((off - 0x801A00) / 8)
    packBits [(0, 32, b.sats), (32, 16, b.late), (48, 16, b.resends)]
  else if 0x801C00 ≤ off ∧ off < 0x801E00 then packBits [(0, 61, (s.bucket ((off - 0x801C00) / 8)).csum)]
  else if 0x801E00 ≤ off ∧ off < 0x802000 then packBits [(0, 61, (s.bucket ((off - 0x801E00) / 8)).asum)]
  else if 0x802000 ≤ off ∧ off < 0x802200 then packBits [(0, 61, (s.bucket ((off - 0x802000) / 8)).rsum)]
  else match off with
  | 0x800000 => packBits [flag 0 s.sec.inj, (16, 16, m.refused), flag 32 m.lostv, (33, 8, m.lport), (41, 5, m.lctx)]
  | 0x802200 => packBits [(0, 6, m.bctx), (6, 2, m.bcmd), flag 9 m.berr]
  | _ => 0

/-! YARD, sheds, stalls (R25-R28, R66, R67, R91, R92, R117, R121, R122, R143, R145, R146, R150, R173-R176, R191-R194, R260, R362, R379-R381,
R410, R469). -/

/-- The stall as software sees it: what a loss of state has left undefined reads free values (R354). -/
def seenStall (s : State) (sid : Nat) : Stall := ((s.stall sid).settle sid).settleCounts sid

/-- What SHED.WDATAw reads of a stall (R145). -/
def watchWord (s : State) (sid w : Nat) : Nat :=
  let t := s.stall sid
  match t.seq.lostNow with
  | some ev => leNat ((List.range 8).map (fun i => Config.freeByte ev (2 ^ 40 + 512 * sid + 8 * w + i)))
  | none => packBits [(0, 32, gget t.qu.wmsgs w), (32, 32, gget t.qu.wcycles w)]

/-- A stall status page. -/
def stallRead (s : State) (sid off : Nat) : Nat :=
  let t := seenStall s sid
  let q := t.seq
  match off with
  | 0x00 => packBits [(0, 9, q.pc), flag 9 t.bank, (10, 3, q.run), (14, 10, q.tag), (24, 5, q.queue), (32, 4, q.fcode), (36, 9, q.fpc)]
  | 0x08 => packBits [(0, 48, q.retired)]
  | 0x10 => packBits [(0, 32, q.dispatched)]
  | 0x18 => qstat s sid
  | 0x20 => packBits [(0, 27, t.pend), flag 27 ((s.sec.openOut || (activePlace s).isSome) && g15Ready s sid), (32, 27, t.active.mask.toNat)]
  | _ => 0

/-- The physical shed that SHED.PLACE names (R25). -/
def heldShed (s : State) (k : Nat) : Nat := k / 64 * 72 + k % 64 / 8 * 9 + (s.shed k).pscol

/-- A logical shed serves its sub-block (R469). -/
def shedServed (s : State) (k : Nat) : Bool :=
  !(s.rm.running.isSome && !(s.shed k).valid) && !shedAbsent s k && (s.yard (k / 64)).core && (s.yard (k / 64)).track

/-- The registers of a sub-block that are held whatever the shed does (R469). -/
def shedHeld (off : Nat) : Bool := decide (off = 0x0000 ∨ off = 0x0008 ∨ off = 0x0010 ∨ off = 0x00C0 ∨ off = 0x00C8)

/-- A shed sub-block that is served. -/
def shedRead (s : State) (k off : Nat) : Nat :=
  let h := s.shed k
  let p := s.pshed (pshedOf s k)
  if 0x0068 ≤ off ∧ off < 0x00A8 then
    let t := seenStall s (sidOf k h.tsel)
    fields 4 16 15 (fun j => t.tally ((off - 0x0068) / 8 * 4 + j))
  else if 0x0100 ≤ off ∧ off < 0x0180 then (gget h.wtag ((off - 0x0100) / 8)).toNat
  else if 0x0200 ≤ off ∧ off < 0x0400 then watchWord s (sidOf k h.wsel) ((off - 0x0200) / 8)
  else if 0x1000 ≤ off ∧ off < 0x5000 then stallRead s (sidOf k ((off - 0x1000) / 0x40)) (off % 0x40)
  else match off with
  | 0x0000 => packBits [(0, 4, h.pscol), (4, 3, k % 64 / 8), flag 8 h.valid, flag 9 h.absent]
  | 0x0008 => fields 8 8 5 (fun r => gget (s.pshed (heldShed s k)).rcol r)
  | 0x0010 => fields 8 8 5 (fun r => gget (s.pshed (heldShed s k)).rcol (r + 8))
  | 0x0020 => packBits [(0, 8, h.tolInx), (8, 8, h.tolF32)]
  | 0x0028 => packBits [(0, 32, h.replays), (32, 16, h.sats)]
  | 0x0030 => packBits [(0, 16, h.maskerr)]
  | 0x0038 => packBits [(0, 2, h.predMode), (4, 2, h.predNow)]
  | 0x0040 => packBits [(0, 16, h.made), (16, 16, h.seen), (32, 32, h.examined)]
  | 0x0048 => packBits [(0, 20, h.progCount), flag 20 h.fired, flag 21 h.cause, (22, 8, h.progStall)]
  | 0x0050 =>
    let g := h.gchk
    packBits [flag 0 g.drift, (1, 8, g.dstall), (9, 5, g.dtally), flag 14 g.under, (15, 8, g.ustall), (23, 5, g.utally), flag 28 g.leftopen,
          (29, 8, g.gstall), (37, 5, g.gline)]
  | 0x0058 => packBits [(0, 4, bitSet 4 (fun n => anyInShed s k (fun t => bitOf t.pend n))), (4, 4, h.phase), (8, 16, h.nopart)]
  | 0x0060 => h.tsel
  | 0x00A8 =>
    let n := pshedOf s k
    packBits [(0, 3, p.depth), (3, 3, p.proposed), (6, 5, nShed s n), (11, 2, nCause s n), (13, 5, p.bduty), flag 18 p.vetoed]
  | 0x00B0 =>
    packBits [(0, 8, p.tfloor.toNat), (8, 8, p.tloft.toNat), (16, 5, p.tlim), flag 21 p.hold, flag 22 p.parked, (23, 4, p.sfail), (27, 3, p.lfail)]
  | 0x00B8 => packBits [(0, 11, s.thm.mhz), (11, 5, p.dlim), (16, 16, p.droops), (32, 32, p.stretch)]
  | 0x00C0 => h.err
  | 0x00C8 => packBits [(0, 5, h.ecapCode), (5, 8, h.ecapStall), flag 13 h.ecapValid]
  | 0x0180 => h.wsel
  | _ => 0

/-- A yard control page. While the yard's track rail is off only the Groom's copies answer (R469). -/
def yardRead (s : State) (y off : Nat) : Nat :=
  let r := s.yard y
  if !r.track && !decide (off = 0x000 ∨ off = 0x008 ∨ off = 0x0C0 ∨ off = 0x0D0) then 0
  else if 0x060 ≤ off ∧ off < 0x0A0 then
    let sid := sidOf (y * 64 + bitsOf r.rtsel 5 0) (bitsOf r.rtsel 13 6)
    fields 8 8 8 (fun b => (routeTable s (bitOf r.rtsel 14)).entry sid ((off - 0x060) / 8 * 8 + b))
  else match off with
  | 0x000 => packBits [flag 0 r.lame, flag 1 r.valid, (8, 8, r.exh)]
  | 0x008 => fields 8 8 4 (fun row => gget r.rcol row)
  | 0x040 => packBits [(0, 32, r.cnt0), (32, 32, r.cnt1)]
  | 0x048 => packBits [(0, 32, r.retries), flag 32 r.linkfail, (33, 3, r.ldir), (36, 21, r.psid)]
  | 0x050 => packBits [(0, 16, r.unreach), (16, 16, r.fmiss), (32, 16, r.penwait), (48, 16, r.rtrefuse)]
  | 0x058 => r.rtsel
  | 0x0A0 => packBits [(0, 8, bitSet 8 (fun n => (shedsOfYard y).any (fun k => anyInShed s k (fun t => bitOf t.pend (4 + n))))), (8, 8, r.phase)]
  | 0x0B0 => packBits [(0, 32, r.lwcnt)]
  | 0x0C0 => packBits [flag 0 r.core, flag 1 r.track, flag 2 r.coretrip, flag 3 r.tracktrip, (4, 2, r.tcause), (8, 8, r.vrmt), (16, 16, r.corew)]
  | 0x0D0 => bitSet 64 (fun k => decide ((s.shed (y * 64 + k)).err ≠ 0))
  | _ => 0

/-! The address space (R464, R472). -/

/-- The block an address lies in, with the unit and the offset. -/
inductive Where where
  | dev (off : Nat)
  | grm (off : Nat)
  | pwr (off : Nat)
  | thm (off : Nat)
  | err (off : Nat)
  | sec (off : Nat)
  | gate (off : Nat)
  | mbx (off : Nat)
  | port (p off : Nat)
  | mars (off : Nat)
  | yard (y off : Nat)
  | shed (k off : Nat)
  | window
  | unassigned
  deriving DecidableEq, Repr

/-- Where a management address lies (R464, R472). -/
def whereIs (a : Nat) : Where :=
  let off := a % 0x10000
  match a / 0x10000 with
  | 0x00 => .dev off
  | 0x01 => .grm off
  | 0x02 => .pwr off
  | 0x03 => .thm off
  | 0x04 => .err off
  | 0x05 => .sec off
  | 0x06 => .gate off
  | 0x07 => .mbx off
  | _ =>
    if 0x100000 ≤ a ∧ a < 0x190000 then .port ((a - 0x100000) / 0x1000) (a % 0x1000)
    else if 0x1000000 ≤ a ∧ a < 0x1810000 then .mars (a - 0x1000000)
    else if 0x10000000 ≤ a ∧ a < 0x50000000 then
      let y := (a - 0x10000000) / 0x1000000
      let sh := a % 0x1000000 / 0x40000
      let o := a % 0x40000
      if sh = 0 ∧ 0x3F000 ≤ o then .yard y (o - 0x3F000) else .shed (y * 64 + sh) o
    else if 0x8000000000 ≤ a ∧ a < 0x8020000000 then .window
    else if 0x8040000000 ≤ a ∧ a < 0x8040010000 then .window
    else .unassigned

/-- What a register reads (R467). The address is a multiple of 8; outside the blocks nothing is read. -/
def regRead (s : State) (a : Nat) : Nat :=
  match whereIs a with
  | .dev off => devRead s off
  | .grm off => grmRead s off
  | .pwr off => pwrRead s off
  | .thm off => thmRead s off
  | .err off => errRead s off
  | .sec off => secRead s off
  | .gate off => gateRead s off
  | .mbx off => mbxRead s off
  | .port p off => portRead (s.port p) off
  | .mars off => marsRead s off
  | .yard y off => yardRead s y off
  | .shed k off => if shedServed s k || shedHeld off then shedRead s k off else 0
  | .window => 0
  | .unassigned => 0

end Sys2Proof.Machine
end

