-- ==== Sys2Proof/Machine/Access.lean ====
section
/-! DEFINITION. Writes of registers under their access codes (R9, R467-R469), the memory windows (R327, R328), management transactions
(R308, R309), and the rows that make them. -/

namespace Sys2Proof.Machine

/-! Writes of registers. A write that a register's side may not make answers none: STATUS 2 (R334, R468). -/

/-- Bits that a write of 1 clears (R9, RW1C). -/
def w1c (v data : Nat) : Nat := v &&& (data ^^^ (2 ^ 64 - 1))

/-- A flag that a write of 1 clears. -/
def clearIf (v : Bool) (data i : Nat) : Bool := v && !bitOf data i

/-- A write of an address in DEV. -/
def devWrite (off data : Nat) (s : State) : State :=
  match off with
  | 0x018 => writeBootctl data s
  | 0x020 => if bitsOf data 11 8 = 15 then { s with dev := { s.dev with bootErr := 0 } } else s
  | 0x030 => writeReset data s
  | _ => s

/-- A write of an address in GRM. -/
def grmWrite (off data : Nat) (s : State) : State :=
  match off with
  | 0x008 => writeLock data s
  | 0x800 => { s with grm := { s.grm with repair := clearIf s.grm.repair data 2 } }
  | 0x818 => if s.grm.lock then s else { s with grm := { s.grm with predret := bitOf data 0 } }
  | _ => s

/-- A write of an address in PWR. -/
def pwrWrite (off data : Nat) (s : State) : State :=
  match off with
  | 0x00 => writeCap data s
  | 0x08 => { s with pwr := { s.pwr with up := bitsOf data 9 0, down := bitsOf data 25 16 } }
  | 0x10 => writeStagger data s
  | 0x18 => { s with pwr := { s.pwr with stagt0 := data } }
  | 0x20 => writeLshed data s
  | 0x28 => { s with pwr := { s.pwr with maxdepth := bitsOf data 2 0 } }
  | 0x30 => writeNextev data s
  | 0x38 => { s with pwr := { s.pwr with nextpw := bitsOf data 15 0 } }
  | _ => s

/-- A write of an address in THM. -/
def thmWrite (off data : Nat) (s : State) : State :=
  match off with
  | 0x00 => writeThmClk data s
  | 0x08 => writeThmCfg data s
  | _ => s

/-- A write of an address in ERR. -/
def errWrite (off data : Nat) (s : State) : State :=
  match off with
  | 0x000 => { s with err := { s.err with sticky := w1c s.err.sticky data } }
  | 0x018 => { s with err := { s.err with alerten := bitsOf data 24 0 } }
  | 0x020 => { s with err := { s.err with fvalid := clearIf s.err.fvalid data 28 } }
  | 0x100 => writeLctrl data s
  | 0x108 => { s with err := { s.err with lrefused := clearIf s.err.lrefused data 2 } }
  | _ => s

/-- The bits of SEC.LOADSRC that a write sets (R227). -/
def loadsrcMask : Nat := 0xFFFFFFFF1FFFFFC1

/-- A write of an address in SEC. -/
def secWrite (off data : Nat) (s : State) : State :=
  if 0x100 ≤ off ∧ off < 0x138 then
    if bitsOf data 15 8 = 0xFF then cmdErr s ((off - 0x100) / 8) 0 else s
  else match off with
  | 0x000 => writeSecCtrl data s
  | 0x008 => { s with sec := { s.sec with loadsrc := BitVec.ofNat 64 (data &&& loadsrcMask) } }
  | 0x018 => { s with sec := { s.sec with late := clearIf s.sec.late data 2 } }
  | 0x800 => writeEpoch data s
  | _ => s

/-- A write of an address in a mailbox, by the side that may make it (R334). -/
def boxWrite (o : Origin) (n off data : Nat) (s : State) : Option State :=
  let sender := decide (partyOf o = senderOf n)
  let receiver := decide (partyOf o = receiverOf n)
  let by_ (side : Bool) (t : State) : Option State := if side then some t else none
  if !boxReach o n then none
  else match off with
  | 0x00 => by_ receiver (clearDoor n data s)
  | 0x08 => by_ sender (ringBox s n data)
  | 0x10 => by_ receiver (writeMask n data s)
  | 0x18 => by_ sender (modBox s n fun b => { b with postLo := BitVec.ofNat 64 data })
  | 0x20 => by_ sender (post n data s)
  | 0x38 => by_ receiver (writePop n data s)
  | 0x40 => by_ receiver (setRxrdy n (bitOf data 4) s)
  | _ => some s

/-- A write of an address in a command ring (R339, R468). -/
def ringWrite (o : Origin) (r off data : Nat) (s : State) : Option State :=
  let inside := Origin.internal o
  match off with
  | 0x00 => if inside then some (modRing s r (Ring.configure data)) else none
  | 0x08 => if headReach o (s.ring r) then some (writeHead r data s) else none
  | 0x10 => if inside then some (writeTail r data s) else none
  | 0x18 => if inside then some (modRing s r fun k => { k with stopped := clearIf k.stopped data 0 }) else none
  | _ => some s

/-- A write of an address in MBX. -/
def mbxWrite (o : Origin) (off data : Nat) (s : State) : Option State :=
  let inside := Origin.internal o
  if off < 0xA00 then boxWrite o (off / 0x100) (off % 0x100) data s
  else if 0x1000 ≤ off ∧ off < 0x1200 then ringWrite o ((off - 0x1000) / 0x40) (off % 0x40) data s
  else match off with
  | 0x2000 =>
    if !inside then none else some (if s.grm.lock then s else { s with mbx := { s.mbx with prottop := bitsOf data 16 0 } })
  | 0x2008 => if inside then some { s with mbx := { s.mbx with nsbase := bitsOf data 16 0, nsblks := bitsOf data 33 17 } } else none
  | 0x2010 =>
    if inside then some { s with mbx := { s.mbx with ibi := bitOf data 0, evt := bitOf data 1, hcluster := bitsOf data 3 2 } } else none
  | 0x2018 =>
    if inside then some { s with mbx := { s.mbx with svcBase := bitsOf data 28 8, svcSlots := bitsOf data 44 32, svcPos := 0, svcFill := 0 } }
    else none
  | _ => some s

/-- A write of an address in a PORT block. -/
def portWrite (o : Origin) (p off data : Nat) (s : State) : State :=
  if 0x800 ≤ off ∧ off < 0xC00 then
    modCtx s p ((off - 0x800) / 0x20) fun x =>
      if x.st = 1 ∨ x.st = 2 ∨ x.st = 3 then x else { x with desc := gset x.desc (off % 0x20 / 8) (BitVec.ofNat 64 data) }
  else if 0xC00 ≤ off ∧ off < 0xD00 then
    modCtx s p ((off - 0xC00) / 8) fun x =>
      { x with gapseen := clearIf x.gapseen data 3, bfail := clearIf x.bfail data 4, miss := clearIf x.miss data 5 }
  else match off with
  | 0x000 => writePortCfg p data s
  | 0x008 => writePortCtrl o p data s
  | 0x018 => modPort s p fun q =>
      { q with errAuth := clearIf q.errAuth data 0, errBer := clearIf q.errBer data 1, leftUp := clearIf q.leftUp data 2 }
  | 0x030 => if s.grm.lock then s else modPort s p fun q => { q with peer := BitVec.ofNat 64 data }
  | 0xD08 => writeMctrl p data s
  | _ => s

/-- A write of an address in MARS. -/
def marsWrite (off data : Nat) (s : State) : State :=
  if off < 0x400000 then writeEntry false (off / 8) (BitVec.ofNat 64 data) s
  else if off < 0x800000 then writeEntry true ((off - 0x400000) / 8) (BitVec.ofNat 64 data) s
  else if 0x801000 ≤ off ∧ off < 0x801800 then
    modBucket s ((off - 0x801000) / 0x20) fun b =>
      if b.st = 0 ∨ b.st = 5 ∨ b.st = 6 ∨ b.st = 7 then { b with desc := gset b.desc (off % 0x20 / 8) (BitVec.ofNat 64 data) } else b
  else if 0x801800 ≤ off ∧ off < 0x801A00 then modBucket s ((off - 0x801800) / 8) fun b => { b with gchk := clearIf b.gchk data 8 }
  else match off with
  | 0x800000 => { s with mars := { s.mars with lostv := clearIf s.mars.lostv data 32 } }
  | 0x802200 => writeBctrl data s
  | _ => s

/-- A write of SHED.PRED (R117): MODE from the next flip, and PCLR. -/
def writePred (k data : Nat) (s : State) : State :=
  modShed s k fun h =>
    let h := { h with predMode := bitsOf data 1 0 }
    if bitOf data 2 then { h with made := 0, seen := 0, examined := 0 } else h

/-- The bits of SHED.WTAGi that a write sets (R143). -/
def wtagMask : Nat := 0x83FF83FF83FF83FF

/-- A write of an address in a shed sub-block that is served. -/
def shedWrite (k off data : Nat) (s : State) : State :=
  if 0x0100 ≤ off ∧ off < 0x0180 then
    modShed s k fun h => { h with wtag := gset h.wtag ((off - 0x0100) / 8) (BitVec.ofNat 64 (data &&& wtagMask)) }
  else match off with
  | 0x0020 => modShed s k fun h => { h with tolInx := bitsOf data 7 0, tolF32 := bitsOf data 15 8 }
  | 0x0038 => writePred k data s
  | 0x0050 => modShed s k fun h =>
      { h with gchk := { h.gchk with drift := clearIf h.gchk.drift data 0, under := clearIf h.gchk.under data 14,
                                     leftopen := clearIf h.gchk.leftopen data 28 } }
  | 0x0060 => modShed s k fun h => { h with tsel := bitsOf data 7 0 }
  | 0x00C0 => modShed s k fun h => { h with err := w1c h.err data }
  | 0x00C8 => modShed s k fun h => { h with ecapValid := clearIf h.ecapValid data 13 }
  | 0x0180 => modShed s k fun h => { h with wsel := bitsOf data 7 0 }
  | _ => s

/-- A write of an address in a yard control page. While the track rail is off only the Groom's copies take it (R469). -/
def yardWrite (y off data : Nat) (s : State) : State :=
  if !(s.yard y).track && !decide (off = 0x0C0) then s
  else match off with
  | 0x048 => modYard s y fun r => { r with linkfail := clearIf r.linkfail data 32 }
  | 0x058 => modYard s y fun r => { r with rtsel := bitsOf data 14 0 }
  | 0x0C0 => modYard s y fun r => { r with coretrip := clearIf r.coretrip data 2, tracktrip := clearIf r.tracktrip data 3 }
  | _ => s

/-- The effect of a register write on the state, or none where it is refused with STATUS 2 (R328, R334, R339, R409, R468). -/
def regWrite (o : Origin) (a data : Nat) (s : State) : Option State :=
  let auth (t : State) : Option State := if Origin.auth o then some t else none
  match whereIs a with
  | .dev off => auth (devWrite off data s)
  | .grm off => auth (grmWrite off data s)
  | .pwr off => auth (pwrWrite off data s)
  | .thm off => auth (thmWrite off data s)
  | .err off => if (off = 0x100 ∨ off = 0x108) ∧ !Origin.internal o then none else auth (errWrite off data s)
  | .sec off => auth (secWrite off data s)
  | .gate _ => auth s
  | .mbx off => mbxWrite o off data s
  | .port p off => auth (portWrite o p off data s)
  | .mars off => auth (marsWrite off data s)
  | .yard y off => auth (yardWrite y off data s)
  | .shed k off => auth (if shedServed s k || shedHeld off then shedWrite k off data s else s)
  | .window => some s
  | .unassigned => some s

/-- A register may be read from an origin (R328, R339). -/
def readable (o : Origin) (a : Nat) (s : State) : Bool :=
  match whereIs a with
  | .mbx off =>
    if off < 0xA00 then boxReach o (off / 0x100)
    else if 0x1000 ≤ off ∧ off < 0x1200 then Origin.auth o || !(s.ring ((off - 0x1000) / 0x40)).sec
    else true
  | _ => true

/-! Register accesses with their answers (R308, R465, R466). -/

/-- A register access gets STATUS 4: it is not aligned (R466), it names a window (R327), or it lies in no block (R465). -/
def badAddress (a : Nat) : Bool := decide (a % 8 ≠ 0 ∨ whereIs a = .window ∨ whereIs a = .unassigned)

/-- The answer to an address error: a core reads 0 from an unassigned address and its write is ignored (R465). -/
def addressError (o : Origin) (a : Nat) (s : State) : State :=
  if Origin.internal o && decide (a % 8 = 0 ∧ whereIs a = .unassigned) then answer s 0 0 [] else answer s 4 0 []

/-- OP 0: a register read. Nothing but the answer changes (R467). -/
def readReg (o : Origin) (a : Nat) (s : State) : State :=
  if badAddress a then addressError o a s
  else if readable o a s then answer s 0 (BitVec.ofNat 64 (regRead s a)) []
  else answer s 2 0 []

/-- OP 1: a register write. -/
def writeReg (o : Origin) (a data : Nat) (s : State) : State :=
  if badAddress a then addressError o a s
  else match regWrite o a data s with
    | some t => answer t 0 0 []
    | none => answer s 2 0 []

/-! Windows (R327, R328). -/

/-- A window access: where it lands, or the STATUS that refuses it. -/
inductive WindowAt where
  | hostler (a : Nat)
  | groom (a : Nat)
  | refused (status : Nat)
  deriving DecidableEq, Repr

/-- An origin may reach bytes of Hostler memory through the window (R328, R340). The limits bind management origins only. -/
def hmemReach (o : Origin) (s : State) (a n : Nat) : Bool :=
  if Origin.internal o then true
  else if a < s.mbx.prottop * 4096 then false
  else Origin.auth o || (decide (s.mbx.nsbase * 4096 ≤ a) && decide (a + n ≤ (s.mbx.nsbase + s.mbx.nsblks) * 4096))

/-- Where a window access of `n` bytes lands. -/
def windowAt (o : Origin) (s : State) (addr n : Nat) : WindowAt :=
  if n < 1 ∨ 224 < n then .refused 4
  else if 0x8000000000 ≤ addr ∧ addr < 0x8020000000 then
    let a := addr - 0x8000000000
    if 0x20000000 < a + n then .refused 4 else if hmemReach o s a n then .hostler a else .refused 2
  else if 0x8040000000 ≤ addr ∧ addr < 0x8040010000 then
    let a := addr - 0x8040000000
    if 0x10000 < a + n then .refused 4 else if Origin.auth o then .groom a else .refused 2
  else .refused 4

/-- OP 2: a window read. -/
def readWindow (o : Origin) (addr n : Nat) (s : State) : State :=
  match windowAt o s addr n with
  | .hostler a => answer s 0 0 (Memory.readBytes s.hmem a n)
  | .groom a => answer s 0 0 (Memory.readBytes s.gwin a n)
  | .refused st => answer s st 0 []

/-- OP 3: a window write. -/
def writeWindow (o : Origin) (addr : Nat) (data : List Byte) (s : State) : State :=
  match windowAt o s addr data.length with
  | .hostler a => answer { s with hmem := Memory.writeBytes s.hmem a data } 0 0 []
  | .groom a => answer { s with gwin := Memory.writeBytes s.gwin a data } 0 0 []
  | .refused st => answer s st 0 []

/-- REGISTER_WRITE (R467). -/
def execRegisterWrite (o : Origin) (addr : BitVec 40) (data : Word64) (s : State) : Host.Outcome State Fault Refusal :=
  .next (writeReg o addr.toNat data.toNat s)
/-- WINDOW_READ (R327). -/
def execWindowRead (o : Origin) (addr : BitVec 40) (wlen : Nat) (s : State) : Host.Outcome State Fault Refusal :=
  .next (readWindow o addr.toNat wlen s)
/-- WINDOW_WRITE (R327). -/
def execWindowWrite (o : Origin) (addr : BitVec 40) (data : List Byte) (s : State) : Host.Outcome State Fault Refusal :=
  .next (writeWindow o addr.toNat data s)
/-- PCLR (R117, R469): a write of SHED.PRED with PCLR 1 and MODE as it stands. -/
def execPclr (o : Origin) (yard : YardId) (shed : ShedNo) (s : State) : Host.Outcome State Fault Refusal :=
  let k := shedKey yard shed
  .next (asAuth o s (fun s => if shedServed s k then writePred k (4 + (s.shed k).predMode % 4) s else s))

/-! Management transactions (R308, R309). -/

/-- A transaction: OP, address, register data, WLEN and window data. -/
structure Trans where
  op   : Nat
  addr : Nat
  data : Nat
  wlen : Nat
  wdata : List Byte
  deriving DecidableEq, Repr

/-- Execute a transaction; the answer is in `resp` (R308). -/
def transact (o : Origin) (t : Trans) (s : State) : State :=
  if t.op = 0 then readReg o t.addr s
  else if t.op = 1 then writeReg o t.addr t.data s
  else if t.op = 2 then readWindow o t.addr t.wlen s
  else if t.wlen < 1 ∨ 224 < t.wlen then answer s 4 0 []
  else writeWindow o t.addr (padTo t.wlen t.wdata) s

/-- The transaction of an MGMT payload. -/
def transOf (op : Nat) (payload : List Byte) : Trans :=
  { op := op, addr := leAt payload 8 8, data := leAt payload 16 8, wlen := leAt payload 24 2, wdata := payload.drop 32 }

/-- W1 of a response: RESP 1 and the STATUS, with TID, OP and ORIG of the request (R293, R308). -/
def respW1 (w1 status : Nat) : Nat := setBits (setBits w1 18 18 1) 21 19 status

/-- Send a response: the request's address and length with the answer (R308). A port that the request itself took out of UP sends none. -/
def respond (s : State) (p w1 : Nat) (payload : List Byte) (r : Resp) : State :=
  let body := leBytes 8 s.fuses.serial ++ slice payload 8 8 ++ leBytes 8 r.data.toNat ++ slice payload 24 2 ++ leBytes 6 0 ++ padTo 224 r.bytes
  if (s.port p).st = 4 then sendCar s p (mkCar 6 3 (respW1 w1 r.status) 0 0 body) else s

/-- Forward a request from the host-mode port (R309). With no UP Keadigor port it waits for its timeout (log 36). -/
def forward (s : State) (p w1 : Nat) (payload : List Byte) : State :=
  let b : Bridged := ⟨bitsOf w1 15 0, keadigorPort s, w1, payload⟩
  let s := modPort s p fun q => { q with bridged := q.bridged ++ [b] }
  match b.via with
  | some k => sendCar s k (mkCar 6 3 w1 0 0 payload)
  | none => s

/-- The host-mode port, UP or not, that holds a forwarded request of a TID sent on a port (R309). -/
def bridgeOf (s : State) (via tid : Nat) : Option Nat :=
  (List.range 144).find? (fun p => (s.port p).host && (s.port p).bridged.any (fun b => decide (b.via = some via) && decide (b.tid = tid)))

/-- The first outstanding request that satisfies `f` is outstanding no longer. -/
def dropBridged (s : State) (p : Nat) (f : Bridged → Bool) : State := modPort s p fun q => { q with bridged := q.bridged.eraseP f }

/-- A response comes back on the port its request went out on, and goes on to the host (R309). Any other response is dropped. -/
def takeResponse (s : State) (p w1 : Nat) (payload : List Byte) : State :=
  let tid := bitsOf w1 15 0
  match bridgeOf s p tid with
  | none => s
  | some h => sendCar (dropBridged s h (fun b => decide (b.via = some p) && decide (b.tid = tid))) h (mkCar 6 3 w1 0 0 payload)

/-- A request arrives at a port (R308, R309). -/
def takeRequest (s : State) (p w1 : Nat) (payload : List Byte) : State :=
  let host := (s.port p).host
  if leAt payload 0 8 ≠ s.fuses.serial then
    if host then forward s p w1 payload else respond s p w1 payload ⟨1, 0, []⟩
  else
    let o : Origin := if host then .hostPort else .keadigor (bitOf w1 22)
    let s := transact o (transOf (bitsOf w1 17 16) payload) s
    respond s p w1 payload s.resp

/-- MGMT (R308, R309). -/
def execMgmt (port : PortId) (car : RxCar) (s : State) : Host.Outcome State Fault Refusal :=
  .next (
    if car.typ ≠ 6 then s
    else match receiveCar s port car with
      | .drop s => s
      | .take s =>
        let w1 := car.w1.toNat
        if bitOf w1 18 then takeResponse s port w1 car.payload else takeRequest s port w1 car.payload)

/-- BRIDGE_TIMEOUT (R309): 10 ms without a response (log 3). -/
def execBridgeTimeout (port : PortId) (tid : BitVec 16) (s : State) : Host.Outcome State Fault Refusal :=
  .next (
    match (s.port port).bridged.find? (fun b => decide (b.tid = tid.toNat)) with
    | none => s
    | some b => respond (dropBridged s port (fun b => decide (b.tid = tid.toNat))) port b.w1 b.payload ⟨3, 0, []⟩)

end Sys2Proof.Machine
end

