-- ==== Sys2Proof/Machine/Formats.lean ====
section
/-! DEFINITION. The element formats (R68, R69), rounding and conversion (R70, R71, R484, R485), the arithmetic of one element, and
the approximations (R56, log 14). A finite value is held exactly as a sign, a magnitude m and a power of two: m * 2^e. -/

namespace Sys2Proof.Machine

/-- A floating format of R68: exponent bits, mantissa bits, bias, the greatest finite magnitude pattern, whether it has infinities and
NaN patterns of IEEE kind. -/
structure Flt where
  eb   : Nat
  mb   : Nat
  bias : Nat
  top  : Nat
  ieee : Bool
  deriving DecidableEq, Repr

/-- FP32. -/
def fp32 : Flt := ⟨8, 23, 127, 0x7F7FFFFF, true⟩
/-- BF16. -/
def bf16 : Flt := ⟨8, 7, 127, 0x7F7F, true⟩
/-- FP16. -/
def fp16 : Flt := ⟨5, 10, 15, 0x7BFF, true⟩
/-- FP8 E4M3. -/
def e4m3 : Flt := ⟨4, 3, 7, 0x7E, false⟩
/-- FP8 E5M2. -/
def e5m2 : Flt := ⟨5, 2, 15, 0x7B, true⟩
/-- FP6 E3M2. -/
def e3m2 : Flt := ⟨3, 2, 3, 0x1F, false⟩
/-- FP6 E2M3. -/
def e2m3 : Flt := ⟨2, 3, 1, 0x1F, false⟩
/-- FP4 E2M1. -/
def e2m1 : Flt := ⟨2, 1, 1, 0x7, false⟩

/-- The floating format of a code, none for the integer codes 3, 4 and 10 (R68). -/
def fltOf (code : Nat) : Option Flt :=
  match code with
  | 0 => some fp32 | 1 => some bf16 | 2 => some fp16 | 5 => some e4m3 | 6 => some e5m2 | 7 => some e3m2 | 8 => some e2m3
  | 9 => some e2m1 | _ => none

/-- Element width in bits of a format code (R68). -/
def widthOf (code : Nat) : Nat :=
  match code with
  | 0 => 32 | 1 => 16 | 2 => 16 | 3 => 8 | 4 => 32 | 5 => 8 | 6 => 8 | 7 => 6 | 8 => 6 | _ => 4

/-- An element's value. The payload of a NaN is held in the 22 bits below FP32's quiet bit, most significant first (R484). -/
inductive FV where
  | nan (neg : Bool) (pay : Nat)
  | inf (neg : Bool)
  | fin (neg : Bool) (m : Nat) (e : Int)
  deriving DecidableEq, Repr

/-- The canonical NaN (R484). -/
def FV.canon : FV := .nan false 0
/-- Zero with a sign. -/
def FV.zero (neg : Bool) : FV := .fin neg 0 0
/-- An integer as a value. -/
def FV.ofInt (x : Int) : FV := .fin (decide (x < 0)) x.natAbs 0
/-- The value is a NaN. -/
def FV.isNan : FV → Bool
  | .nan _ _ => true
  | .inf _ => false
  | .fin _ _ _ => false
/-- The value is a NaN or an infinity (R84). -/
def FV.special : FV → Bool
  | .nan _ _ => true
  | .inf _ => true
  | .fin _ _ _ => false
/-- The value negated. -/
def FV.neg : FV → FV
  | .nan n p => .nan n p
  | .inf n => .inf (!n)
  | .fin n m e => .fin (!n) m e
/-- The value times a power of two. -/
def FV.scale (k : Int) : FV → FV
  | .nan n p => .nan n p
  | .inf n => .inf n
  | .fin n m e => .fin n m (e + k)

/-- Read a floating pattern (R68, R484). -/
def Flt.read (f : Flt) (v : Nat) : FV :=
  let neg := bitOf v (f.eb + f.mb)
  let ex := bitsOf v (f.eb + f.mb - 1) f.mb
  let ma := v % 2 ^ f.mb
  let emin : Int := 1 - (f.bias : Int) - (f.mb : Int)
  let special := if f.ieee then decide (ex = 2 ^ f.eb - 1) else decide (f.eb = 4 ∧ ex = 15 ∧ ma = 7)
  if special then
    if f.ieee && decide (ma = 0) then .inf neg
    else .nan neg (ma % 2 ^ (f.mb - 1) * 2 ^ (22 - (f.mb - 1)))
  else if ex = 0 then .fin neg ma emin
  else .fin neg (2 ^ f.mb + ma) (emin + (ex : Int) - 1)

/-- Read an element of a format code: floating, or an integer (R68). -/
def readFmt (code v : Nat) : FV :=
  match fltOf code with
  | some f => f.read v
  | none => .ofInt (signedOf (widthOf code) v)

/-! Rounding. -/

/-- A rounding (R71): to nearest even, toward zero, or stochastic with the 16-bit number r. -/
inductive Rnd where
  | even
  | zero
  | stoch (r : Nat)
  deriving DecidableEq, Repr

/-- m / 2^k rounded to an integer (R71). -/
def roundShift (rnd : Rnd) (m k : Nat) : Nat :=
  let q := m / 2 ^ k
  let r := m % 2 ^ k
  match rnd with
  | .even => if 2 ^ k < 2 * r ∨ (2 ^ k = 2 * r ∧ q % 2 = 1) then q + 1 else q
  | .zero => q
  | .stoch x => if x < r * 65536 / 2 ^ k then q + 1 else q

/-- m * 2^e rounded to a multiple of 2^u, in units of 2^u. -/
def roundUnits (rnd : Rnd) (m : Nat) (e u : Int) : Nat :=
  if u ≤ e then m * 2 ^ (e - u).toNat else roundShift rnd m (u - e).toNat

/-- The magnitude pattern of m * 2^e rounded to a format with unbounded exponent: patterns above `top` lie beyond its range. -/
def Flt.magnitude (f : Flt) (rnd : Rnd) (m : Nat) (e : Int) : Nat :=
  if m = 0 then 0
  else
    let base : Int := 1 - (f.bias : Int) - (f.mb : Int)
    let u := max ((Nat.log2 m : Int) + e - (f.mb : Int)) base
    (u - base).toNat * 2 ^ f.mb + roundUnits rnd m e u

/-- The pattern with a sign. -/
def Flt.signed (f : Flt) (neg : Bool) (mag : Nat) : Nat := b2n neg * 2 ^ (f.eb + f.mb) + mag
/-- The pattern of an infinity, or of the greatest finite value where the format has none (R70). -/
def Flt.infinity (f : Flt) : Nat := if f.ieee then (2 ^ f.eb - 1) * 2 ^ f.mb else f.top
/-- The pattern of a NaN (R70, R484): 0 in FP6 and FP4. -/
def Flt.nanPat (f : Flt) (neg : Bool) (pay : Nat) : Nat :=
  if f.ieee then f.signed neg ((2 ^ f.eb - 1) * 2 ^ f.mb + 2 ^ (f.mb - 1) + pay / 2 ^ (22 - (f.mb - 1)) % 2 ^ (f.mb - 1))
  else if f.eb = 4 then f.signed neg 0x7F
  else 0

/-- Convert a value to a floating format (R70, R71, R485). -/
def Flt.write (f : Flt) (rnd : Rnd) : FV → Nat
  | .nan n p => f.nanPat n p
  | .inf n => f.signed n f.infinity
  | .fin n m e =>
    let mag := f.magnitude rnd m e
    if f.top < mag then f.signed n (if rnd = .zero then f.top else f.infinity) else f.signed n mag

/-- Convert a value to a `w`-bit integer (R70): rounded, saturated, NaN to 0. -/
def writeInt (w : Nat) (rnd : Rnd) : FV → Nat
  | .nan _ _ => 0
  | .inf n => patternOf w (if n then -((2 ^ (w - 1) : Nat) : Int) else ((2 ^ (w - 1) : Nat) : Int) - 1)
  | .fin n m e =>
    let q := roundUnits rnd m e 0
    let x : Int := if n then -(q : Int) else (q : Int)
    patternOf w (clampInt x (-((2 ^ (w - 1) : Nat) : Int)) (((2 ^ (w - 1) : Nat) : Int) - 1))

/-- Convert a value to a format code (R70). -/
def writeFmt (code : Nat) (rnd : Rnd) (v : FV) : Nat :=
  match fltOf code with
  | some f => f.write rnd v
  | none => writeInt (widthOf code) rnd v

/-! Exact arithmetic. -/

/-- The signed integer of a finite value in units of 2^u, for u at most its exponent. -/
def unitsAt (n : Bool) (m : Nat) (e u : Int) : Int :=
  let x : Int := (m * 2 ^ (e - u).toNat : Nat)
  if n then -x else x

/-- A + B exactly (R484, R485). -/
def FV.add (a b : FV) : FV :=
  match a, b with
  | .nan n p, _ => .nan n p
  | _, .nan n p => .nan n p
  | .inf n, .inf k => if n = k then .inf n else .canon
  | .inf n, .fin _ _ _ => .inf n
  | .fin _ _ _, .inf n => .inf n
  | .fin n m e, .fin k q d =>
    let u := min e d
    let x := unitsAt n m e u + unitsAt k q d u
    if x = 0 then .fin (decide (m = 0) && decide (q = 0) && n && k) 0 0 else .fin (decide (x < 0)) x.natAbs u

/-- A - B exactly; a NaN keeps its sign (R484). -/
def FV.sub (a b : FV) : FV := a.add b.neg

/-- A * B exactly (R484, R485). -/
def FV.mul (a b : FV) : FV :=
  match a, b with
  | .nan n p, _ => .nan n p
  | _, .nan n p => .nan n p
  | .inf n, .inf k => .inf (n != k)
  | .inf n, .fin k m _ => if m = 0 then .canon else .inf (n != k)
  | .fin k m _, .inf n => if m = 0 then .canon else .inf (n != k)
  | .fin n m e, .fin k q d => .fin (n != k) (m * q) (e + d)

/-- A * B + D exactly; a NaN operand is taken in the order A, B, D (R484). -/
def FV.fma (a b d : FV) : FV :=
  match a, b, d with
  | .nan n p, _, _ => .nan n p
  | .inf _, .nan n p, _ => .nan n p
  | .fin _ _ _, .nan n p, _ => .nan n p
  | a, b, .nan n p => if a.isNan || b.isNan then a.mul b else .nan n p
  | a, b, d => (a.mul b).add d

/-- The order of non-NaN values, with -0 below +0 (R487): a < b. -/
def FV.below (a b : FV) : Bool :=
  match a, b with
  | .nan _ _, _ => false
  | _, .nan _ _ => false
  | .inf n, .inf k => n && !k
  | .inf n, .fin _ _ _ => n
  | .fin _ _ _, .inf k => !k
  | .fin n m e, .fin k q d =>
    let u := min e d
    let x := unitsAt n m e u
    let y := unitsAt k q d u
    decide (x < y) || (decide (x = 0) && decide (y = 0) && n && !k)

/-- The IEEE 754 comparison (R487): none when unordered. -/
def FV.compare (a b : FV) : Option Ordering :=
  match a, b with
  | .nan _ _, _ => none
  | _, .nan _ _ => none
  | .inf n, .inf k => some (if n = k then .eq else if n then .lt else .gt)
  | .inf n, .fin _ _ _ => some (if n then .lt else .gt)
  | .fin _ _ _, .inf k => some (if k then .gt else .lt)
  | .fin n m e, .fin k q d =>
    let u := min e d
    some (Ord.compare (unitsAt n m e u) (unitsAt k q d u))

/-- The greater of two values under R487. -/
def FV.max (a b : FV) : FV :=
  if a.isNan then a else if b.isNan then b else if a.below b then b else a
/-- The lesser of two values under R487. -/
def FV.min (a b : FV) : FV :=
  if a.isNan then a else if b.isNan then b else if b.below a then b else a

/-! The approximations. Each gives the exact result rounded toward zero, from which `pickNear` takes one of the results inside the
bound of R56 (log 14). Fixed-point numbers have 128 fraction bits. -/

/-- The integer square root, bit by bit. -/
def isqrt (n : Nat) : Nat :=
  let top := Nat.log2 n / 2 + 1
  (List.range (top + 1)).foldl (fun r i => let c := r + 2 ^ (top - i); if c * c ≤ n then c else r) 0

/-- 2^(1/2), 2^(1/4), 2^(1/8), ... in fixed point. -/
def rootsOfTwo : Nat → Nat → List Nat
  | 0, _ => []
  | n + 1, x => let y := isqrt (x * 2 ^ 128); y :: rootsOfTwo n y

/-- 2^(f / 2^64) in fixed point, for f below 2^64. -/
def exp2Frac (f : Nat) : Nat :=
  ((rootsOfTwo 64 (2 ^ 129)).zip (List.range 64)).foldl
    (fun acc c => if bitOf f (63 - c.2) then acc * c.1 / 2 ^ 128 else acc) (2 ^ 128)

/-- 64 bits of the base-2 logarithm of a fixed-point number in [1, 2). -/
def log2Frac : Nat → Nat → Nat → Nat
  | 0, _, acc => acc
  | n + 1, x, acc =>
    let y := x * x / 2 ^ 128
    if 2 ^ 129 ≤ y then log2Frac n (y / 2) (2 * acc + 1) else log2Frac n y (2 * acc)

/-- 2^A of a finite value, as a value: exact to about 2^-60. -/
def exp2Value (n : Bool) (m : Nat) (e : Int) : FV :=
  -- A in units of 2^-64, rounded down
  let x : Int := if 0 ≤ e + 64 then unitsAt n m e (-64) else Int.fdiv (unitsAt n m e e) ((2 ^ (-(e + 64)).toNat : Nat) : Int)
  let ip := clampInt (Int.fdiv x (2 ^ 64 : Int)) (-100000) 100000
  let fp := (x % (2 ^ 64 : Int)).toNat
  .fin false (exp2Frac fp) (ip - 128)

/-- log2 of a positive finite value, as a value. -/
def log2Value (m : Nat) (e : Int) : FV :=
  let l := Nat.log2 m
  let x := m * 2 ^ 128 / 2 ^ l
  let y : Int := ((l : Int) + e) * (2 ^ 64 : Int) + (log2Frac 64 x 0 : Nat)
  .fin (decide (y < 0)) y.natAbs (-64)

/-- 1 / A of a non-zero finite value, as a value. -/
def rcpValue (n : Bool) (m : Nat) (e : Int) : FV :=
  let k := Nat.log2 m + 128
  .fin n (2 ^ k / m) (-(k : Int) - e)

/-- 1 / sqrt A of a positive finite value, as a value. -/
def rsqrtValue (m : Nat) (e : Int) : FV :=
  -- make the exponent even
  let m2 := if e % 2 = 0 then m else 2 * m
  let e2 := if e % 2 = 0 then e else e - 1
  let k := Nat.log2 m2 + 256
  let k2 := if k % 2 = 0 then k else k + 1
  .fin false (isqrt (2 ^ k2 / m2)) (-(e2 / 2) - ((k2 / 2 : Nat) : Int))

/-- One of the patterns within `n` units in the last place of a magnitude rounded toward zero, as the free value `c` chooses; just
above a power of two the lower patterns lie closer together. -/
def pickNear (f : Flt) (n mag c : Nat) : Nat :=
  let lo := if mag % 2 ^ f.mb < 2 * n then 2 * n else n
  let p := mag + n - c % (n + lo + 1)
  if f.top < p then f.infinity else p

/-- An approximation of a value in a floating format (R56). An exact result beyond the range is written as R70 says. -/
def approx (f : Flt) (n : Nat) (rnd : Rnd) (c : Nat) (v : FV) : Nat :=
  match v with
  | .fin neg m e =>
    let mag := f.magnitude .zero m e
    if f.top < mag then f.write rnd v
    else f.signed neg (pickNear f n mag c)
  | .nan _ _ => f.write rnd v
  | .inf _ => f.write rnd v

/-- VEXP2 of one element (R55). -/
def vExp2 (f : Flt) (n : Nat) (rnd : Rnd) (c : Nat) : FV → Nat
  | .nan s p => f.nanPat s p
  | .inf s => if s then 0 else f.infinity
  | .fin s m e => approx f n rnd c (exp2Value s m e)

/-- VLOG2 of one element (R55). The spec states no result for a zero: a free value `z` (log 14). -/
def vLog2 (f : Flt) (n : Nat) (rnd : Rnd) (c z : Nat) : FV → Nat
  | .nan s p => f.nanPat s p
  | .inf s => if s then f.nanPat false 0 else f.infinity
  | .fin s m e => if m = 0 then z % 2 ^ (1 + f.eb + f.mb) else if s then f.nanPat false 0 else approx f n rnd c (log2Value m e)

/-- VRSQRT of one element (R55). The spec states no result for a zero: a free value. -/
def vRsqrt (f : Flt) (n : Nat) (rnd : Rnd) (c z : Nat) : FV → Nat
  | .nan s p => f.nanPat s p
  | .inf s => if s then f.nanPat false 0 else 0
  | .fin s m e => if m = 0 then z % 2 ^ (1 + f.eb + f.mb) else if s then f.nanPat false 0 else approx f n rnd c (rsqrtValue m e)

/-- VRCP of one element (R55). The spec states no result for a zero: a free value. -/
def vRcp (f : Flt) (n : Nat) (rnd : Rnd) (c z : Nat) : FV → Nat
  | .nan s p => f.nanPat s p
  | .inf s => f.signed s 0
  | .fin s m e => if m = 0 then z % 2 ^ (1 + f.eb + f.mb) else approx f n rnd c (rcpValue s m e)

/-! The seeded generator (R71). -/

/-- One step of the generator. -/
def xorshift (x : Nat) : Nat :=
  let x := (x ^^^ (x <<< 13)) % 2 ^ 32
  let x := x ^^^ (x >>> 17)
  (x ^^^ (x <<< 5)) % 2 ^ 32

/-- The rounding of each element of a word, in element order: by RND 0, 1, entropy from the counter, or the seeded generator (R71). -/
def roundings (rnd seed fresh : Nat) : Nat → List Rnd
  | 0 => []
  | n + 1 =>
    match rnd with
    | 0 => .even :: roundings rnd seed fresh n
    | 1 => .zero :: roundings rnd seed fresh n
    | 2 => .stoch (Config.entropy fresh).toNat :: roundings rnd seed (fresh + 1) n
    | _ => let x := xorshift (if seed = 0 then 1 else seed); .stoch (x / 65536) :: roundings rnd x fresh n

/-! Bit packing (R74). -/

/-- Element `i` of width `w` of a byte string read as one little-endian number. -/
def elemOf (w str i : Nat) : Nat := str / 2 ^ (w * i) % 2 ^ w

/-- The elements of a byte list, `n` of them. -/
def unpack (w n : Nat) (bs : List Byte) : List Nat :=
  let str := leNat bs
  (List.range n).map (elemOf w str)

/-- The bytes that hold elements of width `w`, packed from bit 0. -/
def pack (w : Nat) (es : List Nat) : List Byte :=
  let str := (es.foldr (fun e acc => e % 2 ^ w + acc * 2 ^ w) 0)
  leBytes (ceilDiv (w * es.length) 8) str

end Sys2Proof.Machine
end

