-- ==== Sys2Proof/Machine/Banks.lean ====
section
/-! DEFINITION. The long accumulator banks (R79-R86): one step's contributions, overflow, replay and saturation, rescaling, the
result check (R90) and the conversion of a tile (R88). -/

namespace Sys2Proof.Machine

/-- A map listed from a value for each of the keys 0, 1, 2, ... -/
def gofList {α : Type} [DecidableEq α] (d : α) (l : List α) : GMap α :=
  ⟨d, ((List.range l.length).zip l).filter (fun c => decide (c.2 ≠ d))⟩

/-- The zero cell. -/
def Cell.zero : Cell := ⟨0, false, false⟩

/-- The cells of a bank in order m * 16 + n. -/
def Bank.list (b : Bank) : List Cell := (List.range 128).map (gget b.cells)
/-- The check cells of a bank in row order. -/
def Bank.checkList (b : Bank) : List Cell := (List.range 8).map (gget b.checks)
/-- The bank with its cells and check cells replaced. -/
def Bank.withLists (b : Bank) (cs ks : List Cell) : Bank := { b with cells := gofList Cell.zero cs, checks := gofList Cell.zero ks }

/-- The contents of a bank left undefined by an event, as free values (R79, log 4). -/
def Bank.settled (key : Nat) (b : Bank) : Bank :=
  match b.undef with
  | none => b
  | some ev =>
    let f := fun (i : Nat) => (⟨clampInt (Config.freeCell ev key i) (-(2 ^ 63)) (2 ^ 63 - 1), false, false⟩ : Cell)
    { (b.withLists ((List.range 128).map f) ((List.range 8).map (fun m => f (128 + m)))) with
      e := clampInt (Config.freeCell ev key 136) (-512) 511, fp32 := decide (Config.freeCell ev key 137 < 0),
      inexact := decide (Config.freeCell ev key 138 < 0), sat := decide (Config.freeCell ev key 139 < 0),
      nan := decide (Config.freeCell ev key 140 < 0), undef := none }

/-- Bank `b` of a stall. -/
def Stall.bankOf (t : Stall) (sid b : Nat) : Bank := (gget t.eng.banks b).settled (4 * sid + b)
/-- The stall with a bank replaced. -/
def Stall.setBank (t : Stall) (b : Nat) (x : Bank) : Stall := { t with eng := { t.eng with banks := gset t.eng.banks b x } }

/-- A bank overwritten: zero cells, statuses clear, a mode and an exponent (R82, R86). -/
def Bank.cleared (b : Bank) (fp : Bool) (e : Int) : Bank :=
  { b with cells := gconst Cell.zero, checks := gconst Cell.zero, inexact := false, sat := false, nan := false, fp32 := fp, e := e, undef := none }

/-! Steps. -/

/-- What one step adds: for each cell the products in order, and for each row the check contribution. -/
structure StepIn where
  cells  : List (List FV)
  checks : List FV

/-- The statuses that a step has raised. -/
structure StepFlags where
  inexact : Bool
  sat     : Bool
  nan     : Bool

/-- No status raised. -/
def StepFlags.none : StepFlags := ⟨false, false, false⟩

/-- The floor of ±m * 2^d, and whether bits were dropped (R80). -/
def floorUnits (neg : Bool) (m : Nat) (d : Int) : Int × Bool :=
  let x : Int := if neg then -(m : Int) else (m : Int)
  if 0 ≤ d then (x * ((2 ^ d.toNat : Nat) : Int), false)
  else (floorShift x (-d).toNat, decide (m % 2 ^ (-d).toNat ≠ 0))

/-- A value inside the signed 64-bit range of a cell. -/
def inCell (v : Int) : Bool := decide (-(2 ^ 63) ≤ v) && decide (v < 2 ^ 63)

/-- One product added to a cell in fixed-point mode (R80, R83, R84). None for an overflow that does not clamp. -/
def Cell.addFixed (e : Int) (clamp : Bool) (c : Cell) (f : StepFlags) (p : FV) : Option (Cell × StepFlags) :=
  if c.nan || c.clamp then some (c, f)
  else
    match p with
    | .nan _ _ => some (⟨0, true, false⟩, { f with nan := true })
    | .inf _ => some (⟨0, true, false⟩, { f with nan := true })
    | .fin n m x =>
      let q := floorUnits n m (x - e)
      let v := c.v + q.1
      let f := { f with inexact := f.inexact || q.2 }
      if inCell v then some ({ c with v := v }, f)
      else if clamp then some ({ c with v := if v < 0 then -(2 ^ 63) else 2 ^ 63 - 1, clamp := true }, { f with sat := true })
      else none

/-- One product added to a cell in FP32 mode, rounded once to nearest even (R84, R85). -/
def Cell.addFp (c : Cell) (f : StepFlags) (p : FV) : Cell × StepFlags :=
  if c.nan then (c, f)
  else if p.special then (⟨0, true, false⟩, { f with nan := true })
  else
    let old := fp32.read c.v.toNat
    let r := fp32.write .even (old.add p)
    (⟨r, false, false⟩, { f with sat := f.sat || (!old.special && (fp32.read r).special) })

/-- The check contribution added to a check cell (R80, R84, R85). -/
def Cell.addCheck (fp : Bool) (e : Int) (c : Cell) (f : StepFlags) (p : FV) : Cell × StepFlags :=
  if c.nan then (c, f)
  else if fp then
    let old := fp32.read c.v.toNat
    let s := old.add p
    if s.isNan then (⟨0, true, false⟩, { f with nan := true })
    else
      let r := fp32.write .even s
      (⟨r, false, false⟩, { f with sat := f.sat || (!old.special && (fp32.read r).special) })
  else
    match p with
    | .nan _ _ => (⟨0, true, false⟩, { f with nan := true })
    | .inf _ => (⟨0, true, false⟩, { f with nan := true })
    | .fin n m x =>
      let q := floorUnits n m (x - e)
      ({ c with v := c.v + q.1 }, { f with inexact := f.inexact || q.2 })

/-- The products of a step added to one cell. -/
def Cell.addAll (fp : Bool) (e : Int) (clamp : Bool) : List FV → Cell → StepFlags → Option (Cell × StepFlags)
  | [], c, f => some (c, f)
  | p :: ps, c, f =>
    if fp then
      let r := c.addFp f p
      Cell.addAll fp e clamp ps r.1 r.2
    else
      match c.addFixed e clamp f p with
      | none => none
      | some (c, f) => Cell.addAll fp e clamp ps c f

/-- The cells after a step, or none for an overflow. -/
def stepCells (fp : Bool) (e : Int) (clamp : Bool) : List Cell → List (List FV) → StepFlags → Option (List Cell × StepFlags)
  | [], _, f => some ([], f)
  | c :: cs, ps, f =>
    match Cell.addAll fp e clamp (ps.headD []) c f with
    | none => none
    | some (c, f) =>
      match stepCells fp e clamp cs ps.tail f with
      | none => none
      | some (cs, f) => some (c :: cs, f)

/-- The check cells after a step. -/
def stepChecks (fp : Bool) (e : Int) : List Cell → List FV → StepFlags → List Cell × StepFlags
  | [], _, f => ([], f)
  | c :: cs, ps, f =>
    let r := c.addCheck fp e f (ps.headD (FV.zero false))
    let rs := stepChecks fp e cs ps.tail r.2
    (r.1 :: rs.1, rs.2)

/-- A bank being worked on: its cells, check cells and what the steps have raised. -/
structure BankRun where
  cells  : List Cell
  checks : List Cell
  flags  : StepFlags

/-- One step; none for an overflow (R80), in fixed-point mode without `clamp`. -/
def BankRun.step (fp : Bool) (e : Int) (clamp : Bool) (b : BankRun) (x : StepIn) : Option BankRun :=
  match stepCells fp e clamp b.cells x.cells b.flags with
  | none => none
  | some (cs, f) =>
    let r := stepChecks fp e b.checks x.checks f
    some ⟨cs, r.1, r.2⟩

/-- A run of steps; none for an overflow. -/
def BankRun.steps (fp : Bool) (e : Int) (clamp : Bool) : List StepIn → BankRun → Option BankRun
  | [], b => some b
  | x :: xs, b => match b.step fp e clamp x with | none => none | some b => BankRun.steps fp e clamp xs b

/-- The bank opened for a run. -/
def Bank.open (b : Bank) : BankRun := ⟨b.list, b.checkList, ⟨b.inexact, b.sat, b.nan⟩⟩
/-- The bank after a run. -/
def Bank.close (b : Bank) (r : BankRun) : Bank :=
  { b.withLists r.cells r.checks with inexact := r.flags.inexact, sat := r.flags.sat, nan := r.flags.nan }

/-! Shifts. -/

/-- A cell shifted right; a clamped cell keeps its value (R82, R83, R86). -/
def Cell.shiftRight (k : Nat) (c : Cell) : Cell := if c.clamp || c.nan then c else { c with v := floorShift c.v k }
/-- A shift right by k drops a 1 bit of the cell. -/
def Cell.drops (k : Nat) (c : Cell) : Bool := !c.clamp && !c.nan && decide (c.v % ((2 ^ k : Nat) : Int) ≠ 0)
/-- A bank shifted right by k with its exponent raised by k; dropped bits set INEXACT (R82, R86). -/
def Bank.raise (b : Bank) (k : Nat) : Bank :=
  let cs := b.list
  let ks := b.checkList
  { b.withLists (cs.map (Cell.shiftRight k)) (ks.map (Cell.shiftRight k)) with
    e := b.e + k, inexact := b.inexact || cs.any (Cell.drops k) || ks.any (Cell.drops k) }

/-- A cell shifted left; leaving the signed 64-bit range it is clamped (R86). -/
def Cell.shiftLeft (k : Nat) (c : Cell) : Cell :=
  if c.clamp || c.nan then c
  else
    let v := c.v * ((2 ^ k : Nat) : Int)
    if inCell v then { c with v := v } else { c with v := if v < 0 then -(2 ^ 63) else 2 ^ 63 - 1, clamp := true }
/-- A bank shifted left by k with its exponent lowered by k (R86). Whether a cell saturated. -/
def Bank.lower (b : Bank) (k : Nat) : Bank × Bool :=
  let cs := b.list
  let cs' := cs.map (Cell.shiftLeft k)
  let hit := (cs.zip cs').any (fun p => !p.1.clamp && p.2.clamp)
  let ks := b.checkList.map (fun c => if c.nan then c else { c with v := c.v * ((2 ^ k : Nat) : Int) })
  ({ b.withLists cs' ks with e := b.e - k, sat := b.sat || hit }, hit)

/-! The result check (R90). -/

/-- A row is left out of the check (R90). -/
def rowLeftOut (fp : Bool) (row : List Cell) (c : Cell) : Bool :=
  (c :: row).any (fun x => x.nan || x.clamp || (fp && (fp32.read x.v.toNat).special))

/-- The exact sum of FP32 cells. -/
def fpSum (row : List FV) : FV := row.foldl FV.add (FV.zero false)

/-- |x| of a finite value. -/
def FV.abs : FV → FV
  | .nan n p => .nan n p
  | .inf _ => .inf false
  | .fin _ m e => .fin false m e

/-- The exponent of the last place of FP32 at a magnitude m * 2^e (R90). -/
def ulp32 (m : Nat) (e : Int) : Int := if m = 0 then -149 else max ((Nat.log2 m : Int) + e) (-126) - 23

/-- A row of a bank passes the check (R90). -/
def rowPasses (fp inexact : Bool) (tolInx tolF32 : Nat) (row : List Cell) (c : Cell) : Bool :=
  if fp then
    let vs := row.map (fun x => fp32.read x.v.toNat)
    let d := (fp32.read c.v.toNat).add (fp32.read (fp32.write .even (fpSum vs))).neg
    match d, fpSum (vs.map FV.abs) with
    | .fin _ m e, .fin _ q x =>
      let lim := FV.fin false tolF32 (ulp32 q x)
      !(lim.below (.fin false m e)) || decide (m = 0)
    | _, _ => false
  else
    let s := row.foldl (fun a x => a + x.v) 0
    if inexact then
      let m := row.foldl (fun a x => a + x.v.natAbs) 0
      decide ((c.v - s).natAbs ≤ tolInx * 2 ^ (Nat.log2 m - 23))
    else decide (c.v = s)

/-- The number of rows that fail the check (R90). -/
def Bank.failing (b : Bank) (tolInx tolF32 : Nat) : Nat :=
  let cs := b.list
  ((List.range 8).filter (fun m =>
    let row := (cs.drop (16 * m)).take 16
    let c := gget b.checks m
    !rowLeftOut b.fp32 row c && !rowPasses b.fp32 b.inexact tolInx tolF32 row c)).length

/-! The tile (R88). -/

/-- The value that a cell converts as (R84, R88): a clamped cell lies beyond every range. -/
def Bank.cellValue (b : Bank) (sh : Int) (c : Cell) : FV :=
  if c.nan then .canon
  else if c.clamp then .fin (decide (c.v < 0)) 1 2000
  else if b.fp32 then (Flt.read Sys2Proof.Machine.fp32 c.v.toNat).scale sh
  else .fin (decide (c.v < 0)) c.v.natAbs (b.e + sh)

/-- The bytes of a tile in a format, with a rounding for each cell (R88). -/
def Bank.tile (b : Bank) (fmt : Nat) (sh : Int) (rs : List Rnd) : List Byte :=
  pack (widthOf fmt) ((b.list.zip rs).map (fun p => writeFmt fmt p.2 (b.cellValue sh p.1)))

end Sys2Proof.Machine
end

