-- ==== Sys2Proof/Machine/Matrix.lean ====
section
/-! DEFINITION. The matrix words' common part: operand groups (R74, R97-R100, R106-R109), the run of a word over its bank (R80-R85,
R112), acceptance, completion and replay (R77, R82, R83, R110). Operands are read when the word completes; R78 keeps them unchanged
until then (log 9). -/

namespace Sys2Proof.Machine

/-! Fields of a matrix word (R75, R105). -/

/-- ACC. -/
def wAcc (w : Nat) : Bool := bitOf w 57
/-- FA. -/
def wFa (w : Nat) : Nat := bitsOf w 54 51
/-- FB, or FW of an SMM. -/
def wFb (w : Nat) : Nat := bitsOf w 50 47
/-- AGA. -/
def wAga (w : Nat) : Nat := bitsOf w 46 44
/-- AGB. -/
def wAgb (w : Nat) : Nat := bitsOf w 43 41
/-- AGS. -/
def wAgs (w : Nat) : Nat := bitsOf w 40 38
/-- MX. -/
def wMx (w : Nat) : Bool := bitOf w 37
/-- EXP. -/
def wExp (w : Nat) : Int := signedOf 10 (bitsOf w 36 27)
/-- NG. -/
def wNg (w : Nat) : Nat := bitsOf w 26 15
/-- N of NPAT: 4, 2 or 1 stored values per column and window (R105). -/
def wN (w : Nat) : Nat := 4 / 2 ^ bitsOf w 14 13
/-- The word accumulates in FP32 mode (R73, R104). -/
def wFp (w : Nat) : Bool := decide (wFa w = 1 ∨ wFa w = 2)

/-! Operand groups. -/

/-- Read several generators in turn, a number of units each; none when a use raises RANGE. -/
def Stall.readGroup (sid : Nat) : List (Nat × Nat) → Stall → Stall × Option (List Nat)
  | [], t => (t, some [])
  | (k, n) :: r, t =>
    match Stall.readUnits sid k n t with
    | (t, none) => (t, none)
    | (t, some bs) =>
      match Stall.readGroup sid r t with
      | (t, none) => (t, none)
      | (t, some xs) => (t, some (leNat bs :: xs))

/-- The value of an operand element under MX (R69, R74): its scale byte, and the implicit 2^-6 of MXINT8. -/
def operand (mx : Bool) (fmt scales j raw : Nat) : FV :=
  let v := readFmt fmt raw
  if mx then
    let sc := elemOf 8 scales j
    if sc = 255 then .nan false 0 else v.scale ((sc : Int) - 127 - (if fmt = 3 then 6 else 0))
  else v

/-- The exact sum of values. -/
def sumFV (vs : List FV) : FV := vs.foldl FV.add (FV.zero false)

/-- The check contribution of a dense value and a weight sum (R80, R85): the sum is rounded once to FP32 in FP32 mode. -/
def checkTerm (fp : Bool) (x s : FV) : FV :=
  if fp then (if x.special || s.special then .nan false 0 else x.mul (fp32.read (fp32.write .even s))) else x.mul s

/-- The steps of one group of a DMM (R74, R80). -/
def dmmSteps (w : Nat) (as bs sc : Nat) : List StepIn :=
  let fa := wFa w; let fb := wFb w; let mx := wMx w
  (List.range 32).map fun k =>
    let ar := (List.range 8).map (fun m => operand mx fa sc m (elemOf (widthOf fa) as (k * 8 + m)))
    let br := (List.range 16).map (fun n => operand mx fb sc (8 + n) (elemOf (widthOf fb) bs (k * 16 + n)))
    ⟨ar.flatMap (fun x => br.map (fun y => [x.mul y])), ar.map (fun x => checkTerm (wFp w) x (sumFV br))⟩

/-- One weight of a window: its output column, the position in the window that its code names, its scaled value. -/
structure Weight where
  col  : Nat
  code : Nat
  val  : FV

/-- The step of one window of an SMM (R101-R103): 8 dense rows of 8 elements against the window's weights. -/
def windowStep (fp : Bool) (dense : List (List FV)) (ws : List Weight) : StepIn :=
  let sums := (List.range 8).map (fun c => sumFV ((ws.filter (fun x => decide (x.code = c))).map (·.val)))
  let cell := fun (row : List FV) (n : Nat) =>
    let ps := (ws.filter (fun x => decide (x.col = n))).map (fun x => (row.getD x.code (FV.zero false)).mul x.val)
    if fp then [sumFV ps] else ps
  ⟨dense.flatMap (fun row => (List.range 16).map (cell row)),
   dense.map (fun row => sumFV ((row.zip sums).map (fun p => checkTerm fp p.1 p.2)))⟩

/-- The dense rows of a window whose first reduction position is `k0` (R106). -/
def denseRows (w as sc k0 : Nat) : List (List FV) :=
  (List.range 8).map fun m => (List.range 8).map fun p => operand (wMx w) (wFa w) sc m (elemOf (widthOf (wFa w)) as ((k0 + p) * 8 + m))

/-- Units of a value segment (R97). -/
def valueUnits (w : Nat) : Nat := ceilDiv (64 * wN w * widthOf (wFb w)) 512
/-- Units of a code segment (R98). -/
def codeUnits (w : Nat) : Nat := ceilDiv (192 * wN w) 512

/-- The weights of a window of a plain read (R97, R101). -/
def plainWeights (w vals codes sc kw : Nat) : List Weight :=
  let n := wN w
  (List.range (16 * n)).map fun j =>
    let i := 16 * n * kw + j
    let col := j / n
    ⟨col, elemOf 3 codes i, operand (wMx w) (wFb w) sc (8 + col) (elemOf (widthOf (wFb w)) vals i)⟩

/-- Row r of the row view of block b (R100): the indices of the stored values whose code is r, in ascending column and rank. -/
def rowView (n codes b r : Nat) : List Nat :=
  ((List.range (8 * n)).map (fun j => 8 * n * b + j)).filter (fun i => decide (elemOf 3 codes i = r))

/-- A block has a row whose count differs from N (R100). -/
def blockUneven (n codes b : Nat) : Bool := (List.range 8).any (fun r => decide ((rowView n codes b r).length ≠ n))

/-- The weights of a window of a transposed read (R107): group g of the two, column half nh. -/
def rowWeights (w vals codes sc g nh : Nat) : List Weight :=
  let n := wN w
  let half := bitsOf w 11 11
  (List.range 16).flatMap fun o =>
    let b := 2 * (2 * half + o / 8) + nh
    ((rowView n codes b (o % 8)).take n).map fun i =>
      let c := i % (8 * n) / n
      ⟨o, c, operand (wMx w) (wFb w) sc (8 + 16 * g + 8 * nh + c) (elemOf (widthOf (wFb w)) vals i)⟩

/-- The cells of an SDD (R109): for each of the 128 cells the row k and column n of the value it holds. -/
def sddCells (w codes : Nat) : List (Option (Nat × Nat)) :=
  let n := wN w
  let k0 := if n = 4 then 16 * bitsOf w 12 12 else 0
  (List.range 128).map fun i =>
    let k := k0 + i / (2 * n)
    if 32 ≤ k then none
    else
      let j := i % (2 * n)
      match ((rowView n codes (2 * (k / 8) + j / n) (k % 8)).take n)[j % n]? with
      | some v => some (k, 8 * (j / n) + v % (8 * n) / n)
      | none => none

/-- The steps of one group of 32 tokens of an SDD (R108, R109). -/
def sddSteps (w : Nat) (cells : List (Option (Nat × Nat))) (xs ys sc : Nat) : List StepIn :=
  (List.range 32).map fun t =>
    let prods := cells.map fun c =>
      match c with
      | none => []
      | some (k, n) =>
        [(operand (wMx w) (wFa w) sc k (elemOf (widthOf (wFa w)) xs (t * 32 + k))).mul
         (operand (wMx w) (wFb w) sc (32 + n) (elemOf (widthOf (wFb w)) ys (t * 16 + n)))]
    ⟨prods, (List.range 8).map (fun m => sumFV (((prods.drop (16 * m)).take 16).flatMap id))⟩

/-- The steps of a job's next group, and the blocks read in an uneven row view (R100); none for RANGE. -/
def jobGroup (sid : Nat) (j : Job) (t : Stall) : Stall × Option (List StepIn × Nat) :=
  let w := j.word.toNat
  let sc := if wMx w then [(wAgs w, 1)] else []
  let wa := widthOf (wFa w)
  if j.op = 0x10 then
    match Stall.readGroup sid ([(wAga w, wa / 2), (wAgb w, widthOf (wFb w))] ++ sc) t with
    | (t, none) => (t, none)
    | (t, some xs) => (t, some (dmmSteps w (xs.getD 0 0) (xs.getD 1 0) (xs.getD 2 0), 0))
  else if j.op = 0x19 then
    match Stall.readGroup sid ([(wAga w, 2 * wa), (wAgb w, widthOf (wFb w))] ++ sc) t with
    | (t, none) => (t, none)
    | (t, some xs) => (t, some (sddSteps w (sddCells w (leNat j.codes)) (xs.getD 0 0) (xs.getD 1 0) (xs.getD 2 0), 0))
  else if bitOf w 12 then
    let gs := [(wAgb w, valueUnits w), (wAgb w, codeUnits w), (wAgb w, valueUnits w), (wAgb w, codeUnits w)]
    match Stall.readGroup sid ([(wAga w, wa / 2)] ++ gs ++ sc) t with
    | (t, none) => (t, none)
    | (t, some xs) =>
      let s := xs.getD 5 0
      let steps := (List.range 4).map fun i =>
        windowStep (wFp w) (denseRows w (xs.getD 0 0) s (8 * i)) (rowWeights w (xs.getD (1 + 2 * (i / 2)) 0) (xs.getD (2 + 2 * (i / 2)) 0) s (i / 2) (i % 2))
      let bad := (List.range 2).map fun g =>
        ((List.range 4).filter (fun i => blockUneven (wN w) (xs.getD (2 + 2 * g) 0) (4 * bitsOf w 11 11 + i))).length
      (t, some (steps, bad.foldl (· + ·) 0))
  else
    match Stall.readGroup sid ([(wAga w, wa / 2), (wAgb w, valueUnits w), (wAgb w, codeUnits w)] ++ sc) t with
    | (t, none) => (t, none)
    | (t, some xs) =>
      let s := xs.getD 3 0
      (t, some ((List.range 4).map (fun kw =>
        windowStep (wFp w) (denseRows w (xs.getD 0 0) s (8 * kw)) (plainWeights w (xs.getD 1 0) (xs.getD 2 0) s kw)), 0))

/-! The run of a word. -/

/-- How the run of a word ends: a use out of range, an overflow that does not clamp, or the whole word done. -/
inductive RunEnd where
  | range (t : Stall)
  | overflow
  | done (t : Stall) (b : BankRun) (uneven : Nat)

/-- The groups of a job in order. -/
def jobGroups (sid : Nat) (j : Job) (e : Int) : Nat → Stall → BankRun → Nat → RunEnd
  | 0, t, b, u => .done t b u
  | n + 1, t, b, u =>
    match jobGroup sid j t with
    | (t, none) => .range t
    | (t, some (xs, v)) =>
      match BankRun.steps (wFp j.word.toNat) e j.saturating xs b with
      | none => .overflow
      | some b => jobGroups sid j e n t b (u + v)

/-- The run of a stall's job over its bank from step 0 (R82). -/
def runJob (sid : Nat) (j : Job) (t : Stall) : RunEnd :=
  let b := t.bankOf sid j.bank
  jobGroups sid j b.e (wNg j.word.toNat) t b.open 0

/-! Acceptance. -/

/-- The bank mode that a later word meets on a bank (R76): that of the last word with ACC 0 on it that has not started, else the bank's. -/
def Stall.modeOf (t : Stall) (sid b : Nat) : Bool :=
  match (t.eng.dwait.toList ++ t.eng.rwait.toList).filter (fun j => decide (j.bank = b) && !wAcc j.word.toNat) with
  | [] => (t.bankOf sid b).fp32
  | j :: _ => wFp j.word.toNat

/-- The conditions of R76 that DMM, SMM and SDD share beyond the format pairing. -/
def matrixIllegal (t : Stall) (sid w : Nat) : Bool :=
  decide (wNg w = 0) || (wMx w && wFp w) || (!wMx w && decide (wAgs w ≠ 0)) ||
  (wAcc w && (t.modeOf sid (bitsOf w 56 55) != wFp w))

/-- A job takes its executing place: a word with ACC 0 overwrites the bank (R82). -/
def Stall.startJob (t : Stall) (sid : Nat) (j : Job) : Stall :=
  let w := j.word.toNat
  if wAcc w then t
  else
    let b := t.bankOf sid j.bank
    t.setBank j.bank (b.cleared (wFp w) (if wFp w then b.e else wExp w))

/-- Accept a Draft word into the executing or the waiting place; none when both are taken (R77). -/
def Stall.acceptDraft (t : Stall) (sid : Nat) (j : Job) : Option Stall :=
  match t.eng.dexec, t.eng.dwait with
  | none, _ =>
    let t := t.startJob sid j
    some { t with eng := { t.eng with dexec := some { j with started := true } } }
  | some _, none => some { t with eng := { t.eng with dwait := some j } }
  | some _, some _ => none

/-- Accept a Rake word likewise (R110). -/
def Stall.acceptRake (t : Stall) (sid : Nat) (j : Job) : Option Stall :=
  match t.eng.rexec, t.eng.rwait with
  | none, _ =>
    let t := t.startJob sid j
    some { t with eng := { t.eng with rexec := some { j with started := true } } }
  | some _, none => some { t with eng := { t.eng with rwait := some j } }
  | some _, some _ => none

/-- The other array's incomplete words keep this word from issue: they name its bank or a generator of it (R78, R111). -/
def holdsOn (js : List Job) (bank : Nat) (ags : List Nat) : Bool :=
  js.any (fun j => decide (j.bank = bank) || j.ags.any (fun a => ags.contains a))

/-! Completion and replay. -/

/-- The Draft word in execution completes: its place frees and the waiting word starts (R77). -/
def Stall.nextDraft (t : Stall) (sid : Nat) : Stall :=
  match t.eng.dwait with
  | none => { t with eng := { t.eng with dexec := none } }
  | some j =>
    let t := t.startJob sid j
    { t with eng := { t.eng with dexec := some { j with started := true }, dwait := none } }

/-- The Rake word in execution completes likewise (R110). -/
def Stall.nextRake (t : Stall) (sid : Nat) : Stall :=
  match t.eng.rwait with
  | none => { t with eng := { t.eng with rexec := none } }
  | some j =>
    let t := t.startJob sid j
    { t with eng := { t.eng with rexec := some { j with started := true }, rwait := none } }

/-- The completion of a job: every step made, the bank written, the place freed. A use out of range is a stall fault at the word
(R76). A word that has an overflow to replay does not complete (R82). -/
def completeJob (s : State) (sid : Nat) (j : Job) (next : Stall → Stall) : State :=
  match runJob sid j (s.stall sid) with
  | .overflow => s
  | .range t => stallFault (putStall s sid t) sid fRange j.pc
  | .done t r u =>
    let b := { (t.bankOf sid j.bank).close r with replays := j.replays }
    let s := putStall s sid (next (t.setBank j.bank b))
    modShed s (shedOf sid) fun h => { h with maskerr := satAdd 16 h.maskerr u }

/-- DMM_COMPLETION (R77). -/
def execDmmCompletion (sid : StallId) (s : State) : Host.Outcome State Fault Refusal :=
  .next (match (s.stall sid).eng.dexec with
    | none => s
    | some j => completeJob s sid j (fun t => t.nextDraft sid))

/-- RAKE_COMPLETION (R110). -/
def execRakeCompletion (sid : StallId) (s : State) : Host.Outcome State Fault Refusal :=
  .next (match (s.stall sid).eng.rexec with
    | none => s
    | some j => completeJob s sid j (fun t => t.nextRake sid))

/-- An overflow of a job's run: a replay from the shifted checkpoint, or saturation (R82, R83). -/
def overflowJob (s : State) (sid : Nat) (j : Job) (put : Job → Engines → Engines) : State :=
  let t := s.stall sid
  let b := t.bankOf sid j.bank
  match runJob sid j t with
  | .overflow =>
    if j.replays < 4 ∧ b.e + 8 ≤ 511 then
      let t := t.setBank j.bank (b.raise 8)
      let s := putStall s sid { t with eng := put { j with replays := j.replays + 1 } t.eng }
      modShed s (shedOf sid) fun h => { h with replays := satAdd 32 h.replays 1 }
    else
      let t := t.setBank j.bank { b with sat := true }
      let s := putStall s sid { t with eng := put { j with saturating := true } t.eng }
      record (modShed s (shedOf sid) fun h => { h with sats := satAdd 16 h.sats 1 }) 4 (.stall sid)
  | .range _ => s
  | .done _ _ _ => s

/-- OVERFLOW_REPLAY (R82, R83, R112). -/
def execOverflowReplay (sid : StallId) (rake : Bool) (s : State) : Host.Outcome State Fault Refusal :=
  .next (if rake then
      (match (s.stall sid).eng.rexec with
       | none => s
       | some j => overflowJob s sid j (fun j e => { e with rexec := some j }))
    else
      (match (s.stall sid).eng.dexec with
       | none => s
       | some j => overflowJob s sid j (fun j e => { e with dexec := some j })))

end Sys2Proof.Machine
end

