-- ==== Sys2Proof/Machine/Draft.lean ====
section
/-! DEFINITION. The Draft words (R75-R90): DMM, DRAIN, DEXP, DSTAT. -/

namespace Sys2Proof.Machine

/-- The format pairings of R73. -/
def dmmPair (fa fb : Nat) : Bool :=
  let fixed := fun (f : Nat) => [3, 5, 6, 7, 8, 9].contains f
  let fp := fun (f : Nat) => [1, 2].contains f
  (fixed fa && fixed fb) || (fp fa && fp fb)

/-- DMM at its issue (R76-R78). -/
def execDmm (sid : StallId) (s : State) : Host.Outcome State Fault Refusal :=
  .next (issueWord s sid 0x10 fun t w =>
    if decide (bitsOf w 14 0 ≠ 0) || !dmmPair (wFa w) (wFb w) || matrixIllegal t sid w then .fault s fIllegal
    else
      let s := modEng s sid Engines.stopBallast
      if holdsOn t.eng.rakeJobs (bitsOf w 56 55) (matrixAgs w) then .hold s 1
      else
        match (s.stall sid).acceptDraft sid ⟨BitVec.ofNat 64 w, t.seq.pc, false, 0, false, []⟩ with
        | none => .hold s 1
        | some t => .retire (putStall s sid t) 1 false)

/-- Units of a tile (R88). -/
def tileUnits (fmt : Nat) : Nat := widthOf fmt / 4

/-- `n` records of DATA_CHECK against a stall (R90). -/
def dataChecks (s : State) (sid : Nat) : Nat → State
  | 0 => s
  | n + 1 => dataChecks (record s 0 (.stall sid)) sid n

/-- DRAIN (R88-R90). -/
def execDrain (sid : StallId) (s : State) : Host.Outcome State Fault Refusal :=
  .next (issueWord s sid 0x12 fun t w =>
    let fmt := bitsOf w 54 51
    let k := bitsOf w 50 48
    if !onlyFields w [(56, 55), (54, 51), (50, 48), (47, 46), (45, 41), (40, 33)] || decide (6 < fmt) then .fault s fIllegal
    else if t.bankBusy (bitsOf w 56 55) || t.interlocked [k] [(t.ag k).space] then .hold s 1
    else
      let b := t.bankOf sid (bitsOf w 56 55)
      let h := s.shed (shedOf sid)
      let rs := roundings (bitsOf w 47 46) (t.sreg sid (bitsOf w 45 41)) s.fresh 128
      let s := dataChecks s sid (b.failing h.tolInx h.tolF32)
      let s := if b.inexact then record s 5 (.stall sid) else s
      let s := { s with fresh := s.fresh + 128 }
      let r := Stall.writeUnits sid k (tileUnits fmt) (b.tile fmt (signedOf 8 (bitsOf w 40 33)) rs) t
      let s := putStall s sid r.1
      if r.2 then .retire s (3 + tileUnits fmt) (decide ((t.ag k).space ≠ 0)) else .fault s fRange)

/-- DEXP (R86). -/
def execDexp (sid : StallId) (s : State) : Host.Outcome State Fault Refusal :=
  .next (issueWord s sid 0x13 fun t w =>
    let i := bitsOf w 56 55
    let e := wExp w
    if !onlyFields w [(57, 57), (56, 55), (36, 27)] then .fault s fIllegal
    else if t.bankBusy i then .hold s 1
    else
      let b := t.bankOf sid i
      if !wAcc w then .retire (putStall s sid (t.setBank i (b.cleared false e))) 1 false
      else if b.fp32 then .fault s fIllegal
      else if b.e ≤ e then .retire (putStall s sid (t.setBank i (b.raise (e - b.e).toNat))) 2 false
      else
        let r := b.lower (b.e - e).toNat
        let s := putStall s sid (t.setBank i r.1)
        .retire (if r.2 then record s 4 (.stall sid) else s) 2 false)

/-- DSTAT (R87). -/
def execDstat (sid : StallId) (s : State) : Host.Outcome State Fault Refusal :=
  .next (issueWord s sid 0x14 fun t w =>
    let i := bitsOf w 56 55
    if !onlyFields w [(56, 55), (54, 50)] then .fault s fIllegal
    else if t.bankBusy i then .hold s 1
    else
      let b := t.bankOf sid i
      let v := patternOf 10 b.e + b2n b.inexact * 2 ^ 10 + b2n b.sat * 2 ^ 11 + b2n b.nan * 2 ^ 12 + b2n b.fp32 * 2 ^ 13 +
        b.replays % 8 * 2 ^ 14
      .retire (putStall s sid (t.setSreg (bitsOf w 54 50) v)) 1 false)

end Sys2Proof.Machine
end

