-- ==== Sys2Proof/Machine/Electrical.lean ====
section
/-! DEFINITION. Feeds and power-on (R341, R444, R474), the I3C target (R477, R478) and the TAP (R479). -/

namespace Sys2Proof.Machine

/-! Feeds. -/

/-- The module enters OFF (R444, R474): nothing is powered. What only needs no power stays: fuses, the studbook's media, the straps and the
levels of the input pins. Hostler memory and the Groom window are gone (log 5). -/
def State.off (s : State) : State :=
  let t := s.cold
  { t with dev := { t.dev with st := 0 }, hmem := [], tap := ⟨1, [], false, 0⟩, pwr := { t.pwr with feeda := false, feedb := false } }

/-- FEED_CHANGE (R341, R474). `rideThrough` says that an absence of both feeds ends within 50 us. -/
def execFeedChange (feedB present rideThrough : Bool) (s : State) : Host.Outcome State Fault Refusal :=
  .next (
    let p := if feedB then { s.pwr with feedb := present } else { s.pwr with feeda := present }
    let s := { s with pwr := p }
    if p.feeda || p.feedb || rideThrough || decide (s.dev.st = 0) then s else s.off)

/-- POWER_ON (R444, R458, R474): a feed becomes present and, with RESET# high, the device enters BOOT by a cold reset. -/
def execPowerOn (feedB : Bool) (s : State) : Host.Outcome State Fault Refusal :=
  .next (
    if s.dev.st ≠ 0 then s
    else
      let s := { s with pwr := if feedB then { s.pwr with feedb := true } else { s.pwr with feeda := true } }
      if s.pins.resetN then s.cold else s)

/-! I3C (R477, R478). The target answers a transaction that the bus addresses to it (log 32). -/

/-- A private write: the transaction it carries, or none when its length does not match its OP or its WLEN lies outside 1-224. -/
def i3cTrans (bytes : List Byte) : Option Trans :=
  let op := leAt bytes 0 1
  let wlen := leAt bytes 6 2
  let want := if op = 0 then 6 else if op = 1 then 14 else if op = 2 then 8 else 8 + wlen
  if 3 < op ∨ bytes.length ≠ want ∨ (2 ≤ op ∧ (wlen < 1 ∨ 224 < wlen)) then none
  else some { op := op, addr := leAt bytes 1 5, data := leAt bytes 6 8, wlen := wlen, wdata := bytes.drop 8 }

/-- The private read's bytes (R478): STATUS, then 8 data bytes for OP 0 or WLEN bytes for OP 2, all 0 unless the access is done. -/
def i3cAnswer (t : Trans) (r : Resp) : List Byte :=
  leBytes 1 r.status ++ (if t.op = 0 then leBytes 8 r.data.toNat else if t.op = 2 then padTo t.wlen r.bytes else [])

/-- A private write, which discards a response not yet read (R478). -/
def i3cWrite (bytes : List Byte) (s : State) : State :=
  match i3cTrans bytes with
  | none => { s with i3c := { s.i3c with unread := some [4] } }
  | some t =>
    let s := transact .i3c t s
    { s with i3c := { s.i3c with unread := some (i3cAnswer t s.resp) } }

/-- A private read: the response, or a NACK when there is none (R478). -/
def i3cRead (s : State) : State := { s with i3c := { s.i3c with unread := none, out := s.i3c.unread.getD [] } }

/-- I3C_TRANSACTION (R478). -/
def execI3cTransaction (op : I3cOp) (s : State) : Host.Outcome State Fault Refusal :=
  .next (
    if s.dev.st = 0 then s
    else match op with
      | .privateWrite bytes => i3cWrite bytes s
      | .privateRead => i3cRead s)

/-- A common command code (R477). SETDASA and ENTDAA give an address to a target that has none. The values of GETPID, GETBCR, GETDCR and
GETSTATUS are free (log 32). -/
def i3cCommand (c : I3cCcc) (ev : Nat) (i : I3c) : I3c :=
  match c with
  | .setdasa a => if i.addr.isSome then i else { i with addr := some a }
  | .entdaa a => if i.addr.isSome then i else { i with addr := some a }
  | .rstdaa => { i with addr := none }
  | .enec => { i with ibiEn := true }
  | .disec => { i with ibiEn := false }
  | .getpid => { i with out := padTo 6 Config.i3cPid }
  | .getbcr => { i with out := [Config.i3cBcr] }
  | .getdcr => { i with out := [Config.i3cDcr] }
  | .getstatus => { i with out := leBytes 2 (Config.freeWord ev).toNat }

/-- I3C_CCC (R477). -/
def execI3cCcc (ccc : I3cCcc) (s : State) : Host.Outcome State Fault Refusal :=
  .next (
    if s.dev.st = 0 then s
    else
      let (ev, s) := takeFresh s
      { s with i3c := i3cCommand ccc ev s.i3c })

/-! JTAG (R479). -/

/-- The levels of the signals that the boundary-scan register covers, in the order of R475: RESET#, PWR_GOOD, ALERT#, LSHED#, THERMTRIP#,
I3C_SCL, I3C_SDA, I3C_ADDR. The two bus lines are free, and the order and number of cells are the model's (log 34). -/
def scanLevels (s : State) (ev : Nat) : List Bool :=
  [s.pins.resetN, s.pins.pwrGood, decide (devAlert s = 0), s.pins.lshedN, !s.thm.tripped, bitOf (Config.pick ev) 0, bitOf (Config.pick ev) 1,
   bitOf s.pins.strap 0, bitOf s.pins.strap 1, bitOf s.pins.strap 2]

/-- A list of bits as a number, the first one lowest. -/
def bitsNat : List Bool → Nat
  | [] => 0
  | b :: bs => b2n b + 2 * bitsNat bs

/-- The boundary-scan register is 10 bits long (log 34). -/
def scanPad (bs : List Bool) : List Bool := (bs ++ List.replicate 10 false).take 10

/-- The TAP with BYPASS in force: one bit, captured as 0. -/
def Tap.bypass (t : Tap) : Tap := { t with ir := 0, driving := false, out := 0 }

/-- EXTEST (R479): taken only in BOOT; in every other state it acts as BYPASS. -/
def execExtest (drive : List Bool) (s : State) : Host.Outcome State Fault Refusal :=
  .next (
    if s.dev.st ≠ 1 then { s with tap := s.tap.bypass }
    else
      let (ev, s) := takeFresh s
      { s with tap := { ir := 3, bsr := scanPad drive, driving := true, out := bitsNat (scanLevels s ev) } })

/-- IDCODE (R479). -/
def execIdcode (s : State) : Host.Outcome State Fault Refusal :=
  .next { s with tap := { s.tap with ir := 1, driving := false, out := 0x0C740A5B } }

/-- SAMPLE/PRELOAD (R479): the signals are sampled and the register is loaded; nothing is driven. -/
def execSamplePreload (preload : List Bool) (s : State) : Host.Outcome State Fault Refusal :=
  .next (
    let (ev, s) := takeFresh s
    { s with tap := { ir := 2, bsr := scanPad preload, driving := false, out := bitsNat (scanLevels s ev) } })

/-- BYPASS, and every instruction that the TAP does not support (R479). -/
def execBypass (s : State) : Host.Outcome State Fault Refusal := .next { s with tap := s.tap.bypass }

/-- TAP_RESET (R479): Test-Logic-Reset, in which IDCODE is in force and nothing is driven (log 34). -/
def execTapReset (s : State) : Host.Outcome State Fault Refusal := .next { s with tap := { s.tap with ir := 1, driving := false } }

end Sys2Proof.Machine
end

