-- ==== Sys2Proof/Machine/Rake.lean ====
section
/-! DEFINITION. The Rake words (R104-R112) and the predictor words (R116-R121): SMM, SDD, PSEL, PCHK. -/

namespace Sys2Proof.Machine

/-- A format of the 64-multiplier path (R104). -/
def rakeFmt (f : Nat) : Bool := [3, 5, 6, 7, 8].contains f

/-- SMM at its issue (R104-R107, R110, R111). -/
def execSmm (sid : StallId) (s : State) : Host.Outcome State Fault Refusal :=
  .next (issueWord s sid 0x18 fun t w =>
    let pair := (rakeFmt (wFa w) && rakeFmt (wFb w)) || (wFp w && decide (wFb w = 1 ∨ wFb w = 2))
    if decide (bitsOf w 10 0 ≠ 0) || !pair || decide (bitsOf w 14 13 = 3) || (!bitOf w 12 && bitOf w 11) || matrixIllegal t sid w then
      .fault s fIllegal
    else
      let s := modEng s sid Engines.stopBallast
      if holdsOn t.eng.draftJobs (bitsOf w 56 55) (matrixAgs w) then .hold s 1
      else
        match (s.stall sid).acceptRake sid ⟨BitVec.ofNat 64 w, t.seq.pc, false, 0, false, []⟩ with
        | none => .hold s 1
        | some t => .retire (putStall s sid t) 1 false)

/-- SDD at its issue (R104, R105, R108-R111): its code segment is read at acceptance. A use of AGC that an earlier Rake word's
operands share waits for that word. -/
def execSdd (sid : StallId) (s : State) : Host.Outcome State Fault Refusal :=
  .next (issueWord s sid 0x19 fun t w =>
    let c := bitsOf w 11 9
    let shared := t.eng.rakeJobs.any (fun j => ([wAga j.word.toNat, wAgb j.word.toNat] ++
      (if wMx j.word.toNat then [wAgs j.word.toNat] else [])).contains c)
    if decide (bitsOf w 8 0 ≠ 0) || !(rakeFmt (wFa w) && rakeFmt (wFb w)) || decide (bitsOf w 14 13 = 3) ||
        (bitOf w 12 && decide (bitsOf w 14 13 ≠ 0)) || matrixIllegal t sid w then .fault s fIllegal
    else
      let s := modEng s sid Engines.stopBallast
      let full := t.eng.rexec.isSome && t.eng.rwait.isSome
      if holdsOn t.eng.draftJobs (bitsOf w 56 55) (matrixAgs w) || shared || full then .hold s 1
      else
        match Stall.readUnits sid c (codeUnits w) (s.stall sid) with
        | (t, none) => .fault (putStall s sid t) fRange
        | (t, some codes) =>
          let uneven := ((List.range 8).filter (fun b => blockUneven (wN w) (leNat codes) b)).length
          match t.acceptRake sid ⟨BitVec.ofNat 64 w, t.seq.pc, false, 0, false, codes⟩ with
          | none => .hold s 1
          | some t =>
            let s := modShed (putStall s sid t) (shedOf sid) fun h => { h with maskerr := satAdd 16 h.maskerr uneven }
            .retire s 1 false)

/-! The activation predictor. -/

/-- The predictor mode in force: 3 acts as 0 (R117). -/
def predictor (h : Shed) : Nat := if h.predNow = 3 then 0 else h.predNow

/-- Little-endian bytes of 16-bit entries (R118). -/
def entries16 (es : List Nat) : List Byte := es.flatMap (leBytes 2)

/-- A score that is kept (R118): at or above the threshold, or NaN. -/
def kept (th score : Nat) : Bool :=
  let v := fp32.read score
  v.isNan || (match v.compare (fp32.read th) with | some .lt => false | some _ => true | none => false)

/-- A value that is a stray (R119): above the margin, or NaN. -/
def isStray (margin v : Nat) : Bool :=
  let x := fp32.read v
  x.isNan || decide (x.compare (fp32.read margin) = some .gt)

/-- Every sixteenth element from a phase on, by ordinal (R118). -/
def sampled (phase : Nat) (l : List Nat) : List Nat :=
  ((List.range l.length).zip l).filterMap (fun p => if p.1 % 16 = phase then some p.2 else none)

/-- PSEL (R118). -/
def execPsel (sid : StallId) (s : State) : Host.Outcome State Fault Refusal :=
  .next (issueWord s sid 0x1A fun t w =>
    let a := bitsOf w 54 52
    let d := bitsOf w 51 49
    let e := bitsOf w 48 46
    let n := bitsOf w 45 35
    if !onlyFields w [(54, 52), (51, 49), (48, 46), (45, 35), (31, 27), (26, 22)] || decide (n = 0) then .fault s fIllegal
    else if t.interlocked [a, d, e] [(t.ag d).space, (t.ag e).space] then .hold s 1
    else
      let sa := (t.ag a).space
      let mode := predictor (s.shed (shedOf sid))
      let phase := (Config.phase s.fresh).toNat
      let s := if mode = 1 then { s with fresh := s.fresh + 1 } else s
      match Stall.readUnits sid a n t with
      | (t, none) => .fault (putStall s sid t) fRange
      | (t, some bs) =>
        let scores := unpack 32 (16 * n) bs
        let pos := (List.range (16 * n)).zip scores
        let th := t.sreg sid (bitsOf w 31 27)
        let keep := pos.filterMap (fun p => if kept th p.2 then some p.1 else none)
        let skip := pos.filterMap (fun p => if kept th p.2 then none else some p.1)
        let check := if mode = 0 then skip else if mode = 1 then sampled phase skip else []
        match Stall.writeUnits sid d (ceilDiv keep.length 32) (entries16 keep) t with
        | (t, false) => .fault (putStall s sid t) fRange
        | (t, true) =>
          match Stall.writeUnits sid e (ceilDiv check.length 32) (entries16 check) t with
          | (t, false) => .fault (putStall s sid t) fRange
          | (t, true) =>
            .retire (putStall s sid (t.setSreg (bitsOf w 26 22) (keep.length + 65536 * check.length))) (reach sa + 4 + n) true)

/-- PCHK (R119). -/
def execPchk (sid : StallId) (s : State) : Host.Outcome State Fault Refusal :=
  .next (issueWord s sid 0x1B fun t w =>
    let a := bitsOf w 54 52
    let l := bitsOf w 51 49
    let d := bitsOf w 48 46
    let n := bitsOf w 45 31
    if !onlyFields w [(54, 52), (51, 49), (48, 46), (45, 31), (30, 26), (25, 21)] || decide (n = 0 ∨ 32752 < n) then .fault s fIllegal
    else if t.interlocked [a, l, d] [(t.ag d).space] then .hold s 1
    else
      let sa := (t.ag a).space
      let mode := predictor (s.shed (shedOf sid))
      match Stall.readUnits sid l (ceilDiv n 32) t with
      | (t, none) => .fault (putStall s sid t) fRange
      | (t, some ls) =>
        match Stall.readUnits sid a (ceilDiv n 16) t with
        | (t, none) => .fault (putStall s sid t) fRange
        | (t, some vs) =>
          let margin := t.sreg sid (bitsOf w 30 26)
          let strays := ((unpack 16 n ls).zip (unpack 32 n vs)).filterMap (fun p => if isStray margin p.2 then some p.1 else none)
          let count := strays.length
          match Stall.writeUnits sid d (if mode = 0 then ceilDiv count 32 else 0) (entries16 strays) t with
          | (t, false) => .fault (putStall s sid t) fRange
          | (t, true) =>
            let s := putStall s sid (t.setSreg (bitsOf w 25 21) (if mode = 0 then count else 0))
            let s := modShed s (shedOf sid) fun h =>
              { h with examined := satAdd 32 h.examined n,
                       made := if mode = 0 then satAdd 16 h.made count else h.made,
                       seen := if mode = 1 then satAdd 16 h.seen count else h.seen }
            let s := if mode < 2 ∧ 0 < count then record s 15 (.stall sid) else s
            .retire s (reach sa + 4 + ceilDiv n 16) true)

end Sys2Proof.Machine
end

