-- ==== Sys2Proof/Machine/Vector.lean ====
section
/-! DEFINITION. The vector words (R54-R56, R72, R487): their encodings, their schedule of reads and writes, and one meaning each. -/

namespace Sys2Proof.Machine

/-- The fields of a vector word (R54). -/
structure VF where
  op   : Nat
  fmt  : Nat
  a    : Nat
  b    : Nat
  d    : Nat
  n    : Nat
  rnd  : Nat
  ss   : Nat
  bs   : Bool
  sub  : Nat
  fmt2 : Nat
  deriving DecidableEq, Repr

/-- The fields of a vector word (R54). -/
def VF.of (w : Nat) : VF :=
  { op := bitsOf w 63 58, fmt := bitsOf w 57 55, a := bitsOf w 54 52, b := bitsOf w 51 49, d := bitsOf w 48 46,
    n := cnt12 (bitsOf w 45 34), rnd := bitsOf w 33 32, ss := bitsOf w 31 27, bs := bitOf w 26, sub := bitsOf w 23 20,
    fmt2 := bitsOf w 19 16 }

/-- The formats an operation takes (R55). -/
def vFormats (op : Nat) : List Nat :=
  if op = 0x23 ∨ (0x26 ≤ op ∧ op ≤ 0x2A) then [0, 1, 2]
  else if op = 0x2C then [0, 1, 2, 3, 4, 5, 6]
  else if op = 0x2E then [3, 4]
  else [0, 1, 2, 3, 4]

/-- The sub-operations an operation defines are 0 to this number (R55, R72). -/
def vSubTop (op : Nat) : Nat :=
  if op = 0x26 then 1 else if op = 0x2B then 2 else if op = 0x2C then 2 else if op = 0x2D then 3 else if op = 0x2E then 3 else 0

/-- Elements in one 64-byte chunk of FMT (R54). -/
def VF.perChunk (v : VF) : Nat := 512 / widthOf v.fmt
/-- Elements of the word. -/
def VF.elems (v : VF) : Nat := v.n * v.perChunk
/-- The word is a VCVT that encodes (1) or decodes (2) MX blocks; 0 otherwise (R72). -/
def VF.mx (v : VF) : Nat := if v.op = 0x2C then v.sub else 0
/-- The destination format. -/
def VF.dst (v : VF) : Nat := if v.op = 0x2C then v.fmt2 else v.fmt

/-- The MX pairings of VCVT (R72). -/
def VF.mxOk (v : VF) : Bool :=
  if v.mx = 1 then [0, 1, 2].contains v.fmt && [3, 5, 6, 7, 8, 9].contains v.fmt2 && decide (v.elems % 32 = 0)
  else if v.mx = 2 then [3, 5, 6].contains v.fmt && [0, 1, 2].contains v.fmt2 && decide (v.elems % 32 = 0)
  else true

/-- The encoding is valid (R45, R54-R56, R72). -/
def VF.valid (v : VF) (w : Nat) : Bool :=
  onlyFields w [(57, 55), (54, 52), (51, 49), (48, 46), (45, 34), (33, 32), (31, 27), (26, 26), (23, 20), (19, 16)] &&
  (vFormats v.op).contains v.fmt && decide (v.sub ≤ vSubTop v.op) &&
  decide (v.fmt2 ≤ (if v.op = 0x2C then 10 else 0)) &&
  !(v.bs && decide (v.b ≠ 0)) && !(v.bs && decide (v.op = 0x2B)) && !(v.bs && decide (v.rnd = 3)) &&
  !(v.bs && decide (v.op = 0x2F) && decide (v.a ≠ 0)) && v.mxOk

/-- The operation reads operand B per element. -/
def VF.binary (v : VF) : Bool :=
  [0x20, 0x21, 0x22, 0x23, 0x24, 0x25, 0x2D].contains v.op || (decide (v.op = 0x26) && decide (v.sub = 1)) ||
  (decide (v.op = 0x2E) && decide (v.sub < 3))
/-- The word reads operand A from memory. -/
def VF.readsA (v : VF) : Bool := !(v.bs && decide (v.op = 0x2F))
/-- The word reads operand B from memory. -/
def VF.readsB (v : VF) : Bool := v.binary && !v.bs
/-- The word reads its destination (VFMA). -/
def VF.readsD (v : VF) : Bool := decide (v.op = 0x23)
/-- The word writes memory through AGD. -/
def VF.writesD (v : VF) : Bool := decide (v.op ≠ 0x2B)
/-- Uses of AGB for MX scales, one for each 64 blocks (R72). -/
def VF.scaleUses (v : VF) : Nat := if v.mx = 0 then 0 else ceilDiv (v.elems / 32) 64

/-- The generators the word uses. -/
def VF.ags (v : VF) : List Nat :=
  (if v.readsA then [v.a] else []) ++ (if v.readsB || decide (v.mx ≠ 0) then [v.b] else []) ++ (if v.writesD then [v.d] else [])
/-- The spaces the word writes. -/
def VF.writeSpaces (v : VF) (t : Stall) : List Nat :=
  (if v.writesD then [(t.ag v.d).space] else []) ++ (if v.mx = 1 then [(t.ag v.b).space] else [])

/-- The operands in lofts. -/
def VF.lofts (v : VF) (t : Stall) : Nat :=
  (if v.readsA && decide ((t.ag v.a).space ≠ 0) then 1 else 0) + (if v.readsB && decide ((t.ag v.b).space ≠ 0) then 1 else 0) +
  (if v.writesD && decide ((t.ag v.d).space ≠ 0) then 1 else 0)

/-- The cost factor c (R55): the table's, raised to the number of loft operands when more than one lies in a loft. -/
def VF.factor (v : VF) (t : Stall) : Nat :=
  let c := if 0x27 ≤ v.op ∧ v.op ≤ 0x2A then 2
           else if v.op = 0x2C then max 1 (ceilDiv (widthOf v.fmt2) (widthOf v.fmt)) else 1
  if 1 < v.lofts t then max c (v.lofts t) else c

/-- L of the slowest source (R55); 0 where no memory is read. -/
def VF.slow (v : VF) (t : Stall) : Nat :=
  max (if v.readsA then reach (t.ag v.a).space else 0)
    (max (if v.readsB then reach (t.ag v.b).space else 0) (if v.readsD then reach (t.ag v.d).space else 0))

/-- The cost of the word (R55, R72). -/
def VF.cost (v : VF) (t : Stall) : Nat := 4 + v.factor t * v.n + v.slow t + v.scaleUses

/-! The operation on one element. -/

/-- Everything one element's result depends on besides its operands: its rounding and its free values. -/
structure ElemEnv where
  rnd  : Rnd
  pick : Nat
  free : Nat

/-- The result pattern of one element of an element-by-element word (R55, R487): patterns of A, B and D. -/
def vElem (v : VF) (env : ElemEnv) (pa pb pd : Nat) : Nat :=
  let a := readFmt v.fmt pa
  let b := readFmt v.fmt pb
  let d := readFmt v.fmt pd
  let f := (fltOf v.fmt).getD fp32
  let n := if v.fmt = 0 then 2 else 1
  let out := writeFmt v.fmt env.rnd
  let w := widthOf v.fmt
  match v.op with
  | 0x20 => out (a.add b)
  | 0x21 => out (a.sub b)
  | 0x22 => out (a.mul b)
  | 0x23 => out (a.fma b d)
  | 0x24 => out (a.max b)
  | 0x25 => out (a.min b)
  | 0x26 => if v.sub = 0 then out (a.max (FV.zero false)) else if (FV.zero false).compare a = some .lt then out a else out (a.mul b)
  | 0x27 => vExp2 f n env.rnd env.pick a
  | 0x28 => vLog2 f n env.rnd env.pick env.free a
  | 0x29 => vRsqrt f n env.rnd env.pick env.free a
  | 0x2A => vRcp f n env.rnd env.pick env.free a
  | 0x2C => writeFmt v.fmt2 env.rnd a
  | 0x2D =>
    let c := a.compare b
    let r := if v.sub = 0 then decide (c = some .eq) else if v.sub = 1 then decide (c ≠ some .eq)
             else if v.sub = 2 then decide (c = some .lt) else decide (c = some .gt ∨ c = some .eq)
    writeFmt v.fmt .even (.fin false (b2n r) 0)
  | 0x2E => (if v.sub = 0 then pa &&& pb else if v.sub = 1 then pa ||| pb else if v.sub = 2 then pa ^^^ pb else 2 ^ w - 1 - pa) % 2 ^ w
  | _ => if v.bs then pb else pa

/-! MX blocks (R72). -/

/-- emax of an MX element format (R72). -/
def emax (code : Nat) : Int :=
  match code with | 5 => 8 | 6 => 15 | 7 => 4 | 8 => 2 | 9 => 2 | _ => 0

/-- ⌊log2⌋ of the largest magnitude among finite values; none when all are zero. -/
def blockLog (vs : List FV) : Option Int :=
  vs.foldl (fun acc v =>
    match v with
    | .fin _ m e =>
      if m = 0 then acc
      else
        let l := (Nat.log2 m : Int) + e
        some (match acc with | none => l | some x => max x l)
    | .nan _ _ => acc
    | .inf _ => acc) none

/-- The scale byte and the elements of an encoded MX block (R72). -/
def mxEncode (code : Nat) (vs : List FV) (rs : List Rnd) : Nat × List Nat :=
  if vs.any FV.special then (0xFF, vs.map (fun _ => 0))
  else
    let x := match blockLog vs with | none => (-127 : Int) | some l => clampInt (l - emax code) (-127) 127
    let shift : Int := if code = 3 then 6 - x else -x
    ((x + 127).toNat, (vs.zip rs).map (fun p => writeFmt code p.2 (p.1.scale shift)))

/-- One element of a decoded MX block (R72, R484). -/
def mxDecode (src dst scale : Nat) (r : Rnd) (p : Nat) : Nat :=
  if scale = 0xFF then writeFmt dst r FV.canon
  else writeFmt dst r ((readFmt src p).scale ((scale : Int) - 127 - (if src = 3 then 6 else 0)))

/-! The schedule (R56). -/

/-- What happens in a shed cycle of a vector word. -/
inductive VEv where
  | readA | readB | readD | write | scale
  deriving DecidableEq, Repr

/-- An event: its cycle, its place among events of that cycle, what, and the index of its chunk or use. -/
structure VEvent where
  cycle : Nat
  rank  : Nat
  ev    : VEv
  k     : Nat

/-- Insert an event in the order of cycle and rank, before those of the same cycle and rank. -/
def insertEvent (e : VEvent) : List VEvent → List VEvent
  | [] => [e]
  | x :: xs => if e.cycle < x.cycle ∨ (e.cycle = x.cycle ∧ e.rank ≤ x.rank) then e :: x :: xs else x :: insertEvent e xs

/-- Within the c cycles in which chunk k's operands are read, the spec does not say which: a free value chooses when c > 1 (R56, log 9). -/
def within (c free : Nat) : Nat := if c ≤ 1 then 0 else Config.pick free % c

/-- Destination units of the word. -/
def VF.dstUnits (v : VF) : Nat := if v.writesD then ceilDiv (v.elems * widthOf v.dst) 512 else 0

/-- The cycle of AGB use u: the cycle after the last source chunk of its blocks is read (R56); before the moves it causes itself. -/
def VF.scaleCycle (v : VF) (c l u : Nat) : Nat := l + c * (min (v.n - 1) ((2048 * (u + 1) - 1) / v.perChunk) + 1) - 1

/-- A cycle moved by one for each AGB use before it (R56). -/
def VF.moved (v : VF) (c l x : Nat) : Nat :=
  x + ((List.range v.scaleUses).filter (fun u => decide (v.scaleCycle c l u < x))).length

/-- The cycle of R56's formula in which destination unit j is written: that of the last chunk with elements in it, counted from that chunk's
first unit. A unit of VCVT SUB 2 waits until the scale bytes of its blocks have been read (log 14). -/
def VF.writeFormula (v : VF) (c l j : Nat) : Nat :=
  let lastElem := min (v.elems - 1) ((512 * j + 511) / widthOf v.dst)
  let src := lastElem / v.perChunk
  let firstUnit := if src = 0 then 0 else (src * v.perChunk * widthOf v.dst) / 512
  max (v.moved c l (l + 4 + c * src + (j - firstUnit)))
    (if v.mx = 2 then v.scaleCycle c l (lastElem / 2048) + lastElem / 2048 + 2 else 0)

/-- The cycle in which destination unit j is written: one unit per cycle, in order. -/
def VF.writeCycle (v : VF) (c l : Nat) : Nat → Nat
  | 0 => v.writeFormula c l 0
  | j + 1 => max (v.writeFormula c l (j + 1)) (v.writeCycle c l j + 1)

/-- The reads, writes and scale uses of a word in the order in which they take effect: a read sees only writes of earlier cycles, so
reads come first in a cycle (R56). -/
def VF.events (v : VF) (t : Stall) (fresh : Nat) : List VEvent :=
  let c := v.factor t
  let l := v.slow t
  let reads := (List.range v.n).flatMap (fun k =>
    let at' := fun (o : Nat) => v.moved c l (l + c * k) + within c (fresh + 3 * k + o)
    (if v.readsA then [⟨at' 0, 1, VEv.readA, k⟩] else []) ++ (if v.readsB then [⟨at' 1, 2, VEv.readB, k⟩] else []) ++
    (if v.readsD then [⟨at' 2, 3, VEv.readD, k⟩] else []))
  let writes := (List.range v.dstUnits).map (fun j => (⟨v.writeCycle c l j, 4, VEv.write, j⟩ : VEvent))
  let scales := (List.range v.scaleUses).map (fun u => (⟨v.scaleCycle c l u + 1 + u, 0, VEv.scale, u⟩ : VEvent))
  (reads ++ writes ++ scales).foldr insertEvent []

/-- A vector word under way: what has been read so far, the destination addresses of a VFMA, and the fault met. -/
structure VRun where
  t     : Stall
  as    : List Nat
  bs    : List Nat
  ds    : List Nat
  daddr : List Nat
  scale : List Nat
  err   : Option Nat

/-- The result of element `i` from what has been read. `bad` makes it a free value (R389, log 11). -/
def VRun.elem (r : VRun) (v : VF) (rs : List Rnd) (sv fresh : Nat) (bad : Bool) (i : Nat) : Nat :=
  let rnd := rs.getD i .even
  if bad then (Config.freeWord (fresh + i)).toNat % 2 ^ widthOf v.dst
  else if v.mx = 1 then
    let b := i / 32
    let vs := ((r.as.drop (32 * b)).take 32).map (readFmt v.fmt)
    (mxEncode v.fmt2 vs ((rs.drop (32 * b)).take 32)).2.getD (i % 32) 0
  else if v.mx = 2 then mxDecode v.fmt v.fmt2 (r.scale.getD (i / 32) 0) rnd (r.as.getD i 0)
  else
    vElem v ⟨rnd, Config.pick (fresh + i), (Config.freeWord (fresh + i)).toNat⟩ (r.as.getD i 0)
      (if v.bs then sv % 2 ^ widthOf v.fmt else r.bs.getD i 0) (r.ds.getD i 0)

/-- The bytes of destination unit j: the elements that lie in it, packed (R54, R74). -/
def VRun.unitBytes (r : VRun) (v : VF) (rs : List Rnd) (sv fresh : Nat) (bad : Bool) (j : Nat) : List Byte :=
  let w := widthOf v.dst
  let first := 512 * j / w
  let last := min v.elems (ceilDiv (512 * (j + 1)) w)
  let es := (List.range (last - first)).map (fun i => r.elem v rs sv fresh bad (first + i))
  let skip := 512 * j - first * w
  let total := min 512 (v.elems * w - 512 * j)
  leBytes (ceilDiv total 8) (leNat (pack w es) / 2 ^ skip)

/-- One event of a vector word. -/
def VRun.step (sid : Nat) (v : VF) (rs : List Rnd) (sv fresh : Nat) (bad : Bool) (r : VRun) (e : VEvent) : VRun :=
  if r.err.isSome then r
  else
    let n := v.perChunk
    let w := widthOf v.fmt
    match e.ev with
    | .readA =>
      match r.t.readUnit sid v.a with
      | (t, some bs) => { r with t := t, as := r.as ++ unpack w n bs }
      | (t, none) => { r with t := t, err := some fRange }
    | .readB =>
      match r.t.readUnit sid v.b with
      | (t, some bs) => { r with t := t, bs := r.bs ++ unpack w n bs }
      | (t, none) => { r with t := t, err := some fRange }
    | .readD =>
      let a := (r.t.ag v.d).yields.getD 0
      match r.t.readUnit sid v.d with
      | (t, some bs) => { r with t := t, ds := r.ds ++ unpack w n bs, daddr := r.daddr ++ [a] }
      | (t, none) => { r with t := t, err := some fRange }
    | .write =>
      let bytes := r.unitBytes v rs sv fresh bad e.k
      if v.readsD then
        { r with t := { r.t with mem := r.t.mem.writeBytes sid (r.t.ag v.d).space (r.daddr.getD e.k 0) bytes } }
      else
        match r.t.writeUnit sid v.d bytes with
        | (t, true) => { r with t := t }
        | (t, false) => { r with t := t, err := some fRange }
    | .scale =>
      if v.mx = 1 then
        let blocks := min 64 (v.elems / 32 - 64 * e.k)
        let bytes := (List.range blocks).map (fun b =>
          let vs := ((r.as.drop (2048 * e.k + 32 * b)).take 32).map (readFmt v.fmt)
          BitVec.ofNat 8 (mxEncode v.fmt2 vs []).1)
        match r.t.writeUnit sid v.b bytes with
        | (t, true) => { r with t := t }
        | (t, false) => { r with t := t, err := some fRange }
      else
        match r.t.readUnit sid v.b with
        | (t, some bs) => { r with t := t, scale := r.scale ++ bs.map (·.toNat) }
        | (t, none) => { r with t := t, err := some fRange }

/-! Reductions (R55, R56, R487). -/

/-- The sum of a floating VRED: from element 0, each addition rounded once to FP32. -/
def redSum (vs : List FV) (rs : List Rnd) : FV :=
  match vs.zip rs with
  | [] => FV.zero false
  | x :: xs => xs.foldl (fun acc p => fp32.read (fp32.write p.2 (acc.add p.1))) (fp32.read (fp32.write .even x.1))

/-- The result of a VRED (R55, R487). -/
def vRed (v : VF) (ps : List Nat) (rs : List Rnd) : Nat :=
  let vs := ps.map (readFmt v.fmt)
  let r := match vs with
    | [] => FV.zero false
    | x :: xs =>
      if v.sub = 0 then (if v.fmt < 3 then redSum vs rs else xs.foldl FV.add x)
      else if v.sub = 1 then xs.foldl FV.max x else xs.foldl FV.min x
  if v.fmt < 3 then fp32.write .even r else writeInt 32 .even r

/-- Advance the free-value counter by several uses. -/
def takeMany (s : State) (n : Nat) : State := { s with fresh := s.fresh + n }

/-- A vector word's execution (R54-R56). `res` is the outcome of the residue check where the word has one. -/
def vecWord (s : State) (sid : Nat) (res : Bool) (t : Stall) (w : Nat) : WordEnd :=
  let v := VF.of w
  if !v.valid w then .fault s fIllegal
  else if t.interlocked v.ags (v.writeSpaces t) then .hold s 1
  else
    let sv := t.sreg sid v.ss
    let rs := roundings v.rnd sv s.fresh v.elems
    let cost := v.cost t
    let port := t.ag v.a |>.space |> (fun x => decide (x ≠ 0) || decide (0 < v.lofts t))
    let r := (v.events t s.fresh).foldl (VRun.step sid v rs sv s.fresh res) ⟨t, [], [], [], [], [], none⟩
    let t := if v.op = 0x2B ∧ r.err.isNone then
               r.t.setSreg v.ss (if res then (Config.freeWord s.fresh).toNat else vRed v r.as rs)
             else r.t
    let s := takeMany (putStall s sid t) (4 * v.elems + 1)
    let s := if res then record s 3 (.stall sid) else s
    match r.err with
    | some c => .fault s c
    | none => .retire s cost port

/-- VADD (R55). -/
def execVadd (sid : StallId) (res : Bool) (s : State) : Host.Outcome State Fault Refusal :=
  .next (issueWord s sid 0x20 (vecWord s sid res))
/-- VSUB (R55). -/
def execVsub (sid : StallId) (res : Bool) (s : State) : Host.Outcome State Fault Refusal :=
  .next (issueWord s sid 0x21 (vecWord s sid res))
/-- VMUL (R55). -/
def execVmul (sid : StallId) (res : Bool) (s : State) : Host.Outcome State Fault Refusal :=
  .next (issueWord s sid 0x22 (vecWord s sid res))
/-- VFMA (R55). -/
def execVfma (sid : StallId) (res : Bool) (s : State) : Host.Outcome State Fault Refusal :=
  .next (issueWord s sid 0x23 (vecWord s sid res))
/-- VMAX (R55, R487). -/
def execVmax (sid : StallId) (res : Bool) (s : State) : Host.Outcome State Fault Refusal :=
  .next (issueWord s sid 0x24 (vecWord s sid res))
/-- VMIN (R55, R487). -/
def execVmin (sid : StallId) (res : Bool) (s : State) : Host.Outcome State Fault Refusal :=
  .next (issueWord s sid 0x25 (vecWord s sid res))
/-- VACT (R55). -/
def execVact (sid : StallId) (res : Bool) (s : State) : Host.Outcome State Fault Refusal :=
  .next (issueWord s sid 0x26 (vecWord s sid res))
/-- VEXP2 (R55, R56). -/
def execVexp2 (sid : StallId) (res : Bool) (s : State) : Host.Outcome State Fault Refusal :=
  .next (issueWord s sid 0x27 (vecWord s sid res))
/-- VLOG2 (R55, R56). -/
def execVlog2 (sid : StallId) (res : Bool) (s : State) : Host.Outcome State Fault Refusal :=
  .next (issueWord s sid 0x28 (vecWord s sid res))
/-- VRSQRT (R55, R56). -/
def execVrsqrt (sid : StallId) (res : Bool) (s : State) : Host.Outcome State Fault Refusal :=
  .next (issueWord s sid 0x29 (vecWord s sid res))
/-- VRCP (R55, R56). -/
def execVrcp (sid : StallId) (res : Bool) (s : State) : Host.Outcome State Fault Refusal :=
  .next (issueWord s sid 0x2A (vecWord s sid res))
/-- VRED (R55, R487). -/
def execVred (sid : StallId) (res : Bool) (s : State) : Host.Outcome State Fault Refusal :=
  .next (issueWord s sid 0x2B (vecWord s sid res))
/-- VCVT (R55, R70-R72). -/
def execVcvt (sid : StallId) (res : Bool) (s : State) : Host.Outcome State Fault Refusal :=
  .next (issueWord s sid 0x2C (vecWord s sid res))
/-- VCMP (R55, R487). -/
def execVcmp (sid : StallId) (res : Bool) (s : State) : Host.Outcome State Fault Refusal :=
  .next (issueWord s sid 0x2D (vecWord s sid res))
/-- VLOGIC (R55). -/
def execVlogic (sid : StallId) (s : State) : Host.Outcome State Fault Refusal :=
  .next (issueWord s sid 0x2E (vecWord s sid false))
/-- VCOPY (R55). -/
def execVcopy (sid : StallId) (s : State) : Host.Outcome State Fault Refusal :=
  .next (issueWord s sid 0x2F (vecWord s sid false))

end Sys2Proof.Machine
end

