-- ==== Sys2Proof/Machine/Dispatch.lean ====
section
/-! DEFINITION. One arm for each command. -/

namespace Sys2Proof.Machine

/-- The effect of a command on everything but the queue. -/
def exec (i : Instr) (s : State) : Host.Outcome State Fault Refusal :=
  match i with
  | .nop sid => Sys2Proof.Machine.execNop sid s
  | .endW sid => Sys2Proof.Machine.execEnd sid s
  | .loop sid => Sys2Proof.Machine.execLoop sid s
  | .brt sid => Sys2Proof.Machine.execBrt sid s
  | .brtWaitSatisfied sid => Sys2Proof.Machine.execBrtWaitSatisfied sid s
  | .br sid => Sys2Proof.Machine.execBr sid s
  | .jmp sid => Sys2Proof.Machine.execJmp sid s
  | .waitg sid => Sys2Proof.Machine.execWaitg sid s
  | .arrive sid => Sys2Proof.Machine.execArrive sid s
  | .mov sid par => Sys2Proof.Machine.execMov sid par s
  | .movq sid => Sys2Proof.Machine.execMovq sid s
  | .movqs sid => Sys2Proof.Machine.execMovqs sid s
  | .qrel sid => Sys2Proof.Machine.execQrel sid s
  | .lds sid par => Sys2Proof.Machine.execLds sid par s
  | .sts sid => Sys2Proof.Machine.execSts sid s
  | .agb sid => Sys2Proof.Machine.execAgb sid s
  | .ags sid => Sys2Proof.Machine.execAgs sid s
  | .vadd sid res => Sys2Proof.Machine.execVadd sid res s
  | .vsub sid res => Sys2Proof.Machine.execVsub sid res s
  | .vmul sid res => Sys2Proof.Machine.execVmul sid res s
  | .vfma sid res => Sys2Proof.Machine.execVfma sid res s
  | .vmax sid res => Sys2Proof.Machine.execVmax sid res s
  | .vmin sid res => Sys2Proof.Machine.execVmin sid res s
  | .vact sid res => Sys2Proof.Machine.execVact sid res s
  | .vexp2 sid res => Sys2Proof.Machine.execVexp2 sid res s
  | .vlog2 sid res => Sys2Proof.Machine.execVlog2 sid res s
  | .vrsqrt sid res => Sys2Proof.Machine.execVrsqrt sid res s
  | .vrcp sid res => Sys2Proof.Machine.execVrcp sid res s
  | .vred sid res => Sys2Proof.Machine.execVred sid res s
  | .vcvt sid res => Sys2Proof.Machine.execVcvt sid res s
  | .vcmp sid res => Sys2Proof.Machine.execVcmp sid res s
  | .vlogic sid => Sys2Proof.Machine.execVlogic sid s
  | .vcopy sid => Sys2Proof.Machine.execVcopy sid s
  | .send sid => Sys2Proof.Machine.execSend sid s
  | .sendl sid => Sys2Proof.Machine.execSendl sid s
  | .sends sid => Sys2Proof.Machine.execSends sid s
  | .relay sid => Sys2Proof.Machine.execRelay sid s
  | .tinc sid => Sys2Proof.Machine.execTinc sid s
  | .tdec sid => Sys2Proof.Machine.execTdec sid s
  | .trd sid => Sys2Proof.Machine.execTrd sid s
  | .tset sid => Sys2Proof.Machine.execTset sid s
  | .brand sid => Sys2Proof.Machine.execBrand sid s
  | .ballast sid => Sys2Proof.Machine.execBallast sid s
  | .salu sid => Sys2Proof.Machine.execSalu sid s
  | .sli sid => Sys2Proof.Machine.execSli sid s
  | .dmm sid => Sys2Proof.Machine.execDmm sid s
  | .drain sid => Sys2Proof.Machine.execDrain sid s
  | .dexp sid => Sys2Proof.Machine.execDexp sid s
  | .dstat sid => Sys2Proof.Machine.execDstat sid s
  | .smm sid => Sys2Proof.Machine.execSmm sid s
  | .sdd sid => Sys2Proof.Machine.execSdd sid s
  | .psel sid => Sys2Proof.Machine.execPsel sid s
  | .pchk sid => Sys2Proof.Machine.execPchk sid s
  | .dmmCompletion sid => Sys2Proof.Machine.execDmmCompletion sid s
  | .rakeCompletion sid => Sys2Proof.Machine.execRakeCompletion sid s
  | .overflowReplay sid rake => Sys2Proof.Machine.execOverflowReplay sid rake s
  | .dispatch sid par => Sys2Proof.Machine.execDispatch sid par s
  | .messageAcceptance sid vc par => Sys2Proof.Machine.execMessageAcceptance sid vc par s
  | .messageComplete sid vc => Sys2Proof.Machine.execMessageComplete sid vc s
  | .relayCopy sid => Sys2Proof.Machine.execRelayCopy sid s
  | .contributionCounted sid vc => Sys2Proof.Machine.execContributionCounted sid vc s
  | .releaseBegin sid slot => Sys2Proof.Machine.execReleaseBegin sid slot s
  | .releaseComplete sid slot => Sys2Proof.Machine.execReleaseComplete sid slot s
  | .penLeave sid => Sys2Proof.Machine.execPenLeave sid s
  | .flitHop mid flit adaptive crcOk => Sys2Proof.Machine.execFlitHop mid flit adaptive crcOk s
  | .sidingInjection port what => Sys2Proof.Machine.execSidingInjection port what s
  | .progressWatchdogFire yard shed => Sys2Proof.Machine.execProgressWatchdogFire yard shed s
  | .gateOpening scope unit line => Sys2Proof.Machine.execGateOpening scope unit line s
  | .epochDrained => Sys2Proof.Machine.execEpochDrained s
  | .secEpochWrite o data => Sys2Proof.Machine.execSecEpochWrite o data s
  | .routeTableWrite version sid entries => Sys2Proof.Machine.execRouteTableWrite version sid entries s
  | .detourInstall => Sys2Proof.Machine.execDetourInstall s
  | .load o place => Sys2Proof.Machine.execLoad o place s
  | .loadComplete place memErr => Sys2Proof.Machine.execLoadComplete place memErr s
  | .arm o place auto => Sys2Proof.Machine.execArm o place auto s
  | .armComplete => Sys2Proof.Machine.execArmComplete s
  | .start o place => Sys2Proof.Machine.execStart o place s
  | .abort o => Sys2Proof.Machine.execAbort o s
  | .abortedReached => Sys2Proof.Machine.execAbortedReached s
  | .disarm o place => Sys2Proof.Machine.execDisarm o place s
  | .evict o place => Sys2Proof.Machine.execEvict o place s
  | .reload o place => Sys2Proof.Machine.execReload o place s
  | .reloadComplete place memErr => Sys2Proof.Machine.execReloadComplete place memErr s
  | .endLatch => Sys2Proof.Machine.execEndLatch s
  | .startOpening => Sys2Proof.Machine.execStartOpening s
  | .loftWriteLanding sid => Sys2Proof.Machine.execLoftWriteLanding sid s
  | .streamIssue o port ctx => Sys2Proof.Machine.execStreamIssue o port ctx s
  | .streamCancel o port ctx => Sys2Proof.Machine.execStreamCancel o port ctx s
  | .sdata port car => Sys2Proof.Machine.execSdata port car s
  | .blockRelease port ctx => Sys2Proof.Machine.execBlockRelease port ctx s
  | .creditMessage port => Sys2Proof.Machine.execCreditMessage port s
  | .ackReport port ctx => Sys2Proof.Machine.execAckReport port ctx s
  | .softGap port ctx => Sys2Proof.Machine.execSoftGap port ctx s
  | .hardGap port ctx => Sys2Proof.Machine.execHardGap port ctx s
  | .marshallingEntryWrite o version index data => Sys2Proof.Machine.execMarshallingEntryWrite o version index data s
  | .bucketIssue o ctx => Sys2Proof.Machine.execBucketIssue o ctx s
  | .bucketCancel o ctx => Sys2Proof.Machine.execBucketCancel o ctx s
  | .gradientPart port => Sys2Proof.Machine.execGradientPart port s
  | .bucketSendStart ctx => Sys2Proof.Machine.execBucketSendStart ctx s
  | .bucketCloseSent ctx => Sys2Proof.Machine.execBucketCloseSent ctx s
  | .gret port car => Sys2Proof.Machine.execGret port car s
  | .bucketTimeout ctx => Sys2Proof.Machine.execBucketTimeout ctx s
  | .bagree port car => Sys2Proof.Machine.execBagree port car s
  | .brsnd port car => Sys2Proof.Machine.execBrsnd port car s
  | .basum port car => Sys2Proof.Machine.execBasum port car s
  | .ststop port car => Sys2Proof.Machine.execStstop port car s
  | .bstop port car => Sys2Proof.Machine.execBstop port car s
  | .portCfgWrite o port data => Sys2Proof.Machine.execPortCfgWrite o port data s
  | .train o port => Sys2Proof.Machine.execTrain o port s
  | .qclr o port => Sys2Proof.Machine.execQclr o port s
  | .rekey o port => Sys2Proof.Machine.execRekey o port s
  | .drop o port => Sys2Proof.Machine.execDrop o port s
  | .trainingAttemptEnd port lanes => Sys2Proof.Machine.execTrainingAttemptEnd port lanes s
  | .tryintExpiry port => Sys2Proof.Machine.execTryintExpiry port s
  | .hello port car sigsOk => Sys2Proof.Machine.execHello port car sigsOk s
  | .kex port car sigsOk => Sys2Proof.Machine.execKex port car sigsOk s
  | .handshakeTimeout port => Sys2Proof.Machine.execHandshakeTimeout port s
  | .authRetry port => Sys2Proof.Machine.execAuthRetry port s
  | .markerCar port good frame => Sys2Proof.Machine.execMarkerCar port good frame s
  | .lctl port car => Sys2Proof.Machine.execLctl port car s
  | .lctlSend port => Sys2Proof.Machine.execLctlSend port s
  | .replayTimeout port => Sys2Proof.Machine.execReplayTimeout port s
  | .berWindow port errBits uncorr lost => Sys2Proof.Machine.execBerWindow port errBits uncorr lost s
  | .noCarTimeout port => Sys2Proof.Machine.execNoCarTimeout port s
  | .retrainTimeout port => Sys2Proof.Machine.execRetrainTimeout port s
  | .rekeyTimer port => Sys2Proof.Machine.execRekeyTimer port s
  | .beaconSend => Sys2Proof.Machine.execBeaconSend s
  | .beacon port car t4 => Sys2Proof.Machine.execBeacon port car t4 s
  | .mgmt port car => Sys2Proof.Machine.execMgmt port car s
  | .bridgeTimeout port tid => Sys2Proof.Machine.execBridgeTimeout port tid s
  | .svc port car => Sys2Proof.Machine.execSvc port car s
  | .windowRead o addr wlen => Sys2Proof.Machine.execWindowRead o addr wlen s
  | .windowWrite o addr data => Sys2Proof.Machine.execWindowWrite o addr data s
  | .registerWrite o addr data => Sys2Proof.Machine.execRegisterWrite o addr data s
  | .mbxPost o n hi => Sys2Proof.Machine.execMbxPost o n hi s
  | .mbxRing o n data => Sys2Proof.Machine.execMbxRing o n data s
  | .mbxDoorClear o n data => Sys2Proof.Machine.execMbxDoorClear o n data s
  | .mbxMaskWrite o n data => Sys2Proof.Machine.execMbxMaskWrite o n data s
  | .pop o n => Sys2Proof.Machine.execPop o n s
  | .flush o n => Sys2Proof.Machine.execFlush o n s
  | .rxrdy o n value => Sys2Proof.Machine.execRxrdy o n value s
  | .crheadWrite o r data => Sys2Proof.Machine.execCrheadWrite o r data s
  | .crcfgWrite o r data => Sys2Proof.Machine.execCrcfgWrite o r data s
  | .pclr o yard shed => Sys2Proof.Machine.execPclr o yard shed s
  | .pwrCapWrite o data => Sys2Proof.Machine.execPwrCapWrite o data s
  | .allocatorInterval m => Sys2Proof.Machine.execAllocatorInterval m s
  | .rampInterval m => Sys2Proof.Machine.execRampInterval m s
  | .idleProposal yard shed cause => Sys2Proof.Machine.execIdleProposal yard shed cause s
  | .shedWake yard shed cause => Sys2Proof.Machine.execShedWake yard shed cause s
  | .wakeComplete yard shed => Sys2Proof.Machine.execWakeComplete yard shed s
  | .yardRailInterval yard watts => Sys2Proof.Machine.execYardRailInterval yard watts s
  | .staggerArm o data => Sys2Proof.Machine.execStaggerArm o data s
  | .staggerSlotReached => Sys2Proof.Machine.execStaggerSlotReached s
  | .nextevWrite o data => Sys2Proof.Machine.execNextevWrite o data s
  | .lshedAssert => Sys2Proof.Machine.execLshedAssert s
  | .lreq o data => Sys2Proof.Machine.execLreq o data s
  | .loadShedEnd => Sys2Proof.Machine.execLoadShedEnd s
  | .feedChange feedB present rideThrough => Sys2Proof.Machine.execFeedChange feedB present rideThrough s
  | .thmClkWrite o data => Sys2Proof.Machine.execThmClkWrite o data s
  | .droopDetect yard shed deep => Sys2Proof.Machine.execDroopDetect yard shed deep s
  | .droopRecovery yard shed => Sys2Proof.Machine.execDroopRecovery yard shed s
  | .sensorSample sheds supplies => Sys2Proof.Machine.execSensorSample sheds supplies s
  | .throttleStep yard shed up => Sys2Proof.Machine.execThrottleStep yard shed up s
  | .tripRailOff => Sys2Proof.Machine.execTripRailOff s
  | .coreRailTrip yard => Sys2Proof.Machine.execCoreRailTrip yard s
  | .trackRailTrip yard => Sys2Proof.Machine.execTrackRailTrip yard s
  | .remapFault u => Sys2Proof.Machine.execRemapFault u s
  | .remapRun => Sys2Proof.Machine.execRemapRun s
  | .remapComplete => Sys2Proof.Machine.execRemapComplete s
  | .spareRetirement u => Sys2Proof.Machine.execSpareRetirement u s
  | .lungeStart o data => Sys2Proof.Machine.execLungeStart o data s
  | .lungeComplete r => Sys2Proof.Machine.execLungeComplete r s
  | .studbookCommit r => Sys2Proof.Machine.execStudbookCommit r s
  | .lifeUpdate hours hourly => Sys2Proof.Machine.execLifeUpdate hours hourly s
  | .attest internal => Sys2Proof.Machine.execAttest internal s
  | .keyreg sigOk => Sys2Proof.Machine.execKeyreg sigOk s
  | .sbread internal => Sys2Proof.Machine.execSbread internal s
  | .suspect => Sys2Proof.Machine.execSuspect s
  | .lungeset img => Sys2Proof.Machine.execLungeset img s
  | .groomStart g => Sys2Proof.Machine.execGroomStart g s
  | .firmwareRecoveryImage last img => Sys2Proof.Machine.execFirmwareRecoveryImage last img s
  | .track o auto hsrc => Sys2Proof.Machine.execTrack o auto hsrc s
  | .core o auto hsrc => Sys2Proof.Machine.execCore o auto hsrc s
  | .clocks o auto hsrc => Sys2Proof.Machine.execClocks o auto hsrc s
  | .bist o auto hsrc => Sys2Proof.Machine.execBist o auto hsrc s
  | .remap o auto hsrc => Sys2Proof.Machine.execRemap o auto hsrc s
  | .loft o auto hsrc => Sys2Proof.Machine.execLoft o auto hsrc s
  | .ports o auto hsrc => Sys2Proof.Machine.execPorts o auto hsrc s
  | .hostler o auto hsrc => Sys2Proof.Machine.execHostler o auto hsrc s
  | .ready o auto hsrc => Sys2Proof.Machine.execReady o auto hsrc s
  | .bootStepComplete r => Sys2Proof.Machine.execBootStepComplete r s
  | .cold o => Sys2Proof.Machine.execCold o s
  | .warm o => Sys2Proof.Machine.execWarm o s
  | .resetPin low => Sys2Proof.Machine.execResetPin low s
  | .powerOn feedB => Sys2Proof.Machine.execPowerOn feedB s
  | .groomLock o data => Sys2Proof.Machine.execGroomLock o data s
  | .i3cTransaction op => Sys2Proof.Machine.execI3cTransaction op s
  | .extest drive => Sys2Proof.Machine.execExtest drive s
  | .idcode => Sys2Proof.Machine.execIdcode s
  | .samplePreload preload => Sys2Proof.Machine.execSamplePreload preload s
  | .bypass => Sys2Proof.Machine.execBypass s
  | .tapReset => Sys2Proof.Machine.execTapReset s
  | .rekeyRetry port => Sys2Proof.Machine.execRekeyRetry port s
  | .operatorImageLoad img => Sys2Proof.Machine.execOperatorImageLoad img s
  | .i3cCcc ccc => Sys2Proof.Machine.execI3cCcc ccc s
  | .ballastRunOut sid => Sys2Proof.Machine.execBallastRunOut sid s

end Sys2Proof.Machine
end

