-- ==== Sys2Proof/WellFormed.lean ====
section
/-! DEFINITION. Which terms of `Instr` are commands: list operands have the length that their row's rule gives. -/

namespace Sys2Proof

/-- A shed's reading names its 4 Floor sensors and its 3 loft sensors (R367). -/
def ShedReading.wf (r : ShedReading) : Bool := decide (r.floor.length = 4) && decide (r.loft.length = 3)

/-- The term is a command: a route table write carries 64 entries (R163), a training attempt and an error window report on 8 lanes
(R284, R319), and every shed's reading is whole. The other operands are bounded by their types. -/
def Instr.wf : Instr → Bool
  | .routeTableWrite _ _ entries => decide (entries.length = 64)
  | .trainingAttemptEnd _ lanes => decide (lanes.length = 8)
  | .berWindow _ errBits _ lost => decide (errBits.length = 8) && decide (lost.length = 8)
  | .sensorSample sheds _ => sheds.all ShedReading.wf
  | _ => true

end Sys2Proof
end

