-- ==== Sys2Proof/Safety.lean ====
section
/-! DEFINITION. What counts as a safe run, in the terms that the statements use. -/

namespace Sys2Proof.Machine

/-- Every waiting command is a command. -/
def QueueWf (s : State) : Prop := ∀ c ∈ s.pending, Instr.wf c = true

/-- The maps of the device's units and the memories that commands write by address are in canonical form: rising keys, and no cell
that says what an unlisted one says (log 5). Equal contents are then equal data. -/
structure Canonical (s : State) : Prop where
  stalls  : gwf s.stalls = true
  sheds   : gwf s.sheds = true
  yards   : gwf s.yards = true
  psheds  : gwf s.psheds = true
  ports   : gwf s.ports = true
  places  : gwf s.sec.places = true
  buckets : gwf s.mars.buckets = true
  boxes   : gwf s.mbx.boxes = true
  rings   : gwf s.mbx.rings = true
  hmem    : Memory.wf s.hmem = true
  gwin    : Memory.wf s.gwin = true

/-- The anti-rollback thermometers are in range (R412): no level lies past the end of its thermometer. -/
structure ArbInRange (s : State) : Prop where
  wf    : gwf s.fuses.arb = true
  bound : ∀ k, gget s.fuses.arb k ≤ arbMax k

/-- What a command leaves of a state `c`, whatever the command: the queue behind it, every fuse but the anti-rollback thermometers,
those no lower than they were (R412: a blown fuse stays blown), and the canonical forms. -/
structure Keeps (c s : State) : Prop where
  pending : s.pending = c.pending
  fuses   : { s.fuses with arb := c.fuses.arb } = c.fuses
  arb     : ∀ k, gget c.fuses.arb k ≤ gget s.fuses.arb k
  inRange : ArbInRange s
  canon   : Canonical s

/-- The parts that the state is made of, one for each of its fields. -/
inductive StatePart where
  | dev | fuses | grm | pwr | thm | err | sec | mbx | mars | ports
  | yards | sheds | psheds | stalls | routeA | routeB | track | nextId | rm | lunge
  | i3c | tap | pins | hmem | gwin | fresh | resp | pending
  deriving DecidableEq, Repr

/-- Two states agree on a part. -/
def samePart (s t : State) : StatePart → Prop
  | .dev => t.dev = s.dev
  | .fuses => t.fuses = s.fuses
  | .grm => t.grm = s.grm
  | .pwr => t.pwr = s.pwr
  | .thm => t.thm = s.thm
  | .err => t.err = s.err
  | .sec => t.sec = s.sec
  | .mbx => t.mbx = s.mbx
  | .mars => t.mars = s.mars
  | .ports => t.ports = s.ports
  | .yards => t.yards = s.yards
  | .sheds => t.sheds = s.sheds
  | .psheds => t.psheds = s.psheds
  | .stalls => t.stalls = s.stalls
  | .routeA => t.routeA = s.routeA
  | .routeB => t.routeB = s.routeB
  | .track => t.track = s.track
  | .nextId => t.nextId = s.nextId
  | .rm => t.rm = s.rm
  | .lunge => t.lunge = s.lunge
  | .i3c => t.i3c = s.i3c
  | .tap => t.tap = s.tap
  | .pins => t.pins = s.pins
  | .hmem => t.hmem = s.hmem
  | .gwin => t.gwin = s.gwin
  | .fresh => t.fresh = s.fresh
  | .resp => t.resp = s.resp
  | .pending => t.pending = s.pending

/-- Two states agree on every part that is not listed. -/
structure Same (ps : List StatePart) (s t : State) : Prop where
  kept : ∀ p, p ∉ ps → samePart s t p

/-- A routine word: its stall and shed, the free-value counter, and, when it faults, the error registers and the abort of the section. -/
def wordParts : List StatePart := [.grm, .err, .sec, .mbx, .mars, .ports, .sheds, .stalls, .track, .fresh]
/-- A send word: as a routine word, and the track. -/
def sendParts : List StatePart := [.grm, .err, .sec, .mbx, .mars, .ports, .yards, .sheds, .stalls, .track, .nextId, .fresh]
/-- A command of SEC.CTRL: the section controller, the answer, and what the command sets going. -/
def secParts : List StatePart := [.grm, .pwr, .err, .sec, .mbx, .mars, .ports, .yards, .sheds, .psheds, .stalls, .track, .lunge, .fresh, .resp]
/-- A control car: its port, the bucket it names, the errors it shows. -/
def sctlParts : List StatePart := [.dev, .grm, .err, .mbx, .mars, .ports, .sheds]
/-- A link event that may draw random bytes or take a free value. -/
def linkFreeParts : List StatePart := [.dev, .grm, .err, .mbx, .ports, .sheds, .fresh]
/-- A link event: its port, the source of the wall counter, the errors it shows. -/
def linkParts : List StatePart := [.dev, .grm, .err, .mbx, .ports, .sheds]
/-- Everything: a register write, a reset, the removal of power. -/
def allParts : List StatePart :=
  [.dev, .fuses, .grm, .pwr, .thm, .err, .sec, .mbx, .mars, .ports, .yards, .sheds, .psheds, .stalls,
   .routeA, .routeB, .track, .nextId, .rm, .lunge, .i3c, .tap, .pins, .hmem, .gwin, .fresh, .resp, .pending]

/-- The parts of the state that a command can change, whatever its operands and whatever the state. -/
def touches : Instr → List StatePart
  | .nop _ => wordParts
  | .endW _ => wordParts
  | .loop _ => wordParts
  | .brt _ => wordParts
  | .brtWaitSatisfied _ => wordParts
  | .br _ => wordParts
  | .jmp _ => wordParts
  | .waitg _ => wordParts
  | .arrive _ => wordParts
  | .mov _ _ => wordParts
  | .movq _ => wordParts
  | .movqs _ => wordParts
  | .qrel _ => wordParts
  | .lds _ _ => wordParts
  | .sts _ => wordParts
  | .agb _ => wordParts
  | .ags _ => wordParts
  | .vadd _ _ => wordParts
  | .vsub _ _ => wordParts
  | .vmul _ _ => wordParts
  | .vfma _ _ => wordParts
  | .vmax _ _ => wordParts
  | .vmin _ _ => wordParts
  | .vact _ _ => wordParts
  | .vexp2 _ _ => wordParts
  | .vlog2 _ _ => wordParts
  | .vrsqrt _ _ => wordParts
  | .vrcp _ _ => wordParts
  | .vred _ _ => wordParts
  | .vcvt _ _ => wordParts
  | .vcmp _ _ => wordParts
  | .vlogic _ => wordParts
  | .vcopy _ => wordParts
  | .send _ => sendParts
  | .sendl _ => sendParts
  | .sends _ => sendParts
  | .relay _ => wordParts
  | .tinc _ => wordParts
  | .tdec _ => wordParts
  | .trd _ => wordParts
  | .tset _ => wordParts
  | .brand _ => wordParts
  | .ballast _ => wordParts
  | .salu _ => wordParts
  | .sli _ => wordParts
  | .dmm _ => wordParts
  | .drain _ => wordParts
  | .dexp _ => wordParts
  | .dstat _ => wordParts
  | .smm _ => wordParts
  | .sdd _ => wordParts
  | .psel _ => wordParts
  | .pchk _ => wordParts
  | .dmmCompletion _ => wordParts
  | .rakeCompletion _ => wordParts
  | .overflowReplay _ _ => [.grm, .err, .mbx, .sheds, .stalls]
  | .dispatch _ _ => [.grm, .err, .mbx, .sheds, .stalls, .fresh]
  | .messageAcceptance _ _ _ => [.grm, .err, .sec, .mbx, .mars, .ports, .yards, .sheds, .psheds, .stalls, .track, .nextId, .fresh]
  | .messageComplete _ _ => [.grm, .err, .mbx, .yards, .sheds, .stalls, .track]
  | .relayCopy _ => [.yards, .stalls, .track, .nextId]
  | .contributionCounted _ _ => [.grm, .err, .mbx, .yards, .sheds, .stalls, .track]
  | .releaseBegin _ _ => [.stalls, .nextId]
  | .releaseComplete _ _ => [.sheds, .stalls]
  | .penLeave _ => [.grm, .err, .mbx, .sheds, .stalls]
  | .flitHop _ _ _ _ => [.grm, .err, .sec, .mbx, .mars, .ports, .yards, .sheds, .stalls, .track, .rm, .fresh]
  | .sidingInjection _ _ => [.ports, .yards, .track, .nextId]
  | .progressWatchdogFire _ _ => wordParts
  | .gateOpening _ _ _ => [.grm, .err, .sec, .mbx, .yards, .sheds, .psheds, .stalls]
  | .epochDrained => [.sec]
  | .secEpochWrite _ _ => [.sec, .resp]
  | .routeTableWrite _ _ _ => [.yards, .routeA, .routeB]
  | .detourInstall => [.sec, .routeA, .routeB]
  | .load _ _ => secParts
  | .loadComplete _ _ => [.grm, .err, .sec, .mbx, .sheds, .stalls]
  | .arm _ _ _ => secParts
  | .armComplete => [.pwr, .sec, .mars, .yards, .sheds, .psheds, .stalls, .routeA, .routeB]
  | .start _ _ => secParts
  | .abort _ => secParts
  | .abortedReached => [.dev, .pwr, .err, .sec, .mbx, .mars, .ports, .yards, .sheds, .psheds, .stalls]
  | .disarm _ _ => secParts
  | .evict _ _ => secParts
  | .reload _ _ => secParts
  | .reloadComplete _ _ => [.grm, .err, .sec, .mbx, .sheds, .stalls]
  | .endLatch => [.dev, .grm, .pwr, .err, .sec, .mbx, .mars, .yards, .sheds, .psheds, .stalls]
  | .startOpening => [.dev, .pwr, .err, .sec, .yards, .sheds, .stalls, .fresh]
  | .loftWriteLanding _ => [.grm, .err, .mbx, .yards, .sheds, .psheds, .stalls, .track, .nextId]
  | .streamIssue _ _ _ => [.sec, .ports, .resp]
  | .streamCancel _ _ _ => [.sec, .ports, .resp]
  | .sdata _ _ => [.dev, .grm, .err, .sec, .mbx, .mars, .ports, .sheds, .stalls, .track, .fresh]
  | .blockRelease _ _ => [.grm, .err, .sec, .mbx, .ports, .sheds, .hmem]
  | .creditMessage _ => [.ports]
  | .ackReport _ _ => [.ports]
  | .softGap _ _ => [.grm, .err, .sec, .mbx, .ports, .sheds]
  | .hardGap _ _ => wordParts
  | .marshallingEntryWrite _ _ _ _ => [.mars, .resp]
  | .bucketIssue _ _ => [.mars, .ports, .resp]
  | .bucketCancel _ _ => [.mars, .ports, .resp]
  | .gradientPart _ => [.grm, .err, .mbx, .mars, .ports, .sheds, .hmem]
  | .bucketSendStart _ => [.mars, .ports]
  | .bucketCloseSent _ => [.mars, .ports]
  | .gret _ _ => [.dev, .grm, .err, .mbx, .mars, .ports, .sheds, .hmem]
  | .bucketTimeout _ => [.grm, .err, .mbx, .mars, .ports, .sheds]
  | .bagree _ _ => sctlParts
  | .brsnd _ _ => sctlParts
  | .basum _ _ => sctlParts
  | .ststop _ _ => sctlParts
  | .bstop _ _ => sctlParts
  | .portCfgWrite _ _ _ => [.dev, .ports, .resp]
  | .train _ _ => [.ports, .resp]
  | .qclr _ _ => [.ports, .resp]
  | .rekey _ _ => [.ports, .fresh, .resp]
  | .drop _ _ => [.dev, .ports, .resp]
  | .trainingAttemptEnd _ _ => [.dev, .ports, .fresh]
  | .tryintExpiry _ => [.ports]
  | .hello _ _ _ => linkFreeParts
  | .kex _ _ _ => linkParts
  | .handshakeTimeout _ => linkParts
  | .authRetry _ => [.ports, .fresh]
  | .markerCar _ _ _ => [.ports]
  | .lctl _ _ => linkFreeParts
  | .lctlSend _ => [.ports]
  | .replayTimeout _ => linkParts
  | .berWindow _ _ _ _ => linkParts
  | .noCarTimeout _ => [.dev, .ports]
  | .retrainTimeout _ => [.dev, .ports]
  | .rekeyTimer _ => linkFreeParts
  | .beaconSend => [.dev, .ports]
  | .beacon _ _ _ => linkFreeParts
  | .mgmt _ _ => allParts
  | .bridgeTimeout _ _ => [.ports]
  | .svc _ _ => [.dev, .grm, .err, .mbx, .ports, .sheds, .hmem, .fresh]
  | .windowRead _ _ _ => [.resp]
  | .windowWrite _ _ _ => [.hmem, .gwin, .resp]
  | .registerWrite _ _ _ => allParts
  | .mbxPost _ _ _ => [.mbx, .ports, .i3c, .resp]
  | .mbxRing _ _ _ => [.mbx, .ports, .i3c, .resp]
  | .mbxDoorClear _ _ _ => [.mbx, .resp]
  | .mbxMaskWrite _ _ _ => [.mbx, .ports, .i3c, .resp]
  | .pop _ _ => [.mbx, .resp]
  | .flush _ _ => [.mbx, .resp]
  | .rxrdy _ _ _ => [.grm, .mbx, .resp]
  | .crheadWrite _ _ _ => [.mbx, .resp]
  | .crcfgWrite _ _ _ => [.mbx, .resp]
  | .pclr _ _ _ => [.sheds, .resp]
  | .pwrCapWrite _ _ => [.pwr, .resp]
  | .allocatorInterval _ => [.pwr]
  | .rampInterval _ => [.grm, .pwr, .err, .sec, .mbx, .sheds, .psheds, .stalls, .fresh]
  | .idleProposal _ _ _ => [.psheds]
  | .shedWake _ _ _ => [.psheds]
  | .wakeComplete _ _ => [.sheds, .psheds, .stalls]
  | .yardRailInterval _ _ => [.yards]
  | .staggerArm _ _ => [.pwr, .resp]
  | .staggerSlotReached => [.pwr, .sec, .yards, .sheds, .psheds, .stalls]
  | .nextevWrite _ _ => [.pwr, .psheds, .resp]
  | .lshedAssert => [.pwr, .sec, .psheds, .stalls, .pins, .fresh]
  | .lreq _ _ => [.pwr, .sec, .psheds, .stalls, .fresh, .resp]
  | .loadShedEnd => [.pwr, .sec, .psheds, .stalls, .pins, .fresh]
  | .feedChange _ _ _ => allParts
  | .thmClkWrite _ _ => [.thm, .resp]
  | .droopDetect _ _ _ => [.psheds, .fresh]
  | .droopRecovery _ _ => [.psheds]
  | .sensorSample _ _ => [.dev, .grm, .pwr, .thm, .err, .sec, .mbx, .mars, .ports, .yards, .sheds, .psheds, .stalls, .track, .rm, .fresh]
  | .throttleStep _ _ _ => [.psheds]
  | .tripRailOff => [.dev, .thm, .ports, .yards, .stalls]
  | .coreRailTrip _ => [.dev, .grm, .pwr, .err, .sec, .mbx, .mars, .ports, .yards, .sheds, .psheds, .stalls, .track, .rm, .fresh]
  | .trackRailTrip _ => [.dev, .grm, .pwr, .err, .sec, .mbx, .mars, .ports, .yards, .sheds, .psheds, .stalls, .track, .rm, .fresh]
  | .remapFault _ => [.grm, .yards, .sheds, .rm]
  | .remapRun => [.grm, .sec, .yards, .sheds, .rm]
  | .remapComplete => [.dev, .pwr, .sec, .yards, .sheds, .psheds, .stalls, .rm, .fresh]
  | .spareRetirement _ => [.grm, .yards, .sheds, .psheds, .rm]
  | .lungeStart _ _ => [.err, .sec, .psheds, .stalls, .lunge, .fresh, .resp]
  | .lungeComplete _ => [.grm, .err, .mbx, .ports, .psheds, .rm, .lunge, .i3c, .fresh]
  | .studbookCommit _ => [.grm, .err, .mbx, .ports, .sheds, .i3c, .fresh]
  | .lifeUpdate _ _ => [.grm]
  | .attest _ => [.mbx, .ports, .i3c, .hmem, .gwin, .fresh]
  | .keyreg _ => [.grm, .mbx, .ports, .i3c, .fresh]
  | .sbread _ => [.mbx, .ports, .i3c, .hmem, .gwin, .fresh]
  | .suspect => [.grm, .mbx, .ports, .rm, .i3c, .fresh]
  | .lungeset _ => [.grm, .mbx, .ports, .i3c, .fresh]
  | .groomStart _ => [.dev, .fuses, .grm, .pwr, .thm, .err, .mbx, .sheds, .pins, .fresh]
  | .firmwareRecoveryImage _ _ => [.grm, .mbx]
  | .track _ _ _ => [.dev, .ports, .resp]
  | .core _ _ _ => [.dev, .ports, .resp]
  | .clocks _ _ _ => [.dev, .ports, .resp]
  | .bist _ _ _ => [.dev, .ports, .resp]
  | .remap _ _ _ => [.dev, .ports, .resp]
  | .loft _ _ _ => [.dev, .ports, .resp]
  | .ports _ _ _ => [.dev, .ports, .resp]
  | .hostler _ _ _ => [.dev, .ports, .resp]
  | .ready _ _ _ => [.dev, .ports, .resp]
  | .bootStepComplete _ => [.dev, .grm, .pwr, .err, .sec, .mbx, .mars, .ports, .yards, .sheds, .psheds, .stalls, .routeA, .routeB, .track, .rm, .i3c, .hmem, .fresh]
  | .cold _ => allParts
  | .warm _ => allParts
  | .resetPin _ => allParts
  | .powerOn _ => allParts
  | .groomLock _ _ => [.grm, .resp]
  | .i3cTransaction _ => allParts
  | .extest _ => [.tap, .fresh]
  | .idcode => [.tap]
  | .samplePreload _ => [.tap, .fresh]
  | .bypass => [.tap]
  | .tapReset => [.tap]
  | .rekeyRetry _ => [.ports, .fresh]
  | .operatorImageLoad _ => [.grm]
  | .i3cCcc _ => [.i3c, .fresh]
  | .ballastRunOut _ => [.stalls]

/-! What the parts of a command's effect are called in the statements. -/

/-- The sequencer at a stall issues the word at its PC now (R30, R66): the stall is open, its shed runs, it is not idle; and that word has
this opcode and no bit outside these fields (R45). -/
structure Issues (s : State) (sid op : Nat) (fs : List (Nat × Nat)) : Prop where
  ready  : canIssue s sid = true
  opcode : bitsOf (wordAt (s.stall sid)) 63 58 = op
  fields : onlyFields (wordAt (s.stall sid)) fs = true

/-- A field of the word at a stall's PC. -/
def State.fld (s : State) (sid hi lo : Nat) : Nat := bitsOf (wordAt (s.stall sid)) hi lo

/-- A scalar register of a stall, as its routine reads it (R41). -/
def State.reg (s : State) (sid i : Nat) : Nat := (s.stall sid).sreg sid i

/-- A word has retired (R67, R148): the stall is `u` with its sequencer at `pc` and `loops`, RETIRED one higher, `cost` shed cycles later,
and its shed's watchdog starts again unless it holds (R150). Nothing else differs. -/
def retired (s : State) (sid : Nat) (u : Stall) (pc : Nat) (loops : List Loop) (cost : Nat) : State :=
  let q := { u.seq with pc := pc, loops := loops, run := 1, retired := (u.seq.retired + 1) % 2 ^ 48, cyc := u.seq.cyc + cost }
  let h := s.shed (shedOf sid)
  { s with stalls := gset s.stalls sid { u with seq := q },
           sheds := gset s.sheds (shedOf sid) (if h.fired && !h.cause then h else { h with progCount := 0 }) }

/-- The sequencer goes on after the word at `at'` with the stall `u` that the word leaves (R47): back into a loop that ends there, or to
the next word; past word 511 it raises PCOVF. -/
def goesOn (s : State) (sid : Nat) (u : Stall) (at' cost : Nat) : State :=
  let nx := advance at' u.seq.loops
  if nx.1 < 512 then retired s sid u nx.1 nx.2 cost else stallFault (putStall s sid u) sid fPcovf (s.stall sid).seq.pc

/-- A word has retired at its own place in the code. -/
def after (s : State) (sid : Nat) (u : Stall) (cost : Nat) : State := goesOn s sid u (s.stall sid).seq.pc cost

/-- The free number of shed cycles of the wait that a step takes (log 10): the stall later by that wait, and the state with the
free-value counter advanced. -/
def waited (s : State) (sid : Nat) (u : Stall) : State :=
  { s with fresh := s.fresh + 1,
           stalls := gset s.stalls sid { u with seq := { u.seq with cyc := u.seq.cyc + Config.freeCycles s.fresh } } }

/-- A word that used the loft port where `port` says so has retired: behind the port it may have waited a free number of shed cycles
(R234, log 10). -/
def afterPort (s : State) (sid : Nat) (u : Stall) (port : Bool) (cost : Nat) : State :=
  if port then after { s with fresh := s.fresh + 1 } sid { u with seq := { u.seq with cyc := u.seq.cyc + Config.freeCycles s.fresh } } cost
  else after s sid u cost

/-- A word holds (R66): the sequencer shows this RUN code at the word, a free number of shed cycles later (log 10). Nothing else
differs. -/
def holds (s : State) (sid run : Nat) : State :=
  let u := s.stall sid
  { s with fresh := s.fresh + 1,
           stalls := gset s.stalls sid { u with seq := { u.seq with run := run, cyc := u.seq.cyc + Config.freeCycles s.fresh } } }

/-! The rows of the routine words: the stall, the opcode, and the fields that the encoding names (R45-R64, R75, R105). -/

/-- The fields of a vector word (R54). -/
def vecFields : List (Nat × Nat) :=
  [(57, 55), (54, 52), (51, 49), (48, 46), (45, 34), (33, 32), (31, 27), (26, 26), (23, 20), (19, 16)]

/-- A routine word at its issue: its stall, its opcode and the fields of its encoding (R46, R50, R54, R57, R59, R61, R75, R86-R88, R105,
R118, R119). -/
def wordRow : Instr → Option (StallId × Nat × List (Nat × Nat))
  | .nop sid => some (sid, 0x00, [])
  | .endW sid => some (sid, 0x01, [(0, 0)])
  | .loop sid => some (sid, 0x02, [(57, 57), (56, 52), (51, 36), (8, 0)])
  | .brt sid => some (sid, 0x03, [(57, 57), (56, 55), (54, 54), (53, 49), (48, 44), (31, 16), (8, 0)])
  | .waitg sid => some (sid, 0x04, [(57, 56), (55, 52)])
  | .arrive sid => some (sid, 0x05, [(57, 56), (55, 52)])
  | .br sid => some (sid, 0x06, [(57, 55), (54, 50), (49, 45), (8, 0)])
  | .jmp sid => some (sid, 0x07, [(57, 57), (54, 50), (8, 0)])
  | .mov sid _ => some (sid, 0x08, [(57, 57), (56, 54), (53, 51), (50, 39)])
  | .movq sid => some (sid, 0x09, [(57, 57), (53, 51), (45, 39), (37, 32)])
  | .lds sid _ => some (sid, 0x0A, [(57, 56), (55, 51), (50, 46), (16, 0)])
  | .sts sid => some (sid, 0x0B, [(57, 56), (55, 51), (50, 46), (16, 0)])
  | .agb sid => some (sid, 0x0C, [(57, 55), (54, 53), (52, 42), (41, 26), (25, 14)])
  | .ags sid => some (sid, 0x0D, [(57, 55), (54, 54), (53, 49), (48, 33), (32, 21)])
  | .movqs sid => some (sid, 0x0E, [(57, 57), (55, 51), (45, 38)])
  | .qrel sid => some (sid, 0x0F, [(57, 57)])
  | .dmm sid => some (sid, 0x10, [(57, 15)])
  | .drain sid => some (sid, 0x12, [(56, 55), (54, 51), (50, 48), (47, 46), (45, 41), (40, 33)])
  | .dexp sid => some (sid, 0x13, [(57, 57), (56, 55), (36, 27)])
  | .dstat sid => some (sid, 0x14, [(56, 55), (54, 50)])
  | .smm sid => some (sid, 0x18, [(57, 11)])
  | .sdd sid => some (sid, 0x19, [(57, 9)])
  | .psel sid => some (sid, 0x1A, [(54, 52), (51, 49), (48, 46), (45, 35), (31, 27), (26, 22)])
  | .pchk sid => some (sid, 0x1B, [(54, 52), (51, 49), (48, 46), (45, 31), (30, 26), (25, 21)])
  | .vadd sid _ => some (sid, 0x20, vecFields)
  | .vsub sid _ => some (sid, 0x21, vecFields)
  | .vmul sid _ => some (sid, 0x22, vecFields)
  | .vfma sid _ => some (sid, 0x23, vecFields)
  | .vmax sid _ => some (sid, 0x24, vecFields)
  | .vmin sid _ => some (sid, 0x25, vecFields)
  | .vact sid _ => some (sid, 0x26, vecFields)
  | .vexp2 sid _ => some (sid, 0x27, vecFields)
  | .vlog2 sid _ => some (sid, 0x28, vecFields)
  | .vrsqrt sid _ => some (sid, 0x29, vecFields)
  | .vrcp sid _ => some (sid, 0x2A, vecFields)
  | .vred sid _ => some (sid, 0x2B, vecFields)
  | .vcvt sid _ => some (sid, 0x2C, vecFields)
  | .vcmp sid _ => some (sid, 0x2D, vecFields)
  | .vlogic sid => some (sid, 0x2E, vecFields)
  | .vcopy sid => some (sid, 0x2F, vecFields)
  | .send sid => some (sid, 0x30, [(57, 56), (55, 55), (54, 50), (49, 40), (39, 37), (36, 30)])
  | .sendl sid => some (sid, 0x31, [(57, 56), (55, 55), (54, 50), (49, 40), (39, 37), (36, 30), (29, 24)])
  | .sends sid => some (sid, 0x32, [(57, 56), (55, 55), (54, 50), (49, 40), (39, 35), (34, 33)])
  | .relay sid => some (sid, 0x33, [(57, 56), (49, 40)])
  | .tinc sid => some (sid, 0x38, [(57, 57), (53, 49), (48, 44), (15, 0)])
  | .tdec sid => some (sid, 0x39, [(57, 57), (53, 49), (48, 44), (15, 0)])
  | .trd sid => some (sid, 0x3A, [(53, 49), (48, 44)])
  | .tset sid => some (sid, 0x3B, [(53, 49), (15, 0)])
  | .brand sid => some (sid, 0x3C, [(57, 56), (55, 53), (52, 45), (44, 40)])
  | .ballast sid => some (sid, 0x3D, [(57, 53), (52, 52), (51, 47), (23, 0)])
  | .salu sid => some (sid, 0x3E, [(57, 54), (53, 49), (48, 44), (43, 39), (38, 38), (15, 0)])
  | .sli sid => some (sid, 0x3F, [(57, 53), (31, 0)])
  | _ => none

/-- The residue check of a vector word failed (R389); VLOGIC and VCOPY have none. -/
def residueFailed : Instr → Bool
  | .vadd _ r => r
  | .vsub _ r => r
  | .vmul _ r => r
  | .vfma _ r => r
  | .vmax _ r => r
  | .vmin _ r => r
  | .vact _ r => r
  | .vexp2 _ r => r
  | .vlog2 _ r => r
  | .vrsqrt _ r => r
  | .vrcp _ r => r
  | .vred _ r => r
  | .vcvt _ r => r
  | .vcmp _ r => r
  | _ => false

end Sys2Proof.Machine
end

