-- ==== Sys2Proof/Certificates/Slice0/Obligations.lean ====
section
/-! DEFINITION. The statements for the provers. OBLIGATIONS.json says for each what it rests on. -/

open Sys2Proof Sys2Proof.Machine

/-- The queue is the block's own (log 2): a step takes its front command and runs it with the rest of the queue. -/
def Obligations.StepRunsTheCommand : Prop :=
    ∀ (s : State) (c : Instr) (r : List Instr), s.pending = c :: r → step s = exec c { s with pending := r }

/-- One microsecond of the wall counter (R310). That a step on an empty queue is one microsecond is a DESIGN CHOICE (log 2). -/
def Obligations.StepOnAnEmptyQueue : Prop :=
    ∀ s : State, s.pending = [] →
    (s.dev.st = 0 → step s = .next s) ∧
    (s.dev.st ≠ 0 → ∃ t, step s = .next t ∧ Same [.dev, .fresh, .sec, .sheds] s t ∧
      (s.dev.slew = 0 → t.dev = { s.dev with wall := (s.dev.wall + 1000) % 2 ^ 64 }))

/-- What a cold reset leaves in the registers whose reset values the spec gives. Where the spec leaves a point open the clause is the model's choice or reading: log 13. -/
def Obligations.ResetRegisters : Prop :=
    let s := State.reset
    s.dev.st = 1 ∧ s.dev.srcport = 255 ∧ s.dev.done = 0 ∧ s.dev.wall = 0 ∧
    s.pwr.up = 0x28 ∧ s.pwr.down = 0x28 ∧ s.pwr.level = 0x1F40 ∧ s.pwr.maxdepth = 4 ∧ s.pwr.nAlloc = 16 ∧ s.pwr.nRamp = 16 ∧
    s.thm.throttle = 0x5F ∧ s.thm.hold = 0x66 ∧ s.thm.release = 0x5A ∧
    s.err.alerten = 0x1475DF ∧ s.err.sticky = 0 ∧ s.err.secrec = 0 ∧
    (∀ n, (s.box n).queue = [] ∧ (s.box n).mask = 2 ^ 32 - 1 ∧ (s.box n).door = 0 ∧ (s.box n).rxrdy = false) ∧
    s.mbx.prottop = 0x2000 ∧ (∀ p, (s.place p).st = 0) ∧ (∀ p, (s.port p).st = 1 ∧ (s.port p).en = true) ∧
    (∀ y, (s.yard y).lame = false ∧ ∀ r, gget (s.yard y).rcol r = 15) ∧ (∀ n r, gget (s.pshed n).rcol r = 31) ∧
    s.pending = []

/-- The state after reset meets the invariants. -/
def Obligations.ResetMeetsTheInvariants : Prop :=
    Canonical State.reset ∧ ArbInRange State.reset ∧ QueueWf State.reset

/-- The invariant under which equal contents are equal data (log 5) and R412's thermometers stay in range. -/
def Obligations.StepKeepsTheCanonicalForm : Prop :=
    ∀ s t : State, Canonical s → ArbInRange s → step s = .next t → Canonical t ∧ ArbInRange t

/-- No step changes a fuse but the anti-rollback thermometers, and those only rise. -/
def Obligations.StepNeverUnblowsAFuse : Prop :=
    ∀ s t : State, Canonical s → ArbInRange s → step s = .next t →
    { t.fuses with arb := s.fuses.arb } = s.fuses ∧ ∀ k, gget s.fuses.arb k ≤ gget t.fuses.arb k

/-- Every command of the table gets a next state and leaves the queue behind it alone; what is no command stops. Where the spec leaves a point open the clause is the model's choice or reading: log 1. -/
def Obligations.EveryCommandCompletes : Prop :=
    (∀ (i : Instr) (s : State), Canonical s → ArbInRange s → Instr.wf i = true → ∃ t, exec i s = .next t ∧ t.pending = s.pending) ∧
    (∀ (i : Instr) (s : State), Instr.wf i = false → exec i s = .fault .malformedCommand) ∧
    (∀ s : State, Canonical s → ArbInRange s → QueueWf s → ∃ t, step s = .next t ∧ t.pending = s.pending.tail ∧ QueueWf t)

/-- The frame of all 206 commands at once; `touches` lists, command by command, the parts that its rules let it change. Where the spec leaves a point open the clause is the model's choice or reading: log 1. -/
def Obligations.WhatACommandLeavesAlone : Prop :=
    ∀ (i : Instr) (s t : State), exec i s = .next t → Same (touches i) s t

/-- What a scalar register reads after a write: s0 reads 0, s27 the stall ID, s31 the cycle counter, and writes to those three are ignored. Where the spec leaves a point open the clause is the model's choice or reading: log 10. -/
def Obligations.ScalarRegisters : Prop :=
    ∀ (u : Stall) (sid i v j : Nat), gwf u.seq.sregs = true →
    (u.setSreg i v).sreg sid j = (if j = 0 then 0 else if j = 27 then sid else if j = 31 then u.seq.cyc % 2 ^ 32
      else if j = i then v % 2 ^ 32 else u.sreg sid j) ∧
    (i = 0 ∨ i = 27 ∨ i = 31 → u.setSreg i v = u) ∧
    (∃ r, u.setSreg i v = { u with seq := { u.seq with sregs := r } })

/-- NOP, JMP and BR: what they compare, where they go, what they cost. Where the spec leaves a point open the clause is the model's choice or reading: log 12. -/
def Obligations.JumpsAndBranches : Prop :=
    ∀ (s : State) (sid : StallId), Canonical s →
    (Issues s sid 0x00 [] → exec (.nop sid) s = .next (after s sid (s.stall sid) 1)) ∧
    (Issues s sid 0x07 [(57, 57), (54, 50), (8, 0)] →
      let target := if s.fld sid 57 57 = 1 then s.reg sid (s.fld sid 54 50) % 512 else s.fld sid 8 0
      exec (.jmp sid) s = .next (retired s sid (s.stall sid) target
        ((s.stall sid).seq.loops.filter fun l => l.first ≤ target ∧ target ≤ l.last) 2)) ∧
    (Issues s sid 0x06 [(57, 55), (54, 50), (49, 45), (8, 0)] →
      let a := BitVec.ofNat 32 (s.reg sid (s.fld sid 54 50))
      let b := BitVec.ofNat 32 (s.reg sid (s.fld sid 49 45))
      let target := s.fld sid 8 0
      ∀ c : Bool, (s.fld sid 57 55, c) ∈ [(0, decide (a = b)), (1, decide (a ≠ b)), (2, a.slt b), (3, !a.slt b), (4, a.ult b), (5, !a.ult b),
          (6, c), (7, c)] →
        exec (.br sid) s = .next (
          if 6 ≤ s.fld sid 57 55 then stallFault s sid 1 (s.stall sid).seq.pc
          else if c then retired s sid (s.stall sid) target ((s.stall sid).seq.loops.filter fun l => l.first ≤ target ∧ target ≤ l.last) 2
          else after s sid (s.stall sid) 1))

/-- LOOP: the loop it pushes, the count of 0, and the fault LOOP. Where the spec leaves a point open the clause is the model's choice or reading: log 12. -/
def Obligations.LoopPushesOrFaults : Prop :=
    ∀ (s : State) (sid : StallId), Canonical s → Issues s sid 0x02 [(57, 57), (56, 52), (51, 36), (8, 0)] →
    let u := s.stall sid
    let last := s.fld sid 8 0
    let count := if s.fld sid 57 57 = 1 then s.reg sid (s.fld sid 56 52) else s.fld sid 51 36
    (last ≤ u.seq.pc ∨ (∃ l r, u.seq.loops = l :: r ∧ l.last < last) ∨ 4 ≤ u.seq.loops.length →
      exec (.loop sid) s = .next (stallFault s sid 4 u.seq.pc)) ∧
    (u.seq.pc < last → (∀ l r, u.seq.loops = l :: r → last ≤ l.last) → u.seq.loops.length < 4 →
      exec (.loop sid) s = .next (
        if count = 0 then goesOn s sid u last 1
        else after s sid { u with seq := { u.seq with loops := ⟨u.seq.pc + 1, last, count - 1⟩ :: u.seq.loops } } 1))

/-- After a word the sequencer goes to the next word, or back to the first word of the innermost loop that ends there and has iterations left. Where the spec leaves a point open the clause is the model's choice or reading: log 37. -/
def Obligations.WhereAWordLeaves : Prop :=
    ∀ (pc : Nat) (l : Loop) (r : List Loop),
    advance pc [] = (pc + 1, []) ∧
    (pc ≠ l.last → advance pc (l :: r) = (pc + 1, l :: r)) ∧
    (pc = l.last → 0 < l.left → advance pc (l :: r) = (l.first, ⟨l.first, l.last, l.left - 1⟩ :: r)) ∧
    (pc = l.last → l.left = 0 → advance pc (l :: r) = advance pc r)

/-- END: the bound messages are released, the loop stack is empty, FIN is marked, and the sequencer is idle. Where the spec leaves a point open the clause is the model's choice or reading: log 10, log 12. -/
def Obligations.EndReturnsToDispatch : Prop :=
    ∀ (s : State) (sid : StallId), Canonical s → Issues s sid 0x01 [(0, 0)] →
    let u := s.stall sid
    let bound := fun (id : Nat) => u.seq.bound0 = some id ∨ u.seq.bound1 = some id
    let fin := u.seq.fin || decide (s.fld sid 0 0 = 1)
    (u.eng.jobs = [] → gwf u.qu.queues = true → ∃ (q : QueueUnit) (sh : GMap Shed), exec (.endW sid) s = .next
      { s with
        sheds := sh,
        stalls := gset s.stalls sid { u with
          seq := { u.seq with loops := [], fin := fin, run := if fin then 6 else 0, cyc := u.seq.cyc + 1, dispCyc := none,
                              retired := (u.seq.retired + 1) % 2 ^ 48, bound0 := none, bound1 := none },
          qu := q } } ∧
      (∀ n m, m ∈ gget q.queues n ↔ m ∈ gget u.qu.queues n ∧ ¬ bound m.id) ∧
      q.slots = u.qu.slots ∧ q.pen = u.qu.pen ∧ q.tallies = u.qu.tallies ∧ q.ej = u.qu.ej ∧ q.landing = u.qu.landing ∧
      (∀ k, k ≠ shedOf sid → gget sh k = s.shed k) ∧
      gget sh (shedOf sid) = (if (s.shed (shedOf sid)).fired ∧ (s.shed (shedOf sid)).cause = false then s.shed (shedOf sid)
        else { s.shed (shedOf sid) with progCount := 0 })) ∧
    (u.eng.jobs ≠ [] → exec (.endW sid) s = .next (holds s sid 1))

/-- BRT compares a tally with its operand and branches, retires or waits; the wait ends when the comparison holds. Where the spec leaves a point open the clause is the model's choice or reading: log 10, log 37. -/
def Obligations.BranchOnTally : Prop :=
    ∀ (s : State) (sid : StallId), Canonical s →
    Issues s sid 0x03 [(57, 57), (56, 55), (54, 54), (53, 49), (48, 44), (31, 16), (8, 0)] →
    let u := s.stall sid
    let wait := s.fld sid 57 57 = 1
    let cond := s.fld sid 56 55
    let imm := s.fld sid 31 16
    let x := if s.fld sid 54 54 = 1 then s.reg sid (s.fld sid 48 44) else imm
    let v := gget u.qu.tallies (s.fld sid 53 49)
    let target := s.fld sid 8 0
    let holdsNow := (cond = 0 ∧ v ≥ x) ∨ (cond = 1 ∧ v < x) ∨ (cond = 2 ∧ v = x) ∨ (cond = 3 ∧ v ≠ x)
    let legal := imm ≤ 32767 ∧ x ≤ 32767 ∧ (wait → target = 0)
    let jumped := retired s sid u target (u.seq.loops.filter fun l => l.first ≤ target ∧ target ≤ l.last) 2
    (u.seq.run ≠ 3 →
      (¬ legal → exec (.brt sid) s = .next (stallFault s sid 1 u.seq.pc)) ∧
      (legal → ¬ wait → holdsNow → exec (.brt sid) s = .next jumped) ∧
      (legal → ¬ wait → ¬ holdsNow → exec (.brt sid) s = .next (after s sid u 1)) ∧
      (legal → wait → holdsNow → exec (.brt sid) s = .next (after s sid u 1)) ∧
      (legal → wait → ¬ holdsNow → exec (.brt sid) s = .next (holds s sid 3))) ∧
    (u.seq.run = 3 → exec (.brt sid) s = .next s ∧
      (legal → wait → holdsNow → exec (.brtWaitSatisfied sid) s = .next (after s sid u 1)) ∧
      (legal → wait → ¬ holdsNow → exec (.brtWaitSatisfied sid) s = .next s))

/-- WAITG and ARRIVE: the line they name, the PEND they set or wait for, the line in which the stall takes no part. Where the spec leaves a point open the clause is the model's choice or reading: log 10, log 12. -/
def Obligations.GateWords : Prop :=
    ∀ (s : State) (sid : StallId) (arrives : Bool), Canonical s → Issues s sid (if arrives then 0x05 else 0x04) [(57, 56), (55, 52)] →
    let u := s.stall sid
    let scope := s.fld sid 57 56
    let line := s.fld sid 55 52
    let word : Instr := if arrives then .arrive sid else .waitg sid
    let gone := exec word s
    (∀ b, (scope = 0 ∧ line < 4 ∧ b = line) ∨ (scope = 1 ∧ line < 8 ∧ b = 4 + line) ∨ (scope = 2 ∧ line < 15 ∧ b = 12 + line) →
      (u.active.mask.toNat.testBit b = false →
        gone = .next (after { s with sheds := gmod s.sheds (shedOf sid) fun h => { h with nopart := min (h.nopart + 1) 65535 } } sid u 1)) ∧
      (u.active.mask.toNat.testBit b = true → u.pend.testBit b = true → gone = .next (holds s sid 2)) ∧
      (u.active.mask.toNat.testBit b = true → u.pend.testBit b = false →
        gone = .next (after s sid (if arrives then { u with pend := u.pend + 2 ^ b } else u) 1))) ∧
    ((scope = 0 → 4 ≤ line) → (scope = 1 → 8 ≤ line) → (scope = 2 → 15 ≤ line) → gone = .next (stallFault s sid 10 u.seq.pc))

/-- SALU and SLI: what they compute into their register, modulo 2^32. Where the spec leaves a point open the clause is the model's choice or reading: log 12. -/
def Obligations.ScalarArithmetic : Prop :=
    ∀ (s : State) (sid : StallId), Canonical s →
    (Issues s sid 0x3E [(57, 54), (53, 49), (48, 44), (43, 39), (38, 38), (15, 0)] →
      let a := BitVec.ofNat 32 (s.reg sid (s.fld sid 48 44))
      let b := if s.fld sid 38 38 = 1 then (BitVec.ofNat 16 (s.fld sid 15 0)).signExtend 32 else BitVec.ofNat 32 (s.reg sid (s.fld sid 43 39))
      let n := b.toNat % 32
      (∀ r : BitVec 32, (s.fld sid 57 54, r) ∈ [(0, a + b), (1, a - b), (2, a &&& b), (3, a ||| b), (4, a ^^^ b), (5, a <<< n), (6, a >>> n),
          (7, a.sshiftRight n), (8, a * b), (9, if a.sle b then a else b), (10, if a.sle b then b else a),
          (11, if a.slt b then 1 else 0), (12, if a.ult b then 1 else 0)] →
        exec (.salu sid) s =
          .next (after s sid ((s.stall sid).setSreg (s.fld sid 53 49) r.toNat) (if s.fld sid 57 54 = 8 then 2 else 1))) ∧
      (13 ≤ s.fld sid 57 54 → exec (.salu sid) s = .next (stallFault s sid 1 (s.stall sid).seq.pc))) ∧
    (Issues s sid 0x3F [(57, 53), (31, 0)] →
      exec (.sli sid) s = .next (after s sid ((s.stall sid).setSreg (s.fld sid 57 53) (s.fld sid 31 0)) 1))

/-- LDS and STS: 4 bytes at register plus immediate, RANGE before ALIGN. Where the spec leaves a point open the clause is the model's choice or reading: log 10, log 11. -/
def Obligations.RoutineLoadsAndStores : Prop :=
    ∀ (s : State) (sid : StallId), Canonical s →
    (∀ par : Bool, Issues s sid 0x0A [(57, 56), (55, 51), (50, 46), (16, 0)] →
      let u := s.stall sid
      let sp := s.fld sid 57 56
      let a := s.reg sid (s.fld sid 50 46) + s.fld sid 16 0
      exec (.lds sid par) s = .next (
        if [0xC000, 0x20000, 0x20000, 0x10000].getD sp 0 ≤ a then stallFault s sid 2 u.seq.pc
        else if a % 4 ≠ 0 then stallFault s sid 3 u.seq.pc
        else afterPort (if par then record s 2 (.stall sid) else s) sid
          (u.setSreg (s.fld sid 55 51) (leNat ((List.range 4).map fun i => u.mem.readByte sid sp (a + i))))
          (decide (sp ≠ 0)) ([1, 3, 5, 6].getD sp 0))) ∧
    (Issues s sid 0x0B [(57, 56), (55, 51), (50, 46), (16, 0)] →
      let u := s.stall sid
      let sp := s.fld sid 57 56
      let a := s.reg sid (s.fld sid 50 46) + s.fld sid 16 0
      (u.interlocked [] [sp] = true → exec (.sts sid) s = .next (holds s sid 1)) ∧
      (u.interlocked [] [sp] = false → [0xC000, 0x20000, 0x20000, 0x10000].getD sp 0 ≤ a →
        exec (.sts sid) s = .next (stallFault s sid 2 u.seq.pc)) ∧
      (u.interlocked [] [sp] = false → a < [0xC000, 0x20000, 0x20000, 0x10000].getD sp 0 → a % 4 ≠ 0 →
        exec (.sts sid) s = .next (stallFault s sid 3 u.seq.pc)) ∧
      (u.interlocked [] [sp] = false → a < [0xC000, 0x20000, 0x20000, 0x10000].getD sp 0 → a % 4 = 0 →
        exec (.sts sid) s = .next (afterPort s sid
          { u with mem := u.mem.writeBytes sid sp a (leBytes 4 (s.reg sid (s.fld sid 55 51))) } (decide (sp ≠ 0)) 1)))

/-- A write into a space of a stall's memory writes its bytes and leaves every other byte of every space, and every brand word, as it was. -/
def Obligations.AStoreWritesItsBytesAlone : Prop :=
    ∀ (m : StallMem) (sid sp a : Nat) (bs : List Byte), sp < 4 → Memory.wf m.manger = true → Memory.wf m.loftA = true →
    Memory.wf m.loftB = true → Memory.wf m.loftC = true → gwf m.undef = true → a % 4096 + bs.length ≤ 4096 → a < 0x20000 →
    let m' := m.writeBytes sid sp a bs
    m'.brands = m.brands ∧
    (∀ i (h : i < bs.length), m'.readByte sid sp (a + i) = bs[i]) ∧
    (∀ sp' b, sp' < 4 → b < 0x20000 → (sp' = sp → b < a ∨ a + bs.length ≤ b) → m'.readByte sid sp' b = m.readByte sid sp' b)

/-- AGB and AGS set a generator; a use yields its address and moves it. Where the spec leaves a point open the clause is the model's choice or reading: log 10, log 37. -/
def Obligations.AddressGenerators : Prop :=
    ∀ (s : State) (sid : StallId), Canonical s →
    (Issues s sid 0x0C [(57, 55), (54, 53), (52, 42), (41, 26), (25, 14)] →
      let u := s.stall sid
      let k := s.fld sid 57 55
      let sp := s.fld sid 54 53
      let base := s.fld sid 52 42
      let n := if s.fld sid 25 14 = 0 then 4096 else s.fld sid 25 14
      let put := fun (g : AddrGen) => { u with seq := { u.seq with ags := gset u.seq.ags k g } }
      exec (.agb sid) s = .next (
        if [0xC000, 0x20000, 0x20000, 0x10000].getD sp 0 ≤ 64 * base then stallFault s sid 2 u.seq.pc
        else if u.interlocked [k] [] then holds s sid 1
        else after s sid (put { gget u.seq.ags k with space := sp, base := base, row := base, addr := base, i := 0, j := 0, cnt0 := n,
                                                        str0 := (BitVec.ofNat 16 (s.fld sid 41 26)).toInt }) 1)) ∧
    (Issues s sid 0x0D [(57, 55), (54, 54), (53, 49), (48, 33), (32, 21)] →
      let u := s.stall sid
      let k := s.fld sid 57 55
      let v := s.reg sid (s.fld sid 53 49)
      let n := if s.fld sid 32 21 = 0 then 4096 else s.fld sid 32 21
      let put := fun (g : AddrGen) => { u with seq := { u.seq with ags := gset u.seq.ags k g } }
      let g := { gget u.seq.ags k with cnt1 := n, str1 := (BitVec.ofNat 16 (s.fld sid 48 33)).toInt }
      exec (.ags sid) s = .next (
        if s.fld sid 54 54 = 1 ∧ [0xC000, 0x20000, 0x20000, 0x10000].getD g.space 0x20000 ≤ v / 64 * 64 then stallFault s sid 2 u.seq.pc
        else if s.fld sid 54 54 = 1 ∧ v % 64 ≠ 0 then stallFault s sid 3 u.seq.pc
        else if u.interlocked [k] [] then holds s sid 1
        else after s sid (put (if s.fld sid 54 54 = 1 then
          { g with base := (v / 64 : Nat), row := (v / 64 : Nat), addr := (v / 64 : Nat), i := 0, j := 0 } else g)) 1)) ∧
    (∀ g : AddrGen, g.i < g.cnt0 → g.j < g.cnt1 → g.space < 4 →
      (g.yields = if 0 ≤ g.addr ∧ g.addr * 64 < [0xC000, 0x20000, 0x20000, 0x10000].getD g.space 0 then some (g.addr * 64).toNat else none) ∧
      (g.row = g.base + g.j * g.str1 → g.addr = g.row + g.i * g.str0 →
        let wrapI := g.i + 1 = g.cnt0
        let wrapJ := wrapI ∧ g.j + 1 = g.cnt1
        g.step.i = (if wrapI then 0 else g.i + 1) ∧ g.step.j = (if wrapJ then 0 else if wrapI then g.j + 1 else g.j) ∧
        g.step.row = g.base + g.step.j * g.str1 ∧ g.step.addr = g.step.row + g.step.i * g.str0 ∧ g.step.base = g.base))

/-- TINC, TDEC, TRD and TSET: what they do to a tally and a register; the tally holds at 32,767 and never falls below 0. Where the spec leaves a point open the clause is the model's choice or reading: log 12. -/
def Obligations.TallyWords : Prop :=
    ∀ (s : State) (sid : StallId), Canonical s →
    let u := s.stall sid
    let k := s.fld sid 53 49
    let imm := s.fld sid 15 0
    let n := if s.fld sid 57 57 = 1 then s.reg sid (s.fld sid 48 44) else imm
    let v := gget u.qu.tallies k
    let put := fun (x : Nat) => { u with qu := { u.qu with tallies := gset u.qu.tallies k x } }
    let seen := fun (f : GateCheck → GateCheck) =>
      { s with sheds := gmod s.sheds (shedOf sid) fun h => { h with gchk := f h.gchk } }
    (Issues s sid 0x38 [(57, 57), (53, 49), (48, 44), (15, 0)] → exec (.tinc sid) s = .next (
      if 32767 < imm then stallFault s sid 1 u.seq.pc
      else if v + n ≤ 32767 then after s sid (put (v + n)) 1
      else after (record (seen fun g => if g.drift then g else { g with drift := true, dstall := stallInShed sid, dtally := k }) 7 (.stall sid))
        sid (put 32767) 1)) ∧
    (Issues s sid 0x39 [(57, 57), (53, 49), (48, 44), (15, 0)] → exec (.tdec sid) s = .next (
      if 32767 < imm then stallFault s sid 1 u.seq.pc
      else if n ≤ v then after s sid (put (v - n)) 1
      else after (record (seen fun g => if g.under then g else { g with under := true, ustall := stallInShed sid, utally := k }) 6 (.stall sid))
        sid u 1)) ∧
    (Issues s sid 0x3A [(53, 49), (48, 44)] → exec (.trd sid) s = .next (after s sid (u.setSreg (s.fld sid 48 44) v) 1)) ∧
    (Issues s sid 0x3B [(53, 49), (15, 0)] → exec (.tset sid) s = .next (
      if 32767 < imm then stallFault s sid 1 u.seq.pc else after s sid (put imm) 1))

/-- A word with a bit outside its fields, or with an unassigned opcode, raises ILLEGAL; another word's opcode is another command's (DESIGN CHOICE, log 12). -/
def Obligations.MalformedWordsFault : Prop :=
    ∀ (i : Instr) (sid : StallId) (op : Nat) (fs : List (Nat × Nat)) (s : State), wordRow i = some (sid, op, fs) → canIssue s sid = true →
    (i = .brt sid → (s.stall sid).seq.run ≠ 3) →
    (s.fld sid 63 58 ∈ [0x11, 0x15, 0x16, 0x17, 0x1C, 0x1D, 0x1E, 0x1F, 0x34, 0x35, 0x36, 0x37] →
      exec i s = .next (stallFault s sid 1 (s.stall sid).seq.pc)) ∧
    (s.fld sid 63 58 = op → onlyFields (wordAt (s.stall sid)) fs = false →
      exec i s = .next (stallFault s sid 1 (s.stall sid).seq.pc)) ∧
    (s.fld sid 63 58 ∉ [op, 0x11, 0x15, 0x16, 0x17, 0x1C, 0x1D, 0x1E, 0x1F, 0x34, 0x35, 0x36, 0x37] → exec i s = .next s)

/-- A stall fault stops the sequencer at its word, records NO_PROGRESS and the cause, and aborts the running section with ACAUSE 3. Where the spec leaves a point open the clause is the model's choice or reading: log 37, log 39. -/
def Obligations.WhatAStallFaultDoes : Prop :=
    ∀ (s : State) (sid : StallId) (code pc : Nat), Canonical s →
    let t := stallFault s sid code pc
    let u := s.stall sid
    ((u.seq.run = 5) → t = s) ∧
    ((u.seq.run ≠ 5) →
      (t.stall sid).seq.run = 5 ∧ (t.stall sid).seq.fcode = code ∧ (t.stall sid).seq.fpc = pc ∧
      (t.stall sid).seq.pc = u.seq.pc ∧ (t.stall sid).seq.retired = u.seq.retired ∧ (t.stall sid).seq.sregs = u.seq.sregs ∧
      t.err.sticky = s.err.sticky ||| 2 ^ 10 ∧
      ((s.shed (shedOf sid)).fired = false → (t.shed (shedOf sid)).fired = true ∧ (t.shed (shedOf sid)).cause = true ∧
        (t.shed (shedOf sid)).progStall = stallInShed sid) ∧
      ((s.shed (shedOf sid)).fired = true → (t.shed (shedOf sid)).cause = (s.shed (shedOf sid)).cause ∧
        (t.shed (shedOf sid)).progStall = (s.shed (shedOf sid)).progStall) ∧
      (∀ p, runningPlace s = some p → (s.place p).rldRun = false → (t.place p).st = 6 ∧ t.sec.outcome = true ∧ t.sec.acause = 3 ∧ t.sec.rplace = p) ∧
      (runningPlace s = none → t.sec = s.sec ∧ t.fresh = s.fresh + 1))

/-- Which words wait for the incomplete DMM, SMM and SDD words of their stall. -/
def Obligations.MatrixInterlocks : Prop :=
    ∀ (u : Stall) (ags spaces : List Nat), u.interlocked ags spaces = true ↔
    ∃ j, (u.eng.dexec = some j ∨ u.eng.dwait = some j ∨ u.eng.rexec = some j ∨ u.eng.rwait = some j) ∧
      ∃ a, (let w := j.word.toNat
            a = bitsOf w 46 44 ∨ a = bitsOf w 43 41 ∨ (w.testBit 37 = true ∧ a = bitsOf w 40 38) ∨ (bitsOf w 63 58 = 0x19 ∧ a = bitsOf w 11 9)) ∧
        (a ∈ ags ∨ (gget u.seq.ags a).space ∈ spaces)

/-- One unit of a MOV: the read through AGS, the write through AGD, and at the end of each 4 KiB block of a MOV with BRD = 1 the brand. Where the spec leaves a point open the clause is the model's choice or reading: log 9. -/
def Obligations.AUnitOfAMove : Prop :=
    ∀ (sid a d k : Nat) (brd : Bool) (m : MovAcc),
    let first := brd && decide (k % 64 = 0)
    let ga := gget m.t.seq.ags a
    let t1 := { m.t with seq := { m.t.seq with ags := gset m.t.seq.ags a ga.step } }
    let gd := gget t1.seq.ags d
    (ga.yields = none → (movUnit sid a d brd k m).2 = some 2) ∧
    (∀ x, ga.yields = some x → first = true → x % 4096 ≠ 0 → (movUnit sid a d brd k m).2 = some 3) ∧
    (∀ x, ga.yields = some x → (first = true → x % 4096 = 0) → gd.yields = none → (movUnit sid a d brd k m).2 = some 2) ∧
    (∀ x y, ga.yields = some x → (first = true → x % 4096 = 0) → gd.yields = some y → first = true → y % 4096 ≠ 0 →
      (movUnit sid a d brd k m).2 = some 3) ∧
    (∀ x y, ga.yields = some x → (first = true → x % 4096 = 0) → gd.yields = some y → (first = true → y % 4096 = 0) →
      let bytes := m.t.mem.readBytes sid ga.space x 64
      let mem := m.t.mem.writeBytes sid gd.space y bytes
      let stored := if first then (gget m.t.mem.brands (ga.space * 32 + x / 4096)).toNat else m.stored
      let dspace := if first then gd.space else m.dspace
      let dblk := if first then y / 4096 else m.dblk
      let block := m.bytes ++ bytes
      let good := ga.space = 0 ∨ (brandOf block = stored ∧ stored.testBit 31 = false)
      let r := movUnit sid a d brd k m
      r.2 = none ∧ r.1.t.seq = { t1.seq with ags := gset t1.seq.ags d gd.step } ∧
      ((brd = false ∨ k % 64 ≠ 63) → r.1.t.mem = mem ∧ r.1.fails = m.fails ∧ r.1.bytes = block ∧ r.1.stored = stored ∧
        r.1.dspace = dspace ∧ r.1.dblk = dblk) ∧
      (brd = true → k % 64 = 63 → r.1.bytes = [] ∧
        (good → r.1.fails = m.fails) ∧ (¬ good → r.1.fails = m.fails + 1) ∧
        (dspace = 0 → r.1.t.mem = mem) ∧
        (dspace ≠ 0 → ∀ v : Nat, ((good ∧ v = brandOf block) ∨ (¬ good ∧ v = 0x80000000)) →
          r.1.t.mem = { mem with brands := gset mem.brands (dspace * 32 + dblk) (BitVec.ofNat 32 v) })))

/-- MOV runs its units in order and retires with its cost; the faults it meets leave the units before them moved. Where the spec leaves a point open the clause is the model's choice or reading: log 10, log 11. -/
def Obligations.MoveWords : Prop :=
    ∀ (s : State) (sid : StallId) (par : Bool), Canonical s → Issues s sid 0x08 [(57, 57), (56, 54), (53, 51), (50, 39)] →
    let u := s.stall sid
    let brd := decide (s.fld sid 57 57 = 1)
    let a := s.fld sid 56 54
    let d := s.fld sid 53 51
    let n := s.fld sid 50 39
    let sa := (gget u.seq.ags a).space
    let sd := (gget u.seq.ags d).space
    let recorded := fun (k : Nat) => (List.range k).foldl (fun s _ => record s 1 (.stall sid)) (if par then record s 2 (.stall sid) else s)
    (n = 0 → exec (.mov sid par) s = .next (stallFault s sid 1 u.seq.pc)) ∧
    (n ≠ 0 → brd = true → n % 64 ≠ 0 → exec (.mov sid par) s = .next (stallFault s sid 3 u.seq.pc)) ∧
    (n ≠ 0 → (brd = true → n % 64 = 0) →
      (u.interlocked [a, d] [sd] = true → exec (.mov sid par) s = .next (holds s sid 1)) ∧
      (u.interlocked [a, d] [sd] = false → ∀ m : MovAcc,
        (movUnits sid a d brd n 0 ⟨u, [], 0, 0, 0, 0⟩ = (m, none) →
          exec (.mov sid par) s = .next (afterPort (recorded m.fails) sid m.t (decide (sa ≠ 0 ∨ sd ≠ 0))
            ([1, 3, 5, 6].getD sa 6 + if sa ≠ 0 ∧ sd ≠ 0 then 2 * n else n))) ∧
        (∀ c, movUnits sid a d brd n 0 ⟨u, [], 0, 0, 0, 0⟩ = (m, some c) →
          exec (.mov sid par) s = .next (stallFault { recorded m.fails with stalls := gset s.stalls sid m.t } sid c u.seq.pc))))

/-- MOVQS and QREL: a word of a bound message's payload, and the release of a bound message. Where the spec leaves a point open the clause is the model's choice or reading: log 11. -/
def Obligations.MessageMoves : Prop :=
    ∀ (s : State) (sid : StallId), Canonical s →
    (Issues s sid 0x0E [(57, 57), (55, 51), (45, 38)] →
      let u := s.stall sid
      let k := s.fld sid 45 38
      (u.boundMsg (s.fld sid 57 57) = none → exec (.movqs sid) s = .next (stallFault s sid 6 u.seq.pc)) ∧
      (∀ m, u.boundMsg (s.fld sid 57 57) = some m → exec (.movqs sid) s = .next (
        if 16 * m.len < 4 * (k + 1) then stallFault s sid 6 u.seq.pc
        else after s sid (u.setSreg (s.fld sid 55 51) (leNat ((List.range 4).map fun i => m.payload.getD (4 * k + i) 0#8))) 2))) ∧
    (Issues s sid 0x0F [(57, 57)] →
      let u := s.stall sid
      let q := s.fld sid 57 57
      let bound := if q = 0 then u.seq.bound0 else u.seq.bound1
      (bound = none → exec (.qrel sid) s = .next (after s sid u 1)) ∧
      (∀ id, bound = some id → exec (.qrel sid) s = .next (after s sid { u with
        seq := if q = 0 then { u.seq with bound0 := none } else { u.seq with bound1 := none },
        qu := { u.qu with queues := gmapAll u.qu.queues (fun l => l.filter fun m => m.id ≠ id),
                          relays := u.qu.relays.map fun r => if r.id = id then { r with released := true } else r } } 1)))

/-- MOVQ copies N flits of a bound message's payload through AGD, 4 flits a use. Where the spec leaves a point open the clause is the model's choice or reading: log 10, log 11, log 37. -/
def Obligations.MessageCopies : Prop :=
    (∀ (s : State) (sid : StallId), Canonical s → Issues s sid 0x09 [(57, 57), (53, 51), (45, 39), (37, 32)] →
      let u := s.stall sid
      let d := s.fld sid 53 51
      let n := s.fld sid 45 39
      let sd := (gget u.seq.ags d).space
      (n = 0 ∨ 64 < n → exec (.movq sid) s = .next (stallFault s sid 1 u.seq.pc)) ∧
      (1 ≤ n → n ≤ 64 → u.interlocked [d] [sd] = true → exec (.movq sid) s = .next (holds s sid 1)) ∧
      (1 ≤ n → n ≤ 64 → u.interlocked [d] [sd] = false →
        (u.boundMsg (s.fld sid 57 57) = none → exec (.movq sid) s = .next (stallFault s sid 6 u.seq.pc)) ∧
        (∀ m t, u.boundMsg (s.fld sid 57 57) = some m →
          (movqUnits sid d m.len m.payload n n (s.fld sid 37 32) u = (t, none) →
            exec (.movq sid) s = .next (afterPort s sid t (decide (sd ≠ 0)) (1 + (n + 3) / 4))) ∧
          (∀ c, movqUnits sid d m.len m.payload n n (s.fld sid 37 32) u = (t, some c) →
            exec (.movq sid) s = .next (stallFault (putStall s sid t) sid c u.seq.pc))))) ∧
    (∀ (sid d len : Nat) (payload : List Byte) (fuel n off : Nat) (t : Stall), 0 < n →
      let c := min n 4
      let g := gget t.seq.ags d
      let moved := { t with seq := { t.seq with ags := gset t.seq.ags d g.step } }
      (len < off + c → movqUnits sid d len payload (fuel + 1) n off t = (t, some 6)) ∧
      (off + c ≤ len → g.yields = none → movqUnits sid d len payload (fuel + 1) n off t = (moved, some 2)) ∧
      (∀ a, off + c ≤ len → g.yields = some a → movqUnits sid d len payload (fuel + 1) n off t =
        movqUnits sid d len payload fuel (n - c) (off + c)
          { moved with mem := t.mem.writeBytes sid g.space a ((List.range (16 * c)).map fun i => payload.getD (16 * off + i) 0#8) }))

/-- BRAND computes, stores, checks or hands out the brands of whole 4 KiB blocks. Where the spec leaves a point open the clause is the model's choice or reading: log 10, log 11. -/
def Obligations.BrandWord : Prop :=
    (∀ (s : State) (sid : StallId), Canonical s → Issues s sid 0x3C [(57, 56), (55, 53), (52, 45), (44, 40)] →
      let u := s.stall sid
      let mode := s.fld sid 57 56
      let k := s.fld sid 55 53
      let nb := s.fld sid 52 45
      let sp := (gget u.seq.ags k).space
      let legal := nb ≠ 0 ∧ mode ≠ 3 ∧ (mode = 2 → nb = 1) ∧ (mode = 0 ∨ mode = 1 → sp ≠ 0)
      let recorded := fun (k : Nat) => (List.range k).foldl (fun s _ => record s 1 (.stall sid)) s
      (¬ legal → exec (.brand sid) s = .next (stallFault s sid 1 u.seq.pc)) ∧
      (legal → u.interlocked [k] [] = true → exec (.brand sid) s = .next (holds s sid 1)) ∧
      (legal → u.interlocked [k] [] = false → ∀ b : BrandAcc,
        (brandBlocks sid k mode nb ⟨u, 0, 0⟩ = (b, none) →
          exec (.brand sid) s = .next (afterPort (recorded b.fails) sid (if mode = 2 then b.t.setSreg (s.fld sid 44 40) b.last else b.t)
            (decide (sp ≠ 0)) ([1, 3, 5, 6].getD sp 6 + 64 * nb))) ∧
        (∀ c, brandBlocks sid k mode nb ⟨u, 0, 0⟩ = (b, some c) →
          exec (.brand sid) s = .next (stallFault { recorded b.fails with stalls := gset s.stalls sid b.t } sid c u.seq.pc)))) ∧
    (∀ (sid k mode n : Nat) (b : BrandAcc),
      let g := gget b.t.seq.ags k
      let r := brandBlocks sid k mode (n + 1) b
      (g.yields = none → r.2 = some 2) ∧
      (∀ a, g.yields = some a → a % 4096 ≠ 0 → r.2 = some 3) ∧
      (∀ a t bytes, g.yields = some a → a % 4096 = 0 → Stall.readUnits sid k 64 b.t = (t, some bytes) →
        let v := brandOf bytes
        let word := (gget t.mem.brands (g.space * 32 + a / 4096)).toNat
        r = brandBlocks sid k mode n
          ⟨if mode = 0 then { t with mem := { t.mem with brands := gset t.mem.brands (g.space * 32 + a / 4096) (BitVec.ofNat 32 v) } } else t, v,
           if mode = 1 ∧ ¬ (v = word ∧ word.testBit 31 = false) then b.fails + 1 else b.fails⟩))

/-- BALLAST starts or stops routine ballast and retires at once; its end takes it away. Where the spec leaves a point open the clause is the model's choice or reading: log 25. -/
def Obligations.BallastWords : Prop :=
    ∀ (s : State) (sid : StallId), Canonical s →
    (Issues s sid 0x3D [(57, 53), (52, 52), (51, 47), (23, 0)] →
      let u := s.stall sid
      let duty := s.fld sid 57 53
      let n := if s.fld sid 52 52 = 1 then s.reg sid (s.fld sid 51 47) else s.fld sid 23 0
      let p := s.pshed (pshedOf s (shedOf sid))
      exec (.ballast sid) s = .next (
        if 16 < duty then stallFault s sid 1 u.seq.pc
        else if 0 < p.bduty ∨ p.tlim < 16 then after s sid u 1
        else after s sid { u with eng := { u.eng with ballast := if duty = 0 ∨ n = 0 then none else some (duty, n) } } 1)) ∧
    (∀ b, (s.stall sid).eng.ballast = some b → exec (.ballastRunOut sid) s = .next { s with
      stalls := gset s.stalls sid { s.stall sid with eng := { (s.stall sid).eng with ballast := none } } }) ∧
    ((s.stall sid).eng.ballast = none → exec (.ballastRunOut sid) s = .next s)

/-- The sixteen vector words: which encodings they refuse, when they hold, and what they leave when they retire. Where the spec leaves a point open the clause is the model's choice or reading: log 9, log 11, log 14. -/
def Obligations.VectorWordsRun : Prop :=
    ∀ (i : Instr) (sid : StallId) (op : Nat) (s : State), Canonical s → wordRow i = some (sid, op, vecFields) → 0x20 ≤ op → op ≤ 0x2F →
    Issues s sid op vecFields →
    let u := s.stall sid
    let v := VF.of (wordAt u)
    let bad := residueFailed i
    let rs := roundings v.rnd (s.reg sid v.ss) s.fresh v.elems
    let run := (v.events u s.fresh).foldl (VRun.step sid v rs (s.reg sid v.ss) s.fresh bad) ⟨u, [], [], [], [], [], none⟩
    let s1 := { s with fresh := s.fresh + (4 * v.elems + 1) }
    let s2 := if bad then record s1 3 (.stall sid) else s1
    let red := if bad then (Config.freeWord s.fresh).toNat else vRed v run.as rs
    let port := decide ((gget u.seq.ags v.a).space ≠ 0 ∨ 0 < v.lofts u)
    (v.valid (wordAt u) = false → exec i s = .next (stallFault s sid 1 u.seq.pc)) ∧
    (v.valid (wordAt u) = true → u.interlocked v.ags (v.writeSpaces u) = true → exec i s = .next (holds s sid 1)) ∧
    (v.valid (wordAt u) = true → u.interlocked v.ags (v.writeSpaces u) = false →
      (run.err = none → exec i s = .next (afterPort s2 sid (if op = 0x2B then run.t.setSreg v.ss red else run.t) port
        (4 + v.factor u * v.n + v.slow u + v.scaleUses))) ∧
      (∀ c, run.err = some c → exec i s = .next (stallFault { s2 with stalls := gset s.stalls sid run.t } sid c u.seq.pc)))

/-- In the schedule of a vector word a read never stands behind a write of its own cycle, and every chunk, destination unit and scale unit stands in it once. Where the spec leaves a point open the clause is the model's choice or reading: log 9. -/
def Obligations.VectorReadsSeeEarlierWrites : Prop :=
    ∀ (v : VF) (u : Stall) (fresh : Nat),
    (v.events u fresh).Pairwise (fun x y => x.cycle < y.cycle ∨ (x.cycle = y.cycle ∧ x.rank ≤ y.rank)) ∧
    (∀ x ∈ v.events u fresh, x.rank = match x.ev with | .scale => 0 | .readA => 1 | .readB => 2 | .readD => 3 | .write => 4) ∧
    ((v.events u fresh).map fun x => (x.ev, x.k)).Perm (
      (List.range v.n).flatMap (fun k => (if v.readsA then [(VEv.readA, k)] else []) ++ (if v.readsB then [(VEv.readB, k)] else []) ++
        (if v.readsD then [(VEv.readD, k)] else [])) ++
      (List.range v.dstUnits).map (fun j => (VEv.write, j)) ++ (List.range v.scaleUses).map (fun k => (VEv.scale, k)))

/-- The integer elements of the vector words: sums, differences and products saturate, maximum and minimum and comparison are signed, logic is bitwise. Where the spec leaves a point open the clause is the model's choice or reading: log 9. -/
def Obligations.VectorIntegerElements : Prop :=
    ∀ (v : VF) (env : ElemEnv) (pa pb pd : Nat), v.fmt = 3 ∨ v.fmt = 4 → v.bs = false →
    let w := widthOf v.fmt
    let a := (BitVec.ofNat w pa).toInt
    let b := (BitVec.ofNat w pb).toInt
    let sat := fun (x : Int) => (BitVec.ofInt w (max (-(2 ^ (w - 1))) (min x (2 ^ (w - 1) - 1)))).toNat
    let of := fun (op sub r : Nat) => v.op = op → v.sub = sub → vElem v env pa pb pd = r
    pa < 2 ^ w → pb < 2 ^ w →
    of 0x20 0 (sat (a + b)) ∧ of 0x21 0 (sat (a - b)) ∧ of 0x22 0 (sat (a * b)) ∧ of 0x24 0 (if a ≤ b then pb else pa) ∧
    of 0x25 0 (if a ≤ b then pa else pb) ∧
    of 0x2D 0 (if a = b then 1 else 0) ∧ of 0x2D 1 (if a = b then 0 else 1) ∧ of 0x2D 2 (if a < b then 1 else 0) ∧
    of 0x2D 3 (if a < b then 0 else 1) ∧
    of 0x2E 0 (pa &&& pb) ∧ of 0x2E 1 (pa ||| pb) ∧ of 0x2E 2 (pa ^^^ pb) ∧ of 0x2E 3 (~~~ (BitVec.ofNat w pa)).toNat ∧ of 0x2F 0 pa

/-- One message of a send word: the header it is given, where it enters the track, and the fence-out count it takes. Where the spec leaves a point open the clause is the model's choice or reading: log 16. -/
def Obligations.WhatASendPutsOnTheTrack : Prop :=
    ∀ (s : State) (sid vc : Nat) (f : Bool) (tag dest : Nat) (payload : List Byte) (u : Stall), gwf s.stalls = true →
    let named := fun (i : Nat) => let e := (gget u.active.fout i).toNat
      e.testBit 30 = true ∧ bitsOf e 19 0 = dest ∧ bitsOf e 29 20 = tag
    let count := fun (i : Nat) => { u with qu := { u.qu with foutCnt := gset u.qu.foutCnt i ((gget u.qu.foutCnt i + 1) % 65536) } }
    let sent := fun (fcount : Nat) (u' : Stall) =>
      let len := (payload.length + 15) / 16
      let h : Hdr := { dest := dest, tag := tag, vc := vc, gen := u.cg, epoch := s.sec.inj, f := f, fcount := fcount, len := len, src := sid,
                       srcx := false, rly := false }
      let m : TrackMsg := { id := s.nextId, packet := .msg h payload, epoch := s.sec.inj, vc := vc, inbound := false, path := [⟨sid, 4, false⟩],
                            pos := List.replicate (1 + len) 0, refusals := 0, fate := .moving, waited := false }
      { s with
        track := s.track ++ [m], nextId := s.nextId + 1, stalls := gset s.stalls sid u',
        yards := gmod s.yards (yardOf sid) fun y => if s.sec.inj then { y with cnt1 := y.cnt1 + 1 } else { y with cnt0 := y.cnt0 + 1 } }
    (∀ i, i < 16 → named i → (∀ j, j < i → ¬ named j) →
      sendOne (putStall s sid u) sid vc f tag dest payload = sent (if f then gget u.qu.foutCnt i else 0) (count i)) ∧
    ((∀ i, i < 16 → ¬ named i) → sendOne (putStall s sid u) sid vc f tag dest payload = sent 0 u)

/-- SEND, SENDL, SENDS and RELAY: what they refuse, when they hold, and which messages they send at what cost. Where the spec leaves a point open the clause is the model's choice or reading: log 16, log 37. -/
def Obligations.SendWords : Prop :=
    ∀ (s : State) (sid : StallId), Canonical s →
    let u := s.stall sid
    let vc := s.fld sid 57 56
    let f := decide (s.fld sid 55 55 = 1)
    let reg := s.reg sid (s.fld sid 54 50)
    let tag := s.fld sid 49 40
    let a := s.fld sid 39 37
    let len := s.fld sid 36 30
    let sp := (gget u.seq.ags a).space
    let fenced := fun (dest : Nat) => f = false ∨ ∃ i, i < 16 ∧ fenceEntry (gget u.active.fout i) dest tag = true
    let busy := u.qu.relays ≠ [] ∨ injectBusy s sid 4 vc false = true
    let ill := stallFault s sid 1 u.seq.pc
    (Issues s sid 0x30 [(57, 56), (55, 55), (54, 50), (49, 40), (39, 37), (36, 30)] →
      let dest := reg % 2 ^ 20
      let legal := vc ≠ 3 ∧ len ≤ 64 ∧ fenced dest
      (¬ legal → exec (.send sid) s = .next ill) ∧
      (legal → u.interlocked [a] [] = true → exec (.send sid) s = .next (holds s sid 1)) ∧
      (legal → u.interlocked [a] [] = false → busy → exec (.send sid) s = .next (holds s sid 4)) ∧
      (legal → u.interlocked [a] [] = false → ¬ busy → ∀ t,
        (∀ bytes, Stall.readUnits sid a ((len + 3) / 4) u = (t, some bytes) →
          let s' := sendOne (putStall s sid t) sid vc f tag dest (padTo (16 * len) bytes)
          exec (.send sid) s = .next (afterPort s' sid (s'.stall sid) (decide (sp ≠ 0)) ([1, 3, 5, 6].getD sp 6 + 1 + len))) ∧
        (Stall.readUnits sid a ((len + 3) / 4) u = (t, none) → exec (.send sid) s = .next (stallFault (putStall s sid t) sid 2 u.seq.pc)))) ∧
    (Issues s sid 0x31 [(57, 56), (55, 55), (54, 50), (49, 40), (39, 37), (36, 30), (29, 24)] →
      let cnt := s.fld sid 29 24
      let dests := (List.range cnt).map fun i => leNat (u.mem.readBytes sid 0 (reg + 4 * i) 4) % 2 ^ 20
      let listed := 1 ≤ cnt ∧ cnt ≤ 32 ∧ reg % 4 = 0 ∧ reg + 4 * cnt ≤ 0xC000
      let legal := vc ≠ 3 ∧ len ≤ 64
      let sendable := legal ∧ listed ∧ (∀ d ∈ dests, fenced d)
      (¬ legal → exec (.sendl sid) s = .next ill) ∧
      (legal → ¬ listed → exec (.sendl sid) s = .next (stallFault s sid 7 u.seq.pc)) ∧
      (legal → listed → (∃ d ∈ dests, ¬ fenced d) → exec (.sendl sid) s = .next ill) ∧
      (sendable → u.interlocked [a] [] = true → exec (.sendl sid) s = .next (holds s sid 1)) ∧
      (sendable → u.interlocked [a] [] = false → busy → exec (.sendl sid) s = .next (holds s sid 4)) ∧
      (sendable → u.interlocked [a] [] = false → ¬ busy → ∀ t,
        (∀ bytes, Stall.readUnits sid a ((len + 3) / 4) u = (t, some bytes) →
          let s' := dests.foldl (fun x d => sendOne x sid vc f tag d (padTo (16 * len) bytes)) (putStall s sid t)
          exec (.sendl sid) s = .next (afterPort s' sid (s'.stall sid) (decide (sp ≠ 0))
            (1 + [1, 3, 5, 6].getD sp 6 + (len + 3) / 4 + cnt * (1 + len)))) ∧
        (Stall.readUnits sid a ((len + 3) / 4) u = (t, none) → exec (.sendl sid) s = .next (stallFault (putStall s sid t) sid 2 u.seq.pc)))) ∧
    (Issues s sid 0x32 [(57, 56), (55, 55), (54, 50), (49, 40), (39, 35), (34, 33)] →
      let dest := reg % 2 ^ 20
      let n := s.fld sid 34 33 + 1
      let legal := vc ≠ 3 ∧ s.fld sid 39 35 + n ≤ 32 ∧ fenced dest
      let s' := sendOne s sid vc f tag dest (padTo 16 ((List.range n).flatMap fun i => leBytes 4 (s.reg sid (s.fld sid 39 35 + i))))
      (¬ legal → exec (.sends sid) s = .next ill) ∧
      (legal → busy → exec (.sends sid) s = .next (holds s sid 4)) ∧
      (legal → ¬ busy → exec (.sends sid) s = .next (after s' sid (s'.stall sid) 2))) ∧
    (Issues s sid 0x33 [(57, 56), (49, 40)] → ∃ e : Word32,
      (∀ i, e.getLsbD i = if i = 20 then (s.fld sid 57 56).testBit 0 else if i = 21 then (s.fld sid 57 56).testBit 1
        else (gget u.active.tags tag).getLsbD i) ∧
      exec (.relay sid) s = .next (after s sid { u with active := { u.active with tags := gset u.active.tags tag e } } 1))

/-- DMM, SMM and SDD at their issue: what they refuse, when they hold, and where they wait for their run. Where the spec leaves a point open the clause is the model's choice or reading: log 9, log 10, log 25. -/
def Obligations.MatrixWordsIssue : Prop :=
    ∀ (s : State) (sid : StallId), Canonical s →
    let u := s.stall sid
    let w := wordAt u
    let bank := s.fld sid 56 55
    let acc := s.fld sid 57 57 = 1
    let fa := s.fld sid 54 51
    let fb := s.fld sid 50 47
    let mx := s.fld sid 37 37 = 1
    let npat := s.fld sid 14 13
    let fp : Bool := decide (fa = 1 ∨ fa = 2)
    let common := s.fld sid 26 15 ≠ 0 ∧ (mx → fp = false) ∧ (¬ mx → s.fld sid 40 38 = 0) ∧ (acc → u.modeOf sid bank = fp)
    let calm := { u with eng := { u.eng with ballast := none } }
    let job := fun (codes : List Byte) (started : Bool) => (⟨BitVec.ofNat 64 w, u.seq.pc, started, 0, false, codes⟩ : Job)
    let fresh := (u.bankOf sid bank).cleared fp (if fp then (u.bankOf sid bank).e else (BitVec.ofNat 10 (s.fld sid 36 27)).toInt)
    let started := fun (t : Stall) => if acc then t else t.setBank bank fresh
    let clash := fun (js : List Job) => ∃ j ∈ js, j.bank = bank ∨ ∃ g ∈ j.ags, g ∈ matrixAgs w
    let ill := stallFault s sid 1 u.seq.pc
    let wait := holds (putStall s sid calm) sid 1
    let narrow := fun (f : Nat) => f = 3 ∨ f = 5 ∨ f = 6 ∨ f = 7 ∨ f = 8
    (Issues s sid 0x10 [(57, 15)] →
      let pair := ((narrow fa ∨ fa = 9) ∧ (narrow fb ∨ fb = 9)) ∨ (fp = true ∧ (fb = 1 ∨ fb = 2))
      (¬ (pair ∧ common) → exec (.dmm sid) s = .next ill) ∧
      (pair → common → clash u.eng.rakeJobs → exec (.dmm sid) s = .next wait) ∧
      (pair → common → ¬ clash u.eng.rakeJobs → u.eng.dexec = none → exec (.dmm sid) s = .next (after s sid
        (let t := started calm
         { t with eng := { t.eng with dexec := some (job [] true) } }) 1)) ∧
      (pair → common → ¬ clash u.eng.rakeJobs → ∀ x, u.eng.dexec = some x →
        (u.eng.dwait = none → exec (.dmm sid) s = .next (after s sid { calm with eng := { calm.eng with dwait := some (job [] false) } } 1)) ∧
        (∀ y, u.eng.dwait = some y → exec (.dmm sid) s = .next wait))) ∧
    (Issues s sid 0x18 [(57, 11)] →
      let pair := (narrow fa ∧ narrow fb) ∨ (fp = true ∧ (fb = 1 ∨ fb = 2))
      let legal := pair ∧ common ∧ npat ≠ 3 ∧ (s.fld sid 11 11 = 1 → s.fld sid 12 12 = 1)
      (¬ legal → exec (.smm sid) s = .next ill) ∧
      (legal → clash u.eng.draftJobs → exec (.smm sid) s = .next wait) ∧
      (legal → ¬ clash u.eng.draftJobs → u.eng.rexec = none → exec (.smm sid) s = .next (after s sid
        (let t := started calm
         { t with eng := { t.eng with rexec := some (job [] true) } }) 1)) ∧
      (legal → ¬ clash u.eng.draftJobs → ∀ x, u.eng.rexec = some x →
        (u.eng.rwait = none → exec (.smm sid) s = .next (after s sid { calm with eng := { calm.eng with rwait := some (job [] false) } } 1)) ∧
        (∀ y, u.eng.rwait = some y → exec (.smm sid) s = .next wait))) ∧
    (Issues s sid 0x19 [(57, 9)] →
      let c := s.fld sid 11 9
      let legal := narrow fa ∧ narrow fb ∧ common ∧ npat ≠ 3 ∧ (s.fld sid 12 12 = 1 → npat = 0)
      let shares := ∃ j ∈ u.eng.rakeJobs, c = wAga j.word.toNat ∨ c = wAgb j.word.toNat ∨ (wMx j.word.toNat = true ∧ c = wAgs j.word.toNat)
      let stays := clash u.eng.draftJobs ∨ shares ∨ (u.eng.rexec ≠ none ∧ u.eng.rwait ≠ none)
      (¬ legal → exec (.sdd sid) s = .next ill) ∧
      (legal → stays → exec (.sdd sid) s = .next wait) ∧
      (legal → ¬ stays → ∀ t,
        (Stall.readUnits sid c (codeUnits w) calm = (t, none) → exec (.sdd sid) s = .next (stallFault (putStall s sid t) sid 2 u.seq.pc)) ∧
        (∀ codes, Stall.readUnits sid c (codeUnits w) calm = (t, some codes) →
          let uneven := ((List.range 8).filter fun b => blockUneven (wN w) (leNat codes) b).length
          let counted := { s with sheds := gmod s.sheds (shedOf sid) fun h => { h with maskerr := min (h.maskerr + uneven) 65535 } }
          (u.eng.rexec = none → exec (.sdd sid) s = .next (after counted sid
            (let t := started t
             { t with eng := { t.eng with rexec := some (job codes true) } }) 1)) ∧
          (u.eng.rexec ≠ none → exec (.sdd sid) s = .next (after counted sid
            { t with eng := { t.eng with rwait := some (job codes false) } } 1)))))

/-- The completion of a Draft or Rake word, its replay after an overflow, and its saturation. Where the spec leaves a point open the clause is the model's choice or reading: log 9, log 37. -/
def Obligations.MatrixWordsComplete : Prop :=
    ∀ (s : State) (sid : StallId) (rake : Bool), Canonical s →
    let u := s.stall sid
    let place := if rake then u.eng.rexec else u.eng.dexec
    let complete : Instr := if rake then .rakeCompletion sid else .dmmCompletion sid
    let into := fun (t : Stall) (x w : Option Job) =>
      if rake then { t with eng := { t.eng with rexec := x, rwait := w } } else { t with eng := { t.eng with dexec := x, dwait := w } }
    let shedWith := fun (f : Shed → Shed) => { s with sheds := gmod s.sheds (shedOf sid) f }
    (place = none → exec complete s = .next s ∧ exec (.overflowReplay sid rake) s = .next s) ∧
    (∀ j, place = some j →
      (∀ t r n, runJob sid j u = .done t r n →
        let b := { (t.bankOf sid j.bank).close r with replays := j.replays }
        let t1 := t.setBank j.bank b
        ((if rake then t.eng.rwait else t.eng.dwait) = none →
          exec complete s = .next (putStall (shedWith fun h => { h with maskerr := min (h.maskerr + n) 65535 }) sid (into t1 none none))) ∧
        (∀ y, (if rake then t.eng.rwait else t.eng.dwait) = some y →
          exec complete s = .next (putStall (shedWith fun h => { h with maskerr := min (h.maskerr + n) 65535 }) sid
            (into (t1.startJob sid y) (some { y with started := true }) none))) ∧
        exec (.overflowReplay sid rake) s = .next s) ∧
      (∀ t, runJob sid j u = .range t → exec complete s = .next (stallFault (putStall s sid t) sid 2 j.pc) ∧
        exec (.overflowReplay sid rake) s = .next s) ∧
      (runJob sid j u = .overflow → exec complete s = .next s ∧
        (let b := u.bankOf sid j.bank
         let held := fun (x : Job) => if rake then { u.eng with rexec := some x } else { u.eng with dexec := some x }
         (j.replays < 4 ∧ b.e + 8 ≤ 511 → exec (.overflowReplay sid rake) s = .next
           (putStall (shedWith fun h => { h with replays := min (h.replays + 1) (2 ^ 32 - 1) }) sid
             ({ u with eng := held { j with replays := j.replays + 1 } }.setBank j.bank (b.raise 8)))) ∧
         (¬ (j.replays < 4 ∧ b.e + 8 ≤ 511) → exec (.overflowReplay sid rake) s = .next
           (record (putStall (shedWith fun h => { h with sats := min (h.sats + 1) 65535 }) sid
             ({ u with eng := held { j with saturating := true } }.setBank j.bank { b with sat := true })) 4 (.stall sid))))))

/-- A bank shifted right or left: every cell that is neither clamped nor NaN, the check cells, the exponent and INEXACT. Where the spec leaves a point open the clause is the model's choice or reading: log 4. -/
def Obligations.BankRescaling : Prop :=
    ∀ (b : Bank) (k i : Nat), i < 128 →
    let c := gget b.cells i
    let held := c.clamp = true ∨ c.nan = true
    let r := b.raise k
    let l := (b.lower k).1
    r.e = b.e + k ∧ l.e = b.e - k ∧ r.fp32 = b.fp32 ∧ r.sat = b.sat ∧ r.nan = b.nan ∧ r.replays = b.replays ∧
    (held → gget r.cells i = c ∧ gget l.cells i = c) ∧
    (¬ held → gget r.cells i = { c with v := c.v / 2 ^ k } ∧
      (c.v % 2 ^ k ≠ 0 → r.inexact = true) ∧
      (-(2 ^ 63) ≤ c.v * 2 ^ k ∧ c.v * 2 ^ k < 2 ^ 63 → gget l.cells i = { c with v := c.v * 2 ^ k }) ∧
      (c.v * 2 ^ k < -(2 ^ 63) → gget l.cells i = { c with v := -(2 ^ 63), clamp := true } ∧ l.sat = true) ∧
      (2 ^ 63 ≤ c.v * 2 ^ k → gget l.cells i = { c with v := 2 ^ 63 - 1, clamp := true } ∧ l.sat = true)) ∧
    (∀ m, m < 8 → let d := gget b.checks m
      (d.clamp = true ∨ d.nan = true → gget r.checks m = d) ∧
      (d.clamp = false → d.nan = false → gget r.checks m = { d with v := d.v / 2 ^ k } ∧ (d.v % 2 ^ k ≠ 0 → r.inexact = true)))

/-- DEXP, DSTAT and DRAIN: a bank cleared, rescaled, reported and converted to a tile. Where the spec leaves a point open the clause is the model's choice or reading: log 4, log 10. -/
def Obligations.BankWords : Prop :=
    ∀ (s : State) (sid : StallId), Canonical s →
    let u := s.stall sid
    let i := s.fld sid 56 55
    let b := u.bankOf sid i
    (Issues s sid 0x13 [(57, 57), (56, 55), (36, 27)] →
      let e := (BitVec.ofNat 10 (s.fld sid 36 27)).toInt
      let put := fun (x : Bank) => { u with eng := { u.eng with banks := gset u.eng.banks i x } }
      let none' : GMap Cell := ⟨⟨0, false, false⟩, []⟩
      let zeroed := { b with cells := none', checks := none', e := e, fp32 := false, inexact := false, sat := false, nan := false, undef := none }
      exec (.dexp sid) s = .next (
        if u.bankBusy i then holds s sid 1
        else if s.fld sid 57 57 = 0 then after s sid (put zeroed) 1
        else if b.fp32 then stallFault s sid 1 u.seq.pc
        else if b.e ≤ e then after s sid (put (b.raise (e - b.e).toNat)) 2
        else after (if (b.lower (b.e - e).toNat).2 then record s 4 (.stall sid) else s) sid (put (b.lower (b.e - e).toNat).1) 2)) ∧
    (Issues s sid 0x14 [(56, 55), (54, 50)] →
      let bit := fun (x : Bool) (n : Nat) => if x then 2 ^ n else 0
      exec (.dstat sid) s = .next (
        if u.bankBusy i then holds s sid 1
        else after s sid (u.setSreg (s.fld sid 54 50) ((BitVec.ofInt 10 b.e).toNat + bit b.inexact 10 + bit b.sat 11 + bit b.nan 12 +
          bit b.fp32 13 + b.replays % 8 * 2 ^ 14)) 1)) ∧
    (Issues s sid 0x12 [(56, 55), (54, 51), (50, 48), (47, 46), (45, 41), (40, 33)] →
      let fmt := s.fld sid 54 51
      let k := s.fld sid 50 48
      let sp := (gget u.seq.ags k).space
      let h := s.shed (shedOf sid)
      let rs := roundings (s.fld sid 47 46) (s.reg sid (s.fld sid 45 41)) s.fresh 128
      let units := [8, 4, 4, 2, 8, 2, 2].getD fmt 0
      let tile := b.tile fmt (BitVec.ofNat 8 (s.fld sid 40 33)).toInt rs
      let checked := (List.range (b.failing h.tolInx h.tolF32)).foldl (fun x _ => record x 0 (.stall sid)) s
      let shown := if b.inexact then record checked 5 (.stall sid) else checked
      let spent := { shown with fresh := shown.fresh + 128 }
      (6 < fmt → exec (.drain sid) s = .next (stallFault s sid 1 u.seq.pc)) ∧
      (fmt ≤ 6 → (u.bankBusy i = true ∨ u.interlocked [k] [sp] = true) → exec (.drain sid) s = .next (holds s sid 1)) ∧
      (fmt ≤ 6 → u.bankBusy i = false → u.interlocked [k] [sp] = false → ∀ t,
        (Stall.writeUnits sid k units tile u = (t, true) →
          exec (.drain sid) s = .next (afterPort spent sid t (decide (sp ≠ 0)) (3 + units))) ∧
        (Stall.writeUnits sid k units tile u = (t, false) →
          exec (.drain sid) s = .next (stallFault (putStall spent sid t) sid 2 u.seq.pc))))

/-- PSEL and PCHK: the neurons kept, the check list by mode, the strays and what they count. Where the spec leaves a point open the clause is the model's choice or reading: log 4. -/
def Obligations.PredictorWords : Prop :=
    ∀ (s : State) (sid : StallId), Canonical s →
    let u := s.stall sid
    let now := (s.shed (shedOf sid)).predNow
    let mode := if now = 3 then 0 else now
    (Issues s sid 0x1A [(54, 52), (51, 49), (48, 46), (45, 35), (31, 27), (26, 22)] →
      let a := s.fld sid 54 52
      let d := s.fld sid 51 49
      let e := s.fld sid 48 46
      let n := s.fld sid 45 35
      let s1 := if mode = 1 then { s with fresh := s.fresh + 1 } else s
      (n = 0 → exec (.psel sid) s = .next (stallFault s sid 1 u.seq.pc)) ∧
      (n ≠ 0 → u.interlocked [a, d, e] [(gget u.seq.ags d).space, (gget u.seq.ags e).space] = true →
        exec (.psel sid) s = .next (holds s sid 1)) ∧
      (n ≠ 0 → u.interlocked [a, d, e] [(gget u.seq.ags d).space, (gget u.seq.ags e).space] = false → ∀ t,
        (Stall.readUnits sid a n u = (t, none) → exec (.psel sid) s = .next (stallFault (putStall s1 sid t) sid 2 u.seq.pc)) ∧
        (∀ bytes, Stall.readUnits sid a n u = (t, some bytes) →
          let score := fun (p : Nat) => (unpack 32 (16 * n) bytes).getD p 0
          let keep := (List.range (16 * n)).filter fun p => kept (t.sreg sid (s.fld sid 31 27)) (score p)
          let skip := (List.range (16 * n)).filter fun p => !kept (t.sreg sid (s.fld sid 31 27)) (score p)
          let check := if mode = 0 then skip
            else if mode = 1 then (List.range skip.length).filterMap fun q => if q % 16 = (Config.phase s.fresh).toNat then skip[q]? else none
            else []
          ∀ t1 t2 ok, Stall.writeUnits sid d ((keep.length + 31) / 32) (entries16 keep) t = (t1, true) →
            Stall.writeUnits sid e ((check.length + 31) / 32) (entries16 check) t1 = (t2, ok) →
            exec (.psel sid) s = .next (
              if ok then afterPort s1 sid (t2.setSreg (s.fld sid 26 22) (keep.length + 65536 * check.length)) true
                ([1, 3, 5, 6].getD (gget u.seq.ags a).space 6 + 4 + n)
              else stallFault (putStall s1 sid t2) sid 2 u.seq.pc)))) ∧
    (Issues s sid 0x1B [(54, 52), (51, 49), (48, 46), (45, 31), (30, 26), (25, 21)] →
      let a := s.fld sid 54 52
      let l := s.fld sid 51 49
      let d := s.fld sid 48 46
      let n := s.fld sid 45 31
      (n = 0 ∨ 32752 < n → exec (.pchk sid) s = .next (stallFault s sid 1 u.seq.pc)) ∧
      (1 ≤ n → n ≤ 32752 → u.interlocked [a, l, d] [(gget u.seq.ags d).space] = true → exec (.pchk sid) s = .next (holds s sid 1)) ∧
      (1 ≤ n → n ≤ 32752 → u.interlocked [a, l, d] [(gget u.seq.ags d).space] = false → ∀ t1 t2 t3 ls vs,
        Stall.readUnits sid l ((n + 31) / 32) u = (t1, some ls) → Stall.readUnits sid a ((n + 15) / 16) t1 = (t2, some vs) →
        let value := fun (q : Nat) => (unpack 32 n vs).getD q 0
        let strays := ((List.range n).filter fun q => isStray (t2.sreg sid (s.fld sid 30 26)) (value q)).map fun q => (unpack 16 n ls).getD q 0
        let count := strays.length
        let units := if mode = 0 then (count + 31) / 32 else 0
        let shedNow := { s with sheds := gmod s.sheds (shedOf sid) fun h =>
          { h with examined := min (h.examined + n) (2 ^ 32 - 1), made := if mode = 0 then min (h.made + count) 65535 else h.made,
                   seen := if mode = 1 then min (h.seen + count) 65535 else h.seen } }
        (Stall.writeUnits sid d units (entries16 strays) t2 = (t3, true) →
          exec (.pchk sid) s = .next (afterPort (if mode < 2 ∧ 0 < count then record shedNow 15 (.stall sid) else shedNow) sid
            (t3.setSreg (s.fld sid 25 21) (if mode = 0 then count else 0)) true ([1, 3, 5, 6].getD (gget u.seq.ags a).space 6 + 4 + (n + 15) / 16))) ∧
        (Stall.writeUnits sid d units (entries16 strays) t2 = (t3, false) →
          exec (.pchk sid) s = .next (stallFault (putStall s sid t3) sid 2 u.seq.pc))))

/-- DISPATCH starts the routine of the first eligible queue after the last one, and binds its messages. Where the spec leaves a point open the clause is the model's choice or reading: log 10, log 19. -/
def Obligations.DispatchStartsARoutine : Prop :=
    (∀ (s : State) (sid : StallId) (par : Bool) (k : Nat) (m : QMsg) (mq : Nat) (partner : Option QMsg), Canonical s →
      let t := s.stall sid
      t.opened = true → stallLive s sid = true → runningPlace s ≠ none → (t.seq.run = 0 ∨ t.seq.run = 6) → t.seq.lost = none → k < 32 →
      t.eligible ((t.seq.last + 1 + k) % 32) = some ((m, mq), partner) → (∀ j, j < k → t.eligible ((t.seq.last + 1 + j) % 32) = none) →
      let at' := t.seq.cyc + Config.freeCycles s.fresh
      let s28 := BitVec.ofNat 32 (m.tag + mq * 1024 + if partner ≠ none then 32768 else 0)
      let s29 := BitVec.ofNat 32 (16 * m.len)
      let s30 := BitVec.ofNat 32 (match partner with | some n => 16 * n.len | none => 0)
      let q := { t.seq with
        last := (t.seq.last + 1 + k) % 32, sregs := gset (gset (gset t.seq.sregs 28 s28) 29 s29) 30 s30, pc := bitsOf (gget t.active.tags m.tag).toNat 8 0, run := 1, tag := m.tag, queue := mq, loops := [],
        bound0 := some m.id, bound1 := partner.map (·.id), dispatched := (t.seq.dispatched + 1) % 2 ^ 32, dispCyc := some at', cyc := at' + 3 }
      exec (.dispatch sid par) s = .next
        { (if par then record s 2 (.stall sid) else s) with fresh := s.fresh + 1, stalls := gset s.stalls sid { t with seq := q } }) ∧
    (∀ (t : Stall) (q : Nat),
      (t.qu.queue q = [] → t.eligible q = none) ∧
      (∀ m rest, t.qu.queue q = m :: rest →
        (m.complete = false → t.eligible q = none) ∧
        (m.complete = true → (gget t.active.tags m.tag).toNat.testBit 15 = false → t.eligible q = some ((m, q), none)) ∧
        (m.complete = true → (gget t.active.tags m.tag).toNat.testBit 15 = true →
          let q' := bitsOf (gget t.active.tags (m.tag ^^^ 1)).toNat 13 9
          (t.qu.queue q' = [] → t.eligible q = none) ∧
          (∀ n rest', t.qu.queue q' = n :: rest' →
            (n.complete = true ∧ n.tag = m.tag ^^^ 1 ∧ q' ≠ q → t.eligible q = some (if m.tag % 2 = 0 then ((m, q), some n) else ((n, q'), some m))) ∧
            (¬ (n.complete = true ∧ n.tag = m.tag ^^^ 1 ∧ q' ≠ q) → t.eligible q = none)))))

/-- The queue unit: a header's verdict, a message and a contribution completed, a relay copy, a release, a penned message. Where the spec leaves a point open the clause is the model's choice or reading: log 1, log 9. -/
def Obligations.QueueUnitEvents : Prop :=
    ∀ (s : State) (sid : StallId) (vc : Fin 3) (slot : Fin 8), Canonical s → stallLive s sid = true →
    let t := s.stall sid
    let qu := fun (x : State) (f : QueueUnit → QueueUnit) => { x with stalls := gmod x.stalls sid fun u => { u with qu := f u.qu } }
    let freed := fun (u : QueueUnit) => { u with ej := gset u.ej vc.val [] }
    (∀ m h payload, (vc = 2 → t.qu.notice = none) → (gget t.qu.ej vc.val).head? = some m.id → trackMsg s m.id = some m → m.packet = .msg h payload →
      let e := (gget t.active.tags h.tag).toNat
      let q := bitsOf e 13 9
      let current := h.gen ≠ (t.cg + 1) % 4 ∧ t.opened = true ∧ h.gen = t.cg
      let fits := e.testBit 19 = true ∨ 1 + h.len ≤ bitsOf (gget t.active.conf (1 + q)).toNat 18 9
      let entry := if h.srcx then none else fenceMatch t.active.fin h.src h.tag
      let inTurn := h.f = false ∨ ∀ i, entry = some i → gget t.qu.finCnt i = h.fcount
      let landed := fun (l : Landing) (x : State) =>
        { qu x (fun u => { u with landing := gset u.landing vc.val (some l) }) with track := s.track.map fun k => if k.id = m.id then { k with fate := .landing } else k }
      (h.gen = (t.cg + 1) % 4 → exec (.messageAcceptance sid vc false) s = .next s) ∧
      (h.gen ≠ (t.cg + 1) % 4 → t.opened = false ∨ h.gen ≠ t.cg →
        exec (.messageAcceptance sid vc false) s = .next (qu (discardAt (staleDrop s sid) m.id) freed)) ∧
      (current → e.testBit 14 = false → exec (.messageAcceptance sid vc false) s = .next (stallFault (qu (discardAt s m.id) freed) sid 8 t.seq.pc)) ∧
      (current → e.testBit 14 = true → ¬ fits → exec (.messageAcceptance sid vc false) s = .next (stallFault (qu (discardAt s m.id) freed) sid 9 t.seq.pc)) ∧
      (current → e.testBit 14 = true → fits → inTurn → t.hasRoomFor e h.len = false → exec (.messageAcceptance sid vc false) s = .next s) ∧
      (current → e.testBit 14 = true → fits → inTurn → t.hasRoomFor e h.len = true → gget t.qu.landing vc.val = none →
        let counted := if h.f = true ∧ entry = none then { s with yards := gmod s.yards (yardOf sid) fun y => { y with fmiss := min (y.fmiss + 1) 65535 } } else s
        let s1 := relayFor (countFence (qu counted freed) sid h) sid m.id e h payload
        (e.testBit 19 = false → exec (.messageAcceptance sid vc false) s = .next
          (landed (.queue m.id q) (qu s1 fun u => { u with queues := gset u.queues q (gget u.queues q ++ [⟨m.id, h.tag, payload, h.len, false⟩]) }))) ∧
        (e.testBit 19 = true → exec (.messageAcceptance sid vc false) s = .next
          (landed (.slot m.id (bitsOf e 18 16))
            (qu s1 fun u => { u with slots := gmod u.slots (bitsOf e 18 16) fun x => { x with accepted := x.accepted + 1 } })))) ∧
      (current → e.testBit 14 = true → fits → ¬ inTurn →
        let space := t.qu.pen.length < 8 ∧ t.qu.penUnits + 1 + h.len ≤ 128
        let penned := qu (qu s freed) fun u => { u with pen := u.pen ++ [⟨m.id, h, payload, decide (m.pos.length = 1)⟩] }
        (space → exec (.messageAcceptance sid vc false) s = .next
          (if m.pos.length = 1 then removeTrack penned m
           else { penned with track := s.track.map fun k => if k.id = m.id then { k with fate := .penned } else k })) ∧
        (¬ space → exec (.messageAcceptance sid vc false) s = .next
          (if m.waited then s
           else { s with
             track := s.track.map fun k => if k.id = m.id then { k with waited := true } else k,
             yards := gmod s.yards (yardOf sid) fun y => { y with penwait := min (y.penwait + 1) 65535 } })))) ∧
    (∀ m id q h payload, gget t.qu.landing vc.val = some (.queue id q) → lastFlit s id = some m → m.packet = .msg h payload →
      exec (.messageComplete sid vc) s = .next (arrived (qu (removeTrack s m) fun u => { u with
        queues := gset u.queues q ((gget u.queues q).map fun x => if x.id = id then { x with complete := true } else x),
        landing := gset u.landing vc.val none }) sid h.tag)) ∧
    (∀ m id c h payload, gget t.qu.landing vc.val = some (.slot id c) → lastFlit s id = some m → m.packet = .msg h payload →
      exec (.contributionCounted sid vc) s = .next
        (addContribution (qu (removeTrack s m) fun u => { u with landing := gset u.landing vc.val none }) sid c h.tag h.len payload)) ∧
    (∀ r rest, t.qu.relays = r :: rest → injectBusy s sid 4 r.hdr.vc false = false →
      exec (.relayCopy sid) s = .next (inject (qu s fun u => { u with relays := rest }) (.msg r.hdr r.payload) sid 4)) ∧
    (let x := gget t.qu.slots slot.val
     let lanes := bitsOf (gget t.active.conf (33 + slot.val)).toNat 16 9
     let q := bitsOf (gget t.active.tags x.tag).toNat 13 9
     let len := (lanes + 1) / 2
     let full := x.releasing = false ∧ 0 < bitsOf (gget t.active.conf (33 + slot.val)).toNat 31 17 ∧
       bitsOf (gget t.active.conf (33 + slot.val)).toNat 31 17 ≤ x.counted
     (full → t.hasUnits q (1 + len) = false →
       exec (.releaseBegin sid slot) s = .next (qu s fun u => { u with slots := gset u.slots slot.val { x with held := true } })) ∧
     (full → t.hasUnits q (1 + len) = true →
       let m : QMsg := ⟨s.nextId, x.tag, releasePayload t slot, len, false⟩
       exec (.releaseBegin sid slot) s = .next { (qu s fun u => { u with
         slots := gset u.slots slot.val { x with held := false, releasing := true, relId := s.nextId },
         queues := gset u.queues q (gget u.queues q ++ [m]) }) with nextId := s.nextId + 1 }) ∧
     (x.releasing = true → exec (.releaseComplete sid slot) s = .next (progress (qu s fun u => { u with
       queues := gset u.queues q ((gget u.queues q).map fun y => if y.id = x.relId then { y with complete := true } else y),
       slots := gset u.slots slot.val Slot.empty,
       wmsgs := gmodKeys u.wmsgs (watchSlots (s.shed (shedOf sid)) x.tag) fun _ n => min (n + 1) (2 ^ 32 - 1) }) sid))) ∧
    (∀ p, t.opened = true → t.qu.pen.find? (penReady t) = some p →
      let e := (gget t.active.tags p.hdr.tag).toNat
      exec (.penLeave sid) s = .next (finishTarget (enterTarget
        (qu s fun u => { u with pen := u.pen.filter fun x => x.id ≠ p.id }) sid p.id e p.hdr p.payload) sid p.id e p.hdr p.payload))

/-- A flit's hop, the way a header takes, and an injection from the I/O ring. Where the spec leaves a point open the clause is the model's choice or reading: log 1, log 16. -/
def Obligations.TrackMoves : Prop :=
    (∀ (s : State) (m : TrackMsg) (p : Nat) (x : Hop) (adaptive : Option (Fin 4)) (ok : Bool), trackMsg s m.id = some m → m.fate = .moving →
      m.pos[0]? = some p → p ≠ gone → m.path[p]? = some x → (s.yard (yardOf x.router)).track = true → behindOther s m = false →
      let change := fun (f : TrackMsg → TrackMsg) => s.track.map fun k => if k.id = m.id then f k else k
      let into := fun (r : Yard) => if m.packet.isLoft then { r with lwcnt := r.lwcnt + 1 } else if m.packet.epoch then { r with cnt1 := r.cnt1 + 1 } else { r with cnt0 := r.cnt0 + 1 }
      let outof := fun (r : Yard) => if m.packet.isLoft then { r with lwcnt := r.lwcnt - 1 } else if m.packet.epoch then { r with cnt1 := r.cnt1 - 1 } else { r with cnt0 := r.cnt0 - 1 }
      (headerNext s m adaptive = some .discard → exec (.flitHop m.id 0 adaptive ok) s = .next
        (discardAt { s with yards := gmod s.yards (yardOf m.head) fun r => { r with unreach := min (r.unreach + 1) 65535 } } m.id)) ∧
      (headerNext s m adaptive = some .eject → gget (s.stall m.packet.dest).qu.ej m.vc = [] →
        exec (.flitHop m.id 0 adaptive ok) s = .next { s with
          track := change fun k => { k with pos := k.pos.set 0 gone, refusals := 0 },
          stalls := gmod s.stalls m.packet.dest fun u => { u with qu := { u.qu with ej := gset u.qu.ej m.vc [m.id] } } }) ∧
      (∀ h, headerNext s m adaptive = some (.hop h) → hasRoom s h m.vc m.inbound = true → linkTaken s m.id m.vc h.router h.side = false →
        (m.vc ≠ 0 → vc0Waits s h = false) →
        let y := yardOf m.head
        let y' := yardOf h.router
        (ok = true → exec (.flitHop m.id 0 adaptive ok) s = .next { s with
          track := s.track.filter (fun k => k.id ≠ m.id) ++ [{ m with path := m.path ++ [h], pos := m.pos.set 0 m.path.length, refusals := 0 }],
          yards := if y' = y then s.yards else if m.pos.length = 1 then gmod (gmod s.yards y' into) y outof else gmod s.yards y' into }) ∧
        (ok = false → m.refusals < 7 → exec (.flitHop m.id 0 adaptive ok) s = .next { s with
          yards := gmod s.yards y' fun r => { r with retries := min (r.retries + 1) (2 ^ 32 - 1) },
          track := change fun k => { k with refusals := k.refusals + 1 } })) ∧
      (∀ i p q a b, 0 < i → m.pos[i]? = some p → m.pos[i - 1]? = some q → p < q → p ≠ gone → m.path[p]? = some a → m.path[p + 1]? = some b →
        (s.yard (yardOf a.router)).track = true → hasRoom s b m.vc m.inbound = true → (m.vc ≠ 0 → vc0Waits s b = false) →
        exec (.flitHop m.id i adaptive true) s = .next { s with
          track := change fun _ => { m with pos := m.pos.set i (p + 1), refusals := 0 },
          yards := if i + 1 = m.pos.length ∧ yardOf a.router ≠ yardOf b.router then gmod s.yards (yardOf a.router) outof else s.yards })) ∧
    (∀ (s : State) (m : TrackMsg),
      let r := m.head
      let d := m.packet.dest
      let e := (routeTable s m.epoch).entry r (yardOf d)
      let out := fun (n dir : Nat) (esc : Bool) => some (if (s.yard (yardOf n)).track then Next.hop ⟨n, arriveSide dir, esc⟩ else .discard)
      (r = d → ∀ a, headerNext s m a = some (match leavesAt m.packet with | some port => .siding port | none => .eject)) ∧
      (r ≠ d → yardOf r ≠ yardOf d → e.testBit 6 = true → ∀ a, headerNext s m a = some .discard) ∧
      (r ≠ d → (yardOf r = yardOf d ∨ e.testBit 6 = false) → ∀ dir n, neighbour r dir = some n →
        (m.vc ≠ 1 → (if yardOf r = yardOf d then yardDir r d else some (bitsOf e 1 0)) = some dir → headerNext s m none = out n dir false) ∧
        (∀ f : Fin 4, f.val = dir → m.vc = 1 → (if yardOf r = yardOf d then decide (yardDir r d = some dir) else e.testBit (2 + dir)) = true →
          headerNext s m (some f) = out n dir false))) ∧
    (∀ (s : State) (port : PortId) (j : Nat) (p : Packet), sidingLink s port p = some j →
      let takes := fun k => k < 28 ∧ injectBusy s (sidingStall port k) 5 p.vc p.srcx = false
      takes j ∧ ∀ k, takes k → edgeDist port j p.dest < edgeDist port k p.dest ∨ edgeDist port j p.dest = edgeDist port k p.dest ∧ j ≤ k) ∧
    (∀ (s : State) (port : PortId),
      (∀ p rest j, (s.port port).outbox = p :: rest → (p.isLoft = true → writesHeld s (yardOf p.dest) = false) →
        let p' := match p with | .msg h pl => Packet.msg { h with epoch := s.sec.inj } pl | .loft h pl => Packet.loft { h with epoch := s.sec.inj } pl
        sidingLink s port p' = some j → exec (.sidingInjection port .unit) s = .next
          { inject s p' (sidingStall port j) 5 with ports := gset s.ports port { s.port port with outbox := rest } }) ∧
      (∀ m g j, ringGen s = some g → m.payload.length ≤ 1024 →
        let len := (m.payload.length + 15) / 16
        let p := Packet.msg ⟨m.dest, m.tag.toNat, m.vc, g, s.sec.inj, false, 0, len, 256 + m.cluster, true, false⟩ (padTo (16 * len) m.payload)
        sidingLink s port p = some j → exec (.sidingInjection port (.message m)) s = .next (inject s p (sidingStall port j) 5)))

/-- A gate line's opening and realignment, the progress watchdog, the injection epoch and the route tables. Where the spec leaves a point open the clause is the model's choice or reading: log 1, log 10, log 15. -/
def Obligations.GatesEpochsAndRoutes : Prop :=
    ∀ (s : State), Canonical s →
    (∀ (scope : Fin 3) (unit : Nat) (line : Fin 16) (bit : Nat), gateBit scope line = some bit →
      let ps := participants s scope unit bit
      ps ≠ [] → (∀ sid, sid ∈ ps → (s.stall sid).pend.testBit bit = true) →
      let open' := ps.foldl (clearPend bit) s
      let mark := fun (n : Nat) => n ^^^ 2 ^ line.val
      exec (.gateOpening scope unit line) s = .next (
        if scope = 0 then { open' with sheds := gmod open'.sheds unit fun h => { h with phase := mark h.phase } }
        else if scope = 1 then { open' with yards := gmod open'.yards unit fun y => { y with phase := mark y.phase } }
        else if open'.sec.earm = true ∧ open'.sec.eline = line then
          { open' with sec := { open'.sec with gphase := mark open'.sec.gphase, inj := !open'.sec.inj, earm := false, drained := false } }
        else { open' with sec := { open'.sec with gphase := mark open'.sec.gphase } })) ∧
    (∀ (bit sid k : Nat), k < 32 → gwf (s.stall sid).qu.tallies = true →
      let d := gget (s.stall sid).active.tdesc k
      let t := clearPend bit s sid
      (t.stall sid).pend = (s.stall sid).pend - 2 ^ bit ∧
      gget (t.stall sid).qu.tallies k = (if bitsOf d.toNat 49 45 = bit then bitsOf d.toNat 29 15 else gget (s.stall sid).qu.tallies k) ∧
      (∀ other, other ≠ sid → t.stall other = s.stall other)) ∧
    (∀ (yard : YardId) (shed : ShedNo), let k := shedKey yard shed
      watchdogCounts s k = true → ((s.shed k).fired = false ∨ (s.shed k).cause = true) →
      exec (.progressWatchdogFire yard shed) s = .next (hwAbort (record { s with
        sheds := gmod s.sheds k fun h => { (if h.fired then h else { h with fired := true, cause := false, progStall := progStall s k }) with progCount := 0xFFFFF } } 10 (.shed k)) 2)) ∧
    ((∀ y, y < 64 → (if s.sec.inj then (s.yard y).cnt0 else (s.yard y).cnt1) = 0) → exec .epochDrained s = .next { s with sec := { s.sec with drained := true } }) ∧
    ((∃ y, y < 64 ∧ (if s.sec.inj then (s.yard y).cnt0 else (s.yard y).cnt1) ≠ 0) → exec .epochDrained s = .next s) ∧
    (∀ (o : Origin) (data : Word64),
      (Origin.auth o = true → exec (.secEpochWrite o data) s = .next { s with resp := ⟨0, 0, []⟩, sec := { s.sec with
        eline := (data.extractLsb' 2 4).toNat, earm := if s.sec.drained then data.getLsbD 1 else s.sec.earm } }) ∧
      (Origin.auth o = false → exec (.secEpochWrite o data) s = .next { s with resp := ⟨2, 0, []⟩ })) ∧
    (∀ (v : Bool) (sid : StallId) (es : List Byte), es.length = 64 →
      (v ≠ s.sec.inj → s.sec.drained = true → ∃ r, exec (.routeTableWrite v sid es) s = .next (if v then { s with routeB := r } else { s with routeA := r }) ∧
        r.dead = (routeTable s v).dead ∧ (gwf (routeTable s v).entries = true →
          (∀ y, y < 64 → gget r.entries (sid.val * 64 + y) = some (es.getD y 0 &&& 0x7F#8)) ∧
          (∀ k, k / 64 ≠ sid.val → gget r.entries k = gget (routeTable s v).entries k))) ∧
      ((v = s.sec.inj ∨ s.sec.drained = false) → exec (.routeTableWrite v sid es) s = .next { s with
        yards := gmod s.yards (yardOf sid) fun y => { y with rtrefuse := min (y.rtrefuse + 1) 65535 } })) ∧
    (let d := (List.range 64).filter fun y => (s.yard y).tracktrip
     d ≠ [] → (routeTable s s.sec.inj).dead ≠ d → s.sec.drained = true → exec .detourInstall s = .next
       (let r : RouteTable := ⟨d, gconst none⟩
        let sec := { s.sec with earm := true, eline := 15 }
        if s.sec.inj then { s with sec := sec, routeA := r } else { s with sec := sec, routeB := r }))

/-- LOAD, EVICT, RELOAD, ARM and DISARM taken or refused, and the ends of a load, a reload and an arm. Where the spec leaves a point open the clause is the model's choice or reading: log 9, log 17, log 22. -/
def Obligations.PlaceCommands : Prop :=
    ∀ (s : State) (o : Origin) (p : PlaceNo), Canonical s →
    let q := s.place p
    let sent := fun (cmd : Nat) (auto : Bool) => { s with sec := { s.sec with cmd := cmd, cplace := p, cauto := auto }, resp := ⟨0, 0, []⟩ }
    let put := fun (x : State) (r : Place) => { x with sec := { x.sec with places := gset s.sec.places p r } }
    let bare := fun (code : Nat) => { Place.atReset with gen := q.gen, cmderr := code }
    let rests := (q.st = 2 ∨ q.st = 5 ∨ q.st = 7) ∧ s.sec.arming ≠ some p.val
    (Origin.auth o = true →
      (exec (.load o p) s = .next (if q.st = 0 ∨ rests then put (sent 1 false) { bare q.cmderr with
          st := 1, source := s.sec.loadsrc, rld := decide (s.rm.running ≠ none), rldFor := match s.rm.running with | some r => r.stalls | none => [] }
        else put (sent 1 false) { q with cmderr := 1 })) ∧
      (exec (.evict o p) s = .next (if rests then put (sent 6 false) (bare q.cmderr) else put (sent 6 false) { q with cmderr := 1 })) ∧
      (exec (.reload o p) s = .next (if rests ∧ q.rld = true ∧ q.rldRun = false then put (sent 7 false) { q with rldRun := true }
        else put (sent 7 false) { q with cmderr := 1 })) ∧
      (exec (.disarm o p) s = .next (if q.st = 3 ∧ s.sec.openOut = false then
          (let t := put (sent 5 false) { q with st := 2 }; { t with sec := { t.sec with auto := false, earm := false } })
        else put (sent 5 false) { q with cmderr := 1 })) ∧
      (∀ auto, let refuse := fun code => exec (.arm o p auto) s = .next (put (sent 2 auto) { q with cmderr := code })
        let free := armedPlace s = none ∧ s.sec.arming = none
        (¬ rests → refuse 1) ∧ (rests → ¬ free → refuse 2) ∧ (rests → free → q.rld = true → refuse 7) ∧
        (rests → free → q.rld = false → q.epsw = true → s.sec.drained = false → refuse 6) ∧
        (rests → free → q.rld = false → (q.epsw = true → s.sec.drained = true) →
          exec (.arm o p auto) s = .next (armEndsLunge (let t := put (sent 2 auto) { q with gen := (s.sec.cg + 1) % 4 }
            { t with sec := { t.sec with arming := some p.val, auto := auto } }) p)))) ∧
    (q.st = 1 →
      (exec (.loadComplete p true) s = .next (modPlace (record s 2 (.ring 256)) p fun r => r.emptied 11)) ∧
      (tackSource s q.source = .failed → exec (.loadComplete p false) s = .next (put s (bare 11))) ∧
      (∀ m size, tackSource s q.source = .ready m size →
        (∀ code, tackRefused m size = some code → exec (.loadComplete p false) s = .next (put s (bare code))) ∧
        (tackRefused m size = none → ∃ t, exec (.loadComplete p false) s = .next t ∧ { t with stalls := s.stalls } = put s (q.keep m) ∧
          ∀ sid, sid < 1048576 → t.stall sid = if shedAbsent s (shedOf sid) then s.stall sid else (s.stall sid).racked p m (gget (tackMap m) sid).toNat))) ∧
    (q.rldRun = true →
      (exec (.reloadComplete p true) s = .next (modPlace (record s 2 (.ring 256)) p fun r => r.emptied 11)) ∧
      (∀ m size, tackSource s q.source = .ready m size →
        (tackRefused m size ≠ none ∨ hdrField m 0xC0 64 ≠ q.digest → exec (.reloadComplete p false) s = .next (put s (bare 11))) ∧
        (tackRefused m size = none → hdrField m 0xC0 64 = q.digest → exec (.reloadComplete p false) s = .next (
          let t := { s with stalls := gmodKeys s.stalls (q.rldFor.filter fun sid => shedAbsent s (shedOf sid) = false)
                                        fun sid u => u.racked p m (gget (tackMap m) sid).toNat }
          if s.rm.running ≠ none then put t { q with rldRun := false } else put t { q with rldRun := false, rld := false, rldFor := [] })))) ∧
    (s.sec.arming = some p.val →
      (∀ sid, armFailure s p = some sid → exec .armComplete s = .next (
        let why := (s.stall sid).armFails p q.secid.toNat
        let t := put s { q with st := 2, cmderr := if why = 5 then 5 else 4 }
        { t with sec := { t.sec with arming := none, auto := false, afStall := sid, afReason := why } })) ∧
      (armFailure s p = none → q.epsw = false → s.sec.auto = false → exec .armComplete s = .next (
        let t := put s { q with st := 3 }
        { t with sec := { t.sec with arming := none }, stalls := gmapAll s.stalls fun u => { u with shadow := u.shadowOf p } })))

/-- START, the flip, the start opening, the end latch, the close, and the abort with its end. Where the spec leaves a point open the clause is the model's choice or reading: log 9, log 10, log 23, log 39. -/
def Obligations.SectionRuns : Prop :=
    ∀ (s : State) (o : Origin) (p : PlaceNo), Canonical s →
    let q := s.place p
    let sent := fun (cmd : Nat) => { s with sec := { s.sec with cmd := cmd, cplace := p, cauto := false }, resp := ⟨0, 0, []⟩ }
    let refuse := fun (code : Nat) => exec (.start o p) s = .next (let t := sent 3; { t with sec := { t.sec with places := gset s.sec.places p { q with cmderr := code } } })
    (Origin.auth o = true →
      (q.st ≠ 3 ∨ s.sec.openOut = true → refuse 1) ∧
      (q.st = 3 → s.sec.openOut = false →
        (activePlace s ≠ none → refuse 2) ∧
        (activePlace s = none → ¬ (q.predsec = 0 ∨ q.predsec = s.sec.lastsec) → refuse 3) ∧
        (activePlace s = none → (q.predsec = 0 ∨ q.predsec = s.sec.lastsec) →
          (startHeld s = true → exec (.start o p) s = .next (let t := sent 3; { t with sec := { t.sec with wantStart := some p.val } })) ∧
          (startHeld s = false → ∃ t, exec (.start o p) s = .next t ∧
            t.sec = { s.sec with cmd := 3, cplace := p, cauto := false, openOut := true, auto := false, wantStart := none, cg := q.gen } ∧
            (∀ sid, sid < 1048576 → t.stall sid =
              if shedAbsent s (shedOf sid) = false ∧ flipsNow s (shedOf sid) = true then (s.stall sid).flipped q.gen else s.stall sid)))) ∧
      (s.sec.cplace < 8 →
        (∀ r, runningPlace s = some r →
          exec (.abort o) s = .next { abortNow { s with sec := { s.sec with cmd := 4, cauto := false } } r 1 with resp := ⟨0, 0, []⟩ }) ∧
        (runningPlace s = none →
          exec (.abort o) s = .next { record { s with sec := { s.sec with cmd := 4, cauto := false, late := true, acause := 1 } } 23 .device with resp := ⟨0, 0, []⟩ }))) ∧
    (∀ r, armedPlace s = some r → s.sec.openOut = true → allArrived s = true →
      let a := s.place r
      let switch := s.sec.earm = true ∧ s.sec.eline = 15
      let t := { s with
        sec := { s.sec with
          places := gset s.sec.places r { a with st := 4, ranGen := some a.gen }, openOut := false, runus := 0, gphase := s.sec.gphase ^^^ 2 ^ 15,
          inj := if switch then !s.sec.inj else s.sec.inj, earm := if switch then false else s.sec.earm, drained := if switch then false else s.sec.drained },
        err := { s.err with secrec := 0 } }
      exec .startOpening s = .next (fixDevState (startPower (beginStalls t) r))) ∧
    (∀ sid, sid < 1048576 → shedAbsent s (shedOf sid) = false →
      let u := s.stall sid
      (beginStalls s).stall sid = if u.opened = true ∧ (gget u.active.conf 0).toNat.testBit 9 = true then
        (u.settle sid).begin (Config.freeCycles (s.fresh + sid)) else u) ∧
    (∀ r, runningPlace s = some r → endAll s = true →
      let t := completeSection s r
      exec .endLatch s = .next (let e := fixDevState t
        if needsRecovery e then { e with sec := { e.sec with auto := false } } else if e.sec.auto then autoStart e else e) ∧
      (t.place r).st = 5 ∧ t.sec.valid = true ∧ t.sec.outcome = false ∧ t.sec.acause = 0 ∧ t.sec.rplace = r ∧ t.sec.lastsec = (s.place r).secid ∧
      t.sec.closeerr = decide (closeFailures s ≠ []) ∧ t.sec.held = false ∧ (∀ sid, (t.stall sid).opened = false)) ∧
    (∀ r, placeIn s [6] = some r → abortDrained s = true → s.dev.warmBusy = false →
      exec .abortedReached s = .next (let e := fixDevState { s with
          sec := { s.sec with places := gset s.sec.places r { s.place r with st := 7 } }, err := { s.err with lastrec := s.err.secrec },
          pwr := { s.pwr with learning := false } }
        if needsRecovery e then { e with sec := { e.sec with auto := false } } else if e.sec.auto then autoStart e else e))

/-- A stream's issue and cancel, and what a received stream car does to its block's assembly slot. Where the spec leaves a point open the clause is the model's choice or reading: log 9, log 24, log 41. -/
def Obligations.StreamCommandsAndCars : Prop :=
    ∀ (s : State) (port : PortId), Canonical s →
    let q := s.port port
    (∀ (x : StreamCtx) (c : Nat), x.valid port c = true ↔
      let w := fun (i hi lo : Nat) => bitsOf (gget x.desc i).toNat hi lo
      let soft := if w 3 19 0 = 0 then 5000 else w 3 19 0
      let hard := if w 3 35 20 = 0 then 2000 else w 3 35 20
      (w 0 4 0 = c ∧ w 0 7 5 = 0 ∧ w 0 15 8 = port ∧ w 0 33 32 ≤ 2 ∧ w 0 35 34 ≤ 2 ∧ w 0 63 37 = 0) ∧
      (w 1 63 48 = 0 ∧ w 1 47 0 % 4096 = 0 ∧ w 1 47 0 + 4096 * w 2 24 0 ≤ 2 ^ 48) ∧
      (1 ≤ w 2 24 0 ∧ w 2 24 0 ≤ 2 ^ 24) ∧
      (w 3 63 48 = 0 ∧ w 3 19 0 ≤ 1000000 ∧ (w 3 35 20 = 0 ∨ 10 ≤ w 3 35 20) ∧ soft < 1000 * hard) ∧
      (w 0 35 34 = 0 → w 2 63 63 = 0 ∧ w 2 43 25 + w 2 62 44 < 524288) ∧
      (w 0 35 34 = 1 → w 2 63 42 = 0 ∧ w 2 41 25 + w 2 24 0 ≤ 131072 ∧ w 0 36 36 = 0) ∧
      (w 0 35 34 = 2 → w 2 63 25 = 0 ∧ w 0 36 36 = 0)) ∧
    (∀ (o : Origin) (ctx : Fin 32), Origin.auth o = true →
      let x := s.ctx port ctx
      let wrote := fun (cmd : Nat) (err : Bool) => { s with ports := gset s.ports port { q with mctx := ctx, mcmd := cmd, merr := q.merr || err } }
      let said := fun (t : State) => Host.Outcome.next { t with resp := ⟨0, 0, []⟩ }
      (x.active = true ∨ x.valid port ctx = false → exec (.streamIssue o port ctx) s = said (wrote 1 true)) ∧
      (x.active = false → x.valid port ctx = true → exec (.streamIssue o port ctx) s = said (sendSctl
        (modCtx (wrote 1 false) port ctx fun x => { x with st := 1, ack := 0, credit := 0, released := [], bfails := gconst 0, reported := 0, overrun := none, tackBuf := [] })
        port 1 x.id (bitsOf (gget x.desc 1).toNat 47 0 + bitsOf (gget x.desc 0).toNat 33 32 * 2 ^ 48) x.nblk 0)) ∧
      (x.active = false → exec (.streamCancel o port ctx) s = said (wrote 2 true)) ∧
      (x.active = true → exec (.streamCancel o port ctx) s = said (slotFreed (fixHeld (stopStream (wrote 2 false) port ctx 6)) port))) ∧
    (∀ (car : RxCar) (t : State), car.typ = 1 → receiveCar s port car = .take t →
      let id := car.w1.toNat
      let c := bitsOf id 4 0
      let b := bitsOf car.w2.toNat 23 0
      let k := bitsOf car.w2.toNat 27 24
      let y := t.ctx port c
      let dup := fun (t : State) => Host.Outcome.next { t with ports := gmod t.ports port fun q => { q with dupdrop := min (q.dupdrop + 1) 65535 } }
      (y.id ≠ id ∨ y.active = false → exec (.sdata port car) s = dup t) ∧
      (y.id = id → y.active = true →
        let u := if y.st = 2 then t else fixHeld (modCtx t port c fun x => { x with st := 2 })
        let x := u.ctx port c
        let p := u.port port
        let stale := b < x.ack ∨ x.released.contains b = true ∨ x.nblk ≤ b
        let past := { u with ports := gmod u.ports port fun q => { q with overrun := min (q.overrun + 1) 65535 } }
        let lost := Host.Outcome.next (modCtx past port c fun x => { x with overrun := some (match x.overrun with | some n => min n b | none => b) })
        let room := p.slots.length < 64 ∧ (p.slots.filter fun a => a.ctx = c).length < 32
        (stale → exec (.sdata port car) s = dup u) ∧
        (¬ stale → x.ack + 64 ≤ b ∨ p.slotAt c b = none ∧ ¬ room → exec (.sdata port car) s = lost) ∧
        (∀ a, ¬ stale → b < x.ack + 64 → p.slotAt c b = some a → gget a.cars k ≠ none → exec (.sdata port car) s = dup u) ∧
        (∀ a, ¬ stale → b < x.ack + 64 →
          (p.slotAt c b = some a ∧ gget a.cars k = none ∨ p.slotAt c b = none ∧ room ∧ a = ⟨c, b, gconst none, 0, false⟩) →
          let a' := { a with cars := gset a.cars k (some car.payload), brand := if k = 15 then car.w3.toNat else a.brand }
          let kept := fun (ok : Bool) => { u with ports := gset u.ports port { p with
            slots := p.slots.filter (fun x => !(decide (x.ctx = c) && decide (x.block = b))) ++ [{ a' with ok := ok }] } }
          let bytes := (List.range 16).flatMap fun i => (gget a'.cars i).getD []
          ((∃ i, i < 16 ∧ gget a'.cars i = none) → exec (.sdata port car) s = .next (kept false)) ∧
          ((∀ i, i < 16 → gget a'.cars i ≠ none) →
            (brandOf bytes = a'.brand → exec (.sdata port car) s = .next (kept true)) ∧
            (brandOf bytes ≠ a'.brand → exec (.sdata port car) s = .next (blockFailed (kept false) port c b)))))) ∧
    (∀ (c b : Nat),
      let n := gget (s.ctx port c).bfails b + 1
      let out := record { s with ports := gset s.ports port { q with slots := q.slots.filter fun a => !(decide (a.ctx = c) && decide (a.block = b)) } } 1 (.ring port)
      let counted := modCtx { out with ports := gmod out.ports port fun q => { q with bfails := min (q.bfails + 1) 65535 } } port c
        fun x => { x with bfail := true, bfails := gset x.bfails b n }
      blockFailed s port c b = if n < 3 then slotFreed (sendResend counted port c b) port else loseStream counted port c)

/-- The release of verified blocks, ACK, credits, the soft and the hard gap, and the landing of a loft write. Where the spec leaves a point open the clause is the model's choice or reading: log 1, log 3, log 24. -/
def Obligations.StreamReleaseCreditsAndGaps : Prop :=
    ∀ (s : State) (port : PortId) (ctx : Fin 32), Canonical s →
    let q := s.port port
    let x := s.ctx port ctx
    (∀ (b : Nat) (a v : ASlot), x.active = true → q.slotAt ctx b = some a → v ∈ q.slots → v.ctx = ctx → v.ok = true → v.block = b → releasable s x b = true →
      (∀ w, w ∈ q.slots → w.ctx = ctx → w.ok = true → releasable s x w.block = true → b ≤ w.block) →
      let free := fun (t : State) => Host.Outcome.next (fixHeld (slotFreed (modCtx (freeSlot t port ctx b) port ctx fun x => countReleased x b) port))
      let e := entryFor s x b
      (x.mode = 0 → entryOk s e = true → exec (.blockRelease port ctx) s = free { s with ports := gset s.ports port { q with outbox := q.outbox ++ [blockWrite s port x b e a] } }) ∧
      (x.mode = 0 → entryOk s e = false → exec (.blockRelease port ctx) s = free (
        let t := record s 13 (.ring port)
        modCtx { t with ports := gmod t.ports port fun q => { q with misses := min (q.misses + 1) 65535 } } port ctx fun x => { x with miss := true })) ∧
      (x.mode = 1 → exec (.blockRelease port ctx) s = free { s with hmem := Memory.writeBytes s.hmem ((bitsOf (gget x.desc 2).toNat 41 25 + b) * 4096) a.bytes }) ∧
      (x.mode = 2 → exec (.blockRelease port ctx) s = free (modCtx s port ctx fun x => { x with tackBuf := Memory.writeBytes x.tackBuf (b * 4096) a.bytes }))) ∧
    (∀ (x : StreamCtx) (b : Nat), let y := countReleased x b
      x.ack ≤ y.ack ∧ (∀ k, x.ack ≤ k → k < y.ack → k = b ∨ k ∈ x.released) ∧ ¬ (y.ack = b ∨ y.ack ∈ x.released) ∧
      (∀ k, k ∈ y.released ↔ y.ack ≤ k ∧ (k = b ∨ k ∈ x.released)) ∧ y.st = if y.ack = x.nblk then 4 else x.st) ∧
    (∀ h payload rest, q.inbox = (h, payload) :: rest → h.tag ≠ 2 →
      let id := leAt payload 0 4
      let n := leAt payload 4 4
      let c := bitsOf id 4 0
      let good := h.tag = 1 ∧ h.f = false ∧ h.len = 1 ∧ (s.ctx port c).id = id ∧ (s.ctx port c).active = true ∧ 1 ≤ n ∧ n ≤ 4095
      (good → exec (.creditMessage port) s = .next (modCtx { s with ports := gset s.ports port { q with inbox := rest } } port c
        fun x => { x with credit := min (x.credit + n) (2 ^ 25 - 1) })) ∧
      (¬ good → exec (.creditMessage port) s = .next { s with ports := gset s.ports port { q with inbox := rest, dupdrop := min (q.dupdrop + 1) 65535 } })) ∧
    (x.ack ≠ x.reported → x.active = true ∨ x.st = 4 →
      exec (.ackReport port ctx) s = .next (sendSctl (modCtx s port ctx fun x => { x with reported := x.ack }) port 2 x.id x.ack 0 0)) ∧
    (x.active = true → gapPaused s port ctx = false →
      (x.st = 3 → exec (.softGap port ctx) s = .next (sendResend s port ctx x.ack)) ∧
      (x.st ≠ 3 →
        let t := sendResend (modCtx (record s 11 (.ring port)) port ctx fun x => { x with st := 3, gapseen := true }) port ctx x.ack
        exec (.softGap port ctx) s = .next (if x.secbind = true ∧ runningPlace s ≠ none then { t with sec := { t.sec with held := true } } else t)) ∧
      (let t := recordWith s 12 (.ring port) x.secbind
       let m := if t.mars.lostv then t else { t with mars := { t.mars with lostv := true, lport := port, lctx := ctx } }
       let stopped := slotFreed (fixHeld (stopStream m port ctx 5)) port
       exec (.hardGap port ctx) s = .next (if x.secbind then hwAbort stopped 4 else stopped))) ∧
    (∀ (sid : StallId) (id : Nat) (rest : List Nat) (m : TrackMsg) (h : LoftHdr) (payload : List Byte),
      gget (s.stall sid).qu.ej 2 = id :: rest → trackMsg s id = some m → m.packet = .loft h payload →
      let clear := fun (t : State) => Host.Outcome.next (modQu t sid fun u => { u with ej := gset u.ej 2 [] })
      (shedAbsent s (shedOf sid) = true → exec (.loftWriteLanding sid) s = clear
        (discardAt { s with yards := gmod s.yards (yardOf sid) fun y => { y with unreach := min (y.unreach + 1) 65535 } } id)) ∧
      (shedAbsent s (shedOf sid) = false → stallLive s sid = false → exec (.loftWriteLanding sid) s = .next (requestWake s sid)) ∧
      (shedAbsent s (shedOf sid) = false → stallLive s sid = true →
        ((s.stall sid).qu.notice ≠ none → exec (.loftWriteLanding sid) s = .next s) ∧
        ((s.stall sid).qu.notice = none → lastFlit s id = none → exec (.loftWriteLanding sid) s = .next
          { s with track := s.track.map fun k => if k.id = id then { k with fate := .landing } else k }) ∧
        ((s.stall sid).qu.notice = none → lastFlit s id ≠ none →
          let w := modMem (removeTrack s m) sid fun u => u.writeUnits sid h.space h.len (h.uaddr * 64) payload
          let bad := h.brd = true ∧ brandOf payload ≠ h.brand
          (h.kind ≠ 0 → ¬ (h.kind = 1 ∧ 0 < h.runm1) → exec (.loftWriteLanding sid) s = clear w) ∧
          (h.kind = 1 → 0 < h.runm1 → exec (.loftWriteLanding sid) s = clear
            (inject w (.loft { h with dest := h.dest + 1, runm1 := h.runm1 - 1 } payload) sid 4)) ∧
          (h.kind = 0 →
            let branded := if h.brd then modMem w sid fun u => u.setBrand h.space (h.uaddr / 64) h.brand else w
            let checked := if bad then record branded 1 (.stall sid) else branded
            let notice : Hdr × List Byte := ({ dest := h.dest, tag := h.tag, vc := 2, gen := h.ngen, epoch := h.epoch, f := false, fcount := 0, len := 1, src := h.src, srcx := true, rly := false },
              leBytes 4 h.stream ++ leBytes 4 h.block ++ leBytes 4 (h.space + h.uaddr / 64 * 4 + if bad then 128 else 0) ++ List.replicate 4 0#8)
            exec (.loftWriteLanding sid) s = clear (if h.ntf then modQu checked sid fun u => { u with notice := some notice } else checked)))))

/-- A bucket's issue and cancel, the checks and the staging of a part, the sending and its close, the timeout; a marshalling entry's write. Where the spec leaves a point open the clause is the model's choice or reading: log 1, log 3, log 38, log 40. -/
def Obligations.BucketsFillAndSend : Prop :=
    ∀ (s : State) (ctx : Fin 64), Canonical s →
    let b := s.bucket ctx
    let put := fun (t : State) (r : Bucket) => { t with mars := { t.mars with buckets := gset t.mars.buckets ctx r } }
    (∀ (o : Origin), Origin.auth o = true →
      let wrote := fun (cmd : Nat) (err : Bool) => { s with mars := { s.mars with bctx := ctx, bcmd := cmd, berr := s.mars.berr || err } }
      let said := fun (t : State) => Host.Outcome.next { t with resp := ⟨0, 0, []⟩ }
      let ready := (b.st = 0 ∨ b.st = 5 ∨ b.st = 6 ∨ b.st = 7) ∧ bucketValid s b = true
      (ready → exec (.bucketIssue o ctx) s = said (sendBucketCtl (sendTable (put (wrote 1 false)
        { Bucket.atReset with desc := b.desc, st := 1, gchk := b.gchk, gcause := b.gcause }) ctx) ctx 0x11 b.nblk 0 0)) ∧
      (¬ ready → exec (.bucketIssue o ctx) s = said (wrote 1 true)) ∧
      (b.st = 0 ∨ b.st = 5 ∨ b.st = 6 → exec (.bucketCancel o ctx) s = said (wrote 2 true)) ∧
      (b.st ≠ 0 → b.st ≠ 5 → b.st ≠ 6 → exec (.bucketCancel o ctx) s = said (sendBucketCtl (put (dropWaiting (wrote 2 false) ctx) { b with st := 7 }) ctx 0x15 0 0 0))) ∧
    (∀ (port : PortId) (h : Hdr) (pl : List Byte) (rest : List (Hdr × List Byte)), (s.port port).inbox = (h, pl) :: rest → h.tag = 2 →
      bitsOf (leAt pl 0 4) 5 0 = ctx →
      let block := bitsOf (leAt pl 4 4) 15 0
      let half := bitsOf (leAt pl 4 4) 16 16
      let t := { s with ports := gset s.ports port { s.port port with inbox := rest } }
      let result := exec (.gradientPart port) s
      let now := runningPlace s ≠ none ∧ h.gen = s.sec.cg
      let mine := b.st = 1 ∧ b.port = port
      let formed := h.len = 33 ∧ bitsOf (leAt pl 0 4) 31 6 = 0 ∧ bitsOf (leAt pl 4 4) 31 17 = 0 ∧ leAt pl 9 7 = 0 ∧ block < b.nblk
      let scaled := pl.getD 8 0 = Memory.read s.hmem (bitsOf (gget b.desc 1).toNat 63 41 * 64 + block)
      let fresh := 2 * block + half ∉ b.halves
      let failed := fun (cause : Nat) => Host.Outcome.next (record (put t { b with gchk := true, gcause := cause }) 14 (.ring b.port))
      let es := slice pl 16 512
      let v := fun (j : Nat) => signedOf 8 (es.getD j 0).toNat
      let base := 1024 * block + 512 * half
      let sum := ((List.range 512).map fun j => (((base + j + 1 : Nat) : Int) * v j)).sum
      let sat := (es.filter fun e => decide (e = 0x80#8 ∨ e = 0x7F#8)).length
      (¬ now → result = .next (put (record t 9 (.ring port)) { b with late := min (b.late + 1) 65535 })) ∧
      (now → ¬ mine → result = .next (put t { b with late := min (b.late + 1) 65535 })) ∧
      (now → mine → ¬ formed → result = failed 2) ∧
      (now → mine → formed → ¬ scaled → result = failed 3) ∧
      (now → mine → formed → scaled → ¬ fresh → result = failed 4) ∧
      (now → mine → formed → scaled → fresh → es.length = 512 → result = .next
        { put t { b with bound := true, halves := b.halves ++ [2 * block + half], sats := min (b.sats + sat) (2 ^ 32 - 1),
                         csum := (((b.csum : Int) + sum) % (2 ^ 61 - 1 : Int)).toNat,
                         st := if b.halves.length + 1 = 2 * b.nblk then 2 else 1 }
          with hmem := Memory.writeBytes s.hmem (bitsOf (gget b.desc 1).toNat 36 20 * 4096 + base) es })) ∧
    (b.st = 2 → b.clean = true → b.agreed = true → (s.port b.port).st = 4 → exec (.bucketSendStart ctx) s = .next (sendBlocks (put s { b with
      st := 3, back := [], cars := gconst none, brands := gconst 0, racc := 0, rfails := gconst 0, haveA := false }) ctx 0)) ∧
    (b.st = 3 → (∀ c, c ∈ (s.port b.port).sess.waiting → ¬ (c.typ = 2 ∧ c.w1 = b.id ctx)) → exec (.bucketCloseSent ctx) s = .next
      (put (sendSctl s b.port 0x13 (b.id ctx) (b.nblk + b.rounds * 2 ^ 32) b.sats b.csum) { b with st := 4 })) ∧
    (b.st = 3 ∨ b.st = 4 → exec (.bucketTimeout ctx) s = .next
      (sendBucketCtl (put (dropWaiting (recordWith s 12 (.ring b.port) false) ctx) { b with st := 6 }) ctx 0x15 0 0 0)) ∧
    (∀ (o : Origin) (version : Bool) (index : Fin 524288) (data : Word64), Origin.auth o = true → exec (.marshallingEntryWrite o version index data) s = .next
      (let m := s.mars
       let m' := if version = s.sec.inj then { m with refused := min (m.refused + 1) 65535 }
         else if version then { m with verB := gset m.verB index data } else { m with verA := gset m.verA index data }
       { s with mars := m', resp := ⟨0, 0, []⟩ }))

/-- A returned block's cars, the comparison of R with A, and the control records a Keadigor sends. Where the spec leaves a point open the clause is the model's choice or reading: log 3, log 40, log 41. -/
def Obligations.BucketReturnsAndControl : Prop :=
    ∀ (s : State) (port : PortId) (car : RxCar) (t : State), Canonical t → receiveCar s port car = .take t →
    let put := fun (t : State) (c : Nat) (r : Bucket) => { t with mars := { t.mars with buckets := gset t.mars.buckets c r } }
    (let id := car.w1.toNat
     let c := bitsOf id 5 0
     let k := bitsOf car.w2.toNat 15 0
     let j := bitsOf car.w2.toNat 19 16
     let b := t.bucket c
     let due := b.st = 4 ∧ b.id c = id ∧ b.port = port ∧ bitsOf car.w2.toNat 21 20 = b.rounds ∧ k < b.nblk ∧ k ∉ b.back ∧ gget b.cars (16 * k + j) = none
     let a := { b with cars := gset b.cars (16 * k + j) (some car.payload), brands := if j = 15 then gset b.brands k car.w3.toNat else b.brands }
     let bytes := (List.range 16).flatMap fun i => (gget a.cars (16 * k + i)).getD []
     let whole := ∀ i, i < 16 → gget a.cars (16 * k + i) ≠ none
     let d := { a with cars := gmodKeys a.cars ((List.range 16).map fun i => 16 * k + i) fun _ _ => none }
     let sum := ((List.range 1024).map fun i => (((1024 * k + i + 1 : Nat) : Int) * signedOf 32 (leAt bytes (4 * i) 4))).sum
     car.typ = 3 →
      (¬ due → exec (.gret port car) s = .next t) ∧
      (due → ¬ whole → exec (.gret port car) s = .next (put t c a)) ∧
      (due → whole → brandOf bytes = gget a.brands k → exec (.gret port car) s = .next (checkReturn (put
        (if (gget b.desc 0).toNat.testBit 8 then t else { t with hmem := Memory.writeBytes t.hmem (bitsOf (gget b.desc 2).toNat 16 0 * 4096 + 4096 * k) bytes }) c
        { d with racc := (((b.racc : Int) + sum) % (2 ^ 61 - 1 : Int)).toNat, back := b.back ++ [k] }) c)) ∧
      (due → whole → brandOf bytes ≠ gget a.brands k →
        let n := gget b.rfails k + 1
        let r := put (record (put t c a) 1 (.ring port)) c { d with rfails := gset b.rfails k n }
        exec (.gret port car) s = .next (if 3 ≤ n then roundFailed r c else sendBucketCtl r c 3 k 0 0))) ∧
    (∀ c, let b := t.bucket c
      (¬ (b.haveA = true ∧ b.back.length = b.nblk) → checkReturn t c = t) ∧
      (b.haveA = true → b.back.length = b.nblk → b.racc = b.asum → checkReturn t c = put t c { b with rsum := b.racc, st := 5 }) ∧
      (b.haveA = true → b.back.length = b.nblk → b.racc ≠ b.asum → checkReturn t c = roundFailed t c) ∧
      (let failed := record (put t c { b with rsum := b.racc, gchk := true, gcause := 1 }) 14 (.ring b.port)
       let after := { b with rsum := b.racc, gchk := true, gcause := 1 }
       roundFailed t c = if b.rounds < 2
         then sendBlocks (put failed c { after with rounds := b.rounds + 1, st := 3, back := [], cars := gconst none, brands := gconst 0, racc := 0, rfails := gconst 0, haveA := false }) c 0
         else put failed c { after with st := 6 })) ∧
    (∀ kind i, (kind, i) ∈ [(0x12, Instr.bagree port car), (0x14, .brsnd port car), (0x16, .basum port car), (0x04, .ststop port car), (0x15, .bstop port car)] →
      car.typ = 4 → kind ∈ (ctlRecords car.payload).map (·.kind) → exec i s = .next ((ctlRecords car.payload).foldl (takeRecord port) t)) ∧
    (∀ (r : Ctl), let c := bitsOf r.id 5 0
      let b := t.bucket c
      let bucket := b.st ≠ 0 ∧ b.id c = r.id ∧ b.port = port
      let x := t.ctx port (bitsOf r.id 4 0)
      let stream := x.id = r.id ∧ x.st ≠ 0
      let bad := { t with ports := gmod t.ports port fun q => { q with malform := min (q.malform + 1) 65535 } }
      ((r.kind ∈ [0x12, 0x14, 0x15, 0x16] ∧ ¬ bucket) ∨ (r.kind = 4 ∧ ¬ stream) ∨ r.kind ∉ [4, 0x12, 0x14, 0x15, 0x16] → takeRecord port t r = bad) ∧
      ((r.kind = 0x15 ∧ bucket) ∨ (r.kind = 4 ∧ stream) → takeRecord port t r = t) ∧
      (r.kind = 0x12 → bucket →
        (r.a0 = 0 → b.st = 1 ∨ b.st = 2 → takeRecord port t r = put t c { b with agreed := true }) ∧
        (r.a0 = 1 → b.st = 1 → takeRecord port t r = put (record (put t c { b with gchk := true, gcause := 6 }) 14 (.ring b.port)) c
          { b with gchk := true, gcause := 6, st := 6 })) ∧
      (r.kind = 0x14 → bucket → b.st = 3 ∨ b.st = 4 → r.a1 = b.rounds → r.a0 < b.nblk →
        let sent := sendBlocks (put t c { b with resends := min (b.resends + 1) 65535 }) c r.a0
        takeRecord port t r = if b.st = 4 then sendClose sent c else sent) ∧
      (r.kind = 0x16 → bucket → b.st = 4 → r.a1 = b.rounds → takeRecord port t r = checkReturn (put t c { b with asum := r.a0 % 2 ^ 61, haveA := true }) c))

/-- A port's configuration and control, its training, markers, and the ways out of UP and RETRAIN. Where the spec leaves a point open the clause is the model's choice or reading: log 3, log 8, log 41. -/
def Obligations.PortCommandsAndTraining : Prop :=
    ∀ (s : State) (port : PortId), Canonical s →
    let q := s.port port
    let put := fun (r : Port) => { s with ports := gset s.ports port r }
    let training := { q with st := 2, train := ⟨q.maxrate, 0, 0, none, gconst 0⟩, attempts := gconst 0, ready := 0 }
    let said := fun (t : State) => Host.Outcome.next { t with resp := ⟨0, 0, []⟩ }
    (∀ (o : Origin), Origin.auth o = true →
      (∀ (data : Word64),
        let host := if s.grm.lock then q.host else data.getLsbD 5 && decide (∀ k : Nat, k < 144 → k ≠ port → (s.port k).host = false)
        let r := { q with maxrate := (data.extractLsb' 1 2).toNat, minw := (data.extractLsb' 3 2).toNat, host := host, tsrc := data.getLsbD 6,
                          tryint := (data.extractLsb' 16 8).toNat }
        (data.getLsbD 0 = true → exec (.portCfgWrite o port data) s = said (fixSource (put { r with en := true, st := if q.st = 0 then 1 else q.st }))) ∧
        (data.getLsbD 0 = false → exec (.portCfgWrite o port data) s = said (fixSource (put { (if q.st = 0 then r else r.endSession 0) with en := false })))) ∧
      (q.st = 1 → exec (.train o port) s = said (put training)) ∧
      (q.st ≠ 1 → exec (.train o port) s = said (put q)) ∧
      (Origin.internal o = false → q.st = 6 → exec (.qclr o port) s = said (put { q with st := 1, qcause := 0 })) ∧
      (Origin.internal o = true → exec (.qclr o port) s = said s) ∧
      (q.st = 3 ∨ q.st = 4 ∨ q.st = 5 → exec (.drop o port) s = said (fixSource (put (q.endSession 1))))) ∧
    (q.st = 1 → q.tryint ≠ 0 → exec (.tryintExpiry port) s = .next (put training)) ∧
    (q.st = 4 → exec (.noCarTimeout port) s = .next (fixSource (put (q.endSession 1)))) ∧
    (q.st = 5 → exec (.retrainTimeout port) s = .next (fixSource (put (q.endSession 1)))) ∧
    (∀ (good : Bool) (frame : BitVec 32), q.st = 3 ∨ q.st = 4 →
      let next := (q.frame + 1) % 2 ^ 32
      let hit := good = true ∧ frame.toNat = q.frame
      (q.locked = true → hit → exec (.markerCar port good frame) s = .next (put { q with badMarks := 0, frame := next })) ∧
      (q.locked = true → ¬ hit → exec (.markerCar port good frame) s = .next (put
        (if q.badMarks < 2 then { q with badMarks := q.badMarks + 1, frame := next } else { q with locked := false, badMarks := 0, frame := next }))) ∧
      (q.locked = false → good = true → exec (.markerCar port good frame) s = .next (put { q with locked := true, badMarks := 0, frame := (frame.toNat + 1) % 2 ^ 32 }))) ∧
    (∀ (errBits : List Nat) (uncorr : Nat) (lost : List Bool), errBits.length = 8 → lost.length = 8 → q.st = 4 →
      let r := { q with uncorr := min (q.uncorr + uncorr) 65535, errbits := gmodKeys q.errbits (List.range 8) fun i _ => min (errBits.getD i 0) (2 ^ 32 - 1) }
      let inUse := fun (i : Nat) => i < 8 ∧ q.lanes.testBit i = true
      let bad := (∃ i, inUse i ∧ 10 * laneLimit q.rate < errBits.getD i 0) ∨ 100 < uncorr ∨
        ((∃ i, inUse i ∧ lost.getD i false = true) ∧ ∃ i, inUse i ∧ lost.getD i false = false)
      (¬ bad → exec (.berWindow port errBits uncorr lost) s = .next (put r)) ∧
      (bad → exec (.berWindow port errBits uncorr lost) s = .next (linkBer (fixSource (put r.toRetrain)) port))) ∧
    (∀ (lanes : List LaneResult), lanes.length = 8 → q.st = 2 ∨ q.st = 5 →
      let r := q.tried lanes
      let done := r.train.ready = 0xFF ∨ 4 ≤ r.train.attempts
      let last := laneWidth r.train.ready = 8 ∨ 3 ≤ r.train.rate
      (∀ i l, lanes[i]? = some l → r.train.ready.testBit i = (q.train.ready.testBit i || LaneResult.passes q.train.rate l)) ∧
      (¬ done → exec (.trainingAttemptEnd port lanes) s = .next (put r)) ∧
      (done → last → exec (.trainingAttemptEnd port lanes) s = .next (endTraining (put r.judged) port)) ∧
      (done → ¬ last → exec (.trainingAttemptEnd port lanes) s = .next (put (let j := r.judged
        { j with train := { j.train with rate := r.train.rate + 1, attempts := 0, ready := 0 }, ready := 0, attempts := gconst 0 })))) ∧
    (let w := laneWidth q.train.ready
     let old := match q.train.best with | none => 0 | some b => payloadRate b.1 b.2.1
     q.judged = if minWidth q.minw ≤ w ∧ old < payloadRate q.train.rate w
       then { q with train := { q.train with best := some (q.train.rate, w, q.train.ready), bestTries := q.attempts } } else q) ∧
    (q.train.best = none → endTraining s port = fixSource (put { q.endSession 1 with fails := min (q.fails + 1) 255 })) ∧
    (∀ rate w ready, q.train.best = some (rate, w, ready) →
      let r := { q with rate := rate, width := widthCode w, lanes := lanesInUse ready w, ready := ready, attempts := q.train.bestTries, frame := 0, badMarks := 0, locked := true }
      endTraining s port = if q.st = 5 then fixSource (put (Port.pump { r with st := 4 })) else startAuth (put r) port)

/-- HELLO and KEX chunks, the start and the failure of a handshake, the keys, and the rekey. Where the spec leaves a point open the clause is the model's choice or reading: log 3, log 6, log 41. -/
def Obligations.HandshakeAndRekey : Prop :=
    ∀ (s : State) (port : PortId), Canonical s →
    let chunk := fun (n : Nat) (car : RxCar) => bitsOf car.w1.toNat 31 16 = n ∧ bitsOf car.w1.toNat 15 0 < n
    let put := fun (t : State) (r : Port) => { t with ports := gset t.ports port r }
    (∀ (car : RxCar) (sigs : Bool) (t : State), receiveCar s port car = .take t →
      let q := t.port port
      let h := { q.hs with chunks := gset q.hs.chunks (bitsOf car.w1.toNat 15 0) (some car.payload) }
      let kept := put t { q with hs := h }
      (car.typ = 9 → q.st = 3 → q.hs.step = 1 →
        (¬ chunk 58 car → exec (.hello port car sigs) s = .next (failHandshake t port)) ∧
        (chunk 58 car → h.message 58 = none → exec (.hello port car sigs) s = .next kept) ∧
        (∀ msg, chunk 58 car → h.message 58 = some msg →
          (helloAccepted kept port msg sigs = false → exec (.hello port car sigs) s = .next (quarantine (linkAuth kept port) port 3)) ∧
          (helloAccepted kept port msg sigs = true →
            let known := put t { q with hs := { h with peerHello := msg }, role := leAt msg 0 1, peer := BitVec.ofNat 64 (leAt msg 8 8) }
            exec (.hello port car sigs) s = .next (if t.grm.idok then sendKex1 known port 0 else known)))) ∧
      (car.typ = 9 → ¬ (q.st = 3 ∧ q.hs.step = 1) → exec (.hello port car sigs) s = .next t) ∧
      (car.typ = 10 → q.hs.step = 3 →
        let fails := if q.st = 4 then failRekey else failHandshake
        let epoch := if q.st = 4 then q.sess.epoch + 1 else 0
        let formed := fun (msg : List Byte) => sigs = true ∧ leAt msg 0 1 = 2 ∧ leAt msg 1 3 = 0 ∧ leAt msg 4 4 = epoch ∧ leAt msg 8 8 = 0
        (¬ chunk 25 car → exec (.kex port car sigs) s = .next (fails t port)) ∧
        (chunk 25 car → h.message 25 = none → exec (.kex port car sigs) s = .next kept) ∧
        (∀ msg, chunk 25 car → h.message 25 = some msg →
          (formed msg → exec (.kex port car sigs) s = .next (takeKex2 kept port msg)) ∧
          (¬ formed msg → exec (.kex port car sigs) s = .next (fails kept port)))) ∧
      (car.typ = 10 → q.hs.step ≠ 3 → exec (.kex port car sigs) s = .next t)) ∧
    (let q := s.port port
     let msg := helloMessage s (Config.random s.fresh)
     let t := startAuth s port
     let cars : List TxCar := (List.range 58).map fun i => ⟨9, 3, false, false, i + 58 * 2 ^ 16, 0, 0, padTo 256 (slice msg (256 * i) 256)⟩
     t.fresh = s.fresh + 1 ∧ t.port port = { q with st := 3, sess := Session.new, hs := { Handshake.idle with step := 1, devHello := msg }, sent := q.sent ++ cars }) ∧
    (let q := s.port port
     let times := q.hsFails.filter (fun n => decide (s.dev.wall < n + 60000000000)) ++ [s.dev.wall]
     let r := linkAuth (put s { q with hsFails := times, hs := Handshake.idle }) port
     failHandshake s port = if times.length < 3 then r else quarantine r port 2) ∧
    (∀ msg, (s.port port).st = 3 →
      let hs := (s.port port).hs
      let ct := slice msg 16 1568
      let secret := padTo 32 (Config.mlkemShared hs.kemNo ct)
      let h3 := sha3Bytes (sha3Bytes (hs.devHello ++ hs.peerHello ++ hs.kex1 ++ ct) ++ slice msg 1584 4627)
      let key := fun (d : Nat) => (sha3Bytes (leBytes 1 0x53 ++ leBytes 1 d ++ leBytes 4 0 ++ secret ++ h3)).take 36
      let r := (takeKex2 s port msg).port port
      r.hs.step = 6 ∧ r.sess.txKey = key 0 ∧ r.sess.rxKey = key 1 ∧ r.sess.epoch = 0) ∧
    (let q := s.port port
     (q.st = 3 → q.hs.step ≠ 0 → exec (.handshakeTimeout port) s = .next (failHandshake s port)) ∧
     (q.st = 4 → q.hs.step = 3 → exec (.handshakeTimeout port) s = .next (failRekey s port)) ∧
     (q.st = 3 → q.hs.step = 0 → exec (.authRetry port) s = .next (startAuth s port)) ∧
     (q.st = 4 → q.hs.step = 6 ∨ q.hs.step = 7 →
       let started := sendKex1 s port (q.sess.epoch + 1)
       (∀ o, Origin.auth o = true → exec (.rekey o port) s = .next { started with resp := ⟨0, 0, []⟩ }) ∧
       (q.sess.keysSpent = false → exec (.rekeyTimer port) s = .next started) ∧
       (q.hs.step = 7 → exec (.rekeyRetry port) s = .next started)) ∧
     (q.st = 4 → q.sess.keysSpent = true → exec (.rekeyTimer port) s = .next
       (startAuth (portState (linkAuth s port) port fun r => { r.endSession 3 with rate := q.rate, width := q.width, lanes := q.lanes }) port)))

/-- The checks a received car goes through, link control, replay, and the time beacons. Where the spec leaves a point open the clause is the model's choice or reading: log 3, log 6, log 41. -/
def Obligations.ReceivedCarsAndTime : Prop :=
    ∀ (s : State) (port : PortId), Canonical s →
    let q := s.port port
    let put := fun (r : Port) => { s with ports := gset s.ports port r }
    (∀ (car : RxCar),
      let live := (q.st = 3 ∨ q.st = 4) ∧ q.locked = true
      let clear := q.st = 3 → car.enc = false ∧ (car.typ = 9 ∨ car.typ = 10)
      let sealed := q.st = 4 → car.enc = true
      let d := (car.seq.toNat + 65536 - q.sess.rxExp % 65536) % 65536
      (¬ live → receiveCar s port car = .drop s) ∧
      (live → car.crcOk = false → receiveCar s port car = .drop (sendNak (put { q with crcfail := min (q.crcfail + 1) 65535 }) port)) ∧
      (live → car.crcOk = true → ¬ (clear ∧ sealed) → receiveCar s port car = .drop (put { q with unauth := min (q.unauth + 1) 65535 })) ∧
      (live → car.crcOk = true → q.st = 3 → clear → receiveCar s port car =
        if q.wellFormed car then .take s else .drop (put { q with malform := min (q.malform + 1) 65535 })) ∧
      (live → car.crcOk = true → q.st = 4 → sealed →
        (car.tagOk = false → receiveCar s port car = .drop (gcmFail s port)) ∧
        (car.tagOk = true → 32768 ≤ d → receiveCar s port car = .drop s) ∧
        (car.tagOk = true → 0 < d → d < 32768 → receiveCar s port car = .drop (sendNak s port)) ∧
        (car.tagOk = true → d = 0 →
          let e := q.sess.accept car.kp
          receiveCar s port car = if q.wellFormed car = true ∧ q.creditOk car = true then .take (put { q with sess := e.count car })
            else .drop (put { q with sess := e, malform := min (q.malform + 1) 65535 })))) ∧
    (∀ (car : RxCar), car.typ = 0 → q.locked = true → q.st = 4 ∨ q.st = 3 ∧ q.hs.step = 6 → car.crcOk = true → car.enc = true → car.tagOk = true →
      let d := (car.seq.toNat + 2 * 65536 - q.sess.lctlRx % 65536 - 1) % 65536
      (32767 ≤ d → exec (.lctl port car) s = .next s) ∧
      (d < 32767 →
        let counted := { q with sess := { q.sess with lctlRx := (q.sess.lctlRx + d + 1) % 2 ^ 32, rxLctls := q.sess.rxLctls + 1 } }
        (q.wellFormed car = false → exec (.lctl port car) s = .next (put { counted with malform := min (q.malform + 1) 65535 })) ∧
        (q.wellFormed car = true → exec (.lctl port car) s = .next (fixKeys (finishRekey (applyLctl
          (if q.st = 4 then put counted else fixSource (put { counted with st := 4 })) port car.payload) port) port)))) ∧
    (q.st = 4 →
      exec (.lctlSend port) s = .next (put (let e := q.advertise
        { q with sess := { e with lctlTx := (e.lctlTx + 1) % 2 ^ 32, txLctls := e.txLctls + 1 },
                 sent := q.sent ++ [⟨0, 0, true, q.kp, 0, 0, 0, padTo 256 (lctlPayload e false)⟩] })) ∧
      exec (.replayTimeout port) s = .next (
        if q.sess.replay = [] then s
        else
          let t := put { q with replays := min (q.replays + 1) 65535, sess := { q.sess with resent := q.sess.resent + 1 } }
          if q.sess.resent < 15 then t else linkBer (portState t port Port.toRetrain) port)) ∧
    (let master := fun (p : Nat) => p < 144 ∧ (s.port p).st = 4 ∧ (s.port p).tsrc = true ∧ (s.port p).master = true
     (∀ p, master p → (∀ k, k < p → ¬ master k) → pickSource s = p) ∧ ((∀ p, ¬ master p) → pickSource s = 255)) ∧
    (s.dev.srcport < 144 → exec .beaconSend s = .next
      (let t := sendCar s s.dev.srcport (mkCar 8 0 0 0 0 (leBytes 8 s.dev.wall ++ leBytes 8 0 ++ leBytes 8 0 ++ [1#8]))
       { t with dev := { t.dev with reqT1 := some s.dev.wall } })) ∧
    (∀ (car : RxCar) (t4 : Word64) (t : State), car.typ = 8 → receiveCar s port car = .take t →
      let flags := leAt car.payload 24 1
      let r := portState t port fun q => { q with master := flags.testBit 1 }
      let reply := s.dev.srcport = port ∧ flags.testBit 0 = false ∧ s.dev.reqT1 = some (leAt car.payload 0 8)
      let sum := ((leAt car.payload 8 8 : Int) - leAt car.payload 0 8) + ((leAt car.payload 16 8 : Int) - t4.toNat)
      (¬ reply → exec (.beacon port car t4) s = .next r) ∧
      (reply → ∃ offset f, (2 * offset = sum ∨ 2 * offset = sum + 1 ∨ 2 * offset = sum - 1) ∧ (f = r.fresh ∨ f = r.fresh + 1) ∧
        exec (.beacon port car t4) s = .next { r with fresh := f, dev :=
          (let good := if -100 ≤ offset ∧ offset ≤ 100 then s.dev.goodExch + 1 else 0
           let d := { r.dev with offset := offset, goodExch := min good 16, locked := s.dev.locked || decide (16 ≤ good), reqT1 := none }
           if s.dev.locked = false ∨ 10000 < offset then { d with wall := wallPlus s.dev.wall offset, slew := 0 } else { d with slew := offset }) }))

/-- Notices, doorbells, masks and ready bits of a mailbox; the command rings; the service cars. Where the spec leaves a point open the clause is the model's choice or reading: log 31, log 35, log 43. -/
def Obligations.MailboxesRingsAndServiceCars : Prop :=
    ∀ (s : State), Canonical s →
    let said := fun (t : State) (st : Nat) => { t with resp := ⟨st, 0, []⟩ }
    let put := fun (n : Nat) (b : Mailbox) => { s with mbx := { s.mbx with boxes := gset s.mbx.boxes n b } }
    (∀ (o : Origin) (n : Fin 10) (data : Word64) (v : Bool),
      let b := s.box n
      let reach := Origin.internal o = true ∨ n.val < 8 ∧ (4 ≤ n.val ∨ Origin.auth o = true)
      let sender := reach ∧ partyOf o = senderOf n
      let receiver := reach ∧ partyOf o = receiverOf n
      let w : Word64 := BitVec.ofNat 64 (data.toNat % 2 ^ 53)
      let called := fun (b' : Mailbox) => said (callReceiver (put n b') n b.calling) 0
      (¬ sender → exec (.mbxPost o n data) s = .next (said s 2) ∧ exec (.mbxRing o n data) s = .next (said s 2)) ∧
      (¬ receiver → exec (.mbxDoorClear o n data) s = .next (said s 2) ∧ exec (.mbxMaskWrite o n data) s = .next (said s 2) ∧
        exec (.pop o n) s = .next (said s 2) ∧ exec (.flush o n) s = .next (said s 2) ∧ exec (.rxrdy o n v) s = .next (said s 2)) ∧
      (sender → 8 ≤ b.queue.length → exec (.mbxPost o n data) s = .next (said (put n { b with postHi := w, refused := min (b.refused + 1) 255 }) 0)) ∧
      (sender → b.queue.length < 8 → exec (.mbxPost o n data) s = .next (called
        { b with postHi := w, queue := b.queue ++ [(b.postLo, w)], posted := min (b.posted + 1) 4294967295,
                 door := b.door ||| 2 ^ (data.toNat / 2 ^ 48 % 32) })) ∧
      (sender → exec (.mbxRing o n data) s = .next (called { b with door := b.door ||| data.toNat % 2 ^ 32 })) ∧
      (receiver →
        exec (.mbxDoorClear o n data) s = .next (said (put n { b with door := b.door &&& (data.toNat % 2 ^ 32 ^^^ 0xFFFFFFFF) }) 0) ∧
        exec (.mbxMaskWrite o n data) s = .next (called { b with mask := data.toNat % 2 ^ 32 }) ∧
        exec (.pop o n) s = .next (said (put n { b with queue := b.queue.drop 1 }) 0) ∧
        exec (.flush o n) s = .next (said (put n { b with queue := [], door := 0 }) 0) ∧
        exec (.rxrdy o n v) s = .next (said
          (let t := put n { b with rxrdy := v }
           if n.val = 9 ∧ v = true ∧ gget s.grm.pendArb 2 < s.grm.harb then journal t 10 [2, s.grm.harb] else t) 0))) ∧
    (∀ (n : Fin 10) (old : Nat),
      let newly := (s.box n).calling &&& (old ^^^ 0xFFFFFFFF)
      let irq := fun (c : Nat) => { s with mbx := { s.mbx with irqs := s.mbx.irqs ++ [c] } }
      let ibi := if s.mbx.ibi = true ∧ s.i3c.ibiEn = true ∧ s.i3c.addr ≠ none then { s with i3c := { s.i3c with ibi := some (devAlert s) } } else s
      (newly = 0 → callReceiver s n old = s) ∧
      (newly ≠ 0 → receiverOf n = .hostler → callReceiver s n old = irq s.mbx.hcluster) ∧
      (newly ≠ 0 → receiverOf n = .groom → callReceiver s n old = irq 4) ∧
      (newly ≠ 0 → receiverOf n = .host → s.mbx.evt = false ∨ old ≠ 0 → callReceiver s n old = ibi) ∧
      (newly ≠ 0 → receiverOf n = .host → s.mbx.evt = true → old = 0 → ∀ p, hostPort s = some p →
        callReceiver s n old = sendCar ibi p (mkCar 7 0 0 0 0 (evtPayload s n)))) ∧
    (∀ (o : Origin) (r : Fin 8) (data : Word64),
      let k := s.ring r
      let set := fun (k' : Ring) => { s.mbx with rings := gset s.mbx.rings r k' }
      let h := data.toNat % 2 ^ 32
      let bad := h % 8 ≠ 0 ∨ 2 ^ k.log2 < (h + 2 ^ 32 - k.tail) % 2 ^ 32
      let may := Origin.internal o = false ∧ (Origin.auth o = true ∨ k.sec = false)
      let room := 2 ^ k.log2 - k.tail % 2 ^ k.log2
      let a := k.base * 65536 + k.tail % 2 ^ k.log2
      let len := Memory.readLe s.hmem a 2
      let broken := if Memory.readLe s.hmem (a + 2) 1 = 0 then len ≠ room else len % 8 ≠ 0 ∨ len < 8 ∨ 4096 < len ∨ room < len
      (¬ may → exec (.crheadWrite o r data) s = .next (said s 2)) ∧
      (may → bad → exec (.crheadWrite o r data) s = .next (said { s with mbx := set { k with badhead := min (k.badhead + 1) 255 } } 0)) ∧
      (may → ¬ bad → ∃ stop : Bool, (stop = true ↔ k.en = true ∧ h ≠ k.tail ∧ broken) ∧
        exec (.crheadWrite o r data) s = .next
          (let m := set { k with head := h, stopped := k.stopped || stop }
           said { s with mbx := { m with irqs := s.mbx.irqs ++ [k.cluster] } } 0)) ∧
      (Origin.internal o = false → exec (.crcfgWrite o r data) s = .next (said s 2)) ∧
      (Origin.internal o = true → k.en = true → exec (.crcfgWrite o r data) s = .next (said { s with mbx := set { k with en := data.toNat.testBit 0 } } 0)) ∧
      (Origin.internal o = true → k.en = false →
        let en := data.toNat.testBit 0
        let k' := { k with en := en, sec := data.toNat.testBit 1, log2 := bitsOf data.toNat 6 2, cluster := bitsOf data.toNat 8 7,
                           base := bitsOf data.toNat 28 16 }
        exec (.crcfgWrite o r data) s = .next (said { s with mbx := set (if en then { k' with head := 0, tail := 0 } else k') } 0))) ∧
    (∀ (port : PortId) (car : RxCar), car.typ = 7 →
      (∀ t, receiveCar s port car = .drop t → exec (.svc port car) s = .next t) ∧
      (∀ t, receiveCar s port car = .take t → ∃ emptied, emptied ≤ t.mbx.svcFill ∧
        let fill := t.mbx.svcFill - emptied
        let u := { t with fresh := t.fresh + 1 }
        exec (.svc port car) s = .next (
          if t.mbx.svcSlots ≤ fill then { u with mbx := { t.mbx with svcFill := fill, drops := min (t.mbx.drops + 1) 4294967295 } }
          else
            let at' := (t.mbx.svcBase * 256 + t.mbx.svcPos * 256) % 2 ^ 29
            { u with hmem := Memory.writeBytes t.hmem at' (setAt car.payload 13 (BitVec.ofNat 8 port)),
                     mbx := { t.mbx with svcPos := (t.mbx.svcPos + 1) % t.mbx.svcSlots, svcFill := fill + 1 } })))

/-- Register writes, window reads and writes, PCLR, and management cars. Where the spec leaves a point open the clause is the model's choice or reading: log 20, log 36, log 43, log 44. -/
def Obligations.AccessesAndManagement : Prop :=
    ∀ (s : State), Canonical s →
    let said := fun (t : State) (st : Nat) (d : Word64) (bs : List Byte) => { t with resp := ⟨st, d, bs⟩ }
    (∀ (o : Origin) (addr : BitVec 40) (data : Word64),
      let a := addr.toNat
      let at' := whereIs a
      (a % 8 ≠ 0 ∨ at' = .window → exec (.registerWrite o addr data) s = .next (said s 4 0 [])) ∧
      (a % 8 = 0 → at' = .unassigned → exec (.registerWrite o addr data) s = .next (said s (if Origin.internal o then 0 else 4) 0 [])) ∧
      (a % 8 = 0 → at' ≠ .window → at' ≠ .unassigned →
        (∀ t, regWrite o a data.toNat s = some t → exec (.registerWrite o addr data) s = .next (said t 0 0 [])) ∧
        (regWrite o a data.toNat s = none → exec (.registerWrite o addr data) s = .next (said s 2 0 [])) ∧
        (Origin.auth o = false → (∀ off, at' ≠ .mbx off) → regWrite o a data.toNat s = none) ∧
        (∀ off, at' = .mbx off → off < 0xA00 → Origin.internal o = false → 0x800 ≤ off ∨ off < 0x400 ∧ Origin.auth o = false →
          regWrite o a data.toNat s = none)) ∧
      (Origin.auth o = true →
        regWrite o 0 data.toNat s = some s ∧
        regWrite o 0x40000 data.toNat s = some { s with err := { s.err with sticky := s.err.sticky &&& (data.toNat ^^^ (2 ^ 64 - 1)) } } ∧
        regWrite o 0x40018 data.toNat s = some { s with err := { s.err with alerten := data.toNat % 2 ^ 25 } })) ∧
    (∀ (o : Origin) (addr : BitVec 40) (n : Nat) (bytes : List Byte),
      let a := addr.toNat
      let h := a - 0x8000000000
      let g := a - 0x8040000000
      let inH := 0x8000000000 ≤ a ∧ a < 0x8020000000
      let inG := 0x8040000000 ≤ a ∧ a < 0x8040010000
      let bad := fun (n : Nat) => n < 1 ∨ 224 < n ∨ (¬ inH ∧ ¬ inG) ∨ (inH ∧ 0x20000000 < h + n) ∨ (inG ∧ 0x10000 < g + n)
      let may := fun (n : Nat) =>
        (inG → Origin.auth o = true) ∧
        (inH → Origin.internal o = true ∨ s.mbx.prottop * 4096 ≤ h ∧
          (Origin.auth o = true ∨ s.mbx.nsbase * 4096 ≤ h ∧ h + n ≤ (s.mbx.nsbase + s.mbx.nsblks) * 4096))
      (bad n → exec (.windowRead o addr n) s = .next (said s 4 0 [])) ∧
      (¬ bad n → ¬ may n → exec (.windowRead o addr n) s = .next (said s 2 0 [])) ∧
      (¬ bad n → may n → inH → exec (.windowRead o addr n) s = .next (said s 0 0 ((List.range n).map fun i => Memory.read s.hmem (h + i)))) ∧
      (¬ bad n → may n → inG → exec (.windowRead o addr n) s = .next (said s 0 0 ((List.range n).map fun i => Memory.read s.gwin (g + i)))) ∧
      (bad bytes.length → exec (.windowWrite o addr bytes) s = .next (said s 4 0 [])) ∧
      (¬ bad bytes.length → ¬ may bytes.length → exec (.windowWrite o addr bytes) s = .next (said s 2 0 [])) ∧
      (¬ bad bytes.length → may bytes.length → inH → ∃ m : Mem,
        exec (.windowWrite o addr bytes) s = .next (said { s with hmem := m } 0 0 []) ∧
        ∀ x, Memory.read m x = if h ≤ x ∧ x < h + bytes.length then bytes.getD (x - h) 0 else Memory.read s.hmem x) ∧
      (¬ bad bytes.length → may bytes.length → inG → ∃ m : Mem,
        exec (.windowWrite o addr bytes) s = .next (said { s with gwin := m } 0 0 []) ∧
        ∀ x, Memory.read m x = if g ≤ x ∧ x < g + bytes.length then bytes.getD (x - g) 0 else Memory.read s.gwin x)) ∧
    (∀ (o : Origin) (yard : YardId) (shed : ShedNo),
      let k := shedKey yard shed
      let h := s.shed k
      (Origin.auth o = false → exec (.pclr o yard shed) s = .next (said s 2 0 [])) ∧
      (Origin.auth o = true → shedServed s k = false → exec (.pclr o yard shed) s = .next (said s 0 0 [])) ∧
      (Origin.auth o = true → shedServed s k = true → exec (.pclr o yard shed) s = .next (said
        { s with sheds := gset s.sheds k { h with predMode := h.predMode % 4, made := 0, seen := 0, examined := 0 } } 0 0 []))) ∧
    (∀ (o : Origin) (tr : Trans), tr.addr < 2 ^ 40 → tr.data < 2 ^ 64 →
      let addr := BitVec.ofNat 40 tr.addr
      (tr.op = 0 → tr.addr % 8 = 0 → whereIs tr.addr ≠ .window → whereIs tr.addr ≠ .unassigned →
        transact o tr s = if readable o tr.addr s then said s 0 (BitVec.ofNat 64 (regRead s tr.addr)) [] else said s 2 0 []) ∧
      (tr.op = 1 → exec (.registerWrite o addr (BitVec.ofNat 64 tr.data)) s = .next (transact o tr s)) ∧
      (tr.op = 2 → exec (.windowRead o addr tr.wlen) s = .next (transact o tr s)) ∧
      (tr.op = 3 → 1 ≤ tr.wlen → tr.wlen ≤ 224 → exec (.windowWrite o addr (padTo tr.wlen tr.wdata)) s = .next (transact o tr s)) ∧
      (tr.op = 3 → tr.wlen = 0 ∨ 224 < tr.wlen → transact o tr s = said s 4 0 [])) ∧
    (let reply := fun (t : State) (port w1 : Nat) (pl : List Byte) (r : Resp) =>
       if (t.port port).st = 4 then
         sendCar t port (mkCar 6 3 (setBits (setBits w1 18 18 1) 21 19 r.status) 0 0
           (leBytes 8 t.fuses.serial ++ slice pl 8 8 ++ leBytes 8 r.data.toNat ++ slice pl 24 2 ++ leBytes 6 0 ++ padTo 224 r.bytes))
       else t
     let put := fun (t : State) (port : Nat) (l : List Bridged) => { t with ports := gset t.ports port { t.port port with bridged := l } }
     (∀ (port : PortId) (car : RxCar) (t : State), car.typ = 6 → receiveCar s port car = .take t →
       let w1 := car.w1.toNat
       let pl := car.payload
       let host := (t.port port).host
       let own := leAt pl 0 8 = t.fuses.serial
       (w1.testBit 18 = false → own →
         let o : Origin := if host then .hostPort else .keadigor (w1.testBit 22)
         let u := transact o { op := bitsOf w1 17 16, addr := leAt pl 8 8, data := leAt pl 16 8, wlen := leAt pl 24 2, wdata := pl.drop 32 } t
         exec (.mgmt port car) s = .next (reply u port w1 pl u.resp)) ∧
       (w1.testBit 18 = false → ¬ own → host = false → exec (.mgmt port car) s = .next (reply t port w1 pl ⟨1, 0, []⟩)) ∧
       (w1.testBit 18 = false → ¬ own → host = true → ∀ k, keadigorPort t = some k →
         exec (.mgmt port car) s = .next (sendCar (put t port ((t.port port).bridged ++ [⟨bitsOf w1 15 0, some k, w1, pl⟩])) k (mkCar 6 3 w1 0 0 pl))) ∧
       (w1.testBit 18 = true →
         (bridgeOf t port (bitsOf w1 15 0) = none → exec (.mgmt port car) s = .next t) ∧
         (∀ h, bridgeOf t port (bitsOf w1 15 0) = some h → ∃ l before b after,
           (t.port h).bridged = before ++ b :: after ∧ l = before ++ after ∧ b.via = some port.val ∧ b.tid = bitsOf w1 15 0 ∧
           exec (.mgmt port car) s = .next (sendCar (put t h l) h (mkCar 6 3 w1 0 0 pl))))) ∧
     (∀ (port : PortId) (tid : BitVec 16), (∀ b ∈ (s.port port).bridged, b.tid ≠ tid.toNat) → exec (.bridgeTimeout port tid) s = .next s) ∧
     (∀ (port : PortId) (tid : BitVec 16) (before after : List Bridged) (b : Bridged), (s.port port).bridged = before ++ b :: after →
       (∀ c ∈ before, c.tid ≠ tid.toNat) → b.tid = tid.toNat →
       exec (.bridgeTimeout port tid) s = .next (reply (put s port (before ++ after)) port b.w1 b.payload ⟨3, 0, []⟩)))

/-- The cap and its allocator, the rail limits, the ramp, idle depths and wakes, the staggered start and load shed. Where the spec leaves a point open the clause is the model's choice or reading: log 8, log 45, log 46. -/
def Obligations.PowerCapRampAndShedding : Prop :=
    ∀ (s : State), Canonical s →
    let said := fun (t : State) (st : Nat) => { t with resp := ⟨st, 0, []⟩ }
    let p := s.pwr
    let cap := fun (v : Nat) => clampNat v 8000 (s.dev.maxkw * 1000)
    let shedding := p.pin = true ∨ p.lreq = true
    let slope := fun (v : Nat) => clampNat v 5 500
    (∀ (o : Origin) (data : Word64), Origin.auth o = false →
      exec (.pwrCapWrite o data) s = .next (said s 2) ∧ exec (.staggerArm o data) s = .next (said s 2) ∧
      exec (.nextevWrite o data) s = .next (said s 2) ∧ exec (.lreq o data) s = .next (said s 2)) ∧
    (∀ (o : Origin) (data : Word64), Origin.auth o = true →
      let c := cap (data.toNat % 65536)
      exec (.pwrCapWrite o data) s = .next (said { s with pwr := { p with capw := c, limit :=
        (if shedding then 100 * min (clampNat p.level 8000 (cap c)) (cap c) else if p.limit ≤ 100 * cap c then 100 * cap c else p.limit) } } 0)) ∧
    (∀ (m : PowerMeas),
      let last := min p.nAlloc p.nRamp
      let base := m.links + m.lofts + m.standing
      let above := p.limit < 100 * m.input
      ∃ q : PwrBlock, exec (.allocatorInterval m) s = .next { s with pwr := q } ∧
        q.limit = (if shedding ∨ p.limit ≤ 100 * cap p.capw then p.limit else max (100 * cap p.capw) (p.limit - slope p.down)) ∧
        q.inw = min m.input 65535 ∧ 1000 * q.mj + q.uj = 1000 * p.mj + p.uj + 10 * m.input ∧ q.uj < 1000 ∧
        (q.unmet = true ↔ last = 1 ∧ p.limit < 100 * (m.input - m.ballast)) ∧
        q.overshoot = (if above then min (p.overshoot + 1) 65535 else p.overshoot) ∧
        1 ≤ q.nAlloc ∧ q.nAlloc ≤ 16 ∧ (above → q.nAlloc ≤ max 1 (last - 1)) ∧
        (runningPlace s = none → ¬ above → 0 < m.compute → (q.nAlloc : Int) =
          clampInt (Int.fdiv (16 * ((q.limit : Int) - 100 * base) * last) (100 * (m.compute * 16 : Nat))) 1 16) ∧
        (let recent := p.shoots.filter (fun t => decide (s.dev.wall ≤ t + 100000000)) ++ [s.dev.wall]
         (runningPlace s ≠ none → p.learning = false → above → recent.length < 3 → q.shoots = recent ∧ q.learning = false) ∧
         (runningPlace s ≠ none → p.learning = false → above → 3 ≤ recent.length →
           q.shoots = [] ∧ q.learning = true ∧ q.fallback = min (p.fallback + 1) 65535))) ∧
    (∀ (yard : YardId) (watts : Nat),
      let r := s.yard yard
      let figure := if r.hot then 350 else 500
      let n := if figure < watts then max 1 (r.railLim - 1) else if 10 * watts ≤ 9 * figure then min 16 (r.railLim + 1) else r.railLim
      exec (.yardRailInterval yard watts) s = .next { s with yards := gset s.yards yard { r with railLim := n, corew := min watts 65535 } }) ∧
    (∀ (yard : YardId) (shed : ShedNo) (cause : ProposalCause),
      let k := shedKey yard shed
      let n := pshedOf s k
      let d := selectDepth s k
      let latency := fun (d : Nat) => [0, 20, 1500, 40000, 350000].getD d 0
      let even := fun (d : Nat) => [0, 100, 20000, 400000, 5000000].getD d 0
      let fits := fun (t d : Nat) => s.dev.wall + latency d + even d ≤ t
      exec (.idleProposal yard shed cause) s = .next (propose s k) ∧
      (shedAbsent s k = true → propose s k = s) ∧
      (shedAbsent s k = false → propose s k =
        { s with psheds := gset s.psheds n { s.pshed n with proposed := d, vetoed := (s.pshed n).vetoed && decide ((s.pshed n).depth < d) } }) ∧
      (quietShed s k = false → d = 0) ∧
      (quietShed s k = true → nextEvent s k = none → d = min 1 (depthLimit s k)) ∧
      (∀ t, quietShed s k = true → nextEvent s k = some t →
        (d = 0 ∨ d ≤ depthLimit s k ∧ fits t d) ∧ ∀ e, e ≤ depthLimit s k → e ≤ 4 → fits t e → e ≤ d)) ∧
    (∀ (o : Origin) (data : Word64), Origin.auth o = true →
      exec (.nextevWrite o data) s = .next (said ((List.range 4096).foldl propose { s with pwr := { p with nextev := data.toNat } }) 0)) ∧
    (∀ (yard : YardId) (shed : ShedNo) (cause : WakeCause),
      let k := shedKey yard shed
      let n := pshedOf s k
      let h := s.pshed n
      let asked := if cause = .planned then wakeDue s k else h.wakeReq
      let can := shedAbsent s k = false ∧ s.thm.tripped = false ∧ h.parked = false ∧ h.waking = false ∧ h.depth ≠ 0 ∧ asked = true
      let up := { s with psheds := gset s.psheds n { h with depth := 0, waking := false, parked := false, proposed := 0, vetoed := false } }
      (can → exec (.shedWake yard shed cause) s = .next { s with psheds := gset s.psheds n { h with waking := true, wakeReq := false } }) ∧
      (¬ can → exec (.shedWake yard shed cause) s = .next s) ∧
      (h.waking = false ∨ shedAbsent s k = true → exec (.wakeComplete yard shed) s = .next s) ∧
      (h.waking = true → shedAbsent s k = false →
        exec (.wakeComplete yard shed) s = .next (propose (if h.openLatched then flipShed up k else up) k))) ∧
    (∀ (m : RampMeas), ∃ t : State, exec (.rampInterval m) s = .next t ∧
      let g := t.pwr.gprev
      let d : Int := 100 * m.demand
      let off := shedding ∨ s.thm.tripped = true
      let from' := clampInt d (p.gprev - slope p.down) (p.gprev + slope p.up)
      (off → g = min d p.limit) ∧ g ≤ p.limit ∧
      (¬ off → moduleEvent s = none ∨ expectedDraw s = none → g = min from' p.limit) ∧
      (¬ off → ∀ e w, moduleEvent s = some e → expectedDraw s = some w →
        g = min (max from' (100 * (w : Int) - ((slope p.up * (e - s.dev.wall) / 10000 : Nat) : Int))) p.limit) ∧
      t.pwr.target = (Int.fdiv g 100).toNat % 65536 ∧ (t.pwr.veto = true ↔ ∃ c ∈ presented t, (t.pshed c.1).vetoed = true) ∧
      (off ∨ g = 100 * m.draw → t.pwr.nRamp = p.nRamp) ∧
      (¬ off → g < 100 * m.draw → ∃ w, t.pwr.nRamp = 1 + w % p.nRamp) ∧
      (¬ off → 100 * m.draw < g → (∃ w, t.pwr.nRamp = p.nRamp + w % (17 - p.nRamp)) ∧
        t.pwr.slopemiss = if m.short then min (p.slopemiss + 1) 65535 else p.slopemiss)) ∧
    (∀ (o : Origin) (data : Word64), Origin.auth o = true →
      let v := data.toNat
      let q := { p with nslotm1 := bitsOf v 11 2, slotsrc := v.testBit 12, slot := bitsOf v 22 13, slotw := bitsOf v 47 24 }
      let slot := if v.testBit 12 then bitsOf v 22 13 else s.fuses.serial % (bitsOf v 11 2 + 1)
      exec (.staggerArm o data) s = .next (said { s with pwr :=
        (if v.testBit 0 then { q with pend := true, tslot := p.stagt0 + slot * bitsOf v 47 24 * 1000 } else q) } 0)) ∧
    (p.pend = false ∨ s.dev.wall < p.tslot → exec .staggerSlotReached s = .next s) ∧
    (p.pend = true → p.tslot ≤ s.dev.wall →
      (armedPlace s = none → exec .staggerSlotReached s = .next { s with pwr := { p with pend := false } }) ∧
      (armedPlace s ≠ none → exec .staggerSlotReached s = .next (releaseStart s))) ∧
    (let changed := fun (u t : State) =>
       let now := u.pwr.pin = true ∨ u.pwr.lreq = true
       let level := 100 * min (clampNat u.pwr.level 8000 (cap p.capw)) (cap p.capw)
       (¬ now → ¬ shedding → t = u) ∧
       (¬ now → shedding → t = { u with pwr := { u.pwr with limit := 100 * cap p.capw, gprev := 100 * p.inw } }) ∧
       (now → shedding → t = { u with pwr := { u.pwr with limit := level } }) ∧
       (now → ¬ shedding → t.pwr = { u.pwr with limit := level, veto := false } ∧ ∀ n, (t.pshed n).bduty = 0 ∧
         (t.pshed n).depth = if n ∈ waitingSheds s then (s.pshed n).proposed else (s.pshed n).depth)
     (∃ t, exec .lshedAssert s = .next t ∧ changed { s with pwr := { p with pin := true }, pins := { s.pins with lshedN := false } } t) ∧
     (∃ t, exec .loadShedEnd s = .next t ∧ changed { s with pwr := { p with pin := false }, pins := { s.pins with lshedN := true } } t) ∧
     (∀ (o : Origin) (data : Word64), Origin.auth o = true → ∃ t, exec (.lreq o data) s = .next (said t 0) ∧
       changed { s with pwr := { p with level := data.toNat % 65536, lreq := data.toNat.testBit 16 } } t))

/-- The Floor clock, droops, the sensor sample, thermal limits and hold, the thermal trip, and the loss of a core or a track rail. Where the spec leaves a point open the clause is the model's choice or reading: log 3, log 8, log 26, log 47. -/
def Obligations.HeatAndSupplyTrips : Prop :=
    ∀ (s : State), Canonical s →
    (∀ (o : Origin) (data : Word64),
      (Origin.auth o = false → exec (.thmClkWrite o data) s = .next { s with resp := ⟨2, 0, []⟩ }) ∧
      (Origin.auth o = true → exec (.thmClkWrite o data) s = .next
        { s with thm := { s.thm with mhz := clampNat (data.toNat % 2048) 400 s.dev.maxmhz / 10 * 10 }, resp := ⟨0, 0, []⟩ })) ∧
    (∀ (yard : YardId) (shed : ShedNo),
      let n := pshedOf s (shedKey yard shed)
      let p := s.pshed n
      let thr : Int := s.thm.throttle
      let put := fun (q : PShed) => { s with psheds := gset s.psheds n q }
      let limited := fun (l : Nat) => put { p with tlim := l, bduty := if l < 16 then 0 else p.bduty }
      (∀ deep : Bool, ∃ w, exec (.droopDetect yard shed deep) s = .next
        (let l := if deep then 4 else 8
         let q := { p with dlim := min p.dlim l, stretch := min (p.stretch + w) 4294967295,
                           droops := if l < p.dlim then min (p.droops + 1) 65535 else p.droops }
         { s with psheds := gset s.psheds n q, fresh := s.fresh + 1 })) ∧
      exec (.droopRecovery yard shed) s = .next (put { p with dlim := min 16 (p.dlim + 2) }) ∧
      (∀ up, p.sfail = 15 → exec (.throttleStep yard shed up) s = .next s) ∧
      (p.sfail ≠ 15 →
        (p.tfloor < thr - 3 ∧ p.tloft < 92 → exec (.throttleStep yard shed true) s = .next (limited (min 16 (p.tlim + 1)))) ∧
        (¬ (p.tfloor < thr - 3 ∧ p.tloft < 92) → exec (.throttleStep yard shed true) s = .next s) ∧
        (thr ≤ p.tfloor ∨ 95 ≤ p.tloft → exec (.throttleStep yard shed false) s = .next (limited (max 1 (p.tlim - 1)))) ∧
        (¬ (thr ≤ p.tfloor ∨ 95 ≤ p.tloft) → exec (.throttleStep yard shed false) s = .next s))) ∧
    (∀ (sheds : List ShedReading) (supplies : List (YardId × Int)), (∀ r ∈ sheds, r.floor.length = 4 ∧ r.loft.length = 3) →
      let u := sheds.foldl sampleShed (supplies.foldl sampleSupply s)
      (hottest u sheds = none → exec (.sensorSample sheds supplies) s = .next u) ∧
      (∀ t n, hottest u sheds = some (t, n) →
        (∃ r ∈ sheds, r.shed.val = n ∧ peakOf u r = some t) ∧ (∀ r ∈ sheds, ∀ t', peakOf u r = some t' → t' ≤ t) ∧
        ∃ v, v = setPeak u t n ∧ v.thm = { u.thm with tmax := min 255 t.toNat, tyard := n / 72, tshed := v.thm.tshed } ∧
          exec (.sensorSample sheds supplies) s = .next (
            let w := if 110 ≤ t ∧ v.thm.tripped = false then thermTrip v t else v
            if 115 ≤ t ∧ w.thm.railsOff = false then tripRails w else w))) ∧
    (∀ (r : ShedReading), r.floor.length = 4 → r.loft.length = 3 →
      let p := s.pshed r.shed
      let q := (sampleShed s r).pshed r.shed
      let hot := (s.thm.hold : Int) ≤ q.tfloor ∨ (s.thm.hold : Int) ≤ q.tloft
      let cool := q.tfloor ≤ (s.thm.release : Int) ∧ q.tloft ≤ (s.thm.release : Int)
      (∀ i, q.sfail.testBit i = true ↔ i < 4 ∧ (p.sfail.testBit i = true ∨ badReading (r.floor.getD i none) = true)) ∧
      (∀ i, q.lfail.testBit i = true ↔ i < 3 ∧ (p.lfail.testBit i = true ∨ badReading (r.loft.getD i none) = true)) ∧
      q.tfloor = ((goodReadings q.sfail r.floor).max?).getD p.tfloor ∧
      (∀ t, (goodReadings q.lfail r.loft).max? = some t → q.tloft = t) ∧
      ((goodReadings q.lfail r.loft).max? = none → q.lfail = 7 → q.tloft = q.tfloor) ∧
      (q.hold = true ↔ if logicalShed s r.shed = none then p.hold = true else if p.hold then ¬ cool else hot) ∧
      (logicalShed s r.shed ≠ none → p.hold = true → cool → q.hold = false ∧ q.parked = false ∧ q.waking = (p.waking || p.parked) ∧
        q.tlim = if q.sfail = 15 then 4 else 8)) ∧
    (∀ (y : YardId) (deg : Int),
      let r := s.yard y
      let r' := { r with vrmt := min 255 deg.toNat, hot := if 115 ≤ deg then true else if deg < 110 then false else r.hot }
      let u := { s with yards := gset s.yards y r' }
      sampleSupply s (y, deg) = if 125 ≤ deg ∧ r.core = true then coreTrip u y 2 else u) ∧
    (∀ (t : Int),
      let u := thermTrip s t
      u.thm = { s.thm with tripped := true } ∧ u.sec.lastsec = 0 ∧ u.pwr = { s.pwr with veto := false } ∧
      (∀ n, (u.pshed n).depth = 4 ∧ (u.pshed n).bduty = 0 ∧ (u.pshed n).vetoed = false) ∧ ∀ sid, (u.stall sid).mem.manger = []) ∧
    (let u := tripRails s
     u.dev.st = 6 ∧ u.dev.hcause = 1 ∧ u.thm = { s.thm with railsOff := true } ∧ (∀ y, (u.yard y).core = false) ∧
     (∀ p : Nat, p < 144 → (u.port p).st ≠ 4) ∧
     (s.thm.tripped = true ∧ s.thm.railsOff = false → exec .tripRailOff s = .next u) ∧
     (¬ (s.thm.tripped = true ∧ s.thm.railsOff = false) → exec .tripRailOff s = .next s)) ∧
    (∀ (y : YardId) (t : State), t = coreLost s y → ∃ u, t = releaseStart u ∧
      (u.yard y).core = false ∧ (∀ k < 64, (u.shed (y * 64 + k)).absent = true) ∧ u.sec.lastsec = 0 ∧
      (∀ sid : Nat, sid < 1048576 → u.stall sid = if yardOf sid = y then (s.stall sid).powerless else s.stall sid) ∧
      u.dev = (if s.dev.st = 3 ∨ s.dev.st = 4 then { s.dev with st := 5 } else s.dev)) ∧
    (∀ (y : YardId),
      let r := s.yard y
      let trip := fun (u : State) (c : Nat) => hwAbort (journal (record u 18 (.yard y)) 11 [1, y, c]) 5
      let cored := { s with yards := gset s.yards y { r with coretrip := true, tcause := 1 } }
      let tracked := { s with yards := gset s.yards y { r with tracktrip := true, tcause := 1, track := false } }
      (r.core = false → exec (.coreRailTrip y) s = .next s) ∧
      (r.core = true → exec (.coreRailTrip y) s = .next (coreLost (trip cored 1) y)) ∧
      (r.track = false → exec (.trackRailTrip y) s = .next s) ∧
      (r.track = true → ∃ v, v = trackLost (trip tracked 1) y ∧ (∀ m ∈ v.track, m.crosses y = false) ∧
        (v.yard y).cnt0 = 0 ∧ (v.yard y).cnt1 = 0 ∧ (v.yard y).lwcnt = 0 ∧
        exec (.trackRailTrip y) s = .next (
          if (v.yard y).core then coreLost v y
          else { v with sheds := gmodKeys v.sheds (shedsOfYard y) (fun _ h => { h with absent := true }) })))

/-- A failing unit, what its remap changes, the run and the end of a remap, spares, lunges and probation. Where the spec leaves a point open the clause is the model's choice or reading: log 8, log 27, log 28, log 30, log 47. -/
def Obligations.RemapsAndLunges : Prop :=
    ∀ (s : State), Canonical s →
    (∀ u : FailUnit,
      let out := unitRetired s u = true ∨ yardOut s (failYard u) = true ∨ failKnown s u = true
      let used := unitInUse s u = true
      let t := journal s 1 (unitCode u ++ [if used then 2 else 4, 0])
      (out → exec (.remapFault u) s = .next s) ∧
      (¬ out → (∀ r, s.rm.running = some r → r.touches u = false) →
        exec (.remapFault u) s = .next (if used then { t with rm := { s.rm with faults := s.rm.faults ++ [u] } }
          else { t with grm := { t.grm with retireWait := s.grm.retireWait ++ [u] } })) ∧
      (∀ r, ¬ out → s.rm.running = some r → r.touches u = true →
        exec (.remapFault u) s = .next (setValid { t with rm := ⟨r.units ++ u :: s.rm.faults, r.units.length + 1, none⟩ } r true))) ∧
    (∀ n : Nat,
      let y := n / 72
      let row := n % 72 / 9
      let gone := gget (s.yard y).rcol row
      let moved := ((List.range 8).filter (fun l => decide (n % 9 ≤ l))).flatMap (fun l => stallsOfShed (y * 64 + row * 8 + l))
      (n % 9 = gone → planShed s n = ⟨[], [], []⟩) ∧
      (n % 9 ≠ gone → logicalShed s n = none → planShed s n = ⟨[.shedRow y row (n % 9)], [], []⟩) ∧
      (n % 9 ≠ gone → logicalShed s n ≠ none → gone = 15 → planShed s n = ⟨[.shedRow y row (n % 9)], moved, moved⟩) ∧
      (n % 9 ≠ gone → logicalShed s n ≠ none → gone ≠ 15 → planShed s n = ⟨[.lame y row], [], []⟩)) ∧
    (∀ p : PStallId,
      let n := pshedOfPhys p
      let gone := gget (s.pshed n).rcol (prowOf p)
      let moved := fun (k : Nat) => ((List.range 16).filter (fun l => decide (pcolOf p ≤ l))).map (fun l => sidOf k (prowOf p * 16 + l))
      unitRetired s (.stall p) = false →
        (gone ≠ 31 → planUnit s (.stall p) = planShed s n) ∧
        (gone = 31 → logicalShed s n = none ∨ pcolOf p = 16 → planUnit s (.stall p) = ⟨[.stallRow n (prowOf p) (pcolOf p)], [], []⟩) ∧
        (∀ k, gone = 31 → pcolOf p ≠ 16 → logicalShed s n = some k →
          planUnit s (.stall p) = ⟨[.stallRow n (prowOf p) (pcolOf p)], moved k, stallsOfShed k⟩)) ∧
    (let us := s.rm.faults.take s.rm.batch
     let ready := s.rm.running = none ∧ us ≠ [] ∧ runningPlace s = none ∧ s.sec.openOut = false ∧ s.lunge.running = none ∧
       ∀ u ∈ us, defectCommitted s u = true ∧ (s.yard (failYard u)).cnt0 = 0 ∧ (s.yard (failYard u)).cnt1 = 0 ∧ (s.yard (failYard u)).lwcnt = 0
     let p := planAll s us
     (¬ ready → exec .remapRun s = .next s) ∧
     (ready → ∃ r u t, exec .remapRun s = .next t ∧ t = setValid u r false ∧ u = markReload (p.edits.foldl journalEdit { s with rm := ⟨s.rm.faults.drop s.rm.batch, 1, some r⟩ }) p.stalls ∧
       r.units = us ∧ r.edits = p.edits ∧ r.moved = p.moved ∧ r.stalls = p.stalls ∧ t.rm.running = some r ∧
       (p.stalls ≠ [] → (∀ q, (s.place q).st ≠ 0 → (t.place q).rld = true) ∧ ∀ q, armedPlace s = some q → (t.place q).st = 2) ∧
       (∀ sid ∈ p.stalls, (t.shed (shedOf sid)).valid = false))) ∧
    (s.rm.running = none → exec .remapComplete s = .next s) ∧
    (∀ r, s.rm.running = some r → ∃ t : State,
      exec .remapComplete s = .next (releaseStart (if r.edits.any RemapEdit.isLame then fixHeld (degrade t) else t)) ∧
      t = applyRun { s with rm := { s.rm with running := none } } r ∧ t.rm.running = none ∧
      t.sec.lastsec = (if r.moved = [] then s.sec.lastsec else 0) ∧
      (∀ sid ∈ r.moved, (t.stall sid).mem.manger = []) ∧
      (∀ sid, sid ∉ r.moved → sid ∉ r.lost → t.stall sid = s.stall sid) ∧
      (∀ k : Nat, k < 64 → (t.shed (r.yard * 64 + k)).pscol = pshedOf t (r.yard * 64 + k) % 9)) ∧
    (∀ u : FailUnit,
      let wait := s.grm.retireWait.filter (fun v => decide (v ≠ u))
      let t := { s with grm := { s.grm with retireWait := wait } }
      let es := (planUnit t u).edits
      (s.grm.retireWait.contains u = false ∨ defectCommitted s u = false → exec (.spareRetirement u) s = .next s) ∧
      (s.grm.retireWait.contains u = true → defectCommitted s u = true → unitInUse s u = true →
        exec (.spareRetirement u) s = .next { t with rm := { s.rm with faults := s.rm.faults ++ [u] } }) ∧
      (s.grm.retireWait.contains u = true → defectCommitted s u = true → unitInUse s u = false →
        exec (.spareRetirement u) s = .next (es.foldl applyEdit (es.foldl journalEdit t)))) ∧
    (∀ (o : Origin) (data : Word64),
      let v := data.toNat
      let y := v % 64
      let k := v / 64 % 64
      let scope := v / 4096 % 4
      let n := pshedOf s (y * 64 + k)
      let t := { s with err := { s.err with lyard := y, lshed := k, lscope := scope } }
      let can := scope < 2 ∧ s.rm.running = none ∧ s.lunge.running = none ∧ yardOut s y = false ∧ (scope = 0 → lungeShedOk t (y * 64 + k) = true)
      let begun := { t with lunge := ⟨some (y, k, scope), s.dev.wall⟩, err := t.err.lungeClear 1 }
      (Origin.internal o = false → exec (.lungeStart o data) s = .next { s with resp := ⟨2, 0, []⟩ }) ∧
      (Origin.internal o = true → v.testBit 14 = false → exec (.lungeStart o data) s = .next { t with resp := ⟨0, 0, []⟩ }) ∧
      (Origin.internal o = true → v.testBit 14 = true → ¬ can →
        exec (.lungeStart o data) s = .next { t with err := { t.err with lrefused := true }, resp := ⟨0, 0, []⟩ }) ∧
      (Origin.internal o = true → v.testBit 14 = true → can → scope = 1 → exec (.lungeStart o data) s = .next { begun with resp := ⟨0, 0, []⟩ }) ∧
      (Origin.internal o = true → v.testBit 14 = true → can → scope = 0 → ∃ u, u = enterDepth begun n 4 ∧
        exec (.lungeStart o data) s = .next
          { u with psheds := gset u.psheds n { u.pshed n with waking := false, wakeReq := false }, resp := ⟨0, 0, []⟩ } ∧ (u.pshed n).depth = 4)) ∧
    (∀ r : LungeResult, s.lunge.running = none → exec (.lungeComplete r) s = .next s) ∧
    (∀ (r : LungeResult) (y k scope : Nat), s.lunge.running = some (y, k, scope) →
      let n := pshedOf s (y * 64 + k)
      let bad := if r.failed then lungeUnit s y k scope r else none
      let a := journal { s with lunge := { s.lunge with running := none }, err := s.err.lungeDone scope r } 7
        ([y, k, scope, b2n r.failed] ++ (match bad with | some u => unitCode u | none => []) ++ [s.grm.lungeArb])
      let tested := if scope = 0 then s.grm.prob.filter (fun b => unitIn n b.unit) else []
      let b := tested.foldl (fun s b => if bad = some b.unit then probationFail s b.unit 1 else if r.failed then s else probationPass s b) a
      let c := match bad with | some u => failUnit b u 1 | none => b
      (scope ≠ 0 → exec (.lungeComplete r) s = .next c) ∧
      (scope = 0 → exec (.lungeComplete r) s = .next (measureAging { c with psheds := gset c.psheds n (c.pshed n).beginWake } n r.roKhz r.vminMv)) ∧
      (r.failed = false → a.err = { s.err with lstate := 2, lstall := 0, lwhole := false, spscol := 0, spsrow := 0, spcol := 0, sprow := 0 }) ∧
      (r.failed = true → scope = 0 → a.err = (let stall := if r.whole then 0 else r.stall.val
        { s.err with lstate := 3, lstall := stall, lwhole := r.whole, spscol := 0, spsrow := 0, spcol := 0, sprow := 0 }))) ∧
    (∀ b : Probation,
      let t := s.lunge.start
      let passes := (b.passes ++ [t]).drop (b.passes.length - 7)
      let passed := journal s 2 (unitCode b.unit ++ [1, t])
      ((∃ l, b.passes.getLast? = some l ∧ t < l + 21600000000000) → probationPass s b = s) ∧
      ((∀ l, b.passes.getLast? = some l → l + 21600000000000 ≤ t) → 8 ≤ passes.length ∧ passes.headD 0 + 259200000000000 ≤ t →
        probationPass s b = journal passed 2 (unitCode b.unit ++ [3, s.dev.wall])) ∧
      ((∀ l, b.passes.getLast? = some l → l + 21600000000000 ≤ t) → ¬ (8 ≤ passes.length ∧ passes.headD 0 + 259200000000000 ≤ t) →
        probationPass s b = passed))

/-- Studbook commits, the services of the Groom, operator images, the Groom's start and its lock. Where the spec leaves a point open the clause is the model's choice or reading: log 6, log 29, log 30, log 49. -/
def Obligations.GroomServicesAndImages : Prop :=
    ∀ (s : State), Canonical s →
    let svc := fun (b : Nat) (typ : Nat) (ptr : Nat) => ∃ p hi rest, (s.box b).queue = (p, hi) :: rest ∧ ptr = p.toNat ∧ bitsOf hi.toNat 47 32 = typ ∧
      s.grm.ready = true ∧ s.grm.due = none
    let taken := fun (b : Nat) => { s with mbx := { s.mbx with boxes := gset s.mbx.boxes b { s.box b with queue := (s.box b).queue.drop 1 } } }
    let owes := fun (t : State) (b ptr typ kind : Nat) (body : List Nat) =>
      { (journal t kind body) with grm := { (journal t kind body).grm with due := some ⟨b, ptr, typ, kind, body⟩ } }
    let rd := fun (b a n : Nat) => Memory.readLe (if b = 0 then s.gwin else s.hmem) a n
    let size := fun (b : Nat) => if b = 0 then 0x10000 else 0x20000000
    (∀ (t : State) (b ptr typ : Nat) (ok : Bool), ∃ len bell, bell < 32 ∧ svcAnswer t b ptr typ ok =
      groomPost { t with fresh := t.fresh + 2 } (b + 1) ptr (if ok then len else 0) (if ok then typ else typ ||| 0x8000) bell) ∧
    (∀ internal : Bool, let b := if internal then 8 else 0
      ((∀ ptr, ¬ svc b 0x10 ptr) → exec (.attest internal) s = .next s) ∧ ((∀ ptr, ¬ svc b 0x12 ptr) → exec (.sbread internal) s = .next s) ∧
      (∀ ptr, svc b 0x10 ptr → size b < ptr + 64 + 20256 → exec (.attest internal) s = .next (svcAnswer (taken b) b ptr 0x10 false)) ∧
      (∀ ptr, svc b 0x10 ptr → ptr + 64 + 20256 ≤ size b → exec (.attest internal) s = .next (svcAnswer
        (svcWrite (taken b) b (ptr + 64) (report (taken b) ((List.range 64).map fun i => Memory.read (if b = 0 then s.gwin else s.hmem) (ptr + i)))) b ptr 0x10 true)) ∧
      (∀ ptr, svc b 0x12 ptr →
        let lim := rd b (ptr + 8) 4
        let bytes := wholeRecords lim (s.grm.recs.filter (fun r => decide (rd b ptr 8 ≤ r.seq)))
        (size b < ptr + 16 + lim → exec (.sbread internal) s = .next (svcAnswer (taken b) b ptr 0x12 false)) ∧
        (ptr + 16 + lim ≤ size b → exec (.sbread internal) s = .next (svcAnswer (svcWrite (taken b) b (ptr + 16) bytes) b ptr 0x12 true)))) ∧
    (∀ sigOk : Bool,
      ((∀ ptr, ¬ svc 0 0x11 ptr) → exec (.keyreg sigOk) s = .next s) ∧
      (∀ ptr, svc 0 0x11 ptr →
        let ok := ptr + 0xA40 + 4627 ≤ 0x10000 ∧ keyRecordOk s s.gwin ptr sigOk = true
        (¬ ok → exec (.keyreg sigOk) s = .next (svcAnswer (taken 0) 0 ptr 0x11 false)) ∧
        (ok → exec (.keyreg sigOk) s = .next (owes (taken 0) 0 ptr 0x11 9 [rd 0 (ptr + 4) 1, rd 0 (ptr + 5) 1, rd 0 (ptr + 6) 1 % 2,
          rd 0 (ptr + 6) 1 / 2 % 2, rd 0 (ptr + 16) 4, leNat (Memory.readBytes s.gwin (ptr + 32) 2592)])))) ∧
    (∀ img : ImageCheck,
      let slot := (s.grm.recs.filter (fun r => decide (r.kind = 12))).length % 2
      ((∀ ptr, ¬ svc 8 0x14 ptr) → exec (.lungeset img) s = .next s) ∧
      (∀ ptr, svc 8 0x14 ptr → imageOk s 3 img = false → exec (.lungeset img) s = .next (svcAnswer (taken 8) 8 ptr 0x14 false)) ∧
      (∀ ptr, svc 8 0x14 ptr → imageOk s 3 img = true → exec (.lungeset img) s = .next (owes (taken 8) 8 ptr 0x14 12 [slot, img.digest.toNat, img.arb])) ∧
      (s.dev.hostlerUp = false ∨ imageOk s 4 img = false → exec (.operatorImageLoad img) s = .next s) ∧
      (s.dev.hostlerUp = true → imageOk s 4 img = true →
        let t := { s with grm := { s.grm with moper := sha3 (leBytes 64 s.grm.moper ++ leBytes 64 img.digest.toNat), operRuns := s.grm.operRuns + 1 } }
        exec (.operatorImageLoad img) s = .next (if gget s.grm.pendArb 4 < img.arb then journal t 10 [4, img.arb] else t))) ∧
    ((∀ ptr, ¬ svc 8 0x13 ptr) → exec .suspect s = .next s) ∧
    (∀ ptr, svc 8 0x13 ptr →
      let n := rd 8 ptr 4
      let us := (List.range n).map (fun i => suspectUnit (rd 8 (ptr + 4 + 4 * i) 4))
      let t := (us.filterMap id).foldl suspectOne (taken 8)
      (0x20000000 < ptr + 4 + 4 * n ∨ us.any Option.isNone = true → exec .suspect s = .next (svcAnswer (taken 8) 8 ptr 0x13 false)) ∧
      (ptr + 4 + 4 * n ≤ 0x20000000 → us.any Option.isNone = false →
        (t.grm.queue.length = s.grm.queue.length → exec .suspect s = .next (svcAnswer t 8 ptr 0x13 true)) ∧
        (∀ r, t.grm.queue.length ≠ s.grm.queue.length → t.grm.queue.getLast? = some r →
          exec .suspect s = .next { t with grm := { t.grm with due := some ⟨8, ptr, 0x13, r.kind, r.body⟩ } }))) ∧
    (∀ u : FailUnit,
      let known := s.grm.acquired.contains u = true ∨ s.grm.bad.contains u = true ∨ unitRetired s u = true
      (known → suspectOne s u = s) ∧
      (¬ known → (∃ b ∈ s.grm.prob, b.unit = u) → suspectOne s u = failUnit (journal s 2 (unitCode u ++ [2, s.dev.wall])) u 2) ∧
      (¬ known → (∀ b ∈ s.grm.prob, b.unit ≠ u) → suspectOne s u = journal s 2 (unitCode u ++ [0, s.dev.wall]))) ∧
    (∀ r : CommitResult,
      let a := if 4 ≤ r.failures then studbookRepair { s with grm := { s.grm with badsect := s.grm.badsect + 1 } } else s
      let b := if r.copyBad = true ∧ s.grm.onecopy = false then studbookRepair { a with grm := { a.grm with onecopy := true } } else a
      (s.grm.ready = false → exec (.studbookCommit r) s = .next s) ∧
      (s.grm.ready = true → nextRecord b.grm.budget b.grm.queue = none → exec (.studbookCommit r) s = .next
        { b with grm := { b.grm with throttled := !b.grm.queue.isEmpty, queue := trimDeferred b.grm.queue } }) ∧
      (∀ q rest, s.grm.ready = true → nextRecord b.grm.budget b.grm.queue = some (q, rest) →
        let q' := { q with seq := b.grm.seq + 1, boots := b.grm.boots, wall := b.dev.wall }
        ∃ t, exec (.studbookCommit r) s = .next t ∧ t.grm.recs = b.grm.recs ++ [q'] ∧ t.grm.seq = q'.seq ∧
          t.grm.acquired = (b.grm.effect q').acquired ∧ t.grm.prob = (b.grm.effect q').prob ∧ t.grm.keys = (b.grm.effect q').keys ∧
          t.grm.pendArb = (b.grm.effect q').pendArb)) ∧
    (∀ (hours : Nat) (hourly : Bool),
      let g := s.grm
      let h := { g with poh := g.poh + hours, tcyc := g.tcyc + g.tcNew, tcNew := 0, energy := g.energy + (s.pwr.mj - g.mjSeen), mjSeen := s.pwr.mj,
                        budget := min 67108864 (g.budget + 419430) }
      (hourly = false → exec (.lifeUpdate hours hourly) s = .next { s with grm := h }) ∧
      (hourly = true → exec (.lifeUpdate hours hourly) s = .next
        (journal { s with grm := { h with wrkib := 0 } } 5 [h.poh, h.tcyc, h.energy / 3600000000]))) ∧
    (∀ (o : Origin) (data : Word64),
      (Origin.auth o = false → exec (.groomLock o data) s = .next { s with resp := ⟨2, 0, []⟩ }) ∧
      (Origin.auth o = true → exec (.groomLock o data) s = .next
        { s with grm := { s.grm with lock := s.grm.lock || data.toNat.testBit 0 }, resp := ⟨0, 0, []⟩ })) ∧
    (∀ g : GroomInputs,
      let can := s.dev.st = 1 ∧ s.grm.ready = false ∧ s.grm.fwerr = false ∧ g.selfCheck = true
      let u := blowArb (readVariant { s with pins := { s.pins with pwrGood := true } })
      let v := { u with grm := { u.grm with slotArb0 := g.slot0, slotArb1 := g.slot1 } }
      (¬ can → exec (.groomStart g) s = .next s) ∧
      (can → pickSlot v g.slot0 g.slot1 = none → exec (.groomStart g) s = .next { v with grm := { v.grm with fwerr := true } }) ∧
      (∀ b arb, can → pickSlot v g.slot0 g.slot1 = some (b, arb) →
        arbLevel v 1 ≤ arb ∧ (if b then g.slot1 else g.slot0) = some arb ∧
        exec (.groomStart g) s = .next (startFirmware g { v with grm := { v.grm with fwslot := b, garb := arb, mgroom := g.mgroom.toNat } })) ∧
      (g.copyA = false → g.copyB = false → startFirmware g s = { s with dev := { s.dev with st := 6, hcause := 3 } }) ∧
      (g.copyA = true ∨ g.copyB = true → ∃ t, startFirmware g s = t ∧ t.grm.ready = true ∧ (t.grm.idok = true ↔ g.keyMatch = true ∧ g.chainOk = true) ∧
        t.grm.boots = s.grm.boots + 1 ∧ (t.grm.idok = false → t.dev.st = 6 ∧ t.dev.hcause = 2))) ∧
    (∀ (last : Bool) (img : Option ImageCheck),
      let wants := s.dev.st = 1 ∧ s.grm.fwerr = true
      ((s.box 0).queue = [] ∨ ¬ wants → exec (.firmwareRecoveryImage last img) s = .next s) ∧
      (∀ p hi rest, (s.box 0).queue = (p, hi) :: rest → wants →
        let buf := s.grm.fwBuf ++ Memory.readBytes s.gwin p.toNat (bitsOf hi.toNat 31 0)
        let arb := match img with | some i => if imageOk s 1 i then some i.arb else none | none => none
        let older := s.grm.slotArb0.getD 0 < s.grm.slotArb1.getD 0
        (last = false → exec (.firmwareRecoveryImage last img) s = .next { (taken 0) with grm := { s.grm with fwBuf := buf } }) ∧
        (last = true → older → exec (.firmwareRecoveryImage last img) s = .next
          { (taken 0) with grm := { s.grm with fwerr := false, fwBuf := [], slotArb0 := arb } }) ∧
        (last = true → ¬ older → exec (.firmwareRecoveryImage last img) s = .next
          { (taken 0) with grm := { s.grm with fwerr := false, fwBuf := [], slotArb1 := arb } })))

/-- What starts a bring-up step, and what its end leaves. Where the spec leaves a point open the clause is the model's choice or reading: log 8, log 47, log 49. -/
def Obligations.BringUpSteps : Prop :=
    ∀ s : State, Canonical s →
    let started := fun (k : Nat) (auto hsrc : Bool) => { s.dev with step := k, auto := auto, hsrc := hsrc, runStep := k, busy := true, phase := 0, st := 2 }
    let begun := fun (t : State) (k : Nat) => { t with dev := { t.dev with runStep := k, busy := true, phase := 0, st := 2 } }
    let failed := fun (t : State) (err : Nat) => { t with dev := { t.dev with bootErr := err, busy := false, runStep := 0, phase := 0 } }
    let trains := fun (t : State) => { t with ports := gmodKeys t.ports (List.range 144) (fun _ q => if q.en = true ∧ q.host = false ∧ q.st = 1 then q.toTrain else q), dev := { t.dev with phase := 2 } }
    let ends := fun (r : StepResult) => exec (.bootStepComplete r) s
    let nextOf := fun (k : Nat) => s.dev.busy = true ∧ s.dev.runStep = k
    (∀ (o : Origin) (auto hsrc : Bool) (k : Nat) (c : Instr), (k, c) ∈ ([(1, .track o auto hsrc), (2, .core o auto hsrc), (3, .clocks o auto hsrc),
        (4, .bist o auto hsrc), (5, .remap o auto hsrc), (6, .loft o auto hsrc), (7, .ports o auto hsrc), (8, .hostler o auto hsrc),
        (9, .ready o auto hsrc)] : List (Nat × Instr)) →
      let ok := s.dev.busy = false ∧ k = s.dev.done + 1 ∧ (s.dev.st = 1 ∨ s.dev.st = 2) ∧ s.grm.idok = true ∧ s.grm.ready = true
      (Origin.auth o = false → exec c s = .next { s with resp := ⟨2, 0, []⟩ }) ∧
      (Origin.auth o = true → ¬ ok → exec c s = .next { s with dev := { s.dev with bootErr := 1 }, resp := ⟨0, 0, []⟩ }) ∧
      (Origin.auth o = true → ok → k ≠ 7 → exec c s = .next { s with dev := started k auto hsrc, resp := ⟨0, 0, []⟩ }) ∧
      (Origin.auth o = true → ok → k = 7 → exec c s = .next { (beginStep { s with dev := started k auto hsrc } 7) with resp := ⟨0, 0, []⟩ })) ∧
    (∀ k, k ≠ 7 → beginStep s k = begun s k) ∧
    ((∀ p : Nat, p < 144 → ¬ ((s.port p).host = true ∧ (s.port p).en = true)) → beginStep s 7 = trains (begun s 7)) ∧
    (∀ p : Nat, p < 144 → (s.port p).host = true → (s.port p).en = true → (∀ j : Nat, j < p → ¬ ((s.port j).host = true ∧ (s.port j).en = true)) →
      (beginStep s 7).dev = { s.dev with runStep := 7, busy := true, phase := 1, st := 2 } ∧
      (beginStep s 7).port p = (if (s.port p).st = 1 then (s.port p).toTrain else s.port p) ∧
      (∀ j, j ≠ p → (beginStep s 7).port j = s.port j)) ∧
    (∀ k, let t := { s with dev := { s.dev with done := k, busy := false, runStep := 0, phase := 0 } }
      (s.dev.auto = false ∨ 9 ≤ k → doneStep s k = t) ∧ (s.dev.auto = true → k < 9 → doneStep s k = beginStep t (k + 1))) ∧
    (∀ r, s.dev.busy = false → ends r = .next s) ∧
    (∀ r, nextOf 1 → r.trips = [] → ∃ t, ends r = .next (doneStep t 1) ∧ (∀ y : Nat, y < 64 → t.yard y = { s.yard y with track := true }) ∧ t.dev = s.dev) ∧
    (∀ r, nextOf 1 → ∃ t, (∀ y : Nat, y < 64 → t.yard y = { s.yard y with track := true }) ∧
      ends r = .next (doneStep (r.trips.foldl (fun s (y : YardId) => trackTrip s y) t) 1)) ∧
    (∀ r, nextOf 2 → loadShed s = true → ends r = .next s) ∧
    (∀ r, nextOf 2 → loadShed s = false → ∃ t, (∀ y : Nat, y < 64 → t.yard y = (if (s.yard y).track then { s.yard y with core := true } else s.yard y)) ∧
      ends r = .next (doneStep (r.trips.foldl (fun s (y : YardId) => if (s.yard y).core then coreTrip s y 1 else s) t) 2)) ∧
    (∀ r, nextOf 3 → ∃ t, ends r = .next (doneStep t 3) ∧ t.dev = s.dev ∧
      (∀ n : Nat, n < 4608 → t.pshed n = { s.pshed n with depth := (if (s.yard (n / 72)).core then 1 else 4), live := (s.yard (n / 72)).core })) ∧
    (∀ r, nextOf 4 → ends r = .next (doneStep (finishBist s r) 4)) ∧
    (∀ u : FailUnit, (s.grm.bad.contains u = true → testFail s u = s) ∧
      (s.grm.bad.contains u = false → u ∈ (testFail s u).grm.bad ∧ (∀ v ∈ s.grm.bad, v ∈ (testFail s u).grm.bad))) ∧
    (∀ r, nextOf 5 → ∃ t, ends r = .next (doneStep t 5) ∧ t.routeA = ⟨deadYards t, gconst none⟩ ∧ t.routeB = t.routeA ∧ t.sec.inj = false ∧ t.sec.drained = true ∧
      (∀ y : Nat, y < 64 → (t.yard y).valid = true ∧ ((t.yard y).lame = true ↔ (t.yard y).exh ≠ 0) ∧ ((s.yard y).core = false → (t.yard y).lame = true)) ∧
      (∀ k : Nat, k < 4096 → (t.shed k).valid = true ∧ ((t.shed k).absent = true ↔ (t.yard (k / 64)).lame = true ∨ (t.yard (k / 64)).core = false))) ∧
    (∀ r, nextOf 6 → ∃ t, ends r = .next (doneStep t 6) ∧
      (∀ k, (t.stall k).mem.loftA = [] ∧ (t.stall k).mem.loftB = [] ∧ (t.stall k).mem.loftC = [] ∧ ∀ j, gget (t.stall k).mem.brands j = 0)) ∧
    (∀ r, nextOf 7 → s.dev.phase = 1 →
      ((hostPort s).isSome = true → ends r = .next (trains s)) ∧
      (hostPort s = none → r.timedOut = false → ends r = .next s) ∧ (hostPort s = none → r.timedOut = true → ends r = .next (failed s 4))) ∧
    (∀ r, nextOf 7 → s.dev.phase ≠ 1 →
      ((∃ p : Nat, p < 144 ∧ ((s.port p).st = 2 ∨ (s.port p).st = 3)) → ends r = .next s) ∧
      ((∀ p : Nat, p < 144 → (s.port p).st ≠ 2 ∧ (s.port p).st ≠ 3) → ∃ t, ends r = .next (doneStep t 7) ∧ t.ports = s.ports ∧
        t.dev = { s.dev with portsdown := ((List.range 144).filter (fun p => (s.port p).en && decide ((s.port p).st ≠ 4))).length })) ∧
    (∀ r, nextOf 8 → s.dev.phase = 0 →
      (r.image = none → ends r = .next s) ∧
      (∀ i, r.image = some i → imageOk s 2 i = false → ends r = .next (failed s 5)) ∧
      (∀ i, r.image = some i → imageOk s 2 i = true → ∃ t, ends r = .next t ∧ t.grm.harb = i.arb ∧ t.grm.mhostler = i.digest.toNat ∧ t.dev.hostlerUp = true ∧
        t.dev.phase = 1 ∧ (t.box 9).rxrdy = false)) ∧
    (∀ r, nextOf 8 → s.dev.phase ≠ 0 →
      ((s.box 9).rxrdy = true → ends r = .next (doneStep s 8)) ∧
      ((s.box 9).rxrdy = false → r.timedOut = true → ends r = .next (failed s 6)) ∧
      ((s.box 9).rxrdy = false → r.timedOut = false → ends r = .next s)) ∧
    (∀ r, nextOf 9 →
      let broken := (∃ y : Nat, y < 64 ∧ (s.yard y).lame = true) ∨ (∃ k : Nat, k < 4096 ∧ (s.shed k).absent = true)
      let out := fun (st : Nat) => { s with dev := { s.dev with st := st, btime := r.elapsedMs % 2 ^ 32, done := 9, busy := false, runStep := 0, phase := 0 }, grm := { s.grm with lock := true } }
      (broken → ends r = .next (out 5)) ∧ (¬ broken → ends r = .next (out 3)))

/-- Cold and warm resets, power, the reset pin, the I3C target and the TAP. Where the spec leaves a point open the clause is the model's choice or reading: log 32, log 34, log 48. -/
def Obligations.ResetsPinsAndManagementPorts : Prop :=
    ∀ s : State, Canonical s →
    let tapOnly := fun (t : State) => { t with tap := s.tap, fresh := s.fresh } = s
    (∀ o : Origin,
      (Origin.auth o = false → exec (.cold o) s = .next { s with resp := ⟨2, 0, []⟩ } ∧ exec (.warm o) s = .next { s with resp := ⟨2, 0, []⟩ }) ∧
      (Origin.auth o = true → exec (.cold o) s = .next { s.cold with resp := ⟨0, 0, []⟩ }) ∧
      (Origin.auth o = true → s.dev.st ≠ 3 → s.dev.st ≠ 4 → s.dev.st ≠ 5 →
        exec (.warm o) s = .next { s with dev := { s.dev with resetRefused := true }, resp := ⟨0, 0, []⟩ }) ∧
      (Origin.auth o = true → s.dev.st = 3 ∨ s.dev.st = 4 ∨ s.dev.st = 5 →
        (activePlace s = none → exec (.warm o) s = .next { (finishWarm s) with resp := ⟨0, 0, []⟩ }) ∧
        (runningPlace s = none → (activePlace s).isSome = true →
          exec (.warm o) s = .next { s with dev := { s.dev with warmBusy := true }, resp := ⟨0, 0, []⟩ }) ∧
        (∀ p, runningPlace s = some p →
          let a := abortNow s p 1
          (activePlace a = none → exec (.warm o) s = .next { (finishWarm a) with resp := ⟨0, 0, []⟩ }) ∧
          ((activePlace a).isSome = true → exec (.warm o) s = .next { a with dev := { a.dev with warmBusy := true }, resp := ⟨0, 0, []⟩ })))) ∧
    (let c := s.cold;
      c.dev = State.reset.dev ∧ c.sec = State.reset.sec ∧ c.ports = State.reset.ports ∧ c.yards = State.reset.yards ∧ c.sheds = State.reset.sheds ∧
      c.psheds = State.reset.psheds ∧ c.stalls = State.reset.stalls ∧ c.mbx = State.reset.mbx ∧ c.mars = State.reset.mars ∧ c.err = State.reset.err ∧
      c.thm = State.reset.thm ∧ c.i3c = State.reset.i3c ∧ c.track = [] ∧ c.dev.st = 1 ∧ c.dev.done = 0 ∧ c.dev.wall = 0 ∧ c.grm.ready = false ∧ c.grm.lock = false ∧
      c.pins.pwrGood = false ∧ c.fuses = s.fuses ∧ c.hmem = s.hmem ∧ c.grm.recs = s.grm.recs ∧ c.grm.seq = s.grm.seq ∧ c.grm.keys = s.grm.keys ∧
      c.grm.pendArb = s.grm.pendArb ∧ c.pins.strap = s.pins.strap ∧ c.pwr.feeda = s.pwr.feeda ∧ c.pwr.feedb = s.pwr.feedb ∧ c.pending = s.pending) ∧
    (let w := finishWarm s;
      w.dev = { s.dev with st := 2, done := 7, busy := true, runStep := 8, auto := true, phase := 0, hostlerUp := false, warmBusy := false } ∧
      w.sec.places = SecBlock.atReset.places ∧ w.sec.lastsec = 0 ∧ w.sec.valid = false ∧ w.sec.inj = s.sec.inj ∧ w.routeA = s.routeA ∧ w.routeB = s.routeB ∧
      w.hmem = s.hmem ∧ w.gwin = s.gwin ∧ w.grm = s.grm ∧ w.thm = s.thm ∧ w.fuses = s.fuses ∧ w.mars.verA = s.mars.verA ∧ w.mars.verB = s.mars.verB ∧
      w.pwr.capw = s.pwr.capw ∧ w.pwr.up = s.pwr.up ∧ w.pwr.down = s.pwr.down ∧ w.pwr.learn = s.pwr.learn ∧ w.pwr.nextev = 0 ∧ w.pwr.nextpw = 0 ∧
      w.err = { s.err with secrec := 0, lastrec := 0 } ∧
      (∀ y, (w.yard y).core = (s.yard y).core ∧ (w.yard y).track = (s.yard y).track ∧ (w.yard y).lame = (s.yard y).lame ∧ (w.yard y).rcol = (s.yard y).rcol) ∧
      (∀ k, (w.shed k).absent = (s.shed k).absent ∧ (w.shed k).pscol = (s.shed k).pscol) ∧
      (∀ n, (w.pshed n).rcol = (s.pshed n).rcol ∧ (w.pshed n).live = (s.pshed n).live ∧ ((s.pshed n).live = true → (w.pshed n).depth = 4)) ∧
      (∀ k, (w.stall k).mem.loftA = (s.stall k).mem.loftA ∧ (w.stall k).mem.loftB = (s.stall k).mem.loftB ∧ (w.stall k).mem.brands = (s.stall k).mem.brands ∧
        (w.stall k).mem.manger = [] ∧ (Memory.wf (s.stall k).mem.loftC = true → ∀ p : Nat, p < 7 → (Memory.read (w.stall k).mem.loftC (0x1FC4A + p * 0x80)).getLsbD 0 = false)) ∧
      (∀ p, (w.port p).st = (s.port p).st ∧ (w.port p).sess = (s.port p).sess ∧ ∀ x, gget (w.port p).ctxs x = StreamCtx.atReset) ∧
      (∀ b, gget w.mars.buckets b = Bucket.atReset) ∧ (∀ r, gget w.mbx.rings r = Ring.atReset)) ∧
    ((s.dev.st = 0 → ∀ low, exec (.resetPin low) s = .next s) ∧
      (s.dev.st ≠ 0 → exec (.resetPin .long) s = .next s.cold ∧ exec (.resetPin .short) s = .next s ∧
        (exec (.resetPin .between) s = .next { s with fresh := s.fresh + 1 } ∨ exec (.resetPin .between) s = .next { s with fresh := s.fresh + 1 }.cold))) ∧
    (∀ feedB present rideThrough : Bool,
      let a := if feedB then s.pwr.feeda else present
      let b := if feedB then present else s.pwr.feedb
      let t := { s with pwr := { s.pwr with feeda := a, feedb := b } }
      (a = true ∨ b = true ∨ rideThrough = true ∨ s.dev.st = 0 → exec (.feedChange feedB present rideThrough) s = .next t) ∧
      (a = false → b = false → rideThrough = false → s.dev.st ≠ 0 → exec (.feedChange feedB present rideThrough) s = .next t.off)) ∧
    (s.off.dev = { State.reset.dev with st := 0 } ∧ s.off.hmem = [] ∧ s.off.fuses = s.fuses ∧ s.off.grm = s.cold.grm ∧ s.off.pwr.feeda = false ∧
      s.off.pwr.feedb = false ∧ s.off.pins = { s.pins with pwrGood := false } ∧ s.off.stalls = State.reset.stalls) ∧
    (∀ feedB : Bool,
      let t := { s with pwr := { s.pwr with feeda := s.pwr.feeda || !feedB, feedb := s.pwr.feedb || feedB } }
      (s.dev.st ≠ 0 → exec (.powerOn feedB) s = .next s) ∧ (s.dev.st = 0 → s.pins.resetN = true → exec (.powerOn feedB) s = .next t.cold) ∧
      (s.dev.st = 0 → s.pins.resetN = false → exec (.powerOn feedB) s = .next t)) ∧
    (s.dev.st = 0 → (∀ op, exec (.i3cTransaction op) s = .next s) ∧ ∀ c, exec (.i3cCcc c) s = .next s) ∧
    (s.dev.st ≠ 0 →
      exec (.i3cTransaction .privateRead) s = .next { s with i3c := { s.i3c with unread := none, out := s.i3c.unread.getD [] } } ∧
      (∀ bytes, i3cTrans bytes = none → exec (.i3cTransaction (.privateWrite bytes)) s = .next { s with i3c := { s.i3c with unread := some [4] } }) ∧
      (∀ bytes t, i3cTrans bytes = some t →
        let u := transact .i3c t s
        let data := if t.op = 0 then leBytes 8 u.resp.data.toNat else if t.op = 2 then padTo t.wlen u.resp.bytes else []
        exec (.i3cTransaction (.privateWrite bytes)) s = .next { u with i3c := { u.i3c with unread := some (leBytes 1 u.resp.status ++ data) } }) ∧
      (∀ a : BitVec 7, ∃ t, (exec (.i3cCcc (.setdasa a)) s = .next t ∧ exec (.i3cCcc (.entdaa a)) s = .next t) ∧
        t = { s with fresh := s.fresh + 1, i3c := { s.i3c with addr := some (s.i3c.addr.getD a) } }) ∧
      exec (.i3cCcc .rstdaa) s = .next { s with fresh := s.fresh + 1, i3c := { s.i3c with addr := none } } ∧
      exec (.i3cCcc .enec) s = .next { s with fresh := s.fresh + 1, i3c := { s.i3c with ibiEn := true } } ∧
      exec (.i3cCcc .disec) s = .next { s with fresh := s.fresh + 1, i3c := { s.i3c with ibiEn := false } } ∧
      (∀ c ∈ ([(.getpid, 6), (.getbcr, 1), (.getdcr, 1), (.getstatus, 2)] : List (I3cCcc × Nat)), ∃ out : List Byte, out.length = c.2 ∧
        exec (.i3cCcc c.1) s = .next { s with fresh := s.fresh + 1, i3c := { s.i3c with out := out } })) ∧
    (∀ bytes, ∀ t, i3cTrans bytes = some t ↔
      (let op := leAt bytes 0 1; let wlen := leAt bytes 6 2;
       (op = 0 ∧ bytes.length = 6 ∨ op = 1 ∧ bytes.length = 14 ∨ op = 2 ∧ bytes.length = 8 ∧ 1 ≤ wlen ∧ wlen ≤ 224 ∨
         op = 3 ∧ bytes.length = 8 + wlen ∧ 1 ≤ wlen ∧ wlen ≤ 224) ∧
       t = { op := op, addr := leAt bytes 1 5, data := leAt bytes 6 8, wlen := wlen, wdata := bytes.drop 8 })) ∧
    (∀ bits : List Bool,
      (s.dev.st ≠ 1 → exec (.extest bits) s = exec .bypass s) ∧
      (∃ t, exec (.extest bits) s = .next t ∧ tapOnly t ∧ (t.tap.driving = true ↔ s.dev.st = 1) ∧
        (s.dev.st = 1 → t.tap.ir = 3 ∧ t.tap.bsr = (bits ++ List.replicate 10 false).take 10)) ∧
      (∃ t, exec (.samplePreload bits) s = .next t ∧ tapOnly t ∧ t.tap.driving = false ∧ t.tap.ir = 2 ∧
        t.tap.bsr = (bits ++ List.replicate 10 false).take 10)) ∧
    exec .idcode s = .next { s with tap := { s.tap with ir := 1, driving := false, out := 0x0C740A5B } } ∧
    exec .bypass s = .next { s with tap := { s.tap with ir := 0, driving := false, out := 0 } } ∧
    exec .tapReset s = .next { s with tap := { s.tap with ir := 1, driving := false } }
end

