-- ==== Sys2Proof/Laws/Maps.lean ====
section
/-! SUPPORT. The laws of the sparse map and of byte memory: a read after a write, a write leaves every other key alone, the last
write to a key wins, and every operation keeps the canonical form. -/

namespace Sys2Proof.Machine

variable {α β : Type}

/-! Cells. -/

theorem lookupKey_insertKey (k j : Nat) (v : α) (l : List (Nat × α)) :
    lookupKey j (insertKey k v l) = if j = k then some v else lookupKey j l := by
  induction l with
  | nil => simp [insertKey, lookupKey, eq_comm]
  | cons c r ih =>
    obtain ⟨i, w⟩ := c
    simp only [insertKey]
    split
    · simp [lookupKey, eq_comm]
    · split
      · subst_vars; by_cases h : j = i <;> simp [lookupKey, h, eq_comm]
      · rename_i h1 h2
        by_cases h : i = j
        · subst h; simp [lookupKey, h2]
        · simp [lookupKey, h, ih]

theorem keysRise_le {lo hi : Nat} {l : List (Nat × α)} (h : keysRise hi l = true) (hl : lo ≤ hi) : keysRise lo l = true := by
  cases l with
  | nil => rfl
  | cons c r => obtain ⟨k, v⟩ := c; simp [keysRise] at h ⊢; exact ⟨by omega, h.2⟩

theorem lookupKey_below {lo k : Nat} {l : List (Nat × α)} (h : keysRise lo l = true) (hk : k < lo) : lookupKey k l = none := by
  induction l generalizing lo with
  | nil => rfl
  | cons c r ih =>
    obtain ⟨j, v⟩ := c
    simp [keysRise] at h
    have : j ≠ k := by omega
    simp [lookupKey, this]; exact ih h.2 (by omega)

theorem lookupKey_eraseKey {lo : Nat} (k j : Nat) {l : List (Nat × α)} (h : keysRise lo l = true) :
    lookupKey j (eraseKey k l) = if j = k then none else lookupKey j l := by
  induction l generalizing lo with
  | nil => simp [eraseKey, lookupKey]
  | cons c r ih =>
    obtain ⟨i, v⟩ := c
    simp [keysRise] at h
    by_cases hi : i = k
    · subst hi
      by_cases hj : j = i
      · subst hj; simp [eraseKey]; exact lookupKey_below h.2 (by omega)
      · have : ¬ i = j := fun e => hj e.symm
        simp [eraseKey, lookupKey, hj, this]
    · by_cases hj : i = j
      · subst hj; simp [eraseKey, lookupKey, hi]
      · simp [eraseKey, lookupKey, hi, hj, ih h.2]

theorem keysRise_insertKey {lo k : Nat} (v : α) {l : List (Nat × α)} (h : keysRise lo l = true) (hk : lo ≤ k) :
    keysRise lo (insertKey k v l) = true := by
  induction l generalizing lo with
  | nil => simp [insertKey, keysRise, hk]
  | cons c r ih =>
    obtain ⟨j, w⟩ := c
    simp [keysRise] at h
    simp only [insertKey]
    split
    · simp [keysRise, hk]; exact ⟨by omega, h.2⟩
    · split
      · subst_vars; simp [keysRise, h.1, h.2]
      · simp [keysRise, h.1]; exact ih h.2 (by omega)

theorem keysRise_eraseKey {lo k : Nat} {l : List (Nat × α)} (h : keysRise lo l = true) : keysRise lo (eraseKey k l) = true := by
  induction l generalizing lo with
  | nil => rfl
  | cons c r ih =>
    obtain ⟨j, w⟩ := c
    simp [keysRise] at h
    simp only [eraseKey]
    split
    · exact keysRise_le h.2 (by omega)
    · simp [keysRise, h.1, ih h.2]

theorem mem_insertKey {k : Nat} {v : α} {c : Nat × α} {l : List (Nat × α)} (h : c ∈ insertKey k v l) : c = (k, v) ∨ c ∈ l := by
  induction l with
  | nil => simp [insertKey] at h; exact .inl h
  | cons d r ih =>
    obtain ⟨j, w⟩ := d
    simp only [insertKey] at h
    split at h
    · simpa using h
    · split at h
      · simp at h; rcases h with h | h <;> simp [h]
      · simp at h; rcases h with h | h
        · simp [h]
        · rcases ih h with h | h <;> simp [h]

theorem mem_eraseKey {k : Nat} {c : Nat × α} {l : List (Nat × α)} (h : c ∈ eraseKey k l) : c ∈ l := by
  induction l with
  | nil => simp [eraseKey] at h
  | cons d r ih =>
    obtain ⟨j, w⟩ := d
    simp only [eraseKey] at h
    split at h
    · simp [h]
    · simp at h; rcases h with h | h <;> simp [h]
      exact .inr (ih h)

/-! Maps. -/

@[simp] theorem gget_gconst (d : α) (k : Nat) : gget (gconst d) k = d := rfl

theorem gwf_rise [DecidableEq α] {m : GMap α} (h : gwf m = true) : keysRise 0 m.cells = true := by simp [gwf] at h; exact h.1

/-- A read after a write, in a map in canonical form. -/
theorem gget_gset [DecidableEq α] {m : GMap α} (h : gwf m = true) (k j : Nat) (v : α) :
    gget (gset m k v) j = if j = k then v else gget m j := by
  unfold gset gget
  split
  · rename_i hv
    simp only [lookupKey_eraseKey k j (gwf_rise h)]
    by_cases hj : j = k <;> simp [hj, hv]
  · simp only [lookupKey_insertKey]
    by_cases hj : j = k <;> simp [hj]

/-- A read of the key just written, in a map in canonical form. -/
theorem gget_gset_self [DecidableEq α] {m : GMap α} (h : gwf m = true) (k : Nat) (v : α) : gget (gset m k v) k = v := by
  simp [gget_gset h]

/-- A write leaves every other key alone, whatever the map. -/
theorem gget_gset_ne [DecidableEq α] (m : GMap α) {k j : Nat} (v : α) (hj : j ≠ k) : gget (gset m k v) j = gget m j := by
  have erase : ∀ l : List (Nat × α), lookupKey j (eraseKey k l) = lookupKey j l := by
    intro l
    induction l with
    | nil => rfl
    | cons c r ih =>
      obtain ⟨i, w⟩ := c
      simp only [eraseKey]
      split
      · rename_i h; subst h
        have : ¬ i = j := fun e => hj e.symm
        simp [lookupKey, this]
      · simp [lookupKey, ih]
  unfold gset gget
  split
  · simp [erase]
  · simp [lookupKey_insertKey, hj]

@[simp] theorem gset_dflt [DecidableEq α] (m : GMap α) (k : Nat) (v : α) : (gset m k v).dflt = m.dflt := by
  unfold gset; split <;> rfl

@[simp] theorem gmod_dflt [DecidableEq α] (m : GMap α) (k : Nat) (f : α → α) : (gmod m k f).dflt = m.dflt := gset_dflt ..

theorem gget_gmod [DecidableEq α] {m : GMap α} (h : gwf m = true) (k j : Nat) (f : α → α) :
    gget (gmod m k f) j = if j = k then f (gget m k) else gget m j := gget_gset h ..

theorem gget_gmod_ne [DecidableEq α] (m : GMap α) {k j : Nat} (f : α → α) (hj : j ≠ k) : gget (gmod m k f) j = gget m j :=
  gget_gset_ne m _ hj

/-- A write keeps the canonical form. -/
theorem gwf_gset [DecidableEq α] {m : GMap α} (h : gwf m = true) (k : Nat) (v : α) : gwf (gset m k v) = true := by
  unfold gset
  simp only [gwf, Bool.and_eq_true, List.all_eq_true, decide_eq_true_eq] at h ⊢
  split
  · exact ⟨keysRise_eraseKey h.1, fun c hc => h.2 c (mem_eraseKey hc)⟩
  · rename_i hv
    refine ⟨keysRise_insertKey v h.1 (Nat.zero_le _), fun c hc => ?_⟩
    rcases mem_insertKey hc with rfl | hc
    · exact hv
    · exact h.2 c hc

theorem gwf_gmod [DecidableEq α] {m : GMap α} (h : gwf m = true) (k : Nat) (f : α → α) : gwf (gmod m k f) = true := gwf_gset h ..

theorem gwf_gconst [DecidableEq α] (d : α) : gwf (gconst d) = true := rfl

/-- The last write to a key wins. -/
theorem insertKey_insertKey (k : Nat) (v w : α) (l : List (Nat × α)) : insertKey k w (insertKey k v l) = insertKey k w l := by
  induction l with
  | nil => simp [insertKey]
  | cons c r ih =>
    obtain ⟨j, x⟩ := c
    by_cases h1 : k < j
    · simp [insertKey, h1]
    · by_cases h2 : j = k
      · subst h2; simp [insertKey]
      · simp [insertKey, h1, h2, ih]

theorem eraseKey_insertKey {lo : Nat} (k : Nat) (v : α) {l : List (Nat × α)} (h : keysRise lo l = true) :
    eraseKey k (insertKey k v l) = eraseKey k l := by
  induction l generalizing lo with
  | nil => simp [insertKey, eraseKey]
  | cons c r ih =>
    obtain ⟨j, x⟩ := c
    simp [keysRise] at h
    by_cases h1 : k < j
    · have hj : j ≠ k := by omega
      have hr : eraseKey k r = r := by
        have : ∀ {lo : Nat} {l : List (Nat × α)}, keysRise lo l = true → k < lo → eraseKey k l = l := by
          intro lo l
          induction l generalizing lo with
          | nil => intros; rfl
          | cons d q ihq =>
            obtain ⟨i, y⟩ := d
            intro hq hk
            simp [keysRise] at hq
            have : i ≠ k := by omega
            simp [eraseKey, this, ihq hq.2 (by omega)]
        exact this h.2 (by omega)
      simp [insertKey, eraseKey, h1, hj, hr]
    · by_cases h2 : j = k
      · subst h2; simp [insertKey, eraseKey]
      · simp [insertKey, eraseKey, h1, h2, ih h.2]

theorem insertKey_eraseKey {lo : Nat} (k : Nat) (v : α) {l : List (Nat × α)} (h : keysRise lo l = true) :
    insertKey k v (eraseKey k l) = insertKey k v l := by
  induction l generalizing lo with
  | nil => simp [eraseKey]
  | cons c r ih =>
    obtain ⟨j, x⟩ := c
    simp [keysRise] at h
    by_cases h2 : j = k
    · subst h2
      cases r with
      | nil => simp [eraseKey, insertKey]
      | cons d q =>
        obtain ⟨i, y⟩ := d
        simp [keysRise] at h
        have : j < i := by omega
        simp [eraseKey, insertKey, this]
    · by_cases h1 : k < j
      · simp [eraseKey, insertKey, h1, h2]
        have : ∀ {lo : Nat} {l : List (Nat × α)}, keysRise lo l = true → k < lo → eraseKey k l = l := by
          intro lo l
          induction l generalizing lo with
          | nil => intros; rfl
          | cons d q ihq =>
            obtain ⟨i, y⟩ := d
            intro hq hk
            simp [keysRise] at hq
            have : i ≠ k := by omega
            simp [eraseKey, this, ihq hq.2 (by omega)]
        exact this h.2 (by omega)
      · simp [eraseKey, insertKey, h1, h2, ih h.2]

theorem eraseKey_eraseKey {lo : Nat} (k : Nat) {l : List (Nat × α)} (h : keysRise lo l = true) :
    eraseKey k (eraseKey k l) = eraseKey k l := by
  have : ∀ {lo : Nat} {l : List (Nat × α)}, keysRise lo l = true → k < lo → eraseKey k l = l := by
    intro lo l
    induction l generalizing lo with
    | nil => intros; rfl
    | cons d q ihq =>
      obtain ⟨i, y⟩ := d
      intro hq hk
      simp [keysRise] at hq
      have : i ≠ k := by omega
      simp [eraseKey, this, ihq hq.2 (by omega)]
  induction l generalizing lo with
  | nil => rfl
  | cons c r ih =>
    obtain ⟨j, x⟩ := c
    simp [keysRise] at h
    by_cases h2 : j = k
    · subst h2; simp [eraseKey]; exact this h.2 (by omega)
    · simp [eraseKey, h2, ih h.2]

/-- Two writes to one key are the second. -/
theorem gset_gset [DecidableEq α] {m : GMap α} (h : gwf m = true) (k : Nat) (v w : α) : gset (gset m k v) k w = gset m k w := by
  have hr := gwf_rise h
  unfold gset
  by_cases hv : v = m.dflt <;> by_cases hw : w = m.dflt
  · simp [hv, hw, eraseKey_eraseKey k hr]
  · simp [hv, hw, insertKey_eraseKey k w hr]
  · simp [hv, hw, eraseKey_insertKey k v hr]
  · simp [hv, hw, insertKey_insertKey]

theorem gmod_gset [DecidableEq α] {m : GMap α} (h : gwf m = true) (k : Nat) (v : α) (f : α → α) :
    gmod (gset m k v) k f = gset m k (f v) := by
  simp [gmod, gget_gset_self h, gset_gset h]

theorem gmod_gmod [DecidableEq α] {m : GMap α} (h : gwf m = true) (k : Nat) (f g : α → α) :
    gmod (gmod m k f) k g = gmod m k (fun x => g (f x)) := gmod_gset h ..

theorem gwf_gmodKeys [DecidableEq α] {m : GMap α} (h : gwf m = true) (ks : List Nat) (f : Nat → α → α) :
    gwf (gmodKeys m ks f) = true := by
  unfold gmodKeys
  induction ks generalizing m with
  | nil => exact h
  | cons k ks ih => exact ih (gwf_gmod h ..)

/-- A read after several keys are changed alike. -/
theorem gget_gmodKeys [DecidableEq α] {m : GMap α} (h : gwf m = true) {ks : List Nat} (hn : ks.Nodup) (f : Nat → α → α) (k : Nat) :
    gget (gmodKeys m ks f) k = if k ∈ ks then f k (gget m k) else gget m k := by
  unfold gmodKeys
  induction ks generalizing m with
  | nil => simp
  | cons j ks ih =>
    simp only [List.nodup_cons] at hn
    simp only [List.foldl, ih (gwf_gmod h ..) hn.2, gget_gmod h, List.mem_cons]
    by_cases hk : k = j
    · subst hk; simp [hn.1]
    · simp [hk]

theorem keysRise_map {γ : Type} {lo : Nat} {l : List (Nat × α)} (f : Nat × α → γ) (h : keysRise lo l = true) :
    keysRise lo (l.map (fun c => (c.1, f c))) = true := by
  induction l generalizing lo with
  | nil => rfl
  | cons c r ih => obtain ⟨k, v⟩ := c; simp [keysRise] at h ⊢; exact ⟨h.1, ih h.2⟩

theorem keysRise_filter {lo : Nat} {l : List (Nat × α)} (p : Nat × α → Bool) (h : keysRise lo l = true) :
    keysRise lo (l.filter p) = true := by
  induction l generalizing lo with
  | nil => rfl
  | cons c r ih =>
    obtain ⟨k, v⟩ := c
    simp [keysRise] at h
    simp only [List.filter]
    split
    · simp [keysRise, h.1, ih h.2]
    · exact keysRise_le (ih h.2) (by omega)

theorem gwf_gmapWith [DecidableEq α] [DecidableEq β] {m : GMap α} (h : gwf m = true) (f : Nat → α → β) (f0 : α → β) :
    gwf (gmapWith m f f0) = true := by
  simp only [gwf, gmapWith, Bool.and_eq_true, List.all_eq_true]
  exact ⟨keysRise_filter _ (keysRise_map (fun c => f c.1 c.2) (gwf_rise h)), fun c hc => (List.mem_filter.1 hc).2⟩

theorem gwf_gmapAll [DecidableEq α] [DecidableEq β] {m : GMap α} (h : gwf m = true) (f : α → β) : gwf (gmapAll m f) = true :=
  gwf_gmapWith h ..

/-- A read after every value is changed alike. -/
theorem gget_gmapAll [DecidableEq α] [DecidableEq β] {m : GMap α} (h : gwf m = true) (f : α → β) (k : Nat) :
    gget (gmapAll m f) k = f (gget m k) := by
  have key : ∀ (l : List (Nat × α)) (lo : Nat), keysRise lo l = true →
      (lookupKey k ((l.map (fun c => (c.1, f c.2))).filter (fun c => decide (c.2 ≠ f m.dflt)))).getD (f m.dflt) =
        f ((lookupKey k l).getD m.dflt) := by
    intro l
    induction l with
    | nil => intros; rfl
    | cons c r ih =>
      intro lo hr
      obtain ⟨j, v⟩ := c
      simp [keysRise] at hr
      have hr2 := ih (j + 1) hr.2
      by_cases hj : j = k
      · subst hj
        by_cases hv : f v = f m.dflt
        · have hb : lookupKey j r = none := lookupKey_below hr.2 (Nat.lt_succ_self j)
          rw [hb] at hr2
          simp [lookupKey, hv] at hr2 ⊢
          exact hr2
        · simp [lookupKey, hv]
      · by_cases hv : f v = f m.dflt
        · simp [lookupKey, hv, hj] at hr2 ⊢
          exact hr2
        · simp [lookupKey, hv, hj] at hr2 ⊢
          exact hr2
  simpa [gget, gmapAll, gmapWith] using key m.cells 0 (gwf_rise h)

theorem gwf_gupdate [DecidableEq α] (m : GMap α) (ks : List Nat) (f : Nat → α → α) (f0 : α → α) : gwf (gupdate m ks f f0) = true := by
  unfold gupdate
  have : ∀ (l : List Nat) (g : GMap α), gwf g = true → gwf (l.foldl (fun g k => gset g k (f k (gget m k))) g) = true := by
    intro l
    induction l with
    | nil => intro g h; exact h
    | cons k l ih => intro g h; exact ih _ (gwf_gset h ..)
  exact this _ _ (gwf_gconst _)

/-- A map with every value changed reads as the change of what it read: by `f` at the keys, by `f0` elsewhere. -/
theorem gget_gupdate [DecidableEq α] (m : GMap α) (ks : List Nat) (f : Nat → α → α) (f0 : α → α) (k : Nat) :
    gget (gupdate m ks f f0) k = if k ∈ gkeys m ++ ks then f k (gget m k) else f0 m.dflt := by
  unfold gupdate
  have key : ∀ (l : List Nat) (g : GMap α), gwf g = true →
      gget (l.foldl (fun g k => gset g k (f k (gget m k))) g) k = if k ∈ l then f k (gget m k) else gget g k := by
    intro l
    induction l with
    | nil => intro g _; simp
    | cons j l ih =>
      intro g h
      rw [List.foldl_cons, ih _ (gwf_gset h ..)]
      by_cases hl : k ∈ l
      · rw [if_pos hl, if_pos (List.mem_cons_of_mem _ hl)]
      · rw [if_neg hl]
        by_cases hj : k = j
        · subst hj; rw [if_pos (List.mem_cons_self ..), gget_gset_self h]
        · rw [if_neg (by simp [hl, hj]), gget_gset_ne _ _ hj]
  rw [key _ _ (gwf_gconst _)]
  rfl

theorem lookupKey_of_not_mem {l : List (Nat × α)} {k : Nat} (h : k ∉ l.map (·.1)) : lookupKey k l = none := by
  induction l with
  | nil => rfl
  | cons c r ih =>
    obtain ⟨j, v⟩ := c
    simp only [List.map_cons, List.mem_cons, not_or] at h
    simp only [lookupKey, if_neg (Ne.symm h.1), ih h.2]

theorem gget_of_not_key {m : GMap α} {k : Nat} (h : k ∉ gkeys m) : gget m k = m.dflt := by
  simp only [gget, lookupKey_of_not_mem h]; rfl

/-! Byte memory. -/

theorem Memory.wf_rise {m : Mem} (h : Memory.wf m = true) : keysRise 0 m = true := by simp [Memory.wf] at h; exact h.1

theorem Memory.wf_nil : Memory.wf [] = true := rfl

/-- A read after a write, in a memory in canonical form. -/
theorem Memory.read_write {m : Mem} (h : Memory.wf m = true) (a b : Nat) (v : Byte) :
    Memory.read (Memory.write m a v) b = if b = a then v else Memory.read m b := by
  unfold Memory.write Memory.read
  split
  · rename_i hv
    simp only [lookupKey_eraseKey a b (wf_rise h)]
    by_cases hb : b = a <;> simp [hb, hv]
  · simp only [lookupKey_insertKey]
    by_cases hb : b = a <;> simp [hb]

/-- A write keeps the canonical form. -/
theorem Memory.wf_write {m : Mem} (h : Memory.wf m = true) (a : Nat) (v : Byte) : Memory.wf (Memory.write m a v) = true := by
  unfold Memory.write
  simp only [Memory.wf, Bool.and_eq_true, List.all_eq_true, decide_eq_true_eq] at h ⊢
  split
  · exact ⟨keysRise_eraseKey h.1, fun c hc => h.2 c (mem_eraseKey hc)⟩
  · rename_i hv
    refine ⟨keysRise_insertKey v h.1 (Nat.zero_le _), fun c hc => ?_⟩
    rcases mem_insertKey hc with rfl | hc
    · exact hv
    · exact h.2 c hc

/-- A write of a run of bytes keeps the canonical form. -/
theorem Memory.wf_writeBytes {m : Mem} (h : Memory.wf m = true) (a : Nat) (bs : List Byte) :
    Memory.wf (Memory.writeBytes m a bs) = true := by
  induction bs generalizing m a with
  | nil => exact h
  | cons b bs ih => exact ih (Memory.wf_write h ..) _

/-- What a byte reads as after a run of bytes is written. -/
theorem Memory.read_writeBytes {m : Mem} (h : Memory.wf m = true) (a b : Nat) (bs : List Byte) :
    Memory.read (Memory.writeBytes m a bs) b = if a ≤ b ∧ b < a + bs.length then bs.getD (b - a) 0#8 else Memory.read m b := by
  induction bs generalizing m a with
  | nil => rw [if_neg (by simp only [List.length_nil]; omega)]; rfl
  | cons x bs ih =>
    simp only [Memory.writeBytes, ih (Memory.wf_write h ..), Memory.read_write h, List.length_cons]
    by_cases h1 : b = a
    · subst h1
      rw [if_neg (by omega), if_pos rfl, if_pos (by omega), Nat.sub_self]; rfl
    · by_cases h2 : a + 1 ≤ b ∧ b < a + 1 + bs.length
      · have h3 : a ≤ b ∧ b < a + (bs.length + 1) := by omega
        have : b - a = (b - (a + 1)) + 1 := by omega
        rw [if_pos h2, if_pos h3, this]; rfl
      · have h3 : ¬ (a ≤ b ∧ b < a + (bs.length + 1)) := by omega
        rw [if_neg h2, if_neg h1, if_neg h3]

theorem keysRise_append {lo mid : Nat} {l r : List (Nat × α)} (hl : keysRise lo l = true) (hm : ∀ c ∈ l, c.1 < mid)
    (hlm : lo ≤ mid) (hr : keysRise mid r = true) : keysRise lo (l ++ r) = true := by
  induction l generalizing lo with
  | nil => exact keysRise_le hr hlm
  | cons c l ih =>
    obtain ⟨k, v⟩ := c
    simp [keysRise] at hl ⊢
    have hk : k < mid := hm (k, v) (by simp)
    exact ⟨hl.1, ih hl.2 (fun c hc => hm c (by simp [hc])) (by omega)⟩

theorem keysRise_shift {lo d : Nat} {l : List (Nat × α)} (h : keysRise lo l = true) :
    keysRise (d + lo) (l.map (fun c => (d + c.1, c.2))) = true := by
  induction l generalizing lo with
  | nil => rfl
  | cons c l ih => obtain ⟨k, v⟩ := c; simp [keysRise] at h ⊢; exact ⟨h.1, by simpa [Nat.add_assoc] using ih h.2⟩

theorem keysRise_unshift {lo d : Nat} {l : List (Nat × α)} (h : keysRise lo l = true) (hd : ∀ c ∈ l, d ≤ c.1) :
    keysRise (lo - d) (l.map (fun c => (c.1 - d, c.2))) = true := by
  induction l generalizing lo with
  | nil => rfl
  | cons c l ih =>
    obtain ⟨k, v⟩ := c
    simp [keysRise] at h ⊢
    have hk : d ≤ k := hd (k, v) (by simp)
    refine ⟨by omega, ?_⟩
    have := ih h.2 (fun c hc => hd c (by simp [hc]))
    rwa [show k + 1 - d = k - d + 1 by omega] at this

/-- A cell of a canonical list lies at or above its bound. -/
theorem keysRise_mem {lo : Nat} {l : List (Nat × α)} (h : keysRise lo l = true) : ∀ c ∈ l, lo ≤ c.1 := by
  induction l generalizing lo with
  | nil => simp
  | cons c l ih =>
    obtain ⟨k, v⟩ := c
    simp [keysRise] at h
    intro d hd
    simp at hd
    rcases hd with rfl | hd
    · exact h.1
    · have := ih h.2 d hd; omega

/-- The cells at or above a bound are a canonical list from that bound. -/
theorem keysRise_filter_ge {lo b : Nat} {l : List (Nat × α)} (h : keysRise lo l = true) :
    keysRise b (l.filter (fun c => decide (b ≤ c.1))) = true := by
  induction l generalizing lo with
  | nil => rfl
  | cons c l ih =>
    obtain ⟨k, v⟩ := c
    simp [keysRise] at h
    simp only [List.filter]
    split
    · rename_i hb
      simp at hb
      simp [keysRise, hb]
      exact keysRise_filter _ h.2
    · exact ih h.2

/-- A part cut out of a memory is canonical. -/
theorem Memory.wf_window {m : Mem} (h : Memory.wf m = true) (lo len : Nat) : Memory.wf (Memory.window m lo len) = true := by
  simp only [Memory.wf, Memory.window, Bool.and_eq_true, List.all_eq_true, decide_eq_true_eq] at h ⊢
  refine ⟨?_, ?_⟩
  · have := keysRise_unshift (d := lo) (keysRise_filter (fun c => decide (lo ≤ c.1) && decide (c.1 < lo + len)) h.1)
      (fun c hc => by have := (List.mem_filter.1 hc).2; simp at this; exact this.1)
    simpa using this
  · intro c hc
    obtain ⟨d, hd, rfl⟩ := List.mem_map.1 hc
    exact h.2 d (List.mem_filter.1 hd).1

/-- Putting a part into a memory keeps the canonical form. -/
theorem Memory.wf_putWindow {m p : Mem} (h : Memory.wf m = true) (hp : Memory.wf p = true) (lo len : Nat) :
    Memory.wf (Memory.putWindow m lo len p) = true := by
  simp only [Memory.wf, Memory.putWindow, Bool.and_eq_true, List.all_eq_true, decide_eq_true_eq] at h hp ⊢
  refine ⟨?_, ?_⟩
  · rw [List.append_assoc]
    refine keysRise_append (keysRise_filter _ h.1) (mid := lo) (fun c hc => by simpa using (List.mem_filter.1 hc).2) (Nat.zero_le _) ?_
    refine keysRise_append (mid := lo + len) ?_ ?_ (by omega) (keysRise_filter_ge h.1)
    · have := keysRise_shift (d := lo) (keysRise_filter (fun c => decide (c.1 < len)) hp.1); simpa using this
    · intro c hc
      obtain ⟨d, hd, rfl⟩ := List.mem_map.1 hc
      have := (List.mem_filter.1 hd).2
      simp at this ⊢; omega
  · intro c hc
    simp only [List.mem_append] at hc
    rcases hc with (hc | hc) | hc
    · exact h.2 c (List.mem_filter.1 hc).1
    · obtain ⟨d, hd, rfl⟩ := List.mem_map.1 hc; exact hp.2 d (List.mem_filter.1 hd).1
    · exact h.2 c (List.mem_filter.1 hc).1

end Sys2Proof.Machine
end

