-- ==== Sys2Proof/Laws/Banks.lean ====
section
/-! SUPPORT. The cells of a bank read back after an operation that replaces them all. -/

namespace Sys2Proof.Machine

/-- A map made of a list reads as the list. -/
theorem gget_gofList {α : Type} [DecidableEq α] (d : α) (l : List α) (k : Nat) : gget (gofList d l) k = l.getD k d := by
  have key : ∀ (l : List α) (a : Nat), (lookupKey k (((List.range' a l.length).zip l).filter (fun c => decide (c.2 ≠ d)))).getD d =
      if a ≤ k then l.getD (k - a) d else d := by
    intro l
    induction l with
    | nil => intro a; simp [lookupKey]
    | cons x r ih =>
      intro a
      rw [List.length_cons, List.range'_succ, List.zip_cons_cons, List.filter_cons]
      have hi := ih (a + 1)
      by_cases hx : x = d
      · rw [if_neg (by simp [hx]), hi]
        by_cases hak : a = k
        · subst hak; simp [hx, show ¬ (a + 1 ≤ a) by omega]
        · by_cases h2 : a + 1 ≤ k
          · rw [if_pos h2, if_pos (by omega), show k - a = (k - (a + 1)) + 1 by omega, List.getD_cons_succ]
          · rw [if_neg h2, if_neg (by omega)]
      · rw [if_pos (by simp [hx])]
        by_cases hak : a = k
        · subst hak; simp [lookupKey]
        · simp only [lookupKey, if_neg hak, hi]
          by_cases h2 : a + 1 ≤ k
          · rw [if_pos h2, if_pos (by omega), show k - a = (k - (a + 1)) + 1 by omega, List.getD_cons_succ]
          · rw [if_neg h2, if_neg (by omega)]
  have := key l 0
  simpa [gget, gofList, List.range_eq_range'] using this

theorem Bank.withLists_cells (b : Bank) (f : Cell → Cell) (ks : List Cell) {i : Nat} (hi : i < 128) :
    gget (b.withLists (b.list.map f) ks).cells i = f (gget b.cells i) := by
  simp only [Bank.withLists, gget_gofList, Bank.list]
  rw [List.getD_eq_getElem?_getD, List.getElem?_map, List.getElem?_map, List.getElem?_range hi]
  rfl

theorem Bank.withLists_checks (b : Bank) (cs : List Cell) (f : Cell → Cell) {i : Nat} (hi : i < 8) :
    gget (b.withLists cs (b.checkList.map f)).checks i = f (gget b.checks i) := by
  simp only [Bank.withLists, gget_gofList, Bank.checkList]
  rw [List.getD_eq_getElem?_getD, List.getElem?_map, List.getElem?_map, List.getElem?_range hi]
  rfl

theorem Bank.raise_cells (b : Bank) (k : Nat) {i : Nat} (hi : i < 128) : gget (b.raise k).cells i = (gget b.cells i).shiftRight k :=
  b.withLists_cells (Cell.shiftRight k) (b.checkList.map (Cell.shiftRight k)) hi

theorem Bank.raise_checks (b : Bank) (k : Nat) {i : Nat} (hi : i < 8) : gget (b.raise k).checks i = (gget b.checks i).shiftRight k :=
  b.withLists_checks (b.list.map (Cell.shiftRight k)) (Cell.shiftRight k) hi

theorem Bank.lower_cells (b : Bank) (k : Nat) {i : Nat} (hi : i < 128) : gget (b.lower k).1.cells i = (gget b.cells i).shiftLeft k :=
  b.withLists_cells (Cell.shiftLeft k)
    (b.checkList.map (fun c => if c.nan then c else { c with v := c.v * ((2 ^ k : Nat) : Int) })) hi

end Sys2Proof.Machine
end

