-- ==== Sys2Proof/Laws/State.lean ====
section
/-! SUPPORT. What each small update of the state does to each field: the field it writes, and every other field unchanged, so that
no proof unfolds a record update. -/

namespace Sys2Proof.Machine

variable (s : State)

/-! `modStall`. -/

@[simp] theorem modStall_dev (sid : Nat) (f : Stall → Stall) : (modStall s sid f).dev = s.dev := rfl
@[simp] theorem modStall_fuses (sid : Nat) (f : Stall → Stall) : (modStall s sid f).fuses = s.fuses := rfl
@[simp] theorem modStall_grm (sid : Nat) (f : Stall → Stall) : (modStall s sid f).grm = s.grm := rfl
@[simp] theorem modStall_pwr (sid : Nat) (f : Stall → Stall) : (modStall s sid f).pwr = s.pwr := rfl
@[simp] theorem modStall_thm (sid : Nat) (f : Stall → Stall) : (modStall s sid f).thm = s.thm := rfl
@[simp] theorem modStall_err (sid : Nat) (f : Stall → Stall) : (modStall s sid f).err = s.err := rfl
@[simp] theorem modStall_sec (sid : Nat) (f : Stall → Stall) : (modStall s sid f).sec = s.sec := rfl
@[simp] theorem modStall_mbx (sid : Nat) (f : Stall → Stall) : (modStall s sid f).mbx = s.mbx := rfl
@[simp] theorem modStall_mars (sid : Nat) (f : Stall → Stall) : (modStall s sid f).mars = s.mars := rfl
@[simp] theorem modStall_ports (sid : Nat) (f : Stall → Stall) : (modStall s sid f).ports = s.ports := rfl
@[simp] theorem modStall_yards (sid : Nat) (f : Stall → Stall) : (modStall s sid f).yards = s.yards := rfl
@[simp] theorem modStall_sheds (sid : Nat) (f : Stall → Stall) : (modStall s sid f).sheds = s.sheds := rfl
@[simp] theorem modStall_psheds (sid : Nat) (f : Stall → Stall) : (modStall s sid f).psheds = s.psheds := rfl
@[simp] theorem modStall_stalls (sid : Nat) (f : Stall → Stall) : (modStall s sid f).stalls = gmod s.stalls sid f := rfl
@[simp] theorem modStall_routeA (sid : Nat) (f : Stall → Stall) : (modStall s sid f).routeA = s.routeA := rfl
@[simp] theorem modStall_routeB (sid : Nat) (f : Stall → Stall) : (modStall s sid f).routeB = s.routeB := rfl
@[simp] theorem modStall_track (sid : Nat) (f : Stall → Stall) : (modStall s sid f).track = s.track := rfl
@[simp] theorem modStall_nextId (sid : Nat) (f : Stall → Stall) : (modStall s sid f).nextId = s.nextId := rfl
@[simp] theorem modStall_rm (sid : Nat) (f : Stall → Stall) : (modStall s sid f).rm = s.rm := rfl
@[simp] theorem modStall_lunge (sid : Nat) (f : Stall → Stall) : (modStall s sid f).lunge = s.lunge := rfl
@[simp] theorem modStall_i3c (sid : Nat) (f : Stall → Stall) : (modStall s sid f).i3c = s.i3c := rfl
@[simp] theorem modStall_tap (sid : Nat) (f : Stall → Stall) : (modStall s sid f).tap = s.tap := rfl
@[simp] theorem modStall_pins (sid : Nat) (f : Stall → Stall) : (modStall s sid f).pins = s.pins := rfl
@[simp] theorem modStall_hmem (sid : Nat) (f : Stall → Stall) : (modStall s sid f).hmem = s.hmem := rfl
@[simp] theorem modStall_gwin (sid : Nat) (f : Stall → Stall) : (modStall s sid f).gwin = s.gwin := rfl
@[simp] theorem modStall_fresh (sid : Nat) (f : Stall → Stall) : (modStall s sid f).fresh = s.fresh := rfl
@[simp] theorem modStall_resp (sid : Nat) (f : Stall → Stall) : (modStall s sid f).resp = s.resp := rfl
@[simp] theorem modStall_pending (sid : Nat) (f : Stall → Stall) : (modStall s sid f).pending = s.pending := rfl

/-! `modShed`. -/

@[simp] theorem modShed_dev (k : Nat) (f : Shed → Shed) : (modShed s k f).dev = s.dev := rfl
@[simp] theorem modShed_fuses (k : Nat) (f : Shed → Shed) : (modShed s k f).fuses = s.fuses := rfl
@[simp] theorem modShed_grm (k : Nat) (f : Shed → Shed) : (modShed s k f).grm = s.grm := rfl
@[simp] theorem modShed_pwr (k : Nat) (f : Shed → Shed) : (modShed s k f).pwr = s.pwr := rfl
@[simp] theorem modShed_thm (k : Nat) (f : Shed → Shed) : (modShed s k f).thm = s.thm := rfl
@[simp] theorem modShed_err (k : Nat) (f : Shed → Shed) : (modShed s k f).err = s.err := rfl
@[simp] theorem modShed_sec (k : Nat) (f : Shed → Shed) : (modShed s k f).sec = s.sec := rfl
@[simp] theorem modShed_mbx (k : Nat) (f : Shed → Shed) : (modShed s k f).mbx = s.mbx := rfl
@[simp] theorem modShed_mars (k : Nat) (f : Shed → Shed) : (modShed s k f).mars = s.mars := rfl
@[simp] theorem modShed_ports (k : Nat) (f : Shed → Shed) : (modShed s k f).ports = s.ports := rfl
@[simp] theorem modShed_yards (k : Nat) (f : Shed → Shed) : (modShed s k f).yards = s.yards := rfl
@[simp] theorem modShed_sheds (k : Nat) (f : Shed → Shed) : (modShed s k f).sheds = gmod s.sheds k f := rfl
@[simp] theorem modShed_psheds (k : Nat) (f : Shed → Shed) : (modShed s k f).psheds = s.psheds := rfl
@[simp] theorem modShed_stalls (k : Nat) (f : Shed → Shed) : (modShed s k f).stalls = s.stalls := rfl
@[simp] theorem modShed_routeA (k : Nat) (f : Shed → Shed) : (modShed s k f).routeA = s.routeA := rfl
@[simp] theorem modShed_routeB (k : Nat) (f : Shed → Shed) : (modShed s k f).routeB = s.routeB := rfl
@[simp] theorem modShed_track (k : Nat) (f : Shed → Shed) : (modShed s k f).track = s.track := rfl
@[simp] theorem modShed_nextId (k : Nat) (f : Shed → Shed) : (modShed s k f).nextId = s.nextId := rfl
@[simp] theorem modShed_rm (k : Nat) (f : Shed → Shed) : (modShed s k f).rm = s.rm := rfl
@[simp] theorem modShed_lunge (k : Nat) (f : Shed → Shed) : (modShed s k f).lunge = s.lunge := rfl
@[simp] theorem modShed_i3c (k : Nat) (f : Shed → Shed) : (modShed s k f).i3c = s.i3c := rfl
@[simp] theorem modShed_tap (k : Nat) (f : Shed → Shed) : (modShed s k f).tap = s.tap := rfl
@[simp] theorem modShed_pins (k : Nat) (f : Shed → Shed) : (modShed s k f).pins = s.pins := rfl
@[simp] theorem modShed_hmem (k : Nat) (f : Shed → Shed) : (modShed s k f).hmem = s.hmem := rfl
@[simp] theorem modShed_gwin (k : Nat) (f : Shed → Shed) : (modShed s k f).gwin = s.gwin := rfl
@[simp] theorem modShed_fresh (k : Nat) (f : Shed → Shed) : (modShed s k f).fresh = s.fresh := rfl
@[simp] theorem modShed_resp (k : Nat) (f : Shed → Shed) : (modShed s k f).resp = s.resp := rfl
@[simp] theorem modShed_pending (k : Nat) (f : Shed → Shed) : (modShed s k f).pending = s.pending := rfl

/-! `modYard`. -/

@[simp] theorem modYard_dev (y : Nat) (f : Yard → Yard) : (modYard s y f).dev = s.dev := rfl
@[simp] theorem modYard_fuses (y : Nat) (f : Yard → Yard) : (modYard s y f).fuses = s.fuses := rfl
@[simp] theorem modYard_grm (y : Nat) (f : Yard → Yard) : (modYard s y f).grm = s.grm := rfl
@[simp] theorem modYard_pwr (y : Nat) (f : Yard → Yard) : (modYard s y f).pwr = s.pwr := rfl
@[simp] theorem modYard_thm (y : Nat) (f : Yard → Yard) : (modYard s y f).thm = s.thm := rfl
@[simp] theorem modYard_err (y : Nat) (f : Yard → Yard) : (modYard s y f).err = s.err := rfl
@[simp] theorem modYard_sec (y : Nat) (f : Yard → Yard) : (modYard s y f).sec = s.sec := rfl
@[simp] theorem modYard_mbx (y : Nat) (f : Yard → Yard) : (modYard s y f).mbx = s.mbx := rfl
@[simp] theorem modYard_mars (y : Nat) (f : Yard → Yard) : (modYard s y f).mars = s.mars := rfl
@[simp] theorem modYard_ports (y : Nat) (f : Yard → Yard) : (modYard s y f).ports = s.ports := rfl
@[simp] theorem modYard_yards (y : Nat) (f : Yard → Yard) : (modYard s y f).yards = gmod s.yards y f := rfl
@[simp] theorem modYard_sheds (y : Nat) (f : Yard → Yard) : (modYard s y f).sheds = s.sheds := rfl
@[simp] theorem modYard_psheds (y : Nat) (f : Yard → Yard) : (modYard s y f).psheds = s.psheds := rfl
@[simp] theorem modYard_stalls (y : Nat) (f : Yard → Yard) : (modYard s y f).stalls = s.stalls := rfl
@[simp] theorem modYard_routeA (y : Nat) (f : Yard → Yard) : (modYard s y f).routeA = s.routeA := rfl
@[simp] theorem modYard_routeB (y : Nat) (f : Yard → Yard) : (modYard s y f).routeB = s.routeB := rfl
@[simp] theorem modYard_track (y : Nat) (f : Yard → Yard) : (modYard s y f).track = s.track := rfl
@[simp] theorem modYard_nextId (y : Nat) (f : Yard → Yard) : (modYard s y f).nextId = s.nextId := rfl
@[simp] theorem modYard_rm (y : Nat) (f : Yard → Yard) : (modYard s y f).rm = s.rm := rfl
@[simp] theorem modYard_lunge (y : Nat) (f : Yard → Yard) : (modYard s y f).lunge = s.lunge := rfl
@[simp] theorem modYard_i3c (y : Nat) (f : Yard → Yard) : (modYard s y f).i3c = s.i3c := rfl
@[simp] theorem modYard_tap (y : Nat) (f : Yard → Yard) : (modYard s y f).tap = s.tap := rfl
@[simp] theorem modYard_pins (y : Nat) (f : Yard → Yard) : (modYard s y f).pins = s.pins := rfl
@[simp] theorem modYard_hmem (y : Nat) (f : Yard → Yard) : (modYard s y f).hmem = s.hmem := rfl
@[simp] theorem modYard_gwin (y : Nat) (f : Yard → Yard) : (modYard s y f).gwin = s.gwin := rfl
@[simp] theorem modYard_fresh (y : Nat) (f : Yard → Yard) : (modYard s y f).fresh = s.fresh := rfl
@[simp] theorem modYard_resp (y : Nat) (f : Yard → Yard) : (modYard s y f).resp = s.resp := rfl
@[simp] theorem modYard_pending (y : Nat) (f : Yard → Yard) : (modYard s y f).pending = s.pending := rfl

/-! `modPShed`. -/

@[simp] theorem modPShed_dev (n : Nat) (f : PShed → PShed) : (modPShed s n f).dev = s.dev := rfl
@[simp] theorem modPShed_fuses (n : Nat) (f : PShed → PShed) : (modPShed s n f).fuses = s.fuses := rfl
@[simp] theorem modPShed_grm (n : Nat) (f : PShed → PShed) : (modPShed s n f).grm = s.grm := rfl
@[simp] theorem modPShed_pwr (n : Nat) (f : PShed → PShed) : (modPShed s n f).pwr = s.pwr := rfl
@[simp] theorem modPShed_thm (n : Nat) (f : PShed → PShed) : (modPShed s n f).thm = s.thm := rfl
@[simp] theorem modPShed_err (n : Nat) (f : PShed → PShed) : (modPShed s n f).err = s.err := rfl
@[simp] theorem modPShed_sec (n : Nat) (f : PShed → PShed) : (modPShed s n f).sec = s.sec := rfl
@[simp] theorem modPShed_mbx (n : Nat) (f : PShed → PShed) : (modPShed s n f).mbx = s.mbx := rfl
@[simp] theorem modPShed_mars (n : Nat) (f : PShed → PShed) : (modPShed s n f).mars = s.mars := rfl
@[simp] theorem modPShed_ports (n : Nat) (f : PShed → PShed) : (modPShed s n f).ports = s.ports := rfl
@[simp] theorem modPShed_yards (n : Nat) (f : PShed → PShed) : (modPShed s n f).yards = s.yards := rfl
@[simp] theorem modPShed_sheds (n : Nat) (f : PShed → PShed) : (modPShed s n f).sheds = s.sheds := rfl
@[simp] theorem modPShed_psheds (n : Nat) (f : PShed → PShed) : (modPShed s n f).psheds = gmod s.psheds n f := rfl
@[simp] theorem modPShed_stalls (n : Nat) (f : PShed → PShed) : (modPShed s n f).stalls = s.stalls := rfl
@[simp] theorem modPShed_routeA (n : Nat) (f : PShed → PShed) : (modPShed s n f).routeA = s.routeA := rfl
@[simp] theorem modPShed_routeB (n : Nat) (f : PShed → PShed) : (modPShed s n f).routeB = s.routeB := rfl
@[simp] theorem modPShed_track (n : Nat) (f : PShed → PShed) : (modPShed s n f).track = s.track := rfl
@[simp] theorem modPShed_nextId (n : Nat) (f : PShed → PShed) : (modPShed s n f).nextId = s.nextId := rfl
@[simp] theorem modPShed_rm (n : Nat) (f : PShed → PShed) : (modPShed s n f).rm = s.rm := rfl
@[simp] theorem modPShed_lunge (n : Nat) (f : PShed → PShed) : (modPShed s n f).lunge = s.lunge := rfl
@[simp] theorem modPShed_i3c (n : Nat) (f : PShed → PShed) : (modPShed s n f).i3c = s.i3c := rfl
@[simp] theorem modPShed_tap (n : Nat) (f : PShed → PShed) : (modPShed s n f).tap = s.tap := rfl
@[simp] theorem modPShed_pins (n : Nat) (f : PShed → PShed) : (modPShed s n f).pins = s.pins := rfl
@[simp] theorem modPShed_hmem (n : Nat) (f : PShed → PShed) : (modPShed s n f).hmem = s.hmem := rfl
@[simp] theorem modPShed_gwin (n : Nat) (f : PShed → PShed) : (modPShed s n f).gwin = s.gwin := rfl
@[simp] theorem modPShed_fresh (n : Nat) (f : PShed → PShed) : (modPShed s n f).fresh = s.fresh := rfl
@[simp] theorem modPShed_resp (n : Nat) (f : PShed → PShed) : (modPShed s n f).resp = s.resp := rfl
@[simp] theorem modPShed_pending (n : Nat) (f : PShed → PShed) : (modPShed s n f).pending = s.pending := rfl

/-! `modPort`. -/

@[simp] theorem modPort_dev (p : Nat) (f : Port → Port) : (modPort s p f).dev = s.dev := rfl
@[simp] theorem modPort_fuses (p : Nat) (f : Port → Port) : (modPort s p f).fuses = s.fuses := rfl
@[simp] theorem modPort_grm (p : Nat) (f : Port → Port) : (modPort s p f).grm = s.grm := rfl
@[simp] theorem modPort_pwr (p : Nat) (f : Port → Port) : (modPort s p f).pwr = s.pwr := rfl
@[simp] theorem modPort_thm (p : Nat) (f : Port → Port) : (modPort s p f).thm = s.thm := rfl
@[simp] theorem modPort_err (p : Nat) (f : Port → Port) : (modPort s p f).err = s.err := rfl
@[simp] theorem modPort_sec (p : Nat) (f : Port → Port) : (modPort s p f).sec = s.sec := rfl
@[simp] theorem modPort_mbx (p : Nat) (f : Port → Port) : (modPort s p f).mbx = s.mbx := rfl
@[simp] theorem modPort_mars (p : Nat) (f : Port → Port) : (modPort s p f).mars = s.mars := rfl
@[simp] theorem modPort_ports (p : Nat) (f : Port → Port) : (modPort s p f).ports = gmod s.ports p f := rfl
@[simp] theorem modPort_yards (p : Nat) (f : Port → Port) : (modPort s p f).yards = s.yards := rfl
@[simp] theorem modPort_sheds (p : Nat) (f : Port → Port) : (modPort s p f).sheds = s.sheds := rfl
@[simp] theorem modPort_psheds (p : Nat) (f : Port → Port) : (modPort s p f).psheds = s.psheds := rfl
@[simp] theorem modPort_stalls (p : Nat) (f : Port → Port) : (modPort s p f).stalls = s.stalls := rfl
@[simp] theorem modPort_routeA (p : Nat) (f : Port → Port) : (modPort s p f).routeA = s.routeA := rfl
@[simp] theorem modPort_routeB (p : Nat) (f : Port → Port) : (modPort s p f).routeB = s.routeB := rfl
@[simp] theorem modPort_track (p : Nat) (f : Port → Port) : (modPort s p f).track = s.track := rfl
@[simp] theorem modPort_nextId (p : Nat) (f : Port → Port) : (modPort s p f).nextId = s.nextId := rfl
@[simp] theorem modPort_rm (p : Nat) (f : Port → Port) : (modPort s p f).rm = s.rm := rfl
@[simp] theorem modPort_lunge (p : Nat) (f : Port → Port) : (modPort s p f).lunge = s.lunge := rfl
@[simp] theorem modPort_i3c (p : Nat) (f : Port → Port) : (modPort s p f).i3c = s.i3c := rfl
@[simp] theorem modPort_tap (p : Nat) (f : Port → Port) : (modPort s p f).tap = s.tap := rfl
@[simp] theorem modPort_pins (p : Nat) (f : Port → Port) : (modPort s p f).pins = s.pins := rfl
@[simp] theorem modPort_hmem (p : Nat) (f : Port → Port) : (modPort s p f).hmem = s.hmem := rfl
@[simp] theorem modPort_gwin (p : Nat) (f : Port → Port) : (modPort s p f).gwin = s.gwin := rfl
@[simp] theorem modPort_fresh (p : Nat) (f : Port → Port) : (modPort s p f).fresh = s.fresh := rfl
@[simp] theorem modPort_resp (p : Nat) (f : Port → Port) : (modPort s p f).resp = s.resp := rfl
@[simp] theorem modPort_pending (p : Nat) (f : Port → Port) : (modPort s p f).pending = s.pending := rfl

/-! `modPlace`. -/

@[simp] theorem modPlace_dev (p : Nat) (f : Place → Place) : (modPlace s p f).dev = s.dev := rfl
@[simp] theorem modPlace_fuses (p : Nat) (f : Place → Place) : (modPlace s p f).fuses = s.fuses := rfl
@[simp] theorem modPlace_grm (p : Nat) (f : Place → Place) : (modPlace s p f).grm = s.grm := rfl
@[simp] theorem modPlace_pwr (p : Nat) (f : Place → Place) : (modPlace s p f).pwr = s.pwr := rfl
@[simp] theorem modPlace_thm (p : Nat) (f : Place → Place) : (modPlace s p f).thm = s.thm := rfl
@[simp] theorem modPlace_err (p : Nat) (f : Place → Place) : (modPlace s p f).err = s.err := rfl
@[simp] theorem modPlace_sec (p : Nat) (f : Place → Place) : (modPlace s p f).sec = { s.sec with places := gmod s.sec.places p f } := rfl
@[simp] theorem modPlace_mbx (p : Nat) (f : Place → Place) : (modPlace s p f).mbx = s.mbx := rfl
@[simp] theorem modPlace_mars (p : Nat) (f : Place → Place) : (modPlace s p f).mars = s.mars := rfl
@[simp] theorem modPlace_ports (p : Nat) (f : Place → Place) : (modPlace s p f).ports = s.ports := rfl
@[simp] theorem modPlace_yards (p : Nat) (f : Place → Place) : (modPlace s p f).yards = s.yards := rfl
@[simp] theorem modPlace_sheds (p : Nat) (f : Place → Place) : (modPlace s p f).sheds = s.sheds := rfl
@[simp] theorem modPlace_psheds (p : Nat) (f : Place → Place) : (modPlace s p f).psheds = s.psheds := rfl
@[simp] theorem modPlace_stalls (p : Nat) (f : Place → Place) : (modPlace s p f).stalls = s.stalls := rfl
@[simp] theorem modPlace_routeA (p : Nat) (f : Place → Place) : (modPlace s p f).routeA = s.routeA := rfl
@[simp] theorem modPlace_routeB (p : Nat) (f : Place → Place) : (modPlace s p f).routeB = s.routeB := rfl
@[simp] theorem modPlace_track (p : Nat) (f : Place → Place) : (modPlace s p f).track = s.track := rfl
@[simp] theorem modPlace_nextId (p : Nat) (f : Place → Place) : (modPlace s p f).nextId = s.nextId := rfl
@[simp] theorem modPlace_rm (p : Nat) (f : Place → Place) : (modPlace s p f).rm = s.rm := rfl
@[simp] theorem modPlace_lunge (p : Nat) (f : Place → Place) : (modPlace s p f).lunge = s.lunge := rfl
@[simp] theorem modPlace_i3c (p : Nat) (f : Place → Place) : (modPlace s p f).i3c = s.i3c := rfl
@[simp] theorem modPlace_tap (p : Nat) (f : Place → Place) : (modPlace s p f).tap = s.tap := rfl
@[simp] theorem modPlace_pins (p : Nat) (f : Place → Place) : (modPlace s p f).pins = s.pins := rfl
@[simp] theorem modPlace_hmem (p : Nat) (f : Place → Place) : (modPlace s p f).hmem = s.hmem := rfl
@[simp] theorem modPlace_gwin (p : Nat) (f : Place → Place) : (modPlace s p f).gwin = s.gwin := rfl
@[simp] theorem modPlace_fresh (p : Nat) (f : Place → Place) : (modPlace s p f).fresh = s.fresh := rfl
@[simp] theorem modPlace_resp (p : Nat) (f : Place → Place) : (modPlace s p f).resp = s.resp := rfl
@[simp] theorem modPlace_pending (p : Nat) (f : Place → Place) : (modPlace s p f).pending = s.pending := rfl

/-! `modBucket`. -/

@[simp] theorem modBucket_dev (c : Nat) (f : Bucket → Bucket) : (modBucket s c f).dev = s.dev := rfl
@[simp] theorem modBucket_fuses (c : Nat) (f : Bucket → Bucket) : (modBucket s c f).fuses = s.fuses := rfl
@[simp] theorem modBucket_grm (c : Nat) (f : Bucket → Bucket) : (modBucket s c f).grm = s.grm := rfl
@[simp] theorem modBucket_pwr (c : Nat) (f : Bucket → Bucket) : (modBucket s c f).pwr = s.pwr := rfl
@[simp] theorem modBucket_thm (c : Nat) (f : Bucket → Bucket) : (modBucket s c f).thm = s.thm := rfl
@[simp] theorem modBucket_err (c : Nat) (f : Bucket → Bucket) : (modBucket s c f).err = s.err := rfl
@[simp] theorem modBucket_sec (c : Nat) (f : Bucket → Bucket) : (modBucket s c f).sec = s.sec := rfl
@[simp] theorem modBucket_mbx (c : Nat) (f : Bucket → Bucket) : (modBucket s c f).mbx = s.mbx := rfl
@[simp] theorem modBucket_mars (c : Nat) (f : Bucket → Bucket) : (modBucket s c f).mars = { s.mars with buckets := gmod s.mars.buckets c f } := rfl
@[simp] theorem modBucket_ports (c : Nat) (f : Bucket → Bucket) : (modBucket s c f).ports = s.ports := rfl
@[simp] theorem modBucket_yards (c : Nat) (f : Bucket → Bucket) : (modBucket s c f).yards = s.yards := rfl
@[simp] theorem modBucket_sheds (c : Nat) (f : Bucket → Bucket) : (modBucket s c f).sheds = s.sheds := rfl
@[simp] theorem modBucket_psheds (c : Nat) (f : Bucket → Bucket) : (modBucket s c f).psheds = s.psheds := rfl
@[simp] theorem modBucket_stalls (c : Nat) (f : Bucket → Bucket) : (modBucket s c f).stalls = s.stalls := rfl
@[simp] theorem modBucket_routeA (c : Nat) (f : Bucket → Bucket) : (modBucket s c f).routeA = s.routeA := rfl
@[simp] theorem modBucket_routeB (c : Nat) (f : Bucket → Bucket) : (modBucket s c f).routeB = s.routeB := rfl
@[simp] theorem modBucket_track (c : Nat) (f : Bucket → Bucket) : (modBucket s c f).track = s.track := rfl
@[simp] theorem modBucket_nextId (c : Nat) (f : Bucket → Bucket) : (modBucket s c f).nextId = s.nextId := rfl
@[simp] theorem modBucket_rm (c : Nat) (f : Bucket → Bucket) : (modBucket s c f).rm = s.rm := rfl
@[simp] theorem modBucket_lunge (c : Nat) (f : Bucket → Bucket) : (modBucket s c f).lunge = s.lunge := rfl
@[simp] theorem modBucket_i3c (c : Nat) (f : Bucket → Bucket) : (modBucket s c f).i3c = s.i3c := rfl
@[simp] theorem modBucket_tap (c : Nat) (f : Bucket → Bucket) : (modBucket s c f).tap = s.tap := rfl
@[simp] theorem modBucket_pins (c : Nat) (f : Bucket → Bucket) : (modBucket s c f).pins = s.pins := rfl
@[simp] theorem modBucket_hmem (c : Nat) (f : Bucket → Bucket) : (modBucket s c f).hmem = s.hmem := rfl
@[simp] theorem modBucket_gwin (c : Nat) (f : Bucket → Bucket) : (modBucket s c f).gwin = s.gwin := rfl
@[simp] theorem modBucket_fresh (c : Nat) (f : Bucket → Bucket) : (modBucket s c f).fresh = s.fresh := rfl
@[simp] theorem modBucket_resp (c : Nat) (f : Bucket → Bucket) : (modBucket s c f).resp = s.resp := rfl
@[simp] theorem modBucket_pending (c : Nat) (f : Bucket → Bucket) : (modBucket s c f).pending = s.pending := rfl

/-! `modBox`. -/

@[simp] theorem modBox_dev (n : Nat) (f : Mailbox → Mailbox) : (modBox s n f).dev = s.dev := rfl
@[simp] theorem modBox_fuses (n : Nat) (f : Mailbox → Mailbox) : (modBox s n f).fuses = s.fuses := rfl
@[simp] theorem modBox_grm (n : Nat) (f : Mailbox → Mailbox) : (modBox s n f).grm = s.grm := rfl
@[simp] theorem modBox_pwr (n : Nat) (f : Mailbox → Mailbox) : (modBox s n f).pwr = s.pwr := rfl
@[simp] theorem modBox_thm (n : Nat) (f : Mailbox → Mailbox) : (modBox s n f).thm = s.thm := rfl
@[simp] theorem modBox_err (n : Nat) (f : Mailbox → Mailbox) : (modBox s n f).err = s.err := rfl
@[simp] theorem modBox_sec (n : Nat) (f : Mailbox → Mailbox) : (modBox s n f).sec = s.sec := rfl
@[simp] theorem modBox_mbx (n : Nat) (f : Mailbox → Mailbox) : (modBox s n f).mbx = { s.mbx with boxes := gmod s.mbx.boxes n f } := rfl
@[simp] theorem modBox_mars (n : Nat) (f : Mailbox → Mailbox) : (modBox s n f).mars = s.mars := rfl
@[simp] theorem modBox_ports (n : Nat) (f : Mailbox → Mailbox) : (modBox s n f).ports = s.ports := rfl
@[simp] theorem modBox_yards (n : Nat) (f : Mailbox → Mailbox) : (modBox s n f).yards = s.yards := rfl
@[simp] theorem modBox_sheds (n : Nat) (f : Mailbox → Mailbox) : (modBox s n f).sheds = s.sheds := rfl
@[simp] theorem modBox_psheds (n : Nat) (f : Mailbox → Mailbox) : (modBox s n f).psheds = s.psheds := rfl
@[simp] theorem modBox_stalls (n : Nat) (f : Mailbox → Mailbox) : (modBox s n f).stalls = s.stalls := rfl
@[simp] theorem modBox_routeA (n : Nat) (f : Mailbox → Mailbox) : (modBox s n f).routeA = s.routeA := rfl
@[simp] theorem modBox_routeB (n : Nat) (f : Mailbox → Mailbox) : (modBox s n f).routeB = s.routeB := rfl
@[simp] theorem modBox_track (n : Nat) (f : Mailbox → Mailbox) : (modBox s n f).track = s.track := rfl
@[simp] theorem modBox_nextId (n : Nat) (f : Mailbox → Mailbox) : (modBox s n f).nextId = s.nextId := rfl
@[simp] theorem modBox_rm (n : Nat) (f : Mailbox → Mailbox) : (modBox s n f).rm = s.rm := rfl
@[simp] theorem modBox_lunge (n : Nat) (f : Mailbox → Mailbox) : (modBox s n f).lunge = s.lunge := rfl
@[simp] theorem modBox_i3c (n : Nat) (f : Mailbox → Mailbox) : (modBox s n f).i3c = s.i3c := rfl
@[simp] theorem modBox_tap (n : Nat) (f : Mailbox → Mailbox) : (modBox s n f).tap = s.tap := rfl
@[simp] theorem modBox_pins (n : Nat) (f : Mailbox → Mailbox) : (modBox s n f).pins = s.pins := rfl
@[simp] theorem modBox_hmem (n : Nat) (f : Mailbox → Mailbox) : (modBox s n f).hmem = s.hmem := rfl
@[simp] theorem modBox_gwin (n : Nat) (f : Mailbox → Mailbox) : (modBox s n f).gwin = s.gwin := rfl
@[simp] theorem modBox_fresh (n : Nat) (f : Mailbox → Mailbox) : (modBox s n f).fresh = s.fresh := rfl
@[simp] theorem modBox_resp (n : Nat) (f : Mailbox → Mailbox) : (modBox s n f).resp = s.resp := rfl
@[simp] theorem modBox_pending (n : Nat) (f : Mailbox → Mailbox) : (modBox s n f).pending = s.pending := rfl

/-! `modRing`. -/

@[simp] theorem modRing_dev (r : Nat) (f : Ring → Ring) : (modRing s r f).dev = s.dev := rfl
@[simp] theorem modRing_fuses (r : Nat) (f : Ring → Ring) : (modRing s r f).fuses = s.fuses := rfl
@[simp] theorem modRing_grm (r : Nat) (f : Ring → Ring) : (modRing s r f).grm = s.grm := rfl
@[simp] theorem modRing_pwr (r : Nat) (f : Ring → Ring) : (modRing s r f).pwr = s.pwr := rfl
@[simp] theorem modRing_thm (r : Nat) (f : Ring → Ring) : (modRing s r f).thm = s.thm := rfl
@[simp] theorem modRing_err (r : Nat) (f : Ring → Ring) : (modRing s r f).err = s.err := rfl
@[simp] theorem modRing_sec (r : Nat) (f : Ring → Ring) : (modRing s r f).sec = s.sec := rfl
@[simp] theorem modRing_mbx (r : Nat) (f : Ring → Ring) : (modRing s r f).mbx = { s.mbx with rings := gmod s.mbx.rings r f } := rfl
@[simp] theorem modRing_mars (r : Nat) (f : Ring → Ring) : (modRing s r f).mars = s.mars := rfl
@[simp] theorem modRing_ports (r : Nat) (f : Ring → Ring) : (modRing s r f).ports = s.ports := rfl
@[simp] theorem modRing_yards (r : Nat) (f : Ring → Ring) : (modRing s r f).yards = s.yards := rfl
@[simp] theorem modRing_sheds (r : Nat) (f : Ring → Ring) : (modRing s r f).sheds = s.sheds := rfl
@[simp] theorem modRing_psheds (r : Nat) (f : Ring → Ring) : (modRing s r f).psheds = s.psheds := rfl
@[simp] theorem modRing_stalls (r : Nat) (f : Ring → Ring) : (modRing s r f).stalls = s.stalls := rfl
@[simp] theorem modRing_routeA (r : Nat) (f : Ring → Ring) : (modRing s r f).routeA = s.routeA := rfl
@[simp] theorem modRing_routeB (r : Nat) (f : Ring → Ring) : (modRing s r f).routeB = s.routeB := rfl
@[simp] theorem modRing_track (r : Nat) (f : Ring → Ring) : (modRing s r f).track = s.track := rfl
@[simp] theorem modRing_nextId (r : Nat) (f : Ring → Ring) : (modRing s r f).nextId = s.nextId := rfl
@[simp] theorem modRing_rm (r : Nat) (f : Ring → Ring) : (modRing s r f).rm = s.rm := rfl
@[simp] theorem modRing_lunge (r : Nat) (f : Ring → Ring) : (modRing s r f).lunge = s.lunge := rfl
@[simp] theorem modRing_i3c (r : Nat) (f : Ring → Ring) : (modRing s r f).i3c = s.i3c := rfl
@[simp] theorem modRing_tap (r : Nat) (f : Ring → Ring) : (modRing s r f).tap = s.tap := rfl
@[simp] theorem modRing_pins (r : Nat) (f : Ring → Ring) : (modRing s r f).pins = s.pins := rfl
@[simp] theorem modRing_hmem (r : Nat) (f : Ring → Ring) : (modRing s r f).hmem = s.hmem := rfl
@[simp] theorem modRing_gwin (r : Nat) (f : Ring → Ring) : (modRing s r f).gwin = s.gwin := rfl
@[simp] theorem modRing_fresh (r : Nat) (f : Ring → Ring) : (modRing s r f).fresh = s.fresh := rfl
@[simp] theorem modRing_resp (r : Nat) (f : Ring → Ring) : (modRing s r f).resp = s.resp := rfl
@[simp] theorem modRing_pending (r : Nat) (f : Ring → Ring) : (modRing s r f).pending = s.pending := rfl

/-! `modSeq`. -/

@[simp] theorem modSeq_dev (sid : Nat) (f : Seq → Seq) : (modSeq s sid f).dev = s.dev := rfl
@[simp] theorem modSeq_fuses (sid : Nat) (f : Seq → Seq) : (modSeq s sid f).fuses = s.fuses := rfl
@[simp] theorem modSeq_grm (sid : Nat) (f : Seq → Seq) : (modSeq s sid f).grm = s.grm := rfl
@[simp] theorem modSeq_pwr (sid : Nat) (f : Seq → Seq) : (modSeq s sid f).pwr = s.pwr := rfl
@[simp] theorem modSeq_thm (sid : Nat) (f : Seq → Seq) : (modSeq s sid f).thm = s.thm := rfl
@[simp] theorem modSeq_err (sid : Nat) (f : Seq → Seq) : (modSeq s sid f).err = s.err := rfl
@[simp] theorem modSeq_sec (sid : Nat) (f : Seq → Seq) : (modSeq s sid f).sec = s.sec := rfl
@[simp] theorem modSeq_mbx (sid : Nat) (f : Seq → Seq) : (modSeq s sid f).mbx = s.mbx := rfl
@[simp] theorem modSeq_mars (sid : Nat) (f : Seq → Seq) : (modSeq s sid f).mars = s.mars := rfl
@[simp] theorem modSeq_ports (sid : Nat) (f : Seq → Seq) : (modSeq s sid f).ports = s.ports := rfl
@[simp] theorem modSeq_yards (sid : Nat) (f : Seq → Seq) : (modSeq s sid f).yards = s.yards := rfl
@[simp] theorem modSeq_sheds (sid : Nat) (f : Seq → Seq) : (modSeq s sid f).sheds = s.sheds := rfl
@[simp] theorem modSeq_psheds (sid : Nat) (f : Seq → Seq) : (modSeq s sid f).psheds = s.psheds := rfl
@[simp] theorem modSeq_stalls (sid : Nat) (f : Seq → Seq) : (modSeq s sid f).stalls = gmod s.stalls sid fun t => { t with seq := f t.seq } := rfl
@[simp] theorem modSeq_routeA (sid : Nat) (f : Seq → Seq) : (modSeq s sid f).routeA = s.routeA := rfl
@[simp] theorem modSeq_routeB (sid : Nat) (f : Seq → Seq) : (modSeq s sid f).routeB = s.routeB := rfl
@[simp] theorem modSeq_track (sid : Nat) (f : Seq → Seq) : (modSeq s sid f).track = s.track := rfl
@[simp] theorem modSeq_nextId (sid : Nat) (f : Seq → Seq) : (modSeq s sid f).nextId = s.nextId := rfl
@[simp] theorem modSeq_rm (sid : Nat) (f : Seq → Seq) : (modSeq s sid f).rm = s.rm := rfl
@[simp] theorem modSeq_lunge (sid : Nat) (f : Seq → Seq) : (modSeq s sid f).lunge = s.lunge := rfl
@[simp] theorem modSeq_i3c (sid : Nat) (f : Seq → Seq) : (modSeq s sid f).i3c = s.i3c := rfl
@[simp] theorem modSeq_tap (sid : Nat) (f : Seq → Seq) : (modSeq s sid f).tap = s.tap := rfl
@[simp] theorem modSeq_pins (sid : Nat) (f : Seq → Seq) : (modSeq s sid f).pins = s.pins := rfl
@[simp] theorem modSeq_hmem (sid : Nat) (f : Seq → Seq) : (modSeq s sid f).hmem = s.hmem := rfl
@[simp] theorem modSeq_gwin (sid : Nat) (f : Seq → Seq) : (modSeq s sid f).gwin = s.gwin := rfl
@[simp] theorem modSeq_fresh (sid : Nat) (f : Seq → Seq) : (modSeq s sid f).fresh = s.fresh := rfl
@[simp] theorem modSeq_resp (sid : Nat) (f : Seq → Seq) : (modSeq s sid f).resp = s.resp := rfl
@[simp] theorem modSeq_pending (sid : Nat) (f : Seq → Seq) : (modSeq s sid f).pending = s.pending := rfl

/-! `modQu`. -/

@[simp] theorem modQu_dev (sid : Nat) (f : QueueUnit → QueueUnit) : (modQu s sid f).dev = s.dev := rfl
@[simp] theorem modQu_fuses (sid : Nat) (f : QueueUnit → QueueUnit) : (modQu s sid f).fuses = s.fuses := rfl
@[simp] theorem modQu_grm (sid : Nat) (f : QueueUnit → QueueUnit) : (modQu s sid f).grm = s.grm := rfl
@[simp] theorem modQu_pwr (sid : Nat) (f : QueueUnit → QueueUnit) : (modQu s sid f).pwr = s.pwr := rfl
@[simp] theorem modQu_thm (sid : Nat) (f : QueueUnit → QueueUnit) : (modQu s sid f).thm = s.thm := rfl
@[simp] theorem modQu_err (sid : Nat) (f : QueueUnit → QueueUnit) : (modQu s sid f).err = s.err := rfl
@[simp] theorem modQu_sec (sid : Nat) (f : QueueUnit → QueueUnit) : (modQu s sid f).sec = s.sec := rfl
@[simp] theorem modQu_mbx (sid : Nat) (f : QueueUnit → QueueUnit) : (modQu s sid f).mbx = s.mbx := rfl
@[simp] theorem modQu_mars (sid : Nat) (f : QueueUnit → QueueUnit) : (modQu s sid f).mars = s.mars := rfl
@[simp] theorem modQu_ports (sid : Nat) (f : QueueUnit → QueueUnit) : (modQu s sid f).ports = s.ports := rfl
@[simp] theorem modQu_yards (sid : Nat) (f : QueueUnit → QueueUnit) : (modQu s sid f).yards = s.yards := rfl
@[simp] theorem modQu_sheds (sid : Nat) (f : QueueUnit → QueueUnit) : (modQu s sid f).sheds = s.sheds := rfl
@[simp] theorem modQu_psheds (sid : Nat) (f : QueueUnit → QueueUnit) : (modQu s sid f).psheds = s.psheds := rfl
@[simp] theorem modQu_stalls (sid : Nat) (f : QueueUnit → QueueUnit) : (modQu s sid f).stalls = gmod s.stalls sid fun t => { t with qu := f t.qu } := rfl
@[simp] theorem modQu_routeA (sid : Nat) (f : QueueUnit → QueueUnit) : (modQu s sid f).routeA = s.routeA := rfl
@[simp] theorem modQu_routeB (sid : Nat) (f : QueueUnit → QueueUnit) : (modQu s sid f).routeB = s.routeB := rfl
@[simp] theorem modQu_track (sid : Nat) (f : QueueUnit → QueueUnit) : (modQu s sid f).track = s.track := rfl
@[simp] theorem modQu_nextId (sid : Nat) (f : QueueUnit → QueueUnit) : (modQu s sid f).nextId = s.nextId := rfl
@[simp] theorem modQu_rm (sid : Nat) (f : QueueUnit → QueueUnit) : (modQu s sid f).rm = s.rm := rfl
@[simp] theorem modQu_lunge (sid : Nat) (f : QueueUnit → QueueUnit) : (modQu s sid f).lunge = s.lunge := rfl
@[simp] theorem modQu_i3c (sid : Nat) (f : QueueUnit → QueueUnit) : (modQu s sid f).i3c = s.i3c := rfl
@[simp] theorem modQu_tap (sid : Nat) (f : QueueUnit → QueueUnit) : (modQu s sid f).tap = s.tap := rfl
@[simp] theorem modQu_pins (sid : Nat) (f : QueueUnit → QueueUnit) : (modQu s sid f).pins = s.pins := rfl
@[simp] theorem modQu_hmem (sid : Nat) (f : QueueUnit → QueueUnit) : (modQu s sid f).hmem = s.hmem := rfl
@[simp] theorem modQu_gwin (sid : Nat) (f : QueueUnit → QueueUnit) : (modQu s sid f).gwin = s.gwin := rfl
@[simp] theorem modQu_fresh (sid : Nat) (f : QueueUnit → QueueUnit) : (modQu s sid f).fresh = s.fresh := rfl
@[simp] theorem modQu_resp (sid : Nat) (f : QueueUnit → QueueUnit) : (modQu s sid f).resp = s.resp := rfl
@[simp] theorem modQu_pending (sid : Nat) (f : QueueUnit → QueueUnit) : (modQu s sid f).pending = s.pending := rfl

/-! `modEng`. -/

@[simp] theorem modEng_dev (sid : Nat) (f : Engines → Engines) : (modEng s sid f).dev = s.dev := rfl
@[simp] theorem modEng_fuses (sid : Nat) (f : Engines → Engines) : (modEng s sid f).fuses = s.fuses := rfl
@[simp] theorem modEng_grm (sid : Nat) (f : Engines → Engines) : (modEng s sid f).grm = s.grm := rfl
@[simp] theorem modEng_pwr (sid : Nat) (f : Engines → Engines) : (modEng s sid f).pwr = s.pwr := rfl
@[simp] theorem modEng_thm (sid : Nat) (f : Engines → Engines) : (modEng s sid f).thm = s.thm := rfl
@[simp] theorem modEng_err (sid : Nat) (f : Engines → Engines) : (modEng s sid f).err = s.err := rfl
@[simp] theorem modEng_sec (sid : Nat) (f : Engines → Engines) : (modEng s sid f).sec = s.sec := rfl
@[simp] theorem modEng_mbx (sid : Nat) (f : Engines → Engines) : (modEng s sid f).mbx = s.mbx := rfl
@[simp] theorem modEng_mars (sid : Nat) (f : Engines → Engines) : (modEng s sid f).mars = s.mars := rfl
@[simp] theorem modEng_ports (sid : Nat) (f : Engines → Engines) : (modEng s sid f).ports = s.ports := rfl
@[simp] theorem modEng_yards (sid : Nat) (f : Engines → Engines) : (modEng s sid f).yards = s.yards := rfl
@[simp] theorem modEng_sheds (sid : Nat) (f : Engines → Engines) : (modEng s sid f).sheds = s.sheds := rfl
@[simp] theorem modEng_psheds (sid : Nat) (f : Engines → Engines) : (modEng s sid f).psheds = s.psheds := rfl
@[simp] theorem modEng_stalls (sid : Nat) (f : Engines → Engines) : (modEng s sid f).stalls = gmod s.stalls sid fun t => { t with eng := f t.eng } := rfl
@[simp] theorem modEng_routeA (sid : Nat) (f : Engines → Engines) : (modEng s sid f).routeA = s.routeA := rfl
@[simp] theorem modEng_routeB (sid : Nat) (f : Engines → Engines) : (modEng s sid f).routeB = s.routeB := rfl
@[simp] theorem modEng_track (sid : Nat) (f : Engines → Engines) : (modEng s sid f).track = s.track := rfl
@[simp] theorem modEng_nextId (sid : Nat) (f : Engines → Engines) : (modEng s sid f).nextId = s.nextId := rfl
@[simp] theorem modEng_rm (sid : Nat) (f : Engines → Engines) : (modEng s sid f).rm = s.rm := rfl
@[simp] theorem modEng_lunge (sid : Nat) (f : Engines → Engines) : (modEng s sid f).lunge = s.lunge := rfl
@[simp] theorem modEng_i3c (sid : Nat) (f : Engines → Engines) : (modEng s sid f).i3c = s.i3c := rfl
@[simp] theorem modEng_tap (sid : Nat) (f : Engines → Engines) : (modEng s sid f).tap = s.tap := rfl
@[simp] theorem modEng_pins (sid : Nat) (f : Engines → Engines) : (modEng s sid f).pins = s.pins := rfl
@[simp] theorem modEng_hmem (sid : Nat) (f : Engines → Engines) : (modEng s sid f).hmem = s.hmem := rfl
@[simp] theorem modEng_gwin (sid : Nat) (f : Engines → Engines) : (modEng s sid f).gwin = s.gwin := rfl
@[simp] theorem modEng_fresh (sid : Nat) (f : Engines → Engines) : (modEng s sid f).fresh = s.fresh := rfl
@[simp] theorem modEng_resp (sid : Nat) (f : Engines → Engines) : (modEng s sid f).resp = s.resp := rfl
@[simp] theorem modEng_pending (sid : Nat) (f : Engines → Engines) : (modEng s sid f).pending = s.pending := rfl

/-! `modMem`. -/

@[simp] theorem modMem_dev (sid : Nat) (f : StallMem → StallMem) : (modMem s sid f).dev = s.dev := rfl
@[simp] theorem modMem_fuses (sid : Nat) (f : StallMem → StallMem) : (modMem s sid f).fuses = s.fuses := rfl
@[simp] theorem modMem_grm (sid : Nat) (f : StallMem → StallMem) : (modMem s sid f).grm = s.grm := rfl
@[simp] theorem modMem_pwr (sid : Nat) (f : StallMem → StallMem) : (modMem s sid f).pwr = s.pwr := rfl
@[simp] theorem modMem_thm (sid : Nat) (f : StallMem → StallMem) : (modMem s sid f).thm = s.thm := rfl
@[simp] theorem modMem_err (sid : Nat) (f : StallMem → StallMem) : (modMem s sid f).err = s.err := rfl
@[simp] theorem modMem_sec (sid : Nat) (f : StallMem → StallMem) : (modMem s sid f).sec = s.sec := rfl
@[simp] theorem modMem_mbx (sid : Nat) (f : StallMem → StallMem) : (modMem s sid f).mbx = s.mbx := rfl
@[simp] theorem modMem_mars (sid : Nat) (f : StallMem → StallMem) : (modMem s sid f).mars = s.mars := rfl
@[simp] theorem modMem_ports (sid : Nat) (f : StallMem → StallMem) : (modMem s sid f).ports = s.ports := rfl
@[simp] theorem modMem_yards (sid : Nat) (f : StallMem → StallMem) : (modMem s sid f).yards = s.yards := rfl
@[simp] theorem modMem_sheds (sid : Nat) (f : StallMem → StallMem) : (modMem s sid f).sheds = s.sheds := rfl
@[simp] theorem modMem_psheds (sid : Nat) (f : StallMem → StallMem) : (modMem s sid f).psheds = s.psheds := rfl
@[simp] theorem modMem_stalls (sid : Nat) (f : StallMem → StallMem) : (modMem s sid f).stalls = gmod s.stalls sid fun t => { t with mem := f t.mem } := rfl
@[simp] theorem modMem_routeA (sid : Nat) (f : StallMem → StallMem) : (modMem s sid f).routeA = s.routeA := rfl
@[simp] theorem modMem_routeB (sid : Nat) (f : StallMem → StallMem) : (modMem s sid f).routeB = s.routeB := rfl
@[simp] theorem modMem_track (sid : Nat) (f : StallMem → StallMem) : (modMem s sid f).track = s.track := rfl
@[simp] theorem modMem_nextId (sid : Nat) (f : StallMem → StallMem) : (modMem s sid f).nextId = s.nextId := rfl
@[simp] theorem modMem_rm (sid : Nat) (f : StallMem → StallMem) : (modMem s sid f).rm = s.rm := rfl
@[simp] theorem modMem_lunge (sid : Nat) (f : StallMem → StallMem) : (modMem s sid f).lunge = s.lunge := rfl
@[simp] theorem modMem_i3c (sid : Nat) (f : StallMem → StallMem) : (modMem s sid f).i3c = s.i3c := rfl
@[simp] theorem modMem_tap (sid : Nat) (f : StallMem → StallMem) : (modMem s sid f).tap = s.tap := rfl
@[simp] theorem modMem_pins (sid : Nat) (f : StallMem → StallMem) : (modMem s sid f).pins = s.pins := rfl
@[simp] theorem modMem_hmem (sid : Nat) (f : StallMem → StallMem) : (modMem s sid f).hmem = s.hmem := rfl
@[simp] theorem modMem_gwin (sid : Nat) (f : StallMem → StallMem) : (modMem s sid f).gwin = s.gwin := rfl
@[simp] theorem modMem_fresh (sid : Nat) (f : StallMem → StallMem) : (modMem s sid f).fresh = s.fresh := rfl
@[simp] theorem modMem_resp (sid : Nat) (f : StallMem → StallMem) : (modMem s sid f).resp = s.resp := rfl
@[simp] theorem modMem_pending (sid : Nat) (f : StallMem → StallMem) : (modMem s sid f).pending = s.pending := rfl

/-! `modCtx`. -/

@[simp] theorem modCtx_dev (p c : Nat) (f : StreamCtx → StreamCtx) : (modCtx s p c f).dev = s.dev := rfl
@[simp] theorem modCtx_fuses (p c : Nat) (f : StreamCtx → StreamCtx) : (modCtx s p c f).fuses = s.fuses := rfl
@[simp] theorem modCtx_grm (p c : Nat) (f : StreamCtx → StreamCtx) : (modCtx s p c f).grm = s.grm := rfl
@[simp] theorem modCtx_pwr (p c : Nat) (f : StreamCtx → StreamCtx) : (modCtx s p c f).pwr = s.pwr := rfl
@[simp] theorem modCtx_thm (p c : Nat) (f : StreamCtx → StreamCtx) : (modCtx s p c f).thm = s.thm := rfl
@[simp] theorem modCtx_err (p c : Nat) (f : StreamCtx → StreamCtx) : (modCtx s p c f).err = s.err := rfl
@[simp] theorem modCtx_sec (p c : Nat) (f : StreamCtx → StreamCtx) : (modCtx s p c f).sec = s.sec := rfl
@[simp] theorem modCtx_mbx (p c : Nat) (f : StreamCtx → StreamCtx) : (modCtx s p c f).mbx = s.mbx := rfl
@[simp] theorem modCtx_mars (p c : Nat) (f : StreamCtx → StreamCtx) : (modCtx s p c f).mars = s.mars := rfl
@[simp] theorem modCtx_ports (p c : Nat) (f : StreamCtx → StreamCtx) : (modCtx s p c f).ports = gmod s.ports p fun q => { q with ctxs := gmod q.ctxs c f } := rfl
@[simp] theorem modCtx_yards (p c : Nat) (f : StreamCtx → StreamCtx) : (modCtx s p c f).yards = s.yards := rfl
@[simp] theorem modCtx_sheds (p c : Nat) (f : StreamCtx → StreamCtx) : (modCtx s p c f).sheds = s.sheds := rfl
@[simp] theorem modCtx_psheds (p c : Nat) (f : StreamCtx → StreamCtx) : (modCtx s p c f).psheds = s.psheds := rfl
@[simp] theorem modCtx_stalls (p c : Nat) (f : StreamCtx → StreamCtx) : (modCtx s p c f).stalls = s.stalls := rfl
@[simp] theorem modCtx_routeA (p c : Nat) (f : StreamCtx → StreamCtx) : (modCtx s p c f).routeA = s.routeA := rfl
@[simp] theorem modCtx_routeB (p c : Nat) (f : StreamCtx → StreamCtx) : (modCtx s p c f).routeB = s.routeB := rfl
@[simp] theorem modCtx_track (p c : Nat) (f : StreamCtx → StreamCtx) : (modCtx s p c f).track = s.track := rfl
@[simp] theorem modCtx_nextId (p c : Nat) (f : StreamCtx → StreamCtx) : (modCtx s p c f).nextId = s.nextId := rfl
@[simp] theorem modCtx_rm (p c : Nat) (f : StreamCtx → StreamCtx) : (modCtx s p c f).rm = s.rm := rfl
@[simp] theorem modCtx_lunge (p c : Nat) (f : StreamCtx → StreamCtx) : (modCtx s p c f).lunge = s.lunge := rfl
@[simp] theorem modCtx_i3c (p c : Nat) (f : StreamCtx → StreamCtx) : (modCtx s p c f).i3c = s.i3c := rfl
@[simp] theorem modCtx_tap (p c : Nat) (f : StreamCtx → StreamCtx) : (modCtx s p c f).tap = s.tap := rfl
@[simp] theorem modCtx_pins (p c : Nat) (f : StreamCtx → StreamCtx) : (modCtx s p c f).pins = s.pins := rfl
@[simp] theorem modCtx_hmem (p c : Nat) (f : StreamCtx → StreamCtx) : (modCtx s p c f).hmem = s.hmem := rfl
@[simp] theorem modCtx_gwin (p c : Nat) (f : StreamCtx → StreamCtx) : (modCtx s p c f).gwin = s.gwin := rfl
@[simp] theorem modCtx_fresh (p c : Nat) (f : StreamCtx → StreamCtx) : (modCtx s p c f).fresh = s.fresh := rfl
@[simp] theorem modCtx_resp (p c : Nat) (f : StreamCtx → StreamCtx) : (modCtx s p c f).resp = s.resp := rfl
@[simp] theorem modCtx_pending (p c : Nat) (f : StreamCtx → StreamCtx) : (modCtx s p c f).pending = s.pending := rfl

/-! `putStall`. -/

@[simp] theorem putStall_dev (sid : Nat) (t : Stall) : (putStall s sid t).dev = s.dev := rfl
@[simp] theorem putStall_fuses (sid : Nat) (t : Stall) : (putStall s sid t).fuses = s.fuses := rfl
@[simp] theorem putStall_grm (sid : Nat) (t : Stall) : (putStall s sid t).grm = s.grm := rfl
@[simp] theorem putStall_pwr (sid : Nat) (t : Stall) : (putStall s sid t).pwr = s.pwr := rfl
@[simp] theorem putStall_thm (sid : Nat) (t : Stall) : (putStall s sid t).thm = s.thm := rfl
@[simp] theorem putStall_err (sid : Nat) (t : Stall) : (putStall s sid t).err = s.err := rfl
@[simp] theorem putStall_sec (sid : Nat) (t : Stall) : (putStall s sid t).sec = s.sec := rfl
@[simp] theorem putStall_mbx (sid : Nat) (t : Stall) : (putStall s sid t).mbx = s.mbx := rfl
@[simp] theorem putStall_mars (sid : Nat) (t : Stall) : (putStall s sid t).mars = s.mars := rfl
@[simp] theorem putStall_ports (sid : Nat) (t : Stall) : (putStall s sid t).ports = s.ports := rfl
@[simp] theorem putStall_yards (sid : Nat) (t : Stall) : (putStall s sid t).yards = s.yards := rfl
@[simp] theorem putStall_sheds (sid : Nat) (t : Stall) : (putStall s sid t).sheds = s.sheds := rfl
@[simp] theorem putStall_psheds (sid : Nat) (t : Stall) : (putStall s sid t).psheds = s.psheds := rfl
@[simp] theorem putStall_stalls (sid : Nat) (t : Stall) : (putStall s sid t).stalls = gset s.stalls sid t := rfl
@[simp] theorem putStall_routeA (sid : Nat) (t : Stall) : (putStall s sid t).routeA = s.routeA := rfl
@[simp] theorem putStall_routeB (sid : Nat) (t : Stall) : (putStall s sid t).routeB = s.routeB := rfl
@[simp] theorem putStall_track (sid : Nat) (t : Stall) : (putStall s sid t).track = s.track := rfl
@[simp] theorem putStall_nextId (sid : Nat) (t : Stall) : (putStall s sid t).nextId = s.nextId := rfl
@[simp] theorem putStall_rm (sid : Nat) (t : Stall) : (putStall s sid t).rm = s.rm := rfl
@[simp] theorem putStall_lunge (sid : Nat) (t : Stall) : (putStall s sid t).lunge = s.lunge := rfl
@[simp] theorem putStall_i3c (sid : Nat) (t : Stall) : (putStall s sid t).i3c = s.i3c := rfl
@[simp] theorem putStall_tap (sid : Nat) (t : Stall) : (putStall s sid t).tap = s.tap := rfl
@[simp] theorem putStall_pins (sid : Nat) (t : Stall) : (putStall s sid t).pins = s.pins := rfl
@[simp] theorem putStall_hmem (sid : Nat) (t : Stall) : (putStall s sid t).hmem = s.hmem := rfl
@[simp] theorem putStall_gwin (sid : Nat) (t : Stall) : (putStall s sid t).gwin = s.gwin := rfl
@[simp] theorem putStall_fresh (sid : Nat) (t : Stall) : (putStall s sid t).fresh = s.fresh := rfl
@[simp] theorem putStall_resp (sid : Nat) (t : Stall) : (putStall s sid t).resp = s.resp := rfl
@[simp] theorem putStall_pending (sid : Nat) (t : Stall) : (putStall s sid t).pending = s.pending := rfl

/-! `raiseIrq`. -/

@[simp] theorem raiseIrq_dev (c : Nat) : (raiseIrq s c).dev = s.dev := rfl
@[simp] theorem raiseIrq_fuses (c : Nat) : (raiseIrq s c).fuses = s.fuses := rfl
@[simp] theorem raiseIrq_grm (c : Nat) : (raiseIrq s c).grm = s.grm := rfl
@[simp] theorem raiseIrq_pwr (c : Nat) : (raiseIrq s c).pwr = s.pwr := rfl
@[simp] theorem raiseIrq_thm (c : Nat) : (raiseIrq s c).thm = s.thm := rfl
@[simp] theorem raiseIrq_err (c : Nat) : (raiseIrq s c).err = s.err := rfl
@[simp] theorem raiseIrq_sec (c : Nat) : (raiseIrq s c).sec = s.sec := rfl
@[simp] theorem raiseIrq_mbx (c : Nat) : (raiseIrq s c).mbx = { s.mbx with irqs := s.mbx.irqs ++ [c] } := rfl
@[simp] theorem raiseIrq_mars (c : Nat) : (raiseIrq s c).mars = s.mars := rfl
@[simp] theorem raiseIrq_ports (c : Nat) : (raiseIrq s c).ports = s.ports := rfl
@[simp] theorem raiseIrq_yards (c : Nat) : (raiseIrq s c).yards = s.yards := rfl
@[simp] theorem raiseIrq_sheds (c : Nat) : (raiseIrq s c).sheds = s.sheds := rfl
@[simp] theorem raiseIrq_psheds (c : Nat) : (raiseIrq s c).psheds = s.psheds := rfl
@[simp] theorem raiseIrq_stalls (c : Nat) : (raiseIrq s c).stalls = s.stalls := rfl
@[simp] theorem raiseIrq_routeA (c : Nat) : (raiseIrq s c).routeA = s.routeA := rfl
@[simp] theorem raiseIrq_routeB (c : Nat) : (raiseIrq s c).routeB = s.routeB := rfl
@[simp] theorem raiseIrq_track (c : Nat) : (raiseIrq s c).track = s.track := rfl
@[simp] theorem raiseIrq_nextId (c : Nat) : (raiseIrq s c).nextId = s.nextId := rfl
@[simp] theorem raiseIrq_rm (c : Nat) : (raiseIrq s c).rm = s.rm := rfl
@[simp] theorem raiseIrq_lunge (c : Nat) : (raiseIrq s c).lunge = s.lunge := rfl
@[simp] theorem raiseIrq_i3c (c : Nat) : (raiseIrq s c).i3c = s.i3c := rfl
@[simp] theorem raiseIrq_tap (c : Nat) : (raiseIrq s c).tap = s.tap := rfl
@[simp] theorem raiseIrq_pins (c : Nat) : (raiseIrq s c).pins = s.pins := rfl
@[simp] theorem raiseIrq_hmem (c : Nat) : (raiseIrq s c).hmem = s.hmem := rfl
@[simp] theorem raiseIrq_gwin (c : Nat) : (raiseIrq s c).gwin = s.gwin := rfl
@[simp] theorem raiseIrq_fresh (c : Nat) : (raiseIrq s c).fresh = s.fresh := rfl
@[simp] theorem raiseIrq_resp (c : Nat) : (raiseIrq s c).resp = s.resp := rfl
@[simp] theorem raiseIrq_pending (c : Nat) : (raiseIrq s c).pending = s.pending := rfl

end Sys2Proof.Machine
end

