-- ==== Sys2Proof/Laws/Keeps.lean ====
section
/-! SUPPORT. What every shared operation keeps of a state (Safety, `Keeps`): one lemma for each operation of Ops, Origins, Link, Abort and Operands. -/

set_option Elab.async false
set_option linter.all false

namespace Sys2Proof.Machine

theorem Keeps.upd {c s : State} (h : Keeps c s) {dev grm pwr thm err sec mbx mars ports yards sheds psheds stalls routeA routeB track nextId rm lunge i3c tap pins fresh resp hmem gwin}
    (hs : Keeps c s → gwf sec.places = true) (hx : Keeps c s → gwf mbx.boxes = true) (hr : Keeps c s → gwf mbx.rings = true)
    (hm : Keeps c s → gwf mars.buckets = true) (hp : Keeps c s → gwf ports = true)
    (hy : Keeps c s → gwf yards = true) (hsh : Keeps c s → gwf sheds = true) (hps : Keeps c s → gwf psheds = true)
    (hst : Keeps c s → gwf stalls = true) (hh : Keeps c s → Memory.wf hmem = true) (hg : Keeps c s → Memory.wf gwin = true) :
    Keeps c (State.mk dev s.fuses grm pwr thm err sec mbx mars ports yards sheds psheds stalls routeA routeB track nextId rm lunge i3c tap pins hmem gwin fresh resp s.pending) :=
  ⟨h.pending, h.fuses, h.arb, ⟨h.inRange.wf, h.inRange.bound⟩, ⟨hst h, hsh h, hy h, hps h, hp h, hs h, hm h, hx h, hr h, hh h, hg h⟩⟩

theorem Keeps.ite {c a b : State} {p : Prop} [Decidable p] (ha : Keeps c a) (hb : Keeps c b) : Keeps c (if p then a else b) := by
  split <;> assumption

theorem Keeps.foldl {c s : State} {α : Type} {f : State → α → State} {l : List α} (h : Keeps c s) (hf : ∀ s x, Keeps c s → Keeps c (f s x)) : Keeps c (l.foldl f s) := by
  induction l generalizing s with
  | nil => exact h
  | cons x l ih => exact ih (hf _ _ h)

def WordKeeps (c : State) : WordEnd → Prop
  | .retire s _ _ => Keeps c s
  | .jump s _ _ => Keeps c s
  | .skipTo s _ _ => Keeps c s
  | .hold s _ => Keeps c s
  | .fault s _ => Keeps c s
  | .done s => Keeps c s

def OptKeeps (c : State) : Option State → Prop
  | some s => Keeps c s
  | none => True

def OutKeeps (c : State) : Host.Outcome State Fault Refusal → Prop
  | .next s => Keeps c s
  | .fault _ => True
  | .refused _ => True

theorem WordKeeps.ite {c : State} {a b : WordEnd} {p : Prop} [Decidable p] (ha : WordKeeps c a) (hb : WordKeeps c b) : WordKeeps c (if p then a else b) := by
  split <;> assumption

theorem WordKeeps.retire {c s : State} (h : Keeps c s) (n p) : WordKeeps c (.retire s n p) := h
theorem WordKeeps.jump {c s : State} (h : Keeps c s) (n p) : WordKeeps c (.jump s n p) := h
theorem WordKeeps.skipTo {c s : State} (h : Keeps c s) (n p) : WordKeeps c (.skipTo s n p) := h
theorem WordKeeps.hold {c s : State} (h : Keeps c s) (n) : WordKeeps c (.hold s n) := h
theorem WordKeeps.fault {c s : State} (h : Keeps c s) (n) : WordKeeps c (.fault s n) := h
theorem WordKeeps.done {c s : State} (h : Keeps c s) : WordKeeps c (.done s) := h
theorem OutKeeps.next {c s : State} (h : Keeps c s) : OutKeeps c (.next s) := h
theorem OptKeeps.some {c s : State} (h : Keeps c s) : OptKeeps c (Option.some s) := h
theorem OptKeeps.none {c : State} : OptKeeps c Option.none := trivial
theorem OptKeeps.ite {c : State} {a b : Option State} {p : Prop} [Decidable p] (ha : OptKeeps c a) (hb : OptKeeps c b) : OptKeeps c (if p then a else b) := by
  split <;> assumption
theorem OutKeeps.ite {c : State} {a b : Host.Outcome State Fault Refusal} {p : Prop} [Decidable p] (ha : OutKeeps c a) (hb : OutKeeps c b) : OutKeeps c (if p then a else b) := by
  split <;> assumption


/-! Ops. -/

theorem modStall_keeps {base s : State} (hk : Keeps base s) (sid : Nat) (f : Stall → Stall) : Keeps base (modStall s sid f) := by
  unfold modStall
  repeat' first
    | with_reducible assumption
    | intro _
    | dsimp only
    | with_reducible refine Keeps.upd ?_ ?_ ?_ ?_ ?_ ?_ ?_ ?_ ?_ ?_ ?_ ?_
    | (obtain ⟨⟩ := ‹Keeps base _›.canon; repeat' (first | with_reducible assumption | with_reducible apply gwf_gmod))

theorem modShed_keeps {base s : State} (hk : Keeps base s) (k : Nat) (f : Shed → Shed) : Keeps base (modShed s k f) := by
  unfold modShed
  repeat' first
    | with_reducible assumption
    | intro _
    | dsimp only
    | with_reducible refine Keeps.upd ?_ ?_ ?_ ?_ ?_ ?_ ?_ ?_ ?_ ?_ ?_ ?_
    | (obtain ⟨⟩ := ‹Keeps base _›.canon; repeat' (first | with_reducible assumption | with_reducible apply gwf_gmod))

theorem modYard_keeps {base s : State} (hk : Keeps base s) (y : Nat) (f : Yard → Yard) : Keeps base (modYard s y f) := by
  unfold modYard
  repeat' first
    | with_reducible assumption
    | intro _
    | dsimp only
    | with_reducible refine Keeps.upd ?_ ?_ ?_ ?_ ?_ ?_ ?_ ?_ ?_ ?_ ?_ ?_
    | (obtain ⟨⟩ := ‹Keeps base _›.canon; repeat' (first | with_reducible assumption | with_reducible apply gwf_gmod))

theorem modPShed_keeps {base s : State} (hk : Keeps base s) (n : Nat) (f : PShed → PShed) : Keeps base (modPShed s n f) := by
  unfold modPShed
  repeat' first
    | with_reducible assumption
    | intro _
    | dsimp only
    | with_reducible refine Keeps.upd ?_ ?_ ?_ ?_ ?_ ?_ ?_ ?_ ?_ ?_ ?_ ?_
    | (obtain ⟨⟩ := ‹Keeps base _›.canon; repeat' (first | with_reducible assumption | with_reducible apply gwf_gmod))

theorem modPort_keeps {base s : State} (hk : Keeps base s) (p : Nat) (f : Port → Port) : Keeps base (modPort s p f) := by
  unfold modPort
  repeat' first
    | with_reducible assumption
    | intro _
    | dsimp only
    | with_reducible refine Keeps.upd ?_ ?_ ?_ ?_ ?_ ?_ ?_ ?_ ?_ ?_ ?_ ?_
    | (obtain ⟨⟩ := ‹Keeps base _›.canon; repeat' (first | with_reducible assumption | with_reducible apply gwf_gmod))

theorem modPlace_keeps {base s : State} (hk : Keeps base s) (p : Nat) (f : Place → Place) : Keeps base (modPlace s p f) := by
  unfold modPlace
  repeat' first
    | with_reducible assumption
    | intro _
    | dsimp only
    | with_reducible refine Keeps.upd ?_ ?_ ?_ ?_ ?_ ?_ ?_ ?_ ?_ ?_ ?_ ?_
    | (obtain ⟨⟩ := ‹Keeps base _›.canon; repeat' (first | with_reducible assumption | with_reducible apply gwf_gmod))

theorem modBucket_keeps {base s : State} (hk : Keeps base s) (c : Nat) (f : Bucket → Bucket) : Keeps base (modBucket s c f) := by
  unfold modBucket
  repeat' first
    | with_reducible assumption
    | intro _
    | dsimp only
    | with_reducible refine Keeps.upd ?_ ?_ ?_ ?_ ?_ ?_ ?_ ?_ ?_ ?_ ?_ ?_
    | (obtain ⟨⟩ := ‹Keeps base _›.canon; repeat' (first | with_reducible assumption | with_reducible apply gwf_gmod))

theorem modBox_keeps {base s : State} (hk : Keeps base s) (n : Nat) (f : Mailbox → Mailbox) : Keeps base (modBox s n f) := by
  unfold modBox
  repeat' first
    | with_reducible assumption
    | intro _
    | dsimp only
    | with_reducible refine Keeps.upd ?_ ?_ ?_ ?_ ?_ ?_ ?_ ?_ ?_ ?_ ?_ ?_
    | (obtain ⟨⟩ := ‹Keeps base _›.canon; repeat' (first | with_reducible assumption | with_reducible apply gwf_gmod))

theorem modRing_keeps {base s : State} (hk : Keeps base s) (r : Nat) (f : Ring → Ring) : Keeps base (modRing s r f) := by
  unfold modRing
  repeat' first
    | with_reducible assumption
    | intro _
    | dsimp only
    | with_reducible refine Keeps.upd ?_ ?_ ?_ ?_ ?_ ?_ ?_ ?_ ?_ ?_ ?_ ?_
    | (obtain ⟨⟩ := ‹Keeps base _›.canon; repeat' (first | with_reducible assumption | with_reducible apply gwf_gmod))

theorem modCtx_keeps {base s : State} (hk : Keeps base s) (p : Nat) (c : Nat) (f : StreamCtx → StreamCtx) : Keeps base (modCtx s p c f) := by
  unfold modCtx
  repeat' first
    | with_reducible assumption
    | with_reducible apply modPort_keeps
    | intro _
    | dsimp only
    | with_reducible refine Keeps.upd ?_ ?_ ?_ ?_ ?_ ?_ ?_ ?_ ?_ ?_ ?_ ?_
    | (obtain ⟨⟩ := ‹Keeps base _›.canon; repeat' (first | with_reducible assumption | with_reducible apply gwf_gmod))

theorem modSeq_keeps {base s : State} (hk : Keeps base s) (sid : Nat) (f : Seq → Seq) : Keeps base (modSeq s sid f) := by
  unfold modSeq
  repeat' first
    | with_reducible assumption
    | with_reducible apply modStall_keeps
    | intro _
    | dsimp only
    | with_reducible refine Keeps.upd ?_ ?_ ?_ ?_ ?_ ?_ ?_ ?_ ?_ ?_ ?_ ?_
    | (obtain ⟨⟩ := ‹Keeps base _›.canon; with_reducible assumption)

theorem modQu_keeps {base s : State} (hk : Keeps base s) (sid : Nat) (f : QueueUnit → QueueUnit) : Keeps base (modQu s sid f) := by
  unfold modQu
  repeat' first
    | with_reducible assumption
    | with_reducible apply modStall_keeps
    | intro _
    | dsimp only
    | with_reducible refine Keeps.upd ?_ ?_ ?_ ?_ ?_ ?_ ?_ ?_ ?_ ?_ ?_ ?_
    | (obtain ⟨⟩ := ‹Keeps base _›.canon; with_reducible assumption)

theorem modEng_keeps {base s : State} (hk : Keeps base s) (sid : Nat) (f : Engines → Engines) : Keeps base (modEng s sid f) := by
  unfold modEng
  repeat' first
    | with_reducible assumption
    | with_reducible apply modStall_keeps
    | intro _
    | dsimp only
    | with_reducible refine Keeps.upd ?_ ?_ ?_ ?_ ?_ ?_ ?_ ?_ ?_ ?_ ?_ ?_
    | (obtain ⟨⟩ := ‹Keeps base _›.canon; with_reducible assumption)

theorem modMem_keeps {base s : State} (hk : Keeps base s) (sid : Nat) (f : StallMem → StallMem) : Keeps base (modMem s sid f) := by
  unfold modMem
  repeat' first
    | with_reducible assumption
    | with_reducible apply modStall_keeps
    | intro _
    | dsimp only
    | with_reducible refine Keeps.upd ?_ ?_ ?_ ?_ ?_ ?_ ?_ ?_ ?_ ?_ ?_ ?_
    | (obtain ⟨⟩ := ‹Keeps base _›.canon; with_reducible assumption)

theorem raiseIrq_keeps {base s : State} (hk : Keeps base s) (c : Nat) : Keeps base (raiseIrq s c) := by
  unfold raiseIrq
  repeat' first
    | with_reducible assumption
    | intro _
    | dsimp only
    | with_reducible refine Keeps.upd ?_ ?_ ?_ ?_ ?_ ?_ ?_ ?_ ?_ ?_ ?_ ?_
    | (obtain ⟨⟩ := ‹Keeps base _›.canon; with_reducible assumption)

theorem callCore_keeps {base s : State} (hk : Keeps base s) (n : Nat) (old : Nat) : Keeps base (callCore s n old) := by
  unfold callCore
  repeat' first
    | with_reducible assumption
    | with_reducible apply raiseIrq_keeps
    | with_reducible apply Keeps.ite
    | intro _
    | dsimp only
    | split

theorem ringCore_keeps {base s : State} (hk : Keeps base s) (n : Nat) (bits : Nat) : Keeps base (ringCore s n bits) := by
  unfold ringCore
  repeat' first
    | with_reducible assumption
    | with_reducible apply modBox_keeps
    | with_reducible apply callCore_keeps
    | intro _
    | dsimp only
    | with_reducible refine Keeps.upd ?_ ?_ ?_ ?_ ?_ ?_ ?_ ?_ ?_ ?_ ?_ ?_
    | (obtain ⟨⟩ := ‹Keeps base _›.canon; with_reducible assumption)

theorem journal_keeps {base s : State} (hk : Keeps base s) (kind : Nat) (body : List Nat) : Keeps base (journal s kind body) := by
  unfold journal
  repeat' first
    | with_reducible assumption
    | with_reducible apply Keeps.ite
    | intro _
    | dsimp only
    | split
    | with_reducible refine Keeps.upd ?_ ?_ ?_ ?_ ?_ ?_ ?_ ?_ ?_ ?_ ?_ ?_
    | (obtain ⟨⟩ := ‹Keeps base _›.canon; with_reducible assumption)

theorem markSheds_keeps {base s : State} (hk : Keeps base s) (code : Nat) (src : Src) : Keeps base (markSheds s code src) := by
  cases src
  case stall => exact modShed_keeps hk _ _
  case shed => exact modShed_keeps hk _ _
  case yard =>
    refine Keeps.upd hk ?_ ?_ ?_ ?_ ?_ ?_ (fun h => gwf_gmodKeys h.canon.sheds _ _) ?_ ?_ ?_ ?_ <;>
      (intro h; obtain ⟨⟩ := h.canon; assumption)
  case port => exact hk
  case ring => exact hk
  case device => exact hk

theorem recordWith_keeps {base s : State} (hk : Keeps base s) (code : Nat) (src : Src) (enters : Bool) : Keeps base (recordWith s code src enters) := by
  unfold recordWith
  repeat' first
    | with_reducible assumption
    | with_reducible apply raiseIrq_keeps
    | with_reducible apply ringCore_keeps
    | with_reducible apply journal_keeps
    | with_reducible apply markSheds_keeps
    | with_reducible apply Keeps.ite
    | intro _
    | dsimp only
    | split
    | with_reducible refine Keeps.upd ?_ ?_ ?_ ?_ ?_ ?_ ?_ ?_ ?_ ?_ ?_ ?_
    | (obtain ⟨⟩ := ‹Keeps base _›.canon; with_reducible assumption)

theorem record_keeps {base s : State} (hk : Keeps base s) (code : Nat) (src : Src) : Keeps base (record s code src) := by
  unfold record
  repeat' first
    | with_reducible assumption
    | with_reducible apply recordWith_keeps
    | intro _
    | dsimp only

theorem staleDrop_keeps {base s : State} (hk : Keeps base s) (sid : Nat) : Keeps base (staleDrop s sid) := by
  unfold staleDrop
  repeat' first
    | with_reducible assumption
    | with_reducible apply record_keeps
    | intro _
    | dsimp only
    | with_reducible refine Keeps.upd ?_ ?_ ?_ ?_ ?_ ?_ ?_ ?_ ?_ ?_ ?_ ?_
    | (obtain ⟨⟩ := ‹Keeps base _›.canon; with_reducible assumption)

/-! Origins. -/

theorem answer_keeps {base s : State} (hk : Keeps base s) (status : Nat) (data : Word64) (bytes : List Byte) : Keeps base (answer s status data bytes) := by
  unfold answer
  repeat' first
    | with_reducible assumption
    | intro _
    | dsimp only
    | with_reducible refine Keeps.upd ?_ ?_ ?_ ?_ ?_ ?_ ?_ ?_ ?_ ?_ ?_ ?_
    | (obtain ⟨⟩ := ‹Keeps base _›.canon; with_reducible assumption)

theorem asAuth_keeps {base s : State} (hk : Keeps base s) (o : Origin) {f : State → State} (hf : Keeps base s → Keeps base (f s)) :
    Keeps base (asAuth o s f) := Keeps.ite (answer_keeps (hf hk) ..) (answer_keeps hk ..)

theorem asHostler_keeps {base s : State} (hk : Keeps base s) (o : Origin) {f : State → State} (hf : Keeps base s → Keeps base (f s)) :
    Keeps base (asHostler o s f) := Keeps.ite (answer_keeps (hf hk) ..) (answer_keeps hk ..)

/-! Link. -/

theorem sendCar_keeps {base s : State} (hk : Keeps base s) (p : Nat) (c : TxCar) : Keeps base (sendCar s p c) := by
  unfold sendCar
  repeat' first
    | with_reducible assumption
    | with_reducible apply modPort_keeps
    | with_reducible apply Keeps.ite
    | intro _
    | dsimp only
    | split
    | with_reducible refine Keeps.upd ?_ ?_ ?_ ?_ ?_ ?_ ?_ ?_ ?_ ?_ ?_ ?_
    | (obtain ⟨⟩ := ‹Keeps base _›.canon; with_reducible assumption)

theorem sendPlain_keeps {base s : State} (hk : Keeps base s) (p : Nat) (c : TxCar) : Keeps base (sendPlain s p c) := by
  unfold sendPlain
  repeat' first
    | with_reducible assumption
    | with_reducible apply modPort_keeps
    | intro _
    | dsimp only
    | with_reducible refine Keeps.upd ?_ ?_ ?_ ?_ ?_ ?_ ?_ ?_ ?_ ?_ ?_ ?_
    | (obtain ⟨⟩ := ‹Keeps base _›.canon; with_reducible assumption)

theorem sendSctl_keeps {base s : State} (hk : Keeps base s) (p : Nat) (kind : Nat) (id : Nat) (a0 : Nat) (a1 : Nat) (a2 : Nat) : Keeps base (sendSctl s p kind id a0 a1 a2) := by
  unfold sendSctl
  repeat' first
    | with_reducible assumption
    | with_reducible apply sendCar_keeps
    | intro _
    | dsimp only

theorem linkAuth_keeps {base s : State} (hk : Keeps base s) (p : Nat) : Keeps base (linkAuth s p) := by
  unfold linkAuth
  repeat' first
    | with_reducible assumption
    | with_reducible apply modPort_keeps
    | with_reducible apply record_keeps
    | intro _
    | dsimp only
    | with_reducible refine Keeps.upd ?_ ?_ ?_ ?_ ?_ ?_ ?_ ?_ ?_ ?_ ?_ ?_
    | (obtain ⟨⟩ := ‹Keeps base _›.canon; with_reducible assumption)

theorem linkBer_keeps {base s : State} (hk : Keeps base s) (p : Nat) : Keeps base (linkBer s p) := by
  unfold linkBer
  repeat' first
    | with_reducible assumption
    | with_reducible apply modPort_keeps
    | with_reducible apply record_keeps
    | intro _
    | dsimp only
    | with_reducible refine Keeps.upd ?_ ?_ ?_ ?_ ?_ ?_ ?_ ?_ ?_ ?_ ?_ ?_
    | (obtain ⟨⟩ := ‹Keeps base _›.canon; with_reducible assumption)

theorem fixSource_keeps {base s : State} (hk : Keeps base s)  : Keeps base (fixSource s) := by
  unfold fixSource
  repeat' first
    | with_reducible assumption
    | intro _
    | dsimp only
    | with_reducible refine Keeps.upd ?_ ?_ ?_ ?_ ?_ ?_ ?_ ?_ ?_ ?_ ?_ ?_
    | (obtain ⟨⟩ := ‹Keeps base _›.canon; with_reducible assumption)

theorem portState_keeps {base s : State} (hk : Keeps base s) (p : Nat) (f : Port → Port) : Keeps base (portState s p f) := by
  unfold portState
  repeat' first
    | with_reducible assumption
    | with_reducible apply fixSource_keeps
    | with_reducible apply modPort_keeps
    | intro _
    | dsimp only

/-! Abort. -/

theorem failLoads_keeps {base s : State} (hk : Keeps base s) (id : Nat) : Keeps base (failLoads s id) := by
  unfold failLoads
  repeat' first
    | with_reducible assumption
    | with_reducible apply Keeps.ite
    | intro _
    | dsimp only
    | split
    | with_reducible refine Keeps.upd ?_ ?_ ?_ ?_ ?_ ?_ ?_ ?_ ?_ ?_ ?_ ?_
    | (obtain ⟨⟩ := ‹Keeps base _›.canon; repeat' (first | with_reducible assumption | with_reducible apply gwf_gmapAll))

theorem stopStream_keeps {base s : State} (hk : Keeps base s) (p : Nat) (c : Nat) (st : Nat) : Keeps base (stopStream s p c st) := by
  unfold stopStream
  repeat' first
    | with_reducible assumption
    | with_reducible apply failLoads_keeps
    | with_reducible apply sendSctl_keeps
    | with_reducible apply modPort_keeps
    | with_reducible apply modCtx_keeps
    | with_reducible apply Keeps.ite
    | intro _
    | dsimp only
    | split
    | with_reducible refine Keeps.upd ?_ ?_ ?_ ?_ ?_ ?_ ?_ ?_ ?_ ?_ ?_ ?_
    | (obtain ⟨⟩ := ‹Keeps base _›.canon; with_reducible assumption)

theorem sendResend_keeps {base s : State} (hk : Keeps base s) (p : Nat) (c : Nat) (b : Nat) : Keeps base (sendResend s p c b) := by
  unfold sendResend
  repeat' first
    | with_reducible assumption
    | with_reducible apply sendSctl_keeps
    | with_reducible apply modCtx_keeps
    | intro _
    | dsimp only
    | with_reducible refine Keeps.upd ?_ ?_ ?_ ?_ ?_ ?_ ?_ ?_ ?_ ?_ ?_ ?_
    | (obtain ⟨⟩ := ‹Keeps base _›.canon; with_reducible assumption)

theorem slotFreed_keeps {base s : State} (hk : Keeps base s) (p : Nat) : Keeps base (slotFreed s p) := by
  refine Keeps.foldl hk (fun t x ht => ?_)
  dsimp only
  split
  · exact Keeps.ite (sendResend_keeps (modCtx_keeps ht ..) ..) ht
  · exact ht

theorem cancelBound_keeps {base s : State} (hk : Keeps base s)  : Keeps base (cancelBound s) := by
  unfold cancelBound
  repeat' first
    | with_reducible assumption
    | with_reducible apply stopStream_keeps
    | with_reducible apply slotFreed_keeps
    | with_reducible refine Keeps.foldl ?_ (fun _ _ _ => ?_)
    | intro _
    | dsimp only

theorem fixHeld_keeps {base s : State} (hk : Keeps base s)  : Keeps base (fixHeld s) := by
  unfold fixHeld
  repeat' first
    | with_reducible assumption
    | with_reducible apply Keeps.ite
    | intro _
    | dsimp only
    | split
    | with_reducible refine Keeps.upd ?_ ?_ ?_ ?_ ?_ ?_ ?_ ?_ ?_ ?_ ?_ ?_
    | (obtain ⟨⟩ := ‹Keeps base _›.canon; with_reducible assumption)

theorem gradCheck_keeps {base s : State} (hk : Keeps base s) (c : Nat) (cause : Nat) : Keeps base (gradCheck s c cause) := by
  unfold gradCheck
  repeat' first
    | with_reducible assumption
    | with_reducible apply modBucket_keeps
    | with_reducible apply record_keeps
    | intro _
    | dsimp only
    | with_reducible refine Keeps.upd ?_ ?_ ?_ ?_ ?_ ?_ ?_ ?_ ?_ ?_ ?_ ?_
    | (obtain ⟨⟩ := ‹Keeps base _›.canon; with_reducible assumption)

theorem bucketEnd_keeps {base s : State} (hk : Keeps base s) (clean : Bool) (c : Nat) : Keeps base (bucketEnd clean s c) := by
  unfold bucketEnd
  repeat' first
    | with_reducible assumption
    | with_reducible apply gradCheck_keeps
    | with_reducible apply modBucket_keeps
    | with_reducible apply Keeps.ite
    | intro _
    | dsimp only
    | split
    | with_reducible refine Keeps.upd ?_ ?_ ?_ ?_ ?_ ?_ ?_ ?_ ?_ ?_ ?_ ?_
    | (obtain ⟨⟩ := ‹Keeps base _›.canon; with_reducible assumption)

theorem bucketsEnd_keeps {base s : State} (hk : Keeps base s) (clean : Bool) : Keeps base (bucketsEnd s clean) := by
  unfold bucketsEnd
  repeat' first
    | with_reducible assumption
    | with_reducible apply bucketEnd_keeps
    | with_reducible refine Keeps.foldl ?_ (fun _ _ _ => ?_)
    | intro _
    | dsimp only

theorem abortNow_keeps {base s : State} (hk : Keeps base s) (p : Nat) (cause : Nat) : Keeps base (abortNow s p cause) := by
  unfold abortNow takeFresh
  with_reducible refine Keeps.upd (s := bucketsEnd _ _) ?_ ?_ ?_ ?_ ?_ ?_ ?_ ?_ ?_ (fun h => gwf_gmapAll h.canon.stalls _) ?_ ?_
  · with_reducible apply bucketsEnd_keeps
    with_reducible apply cancelBound_keeps
    with_reducible refine Keeps.upd ?_ ?_ ?_ ?_ ?_ ?_ ?_ ?_ ?_ ?_ ?_ ?_
    · with_reducible apply modPlace_keeps
      with_reducible refine Keeps.upd hk ?_ ?_ ?_ ?_ ?_ ?_ ?_ ?_ ?_ ?_ ?_
      all_goals (intro h; obtain ⟨⟩ := h.canon; with_reducible assumption)
    all_goals (intro h; obtain ⟨⟩ := h.canon; with_reducible assumption)
  all_goals (intro h; obtain ⟨⟩ := h.canon; with_reducible assumption)

theorem abortLate_keeps {base s : State} (hk : Keeps base s) (cause : Nat) : Keeps base (abortLate s cause) := by
  unfold abortLate
  repeat' first
    | with_reducible assumption
    | with_reducible apply record_keeps
    | intro _
    | dsimp only
    | with_reducible refine Keeps.upd ?_ ?_ ?_ ?_ ?_ ?_ ?_ ?_ ?_ ?_ ?_ ?_
    | (obtain ⟨⟩ := ‹Keeps base _›.canon; with_reducible assumption)

theorem requestAbort_keeps {base s : State} (hk : Keeps base s) (cause : Nat) : Keeps base (requestAbort s cause) := by
  unfold requestAbort
  repeat' first
    | with_reducible assumption
    | with_reducible apply abortNow_keeps
    | with_reducible apply abortLate_keeps
    | intro _
    | dsimp only
    | split
    | with_reducible refine Keeps.upd ?_ ?_ ?_ ?_ ?_ ?_ ?_ ?_ ?_ ?_ ?_ ?_
    | (obtain ⟨⟩ := ‹Keeps base _›.canon; with_reducible assumption)

theorem hwAbort_keeps {base s : State} (hk : Keeps base s) (cause : Nat) : Keeps base (hwAbort s cause) := by
  unfold hwAbort
  repeat' first
    | with_reducible assumption
    | with_reducible apply abortNow_keeps
    | intro _
    | dsimp only
    | split
    | with_reducible refine Keeps.upd ?_ ?_ ?_ ?_ ?_ ?_ ?_ ?_ ?_ ?_ ?_ ?_
    | (obtain ⟨⟩ := ‹Keeps base _›.canon; with_reducible assumption)

theorem stallFault_keeps {base s : State} (hk : Keeps base s) (sid : Nat) (code : Nat) (pc : Nat) : Keeps base (stallFault s sid code pc) := by
  unfold stallFault
  unfold takeFresh
  repeat' first
    | with_reducible assumption
    | with_reducible apply hwAbort_keeps
    | with_reducible apply modStall_keeps
    | with_reducible apply modShed_keeps
    | with_reducible apply record_keeps
    | with_reducible apply Keeps.ite
    | intro _
    | dsimp only
    | split
    | with_reducible refine Keeps.upd ?_ ?_ ?_ ?_ ?_ ?_ ?_ ?_ ?_ ?_ ?_ ?_
    | (obtain ⟨⟩ := ‹Keeps base _›.canon; repeat' (first | with_reducible assumption | with_reducible apply gwf_gmapAll))

/-! Operands. -/

theorem progress_keeps {base s : State} (hk : Keeps base s) (sid : Nat) : Keeps base (progress s sid) := by
  unfold progress
  repeat' first
    | with_reducible assumption
    | with_reducible apply modShed_keeps
    | with_reducible apply Keeps.ite
    | intro _
    | dsimp only
    | split
    | with_reducible refine Keeps.upd ?_ ?_ ?_ ?_ ?_ ?_ ?_ ?_ ?_ ?_ ?_ ?_
    | (obtain ⟨⟩ := ‹Keeps base _›.canon; with_reducible assumption)

theorem passCycles_keeps {base s : State} (hk : Keeps base s) (sid : Nat) (n : Nat) : Keeps base (passCycles s sid n) := by
  unfold passCycles
  repeat' first
    | with_reducible assumption
    | with_reducible apply modSeq_keeps
    | intro _
    | dsimp only
    | with_reducible refine Keeps.upd ?_ ?_ ?_ ?_ ?_ ?_ ?_ ?_ ?_ ?_ ?_ ?_
    | (obtain ⟨⟩ := ‹Keeps base _›.canon; with_reducible assumption)

theorem passFree_keeps {base s : State} (hk : Keeps base s) (sid : Nat) : Keeps base (passFree s sid) := by
  unfold passFree
  unfold takeFresh
  repeat' first
    | with_reducible assumption
    | with_reducible apply passCycles_keeps
    | intro _
    | dsimp only
    | split
    | with_reducible refine Keeps.upd ?_ ?_ ?_ ?_ ?_ ?_ ?_ ?_ ?_ ?_ ?_ ?_
    | (obtain ⟨⟩ := ‹Keeps base _›.canon; with_reducible assumption)

theorem retireAt_keeps {base s : State} (hk : Keeps base s) (sid : Nat) (pc : Nat) (loops : List Loop) (cost : Nat) : Keeps base (retireAt s sid pc loops cost) := by
  unfold retireAt
  repeat' first
    | with_reducible assumption
    | with_reducible apply progress_keeps
    | with_reducible apply modSeq_keeps
    | intro _
    | dsimp only
    | with_reducible refine Keeps.upd ?_ ?_ ?_ ?_ ?_ ?_ ?_ ?_ ?_ ?_ ?_ ?_
    | (obtain ⟨⟩ := ‹Keeps base _›.canon; with_reducible assumption)

theorem goOn_keeps {base s : State} (hk : Keeps base s) (sid : Nat) (pc : Nat) (at' : Nat) (cost : Nat) : Keeps base (goOn s sid pc at' cost) := by
  unfold goOn
  repeat' first
    | with_reducible assumption
    | with_reducible apply stallFault_keeps
    | with_reducible apply retireAt_keeps
    | with_reducible apply Keeps.ite
    | intro _
    | dsimp only
    | split

theorem finishWord_keeps {base : State} {e : WordEnd} (he : WordKeeps base e) (sid pc : Nat) : Keeps base (finishWord sid pc e) := by
  cases e
  case retire s cost port => exact goOn_keeps (Keeps.ite (passFree_keeps he _) he) ..
  case jump => exact retireAt_keeps he ..
  case skipTo => exact goOn_keeps he ..
  case hold s r => exact modSeq_keeps (s := passFree s sid) (passFree_keeps he _) sid (fun q => { q with run := r })
  case fault => exact stallFault_keeps he ..
  case done => exact he

theorem issueWord_keeps {base s : State} (hk : Keeps base s) (sid op : Nat) {body : Stall → Nat → WordEnd}
    (hb : ∀ t w, WordKeeps base (body t w)) : Keeps base (issueWord s sid op body) :=
  Keeps.ite (Keeps.ite (stallFault_keeps hk ..) (Keeps.ite (finishWord_keeps (hb ..) ..) hk)) hk

theorem putStall_keeps {base s : State} (hk : Keeps base s) (sid : Nat) (t : Stall) : Keeps base (putStall s sid t) := by
  unfold putStall
  repeat' first
    | with_reducible assumption
    | intro _
    | dsimp only
    | with_reducible refine Keeps.upd ?_ ?_ ?_ ?_ ?_ ?_ ?_ ?_ ?_ ?_ ?_ ?_
    | (obtain ⟨⟩ := ‹Keeps base _›.canon; repeat' (first | with_reducible assumption | with_reducible apply gwf_gset))

end Sys2Proof.Machine
end

