-- ==== Sys2Proof/Laws/KeepsWords.lean ====
section
/-! SUPPORT. What the routine words and the operations under them keep (Safety, `Keeps`). -/

set_option Elab.async false
set_option linter.all false

namespace Sys2Proof.Machine

/-! Control. -/

theorem execNop_keeps {base s : State} (hk : Keeps base s) (sid : StallId) : OutKeeps base (execNop sid s) := by
  unfold execNop
  repeat' first
    | with_reducible assumption
    | with_reducible apply issueWord_keeps
    | with_reducible apply Keeps.ite
    | with_reducible apply WordKeeps.ite
    | with_reducible apply WordKeeps.retire
    | with_reducible apply WordKeeps.fault
    | with_reducible apply OutKeeps.next
    | intro _
    | dsimp only
    | split

theorem execEnd_keeps {base s : State} (hk : Keeps base s) (sid : StallId) : OutKeeps base (execEnd sid s) := by
  unfold execEnd
  repeat' first
    | with_reducible assumption
    | with_reducible apply progress_keeps
    | with_reducible apply issueWord_keeps
    | with_reducible apply putStall_keeps
    | with_reducible apply Keeps.ite
    | with_reducible apply WordKeeps.ite
    | with_reducible apply WordKeeps.hold
    | with_reducible apply WordKeeps.fault
    | with_reducible apply WordKeeps.done
    | with_reducible apply OutKeeps.next
    | intro _
    | dsimp only
    | split

theorem execLoop_keeps {base s : State} (hk : Keeps base s) (sid : StallId) : OutKeeps base (execLoop sid s) := by
  unfold execLoop
  repeat' first
    | with_reducible assumption
    | with_reducible apply issueWord_keeps
    | with_reducible apply modSeq_keeps
    | with_reducible apply Keeps.ite
    | with_reducible apply WordKeeps.ite
    | with_reducible apply WordKeeps.retire
    | with_reducible apply WordKeeps.skipTo
    | with_reducible apply WordKeeps.fault
    | with_reducible apply OutKeeps.next
    | intro _
    | dsimp only
    | split
    | with_reducible refine Keeps.upd ?_ ?_ ?_ ?_ ?_ ?_ ?_ ?_ ?_ ?_ ?_ ?_
    | (obtain ⟨⟩ := ‹Keeps base _›.canon; with_reducible assumption)

theorem brtWord_keeps {base s : State} (hk : Keeps base s) (sid : Nat) (t : Stall) (w : Nat) : WordKeeps base (brtWord s sid t w) := by
  unfold brtWord
  repeat' first
    | with_reducible assumption
    | with_reducible apply Keeps.ite
    | with_reducible apply WordKeeps.ite
    | with_reducible apply WordKeeps.retire
    | with_reducible apply WordKeeps.jump
    | with_reducible apply WordKeeps.hold
    | with_reducible apply WordKeeps.fault
    | intro _
    | dsimp only
    | split

theorem execBrt_keeps {base s : State} (hk : Keeps base s) (sid : StallId) : OutKeeps base (execBrt sid s) := by
  unfold execBrt
  repeat' first
    | with_reducible assumption
    | with_reducible apply brtWord_keeps
    | with_reducible apply issueWord_keeps
    | with_reducible apply Keeps.ite
    | with_reducible apply WordKeeps.ite
    | with_reducible apply OutKeeps.next
    | intro _
    | dsimp only
    | split

theorem execBrtWaitSatisfied_keeps {base s : State} (hk : Keeps base s) (sid : StallId) : OutKeeps base (execBrtWaitSatisfied sid s) := by
  refine Keeps.ite (issueWord_keeps hk _ _ (fun t w => ?_)) hk
  have h := brtWord_keeps hk sid t w
  revert h
  cases brtWord s sid t w <;> intro h
  case hold => exact hk
  all_goals exact h

theorem execBr_keeps {base s : State} (hk : Keeps base s) (sid : StallId) : OutKeeps base (execBr sid s) := by
  unfold execBr
  repeat' first
    | with_reducible assumption
    | with_reducible apply issueWord_keeps
    | with_reducible apply Keeps.ite
    | with_reducible apply WordKeeps.ite
    | with_reducible apply WordKeeps.retire
    | with_reducible apply WordKeeps.jump
    | with_reducible apply WordKeeps.fault
    | with_reducible apply OutKeeps.next
    | intro _
    | dsimp only
    | split

theorem execJmp_keeps {base s : State} (hk : Keeps base s) (sid : StallId) : OutKeeps base (execJmp sid s) := by
  unfold execJmp
  repeat' first
    | with_reducible assumption
    | with_reducible apply issueWord_keeps
    | with_reducible apply Keeps.ite
    | with_reducible apply WordKeeps.ite
    | with_reducible apply WordKeeps.jump
    | with_reducible apply WordKeeps.fault
    | with_reducible apply OutKeeps.next
    | intro _
    | dsimp only
    | split

theorem countNopart_keeps {base s : State} (hk : Keeps base s) (sid : Nat) : Keeps base (countNopart s sid) := by
  unfold countNopart
  repeat' first
    | with_reducible assumption
    | with_reducible apply modShed_keeps
    | intro _
    | dsimp only
    | with_reducible refine Keeps.upd ?_ ?_ ?_ ?_ ?_ ?_ ?_ ?_ ?_ ?_ ?_ ?_
    | (obtain ⟨⟩ := ‹Keeps base _›.canon; with_reducible assumption)

theorem execWaitg_keeps {base s : State} (hk : Keeps base s) (sid : StallId) : OutKeeps base (execWaitg sid s) := by
  unfold execWaitg
  repeat' first
    | with_reducible assumption
    | with_reducible apply countNopart_keeps
    | with_reducible apply issueWord_keeps
    | with_reducible apply Keeps.ite
    | with_reducible apply WordKeeps.ite
    | with_reducible apply WordKeeps.retire
    | with_reducible apply WordKeeps.hold
    | with_reducible apply WordKeeps.fault
    | with_reducible apply OutKeeps.next
    | intro _
    | dsimp only
    | split
    | with_reducible refine Keeps.upd ?_ ?_ ?_ ?_ ?_ ?_ ?_ ?_ ?_ ?_ ?_ ?_
    | (obtain ⟨⟩ := ‹Keeps base _›.canon; with_reducible assumption)

theorem execArrive_keeps {base s : State} (hk : Keeps base s) (sid : StallId) : OutKeeps base (execArrive sid s) := by
  unfold execArrive
  repeat' first
    | with_reducible assumption
    | with_reducible apply countNopart_keeps
    | with_reducible apply issueWord_keeps
    | with_reducible apply modStall_keeps
    | with_reducible apply Keeps.ite
    | with_reducible apply WordKeeps.ite
    | with_reducible apply WordKeeps.retire
    | with_reducible apply WordKeeps.hold
    | with_reducible apply WordKeeps.fault
    | with_reducible apply OutKeeps.next
    | intro _
    | dsimp only
    | split
    | with_reducible refine Keeps.upd ?_ ?_ ?_ ?_ ?_ ?_ ?_ ?_ ?_ ?_ ?_ ?_
    | (obtain ⟨⟩ := ‹Keeps base _›.canon; with_reducible assumption)

/-! Moves. -/

theorem parity_keeps {base s : State} (hk : Keeps base s) (sid : Nat) (par : Bool) : Keeps base (parity s sid par) := by
  unfold parity
  repeat' first
    | with_reducible assumption
    | with_reducible apply record_keeps
    | with_reducible apply Keeps.ite
    | intro _
    | dsimp only
    | split

theorem brandFails_keeps {base s : State} (hk : Keeps base s) (sid n : Nat) : Keeps base (brandFails s sid n) := by
  induction n generalizing s with
  | zero => exact hk
  | succ n ih => exact ih (record_keeps hk _ _)

theorem execMov_keeps {base s : State} (hk : Keeps base s) (sid : StallId) (par : Bool) : OutKeeps base (execMov sid par s) := by
  unfold execMov
  repeat' first
    | with_reducible assumption
    | with_reducible apply parity_keeps
    | with_reducible apply brandFails_keeps
    | with_reducible apply issueWord_keeps
    | with_reducible apply putStall_keeps
    | with_reducible apply Keeps.ite
    | with_reducible apply WordKeeps.ite
    | with_reducible apply WordKeeps.retire
    | with_reducible apply WordKeeps.hold
    | with_reducible apply WordKeeps.fault
    | with_reducible apply OutKeeps.next
    | intro _
    | dsimp only
    | split
    | with_reducible refine Keeps.upd ?_ ?_ ?_ ?_ ?_ ?_ ?_ ?_ ?_ ?_ ?_ ?_
    | (obtain ⟨⟩ := ‹Keeps base _›.canon; with_reducible assumption)

theorem execMovq_keeps {base s : State} (hk : Keeps base s) (sid : StallId) : OutKeeps base (execMovq sid s) := by
  unfold execMovq
  repeat' first
    | with_reducible assumption
    | with_reducible apply issueWord_keeps
    | with_reducible apply putStall_keeps
    | with_reducible apply Keeps.ite
    | with_reducible apply WordKeeps.ite
    | with_reducible apply WordKeeps.retire
    | with_reducible apply WordKeeps.hold
    | with_reducible apply WordKeeps.fault
    | with_reducible apply OutKeeps.next
    | intro _
    | dsimp only
    | split
    | with_reducible refine Keeps.upd ?_ ?_ ?_ ?_ ?_ ?_ ?_ ?_ ?_ ?_ ?_ ?_
    | (obtain ⟨⟩ := ‹Keeps base _›.canon; with_reducible assumption)

theorem execMovqs_keeps {base s : State} (hk : Keeps base s) (sid : StallId) : OutKeeps base (execMovqs sid s) := by
  unfold execMovqs
  repeat' first
    | with_reducible assumption
    | with_reducible apply issueWord_keeps
    | with_reducible apply putStall_keeps
    | with_reducible apply Keeps.ite
    | with_reducible apply WordKeeps.ite
    | with_reducible apply WordKeeps.retire
    | with_reducible apply WordKeeps.fault
    | with_reducible apply OutKeeps.next
    | intro _
    | dsimp only
    | split
    | with_reducible refine Keeps.upd ?_ ?_ ?_ ?_ ?_ ?_ ?_ ?_ ?_ ?_ ?_ ?_
    | (obtain ⟨⟩ := ‹Keeps base _›.canon; with_reducible assumption)

theorem execQrel_keeps {base s : State} (hk : Keeps base s) (sid : StallId) : OutKeeps base (execQrel sid s) := by
  unfold execQrel
  repeat' first
    | with_reducible assumption
    | with_reducible apply issueWord_keeps
    | with_reducible apply putStall_keeps
    | with_reducible apply Keeps.ite
    | with_reducible apply WordKeeps.ite
    | with_reducible apply WordKeeps.retire
    | with_reducible apply WordKeeps.fault
    | with_reducible apply OutKeeps.next
    | intro _
    | dsimp only
    | split

theorem execLds_keeps {base s : State} (hk : Keeps base s) (sid : StallId) (par : Bool) : OutKeeps base (execLds sid par s) := by
  unfold execLds
  repeat' first
    | with_reducible assumption
    | with_reducible apply parity_keeps
    | with_reducible apply issueWord_keeps
    | with_reducible apply putStall_keeps
    | with_reducible apply Keeps.ite
    | with_reducible apply WordKeeps.ite
    | with_reducible apply WordKeeps.retire
    | with_reducible apply WordKeeps.fault
    | with_reducible apply OutKeeps.next
    | intro _
    | dsimp only
    | split
    | with_reducible refine Keeps.upd ?_ ?_ ?_ ?_ ?_ ?_ ?_ ?_ ?_ ?_ ?_ ?_
    | (obtain ⟨⟩ := ‹Keeps base _›.canon; with_reducible assumption)

theorem execSts_keeps {base s : State} (hk : Keeps base s) (sid : StallId) : OutKeeps base (execSts sid s) := by
  unfold execSts
  repeat' first
    | with_reducible assumption
    | with_reducible apply issueWord_keeps
    | with_reducible apply putStall_keeps
    | with_reducible apply Keeps.ite
    | with_reducible apply WordKeeps.ite
    | with_reducible apply WordKeeps.retire
    | with_reducible apply WordKeeps.hold
    | with_reducible apply WordKeeps.fault
    | with_reducible apply OutKeeps.next
    | intro _
    | dsimp only
    | split
    | with_reducible refine Keeps.upd ?_ ?_ ?_ ?_ ?_ ?_ ?_ ?_ ?_ ?_ ?_ ?_
    | (obtain ⟨⟩ := ‹Keeps base _›.canon; with_reducible assumption)

theorem execAgb_keeps {base s : State} (hk : Keeps base s) (sid : StallId) : OutKeeps base (execAgb sid s) := by
  unfold execAgb
  repeat' first
    | with_reducible assumption
    | with_reducible apply issueWord_keeps
    | with_reducible apply putStall_keeps
    | with_reducible apply Keeps.ite
    | with_reducible apply WordKeeps.ite
    | with_reducible apply WordKeeps.retire
    | with_reducible apply WordKeeps.hold
    | with_reducible apply WordKeeps.fault
    | with_reducible apply OutKeeps.next
    | intro _
    | dsimp only
    | split
    | with_reducible refine Keeps.upd ?_ ?_ ?_ ?_ ?_ ?_ ?_ ?_ ?_ ?_ ?_ ?_
    | (obtain ⟨⟩ := ‹Keeps base _›.canon; with_reducible assumption)

theorem execAgs_keeps {base s : State} (hk : Keeps base s) (sid : StallId) : OutKeeps base (execAgs sid s) := by
  unfold execAgs
  repeat' first
    | with_reducible assumption
    | with_reducible apply issueWord_keeps
    | with_reducible apply putStall_keeps
    | with_reducible apply Keeps.ite
    | with_reducible apply WordKeeps.ite
    | with_reducible apply WordKeeps.retire
    | with_reducible apply WordKeeps.hold
    | with_reducible apply WordKeeps.fault
    | with_reducible apply OutKeeps.next
    | intro _
    | dsimp only
    | split
    | with_reducible refine Keeps.upd ?_ ?_ ?_ ?_ ?_ ?_ ?_ ?_ ?_ ?_ ?_ ?_
    | (obtain ⟨⟩ := ‹Keeps base _›.canon; with_reducible assumption)

/-! Tallies. -/

theorem setTally_keeps {base s : State} (hk : Keeps base s) (sid : Nat) (k : Nat) (v : Nat) : Keeps base (setTally s sid k v) := by
  unfold setTally
  repeat' first
    | with_reducible assumption
    | with_reducible apply modQu_keeps
    | intro _
    | dsimp only
    | with_reducible refine Keeps.upd ?_ ?_ ?_ ?_ ?_ ?_ ?_ ?_ ?_ ?_ ?_ ?_
    | (obtain ⟨⟩ := ‹Keeps base _›.canon; repeat' (first | with_reducible assumption | with_reducible apply gwf_gset))

theorem tallyDrift_keeps {base s : State} (hk : Keeps base s) (sid : Nat) (k : Nat) : Keeps base (tallyDrift s sid k) := by
  unfold tallyDrift
  repeat' first
    | with_reducible assumption
    | with_reducible apply modShed_keeps
    | with_reducible apply record_keeps
    | with_reducible apply Keeps.ite
    | intro _
    | dsimp only
    | split
    | with_reducible refine Keeps.upd ?_ ?_ ?_ ?_ ?_ ?_ ?_ ?_ ?_ ?_ ?_ ?_
    | (obtain ⟨⟩ := ‹Keeps base _›.canon; with_reducible assumption)

theorem tallyUnder_keeps {base s : State} (hk : Keeps base s) (sid : Nat) (k : Nat) : Keeps base (tallyUnder s sid k) := by
  unfold tallyUnder
  repeat' first
    | with_reducible assumption
    | with_reducible apply modShed_keeps
    | with_reducible apply record_keeps
    | with_reducible apply Keeps.ite
    | intro _
    | dsimp only
    | split
    | with_reducible refine Keeps.upd ?_ ?_ ?_ ?_ ?_ ?_ ?_ ?_ ?_ ?_ ?_ ?_
    | (obtain ⟨⟩ := ‹Keeps base _›.canon; with_reducible assumption)

theorem gateLeftOpen_keeps {base s : State} (hk : Keeps base s) (sid : Nat) (line : Nat) : Keeps base (gateLeftOpen s sid line) := by
  unfold gateLeftOpen
  repeat' first
    | with_reducible assumption
    | with_reducible apply modShed_keeps
    | with_reducible apply record_keeps
    | with_reducible apply Keeps.ite
    | intro _
    | dsimp only
    | split
    | with_reducible refine Keeps.upd ?_ ?_ ?_ ?_ ?_ ?_ ?_ ?_ ?_ ?_ ?_ ?_
    | (obtain ⟨⟩ := ‹Keeps base _›.canon; with_reducible assumption)

theorem tallyUp_keeps {base s : State} (hk : Keeps base s) (sid : Nat) (k : Nat) (n : Nat) : Keeps base (tallyUp s sid k n) := by
  unfold tallyUp
  repeat' first
    | with_reducible assumption
    | with_reducible apply setTally_keeps
    | with_reducible apply tallyDrift_keeps
    | with_reducible apply Keeps.ite
    | intro _
    | dsimp only
    | split

theorem tallyDown_keeps {base s : State} (hk : Keeps base s) (sid : Nat) (k : Nat) (n : Nat) : Keeps base (tallyDown s sid k n) := by
  unfold tallyDown
  repeat' first
    | with_reducible assumption
    | with_reducible apply setTally_keeps
    | with_reducible apply tallyUnder_keeps
    | with_reducible apply Keeps.ite
    | intro _
    | dsimp only
    | split

theorem tallyWord_keeps {base s : State} (hk : Keeps base s) (sid : Nat) {change : State → Nat → Nat → Nat → State}
    (hc : ∀ a b c, Keeps base (change s a b c)) (t : Stall) (w : Nat) : WordKeeps base (tallyWord s sid change t w) := by
  unfold tallyWord
  dsimp only
  with_reducible apply WordKeeps.ite
  · exact hk
  · exact hc _ _ _

theorem execTinc_keeps {base s : State} (hk : Keeps base s) (sid : StallId) : OutKeeps base (execTinc sid s) :=
  issueWord_keeps hk _ _ (tallyWord_keeps hk _ (fun _ _ _ => tallyUp_keeps hk _ _ _))

theorem execTdec_keeps {base s : State} (hk : Keeps base s) (sid : StallId) : OutKeeps base (execTdec sid s) :=
  issueWord_keeps hk _ _ (tallyWord_keeps hk _ (fun _ _ _ => tallyDown_keeps hk _ _ _))

theorem execTrd_keeps {base s : State} (hk : Keeps base s) (sid : StallId) : OutKeeps base (execTrd sid s) := by
  unfold execTrd
  repeat' first
    | with_reducible assumption
    | with_reducible apply issueWord_keeps
    | with_reducible apply putStall_keeps
    | with_reducible apply Keeps.ite
    | with_reducible apply WordKeeps.ite
    | with_reducible apply WordKeeps.retire
    | with_reducible apply WordKeeps.fault
    | with_reducible apply OutKeeps.next
    | intro _
    | dsimp only
    | split

theorem execTset_keeps {base s : State} (hk : Keeps base s) (sid : StallId) : OutKeeps base (execTset sid s) := by
  unfold execTset
  repeat' first
    | with_reducible assumption
    | with_reducible apply issueWord_keeps
    | with_reducible apply setTally_keeps
    | with_reducible apply Keeps.ite
    | with_reducible apply WordKeeps.ite
    | with_reducible apply WordKeeps.retire
    | with_reducible apply WordKeeps.fault
    | with_reducible apply OutKeeps.next
    | intro _
    | dsimp only
    | split

/-! Misc. -/

theorem execBrand_keeps {base s : State} (hk : Keeps base s) (sid : StallId) : OutKeeps base (execBrand sid s) := by
  unfold execBrand
  repeat' first
    | with_reducible assumption
    | with_reducible apply brandFails_keeps
    | with_reducible apply issueWord_keeps
    | with_reducible apply putStall_keeps
    | with_reducible apply modStall_keeps
    | with_reducible apply Keeps.ite
    | with_reducible apply WordKeeps.ite
    | with_reducible apply WordKeeps.retire
    | with_reducible apply WordKeeps.hold
    | with_reducible apply WordKeeps.fault
    | with_reducible apply OutKeeps.next
    | intro _
    | dsimp only
    | split
    | with_reducible refine Keeps.upd ?_ ?_ ?_ ?_ ?_ ?_ ?_ ?_ ?_ ?_ ?_ ?_
    | (obtain ⟨⟩ := ‹Keeps base _›.canon; with_reducible assumption)

theorem execBallast_keeps {base s : State} (hk : Keeps base s) (sid : StallId) : OutKeeps base (execBallast sid s) := by
  unfold execBallast
  repeat' first
    | with_reducible assumption
    | with_reducible apply issueWord_keeps
    | with_reducible apply modEng_keeps
    | with_reducible apply Keeps.ite
    | with_reducible apply WordKeeps.ite
    | with_reducible apply WordKeeps.retire
    | with_reducible apply WordKeeps.fault
    | with_reducible apply OutKeeps.next
    | intro _
    | dsimp only
    | split
    | with_reducible refine Keeps.upd ?_ ?_ ?_ ?_ ?_ ?_ ?_ ?_ ?_ ?_ ?_ ?_
    | (obtain ⟨⟩ := ‹Keeps base _›.canon; with_reducible assumption)

theorem execBallastRunOut_keeps {base s : State} (hk : Keeps base s) (sid : StallId) : OutKeeps base (execBallastRunOut sid s) := by
  unfold execBallastRunOut
  repeat' first
    | with_reducible assumption
    | with_reducible apply modEng_keeps
    | with_reducible apply Keeps.ite
    | with_reducible apply OutKeeps.next
    | intro _
    | dsimp only
    | split

theorem execSalu_keeps {base s : State} (hk : Keeps base s) (sid : StallId) : OutKeeps base (execSalu sid s) := by
  unfold execSalu
  repeat' first
    | with_reducible assumption
    | with_reducible apply issueWord_keeps
    | with_reducible apply putStall_keeps
    | with_reducible apply Keeps.ite
    | with_reducible apply WordKeeps.ite
    | with_reducible apply WordKeeps.retire
    | with_reducible apply WordKeeps.fault
    | with_reducible apply OutKeeps.next
    | intro _
    | dsimp only
    | split

theorem execSli_keeps {base s : State} (hk : Keeps base s) (sid : StallId) : OutKeeps base (execSli sid s) := by
  unfold execSli
  repeat' first
    | with_reducible assumption
    | with_reducible apply issueWord_keeps
    | with_reducible apply putStall_keeps
    | with_reducible apply Keeps.ite
    | with_reducible apply WordKeeps.ite
    | with_reducible apply WordKeeps.retire
    | with_reducible apply WordKeeps.fault
    | with_reducible apply OutKeeps.next
    | intro _
    | dsimp only
    | split

/-! Vector. -/

theorem takeMany_keeps {base s : State} (hk : Keeps base s) (n : Nat) : Keeps base (takeMany s n) := by
  unfold takeMany
  repeat' first
    | with_reducible assumption
    | intro _
    | dsimp only
    | with_reducible refine Keeps.upd ?_ ?_ ?_ ?_ ?_ ?_ ?_ ?_ ?_ ?_ ?_ ?_
    | (obtain ⟨⟩ := ‹Keeps base _›.canon; with_reducible assumption)

theorem vecWord_keeps {base s : State} (hk : Keeps base s) (sid : Nat) (res : Bool) (t : Stall) (w : Nat) : WordKeeps base (vecWord s sid res t w) := by
  unfold vecWord
  repeat' first
    | with_reducible assumption
    | with_reducible apply putStall_keeps
    | with_reducible apply record_keeps
    | with_reducible apply takeMany_keeps
    | with_reducible apply Keeps.ite
    | with_reducible apply WordKeeps.ite
    | with_reducible apply WordKeeps.retire
    | with_reducible apply WordKeeps.hold
    | with_reducible apply WordKeeps.fault
    | with_reducible refine Keeps.foldl ?_ (fun _ _ _ => ?_)
    | intro _
    | dsimp only
    | split
    | with_reducible refine Keeps.upd ?_ ?_ ?_ ?_ ?_ ?_ ?_ ?_ ?_ ?_ ?_ ?_
    | (obtain ⟨⟩ := ‹Keeps base _›.canon; with_reducible assumption)

theorem execVadd_keeps {base s : State} (hk : Keeps base s) (sid : StallId) (res : Bool) : OutKeeps base (execVadd sid res s) := by
  unfold execVadd
  repeat' first
    | with_reducible assumption
    | with_reducible apply issueWord_keeps
    | with_reducible apply vecWord_keeps
    | with_reducible apply OutKeeps.next
    | intro _
    | dsimp only

theorem execVsub_keeps {base s : State} (hk : Keeps base s) (sid : StallId) (res : Bool) : OutKeeps base (execVsub sid res s) := by
  unfold execVsub
  repeat' first
    | with_reducible assumption
    | with_reducible apply issueWord_keeps
    | with_reducible apply vecWord_keeps
    | with_reducible apply OutKeeps.next
    | intro _
    | dsimp only

theorem execVmul_keeps {base s : State} (hk : Keeps base s) (sid : StallId) (res : Bool) : OutKeeps base (execVmul sid res s) := by
  unfold execVmul
  repeat' first
    | with_reducible assumption
    | with_reducible apply issueWord_keeps
    | with_reducible apply vecWord_keeps
    | with_reducible apply OutKeeps.next
    | intro _
    | dsimp only

theorem execVfma_keeps {base s : State} (hk : Keeps base s) (sid : StallId) (res : Bool) : OutKeeps base (execVfma sid res s) := by
  unfold execVfma
  repeat' first
    | with_reducible assumption
    | with_reducible apply issueWord_keeps
    | with_reducible apply vecWord_keeps
    | with_reducible apply OutKeeps.next
    | intro _
    | dsimp only

theorem execVmax_keeps {base s : State} (hk : Keeps base s) (sid : StallId) (res : Bool) : OutKeeps base (execVmax sid res s) := by
  unfold execVmax
  repeat' first
    | with_reducible assumption
    | with_reducible apply issueWord_keeps
    | with_reducible apply vecWord_keeps
    | with_reducible apply OutKeeps.next
    | intro _
    | dsimp only

theorem execVmin_keeps {base s : State} (hk : Keeps base s) (sid : StallId) (res : Bool) : OutKeeps base (execVmin sid res s) := by
  unfold execVmin
  repeat' first
    | with_reducible assumption
    | with_reducible apply issueWord_keeps
    | with_reducible apply vecWord_keeps
    | with_reducible apply OutKeeps.next
    | intro _
    | dsimp only

theorem execVact_keeps {base s : State} (hk : Keeps base s) (sid : StallId) (res : Bool) : OutKeeps base (execVact sid res s) := by
  unfold execVact
  repeat' first
    | with_reducible assumption
    | with_reducible apply issueWord_keeps
    | with_reducible apply vecWord_keeps
    | with_reducible apply OutKeeps.next
    | intro _
    | dsimp only

theorem execVexp2_keeps {base s : State} (hk : Keeps base s) (sid : StallId) (res : Bool) : OutKeeps base (execVexp2 sid res s) := by
  unfold execVexp2
  repeat' first
    | with_reducible assumption
    | with_reducible apply issueWord_keeps
    | with_reducible apply vecWord_keeps
    | with_reducible apply OutKeeps.next
    | intro _
    | dsimp only

theorem execVlog2_keeps {base s : State} (hk : Keeps base s) (sid : StallId) (res : Bool) : OutKeeps base (execVlog2 sid res s) := by
  unfold execVlog2
  repeat' first
    | with_reducible assumption
    | with_reducible apply issueWord_keeps
    | with_reducible apply vecWord_keeps
    | with_reducible apply OutKeeps.next
    | intro _
    | dsimp only

theorem execVrsqrt_keeps {base s : State} (hk : Keeps base s) (sid : StallId) (res : Bool) : OutKeeps base (execVrsqrt sid res s) := by
  unfold execVrsqrt
  repeat' first
    | with_reducible assumption
    | with_reducible apply issueWord_keeps
    | with_reducible apply vecWord_keeps
    | with_reducible apply OutKeeps.next
    | intro _
    | dsimp only

theorem execVrcp_keeps {base s : State} (hk : Keeps base s) (sid : StallId) (res : Bool) : OutKeeps base (execVrcp sid res s) := by
  unfold execVrcp
  repeat' first
    | with_reducible assumption
    | with_reducible apply issueWord_keeps
    | with_reducible apply vecWord_keeps
    | with_reducible apply OutKeeps.next
    | intro _
    | dsimp only

theorem execVred_keeps {base s : State} (hk : Keeps base s) (sid : StallId) (res : Bool) : OutKeeps base (execVred sid res s) := by
  unfold execVred
  repeat' first
    | with_reducible assumption
    | with_reducible apply issueWord_keeps
    | with_reducible apply vecWord_keeps
    | with_reducible apply OutKeeps.next
    | intro _
    | dsimp only

theorem execVcvt_keeps {base s : State} (hk : Keeps base s) (sid : StallId) (res : Bool) : OutKeeps base (execVcvt sid res s) := by
  unfold execVcvt
  repeat' first
    | with_reducible assumption
    | with_reducible apply issueWord_keeps
    | with_reducible apply vecWord_keeps
    | with_reducible apply OutKeeps.next
    | intro _
    | dsimp only

theorem execVcmp_keeps {base s : State} (hk : Keeps base s) (sid : StallId) (res : Bool) : OutKeeps base (execVcmp sid res s) := by
  unfold execVcmp
  repeat' first
    | with_reducible assumption
    | with_reducible apply issueWord_keeps
    | with_reducible apply vecWord_keeps
    | with_reducible apply OutKeeps.next
    | intro _
    | dsimp only

theorem execVlogic_keeps {base s : State} (hk : Keeps base s) (sid : StallId) : OutKeeps base (execVlogic sid s) := by
  unfold execVlogic
  repeat' first
    | with_reducible assumption
    | with_reducible apply issueWord_keeps
    | with_reducible apply vecWord_keeps
    | with_reducible apply OutKeeps.next
    | intro _
    | dsimp only

theorem execVcopy_keeps {base s : State} (hk : Keeps base s) (sid : StallId) : OutKeeps base (execVcopy sid s) := by
  unfold execVcopy
  repeat' first
    | with_reducible assumption
    | with_reducible apply issueWord_keeps
    | with_reducible apply vecWord_keeps
    | with_reducible apply OutKeeps.next
    | intro _
    | dsimp only

/-! Matrix. -/

theorem completeJob_keeps {base s : State} (hk : Keeps base s) (sid : Nat) (j : Job) (next : Stall → Stall) : Keeps base (completeJob s sid j next) := by
  unfold completeJob
  repeat' first
    | with_reducible assumption
    | with_reducible apply stallFault_keeps
    | with_reducible apply putStall_keeps
    | with_reducible apply modShed_keeps
    | intro _
    | dsimp only
    | split
    | with_reducible refine Keeps.upd ?_ ?_ ?_ ?_ ?_ ?_ ?_ ?_ ?_ ?_ ?_ ?_
    | (obtain ⟨⟩ := ‹Keeps base _›.canon; with_reducible assumption)

theorem execDmmCompletion_keeps {base s : State} (hk : Keeps base s) (sid : StallId) : OutKeeps base (execDmmCompletion sid s) := by
  unfold execDmmCompletion
  repeat' first
    | with_reducible assumption
    | with_reducible apply completeJob_keeps
    | with_reducible apply OutKeeps.next
    | intro _
    | dsimp only
    | split
    | with_reducible refine Keeps.upd ?_ ?_ ?_ ?_ ?_ ?_ ?_ ?_ ?_ ?_ ?_ ?_
    | (obtain ⟨⟩ := ‹Keeps base _›.canon; with_reducible assumption)

theorem execRakeCompletion_keeps {base s : State} (hk : Keeps base s) (sid : StallId) : OutKeeps base (execRakeCompletion sid s) := by
  unfold execRakeCompletion
  repeat' first
    | with_reducible assumption
    | with_reducible apply completeJob_keeps
    | with_reducible apply OutKeeps.next
    | intro _
    | dsimp only
    | split
    | with_reducible refine Keeps.upd ?_ ?_ ?_ ?_ ?_ ?_ ?_ ?_ ?_ ?_ ?_ ?_
    | (obtain ⟨⟩ := ‹Keeps base _›.canon; with_reducible assumption)

theorem overflowJob_keeps {base s : State} (hk : Keeps base s) (sid : Nat) (j : Job) (put : Job → Engines → Engines) : Keeps base (overflowJob s sid j put) := by
  unfold overflowJob
  repeat' first
    | with_reducible assumption
    | with_reducible apply putStall_keeps
    | with_reducible apply modShed_keeps
    | with_reducible apply record_keeps
    | with_reducible apply Keeps.ite
    | intro _
    | dsimp only
    | split
    | with_reducible refine Keeps.upd ?_ ?_ ?_ ?_ ?_ ?_ ?_ ?_ ?_ ?_ ?_ ?_
    | (obtain ⟨⟩ := ‹Keeps base _›.canon; with_reducible assumption)

theorem execOverflowReplay_keeps {base s : State} (hk : Keeps base s) (sid : StallId) (rake : Bool) : OutKeeps base (execOverflowReplay sid rake s) := by
  unfold execOverflowReplay
  repeat' first
    | with_reducible assumption
    | with_reducible apply overflowJob_keeps
    | with_reducible apply Keeps.ite
    | with_reducible apply OutKeeps.next
    | intro _
    | dsimp only
    | split
    | with_reducible refine Keeps.upd ?_ ?_ ?_ ?_ ?_ ?_ ?_ ?_ ?_ ?_ ?_ ?_
    | (obtain ⟨⟩ := ‹Keeps base _›.canon; with_reducible assumption)

/-! Draft. -/

theorem execDmm_keeps {base s : State} (hk : Keeps base s) (sid : StallId) : OutKeeps base (execDmm sid s) := by
  unfold execDmm
  repeat' first
    | with_reducible assumption
    | with_reducible apply issueWord_keeps
    | with_reducible apply putStall_keeps
    | with_reducible apply modEng_keeps
    | with_reducible apply Keeps.ite
    | with_reducible apply WordKeeps.ite
    | with_reducible apply WordKeeps.retire
    | with_reducible apply WordKeeps.hold
    | with_reducible apply WordKeeps.fault
    | with_reducible apply OutKeeps.next
    | intro _
    | dsimp only
    | split
    | with_reducible refine Keeps.upd ?_ ?_ ?_ ?_ ?_ ?_ ?_ ?_ ?_ ?_ ?_ ?_
    | (obtain ⟨⟩ := ‹Keeps base _›.canon; with_reducible assumption)

theorem dataChecks_keeps {base s : State} (hk : Keeps base s) (sid n : Nat) : Keeps base (dataChecks s sid n) := by
  induction n generalizing s with
  | zero => exact hk
  | succ n ih => exact ih (record_keeps hk _ _)

theorem execDrain_keeps {base s : State} (hk : Keeps base s) (sid : StallId) : OutKeeps base (execDrain sid s) := by
  unfold execDrain
  repeat' first
    | with_reducible assumption
    | with_reducible apply dataChecks_keeps
    | with_reducible apply issueWord_keeps
    | with_reducible apply putStall_keeps
    | with_reducible apply record_keeps
    | with_reducible apply Keeps.ite
    | with_reducible apply WordKeeps.ite
    | with_reducible apply WordKeeps.retire
    | with_reducible apply WordKeeps.hold
    | with_reducible apply WordKeeps.fault
    | with_reducible apply OutKeeps.next
    | intro _
    | dsimp only
    | split
    | with_reducible refine Keeps.upd ?_ ?_ ?_ ?_ ?_ ?_ ?_ ?_ ?_ ?_ ?_ ?_
    | (obtain ⟨⟩ := ‹Keeps base _›.canon; with_reducible assumption)

theorem execDexp_keeps {base s : State} (hk : Keeps base s) (sid : StallId) : OutKeeps base (execDexp sid s) := by
  unfold execDexp
  repeat' first
    | with_reducible assumption
    | with_reducible apply issueWord_keeps
    | with_reducible apply putStall_keeps
    | with_reducible apply record_keeps
    | with_reducible apply Keeps.ite
    | with_reducible apply WordKeeps.ite
    | with_reducible apply WordKeeps.retire
    | with_reducible apply WordKeeps.hold
    | with_reducible apply WordKeeps.fault
    | with_reducible apply OutKeeps.next
    | intro _
    | dsimp only
    | split

theorem execDstat_keeps {base s : State} (hk : Keeps base s) (sid : StallId) : OutKeeps base (execDstat sid s) := by
  unfold execDstat
  repeat' first
    | with_reducible assumption
    | with_reducible apply issueWord_keeps
    | with_reducible apply putStall_keeps
    | with_reducible apply Keeps.ite
    | with_reducible apply WordKeeps.ite
    | with_reducible apply WordKeeps.retire
    | with_reducible apply WordKeeps.hold
    | with_reducible apply WordKeeps.fault
    | with_reducible apply OutKeeps.next
    | intro _
    | dsimp only
    | split

/-! Rake. -/

theorem execSmm_keeps {base s : State} (hk : Keeps base s) (sid : StallId) : OutKeeps base (execSmm sid s) := by
  unfold execSmm
  repeat' first
    | with_reducible assumption
    | with_reducible apply issueWord_keeps
    | with_reducible apply putStall_keeps
    | with_reducible apply modEng_keeps
    | with_reducible apply Keeps.ite
    | with_reducible apply WordKeeps.ite
    | with_reducible apply WordKeeps.retire
    | with_reducible apply WordKeeps.hold
    | with_reducible apply WordKeeps.fault
    | with_reducible apply OutKeeps.next
    | intro _
    | dsimp only
    | split
    | with_reducible refine Keeps.upd ?_ ?_ ?_ ?_ ?_ ?_ ?_ ?_ ?_ ?_ ?_ ?_
    | (obtain ⟨⟩ := ‹Keeps base _›.canon; with_reducible assumption)

theorem execSdd_keeps {base s : State} (hk : Keeps base s) (sid : StallId) : OutKeeps base (execSdd sid s) := by
  unfold execSdd
  repeat' first
    | with_reducible assumption
    | with_reducible apply issueWord_keeps
    | with_reducible apply putStall_keeps
    | with_reducible apply modShed_keeps
    | with_reducible apply modEng_keeps
    | with_reducible apply Keeps.ite
    | with_reducible apply WordKeeps.ite
    | with_reducible apply WordKeeps.retire
    | with_reducible apply WordKeeps.hold
    | with_reducible apply WordKeeps.fault
    | with_reducible apply OutKeeps.next
    | intro _
    | dsimp only
    | split
    | with_reducible refine Keeps.upd ?_ ?_ ?_ ?_ ?_ ?_ ?_ ?_ ?_ ?_ ?_ ?_
    | (obtain ⟨⟩ := ‹Keeps base _›.canon; with_reducible assumption)

theorem execPsel_keeps {base s : State} (hk : Keeps base s) (sid : StallId) : OutKeeps base (execPsel sid s) := by
  unfold execPsel
  repeat' first
    | with_reducible assumption
    | with_reducible apply issueWord_keeps
    | with_reducible apply putStall_keeps
    | with_reducible apply Keeps.ite
    | with_reducible apply WordKeeps.ite
    | with_reducible apply WordKeeps.retire
    | with_reducible apply WordKeeps.hold
    | with_reducible apply WordKeeps.fault
    | with_reducible apply OutKeeps.next
    | intro _
    | dsimp only
    | split
    | with_reducible refine Keeps.upd ?_ ?_ ?_ ?_ ?_ ?_ ?_ ?_ ?_ ?_ ?_ ?_
    | (obtain ⟨⟩ := ‹Keeps base _›.canon; with_reducible assumption)

theorem execPchk_keeps {base s : State} (hk : Keeps base s) (sid : StallId) : OutKeeps base (execPchk sid s) := by
  unfold execPchk
  repeat' first
    | with_reducible assumption
    | with_reducible apply issueWord_keeps
    | with_reducible apply putStall_keeps
    | with_reducible apply modShed_keeps
    | with_reducible apply record_keeps
    | with_reducible apply Keeps.ite
    | with_reducible apply WordKeeps.ite
    | with_reducible apply WordKeeps.retire
    | with_reducible apply WordKeeps.hold
    | with_reducible apply WordKeeps.fault
    | with_reducible apply OutKeeps.next
    | intro _
    | dsimp only
    | split
    | with_reducible refine Keeps.upd ?_ ?_ ?_ ?_ ?_ ?_ ?_ ?_ ?_ ?_ ?_ ?_
    | (obtain ⟨⟩ := ‹Keeps base _›.canon; with_reducible assumption)

end Sys2Proof.Machine
end

