-- ==== Sys2Proof/Laws/KeepsTrack.lean ====
section
/-! SUPPORT. What the events of the track, the queues, the gates and the sections keep (Safety, `Keeps`). -/

set_option Elab.async false
set_option linter.all false

namespace Sys2Proof.Machine

/-! Track. -/

theorem countIn_keeps {base s : State} (hk : Keeps base s) (p : Packet) (y : Nat) : Keeps base (countIn s p y) := by
  unfold countIn
  repeat' first
    | with_reducible assumption
    | with_reducible apply modYard_keeps
    | with_reducible apply Keeps.ite
    | intro _
    | dsimp only
    | split
    | with_reducible refine Keeps.upd ?_ ?_ ?_ ?_ ?_ ?_ ?_ ?_ ?_ ?_ ?_ ?_
    | (obtain ⟨⟩ := ‹Keeps base _›.canon; with_reducible assumption)

theorem countOut_keeps {base s : State} (hk : Keeps base s) (p : Packet) (y : Nat) : Keeps base (countOut s p y) := by
  unfold countOut
  repeat' first
    | with_reducible assumption
    | with_reducible apply modYard_keeps
    | with_reducible apply Keeps.ite
    | intro _
    | dsimp only
    | split
    | with_reducible refine Keeps.upd ?_ ?_ ?_ ?_ ?_ ?_ ?_ ?_ ?_ ?_ ?_ ?_
    | (obtain ⟨⟩ := ‹Keeps base _›.canon; with_reducible assumption)

theorem inject_keeps {base s : State} (hk : Keeps base s) (p : Packet) (router : Nat) (side : Nat) : Keeps base (inject s p router side) := by
  unfold inject
  repeat' first
    | with_reducible assumption
    | with_reducible apply countIn_keeps
    | intro _
    | dsimp only
    | with_reducible refine Keeps.upd ?_ ?_ ?_ ?_ ?_ ?_ ?_ ?_ ?_ ?_ ?_ ?_
    | (obtain ⟨⟩ := ‹Keeps base _›.canon; with_reducible assumption)

theorem requeue_keeps {base s : State} (hk : Keeps base s) (m : TrackMsg) : Keeps base (requeue s m) := by
  unfold requeue
  repeat' first
    | with_reducible assumption
    | intro _
    | dsimp only
    | with_reducible refine Keeps.upd ?_ ?_ ?_ ?_ ?_ ?_ ?_ ?_ ?_ ?_ ?_ ?_
    | (obtain ⟨⟩ := ‹Keeps base _›.canon; with_reducible assumption)

theorem modTrack_keeps {base s : State} (hk : Keeps base s) (id : Nat) (f : TrackMsg → TrackMsg) : Keeps base (modTrack s id f) := by
  unfold modTrack
  repeat' first
    | with_reducible assumption
    | with_reducible apply Keeps.ite
    | intro _
    | dsimp only
    | split
    | with_reducible refine Keeps.upd ?_ ?_ ?_ ?_ ?_ ?_ ?_ ?_ ?_ ?_ ?_ ?_
    | (obtain ⟨⟩ := ‹Keeps base _›.canon; with_reducible assumption)

theorem removeTrack_keeps {base s : State} (hk : Keeps base s) (m : TrackMsg) : Keeps base (removeTrack s m) := by
  unfold removeTrack
  repeat' first
    | with_reducible assumption
    | with_reducible apply countOut_keeps
    | intro _
    | dsimp only
    | with_reducible refine Keeps.upd ?_ ?_ ?_ ?_ ?_ ?_ ?_ ?_ ?_ ?_ ?_ ?_
    | (obtain ⟨⟩ := ‹Keeps base _›.canon; with_reducible assumption)

theorem discardAt_keeps {base s : State} (hk : Keeps base s) (id : Nat) : Keeps base (discardAt s id) := by
  unfold discardAt
  repeat' first
    | with_reducible assumption
    | with_reducible apply modTrack_keeps
    | with_reducible apply removeTrack_keeps
    | with_reducible apply Keeps.ite
    | intro _
    | dsimp only
    | split
    | with_reducible refine Keeps.upd ?_ ?_ ?_ ?_ ?_ ?_ ?_ ?_ ?_ ?_ ?_ ?_
    | (obtain ⟨⟩ := ‹Keeps base _›.canon; with_reducible assumption)

theorem countUnreach_keeps {base s : State} (hk : Keeps base s) (y : Nat) : Keeps base (countUnreach s y) := by
  unfold countUnreach
  repeat' first
    | with_reducible assumption
    | with_reducible apply modYard_keeps
    | intro _
    | dsimp only
    | with_reducible refine Keeps.upd ?_ ?_ ?_ ?_ ?_ ?_ ?_ ?_ ?_ ?_ ?_ ?_
    | (obtain ⟨⟩ := ‹Keeps base _›.canon; with_reducible assumption)

theorem failUnit_keeps {base s : State} (hk : Keeps base s) (u : FailUnit) (source : Nat) : Keeps base (failUnit s u source) := by
  unfold failUnit
  repeat' first
    | with_reducible assumption
    | with_reducible apply journal_keeps
    | with_reducible apply Keeps.ite
    | intro _
    | dsimp only
    | split
    | with_reducible refine Keeps.upd ?_ ?_ ?_ ?_ ?_ ?_ ?_ ?_ ?_ ?_ ?_ ?_
    | (obtain ⟨⟩ := ‹Keeps base _›.canon; with_reducible assumption)

theorem refuseFlit_keeps {base s : State} (hk : Keeps base s) (m : TrackMsg) (prev : Nat) (h : Hop) : Keeps base (refuseFlit s m prev h) := by
  unfold refuseFlit
  repeat' first
    | with_reducible assumption
    | with_reducible apply hwAbort_keeps
    | with_reducible apply modYard_keeps
    | with_reducible apply record_keeps
    | with_reducible apply modTrack_keeps
    | with_reducible apply failUnit_keeps
    | with_reducible apply Keeps.ite
    | intro _
    | dsimp only
    | split
    | with_reducible refine Keeps.upd ?_ ?_ ?_ ?_ ?_ ?_ ?_ ?_ ?_ ?_ ?_ ?_
    | (obtain ⟨⟩ := ‹Keeps base _›.canon; with_reducible assumption)

theorem toInbox_keeps {base s : State} (hk : Keeps base s) (port : Nat) (p : Packet) : Keeps base (toInbox s port p) := by
  unfold toInbox
  repeat' first
    | with_reducible assumption
    | with_reducible apply modPort_keeps
    | intro _
    | dsimp only
    | split
    | with_reducible refine Keeps.upd ?_ ?_ ?_ ?_ ?_ ?_ ?_ ?_ ?_ ?_ ?_ ?_
    | (obtain ⟨⟩ := ‹Keeps base _›.canon; with_reducible assumption)

theorem exitFlit_keeps {base s : State} (hk : Keeps base s) (m : TrackMsg) (i : Nat) : Keeps base (exitFlit s m i) := by
  unfold exitFlit
  repeat' first
    | with_reducible assumption
    | with_reducible apply modQu_keeps
    | with_reducible apply modTrack_keeps
    | with_reducible apply removeTrack_keeps
    | with_reducible apply toInbox_keeps
    | with_reducible apply Keeps.ite
    | intro _
    | dsimp only
    | split
    | with_reducible refine Keeps.upd ?_ ?_ ?_ ?_ ?_ ?_ ?_ ?_ ?_ ?_ ?_ ?_
    | (obtain ⟨⟩ := ‹Keeps base _›.canon; with_reducible assumption)

theorem bodyHop_keeps {base s : State} (hk : Keeps base s) (m : TrackMsg) (i : Nat) (p : Nat) (crcOk : Bool) : Keeps base (bodyHop s m i p crcOk) := by
  unfold bodyHop
  repeat' first
    | with_reducible assumption
    | with_reducible apply countOut_keeps
    | with_reducible apply modTrack_keeps
    | with_reducible apply refuseFlit_keeps
    | with_reducible apply Keeps.ite
    | intro _
    | dsimp only
    | split
    | with_reducible refine Keeps.upd ?_ ?_ ?_ ?_ ?_ ?_ ?_ ?_ ?_ ?_ ?_ ?_
    | (obtain ⟨⟩ := ‹Keeps base _›.canon; with_reducible assumption)

theorem headerHop_keeps {base s : State} (hk : Keeps base s) (m : TrackMsg) (adaptive : Option (Fin 4)) (crcOk : Bool) : Keeps base (headerHop s m adaptive crcOk) := by
  unfold headerHop
  repeat' first
    | with_reducible assumption
    | with_reducible apply modQu_keeps
    | with_reducible apply countIn_keeps
    | with_reducible apply countOut_keeps
    | with_reducible apply requeue_keeps
    | with_reducible apply modTrack_keeps
    | with_reducible apply removeTrack_keeps
    | with_reducible apply discardAt_keeps
    | with_reducible apply countUnreach_keeps
    | with_reducible apply refuseFlit_keeps
    | with_reducible apply toInbox_keeps
    | with_reducible apply Keeps.ite
    | intro _
    | dsimp only
    | split
    | with_reducible refine Keeps.upd ?_ ?_ ?_ ?_ ?_ ?_ ?_ ?_ ?_ ?_ ?_ ?_
    | (obtain ⟨⟩ := ‹Keeps base _›.canon; repeat' (first | with_reducible assumption | with_reducible apply gwf_gset))

theorem flitHop_keeps {base s : State} (hk : Keeps base s) (id : Nat) (i : Nat) (adaptive : Option (Fin 4)) (crcOk : Bool) : Keeps base (flitHop s id i adaptive crcOk) := by
  unfold flitHop
  repeat' first
    | with_reducible assumption
    | with_reducible apply exitFlit_keeps
    | with_reducible apply bodyHop_keeps
    | with_reducible apply headerHop_keeps
    | with_reducible apply Keeps.ite
    | intro _
    | dsimp only
    | split
    | with_reducible refine Keeps.upd ?_ ?_ ?_ ?_ ?_ ?_ ?_ ?_ ?_ ?_ ?_ ?_
    | (obtain ⟨⟩ := ‹Keeps base _›.canon; with_reducible assumption)

theorem execFlitHop_keeps {base s : State} (hk : Keeps base s) (mid : Nat) (flit : Nat) (adaptive : Option (Fin 4)) (crcOk : Bool) : OutKeeps base (execFlitHop mid flit adaptive crcOk s) := by
  unfold execFlitHop
  repeat' first
    | with_reducible assumption
    | with_reducible apply flitHop_keeps
    | with_reducible apply OutKeeps.next
    | intro _
    | dsimp only

theorem injectSiding_keeps {base s : State} (hk : Keeps base s) (port : Nat) (p : Packet) : OptKeeps base (injectSiding s port p) := by
  unfold injectSiding
  cases sidingLink s port p
  · exact OptKeeps.none
  · exact inject_keeps hk _ _ _

theorem execSidingInjection_keeps {base s : State} (hk : Keeps base s) (port : PortId) (what : Injection) : OutKeeps base (execSidingInjection port what s) := by
  have key : ∀ q, OptKeeps base (injectSiding s port q) := fun q => injectSiding_keeps hk port q
  have key' : ∀ q t, injectSiding s port q = some t → Keeps base t := fun q t e => by have := key q; rw [e] at this; exact this
  unfold execSidingInjection
  apply OutKeeps.next
  cases what with
  | unit =>
    dsimp only
    split
    · exact hk
    · refine Keeps.ite hk ?_
      split
      · exact hk
      · rename_i h
        exact modPort_keeps (key' _ _ h) _ _
  | message m =>
    dsimp only
    split
    · exact hk
    · refine Keeps.ite ?_ hk
      split
      · exact hk
      · rename_i h
        exact key' _ _ h

/-! Sends. -/

theorem sendOne_keeps {base s : State} (hk : Keeps base s) (sid : Nat) (vc : Nat) (f : Bool) (tag : Nat) (dest : Nat) (payload : List Byte) : Keeps base (sendOne s sid vc f tag dest payload) := by
  unfold sendOne
  repeat' first
    | with_reducible assumption
    | with_reducible apply modQu_keeps
    | with_reducible apply inject_keeps
    | with_reducible apply Keeps.ite
    | intro _
    | dsimp only
    | split
    | with_reducible refine Keeps.upd ?_ ?_ ?_ ?_ ?_ ?_ ?_ ?_ ?_ ?_ ?_ ?_
    | (obtain ⟨⟩ := ‹Keeps base _›.canon; repeat' (first | with_reducible assumption | with_reducible apply gwf_gset))

theorem execSend_keeps {base s : State} (hk : Keeps base s) (sid : StallId) : OutKeeps base (execSend sid s) := by
  unfold execSend
  repeat' first
    | with_reducible assumption
    | with_reducible apply issueWord_keeps
    | with_reducible apply putStall_keeps
    | with_reducible apply sendOne_keeps
    | with_reducible apply Keeps.ite
    | with_reducible apply WordKeeps.ite
    | with_reducible apply WordKeeps.retire
    | with_reducible apply WordKeeps.hold
    | with_reducible apply WordKeeps.fault
    | with_reducible apply OutKeeps.next
    | intro _
    | dsimp only
    | split
    | with_reducible refine Keeps.upd ?_ ?_ ?_ ?_ ?_ ?_ ?_ ?_ ?_ ?_ ?_ ?_
    | (obtain ⟨⟩ := ‹Keeps base _›.canon; with_reducible assumption)

theorem execSendl_keeps {base s : State} (hk : Keeps base s) (sid : StallId) : OutKeeps base (execSendl sid s) := by
  unfold execSendl
  repeat' first
    | with_reducible assumption
    | with_reducible apply issueWord_keeps
    | with_reducible apply putStall_keeps
    | with_reducible apply sendOne_keeps
    | with_reducible apply Keeps.ite
    | with_reducible apply WordKeeps.ite
    | with_reducible apply WordKeeps.retire
    | with_reducible apply WordKeeps.hold
    | with_reducible apply WordKeeps.fault
    | with_reducible apply OutKeeps.next
    | with_reducible refine Keeps.foldl ?_ (fun _ _ _ => ?_)
    | intro _
    | dsimp only
    | split
    | with_reducible refine Keeps.upd ?_ ?_ ?_ ?_ ?_ ?_ ?_ ?_ ?_ ?_ ?_ ?_
    | (obtain ⟨⟩ := ‹Keeps base _›.canon; with_reducible assumption)

theorem execSends_keeps {base s : State} (hk : Keeps base s) (sid : StallId) : OutKeeps base (execSends sid s) := by
  unfold execSends
  repeat' first
    | with_reducible assumption
    | with_reducible apply issueWord_keeps
    | with_reducible apply sendOne_keeps
    | with_reducible apply Keeps.ite
    | with_reducible apply WordKeeps.ite
    | with_reducible apply WordKeeps.retire
    | with_reducible apply WordKeeps.hold
    | with_reducible apply WordKeeps.fault
    | with_reducible apply OutKeeps.next
    | intro _
    | dsimp only
    | split

theorem execRelay_keeps {base s : State} (hk : Keeps base s) (sid : StallId) : OutKeeps base (execRelay sid s) := by
  unfold execRelay
  repeat' first
    | with_reducible assumption
    | with_reducible apply issueWord_keeps
    | with_reducible apply modStall_keeps
    | with_reducible apply Keeps.ite
    | with_reducible apply WordKeeps.ite
    | with_reducible apply WordKeeps.retire
    | with_reducible apply WordKeeps.fault
    | with_reducible apply OutKeeps.next
    | intro _
    | dsimp only
    | split
    | with_reducible refine Keeps.upd ?_ ?_ ?_ ?_ ?_ ?_ ?_ ?_ ?_ ?_ ?_ ?_
    | (obtain ⟨⟩ := ‹Keeps base _›.canon; repeat' (first | with_reducible assumption | with_reducible apply gwf_gmod))

/-! Queues. -/

theorem relayFor_keeps {base s : State} (hk : Keeps base s) (sid : Nat) (id : Nat) (e : Nat) (h : Hdr) (payload : List Byte) : Keeps base (relayFor s sid id e h payload) := by
  unfold relayFor
  repeat' first
    | with_reducible assumption
    | with_reducible apply modQu_keeps
    | with_reducible apply Keeps.ite
    | intro _
    | dsimp only
    | split
    | with_reducible refine Keeps.upd ?_ ?_ ?_ ?_ ?_ ?_ ?_ ?_ ?_ ?_ ?_ ?_
    | (obtain ⟨⟩ := ‹Keeps base _›.canon; with_reducible assumption)

theorem countFence_keeps {base s : State} (hk : Keeps base s) (sid : Nat) (h : Hdr) : Keeps base (countFence s sid h) := by
  unfold countFence
  repeat' first
    | with_reducible assumption
    | with_reducible apply modQu_keeps
    | with_reducible apply Keeps.ite
    | intro _
    | dsimp only
    | split
    | with_reducible refine Keeps.upd ?_ ?_ ?_ ?_ ?_ ?_ ?_ ?_ ?_ ?_ ?_ ?_
    | (obtain ⟨⟩ := ‹Keeps base _›.canon; repeat' (first | with_reducible assumption | with_reducible apply gwf_gset))

theorem enterTarget_keeps {base s : State} (hk : Keeps base s) (sid : Nat) (id : Nat) (e : Nat) (h : Hdr) (payload : List Byte) : Keeps base (enterTarget s sid id e h payload) := by
  unfold enterTarget
  repeat' first
    | with_reducible assumption
    | with_reducible apply modQu_keeps
    | with_reducible apply relayFor_keeps
    | with_reducible apply countFence_keeps
    | with_reducible apply Keeps.ite
    | intro _
    | dsimp only
    | split
    | with_reducible refine Keeps.upd ?_ ?_ ?_ ?_ ?_ ?_ ?_ ?_ ?_ ?_ ?_ ?_
    | (obtain ⟨⟩ := ‹Keeps base _›.canon; repeat' (first | with_reducible assumption | with_reducible apply gwf_gset | with_reducible apply gwf_gmod))

theorem arrived_keeps {base s : State} (hk : Keeps base s) (sid : Nat) (tag : Nat) : Keeps base (arrived s sid tag) := by
  unfold arrived
  repeat' first
    | with_reducible assumption
    | with_reducible apply progress_keeps
    | with_reducible apply modQu_keeps
    | with_reducible apply tallyUp_keeps
    | with_reducible apply Keeps.ite
    | intro _
    | dsimp only
    | split
    | with_reducible refine Keeps.upd ?_ ?_ ?_ ?_ ?_ ?_ ?_ ?_ ?_ ?_ ?_ ?_
    | (obtain ⟨⟩ := ‹Keeps base _›.canon; repeat' (first | with_reducible assumption | with_reducible apply gwf_gmodKeys))

theorem addContribution_keeps {base s : State} (hk : Keeps base s) (sid : Nat) (c : Nat) (tag : Nat) (len : Nat) (payload : List Byte) : Keeps base (addContribution s sid c tag len payload) := by
  unfold addContribution
  repeat' first
    | with_reducible assumption
    | with_reducible apply modQu_keeps
    | with_reducible apply record_keeps
    | with_reducible apply arrived_keeps
    | with_reducible apply Keeps.ite
    | intro _
    | dsimp only
    | split
    | with_reducible refine Keeps.upd ?_ ?_ ?_ ?_ ?_ ?_ ?_ ?_ ?_ ?_ ?_ ?_
    | (obtain ⟨⟩ := ‹Keeps base _›.canon; repeat' (first | with_reducible assumption | with_reducible apply gwf_gmod | with_reducible apply gwf_gmodKeys))

theorem finishTarget_keeps {base s : State} (hk : Keeps base s) (sid : Nat) (id : Nat) (e : Nat) (h : Hdr) (payload : List Byte) : Keeps base (finishTarget s sid id e h payload) := by
  unfold finishTarget
  repeat' first
    | with_reducible assumption
    | with_reducible apply modQu_keeps
    | with_reducible apply arrived_keeps
    | with_reducible apply addContribution_keeps
    | with_reducible apply Keeps.ite
    | intro _
    | dsimp only
    | split

theorem countMiss_keeps {base s : State} (hk : Keeps base s) (sid : Nat) (miss : Bool) : Keeps base (countMiss s sid miss) := by
  unfold countMiss
  repeat' first
    | with_reducible assumption
    | with_reducible apply modYard_keeps
    | with_reducible apply Keeps.ite
    | intro _
    | dsimp only
    | split
    | with_reducible refine Keeps.upd ?_ ?_ ?_ ?_ ?_ ?_ ?_ ?_ ?_ ?_ ?_ ?_
    | (obtain ⟨⟩ := ‹Keeps base _›.canon; with_reducible assumption)

theorem clearEj_keeps {base s : State} (hk : Keeps base s) (sid : Nat) (vc : Nat) : Keeps base (clearEj s sid vc) := by
  unfold clearEj
  repeat' first
    | with_reducible assumption
    | with_reducible apply modQu_keeps
    | intro _
    | dsimp only
    | with_reducible refine Keeps.upd ?_ ?_ ?_ ?_ ?_ ?_ ?_ ?_ ?_ ?_ ?_ ?_
    | (obtain ⟨⟩ := ‹Keeps base _›.canon; repeat' (first | with_reducible assumption | with_reducible apply gwf_gset))

theorem requestWake_keeps {base s : State} (hk : Keeps base s) (sid : Nat) : Keeps base (requestWake s sid) := by
  unfold requestWake
  repeat' first
    | with_reducible assumption
    | with_reducible apply modPShed_keeps
    | intro _
    | dsimp only
    | with_reducible refine Keeps.upd ?_ ?_ ?_ ?_ ?_ ?_ ?_ ?_ ?_ ?_ ?_ ?_
    | (obtain ⟨⟩ := ‹Keeps base _›.canon; with_reducible assumption)

theorem acceptHeader_keeps {base s : State} (hk : Keeps base s) (sid : Nat) (vc : Nat) (m : TrackMsg) (h : Hdr) (payload : List Byte) : Keeps base (acceptHeader s sid vc m h payload) := by
  unfold acceptHeader
  repeat' first
    | with_reducible assumption
    | with_reducible apply stallFault_keeps
    | with_reducible apply modYard_keeps
    | with_reducible apply modQu_keeps
    | with_reducible apply staleDrop_keeps
    | with_reducible apply enterTarget_keeps
    | with_reducible apply countMiss_keeps
    | with_reducible apply clearEj_keeps
    | with_reducible apply modTrack_keeps
    | with_reducible apply removeTrack_keeps
    | with_reducible apply discardAt_keeps
    | with_reducible apply Keeps.ite
    | intro _
    | dsimp only
    | split
    | with_reducible refine Keeps.upd ?_ ?_ ?_ ?_ ?_ ?_ ?_ ?_ ?_ ?_ ?_ ?_
    | (obtain ⟨⟩ := ‹Keeps base _›.canon; repeat' (first | with_reducible assumption | with_reducible apply gwf_gset))

theorem acceptNotice_keeps {base s : State} (hk : Keeps base s) (sid : Nat) (h : Hdr) (payload : List Byte) : OptKeeps base (acceptNotice s sid h payload) := by
  unfold acceptNotice
  repeat' first
    | with_reducible assumption
    | with_reducible apply stallFault_keeps
    | with_reducible apply modQu_keeps
    | with_reducible apply staleDrop_keeps
    | with_reducible apply enterTarget_keeps
    | with_reducible apply finishTarget_keeps
    | with_reducible apply countMiss_keeps
    | with_reducible apply OptKeeps.some
    | with_reducible apply OptKeeps.ite
    | exact OptKeeps.none
    | intro _
    | dsimp only
    | split
    | with_reducible refine Keeps.upd ?_ ?_ ?_ ?_ ?_ ?_ ?_ ?_ ?_ ?_ ?_ ?_
    | (obtain ⟨⟩ := ‹Keeps base _›.canon; with_reducible assumption)

theorem ejectHeader_keeps {base s : State} (hk : Keeps base s) (sid : Nat) (vc : Nat) : Keeps base (ejectHeader s sid vc) := by
  unfold ejectHeader
  repeat' first
    | with_reducible assumption
    | with_reducible apply clearEj_keeps
    | with_reducible apply requestWake_keeps
    | with_reducible apply acceptHeader_keeps
    | with_reducible apply discardAt_keeps
    | with_reducible apply countUnreach_keeps
    | with_reducible apply Keeps.ite
    | intro _
    | dsimp only
    | split
    | with_reducible refine Keeps.upd ?_ ?_ ?_ ?_ ?_ ?_ ?_ ?_ ?_ ?_ ?_ ?_
    | (obtain ⟨⟩ := ‹Keeps base _›.canon; with_reducible assumption)

theorem execMessageAcceptance_keeps {base s : State} (hk : Keeps base s) (sid : StallId) (vc : Fin 3) (par : Bool) :
    OutKeeps base (execMessageAcceptance sid vc par s) := by
  unfold execMessageAcceptance
  extract_lets u here s1 via
  have h1 : Keeps base s1 := parity_keeps hk _ _
  have hv : OptKeeps base via := by
    refine OptKeeps.ite ?_ OptKeeps.none
    split
    · exact OptKeeps.none
    · exact acceptNotice_keeps h1 _ _ _
  apply OutKeeps.next
  revert hv
  cases via <;> intro hv
  · exact ejectHeader_keeps h1 _ _
  · exact hv

theorem execMessageComplete_keeps {base s : State} (hk : Keeps base s) (sid : StallId) (vc : Fin 3) : OutKeeps base (execMessageComplete sid vc s) := by
  unfold execMessageComplete
  repeat' first
    | with_reducible assumption
    | with_reducible apply modQu_keeps
    | with_reducible apply arrived_keeps
    | with_reducible apply removeTrack_keeps
    | with_reducible apply OutKeeps.next
    | intro _
    | dsimp only
    | split
    | with_reducible refine Keeps.upd ?_ ?_ ?_ ?_ ?_ ?_ ?_ ?_ ?_ ?_ ?_ ?_
    | (obtain ⟨⟩ := ‹Keeps base _›.canon; repeat' (first | with_reducible assumption | with_reducible apply gwf_gset))

theorem execContributionCounted_keeps {base s : State} (hk : Keeps base s) (sid : StallId) (vc : Fin 3) : OutKeeps base (execContributionCounted sid vc s) := by
  unfold execContributionCounted
  repeat' first
    | with_reducible assumption
    | with_reducible apply modQu_keeps
    | with_reducible apply addContribution_keeps
    | with_reducible apply removeTrack_keeps
    | with_reducible apply OutKeeps.next
    | intro _
    | dsimp only
    | split
    | with_reducible refine Keeps.upd ?_ ?_ ?_ ?_ ?_ ?_ ?_ ?_ ?_ ?_ ?_ ?_
    | (obtain ⟨⟩ := ‹Keeps base _›.canon; repeat' (first | with_reducible assumption | with_reducible apply gwf_gset))

theorem execRelayCopy_keeps {base s : State} (hk : Keeps base s) (sid : StallId) : OutKeeps base (execRelayCopy sid s) := by
  unfold execRelayCopy
  repeat' first
    | with_reducible assumption
    | with_reducible apply modQu_keeps
    | with_reducible apply inject_keeps
    | with_reducible apply Keeps.ite
    | with_reducible apply OutKeeps.next
    | intro _
    | dsimp only
    | split
    | with_reducible refine Keeps.upd ?_ ?_ ?_ ?_ ?_ ?_ ?_ ?_ ?_ ?_ ?_ ?_
    | (obtain ⟨⟩ := ‹Keeps base _›.canon; with_reducible assumption)

theorem execReleaseBegin_keeps {base s : State} (hk : Keeps base s) (sid : StallId) (slot : Fin 8) : OutKeeps base (execReleaseBegin sid slot s) := by
  unfold execReleaseBegin
  repeat' first
    | with_reducible assumption
    | with_reducible apply modQu_keeps
    | with_reducible apply Keeps.ite
    | with_reducible apply OutKeeps.next
    | intro _
    | dsimp only
    | split
    | with_reducible refine Keeps.upd ?_ ?_ ?_ ?_ ?_ ?_ ?_ ?_ ?_ ?_ ?_ ?_
    | (obtain ⟨⟩ := ‹Keeps base _›.canon; repeat' (first | with_reducible assumption | with_reducible apply gwf_gset | with_reducible apply gwf_gmod))

theorem execReleaseComplete_keeps {base s : State} (hk : Keeps base s) (sid : StallId) (slot : Fin 8) : OutKeeps base (execReleaseComplete sid slot s) := by
  unfold execReleaseComplete
  repeat' first
    | with_reducible assumption
    | with_reducible apply progress_keeps
    | with_reducible apply modQu_keeps
    | with_reducible apply Keeps.ite
    | with_reducible apply OutKeeps.next
    | intro _
    | dsimp only
    | split
    | with_reducible refine Keeps.upd ?_ ?_ ?_ ?_ ?_ ?_ ?_ ?_ ?_ ?_ ?_ ?_
    | (obtain ⟨⟩ := ‹Keeps base _›.canon; repeat' (first | with_reducible assumption | with_reducible apply gwf_gset | with_reducible apply gwf_gmodKeys))

theorem execPenLeave_keeps {base s : State} (hk : Keeps base s) (sid : StallId) : OutKeeps base (execPenLeave sid s) := by
  unfold execPenLeave
  repeat' first
    | with_reducible assumption
    | with_reducible apply modQu_keeps
    | with_reducible apply enterTarget_keeps
    | with_reducible apply finishTarget_keeps
    | with_reducible apply Keeps.ite
    | with_reducible apply OutKeeps.next
    | intro _
    | dsimp only
    | split
    | with_reducible refine Keeps.upd ?_ ?_ ?_ ?_ ?_ ?_ ?_ ?_ ?_ ?_ ?_ ?_
    | (obtain ⟨⟩ := ‹Keeps base _›.canon; with_reducible assumption)

theorem execDispatch_keeps {base s : State} (hk : Keeps base s) (sid : StallId) (par : Bool) : OutKeeps base (execDispatch sid par s) := by
  unfold execDispatch
  repeat' first
    | with_reducible assumption
    | with_reducible apply parity_keeps
    | with_reducible apply passFree_keeps
    | with_reducible apply modSeq_keeps
    | with_reducible apply Keeps.ite
    | with_reducible apply OutKeeps.next
    | intro _
    | dsimp only
    | split
    | with_reducible refine Keeps.upd ?_ ?_ ?_ ?_ ?_ ?_ ?_ ?_ ?_ ?_ ?_ ?_
    | (obtain ⟨⟩ := ‹Keeps base _›.canon; with_reducible assumption)

theorem execProgressWatchdogFire_keeps {base s : State} (hk : Keeps base s) (yard : YardId) (shed : ShedNo) : OutKeeps base (execProgressWatchdogFire yard shed s) := by
  unfold execProgressWatchdogFire
  repeat' first
    | with_reducible assumption
    | with_reducible apply hwAbort_keeps
    | with_reducible apply modShed_keeps
    | with_reducible apply record_keeps
    | with_reducible apply Keeps.ite
    | with_reducible apply OutKeeps.next
    | intro _
    | dsimp only
    | split
    | with_reducible refine Keeps.upd ?_ ?_ ?_ ?_ ?_ ?_ ?_ ?_ ?_ ?_ ?_ ?_
    | (obtain ⟨⟩ := ‹Keeps base _›.canon; with_reducible assumption)

/-! Gates. -/

theorem switchEpoch_keeps {base s : State} (hk : Keeps base s)  : Keeps base (switchEpoch s) := by
  unfold switchEpoch
  repeat' first
    | with_reducible assumption
    | intro _
    | dsimp only
    | with_reducible refine Keeps.upd ?_ ?_ ?_ ?_ ?_ ?_ ?_ ?_ ?_ ?_ ?_ ?_
    | (obtain ⟨⟩ := ‹Keeps base _›.canon; with_reducible assumption)

theorem execEpochDrained_keeps {base s : State} (hk : Keeps base s)  : OutKeeps base (execEpochDrained s) := by
  unfold execEpochDrained
  repeat' first
    | with_reducible assumption
    | with_reducible apply Keeps.ite
    | with_reducible apply OutKeeps.next
    | intro _
    | dsimp only
    | split
    | with_reducible refine Keeps.upd ?_ ?_ ?_ ?_ ?_ ?_ ?_ ?_ ?_ ?_ ?_ ?_
    | (obtain ⟨⟩ := ‹Keeps base _›.canon; with_reducible assumption)

theorem writeEpoch_keeps {base s : State} (hk : Keeps base s) (data : Nat) : Keeps base (writeEpoch data s) := by
  unfold writeEpoch
  repeat' first
    | with_reducible assumption
    | with_reducible apply Keeps.ite
    | intro _
    | dsimp only
    | split
    | with_reducible refine Keeps.upd ?_ ?_ ?_ ?_ ?_ ?_ ?_ ?_ ?_ ?_ ?_ ?_
    | (obtain ⟨⟩ := ‹Keeps base _›.canon; with_reducible assumption)

theorem execSecEpochWrite_keeps {base s : State} (hk : Keeps base s) (o : Origin) (data : Word64) : OutKeeps base (execSecEpochWrite o data s) := by
  unfold execSecEpochWrite
  repeat' first
    | with_reducible assumption
    | with_reducible apply writeEpoch_keeps
    | with_reducible apply asAuth_keeps
    | with_reducible apply OutKeeps.next
    | intro _
    | dsimp only

theorem modRoute_keeps {base s : State} (hk : Keeps base s) (v : Bool) (f : RouteTable → RouteTable) : Keeps base (modRoute s v f) := by
  unfold modRoute
  repeat' first
    | with_reducible assumption
    | with_reducible apply Keeps.ite
    | intro _
    | dsimp only
    | split
    | with_reducible refine Keeps.upd ?_ ?_ ?_ ?_ ?_ ?_ ?_ ?_ ?_ ?_ ?_ ?_
    | (obtain ⟨⟩ := ‹Keeps base _›.canon; with_reducible assumption)

theorem execRouteTableWrite_keeps {base s : State} (hk : Keeps base s) (version : Bool) (sid : StallId) (entries : List Byte) : OutKeeps base (execRouteTableWrite version sid entries s) := by
  unfold execRouteTableWrite
  repeat' first
    | with_reducible assumption
    | with_reducible apply modRoute_keeps
    | with_reducible apply modYard_keeps
    | with_reducible apply Keeps.ite
    | with_reducible apply OutKeeps.next
    | with_reducible apply OutKeeps.ite
    | trivial
    | intro _
    | dsimp only
    | split
    | with_reducible refine Keeps.upd ?_ ?_ ?_ ?_ ?_ ?_ ?_ ?_ ?_ ?_ ?_ ?_
    | (obtain ⟨⟩ := ‹Keeps base _›.canon; repeat' (first | with_reducible assumption | with_reducible apply gwf_gmodKeys))

theorem execDetourInstall_keeps {base s : State} (hk : Keeps base s)  : OutKeeps base (execDetourInstall s) := by
  unfold execDetourInstall
  repeat' first
    | with_reducible assumption
    | with_reducible apply modRoute_keeps
    | with_reducible apply Keeps.ite
    | with_reducible apply OutKeeps.next
    | intro _
    | dsimp only
    | split
    | with_reducible refine Keeps.upd ?_ ?_ ?_ ?_ ?_ ?_ ?_ ?_ ?_ ?_ ?_ ?_
    | (obtain ⟨⟩ := ‹Keeps base _›.canon; repeat' (first | with_reducible assumption | with_reducible apply gwf_gconst))

theorem realignTally_keeps {base s : State} (hk : Keeps base s) (bit : Nat) (sid : Nat) (k : Nat) : Keeps base (realignTally bit sid s k) := by
  unfold realignTally
  repeat' first
    | with_reducible assumption
    | with_reducible apply setTally_keeps
    | with_reducible apply tallyDrift_keeps
    | with_reducible apply Keeps.ite
    | intro _
    | dsimp only
    | split

theorem clearPend_keeps {base s : State} (hk : Keeps base s) (bit : Nat) (sid : Nat) : Keeps base (clearPend bit s sid) := by
  unfold clearPend
  repeat' first
    | with_reducible assumption
    | with_reducible apply realignTally_keeps
    | with_reducible apply modStall_keeps
    | with_reducible apply requestWake_keeps
    | with_reducible apply Keeps.ite
    | with_reducible refine Keeps.foldl ?_ (fun _ _ _ => ?_)
    | intro _
    | dsimp only
    | split
    | with_reducible refine Keeps.upd ?_ ?_ ?_ ?_ ?_ ?_ ?_ ?_ ?_ ?_ ?_ ?_
    | (obtain ⟨⟩ := ‹Keeps base _›.canon; with_reducible assumption)

theorem invertPhase_keeps {base s : State} (hk : Keeps base s) (scope : Nat) (unit : Nat) (line : Nat) : Keeps base (invertPhase s scope unit line) := by
  unfold invertPhase
  repeat' first
    | with_reducible assumption
    | with_reducible apply modShed_keeps
    | with_reducible apply modYard_keeps
    | with_reducible apply Keeps.ite
    | intro _
    | dsimp only
    | split
    | with_reducible refine Keeps.upd ?_ ?_ ?_ ?_ ?_ ?_ ?_ ?_ ?_ ?_ ?_ ?_
    | (obtain ⟨⟩ := ‹Keeps base _›.canon; with_reducible assumption)

theorem execGateOpening_keeps {base s : State} (hk : Keeps base s) (scope : Fin 3) (unit : Nat) (line : Fin 16) : OutKeeps base (execGateOpening scope unit line s) := by
  unfold execGateOpening
  repeat' first
    | with_reducible assumption
    | with_reducible apply switchEpoch_keeps
    | with_reducible apply clearPend_keeps
    | with_reducible apply invertPhase_keeps
    | with_reducible apply Keeps.ite
    | with_reducible apply OutKeeps.next
    | with_reducible refine Keeps.foldl ?_ (fun _ _ _ => ?_)
    | intro _
    | dsimp only
    | split
    | with_reducible refine Keeps.upd ?_ ?_ ?_ ?_ ?_ ?_ ?_ ?_ ?_ ?_ ?_ ?_
    | (obtain ⟨⟩ := ‹Keeps base _›.canon; with_reducible assumption)

/-! Tack. -/

theorem applyRtd_keeps {base s : State} (hk : Keeps base s) (rs : List Word64) : Keeps base (applyRtd s rs) := by
  unfold applyRtd
  repeat' first
    | with_reducible assumption
    | with_reducible apply modRoute_keeps
    | with_reducible refine Keeps.foldl ?_ (fun _ _ _ => ?_)
    | intro _
    | dsimp only

theorem applyMrd_keeps {base s : State} (hk : Keeps base s) (rs : List (Nat × Word64)) : Keeps base (applyMrd s rs) := by
  unfold applyMrd
  repeat' first
    | with_reducible assumption
    | with_reducible apply Keeps.ite
    | with_reducible refine Keeps.foldl ?_ (fun _ _ _ => ?_)
    | intro _
    | dsimp only
    | split
    | with_reducible refine Keeps.upd ?_ ?_ ?_ ?_ ?_ ?_ ?_ ?_ ?_ ?_ ?_ ?_
    | (obtain ⟨⟩ := ‹Keeps base _›.canon; repeat' (first | with_reducible assumption | with_reducible apply gwf_gset))

/-! Sections. -/

theorem cmdErr_keeps {base s : State} (hk : Keeps base s) (p : Nat) (code : Nat) : Keeps base (cmdErr s p code) := by
  unfold cmdErr
  repeat' first
    | with_reducible assumption
    | with_reducible apply modPlace_keeps
    | intro _
    | dsimp only
    | with_reducible refine Keeps.upd ?_ ?_ ?_ ?_ ?_ ?_ ?_ ?_ ?_ ?_ ?_ ?_
    | (obtain ⟨⟩ := ‹Keeps base _›.canon; with_reducible assumption)

theorem hmemParity_keeps {base s : State} (hk : Keeps base s)  : Keeps base (hmemParity s) := by
  unfold hmemParity
  repeat' first
    | with_reducible assumption
    | with_reducible apply record_keeps
    | intro _
    | dsimp only

theorem takeLoad_keeps {base s : State} (hk : Keeps base s) (p : Nat) : Keeps base (takeLoad p s) := by
  unfold takeLoad
  repeat' first
    | with_reducible assumption
    | with_reducible apply modPlace_keeps
    | with_reducible apply cmdErr_keeps
    | with_reducible apply Keeps.ite
    | intro _
    | dsimp only
    | split
    | with_reducible refine Keeps.upd ?_ ?_ ?_ ?_ ?_ ?_ ?_ ?_ ?_ ?_ ?_ ?_
    | (obtain ⟨⟩ := ‹Keeps base _›.canon; with_reducible assumption)

theorem rackAll_keeps {base s : State} (hk : Keeps base s) (p : Nat) (m : Mem) : Keeps base (rackAll s p m) := by
  unfold rackAll
  repeat' first
    | with_reducible assumption
    | with_reducible apply Keeps.ite
    | intro _
    | dsimp only
    | split
    | with_reducible refine Keeps.upd ?_ ?_ ?_ ?_ ?_ ?_ ?_ ?_ ?_ ?_ ?_ ?_
    | (obtain ⟨⟩ := ‹Keeps base _›.canon; repeat' (first | with_reducible assumption | with_reducible apply gwf_gupdate))

theorem execLoadComplete_keeps {base s : State} (hk : Keeps base s) (place : PlaceNo) (memErr : Bool) : OutKeeps base (execLoadComplete place memErr s) := by
  unfold execLoadComplete
  repeat' first
    | with_reducible assumption
    | with_reducible apply modPlace_keeps
    | with_reducible apply hmemParity_keeps
    | with_reducible apply rackAll_keeps
    | with_reducible apply Keeps.ite
    | with_reducible apply OutKeeps.next
    | intro _
    | dsimp only
    | split
    | with_reducible refine Keeps.upd ?_ ?_ ?_ ?_ ?_ ?_ ?_ ?_ ?_ ?_ ?_ ?_
    | (obtain ⟨⟩ := ‹Keeps base _›.canon; with_reducible assumption)

theorem takeEvict_keeps {base s : State} (hk : Keeps base s) (p : Nat) : Keeps base (takeEvict p s) := by
  unfold takeEvict
  repeat' first
    | with_reducible assumption
    | with_reducible apply modPlace_keeps
    | with_reducible apply cmdErr_keeps
    | with_reducible apply Keeps.ite
    | intro _
    | dsimp only
    | split

theorem takeReload_keeps {base s : State} (hk : Keeps base s) (p : Nat) : Keeps base (takeReload p s) := by
  unfold takeReload
  repeat' first
    | with_reducible assumption
    | with_reducible apply modPlace_keeps
    | with_reducible apply cmdErr_keeps
    | with_reducible apply Keeps.ite
    | intro _
    | dsimp only
    | split
    | with_reducible refine Keeps.upd ?_ ?_ ?_ ?_ ?_ ?_ ?_ ?_ ?_ ?_ ?_ ?_
    | (obtain ⟨⟩ := ‹Keeps base _›.canon; with_reducible assumption)

theorem execReloadComplete_keeps {base s : State} (hk : Keeps base s) (place : PlaceNo) (memErr : Bool) : OutKeeps base (execReloadComplete place memErr s) := by
  unfold execReloadComplete
  repeat' first
    | with_reducible assumption
    | with_reducible apply modPlace_keeps
    | with_reducible apply hmemParity_keeps
    | with_reducible apply Keeps.ite
    | with_reducible apply OutKeeps.next
    | intro _
    | dsimp only
    | split
    | with_reducible refine Keeps.upd ?_ ?_ ?_ ?_ ?_ ?_ ?_ ?_ ?_ ?_ ?_ ?_
    | (obtain ⟨⟩ := ‹Keeps base _›.canon; repeat' (first | with_reducible assumption | with_reducible apply gwf_gmodKeys))

theorem fixDevState_keeps {base s : State} (hk : Keeps base s)  : Keeps base (fixDevState s) := by
  unfold fixDevState
  repeat' first
    | with_reducible assumption
    | with_reducible apply Keeps.ite
    | intro _
    | dsimp only
    | split
    | with_reducible refine Keeps.upd ?_ ?_ ?_ ?_ ?_ ?_ ?_ ?_ ?_ ?_ ?_ ?_
    | (obtain ⟨⟩ := ‹Keeps base _›.canon; with_reducible assumption)

theorem flipShed_keeps {base s : State} (hk : Keeps base s) (k : Nat) : Keeps base (flipShed s k) := by
  unfold flipShed
  repeat' first
    | with_reducible assumption
    | with_reducible apply modShed_keeps
    | with_reducible apply modPShed_keeps
    | intro _
    | dsimp only
    | with_reducible refine Keeps.upd ?_ ?_ ?_ ?_ ?_ ?_ ?_ ?_ ?_ ?_ ?_ ?_
    | (obtain ⟨⟩ := ‹Keeps base _›.canon; repeat' (first | with_reducible assumption | with_reducible apply gwf_gmodKeys))

theorem openSheds_keeps {base s : State} (hk : Keeps base s)  : Keeps base (openSheds s) := by
  unfold openSheds
  repeat' first
    | with_reducible assumption
    | with_reducible apply modPShed_keeps
    | with_reducible apply Keeps.ite
    | with_reducible refine Keeps.foldl ?_ (fun _ _ _ => ?_)
    | intro _
    | dsimp only
    | split
    | with_reducible refine Keeps.upd ?_ ?_ ?_ ?_ ?_ ?_ ?_ ?_ ?_ ?_ ?_ ?_
    | (obtain ⟨⟩ := ‹Keeps base _›.canon; repeat' (first | with_reducible assumption | with_reducible apply gwf_gmodKeys | with_reducible apply gwf_gupdate))

theorem sendOpen_keeps {base s : State} (hk : Keeps base s) (p : Nat) : Keeps base (sendOpen s p) := by
  unfold sendOpen
  repeat' first
    | with_reducible assumption
    | with_reducible apply openSheds_keeps
    | intro _
    | dsimp only
    | with_reducible refine Keeps.upd ?_ ?_ ?_ ?_ ?_ ?_ ?_ ?_ ?_ ?_ ?_ ?_
    | (obtain ⟨⟩ := ‹Keeps base _›.canon; repeat' (first | with_reducible assumption | with_reducible apply gwf_gmapAll))

theorem takeStart_keeps {base s : State} (hk : Keeps base s) (p : Nat) : Keeps base (takeStart p s) := by
  unfold takeStart
  repeat' first
    | with_reducible assumption
    | with_reducible apply cmdErr_keeps
    | with_reducible apply sendOpen_keeps
    | with_reducible apply Keeps.ite
    | intro _
    | dsimp only
    | split
    | with_reducible refine Keeps.upd ?_ ?_ ?_ ?_ ?_ ?_ ?_ ?_ ?_ ?_ ?_ ?_
    | (obtain ⟨⟩ := ‹Keeps base _›.canon; with_reducible assumption)

theorem autoStart_keeps {base s : State} (hk : Keeps base s)  : Keeps base (autoStart s) := by
  unfold autoStart
  repeat' first
    | with_reducible assumption
    | with_reducible apply cmdErr_keeps
    | with_reducible apply sendOpen_keeps
    | with_reducible apply Keeps.ite
    | intro _
    | dsimp only
    | split
    | with_reducible refine Keeps.upd ?_ ?_ ?_ ?_ ?_ ?_ ?_ ?_ ?_ ?_ ?_ ?_
    | (obtain ⟨⟩ := ‹Keeps base _›.canon; with_reducible assumption)

theorem releaseStart_keeps {base s : State} (hk : Keeps base s)  : Keeps base (releaseStart s) := by
  unfold releaseStart
  repeat' first
    | with_reducible assumption
    | with_reducible apply takeStart_keeps
    | with_reducible apply autoStart_keeps
    | with_reducible apply Keeps.ite
    | intro _
    | dsimp only
    | split
    | with_reducible refine Keeps.upd ?_ ?_ ?_ ?_ ?_ ?_ ?_ ?_ ?_ ?_ ?_ ?_
    | (obtain ⟨⟩ := ‹Keeps base _›.canon; with_reducible assumption)

theorem armEndsLunge_keeps {base s : State} (hk : Keeps base s) (p : Nat) : Keeps base (armEndsLunge s p) := by
  unfold armEndsLunge
  repeat' first
    | with_reducible assumption
    | with_reducible apply modPShed_keeps
    | with_reducible apply Keeps.ite
    | intro _
    | dsimp only
    | split
    | with_reducible refine Keeps.upd ?_ ?_ ?_ ?_ ?_ ?_ ?_ ?_ ?_ ?_ ?_ ?_
    | (obtain ⟨⟩ := ‹Keeps base _›.canon; with_reducible assumption)

theorem takeArm_keeps {base s : State} (hk : Keeps base s) (p : Nat) (auto : Bool) : Keeps base (takeArm p auto s) := by
  unfold takeArm
  repeat' first
    | with_reducible assumption
    | with_reducible apply modPlace_keeps
    | with_reducible apply cmdErr_keeps
    | with_reducible apply armEndsLunge_keeps
    | with_reducible apply Keeps.ite
    | intro _
    | dsimp only
    | split
    | with_reducible refine Keeps.upd ?_ ?_ ?_ ?_ ?_ ?_ ?_ ?_ ?_ ?_ ?_ ?_
    | (obtain ⟨⟩ := ‹Keeps base _›.canon; with_reducible assumption)

theorem armDeltas_keeps {base s : State} (hk : Keeps base s) (p : Nat) : Keeps base (armDeltas s p) := by
  unfold armDeltas
  repeat' first
    | with_reducible assumption
    | with_reducible apply writeEpoch_keeps
    | with_reducible apply applyRtd_keeps
    | with_reducible apply applyMrd_keeps
    | with_reducible apply Keeps.ite
    | intro _
    | dsimp only
    | split
    | with_reducible refine Keeps.upd ?_ ?_ ?_ ?_ ?_ ?_ ?_ ?_ ?_ ?_ ?_ ?_
    | (obtain ⟨⟩ := ‹Keeps base _›.canon; repeat' (first | with_reducible assumption | with_reducible apply gwf_gmapAll))

theorem execArmComplete_keeps {base s : State} (hk : Keeps base s) : OutKeeps base (execArmComplete s) := by
  unfold execArmComplete
  apply OutKeeps.next
  split
  · exact hk
  · rename_i p _
    extract_lets _ s1
    have h1 : Keeps base s1 := by
      with_reducible refine Keeps.upd hk ?_ ?_ ?_ ?_ ?_ ?_ ?_ ?_ ?_ ?_ ?_
      all_goals (intro h; obtain ⟨⟩ := h.canon; with_reducible assumption)
    split
    · rename_i sid _
      extract_lets r s2 _
      have h2 : Keeps base s2 := modPlace_keeps h1 _ _
      with_reducible refine Keeps.upd h2 ?_ ?_ ?_ ?_ ?_ ?_ ?_ ?_ ?_ ?_ ?_
      all_goals (intro h; obtain ⟨⟩ := h.canon; with_reducible assumption)
    · rename_i s2 s3 _ _
      have h2 : Keeps base s2 := by
        with_reducible refine Keeps.upd h1 ?_ ?_ ?_ ?_ ?_ ?_ ?_ ?_ (fun h => gwf_gmapAll h.canon.stalls _) ?_ ?_
        all_goals (intro h; obtain ⟨⟩ := h.canon; with_reducible assumption)
      have h3 : Keeps base s3 := Keeps.ite (armDeltas_keeps h2 _) h2
      exact autoStart_keeps (modPlace_keeps h3 _ _)

theorem disarmPlace_keeps {base s : State} (hk : Keeps base s) (p : Nat) : Keeps base (disarmPlace s p) := by
  unfold disarmPlace
  repeat' first
    | with_reducible assumption
    | with_reducible apply modPlace_keeps
    | intro _
    | dsimp only
    | with_reducible refine Keeps.upd ?_ ?_ ?_ ?_ ?_ ?_ ?_ ?_ ?_ ?_ ?_ ?_
    | (obtain ⟨⟩ := ‹Keeps base _›.canon; with_reducible assumption)

theorem takeDisarm_keeps {base s : State} (hk : Keeps base s) (p : Nat) : Keeps base (takeDisarm p s) := by
  unfold takeDisarm
  repeat' first
    | with_reducible assumption
    | with_reducible apply cmdErr_keeps
    | with_reducible apply disarmPlace_keeps
    | with_reducible apply Keeps.ite
    | intro _
    | dsimp only
    | split

theorem takeSec_keeps {base s : State} (hk : Keeps base s) (cmd : Nat) (place : Nat) (auto : Bool) : Keeps base (takeSec cmd place auto s) := by
  unfold takeSec
  repeat' first
    | with_reducible assumption
    | with_reducible apply requestAbort_keeps
    | with_reducible apply takeLoad_keeps
    | with_reducible apply takeEvict_keeps
    | with_reducible apply takeReload_keeps
    | with_reducible apply takeStart_keeps
    | with_reducible apply takeArm_keeps
    | with_reducible apply takeDisarm_keeps
    | with_reducible apply Keeps.ite
    | intro _
    | dsimp only
    | split

theorem writeSecCtrl_keeps {base s : State} (hk : Keeps base s) (data : Nat) : Keeps base (writeSecCtrl data s) := by
  unfold writeSecCtrl
  repeat' first
    | with_reducible assumption
    | with_reducible apply takeSec_keeps
    | with_reducible apply Keeps.ite
    | intro _
    | dsimp only
    | split
    | with_reducible refine Keeps.upd ?_ ?_ ?_ ?_ ?_ ?_ ?_ ?_ ?_ ?_ ?_ ?_
    | (obtain ⟨⟩ := ‹Keeps base _›.canon; with_reducible assumption)

theorem secCommand_keeps {base s : State} (hk : Keeps base s) (o : Origin) (cmd : Nat) (place : Nat) (auto : Bool) : OutKeeps base (secCommand o cmd place auto s) := by
  unfold secCommand
  repeat' first
    | with_reducible assumption
    | with_reducible apply asAuth_keeps
    | with_reducible apply writeSecCtrl_keeps
    | with_reducible apply OutKeeps.next
    | intro _
    | dsimp only

theorem execLoad_keeps {base s : State} (hk : Keeps base s) (o : Origin) (place : PlaceNo) : OutKeeps base (execLoad o place s) := by
  unfold execLoad
  repeat' first
    | with_reducible assumption
    | with_reducible apply secCommand_keeps
    | with_reducible apply OutKeeps.next
    | intro _
    | dsimp only

theorem execArm_keeps {base s : State} (hk : Keeps base s) (o : Origin) (place : PlaceNo) (auto : Bool) : OutKeeps base (execArm o place auto s) := by
  unfold execArm
  repeat' first
    | with_reducible assumption
    | with_reducible apply secCommand_keeps
    | with_reducible apply OutKeeps.next
    | intro _
    | dsimp only

theorem execStart_keeps {base s : State} (hk : Keeps base s) (o : Origin) (place : PlaceNo) : OutKeeps base (execStart o place s) := by
  unfold execStart
  repeat' first
    | with_reducible assumption
    | with_reducible apply secCommand_keeps
    | with_reducible apply OutKeeps.next
    | intro _
    | dsimp only

theorem execAbort_keeps {base s : State} (hk : Keeps base s) (o : Origin) : OutKeeps base (execAbort o s) := by
  unfold execAbort
  repeat' first
    | with_reducible assumption
    | with_reducible apply secCommand_keeps
    | with_reducible apply OutKeeps.next
    | intro _
    | dsimp only

theorem execDisarm_keeps {base s : State} (hk : Keeps base s) (o : Origin) (place : PlaceNo) : OutKeeps base (execDisarm o place s) := by
  unfold execDisarm
  repeat' first
    | with_reducible assumption
    | with_reducible apply secCommand_keeps
    | with_reducible apply OutKeeps.next
    | intro _
    | dsimp only

theorem execEvict_keeps {base s : State} (hk : Keeps base s) (o : Origin) (place : PlaceNo) : OutKeeps base (execEvict o place s) := by
  unfold execEvict
  repeat' first
    | with_reducible assumption
    | with_reducible apply secCommand_keeps
    | with_reducible apply OutKeeps.next
    | intro _
    | dsimp only

theorem execReload_keeps {base s : State} (hk : Keeps base s) (o : Origin) (place : PlaceNo) : OutKeeps base (execReload o place s) := by
  unfold execReload
  repeat' first
    | with_reducible assumption
    | with_reducible apply secCommand_keeps
    | with_reducible apply OutKeeps.next
    | intro _
    | dsimp only

theorem beginStalls_keeps {base s : State} (hk : Keeps base s)  : Keeps base (beginStalls s) := by
  unfold beginStalls
  repeat' first
    | with_reducible assumption
    | intro _
    | dsimp only
    | with_reducible refine Keeps.upd ?_ ?_ ?_ ?_ ?_ ?_ ?_ ?_ ?_ ?_ ?_ ?_
    | (obtain ⟨⟩ := ‹Keeps base _›.canon; repeat' (first | with_reducible assumption | with_reducible apply gwf_gmodKeys))

theorem startPower_keeps {base s : State} (hk : Keeps base s) (p : Nat) : Keeps base (startPower s p) := by
  unfold startPower
  repeat' first
    | with_reducible assumption
    | with_reducible apply Keeps.ite
    | intro _
    | dsimp only
    | split
    | with_reducible refine Keeps.upd ?_ ?_ ?_ ?_ ?_ ?_ ?_ ?_ ?_ ?_ ?_ ?_
    | (obtain ⟨⟩ := ‹Keeps base _›.canon; with_reducible assumption)

theorem execStartOpening_keeps {base s : State} (hk : Keeps base s)  : OutKeeps base (execStartOpening s) := by
  unfold execStartOpening
  repeat' first
    | with_reducible assumption
    | with_reducible apply switchEpoch_keeps
    | with_reducible apply invertPhase_keeps
    | with_reducible apply modPlace_keeps
    | with_reducible apply fixDevState_keeps
    | with_reducible apply beginStalls_keeps
    | with_reducible apply startPower_keeps
    | with_reducible apply Keeps.ite
    | with_reducible apply OutKeeps.next
    | intro _
    | dsimp only
    | split
    | with_reducible refine Keeps.upd ?_ ?_ ?_ ?_ ?_ ?_ ?_ ?_ ?_ ?_ ?_ ?_
    | (obtain ⟨⟩ := ‹Keeps base _›.canon; with_reducible assumption)

theorem closeStall_keeps {base s : State} (hk : Keeps base s) (sid : Nat) : Keeps base (closeStall s sid) := by
  unfold closeStall
  repeat' first
    | with_reducible assumption
    | with_reducible apply tallyDrift_keeps
    | with_reducible apply gateLeftOpen_keeps
    | with_reducible apply Keeps.ite
    | with_reducible refine Keeps.foldl ?_ (fun _ _ _ => ?_)
    | intro _
    | dsimp only
    | split

theorem closeStalls_keeps {base s : State} (hk : Keeps base s)  : Keeps base (closeStalls s) := by
  unfold closeStalls
  repeat' first
    | with_reducible assumption
    | intro _
    | dsimp only
    | with_reducible refine Keeps.upd ?_ ?_ ?_ ?_ ?_ ?_ ?_ ?_ ?_ ?_ ?_ ?_
    | (obtain ⟨⟩ := ‹Keeps base _›.canon; repeat' (first | with_reducible assumption | with_reducible apply gwf_gmapAll))

theorem parkHeld_keeps {base s : State} (hk : Keeps base s)  : Keeps base (parkHeld s) := by
  unfold parkHeld
  repeat' first
    | with_reducible assumption
    | with_reducible apply Keeps.ite
    | intro _
    | dsimp only
    | split
    | with_reducible refine Keeps.upd ?_ ?_ ?_ ?_ ?_ ?_ ?_ ?_ ?_ ?_ ?_ ?_
    | (obtain ⟨⟩ := ‹Keeps base _›.canon; repeat' (first | with_reducible assumption | with_reducible apply gwf_gmapWith))

theorem learnEnd_keeps {base s : State} (hk : Keeps base s) (p : Nat) : Keeps base (learnEnd s p) := by
  unfold learnEnd
  repeat' first
    | with_reducible assumption
    | intro _
    | dsimp only
    | split
    | with_reducible refine Keeps.upd ?_ ?_ ?_ ?_ ?_ ?_ ?_ ?_ ?_ ?_ ?_ ?_
    | (obtain ⟨⟩ := ‹Keeps base _›.canon; repeat' (first | with_reducible assumption | with_reducible apply gwf_gset))

theorem endHeld_keeps {base s : State} (hk : Keeps base s)  : Keeps base (endHeld s) := by
  unfold endHeld
  repeat' first
    | with_reducible assumption
    | intro _
    | dsimp only
    | with_reducible refine Keeps.upd ?_ ?_ ?_ ?_ ?_ ?_ ?_ ?_ ?_ ?_ ?_ ?_
    | (obtain ⟨⟩ := ‹Keeps base _›.canon; with_reducible assumption)

theorem completeSection_keeps {base s : State} (hk : Keeps base s) (p : Nat) : Keeps base (completeSection s p) := by
  unfold completeSection
  repeat' first
    | with_reducible assumption
    | with_reducible apply bucketsEnd_keeps
    | with_reducible apply modPlace_keeps
    | with_reducible apply closeStall_keeps
    | with_reducible apply closeStalls_keeps
    | with_reducible apply parkHeld_keeps
    | with_reducible apply learnEnd_keeps
    | with_reducible apply endHeld_keeps
    | with_reducible refine Keeps.foldl ?_ (fun _ _ _ => ?_)
    | intro _
    | dsimp only
    | with_reducible refine Keeps.upd ?_ ?_ ?_ ?_ ?_ ?_ ?_ ?_ ?_ ?_ ?_ ?_
    | (obtain ⟨⟩ := ‹Keeps base _›.canon; with_reducible assumption)

theorem execEndLatch_keeps {base s : State} (hk : Keeps base s) : OutKeeps base (execEndLatch s) := by
  unfold execEndLatch
  apply OutKeeps.next
  split
  · exact hk
  · refine Keeps.ite hk ?_
    extract_lets s1
    have h1 : Keeps base s1 := fixDevState_keeps (completeSection_keeps hk _)
    refine Keeps.ite ?_ (Keeps.ite (autoStart_keeps h1) h1)
    with_reducible refine Keeps.upd h1 ?_ ?_ ?_ ?_ ?_ ?_ ?_ ?_ ?_ ?_ ?_
    all_goals (intro h; obtain ⟨⟩ := h.canon; with_reducible assumption)

theorem abortedReached_keeps {base s : State} (hk : Keeps base s)  : Keeps base (abortedReached s) := by
  unfold abortedReached
  repeat' first
    | with_reducible assumption
    | with_reducible apply modPlace_keeps
    | with_reducible apply fixDevState_keeps
    | with_reducible apply autoStart_keeps
    | with_reducible apply Keeps.ite
    | intro _
    | dsimp only
    | split
    | with_reducible refine Keeps.upd ?_ ?_ ?_ ?_ ?_ ?_ ?_ ?_ ?_ ?_ ?_ ?_
    | (obtain ⟨⟩ := ‹Keeps base _›.canon; with_reducible assumption)

theorem landLoft_keeps {base s : State} (hk : Keeps base s) (sid : Nat) (h : LoftHdr) (payload : List Byte) : Keeps base (landLoft s sid h payload) := by
  unfold landLoft
  repeat' first
    | with_reducible assumption
    | with_reducible apply modQu_keeps
    | with_reducible apply modMem_keeps
    | with_reducible apply record_keeps
    | with_reducible apply inject_keeps
    | with_reducible apply Keeps.ite
    | intro _
    | dsimp only
    | split
    | with_reducible refine Keeps.upd ?_ ?_ ?_ ?_ ?_ ?_ ?_ ?_ ?_ ?_ ?_ ?_
    | (obtain ⟨⟩ := ‹Keeps base _›.canon; with_reducible assumption)

theorem execLoftWriteLanding_keeps {base s : State} (hk : Keeps base s) (sid : StallId) : OutKeeps base (execLoftWriteLanding sid s) := by
  unfold execLoftWriteLanding
  repeat' first
    | with_reducible assumption
    | with_reducible apply clearEj_keeps
    | with_reducible apply requestWake_keeps
    | with_reducible apply landLoft_keeps
    | with_reducible apply modTrack_keeps
    | with_reducible apply removeTrack_keeps
    | with_reducible apply discardAt_keeps
    | with_reducible apply countUnreach_keeps
    | with_reducible apply Keeps.ite
    | with_reducible apply OutKeeps.next
    | intro _
    | dsimp only
    | split
    | with_reducible refine Keeps.upd ?_ ?_ ?_ ?_ ?_ ?_ ?_ ?_ ?_ ?_ ?_ ?_
    | (obtain ⟨⟩ := ‹Keeps base _›.canon; with_reducible assumption)

end Sys2Proof.Machine
end

