-- ==== Sys2Proof/Laws/KeepsPort.lean ====
section
/-! SUPPORT. What the commands of streams, buckets, ports, time and mailboxes keep (Safety, `Keeps`). -/

set_option Elab.async false
set_option linter.all false

namespace Sys2Proof.Machine

def GotKeeps (c : State) : Got → Prop
  | .take s => Keeps c s
  | .drop s => Keeps c s

theorem GotKeeps.take {c s : State} (h : Keeps c s) : GotKeeps c (.take s) := h
theorem GotKeeps.drop {c s : State} (h : Keeps c s) : GotKeeps c (.drop s) := h
theorem GotKeeps.ite {c : State} {a b : Got} {p : Prop} [Decidable p] (ha : GotKeeps c a) (hb : GotKeeps c b) : GotKeeps c (if p then a else b) := by
  split <;> assumption

theorem exchangeOffset_keeps {base s : State} (hk : Keeps base s) (t1 t2 t3 t4 : Nat) : Keeps base (exchangeOffset s t1 t2 t3 t4).2 := by
  unfold exchangeOffset takeFresh
  dsimp only
  split
  · exact hk
  · exact Keeps.upd hk (·.canon.places) (·.canon.boxes) (·.canon.rings) (·.canon.buckets) (·.canon.ports)
      (·.canon.yards) (·.canon.sheds) (·.canon.psheds) (·.canon.stalls) (·.canon.hmem) (·.canon.gwin)

/-! Cars. -/

theorem sendLctl_keeps {base s : State} (hk : Keeps base s) (p : Nat) (nak : Bool) : Keeps base (sendLctl s p nak) := by
  unfold sendLctl
  repeat' first
    | with_reducible assumption
    | with_reducible apply modPort_keeps
    | intro _
    | dsimp only
    | with_reducible refine Keeps.upd ?_ ?_ ?_ ?_ ?_ ?_ ?_ ?_ ?_ ?_ ?_ ?_
    | (obtain ⟨⟩ := ‹Keeps base _›.canon; with_reducible assumption)

theorem sendNak_keeps {base s : State} (hk : Keeps base s) (p : Nat) : Keeps base (sendNak s p) := by
  unfold sendNak
  repeat' first
    | with_reducible assumption
    | with_reducible apply sendLctl_keeps
    | with_reducible apply Keeps.ite
    | intro _
    | dsimp only
    | split

theorem quarantine_keeps {base s : State} (hk : Keeps base s) (p : Nat) (cause : Nat) : Keeps base (quarantine s p cause) := by
  unfold quarantine
  repeat' first
    | with_reducible assumption
    | with_reducible apply portState_keeps
    | intro _
    | dsimp only
    | with_reducible refine Keeps.upd ?_ ?_ ?_ ?_ ?_ ?_ ?_ ?_ ?_ ?_ ?_ ?_
    | (obtain ⟨⟩ := ‹Keeps base _›.canon; with_reducible assumption)

theorem gcmFail_keeps {base s : State} (hk : Keeps base s) (p : Nat) : Keeps base (gcmFail s p) := by
  unfold gcmFail
  repeat' first
    | with_reducible assumption
    | with_reducible apply sendNak_keeps
    | with_reducible apply quarantine_keeps
    | with_reducible apply linkAuth_keeps
    | with_reducible apply modPort_keeps
    | with_reducible apply Keeps.ite
    | intro _
    | dsimp only
    | split
    | with_reducible refine Keeps.upd ?_ ?_ ?_ ?_ ?_ ?_ ?_ ?_ ?_ ?_ ?_ ?_
    | (obtain ⟨⟩ := ‹Keeps base _›.canon; with_reducible assumption)

theorem malformed_keeps {base s : State} (hk : Keeps base s) (p : Nat) : Keeps base (malformed s p) := by
  unfold malformed
  repeat' first
    | with_reducible assumption
    | with_reducible apply modPort_keeps
    | intro _
    | dsimp only
    | with_reducible refine Keeps.upd ?_ ?_ ?_ ?_ ?_ ?_ ?_ ?_ ?_ ?_ ?_ ?_
    | (obtain ⟨⟩ := ‹Keeps base _›.canon; with_reducible assumption)

theorem receiveCar_keeps {base s : State} (hk : Keeps base s) (p : Nat) (c : RxCar) : GotKeeps base (receiveCar s p c) := by
  unfold receiveCar
  repeat' first
    | with_reducible assumption
    | with_reducible apply sendNak_keeps
    | with_reducible apply gcmFail_keeps
    | with_reducible apply malformed_keeps
    | with_reducible apply modPort_keeps
    | with_reducible apply Keeps.ite
    | with_reducible apply GotKeeps.take
    | with_reducible apply GotKeeps.drop
    | with_reducible apply GotKeeps.ite
    | intro _
    | dsimp only
    | split
    | with_reducible refine Keeps.upd ?_ ?_ ?_ ?_ ?_ ?_ ?_ ?_ ?_ ?_ ?_ ?_
    | (obtain ⟨⟩ := ‹Keeps base _›.canon; with_reducible assumption)

theorem replayCars_keeps {base s : State} (hk : Keeps base s) (p : Nat) : Keeps base (replayCars s p) := by
  unfold replayCars
  repeat' first
    | with_reducible assumption
    | with_reducible apply linkBer_keeps
    | with_reducible apply portState_keeps
    | with_reducible apply modPort_keeps
    | with_reducible apply Keeps.ite
    | intro _
    | dsimp only
    | split
    | with_reducible refine Keeps.upd ?_ ?_ ?_ ?_ ?_ ?_ ?_ ?_ ?_ ?_ ?_ ?_
    | (obtain ⟨⟩ := ‹Keeps base _›.canon; with_reducible assumption)

theorem applyLctl_keeps {base s : State} (hk : Keeps base s) (p : Nat) (payload : List Byte) : Keeps base (applyLctl s p payload) := by
  unfold applyLctl
  repeat' first
    | with_reducible assumption
    | with_reducible apply replayCars_keeps
    | with_reducible apply modPort_keeps
    | with_reducible apply Keeps.ite
    | intro _
    | dsimp only
    | split
    | with_reducible refine Keeps.upd ?_ ?_ ?_ ?_ ?_ ?_ ?_ ?_ ?_ ?_ ?_ ?_
    | (obtain ⟨⟩ := ‹Keeps base _›.canon; repeat' (first | with_reducible assumption | with_reducible apply gwf_gmodKeys))

theorem execLctlSend_keeps {base s : State} (hk : Keeps base s) (port : PortId) : OutKeeps base (execLctlSend port s) := by
  unfold execLctlSend
  repeat' first
    | with_reducible assumption
    | with_reducible apply sendLctl_keeps
    | with_reducible apply Keeps.ite
    | with_reducible apply OutKeeps.next
    | intro _
    | dsimp only
    | split

theorem execReplayTimeout_keeps {base s : State} (hk : Keeps base s) (port : PortId) : OutKeeps base (execReplayTimeout port s) := by
  unfold execReplayTimeout
  repeat' first
    | with_reducible assumption
    | with_reducible apply replayCars_keeps
    | with_reducible apply Keeps.ite
    | with_reducible apply OutKeeps.next
    | intro _
    | dsimp only
    | split

/-! Streams. -/

theorem takeIssue_keeps {base s : State} (hk : Keeps base s) (p : Nat) (c : Nat) : Keeps base (takeIssue p c s) := by
  unfold takeIssue
  repeat' first
    | with_reducible assumption
    | with_reducible apply sendSctl_keeps
    | with_reducible apply modPort_keeps
    | with_reducible apply modCtx_keeps
    | with_reducible apply Keeps.ite
    | intro _
    | dsimp only
    | split
    | with_reducible refine Keeps.upd ?_ ?_ ?_ ?_ ?_ ?_ ?_ ?_ ?_ ?_ ?_ ?_
    | (obtain ⟨⟩ := ‹Keeps base _›.canon; repeat' (first | with_reducible assumption | with_reducible apply gwf_gconst))

theorem takeCancel_keeps {base s : State} (hk : Keeps base s) (p : Nat) (c : Nat) : Keeps base (takeCancel p c s) := by
  unfold takeCancel
  repeat' first
    | with_reducible assumption
    | with_reducible apply stopStream_keeps
    | with_reducible apply slotFreed_keeps
    | with_reducible apply fixHeld_keeps
    | with_reducible apply modPort_keeps
    | with_reducible apply Keeps.ite
    | intro _
    | dsimp only
    | split
    | with_reducible refine Keeps.upd ?_ ?_ ?_ ?_ ?_ ?_ ?_ ?_ ?_ ?_ ?_ ?_
    | (obtain ⟨⟩ := ‹Keeps base _›.canon; with_reducible assumption)

theorem writeMctrl_keeps {base s : State} (hk : Keeps base s) (p : Nat) (data : Nat) : Keeps base (writeMctrl p data s) := by
  unfold writeMctrl
  repeat' first
    | with_reducible assumption
    | with_reducible apply modPort_keeps
    | with_reducible apply takeIssue_keeps
    | with_reducible apply takeCancel_keeps
    | with_reducible apply Keeps.ite
    | intro _
    | dsimp only
    | split
    | with_reducible refine Keeps.upd ?_ ?_ ?_ ?_ ?_ ?_ ?_ ?_ ?_ ?_ ?_ ?_
    | (obtain ⟨⟩ := ‹Keeps base _›.canon; with_reducible assumption)

theorem execStreamIssue_keeps {base s : State} (hk : Keeps base s) (o : Origin) (port : PortId) (ctx : Fin 32) : OutKeeps base (execStreamIssue o port ctx s) := by
  unfold execStreamIssue
  repeat' first
    | with_reducible assumption
    | with_reducible apply asAuth_keeps
    | with_reducible apply writeMctrl_keeps
    | with_reducible apply OutKeeps.next
    | intro _
    | dsimp only

theorem execStreamCancel_keeps {base s : State} (hk : Keeps base s) (o : Origin) (port : PortId) (ctx : Fin 32) : OutKeeps base (execStreamCancel o port ctx s) := by
  unfold execStreamCancel
  repeat' first
    | with_reducible assumption
    | with_reducible apply asAuth_keeps
    | with_reducible apply writeMctrl_keeps
    | with_reducible apply OutKeeps.next
    | intro _
    | dsimp only

theorem freeSlot_keeps {base s : State} (hk : Keeps base s) (p : Nat) (c : Nat) (b : Nat) : Keeps base (freeSlot s p c b) := by
  unfold freeSlot
  repeat' first
    | with_reducible assumption
    | with_reducible apply modPort_keeps
    | intro _
    | dsimp only
    | with_reducible refine Keeps.upd ?_ ?_ ?_ ?_ ?_ ?_ ?_ ?_ ?_ ?_ ?_ ?_
    | (obtain ⟨⟩ := ‹Keeps base _›.canon; with_reducible assumption)

theorem loseStream_keeps {base s : State} (hk : Keeps base s) (p : Nat) (c : Nat) : Keeps base (loseStream s p c) := by
  unfold loseStream
  repeat' first
    | with_reducible assumption
    | with_reducible apply stopStream_keeps
    | with_reducible apply slotFreed_keeps
    | with_reducible apply fixHeld_keeps
    | with_reducible apply hwAbort_keeps
    | with_reducible apply recordWith_keeps
    | with_reducible apply Keeps.ite
    | intro _
    | dsimp only
    | split
    | with_reducible refine Keeps.upd ?_ ?_ ?_ ?_ ?_ ?_ ?_ ?_ ?_ ?_ ?_ ?_
    | (obtain ⟨⟩ := ‹Keeps base _›.canon; with_reducible assumption)

theorem blockFailed_keeps {base s : State} (hk : Keeps base s) (p : Nat) (c : Nat) (b : Nat) : Keeps base (blockFailed s p c b) := by
  unfold blockFailed
  repeat' first
    | with_reducible assumption
    | with_reducible apply sendResend_keeps
    | with_reducible apply slotFreed_keeps
    | with_reducible apply modPort_keeps
    | with_reducible apply modCtx_keeps
    | with_reducible apply record_keeps
    | with_reducible apply freeSlot_keeps
    | with_reducible apply loseStream_keeps
    | with_reducible apply Keeps.ite
    | intro _
    | dsimp only
    | split
    | with_reducible refine Keeps.upd ?_ ?_ ?_ ?_ ?_ ?_ ?_ ?_ ?_ ?_ ?_ ?_
    | (obtain ⟨⟩ := ‹Keeps base _›.canon; repeat' (first | with_reducible assumption | with_reducible apply gwf_gset))

theorem dupDrop_keeps {base s : State} (hk : Keeps base s) (p : Nat) : Keeps base (dupDrop s p) := by
  unfold dupDrop
  repeat' first
    | with_reducible assumption
    | with_reducible apply modPort_keeps
    | intro _
    | dsimp only
    | with_reducible refine Keeps.upd ?_ ?_ ?_ ?_ ?_ ?_ ?_ ?_ ?_ ?_ ?_ ?_
    | (obtain ⟨⟩ := ‹Keeps base _›.canon; with_reducible assumption)

theorem overrunDrop_keeps {base s : State} (hk : Keeps base s) (p : Nat) (c : Nat) (b : Nat) : Keeps base (overrunDrop s p c b) := by
  unfold overrunDrop
  repeat' first
    | with_reducible assumption
    | with_reducible apply modPort_keeps
    | with_reducible apply modCtx_keeps
    | intro _
    | dsimp only
    | split
    | with_reducible refine Keeps.upd ?_ ?_ ?_ ?_ ?_ ?_ ?_ ?_ ?_ ?_ ?_ ?_
    | (obtain ⟨⟩ := ‹Keeps base _›.canon; with_reducible assumption)

theorem placeCar_keeps {base s : State} (hk : Keeps base s) (p : Nat) (c : Nat) (b : Nat) (k : Nat) (car : RxCar) (a : ASlot) : Keeps base (placeCar s p c b k car a) := by
  unfold placeCar
  repeat' first
    | with_reducible assumption
    | with_reducible apply modPort_keeps
    | with_reducible apply blockFailed_keeps
    | with_reducible apply Keeps.ite
    | intro _
    | dsimp only
    | split
    | with_reducible refine Keeps.upd ?_ ?_ ?_ ?_ ?_ ?_ ?_ ?_ ?_ ?_ ?_ ?_
    | (obtain ⟨⟩ := ‹Keeps base _›.canon; repeat' (first | with_reducible assumption | with_reducible apply gwf_gset))

theorem takeStreamCar_keeps {base s : State} (hk : Keeps base s) (p : Nat) (c : Nat) (b : Nat) (k : Nat) (car : RxCar) : Keeps base (takeStreamCar s p c b k car) := by
  unfold takeStreamCar
  repeat' first
    | with_reducible assumption
    | with_reducible apply fixHeld_keeps
    | with_reducible apply modCtx_keeps
    | with_reducible apply dupDrop_keeps
    | with_reducible apply overrunDrop_keeps
    | with_reducible apply placeCar_keeps
    | with_reducible apply Keeps.ite
    | intro _
    | dsimp only
    | split
    | with_reducible refine Keeps.upd ?_ ?_ ?_ ?_ ?_ ?_ ?_ ?_ ?_ ?_ ?_ ?_
    | (obtain ⟨⟩ := ‹Keeps base _›.canon; repeat' (first | with_reducible assumption | with_reducible apply gwf_gconst))

theorem execSdata_keeps {base s : State} (hk : Keeps base s) (port : PortId) (car : RxCar) : OutKeeps base (execSdata port car s) := by
  unfold execSdata
  refine OutKeeps.next ?_
  with_reducible refine Keeps.ite hk ?_
  have hg := receiveCar_keeps hk port car
  revert hg
  cases receiveCar s port car <;> intro hg <;> have hg' : Keeps base _ := hg <;> clear hg <;> dsimp only
  all_goals repeat' first
    | with_reducible assumption
    | with_reducible apply dupDrop_keeps
    | with_reducible apply takeStreamCar_keeps
    | with_reducible apply Keeps.ite
    | with_reducible apply OutKeeps.next
    | intro _
    | dsimp only
    | split
    | with_reducible refine Keeps.upd ?_ ?_ ?_ ?_ ?_ ?_ ?_ ?_ ?_ ?_ ?_ ?_
    | (obtain ⟨⟩ := ‹Keeps base _›.canon; with_reducible assumption)

theorem deliverBlock_keeps {base s : State} (hk : Keeps base s) (p : Nat) (c : Nat) (b : Nat) (a : ASlot) : Keeps base (deliverBlock s p c b a) := by
  unfold deliverBlock
  repeat' first
    | with_reducible assumption
    | with_reducible apply modPort_keeps
    | with_reducible apply modCtx_keeps
    | with_reducible apply record_keeps
    | with_reducible apply Keeps.ite
    | intro _
    | dsimp only
    | split
    | with_reducible refine Keeps.upd ?_ ?_ ?_ ?_ ?_ ?_ ?_ ?_ ?_ ?_ ?_ ?_
    | (obtain ⟨⟩ := ‹Keeps base _›.canon; repeat' (first | with_reducible assumption | with_reducible apply Memory.wf_writeBytes))

theorem releaseBlock_keeps {base s : State} (hk : Keeps base s) (p : Nat) (c : Nat) (b : Nat) (a : ASlot) : Keeps base (releaseBlock s p c b a) := by
  unfold releaseBlock
  repeat' first
    | with_reducible assumption
    | with_reducible apply slotFreed_keeps
    | with_reducible apply fixHeld_keeps
    | with_reducible apply modCtx_keeps
    | with_reducible apply freeSlot_keeps
    | with_reducible apply deliverBlock_keeps
    | intro _
    | dsimp only

theorem execBlockRelease_keeps {base s : State} (hk : Keeps base s) (port : PortId) (ctx : Fin 32) : OutKeeps base (execBlockRelease port ctx s) := by
  unfold execBlockRelease
  repeat' first
    | with_reducible assumption
    | with_reducible apply releaseBlock_keeps
    | with_reducible apply Keeps.ite
    | with_reducible apply OutKeeps.next
    | intro _
    | dsimp only
    | split
    | with_reducible refine Keeps.upd ?_ ?_ ?_ ?_ ?_ ?_ ?_ ?_ ?_ ?_ ?_ ?_
    | (obtain ⟨⟩ := ‹Keeps base _›.canon; with_reducible assumption)

theorem takeCredit_keeps {base s : State} (hk : Keeps base s) (p : Nat) (h : Hdr) (payload : List Byte) : Keeps base (takeCredit s p h payload) := by
  unfold takeCredit
  repeat' first
    | with_reducible assumption
    | with_reducible apply modCtx_keeps
    | with_reducible apply dupDrop_keeps
    | with_reducible apply Keeps.ite
    | intro _
    | dsimp only
    | split
    | with_reducible refine Keeps.upd ?_ ?_ ?_ ?_ ?_ ?_ ?_ ?_ ?_ ?_ ?_ ?_
    | (obtain ⟨⟩ := ‹Keeps base _›.canon; with_reducible assumption)

theorem execCreditMessage_keeps {base s : State} (hk : Keeps base s) (port : PortId) : OutKeeps base (execCreditMessage port s) := by
  unfold execCreditMessage
  repeat' first
    | with_reducible assumption
    | with_reducible apply modPort_keeps
    | with_reducible apply takeCredit_keeps
    | with_reducible apply Keeps.ite
    | with_reducible apply OutKeeps.next
    | intro _
    | dsimp only
    | split
    | with_reducible refine Keeps.upd ?_ ?_ ?_ ?_ ?_ ?_ ?_ ?_ ?_ ?_ ?_ ?_
    | (obtain ⟨⟩ := ‹Keeps base _›.canon; with_reducible assumption)

theorem execAckReport_keeps {base s : State} (hk : Keeps base s) (port : PortId) (ctx : Fin 32) : OutKeeps base (execAckReport port ctx s) := by
  unfold execAckReport
  repeat' first
    | with_reducible assumption
    | with_reducible apply sendSctl_keeps
    | with_reducible apply modCtx_keeps
    | with_reducible apply Keeps.ite
    | with_reducible apply OutKeeps.next
    | intro _
    | dsimp only
    | split
    | with_reducible refine Keeps.upd ?_ ?_ ?_ ?_ ?_ ?_ ?_ ?_ ?_ ?_ ?_ ?_
    | (obtain ⟨⟩ := ‹Keeps base _›.canon; with_reducible assumption)

theorem execSoftGap_keeps {base s : State} (hk : Keeps base s) (port : PortId) (ctx : Fin 32) : OutKeeps base (execSoftGap port ctx s) := by
  unfold execSoftGap
  repeat' first
    | with_reducible assumption
    | with_reducible apply sendResend_keeps
    | with_reducible apply modCtx_keeps
    | with_reducible apply record_keeps
    | with_reducible apply Keeps.ite
    | with_reducible apply OutKeeps.next
    | intro _
    | dsimp only
    | split
    | with_reducible refine Keeps.upd ?_ ?_ ?_ ?_ ?_ ?_ ?_ ?_ ?_ ?_ ?_ ?_
    | (obtain ⟨⟩ := ‹Keeps base _›.canon; with_reducible assumption)

theorem execHardGap_keeps {base s : State} (hk : Keeps base s) (port : PortId) (ctx : Fin 32) : OutKeeps base (execHardGap port ctx s) := by
  unfold execHardGap
  repeat' first
    | with_reducible assumption
    | with_reducible apply loseStream_keeps
    | with_reducible apply Keeps.ite
    | with_reducible apply OutKeeps.next
    | intro _
    | dsimp only
    | split

theorem writeEntry_keeps {base s : State} (hk : Keeps base s) (version : Bool) (index : Nat) (data : Word64) : Keeps base (writeEntry version index data s) := by
  unfold writeEntry
  repeat' first
    | with_reducible assumption
    | with_reducible apply Keeps.ite
    | intro _
    | dsimp only
    | split
    | with_reducible refine Keeps.upd ?_ ?_ ?_ ?_ ?_ ?_ ?_ ?_ ?_ ?_ ?_ ?_
    | (obtain ⟨⟩ := ‹Keeps base _›.canon; repeat' (first | with_reducible assumption | with_reducible apply gwf_gset))

theorem execMarshallingEntryWrite_keeps {base s : State} (hk : Keeps base s) (o : Origin) (version : Bool) (index : Fin 524288) (data : Word64) : OutKeeps base (execMarshallingEntryWrite o version index data s) := by
  unfold execMarshallingEntryWrite
  repeat' first
    | with_reducible assumption
    | with_reducible apply asAuth_keeps
    | with_reducible apply writeEntry_keeps
    | with_reducible apply OutKeeps.next
    | intro _
    | dsimp only

/-! Buckets. -/

theorem sendBucketCtl_keeps {base s : State} (hk : Keeps base s) (c : Nat) (kind : Nat) (a0 : Nat) (a1 : Nat) (a2 : Nat) : Keeps base (sendBucketCtl s c kind a0 a1 a2) := by
  unfold sendBucketCtl
  repeat' first
    | with_reducible assumption
    | with_reducible apply sendSctl_keeps
    | intro _
    | dsimp only

theorem dropWaiting_keeps {base s : State} (hk : Keeps base s) (c : Nat) : Keeps base (dropWaiting s c) := by
  unfold dropWaiting
  repeat' first
    | with_reducible assumption
    | with_reducible apply modPort_keeps
    | intro _
    | dsimp only
    | with_reducible refine Keeps.upd ?_ ?_ ?_ ?_ ?_ ?_ ?_ ?_ ?_ ?_ ?_ ?_
    | (obtain ⟨⟩ := ‹Keeps base _›.canon; with_reducible assumption)

theorem sendTable_keeps {base s : State} (hk : Keeps base s) (c : Nat) : Keeps base (sendTable s c) := by
  unfold sendTable
  repeat' first
    | with_reducible assumption
    | with_reducible apply sendCar_keeps
    | with_reducible refine Keeps.foldl ?_ (fun _ _ _ => ?_)
    | intro _
    | dsimp only

theorem takeBucketIssue_keeps {base s : State} (hk : Keeps base s) (c : Nat) : Keeps base (takeBucketIssue c s) := by
  unfold takeBucketIssue
  repeat' first
    | with_reducible assumption
    | with_reducible apply sendBucketCtl_keeps
    | with_reducible apply sendTable_keeps
    | with_reducible apply modBucket_keeps
    | with_reducible apply Keeps.ite
    | intro _
    | dsimp only
    | split
    | with_reducible refine Keeps.upd ?_ ?_ ?_ ?_ ?_ ?_ ?_ ?_ ?_ ?_ ?_ ?_
    | (obtain ⟨⟩ := ‹Keeps base _›.canon; with_reducible assumption)

theorem takeBucketCancel_keeps {base s : State} (hk : Keeps base s) (c : Nat) : Keeps base (takeBucketCancel c s) := by
  unfold takeBucketCancel
  repeat' first
    | with_reducible assumption
    | with_reducible apply sendBucketCtl_keeps
    | with_reducible apply dropWaiting_keeps
    | with_reducible apply modBucket_keeps
    | with_reducible apply Keeps.ite
    | intro _
    | dsimp only
    | split
    | with_reducible refine Keeps.upd ?_ ?_ ?_ ?_ ?_ ?_ ?_ ?_ ?_ ?_ ?_ ?_
    | (obtain ⟨⟩ := ‹Keeps base _›.canon; with_reducible assumption)

theorem writeBctrl_keeps {base s : State} (hk : Keeps base s) (data : Nat) : Keeps base (writeBctrl data s) := by
  unfold writeBctrl
  repeat' first
    | with_reducible assumption
    | with_reducible apply takeBucketIssue_keeps
    | with_reducible apply takeBucketCancel_keeps
    | with_reducible apply Keeps.ite
    | intro _
    | dsimp only
    | split
    | with_reducible refine Keeps.upd ?_ ?_ ?_ ?_ ?_ ?_ ?_ ?_ ?_ ?_ ?_ ?_
    | (obtain ⟨⟩ := ‹Keeps base _›.canon; with_reducible assumption)

theorem execBucketIssue_keeps {base s : State} (hk : Keeps base s) (o : Origin) (ctx : Fin 64) : OutKeeps base (execBucketIssue o ctx s) := by
  unfold execBucketIssue
  repeat' first
    | with_reducible assumption
    | with_reducible apply writeBctrl_keeps
    | with_reducible apply asAuth_keeps
    | with_reducible apply OutKeeps.next
    | intro _
    | dsimp only

theorem execBucketCancel_keeps {base s : State} (hk : Keeps base s) (o : Origin) (ctx : Fin 64) : OutKeeps base (execBucketCancel o ctx s) := by
  unfold execBucketCancel
  repeat' first
    | with_reducible assumption
    | with_reducible apply writeBctrl_keeps
    | with_reducible apply asAuth_keeps
    | with_reducible apply OutKeeps.next
    | intro _
    | dsimp only

theorem partLate_keeps {base s : State} (hk : Keeps base s) (c : Nat) : Keeps base (partLate s c) := by
  unfold partLate
  repeat' first
    | with_reducible assumption
    | with_reducible apply modBucket_keeps
    | intro _
    | dsimp only
    | with_reducible refine Keeps.upd ?_ ?_ ?_ ?_ ?_ ?_ ?_ ?_ ?_ ?_ ?_ ?_
    | (obtain ⟨⟩ := ‹Keeps base _›.canon; with_reducible assumption)

theorem stagePart_keeps {base s : State} (hk : Keeps base s) (x : Part) (pl : List Byte) : Keeps base (stagePart s x pl) := by
  unfold stagePart
  repeat' first
    | with_reducible assumption
    | with_reducible apply modBucket_keeps
    | with_reducible apply Keeps.ite
    | with_reducible refine Keeps.foldl ?_ (fun _ _ _ => ?_)
    | intro _
    | dsimp only
    | split
    | with_reducible refine Keeps.upd ?_ ?_ ?_ ?_ ?_ ?_ ?_ ?_ ?_ ?_ ?_ ?_
    | (obtain ⟨⟩ := ‹Keeps base _›.canon; repeat' (first | with_reducible assumption | with_reducible apply Memory.wf_writeBytes))

theorem takePart_keeps {base s : State} (hk : Keeps base s) (p : Nat) (h : Hdr) (pl : List Byte) : Keeps base (takePart s p h pl) := by
  unfold takePart
  repeat' first
    | with_reducible assumption
    | with_reducible apply gradCheck_keeps
    | with_reducible apply partLate_keeps
    | with_reducible apply stagePart_keeps
    | with_reducible apply record_keeps
    | with_reducible apply Keeps.ite
    | intro _
    | dsimp only
    | split

theorem execGradientPart_keeps {base s : State} (hk : Keeps base s) (port : PortId) : OutKeeps base (execGradientPart port s) := by
  unfold execGradientPart
  repeat' first
    | with_reducible assumption
    | with_reducible apply takePart_keeps
    | with_reducible apply modPort_keeps
    | with_reducible apply Keeps.ite
    | with_reducible apply OutKeeps.next
    | intro _
    | dsimp only
    | split
    | with_reducible refine Keeps.upd ?_ ?_ ?_ ?_ ?_ ?_ ?_ ?_ ?_ ?_ ?_ ?_
    | (obtain ⟨⟩ := ‹Keeps base _›.canon; with_reducible assumption)

theorem sendBlocks_keeps {base s : State} (hk : Keeps base s) (c : Nat) (b : Nat) : Keeps base (sendBlocks s c b) := by
  unfold sendBlocks
  repeat' first
    | with_reducible assumption
    | with_reducible apply sendCar_keeps
    | with_reducible refine Keeps.foldl ?_ (fun _ _ _ => ?_)
    | intro _
    | dsimp only

theorem sendClose_keeps {base s : State} (hk : Keeps base s) (c : Nat) : Keeps base (sendClose s c) := by
  unfold sendClose
  repeat' first
    | with_reducible assumption
    | with_reducible apply sendBucketCtl_keeps
    | intro _
    | dsimp only

theorem startRound_keeps {base s : State} (hk : Keeps base s) (c : Nat) : Keeps base (startRound s c) := by
  unfold startRound
  repeat' first
    | with_reducible assumption
    | with_reducible apply sendBlocks_keeps
    | with_reducible apply modBucket_keeps
    | intro _
    | dsimp only
    | with_reducible refine Keeps.upd ?_ ?_ ?_ ?_ ?_ ?_ ?_ ?_ ?_ ?_ ?_ ?_
    | (obtain ⟨⟩ := ‹Keeps base _›.canon; repeat' (first | with_reducible assumption | with_reducible apply gwf_gconst))

theorem execBucketSendStart_keeps {base s : State} (hk : Keeps base s) (ctx : Fin 64) : OutKeeps base (execBucketSendStart ctx s) := by
  unfold execBucketSendStart
  repeat' first
    | with_reducible assumption
    | with_reducible apply startRound_keeps
    | with_reducible apply Keeps.ite
    | with_reducible apply OutKeeps.next
    | intro _
    | dsimp only
    | split

theorem execBucketCloseSent_keeps {base s : State} (hk : Keeps base s) (ctx : Fin 64) : OutKeeps base (execBucketCloseSent ctx s) := by
  unfold execBucketCloseSent
  repeat' first
    | with_reducible assumption
    | with_reducible apply sendClose_keeps
    | with_reducible apply modBucket_keeps
    | with_reducible apply Keeps.ite
    | with_reducible apply OutKeeps.next
    | intro _
    | dsimp only
    | split
    | with_reducible refine Keeps.upd ?_ ?_ ?_ ?_ ?_ ?_ ?_ ?_ ?_ ?_ ?_ ?_
    | (obtain ⟨⟩ := ‹Keeps base _›.canon; with_reducible assumption)

theorem roundFailed_keeps {base s : State} (hk : Keeps base s) (c : Nat) : Keeps base (roundFailed s c) := by
  unfold roundFailed
  repeat' first
    | with_reducible assumption
    | with_reducible apply gradCheck_keeps
    | with_reducible apply startRound_keeps
    | with_reducible apply modBucket_keeps
    | with_reducible apply Keeps.ite
    | intro _
    | dsimp only
    | split
    | with_reducible refine Keeps.upd ?_ ?_ ?_ ?_ ?_ ?_ ?_ ?_ ?_ ?_ ?_ ?_
    | (obtain ⟨⟩ := ‹Keeps base _›.canon; with_reducible assumption)

theorem checkReturn_keeps {base s : State} (hk : Keeps base s) (c : Nat) : Keeps base (checkReturn s c) := by
  unfold checkReturn
  repeat' first
    | with_reducible assumption
    | with_reducible apply roundFailed_keeps
    | with_reducible apply modBucket_keeps
    | with_reducible apply Keeps.ite
    | intro _
    | dsimp only
    | split
    | with_reducible refine Keeps.upd ?_ ?_ ?_ ?_ ?_ ?_ ?_ ?_ ?_ ?_ ?_ ?_
    | (obtain ⟨⟩ := ‹Keeps base _›.canon; with_reducible assumption)

theorem takeReturned_keeps {base s : State} (hk : Keeps base s) (p : Nat) (c : Nat) (k : Nat) (bytes : List Byte) (brand : Nat) : Keeps base (takeReturned s p c k bytes brand) := by
  unfold takeReturned
  repeat' first
    | with_reducible assumption
    | with_reducible apply sendBucketCtl_keeps
    | with_reducible apply roundFailed_keeps
    | with_reducible apply checkReturn_keeps
    | with_reducible apply modBucket_keeps
    | with_reducible apply record_keeps
    | with_reducible apply Keeps.ite
    | with_reducible refine Keeps.foldl ?_ (fun _ _ _ => ?_)
    | intro _
    | dsimp only
    | split
    | with_reducible refine Keeps.upd ?_ ?_ ?_ ?_ ?_ ?_ ?_ ?_ ?_ ?_ ?_ ?_
    | (obtain ⟨⟩ := ‹Keeps base _›.canon; repeat' (first | with_reducible assumption | with_reducible apply gwf_gset | with_reducible apply gwf_gmodKeys | with_reducible apply Memory.wf_writeBytes))

theorem takeReturnCar_keeps {base s : State} (hk : Keeps base s) (p : Nat) (car : RxCar) : Keeps base (takeReturnCar s p car) := by
  unfold takeReturnCar
  repeat' first
    | with_reducible assumption
    | with_reducible apply takeReturned_keeps
    | with_reducible apply modBucket_keeps
    | with_reducible apply Keeps.ite
    | intro _
    | dsimp only
    | split
    | with_reducible refine Keeps.upd ?_ ?_ ?_ ?_ ?_ ?_ ?_ ?_ ?_ ?_ ?_ ?_
    | (obtain ⟨⟩ := ‹Keeps base _›.canon; repeat' (first | with_reducible assumption | with_reducible apply gwf_gset))

theorem execGret_keeps {base s : State} (hk : Keeps base s) (port : PortId) (car : RxCar) : OutKeeps base (execGret port car s) := by
  unfold execGret
  refine OutKeeps.next ?_
  with_reducible refine Keeps.ite hk ?_
  have hg := receiveCar_keeps hk port car
  revert hg
  cases receiveCar s port car <;> intro hg <;> have hg' : Keeps base _ := hg <;> clear hg <;> dsimp only
  all_goals repeat' first
    | with_reducible assumption
    | with_reducible apply takeReturnCar_keeps
    | with_reducible apply Keeps.ite
    | with_reducible apply OutKeeps.next
    | intro _
    | dsimp only
    | split
    | with_reducible refine Keeps.upd ?_ ?_ ?_ ?_ ?_ ?_ ?_ ?_ ?_ ?_ ?_ ?_
    | (obtain ⟨⟩ := ‹Keeps base _›.canon; with_reducible assumption)

theorem execBucketTimeout_keeps {base s : State} (hk : Keeps base s) (ctx : Fin 64) : OutKeeps base (execBucketTimeout ctx s) := by
  unfold execBucketTimeout
  repeat' first
    | with_reducible assumption
    | with_reducible apply sendBucketCtl_keeps
    | with_reducible apply dropWaiting_keeps
    | with_reducible apply modBucket_keeps
    | with_reducible apply recordWith_keeps
    | with_reducible apply Keeps.ite
    | with_reducible apply OutKeeps.next
    | intro _
    | dsimp only
    | split
    | with_reducible refine Keeps.upd ?_ ?_ ?_ ?_ ?_ ?_ ?_ ?_ ?_ ?_ ?_ ?_
    | (obtain ⟨⟩ := ‹Keeps base _›.canon; with_reducible assumption)

theorem takeBagree_keeps {base s : State} (hk : Keeps base s) (c : Nat) (a0 : Nat) : Keeps base (takeBagree s c a0) := by
  unfold takeBagree
  repeat' first
    | with_reducible assumption
    | with_reducible apply gradCheck_keeps
    | with_reducible apply modBucket_keeps
    | with_reducible apply Keeps.ite
    | intro _
    | dsimp only
    | split
    | with_reducible refine Keeps.upd ?_ ?_ ?_ ?_ ?_ ?_ ?_ ?_ ?_ ?_ ?_ ?_
    | (obtain ⟨⟩ := ‹Keeps base _›.canon; with_reducible assumption)

theorem takeBrsnd_keeps {base s : State} (hk : Keeps base s) (c : Nat) (k : Nat) (round : Nat) : Keeps base (takeBrsnd s c k round) := by
  unfold takeBrsnd
  repeat' first
    | with_reducible assumption
    | with_reducible apply sendBlocks_keeps
    | with_reducible apply sendClose_keeps
    | with_reducible apply modBucket_keeps
    | with_reducible apply Keeps.ite
    | intro _
    | dsimp only
    | split
    | with_reducible refine Keeps.upd ?_ ?_ ?_ ?_ ?_ ?_ ?_ ?_ ?_ ?_ ?_ ?_
    | (obtain ⟨⟩ := ‹Keeps base _›.canon; with_reducible assumption)

theorem takeBasum_keeps {base s : State} (hk : Keeps base s) (c : Nat) (a : Nat) (round : Nat) : Keeps base (takeBasum s c a round) := by
  unfold takeBasum
  repeat' first
    | with_reducible assumption
    | with_reducible apply checkReturn_keeps
    | with_reducible apply modBucket_keeps
    | with_reducible apply Keeps.ite
    | intro _
    | dsimp only
    | split
    | with_reducible refine Keeps.upd ?_ ?_ ?_ ?_ ?_ ?_ ?_ ?_ ?_ ?_ ?_ ?_
    | (obtain ⟨⟩ := ‹Keeps base _›.canon; with_reducible assumption)

theorem takeRecord_keeps {base s : State} (hk : Keeps base s) (p : Nat) (r : Ctl) : Keeps base (takeRecord p s r) := by
  unfold takeRecord
  repeat' first
    | with_reducible assumption
    | with_reducible apply takeBagree_keeps
    | with_reducible apply takeBrsnd_keeps
    | with_reducible apply takeBasum_keeps
    | with_reducible apply malformed_keeps
    | with_reducible apply Keeps.ite
    | intro _
    | dsimp only
    | split

theorem takeSctl_keeps {base s : State} (hk : Keeps base s) (port : PortId) (kind : Nat) (car : RxCar) : Keeps base (takeSctl port kind car s) := by
  refine Keeps.ite hk ?_
  have h := receiveCar_keeps hk port car
  revert h
  cases receiveCar s port car <;> intro h
  · exact h
  · exact Keeps.foldl h (fun _ _ ht => takeRecord_keeps ht _ _)

theorem execBagree_keeps {base s : State} (hk : Keeps base s) (port : PortId) (car : RxCar) : OutKeeps base (execBagree port car s) := by
  unfold execBagree
  repeat' first
    | with_reducible assumption
    | with_reducible apply takeSctl_keeps
    | with_reducible apply OutKeeps.next
    | intro _
    | dsimp only

theorem execBrsnd_keeps {base s : State} (hk : Keeps base s) (port : PortId) (car : RxCar) : OutKeeps base (execBrsnd port car s) := by
  unfold execBrsnd
  repeat' first
    | with_reducible assumption
    | with_reducible apply takeSctl_keeps
    | with_reducible apply OutKeeps.next
    | intro _
    | dsimp only

theorem execBasum_keeps {base s : State} (hk : Keeps base s) (port : PortId) (car : RxCar) : OutKeeps base (execBasum port car s) := by
  unfold execBasum
  repeat' first
    | with_reducible assumption
    | with_reducible apply takeSctl_keeps
    | with_reducible apply OutKeeps.next
    | intro _
    | dsimp only

theorem execStstop_keeps {base s : State} (hk : Keeps base s) (port : PortId) (car : RxCar) : OutKeeps base (execStstop port car s) := by
  unfold execStstop
  repeat' first
    | with_reducible assumption
    | with_reducible apply takeSctl_keeps
    | with_reducible apply OutKeeps.next
    | intro _
    | dsimp only

theorem execBstop_keeps {base s : State} (hk : Keeps base s) (port : PortId) (car : RxCar) : OutKeeps base (execBstop port car s) := by
  unfold execBstop
  repeat' first
    | with_reducible assumption
    | with_reducible apply takeSctl_keeps
    | with_reducible apply OutKeeps.next
    | intro _
    | dsimp only

/-! Time. -/

theorem tickWall_keeps {base s : State} (hk : Keeps base s)  : Keeps base (tickWall s) := by
  unfold tickWall
  unfold takeFresh
  repeat' first
    | with_reducible assumption
    | with_reducible apply Keeps.ite
    | intro _
    | dsimp only
    | split
    | with_reducible refine Keeps.upd ?_ ?_ ?_ ?_ ?_ ?_ ?_ ?_ ?_ ?_ ?_ ?_
    | (obtain ⟨⟩ := ‹Keeps base _›.canon; with_reducible assumption)

theorem tickRun_keeps {base s : State} (hk : Keeps base s)  : Keeps base (tickRun s) := by
  unfold tickRun
  repeat' first
    | with_reducible assumption
    | with_reducible apply Keeps.ite
    | intro _
    | dsimp only
    | split
    | with_reducible refine Keeps.upd ?_ ?_ ?_ ?_ ?_ ?_ ?_ ?_ ?_ ?_ ?_ ?_
    | (obtain ⟨⟩ := ‹Keeps base _›.canon; with_reducible assumption)

theorem tickDog_keeps {base s : State} (hk : Keeps base s) (k : Nat) : Keeps base (tickDog s k) := by
  unfold tickDog
  repeat' first
    | with_reducible assumption
    | with_reducible apply modShed_keeps
    | with_reducible apply Keeps.ite
    | intro _
    | dsimp only
    | split
    | with_reducible refine Keeps.upd ?_ ?_ ?_ ?_ ?_ ?_ ?_ ?_ ?_ ?_ ?_ ?_
    | (obtain ⟨⟩ := ‹Keeps base _›.canon; with_reducible assumption)

theorem tickDogs_keeps {base s : State} (hk : Keeps base s)  : Keeps base (tickDogs s) := by
  unfold tickDogs
  repeat' first
    | with_reducible assumption
    | with_reducible apply tickDog_keeps
    | with_reducible apply Keeps.ite
    | with_reducible refine Keeps.foldl ?_ (fun _ _ _ => ?_)
    | intro _
    | dsimp only
    | split

theorem tick_keeps {base s : State} (hk : Keeps base s)  : Keeps base (tick s) := by
  unfold tick
  repeat' first
    | with_reducible assumption
    | with_reducible apply tickWall_keeps
    | with_reducible apply tickRun_keeps
    | with_reducible apply tickDogs_keeps
    | with_reducible apply Keeps.ite
    | intro _
    | dsimp only
    | split

/-! Ports. -/

theorem writePortCfg_keeps {base s : State} (hk : Keeps base s) (p : Nat) (data : Nat) : Keeps base (writePortCfg p data s) := by
  unfold writePortCfg
  repeat' first
    | with_reducible assumption
    | with_reducible apply portState_keeps
    | with_reducible apply Keeps.ite
    | intro _
    | dsimp only
    | split
    | with_reducible refine Keeps.upd ?_ ?_ ?_ ?_ ?_ ?_ ?_ ?_ ?_ ?_ ?_ ?_
    | (obtain ⟨⟩ := ‹Keeps base _›.canon; with_reducible assumption)

theorem takeTrain_keeps {base s : State} (hk : Keeps base s) (p : Nat) : Keeps base (takeTrain p s) := by
  unfold takeTrain
  repeat' first
    | with_reducible assumption
    | with_reducible apply modPort_keeps
    | with_reducible apply Keeps.ite
    | intro _
    | dsimp only
    | split

theorem takeQclr_keeps {base s : State} (hk : Keeps base s) (o : Origin) (p : Nat) : Keeps base (takeQclr o p s) := by
  unfold takeQclr
  repeat' first
    | with_reducible assumption
    | with_reducible apply modPort_keeps
    | with_reducible apply Keeps.ite
    | intro _
    | dsimp only
    | split
    | with_reducible refine Keeps.upd ?_ ?_ ?_ ?_ ?_ ?_ ?_ ?_ ?_ ?_ ?_ ?_
    | (obtain ⟨⟩ := ‹Keeps base _›.canon; with_reducible assumption)

theorem takeDrop_keeps {base s : State} (hk : Keeps base s) (p : Nat) : Keeps base (takeDrop p s) := by
  unfold takeDrop
  repeat' first
    | with_reducible assumption
    | with_reducible apply portState_keeps
    | with_reducible apply Keeps.ite
    | intro _
    | dsimp only
    | split

theorem execPortCfgWrite_keeps {base s : State} (hk : Keeps base s) (o : Origin) (port : PortId) (data : Word64) : OutKeeps base (execPortCfgWrite o port data s) := by
  unfold execPortCfgWrite
  repeat' first
    | with_reducible assumption
    | with_reducible apply asAuth_keeps
    | with_reducible apply writePortCfg_keeps
    | with_reducible apply OutKeeps.next
    | intro _
    | dsimp only

theorem execTrain_keeps {base s : State} (hk : Keeps base s) (o : Origin) (port : PortId) : OutKeeps base (execTrain o port s) := by
  unfold execTrain
  repeat' first
    | with_reducible assumption
    | with_reducible apply asAuth_keeps
    | with_reducible apply takeTrain_keeps
    | with_reducible apply OutKeeps.next
    | intro _
    | dsimp only

theorem execQclr_keeps {base s : State} (hk : Keeps base s) (o : Origin) (port : PortId) : OutKeeps base (execQclr o port s) := by
  unfold execQclr
  repeat' first
    | with_reducible assumption
    | with_reducible apply asAuth_keeps
    | with_reducible apply takeQclr_keeps
    | with_reducible apply OutKeeps.next
    | intro _
    | dsimp only

theorem execDrop_keeps {base s : State} (hk : Keeps base s) (o : Origin) (port : PortId) : OutKeeps base (execDrop o port s) := by
  unfold execDrop
  repeat' first
    | with_reducible assumption
    | with_reducible apply asAuth_keeps
    | with_reducible apply takeDrop_keeps
    | with_reducible apply OutKeeps.next
    | intro _
    | dsimp only

theorem execTryintExpiry_keeps {base s : State} (hk : Keeps base s) (port : PortId) : OutKeeps base (execTryintExpiry port s) := by
  unfold execTryintExpiry
  repeat' first
    | with_reducible assumption
    | with_reducible apply modPort_keeps
    | with_reducible apply Keeps.ite
    | with_reducible apply OutKeeps.next
    | intro _
    | dsimp only
    | split

theorem sendMessage_keeps {base s : State} (hk : Keeps base s) (p : Nat) (typ : Nat) (n : Nat) (msg : List Byte) : Keeps base (sendMessage s p typ n msg) := by
  unfold sendMessage
  repeat' first
    | with_reducible assumption
    | with_reducible apply sendCar_keeps
    | with_reducible apply sendPlain_keeps
    | with_reducible apply Keeps.ite
    | with_reducible refine Keeps.foldl ?_ (fun _ _ _ => ?_)
    | intro _
    | dsimp only
    | split

theorem startAuth_keeps {base s : State} (hk : Keeps base s) (p : Nat) : Keeps base (startAuth s p) := by
  unfold startAuth
  unfold takeFresh
  repeat' first
    | with_reducible assumption
    | with_reducible apply modPort_keeps
    | with_reducible apply sendMessage_keeps
    | with_reducible apply step_keeps
    | intro _
    | dsimp only
    | split
    | with_reducible refine Keeps.upd ?_ ?_ ?_ ?_ ?_ ?_ ?_ ?_ ?_ ?_ ?_ ?_
    | (obtain ⟨⟩ := ‹Keeps base _›.canon; with_reducible assumption)

theorem sendKex1_keeps {base s : State} (hk : Keeps base s) (p : Nat) (epoch : Nat) : Keeps base (sendKex1 s p epoch) := by
  unfold sendKex1
  unfold takeFresh
  repeat' first
    | with_reducible assumption
    | with_reducible apply modPort_keeps
    | with_reducible apply sendMessage_keeps
    | with_reducible apply step_keeps
    | intro _
    | dsimp only
    | split
    | with_reducible refine Keeps.upd ?_ ?_ ?_ ?_ ?_ ?_ ?_ ?_ ?_ ?_ ?_ ?_
    | (obtain ⟨⟩ := ‹Keeps base _›.canon; repeat' (first | with_reducible assumption | with_reducible apply gwf_gconst))

theorem failHandshake_keeps {base s : State} (hk : Keeps base s) (p : Nat) : Keeps base (failHandshake s p) := by
  unfold failHandshake
  repeat' first
    | with_reducible assumption
    | with_reducible apply quarantine_keeps
    | with_reducible apply linkAuth_keeps
    | with_reducible apply modPort_keeps
    | with_reducible apply Keeps.ite
    | intro _
    | dsimp only
    | split
    | with_reducible refine Keeps.upd ?_ ?_ ?_ ?_ ?_ ?_ ?_ ?_ ?_ ?_ ?_ ?_
    | (obtain ⟨⟩ := ‹Keeps base _›.canon; with_reducible assumption)

theorem failRekey_keeps {base s : State} (hk : Keeps base s) (p : Nat) : Keeps base (failRekey s p) := by
  unfold failRekey
  repeat' first
    | with_reducible assumption
    | with_reducible apply linkAuth_keeps
    | with_reducible apply modPort_keeps
    | with_reducible apply step_keeps
    | intro _
    | dsimp only
    | with_reducible refine Keeps.upd ?_ ?_ ?_ ?_ ?_ ?_ ?_ ?_ ?_ ?_ ?_ ?_
    | (obtain ⟨⟩ := ‹Keeps base _›.canon; repeat' (first | with_reducible assumption | with_reducible apply gwf_gconst))

theorem failExchange_keeps {base s : State} (hk : Keeps base s) (p : Nat) : Keeps base (failExchange s p) := by
  unfold failExchange
  repeat' first
    | with_reducible assumption
    | with_reducible apply failHandshake_keeps
    | with_reducible apply failRekey_keeps
    | with_reducible apply Keeps.ite
    | intro _
    | dsimp only
    | split

theorem startRekey_keeps {base s : State} (hk : Keeps base s) (p : Nat) : Keeps base (startRekey s p) := by
  unfold startRekey
  repeat' first
    | with_reducible assumption
    | with_reducible apply sendKex1_keeps
    | with_reducible apply Keeps.ite
    | intro _
    | dsimp only
    | split

theorem fixKeys_keeps {base s : State} (hk : Keeps base s) (p : Nat) : Keeps base (fixKeys s p) := by
  unfold fixKeys
  repeat' first
    | with_reducible assumption
    | with_reducible apply linkAuth_keeps
    | with_reducible apply portState_keeps
    | with_reducible apply startAuth_keeps
    | with_reducible apply Keeps.ite
    | intro _
    | dsimp only
    | split
    | with_reducible refine Keeps.upd ?_ ?_ ?_ ?_ ?_ ?_ ?_ ?_ ?_ ?_ ?_ ?_
    | (obtain ⟨⟩ := ‹Keeps base _›.canon; with_reducible assumption)

theorem execRekey_keeps {base s : State} (hk : Keeps base s) (o : Origin) (port : PortId) : OutKeeps base (execRekey o port s) := by
  unfold execRekey
  repeat' first
    | with_reducible assumption
    | with_reducible apply asAuth_keeps
    | with_reducible apply startRekey_keeps
    | with_reducible apply OutKeeps.next
    | intro _
    | dsimp only

theorem execRekeyTimer_keeps {base s : State} (hk : Keeps base s) (port : PortId) : OutKeeps base (execRekeyTimer port s) := by
  unfold execRekeyTimer
  repeat' first
    | with_reducible assumption
    | with_reducible apply startRekey_keeps
    | with_reducible apply fixKeys_keeps
    | with_reducible apply Keeps.ite
    | with_reducible apply OutKeeps.next
    | intro _
    | dsimp only
    | split

theorem execRekeyRetry_keeps {base s : State} (hk : Keeps base s) (port : PortId) : OutKeeps base (execRekeyRetry port s) := by
  unfold execRekeyRetry
  repeat' first
    | with_reducible assumption
    | with_reducible apply startRekey_keeps
    | with_reducible apply Keeps.ite
    | with_reducible apply OutKeeps.next
    | intro _
    | dsimp only
    | split

theorem writePortCtrl_keeps {base s : State} (hk : Keeps base s) (o : Origin) (p : Nat) (data : Nat) : Keeps base (writePortCtrl o p data s) := by
  unfold writePortCtrl
  repeat' first
    | with_reducible assumption
    | with_reducible apply takeTrain_keeps
    | with_reducible apply takeQclr_keeps
    | with_reducible apply takeDrop_keeps
    | with_reducible apply startRekey_keeps
    | with_reducible apply Keeps.ite
    | intro _
    | dsimp only
    | split

theorem endTraining_keeps {base s : State} (hk : Keeps base s) (p : Nat) : Keeps base (endTraining s p) := by
  unfold endTraining
  repeat' first
    | with_reducible assumption
    | with_reducible apply portState_keeps
    | with_reducible apply modPort_keeps
    | with_reducible apply startAuth_keeps
    | with_reducible apply Keeps.ite
    | intro _
    | dsimp only
    | split
    | with_reducible refine Keeps.upd ?_ ?_ ?_ ?_ ?_ ?_ ?_ ?_ ?_ ?_ ?_ ?_
    | (obtain ⟨⟩ := ‹Keeps base _›.canon; with_reducible assumption)

theorem execTrainingAttemptEnd_keeps {base s : State} (hk : Keeps base s) (port : PortId) (lanes : List LaneResult) : OutKeeps base (execTrainingAttemptEnd port lanes s) := by
  unfold execTrainingAttemptEnd
  repeat' first
    | with_reducible assumption
    | with_reducible apply modPort_keeps
    | with_reducible apply endTraining_keeps
    | with_reducible apply Keeps.ite
    | with_reducible apply OutKeeps.next
    | with_reducible apply OutKeeps.ite
    | trivial
    | intro _
    | dsimp only
    | split
    | with_reducible refine Keeps.upd ?_ ?_ ?_ ?_ ?_ ?_ ?_ ?_ ?_ ?_ ?_ ?_
    | (obtain ⟨⟩ := ‹Keeps base _›.canon; repeat' (first | with_reducible assumption | with_reducible apply gwf_gconst))

theorem execHello_keeps {base s : State} (hk : Keeps base s) (port : PortId) (car : RxCar) (sigsOk : Bool) : OutKeeps base (execHello port car sigsOk s) := by
  unfold execHello
  refine OutKeeps.next ?_
  with_reducible refine Keeps.ite hk ?_
  have hg := receiveCar_keeps hk port car
  revert hg
  cases receiveCar s port car <;> intro hg <;> have hg' : Keeps base _ := hg <;> clear hg <;> dsimp only
  all_goals repeat' first
    | with_reducible assumption
    | with_reducible apply quarantine_keeps
    | with_reducible apply linkAuth_keeps
    | with_reducible apply modPort_keeps
    | with_reducible apply sendKex1_keeps
    | with_reducible apply failHandshake_keeps
    | with_reducible apply Keeps.ite
    | with_reducible apply OutKeeps.next
    | intro _
    | dsimp only
    | split
    | with_reducible refine Keeps.upd ?_ ?_ ?_ ?_ ?_ ?_ ?_ ?_ ?_ ?_ ?_ ?_
    | (obtain ⟨⟩ := ‹Keeps base _›.canon; with_reducible assumption)

theorem takeKex2_keeps {base s : State} (hk : Keeps base s) (p : Nat) (msg : List Byte) : Keeps base (takeKex2 s p msg) := by
  unfold takeKex2
  repeat' first
    | with_reducible assumption
    | with_reducible apply sendLctl_keeps
    | with_reducible apply modPort_keeps
    | with_reducible apply sendMessage_keeps
    | with_reducible apply step_keeps
    | with_reducible apply Keeps.ite
    | intro _
    | dsimp only
    | split
    | with_reducible refine Keeps.upd ?_ ?_ ?_ ?_ ?_ ?_ ?_ ?_ ?_ ?_ ?_ ?_
    | (obtain ⟨⟩ := ‹Keeps base _›.canon; repeat' (first | with_reducible assumption | with_reducible apply gwf_gconst))

theorem execKex_keeps {base s : State} (hk : Keeps base s) (port : PortId) (car : RxCar) (sigsOk : Bool) : OutKeeps base (execKex port car sigsOk s) := by
  unfold execKex
  refine OutKeeps.next ?_
  with_reducible refine Keeps.ite hk ?_
  have hg := receiveCar_keeps hk port car
  revert hg
  cases receiveCar s port car <;> intro hg <;> have hg' : Keeps base _ := hg <;> clear hg <;> dsimp only
  all_goals repeat' first
    | with_reducible assumption
    | with_reducible apply modPort_keeps
    | with_reducible apply failExchange_keeps
    | with_reducible apply takeKex2_keeps
    | with_reducible apply Keeps.ite
    | with_reducible apply OutKeeps.next
    | intro _
    | dsimp only
    | split
    | with_reducible refine Keeps.upd ?_ ?_ ?_ ?_ ?_ ?_ ?_ ?_ ?_ ?_ ?_ ?_
    | (obtain ⟨⟩ := ‹Keeps base _›.canon; with_reducible assumption)

theorem execHandshakeTimeout_keeps {base s : State} (hk : Keeps base s) (port : PortId) : OutKeeps base (execHandshakeTimeout port s) := by
  unfold execHandshakeTimeout
  repeat' first
    | with_reducible assumption
    | with_reducible apply failHandshake_keeps
    | with_reducible apply failRekey_keeps
    | with_reducible apply Keeps.ite
    | with_reducible apply OutKeeps.next
    | intro _
    | dsimp only
    | split

theorem execAuthRetry_keeps {base s : State} (hk : Keeps base s) (port : PortId) : OutKeeps base (execAuthRetry port s) := by
  unfold execAuthRetry
  repeat' first
    | with_reducible assumption
    | with_reducible apply startAuth_keeps
    | with_reducible apply Keeps.ite
    | with_reducible apply OutKeeps.next
    | intro _
    | dsimp only
    | split

theorem finishRekey_keeps {base s : State} (hk : Keeps base s) (p : Nat) : Keeps base (finishRekey s p) := by
  unfold finishRekey
  repeat' first
    | with_reducible assumption
    | with_reducible apply modPort_keeps
    | with_reducible apply step_keeps
    | with_reducible apply Keeps.ite
    | intro _
    | dsimp only
    | split
    | with_reducible refine Keeps.upd ?_ ?_ ?_ ?_ ?_ ?_ ?_ ?_ ?_ ?_ ?_ ?_
    | (obtain ⟨⟩ := ‹Keeps base _›.canon; with_reducible assumption)

theorem enterUp_keeps {base s : State} (hk : Keeps base s) (p : Nat) : Keeps base (enterUp s p) := by
  unfold enterUp
  repeat' first
    | with_reducible assumption
    | with_reducible apply portState_keeps
    | intro _
    | dsimp only
    | with_reducible refine Keeps.upd ?_ ?_ ?_ ?_ ?_ ?_ ?_ ?_ ?_ ?_ ?_ ?_
    | (obtain ⟨⟩ := ‹Keeps base _›.canon; with_reducible assumption)

theorem execLctl_keeps {base s : State} (hk : Keeps base s) (port : PortId) (car : RxCar) : OutKeeps base (execLctl port car s) := by
  unfold execLctl
  repeat' first
    | with_reducible assumption
    | with_reducible apply sendNak_keeps
    | with_reducible apply gcmFail_keeps
    | with_reducible apply malformed_keeps
    | with_reducible apply applyLctl_keeps
    | with_reducible apply modPort_keeps
    | with_reducible apply fixKeys_keeps
    | with_reducible apply finishRekey_keeps
    | with_reducible apply enterUp_keeps
    | with_reducible apply Keeps.ite
    | with_reducible apply OutKeeps.next
    | intro _
    | dsimp only
    | split
    | with_reducible refine Keeps.upd ?_ ?_ ?_ ?_ ?_ ?_ ?_ ?_ ?_ ?_ ?_ ?_
    | (obtain ⟨⟩ := ‹Keeps base _›.canon; with_reducible assumption)

theorem execMarkerCar_keeps {base s : State} (hk : Keeps base s) (port : PortId) (good : Bool) (frame : BitVec 32) : OutKeeps base (execMarkerCar port good frame s) := by
  unfold execMarkerCar
  repeat' first
    | with_reducible assumption
    | with_reducible apply modPort_keeps
    | with_reducible apply Keeps.ite
    | with_reducible apply OutKeeps.next
    | intro _
    | dsimp only
    | split
    | with_reducible refine Keeps.upd ?_ ?_ ?_ ?_ ?_ ?_ ?_ ?_ ?_ ?_ ?_ ?_
    | (obtain ⟨⟩ := ‹Keeps base _›.canon; with_reducible assumption)

theorem execBerWindow_keeps {base s : State} (hk : Keeps base s) (port : PortId) (errBits : List Nat) (uncorr : Nat) (lost : List Bool) : OutKeeps base (execBerWindow port errBits uncorr lost s) := by
  unfold execBerWindow
  repeat' first
    | with_reducible assumption
    | with_reducible apply linkBer_keeps
    | with_reducible apply portState_keeps
    | with_reducible apply modPort_keeps
    | with_reducible apply Keeps.ite
    | with_reducible apply OutKeeps.next
    | with_reducible apply OutKeeps.ite
    | trivial
    | intro _
    | dsimp only
    | split
    | with_reducible refine Keeps.upd ?_ ?_ ?_ ?_ ?_ ?_ ?_ ?_ ?_ ?_ ?_ ?_
    | (obtain ⟨⟩ := ‹Keeps base _›.canon; repeat' (first | with_reducible assumption | with_reducible apply gwf_gmodKeys))

theorem execNoCarTimeout_keeps {base s : State} (hk : Keeps base s) (port : PortId) : OutKeeps base (execNoCarTimeout port s) := by
  unfold execNoCarTimeout
  repeat' first
    | with_reducible assumption
    | with_reducible apply portState_keeps
    | with_reducible apply Keeps.ite
    | with_reducible apply OutKeeps.next
    | intro _
    | dsimp only
    | split

theorem execRetrainTimeout_keeps {base s : State} (hk : Keeps base s) (port : PortId) : OutKeeps base (execRetrainTimeout port s) := by
  unfold execRetrainTimeout
  repeat' first
    | with_reducible assumption
    | with_reducible apply portState_keeps
    | with_reducible apply Keeps.ite
    | with_reducible apply OutKeeps.next
    | intro _
    | dsimp only
    | split

theorem execBeaconSend_keeps {base s : State} (hk : Keeps base s)  : OutKeeps base (execBeaconSend s) := by
  unfold execBeaconSend
  repeat' first
    | with_reducible assumption
    | with_reducible apply sendCar_keeps
    | with_reducible apply Keeps.ite
    | with_reducible apply OutKeeps.next
    | intro _
    | dsimp only
    | split
    | with_reducible refine Keeps.upd ?_ ?_ ?_ ?_ ?_ ?_ ?_ ?_ ?_ ?_ ?_ ?_
    | (obtain ⟨⟩ := ‹Keeps base _›.canon; with_reducible assumption)

theorem correctWall_keeps {base s : State} (hk : Keeps base s) (offset : Int) : Keeps base (correctWall s offset) := by
  unfold correctWall
  repeat' first
    | with_reducible assumption
    | with_reducible apply Keeps.ite
    | intro _
    | dsimp only
    | split
    | with_reducible refine Keeps.upd ?_ ?_ ?_ ?_ ?_ ?_ ?_ ?_ ?_ ?_ ?_ ?_
    | (obtain ⟨⟩ := ‹Keeps base _›.canon; with_reducible assumption)

theorem execBeacon_keeps {base s : State} (hk : Keeps base s) (port : PortId) (car : RxCar) (t4 : Word64) : OutKeeps base (execBeacon port car t4 s) := by
  unfold execBeacon
  refine Keeps.ite hk ?_
  have h := receiveCar_keeps hk port car
  revert h
  cases receiveCar s port car <;> intro h
  · exact h
  · have hp : ∀ t f, Keeps base t → Keeps base (portState t port f) := fun t f ht => portState_keeps ht _ _
    have he : ∀ t a b c d, Keeps base t → Keeps base (match exchangeOffset t a b c d with | (off, s) => correctWall s off) :=
      fun t a b c d ht => correctWall_keeps (exchangeOffset_keeps ht a b c d) _
    exact Keeps.ite (he _ _ _ _ _ (hp _ _ h)) (hp _ _ h)

/-! Mailboxes. -/

theorem raiseIbi_keeps {base s : State} (hk : Keeps base s)  : Keeps base (raiseIbi s) := by
  unfold raiseIbi
  repeat' first
    | with_reducible assumption
    | with_reducible apply Keeps.ite
    | intro _
    | dsimp only
    | split
    | with_reducible refine Keeps.upd ?_ ?_ ?_ ?_ ?_ ?_ ?_ ?_ ?_ ?_ ?_ ?_
    | (obtain ⟨⟩ := ‹Keeps base _›.canon; with_reducible assumption)

theorem callHost_keeps {base s : State} (hk : Keeps base s) (n : Nat) (old : Nat) : Keeps base (callHost s n old) := by
  unfold callHost
  repeat' first
    | with_reducible assumption
    | with_reducible apply sendCar_keeps
    | with_reducible apply raiseIbi_keeps
    | with_reducible apply Keeps.ite
    | intro _
    | dsimp only
    | split
    | with_reducible refine Keeps.upd ?_ ?_ ?_ ?_ ?_ ?_ ?_ ?_ ?_ ?_ ?_ ?_
    | (obtain ⟨⟩ := ‹Keeps base _›.canon; with_reducible assumption)

theorem callReceiver_keeps {base s : State} (hk : Keeps base s) (n : Nat) (old : Nat) : Keeps base (callReceiver s n old) := by
  unfold callReceiver
  repeat' first
    | with_reducible assumption
    | with_reducible apply callHost_keeps
    | with_reducible apply callCore_keeps
    | with_reducible apply Keeps.ite
    | intro _
    | dsimp only
    | split

theorem ringBox_keeps {base s : State} (hk : Keeps base s) (n : Nat) (bits : Nat) : Keeps base (ringBox s n bits) := by
  unfold ringBox
  repeat' first
    | with_reducible assumption
    | with_reducible apply callReceiver_keeps
    | with_reducible apply modBox_keeps
    | intro _
    | dsimp only
    | with_reducible refine Keeps.upd ?_ ?_ ?_ ?_ ?_ ?_ ?_ ?_ ?_ ?_ ?_ ?_
    | (obtain ⟨⟩ := ‹Keeps base _›.canon; with_reducible assumption)

theorem asParty_keeps {base s : State} (hk : Keeps base s) (o : Origin) (n : Nat) (side : Party) {f : State → State} (hf : Keeps base s → Keeps base (f s)) :
    Keeps base (asParty o n side s f) := Keeps.ite (answer_keeps (hf hk) ..) (answer_keeps hk ..)

theorem post_keeps {base s : State} (hk : Keeps base s) (n : Nat) (hi : Nat) : Keeps base (post n hi s) := by
  unfold post
  repeat' first
    | with_reducible assumption
    | with_reducible apply ringBox_keeps
    | with_reducible apply modBox_keeps
    | with_reducible apply Keeps.ite
    | intro _
    | dsimp only
    | split
    | with_reducible refine Keeps.upd ?_ ?_ ?_ ?_ ?_ ?_ ?_ ?_ ?_ ?_ ?_ ?_
    | (obtain ⟨⟩ := ‹Keeps base _›.canon; with_reducible assumption)

theorem groomPost_keeps {base s : State} (hk : Keeps base s) (n : Nat) (ptr : Nat) (len : Nat) (typ : Nat) (bell : Nat) : Keeps base (groomPost s n ptr len typ bell) := by
  unfold groomPost
  repeat' first
    | with_reducible assumption
    | with_reducible apply post_keeps
    | with_reducible apply modBox_keeps
    | intro _
    | dsimp only
    | with_reducible refine Keeps.upd ?_ ?_ ?_ ?_ ?_ ?_ ?_ ?_ ?_ ?_ ?_ ?_
    | (obtain ⟨⟩ := ‹Keeps base _›.canon; with_reducible assumption)

theorem execMbxPost_keeps {base s : State} (hk : Keeps base s) (o : Origin) (n : Fin 10) (hi : Word64) : OutKeeps base (execMbxPost o n hi s) := by
  unfold execMbxPost
  repeat' first
    | with_reducible assumption
    | with_reducible apply asParty_keeps
    | with_reducible apply post_keeps
    | with_reducible apply OutKeeps.next
    | intro _
    | dsimp only

theorem execMbxRing_keeps {base s : State} (hk : Keeps base s) (o : Origin) (n : Fin 10) (data : Word64) : OutKeeps base (execMbxRing o n data s) := by
  unfold execMbxRing
  repeat' first
    | with_reducible assumption
    | with_reducible apply ringBox_keeps
    | with_reducible apply asParty_keeps
    | with_reducible apply OutKeeps.next
    | intro _
    | dsimp only

theorem clearDoor_keeps {base s : State} (hk : Keeps base s) (n : Nat) (data : Nat) : Keeps base (clearDoor n data s) := by
  unfold clearDoor
  repeat' first
    | with_reducible assumption
    | with_reducible apply modBox_keeps
    | intro _
    | dsimp only
    | with_reducible refine Keeps.upd ?_ ?_ ?_ ?_ ?_ ?_ ?_ ?_ ?_ ?_ ?_ ?_
    | (obtain ⟨⟩ := ‹Keeps base _›.canon; with_reducible assumption)

theorem execMbxDoorClear_keeps {base s : State} (hk : Keeps base s) (o : Origin) (n : Fin 10) (data : Word64) : OutKeeps base (execMbxDoorClear o n data s) := by
  unfold execMbxDoorClear
  repeat' first
    | with_reducible assumption
    | with_reducible apply asParty_keeps
    | with_reducible apply clearDoor_keeps
    | with_reducible apply OutKeeps.next
    | intro _
    | dsimp only

theorem writeMask_keeps {base s : State} (hk : Keeps base s) (n : Nat) (data : Nat) : Keeps base (writeMask n data s) := by
  unfold writeMask
  repeat' first
    | with_reducible assumption
    | with_reducible apply callReceiver_keeps
    | with_reducible apply modBox_keeps
    | intro _
    | dsimp only
    | with_reducible refine Keeps.upd ?_ ?_ ?_ ?_ ?_ ?_ ?_ ?_ ?_ ?_ ?_ ?_
    | (obtain ⟨⟩ := ‹Keeps base _›.canon; with_reducible assumption)

theorem execMbxMaskWrite_keeps {base s : State} (hk : Keeps base s) (o : Origin) (n : Fin 10) (data : Word64) : OutKeeps base (execMbxMaskWrite o n data s) := by
  unfold execMbxMaskWrite
  repeat' first
    | with_reducible assumption
    | with_reducible apply asParty_keeps
    | with_reducible apply writeMask_keeps
    | with_reducible apply OutKeeps.next
    | intro _
    | dsimp only

theorem popBox_keeps {base s : State} (hk : Keeps base s) (n : Nat) : Keeps base (popBox n s) := by
  unfold popBox
  repeat' first
    | with_reducible assumption
    | with_reducible apply modBox_keeps
    | intro _
    | dsimp only
    | with_reducible refine Keeps.upd ?_ ?_ ?_ ?_ ?_ ?_ ?_ ?_ ?_ ?_ ?_ ?_
    | (obtain ⟨⟩ := ‹Keeps base _›.canon; with_reducible assumption)

theorem flushBox_keeps {base s : State} (hk : Keeps base s) (n : Nat) : Keeps base (flushBox n s) := by
  unfold flushBox
  repeat' first
    | with_reducible assumption
    | with_reducible apply modBox_keeps
    | intro _
    | dsimp only
    | with_reducible refine Keeps.upd ?_ ?_ ?_ ?_ ?_ ?_ ?_ ?_ ?_ ?_ ?_ ?_
    | (obtain ⟨⟩ := ‹Keeps base _›.canon; with_reducible assumption)

theorem writePop_keeps {base s : State} (hk : Keeps base s) (n : Nat) (data : Nat) : Keeps base (writePop n data s) := by
  unfold writePop
  repeat' first
    | with_reducible assumption
    | with_reducible apply popBox_keeps
    | with_reducible apply flushBox_keeps
    | with_reducible apply Keeps.ite
    | intro _
    | dsimp only
    | split

theorem execPop_keeps {base s : State} (hk : Keeps base s) (o : Origin) (n : Fin 10) : OutKeeps base (execPop o n s) := by
  unfold execPop
  repeat' first
    | with_reducible assumption
    | with_reducible apply asParty_keeps
    | with_reducible apply popBox_keeps
    | with_reducible apply OutKeeps.next
    | intro _
    | dsimp only

theorem execFlush_keeps {base s : State} (hk : Keeps base s) (o : Origin) (n : Fin 10) : OutKeeps base (execFlush o n s) := by
  unfold execFlush
  repeat' first
    | with_reducible assumption
    | with_reducible apply asParty_keeps
    | with_reducible apply flushBox_keeps
    | with_reducible apply OutKeeps.next
    | intro _
    | dsimp only

theorem setRxrdy_keeps {base s : State} (hk : Keeps base s) (n : Nat) (v : Bool) : Keeps base (setRxrdy n v s) := by
  unfold setRxrdy
  repeat' first
    | with_reducible assumption
    | with_reducible apply modBox_keeps
    | with_reducible apply journal_keeps
    | with_reducible apply Keeps.ite
    | intro _
    | dsimp only
    | split
    | with_reducible refine Keeps.upd ?_ ?_ ?_ ?_ ?_ ?_ ?_ ?_ ?_ ?_ ?_ ?_
    | (obtain ⟨⟩ := ‹Keeps base _›.canon; with_reducible assumption)

theorem execRxrdy_keeps {base s : State} (hk : Keeps base s) (o : Origin) (n : Fin 10) (value : Bool) : OutKeeps base (execRxrdy o n value s) := by
  unfold execRxrdy
  repeat' first
    | with_reducible assumption
    | with_reducible apply asParty_keeps
    | with_reducible apply setRxrdy_keeps
    | with_reducible apply OutKeeps.next
    | intro _
    | dsimp only

theorem stopBad_keeps {base s : State} (hk : Keeps base s) (r : Nat) : Keeps base (stopBad r s) := by
  unfold stopBad
  repeat' first
    | with_reducible assumption
    | with_reducible apply modRing_keeps
    | with_reducible apply Keeps.ite
    | intro _
    | dsimp only
    | split
    | with_reducible refine Keeps.upd ?_ ?_ ?_ ?_ ?_ ?_ ?_ ?_ ?_ ?_ ?_ ?_
    | (obtain ⟨⟩ := ‹Keeps base _›.canon; with_reducible assumption)

theorem writeHead_keeps {base s : State} (hk : Keeps base s) (r : Nat) (data : Nat) : Keeps base (writeHead r data s) := by
  unfold writeHead
  repeat' first
    | with_reducible assumption
    | with_reducible apply stopBad_keeps
    | with_reducible apply modRing_keeps
    | with_reducible apply raiseIrq_keeps
    | with_reducible apply Keeps.ite
    | intro _
    | dsimp only
    | split
    | with_reducible refine Keeps.upd ?_ ?_ ?_ ?_ ?_ ?_ ?_ ?_ ?_ ?_ ?_ ?_
    | (obtain ⟨⟩ := ‹Keeps base _›.canon; with_reducible assumption)

theorem writeTail_keeps {base s : State} (hk : Keeps base s) (r : Nat) (data : Nat) : Keeps base (writeTail r data s) := by
  unfold writeTail
  repeat' first
    | with_reducible assumption
    | with_reducible apply stopBad_keeps
    | with_reducible apply modRing_keeps
    | intro _
    | dsimp only
    | with_reducible refine Keeps.upd ?_ ?_ ?_ ?_ ?_ ?_ ?_ ?_ ?_ ?_ ?_ ?_
    | (obtain ⟨⟩ := ‹Keeps base _›.canon; with_reducible assumption)

theorem execCrheadWrite_keeps {base s : State} (hk : Keeps base s) (o : Origin) (r : Fin 8) (data : Word64) : OutKeeps base (execCrheadWrite o r data s) := by
  unfold execCrheadWrite
  repeat' first
    | with_reducible assumption
    | with_reducible apply writeHead_keeps
    | with_reducible apply answer_keeps
    | with_reducible apply Keeps.ite
    | with_reducible apply OutKeeps.next
    | intro _
    | dsimp only
    | split

theorem execCrcfgWrite_keeps {base s : State} (hk : Keeps base s) (o : Origin) (r : Fin 8) (data : Word64) : OutKeeps base (execCrcfgWrite o r data s) := by
  unfold execCrcfgWrite
  repeat' first
    | with_reducible assumption
    | with_reducible apply modRing_keeps
    | with_reducible apply asHostler_keeps
    | with_reducible apply OutKeeps.next
    | intro _
    | dsimp only

theorem takeSvc_keeps {base s : State} (hk : Keeps base s) (p : Nat) (payload : List Byte) : Keeps base (takeSvc s p payload) := by
  unfold takeSvc
  unfold takeFresh
  repeat' first
    | with_reducible assumption
    | with_reducible apply Keeps.ite
    | intro _
    | dsimp only
    | split
    | with_reducible refine Keeps.upd ?_ ?_ ?_ ?_ ?_ ?_ ?_ ?_ ?_ ?_ ?_ ?_
    | (obtain ⟨⟩ := ‹Keeps base _›.canon; repeat' (first | with_reducible assumption | with_reducible apply Memory.wf_writeBytes))

theorem execSvc_keeps {base s : State} (hk : Keeps base s) (port : PortId) (car : RxCar) : OutKeeps base (execSvc port car s) := by
  unfold execSvc
  refine OutKeeps.next ?_
  with_reducible refine Keeps.ite hk ?_
  have hg := receiveCar_keeps hk port car
  revert hg
  cases receiveCar s port car <;> intro hg <;> have hg' : Keeps base _ := hg <;> clear hg <;> dsimp only
  all_goals repeat' first
    | with_reducible assumption
    | with_reducible apply takeSvc_keeps
    | with_reducible apply Keeps.ite
    | with_reducible apply OutKeeps.next
    | intro _
    | dsimp only
    | split
    | with_reducible refine Keeps.upd ?_ ?_ ?_ ?_ ?_ ?_ ?_ ?_ ?_ ?_ ?_ ?_
    | (obtain ⟨⟩ := ‹Keeps base _›.canon; with_reducible assumption)

end Sys2Proof.Machine
end

