-- ==== Sys2Proof/Laws/KeepsGroom.lean ====
section
/-! SUPPORT. What the commands of power, heat, remap, lunge, studbook, bring-up and resets keep (Safety, `Keeps`). -/

set_option Elab.async false
set_option linter.all false

namespace Sys2Proof.Machine

theorem gwf_buildStall {g : GMap PShed} (h : gwf g = true) (p : Nat) : gwf (buildStall g p) = true := by
  unfold buildStall
  repeat' first
    | with_reducible assumption
    | with_reducible apply gwf_gmod
    | with_reducible apply gwf_gset
    | dsimp only
    | split

theorem gwf_buildSheds {s : State} (h : gwf s.psheds = true) : gwf (buildSheds s) = true := by
  unfold buildSheds
  have : ∀ (l : List FailUnit) (g : GMap PShed), gwf g = true → gwf (l.foldl (fun g u => match u with
    | .stall p => buildStall g p
    | .shed n => gmod g n fun q => { q with unusable := true }) g) = true := by
    intro l
    induction l with
    | nil => intro g hg; exact hg
    | cons u l ih =>
      intro g hg
      refine ih _ ?_
      cases u
      · exact gwf_buildStall hg _
      · exact gwf_gmod hg _ _
  exact this _ _ (gwf_gmapAll h _)

theorem blowArb_level {s : State} (h : gwf s.fuses.arb = true) (k : Nat) : gget (blowArb s).fuses.arb k =
    if k ∈ [1, 2, 3, 4] then min (arbMax k) (max (gget s.fuses.arb k) (gget s.grm.pendArb k)) else gget s.fuses.arb k := by
  unfold blowArb
  dsimp only
  generalize hm : arbMax = am
  have hn : [1, 2, 3, 4].Nodup := by decide
  generalize [1, 2, 3, 4] = ks at hn ⊢
  exact gget_gmodKeys h hn _ k

theorem Keeps.blow {c s : State} (h : Keeps c s) : Keeps c (blowArb s) := by
  have hl := blowArb_level h.inRange.wf
  have hw : gwf (blowArb s).fuses.arb = true := by unfold blowArb; dsimp only; exact gwf_gmodKeys h.inRange.wf _ _
  refine ⟨?_, ?_, fun k => ?_, ⟨hw, fun k => ?_⟩, ?_⟩
  · unfold blowArb; dsimp only; exact h.pending
  · unfold blowArb; dsimp only; exact h.fuses
  · rw [hl]
    have := h.arb k
    have := h.inRange.bound k
    generalize arbMax k = m at *
    split <;> omega
  · rw [hl]
    have := h.inRange.bound k
    generalize arbMax k = m at *
    split <;> omega
  · obtain ⟨⟩ := h.canon
    unfold blowArb
    constructor <;> dsimp only <;> with_reducible assumption

/-! Power. -/

theorem fixLimit_keeps {base s : State} (hk : Keeps base s)  : Keeps base (fixLimit s) := by
  unfold fixLimit
  repeat' first
    | with_reducible assumption
    | with_reducible apply Keeps.ite
    | intro _
    | dsimp only
    | split
    | with_reducible refine Keeps.upd ?_ ?_ ?_ ?_ ?_ ?_ ?_ ?_ ?_ ?_ ?_ ?_
    | (obtain ⟨⟩ := ‹Keeps base _›.canon; with_reducible assumption)

theorem writeCap_keeps {base s : State} (hk : Keeps base s) (data : Nat) : Keeps base (writeCap data s) := by
  unfold writeCap
  repeat' first
    | with_reducible assumption
    | with_reducible apply fixLimit_keeps
    | intro _
    | dsimp only
    | with_reducible refine Keeps.upd ?_ ?_ ?_ ?_ ?_ ?_ ?_ ?_ ?_ ?_ ?_ ?_
    | (obtain ⟨⟩ := ‹Keeps base _›.canon; with_reducible assumption)

theorem execPwrCapWrite_keeps {base s : State} (hk : Keeps base s) (o : Origin) (data : Word64) : OutKeeps base (execPwrCapWrite o data s) := by
  unfold execPwrCapWrite
  repeat' first
    | with_reducible assumption
    | with_reducible apply asAuth_keeps
    | with_reducible apply writeCap_keeps
    | with_reducible apply OutKeeps.next
    | intro _
    | dsimp only

theorem slewLimit_keeps {base s : State} (hk : Keeps base s)  : Keeps base (slewLimit s) := by
  unfold slewLimit
  repeat' first
    | with_reducible assumption
    | with_reducible apply Keeps.ite
    | intro _
    | dsimp only
    | split
    | with_reducible refine Keeps.upd ?_ ?_ ?_ ?_ ?_ ?_ ?_ ?_ ?_ ?_ ?_ ?_
    | (obtain ⟨⟩ := ‹Keeps base _›.canon; with_reducible assumption)

theorem countOvershoot_keeps {base s : State} (hk : Keeps base s)  : Keeps base (countOvershoot s) := by
  unfold countOvershoot
  repeat' first
    | with_reducible assumption
    | with_reducible apply Keeps.ite
    | intro _
    | dsimp only
    | split
    | with_reducible refine Keeps.upd ?_ ?_ ?_ ?_ ?_ ?_ ?_ ?_ ?_ ?_ ?_ ?_
    | (obtain ⟨⟩ := ‹Keeps base _›.canon; with_reducible assumption)

theorem execAllocatorInterval_keeps {base s : State} (hk : Keeps base s) (m : PowerMeas) : OutKeeps base (execAllocatorInterval m s) := by
  unfold execAllocatorInterval
  repeat' first
    | with_reducible assumption
    | with_reducible apply slewLimit_keeps
    | with_reducible apply countOvershoot_keeps
    | with_reducible apply Keeps.ite
    | with_reducible apply OutKeeps.next
    | intro _
    | dsimp only
    | split
    | with_reducible refine Keeps.upd ?_ ?_ ?_ ?_ ?_ ?_ ?_ ?_ ?_ ?_ ?_ ?_
    | (obtain ⟨⟩ := ‹Keeps base _›.canon; with_reducible assumption)

theorem execYardRailInterval_keeps {base s : State} (hk : Keeps base s) (yard : YardId) (watts : Nat) : OutKeeps base (execYardRailInterval yard watts s) := by
  unfold execYardRailInterval
  repeat' first
    | with_reducible assumption
    | with_reducible apply modYard_keeps
    | with_reducible apply OutKeeps.next
    | intro _
    | dsimp only

theorem propose_keeps {base s : State} (hk : Keeps base s) (k : Nat) : Keeps base (propose s k) := by
  unfold propose
  repeat' first
    | with_reducible assumption
    | with_reducible apply modPShed_keeps
    | with_reducible apply Keeps.ite
    | intro _
    | dsimp only
    | split
    | with_reducible refine Keeps.upd ?_ ?_ ?_ ?_ ?_ ?_ ?_ ?_ ?_ ?_ ?_ ?_
    | (obtain ⟨⟩ := ‹Keeps base _›.canon; with_reducible assumption)

theorem enterDepth_keeps {base s : State} (hk : Keeps base s) (n : Nat) (d : Nat) : Keeps base (enterDepth s n d) := by
  unfold enterDepth
  repeat' first
    | with_reducible assumption
    | with_reducible apply modPShed_keeps
    | with_reducible apply Keeps.ite
    | intro _
    | dsimp only
    | split
    | with_reducible refine Keeps.upd ?_ ?_ ?_ ?_ ?_ ?_ ?_ ?_ ?_ ?_ ?_ ?_
    | (obtain ⟨⟩ := ‹Keeps base _›.canon; repeat' (first | with_reducible assumption | with_reducible apply gwf_gmodKeys))

theorem admitSheds_keeps {base s : State} (hk : Keeps base s) (ns : List Nat) : Keeps base (admitSheds s ns) := by
  unfold admitSheds
  repeat' first
    | with_reducible assumption
    | with_reducible apply enterDepth_keeps
    | with_reducible refine Keeps.foldl ?_ (fun _ _ _ => ?_)
    | intro _
    | dsimp only

theorem admitAll_keeps {base s : State} (hk : Keeps base s)  : Keeps base (admitAll s) := by
  unfold admitAll
  repeat' first
    | with_reducible assumption
    | with_reducible apply admitSheds_keeps
    | intro _
    | dsimp only

theorem execIdleProposal_keeps {base s : State} (hk : Keeps base s) (yard : YardId) (shed : ShedNo) (_cause : ProposalCause) : OutKeeps base (execIdleProposal yard shed _cause s) := by
  unfold execIdleProposal
  repeat' first
    | with_reducible assumption
    | with_reducible apply propose_keeps
    | with_reducible apply OutKeeps.next
    | intro _
    | dsimp only

theorem execShedWake_keeps {base s : State} (hk : Keeps base s) (yard : YardId) (shed : ShedNo) (cause : WakeCause) : OutKeeps base (execShedWake yard shed cause s) := by
  unfold execShedWake
  repeat' first
    | with_reducible assumption
    | with_reducible apply modPShed_keeps
    | with_reducible apply Keeps.ite
    | with_reducible apply OutKeeps.next
    | intro _
    | dsimp only
    | split
    | with_reducible refine Keeps.upd ?_ ?_ ?_ ?_ ?_ ?_ ?_ ?_ ?_ ?_ ?_ ?_
    | (obtain ⟨⟩ := ‹Keeps base _›.canon; with_reducible assumption)

theorem execWakeComplete_keeps {base s : State} (hk : Keeps base s) (yard : YardId) (shed : ShedNo) : OutKeeps base (execWakeComplete yard shed s) := by
  unfold execWakeComplete
  repeat' first
    | with_reducible assumption
    | with_reducible apply modPShed_keeps
    | with_reducible apply propose_keeps
    | with_reducible apply flipShed_keeps
    | with_reducible apply Keeps.ite
    | with_reducible apply OutKeeps.next
    | intro _
    | dsimp only
    | split
    | with_reducible refine Keeps.upd ?_ ?_ ?_ ?_ ?_ ?_ ?_ ?_ ?_ ?_ ?_ ?_
    | (obtain ⟨⟩ := ‹Keeps base _›.canon; with_reducible assumption)

theorem writeNextev_keeps {base s : State} (hk : Keeps base s) (data : Nat) : Keeps base (writeNextev data s) := by
  unfold writeNextev
  repeat' first
    | with_reducible assumption
    | with_reducible apply propose_keeps
    | with_reducible refine Keeps.foldl ?_ (fun _ _ _ => ?_)
    | intro _
    | dsimp only
    | with_reducible refine Keeps.upd ?_ ?_ ?_ ?_ ?_ ?_ ?_ ?_ ?_ ?_ ?_ ?_
    | (obtain ⟨⟩ := ‹Keeps base _›.canon; with_reducible assumption)

theorem execNextevWrite_keeps {base s : State} (hk : Keeps base s) (o : Origin) (data : Word64) : OutKeeps base (execNextevWrite o data s) := by
  unfold execNextevWrite
  repeat' first
    | with_reducible assumption
    | with_reducible apply asAuth_keeps
    | with_reducible apply writeNextev_keeps
    | with_reducible apply OutKeeps.next
    | intro _
    | dsimp only

theorem setBallast_keeps {base s : State} (hk : Keeps base s)  : Keeps base (setBallast s) := by
  unfold setBallast
  repeat' first
    | with_reducible assumption
    | with_reducible apply Keeps.ite
    | intro _
    | dsimp only
    | split
    | with_reducible refine Keeps.upd ?_ ?_ ?_ ?_ ?_ ?_ ?_ ?_ ?_ ?_ ?_ ?_
    | (obtain ⟨⟩ := ‹Keeps base _›.canon; repeat' (first | with_reducible assumption | with_reducible apply gwf_gmodKeys | with_reducible apply gwf_gmapWith))

theorem dropBallast_keeps {base s : State} (hk : Keeps base s)  : Keeps base (dropBallast s) := by
  unfold dropBallast
  repeat' first
    | with_reducible assumption
    | intro _
    | dsimp only
    | with_reducible refine Keeps.upd ?_ ?_ ?_ ?_ ?_ ?_ ?_ ?_ ?_ ?_ ?_ ?_
    | (obtain ⟨⟩ := ‹Keeps base _›.canon; repeat' (first | with_reducible assumption | with_reducible apply gwf_gmapAll))

theorem withhold_keeps {base s : State} (hk : Keeps base s)  : Keeps base (withhold s) := by
  unfold withhold
  repeat' first
    | with_reducible assumption
    | with_reducible apply record_keeps
    | with_reducible apply Keeps.ite
    | intro _
    | dsimp only
    | split
    | with_reducible refine Keeps.upd ?_ ?_ ?_ ?_ ?_ ?_ ?_ ?_ ?_ ?_ ?_ ?_
    | (obtain ⟨⟩ := ‹Keeps base _›.canon; repeat' (first | with_reducible assumption | with_reducible apply gwf_gmodKeys))

theorem wakeSome_keeps {base s : State} (hk : Keeps base s) (ns : List Nat) : Keeps base (wakeSome s ns) := by
  unfold wakeSome
  unfold takeFresh
  repeat' first
    | with_reducible assumption
    | intro _
    | dsimp only
    | split
    | with_reducible refine Keeps.upd ?_ ?_ ?_ ?_ ?_ ?_ ?_ ?_ ?_ ?_ ?_ ?_
    | (obtain ⟨⟩ := ‹Keeps base _›.canon; repeat' (first | with_reducible assumption | with_reducible apply gwf_gmodKeys))

theorem drawAbove_keeps {base s : State} (hk : Keeps base s)  : Keeps base (drawAbove s) := by
  unfold drawAbove
  unfold takeFresh
  repeat' first
    | with_reducible assumption
    | with_reducible apply admitSheds_keeps
    | with_reducible apply setBallast_keeps
    | intro _
    | dsimp only
    | split
    | with_reducible refine Keeps.upd ?_ ?_ ?_ ?_ ?_ ?_ ?_ ?_ ?_ ?_ ?_ ?_
    | (obtain ⟨⟩ := ‹Keeps base _›.canon; with_reducible assumption)

theorem drawBelow_keeps {base s : State} (hk : Keeps base s) (short : Bool) : Keeps base (drawBelow s short) := by
  unfold drawBelow
  unfold takeFresh
  repeat' first
    | with_reducible assumption
    | with_reducible apply setBallast_keeps
    | with_reducible apply withhold_keeps
    | with_reducible apply wakeSome_keeps
    | with_reducible apply Keeps.ite
    | intro _
    | dsimp only
    | split
    | with_reducible refine Keeps.upd ?_ ?_ ?_ ?_ ?_ ?_ ?_ ?_ ?_ ?_ ?_ ?_
    | (obtain ⟨⟩ := ‹Keeps base _›.canon; with_reducible assumption)

theorem execRampInterval_keeps {base s : State} (hk : Keeps base s) (m : RampMeas) : OutKeeps base (execRampInterval m s) := by
  unfold execRampInterval
  apply OutKeeps.next
  extract_lets g d _ s1 s2 _
  have h1 : Keeps base s1 := by
    with_reducible refine Keeps.upd hk ?_ ?_ ?_ ?_ ?_ ?_ ?_ ?_ ?_ ?_ ?_
    all_goals (intro h; obtain ⟨⟩ := h.canon; with_reducible assumption)
  have h2 : Keeps base s2 := Keeps.ite (admitAll_keeps (dropBallast_keeps h1)) (Keeps.ite (drawAbove_keeps h1) (Keeps.ite (drawBelow_keeps h1 _) h1))
  with_reducible refine Keeps.upd h2 ?_ ?_ ?_ ?_ ?_ ?_ ?_ ?_ ?_ ?_ ?_
  all_goals (intro h; obtain ⟨⟩ := h.canon; with_reducible assumption)

theorem writeStagger_keeps {base s : State} (hk : Keeps base s) (data : Nat) : Keeps base (writeStagger data s) := by
  unfold writeStagger
  repeat' first
    | with_reducible assumption
    | with_reducible apply Keeps.ite
    | intro _
    | dsimp only
    | split
    | with_reducible refine Keeps.upd ?_ ?_ ?_ ?_ ?_ ?_ ?_ ?_ ?_ ?_ ?_ ?_
    | (obtain ⟨⟩ := ‹Keeps base _›.canon; with_reducible assumption)

theorem execStaggerArm_keeps {base s : State} (hk : Keeps base s) (o : Origin) (data : Word64) : OutKeeps base (execStaggerArm o data s) := by
  unfold execStaggerArm
  repeat' first
    | with_reducible assumption
    | with_reducible apply asAuth_keeps
    | with_reducible apply writeStagger_keeps
    | with_reducible apply OutKeeps.next
    | intro _
    | dsimp only

theorem execStaggerSlotReached_keeps {base s : State} (hk : Keeps base s)  : OutKeeps base (execStaggerSlotReached s) := by
  unfold execStaggerSlotReached
  repeat' first
    | with_reducible assumption
    | with_reducible apply releaseStart_keeps
    | with_reducible apply Keeps.ite
    | with_reducible apply OutKeeps.next
    | intro _
    | dsimp only
    | split
    | with_reducible refine Keeps.upd ?_ ?_ ?_ ?_ ?_ ?_ ?_ ?_ ?_ ?_ ?_ ?_
    | (obtain ⟨⟩ := ‹Keeps base _›.canon; with_reducible assumption)

theorem shedBegin_keeps {base s : State} (hk : Keeps base s)  : Keeps base (shedBegin s) := by
  unfold shedBegin
  repeat' first
    | with_reducible assumption
    | with_reducible apply fixLimit_keeps
    | with_reducible apply admitAll_keeps
    | with_reducible apply dropBallast_keeps
    | intro _
    | dsimp only
    | with_reducible refine Keeps.upd ?_ ?_ ?_ ?_ ?_ ?_ ?_ ?_ ?_ ?_ ?_ ?_
    | (obtain ⟨⟩ := ‹Keeps base _›.canon; with_reducible assumption)

theorem shedEnd_keeps {base s : State} (hk : Keeps base s)  : Keeps base (shedEnd s) := by
  unfold shedEnd
  repeat' first
    | with_reducible assumption
    | intro _
    | dsimp only
    | with_reducible refine Keeps.upd ?_ ?_ ?_ ?_ ?_ ?_ ?_ ?_ ?_ ?_ ?_ ?_
    | (obtain ⟨⟩ := ‹Keeps base _›.canon; with_reducible assumption)

theorem shedChange_keeps {base s : State} (hk : Keeps base s) (old : Bool) : Keeps base (shedChange old s) := by
  unfold shedChange
  repeat' first
    | with_reducible assumption
    | with_reducible apply fixLimit_keeps
    | with_reducible apply shedBegin_keeps
    | with_reducible apply shedEnd_keeps
    | with_reducible apply Keeps.ite
    | intro _
    | dsimp only
    | split

theorem execLshedAssert_keeps {base s : State} (hk : Keeps base s)  : OutKeeps base (execLshedAssert s) := by
  unfold execLshedAssert
  repeat' first
    | with_reducible assumption
    | with_reducible apply shedChange_keeps
    | with_reducible apply OutKeeps.next
    | intro _
    | dsimp only
    | with_reducible refine Keeps.upd ?_ ?_ ?_ ?_ ?_ ?_ ?_ ?_ ?_ ?_ ?_ ?_
    | (obtain ⟨⟩ := ‹Keeps base _›.canon; with_reducible assumption)

theorem writeLshed_keeps {base s : State} (hk : Keeps base s) (data : Nat) : Keeps base (writeLshed data s) := by
  unfold writeLshed
  repeat' first
    | with_reducible assumption
    | with_reducible apply shedChange_keeps
    | intro _
    | dsimp only
    | with_reducible refine Keeps.upd ?_ ?_ ?_ ?_ ?_ ?_ ?_ ?_ ?_ ?_ ?_ ?_
    | (obtain ⟨⟩ := ‹Keeps base _›.canon; with_reducible assumption)

theorem execLreq_keeps {base s : State} (hk : Keeps base s) (o : Origin) (data : Word64) : OutKeeps base (execLreq o data s) := by
  unfold execLreq
  repeat' first
    | with_reducible assumption
    | with_reducible apply asAuth_keeps
    | with_reducible apply writeLshed_keeps
    | with_reducible apply OutKeeps.next
    | intro _
    | dsimp only

theorem execLoadShedEnd_keeps {base s : State} (hk : Keeps base s)  : OutKeeps base (execLoadShedEnd s) := by
  unfold execLoadShedEnd
  repeat' first
    | with_reducible assumption
    | with_reducible apply shedChange_keeps
    | with_reducible apply OutKeeps.next
    | intro _
    | dsimp only
    | with_reducible refine Keeps.upd ?_ ?_ ?_ ?_ ?_ ?_ ?_ ?_ ?_ ?_ ?_ ?_
    | (obtain ⟨⟩ := ‹Keeps base _›.canon; with_reducible assumption)

/-! Thermal. -/

theorem writeThmClk_keeps {base s : State} (hk : Keeps base s) (data : Nat) : Keeps base (writeThmClk data s) := by
  unfold writeThmClk
  repeat' first
    | with_reducible assumption
    | intro _
    | dsimp only
    | with_reducible refine Keeps.upd ?_ ?_ ?_ ?_ ?_ ?_ ?_ ?_ ?_ ?_ ?_ ?_
    | (obtain ⟨⟩ := ‹Keeps base _›.canon; with_reducible assumption)

theorem execThmClkWrite_keeps {base s : State} (hk : Keeps base s) (o : Origin) (data : Word64) : OutKeeps base (execThmClkWrite o data s) := by
  unfold execThmClkWrite
  repeat' first
    | with_reducible assumption
    | with_reducible apply asAuth_keeps
    | with_reducible apply writeThmClk_keeps
    | with_reducible apply OutKeeps.next
    | intro _
    | dsimp only

theorem writeThmCfg_keeps {base s : State} (hk : Keeps base s) (data : Nat) : Keeps base (writeThmCfg data s) := by
  unfold writeThmCfg
  repeat' first
    | with_reducible assumption
    | intro _
    | dsimp only
    | with_reducible refine Keeps.upd ?_ ?_ ?_ ?_ ?_ ?_ ?_ ?_ ?_ ?_ ?_ ?_
    | (obtain ⟨⟩ := ‹Keeps base _›.canon; with_reducible assumption)

theorem execDroopDetect_keeps {base s : State} (hk : Keeps base s) (yard : YardId) (shed : ShedNo) (deep : Bool) : OutKeeps base (execDroopDetect yard shed deep s) := by
  unfold execDroopDetect
  unfold takeFresh
  repeat' first
    | with_reducible assumption
    | with_reducible apply modPShed_keeps
    | with_reducible apply Keeps.ite
    | with_reducible apply OutKeeps.next
    | intro _
    | dsimp only
    | split
    | with_reducible refine Keeps.upd ?_ ?_ ?_ ?_ ?_ ?_ ?_ ?_ ?_ ?_ ?_ ?_
    | (obtain ⟨⟩ := ‹Keeps base _›.canon; with_reducible assumption)

theorem execDroopRecovery_keeps {base s : State} (hk : Keeps base s) (yard : YardId) (shed : ShedNo) : OutKeeps base (execDroopRecovery yard shed s) := by
  unfold execDroopRecovery
  repeat' first
    | with_reducible assumption
    | with_reducible apply modPShed_keeps
    | with_reducible apply OutKeeps.next
    | intro _
    | dsimp only
    | with_reducible refine Keeps.upd ?_ ?_ ?_ ?_ ?_ ?_ ?_ ?_ ?_ ?_ ?_ ?_
    | (obtain ⟨⟩ := ‹Keeps base _›.canon; with_reducible assumption)

theorem sensorless_keeps {base s : State} (hk : Keeps base s) (n : PShedNo) : Keeps base (sensorless s n) := by
  unfold sensorless
  repeat' first
    | with_reducible assumption
    | with_reducible apply modPShed_keeps
    | with_reducible apply failUnit_keeps
    | with_reducible apply Keeps.ite
    | intro _
    | dsimp only
    | split

theorem holdStep_keeps {base s : State} (hk : Keeps base s) (n : Nat) : Keeps base (holdStep s n) := by
  unfold holdStep
  repeat' first
    | with_reducible assumption
    | with_reducible apply fixHeld_keeps
    | with_reducible apply modPShed_keeps
    | with_reducible apply record_keeps
    | with_reducible apply Keeps.ite
    | intro _
    | dsimp only
    | split
    | with_reducible refine Keeps.upd ?_ ?_ ?_ ?_ ?_ ?_ ?_ ?_ ?_ ?_ ?_ ?_
    | (obtain ⟨⟩ := ‹Keeps base _›.canon; with_reducible assumption)

theorem sampleShed_keeps {base s : State} (hk : Keeps base s) (r : ShedReading) : Keeps base (sampleShed s r) := by
  unfold sampleShed
  repeat' first
    | with_reducible assumption
    | with_reducible apply modPShed_keeps
    | with_reducible apply sensorless_keeps
    | with_reducible apply holdStep_keeps
    | with_reducible apply Keeps.ite
    | intro _
    | dsimp only
    | split
    | with_reducible refine Keeps.upd ?_ ?_ ?_ ?_ ?_ ?_ ?_ ?_ ?_ ?_ ?_ ?_
    | (obtain ⟨⟩ := ‹Keeps base _›.canon; with_reducible assumption)

theorem setPeak_keeps {base s : State} (hk : Keeps base s) (t : Int) (n : Nat) : Keeps base (setPeak s t n) := by
  unfold setPeak
  unfold takeFresh
  repeat' first
    | with_reducible assumption
    | intro _
    | dsimp only
    | split
    | with_reducible refine Keeps.upd ?_ ?_ ?_ ?_ ?_ ?_ ?_ ?_ ?_ ?_ ?_ ?_
    | (obtain ⟨⟩ := ‹Keeps base _›.canon; with_reducible assumption)

theorem dropRemaps_keeps {base s : State} (hk : Keeps base s) (y : Nat) : Keeps base (dropRemaps s y) := by
  unfold dropRemaps
  repeat' first
    | with_reducible assumption
    | with_reducible apply Keeps.ite
    | intro _
    | dsimp only
    | split
    | with_reducible refine Keeps.upd ?_ ?_ ?_ ?_ ?_ ?_ ?_ ?_ ?_ ?_ ?_ ?_
    | (obtain ⟨⟩ := ‹Keeps base _›.canon; with_reducible assumption)

theorem coreLost_keeps {base s : State} (hk : Keeps base s) (y : Nat) : Keeps base (coreLost s y) := by
  unfold coreLost
  repeat' first
    | with_reducible assumption
    | with_reducible apply fixHeld_keeps
    | with_reducible apply modYard_keeps
    | with_reducible apply releaseStart_keeps
    | with_reducible apply dropRemaps_keeps
    | with_reducible apply Keeps.ite
    | intro _
    | dsimp only
    | split
    | with_reducible refine Keeps.upd ?_ ?_ ?_ ?_ ?_ ?_ ?_ ?_ ?_ ?_ ?_ ?_
    | (obtain ⟨⟩ := ‹Keeps base _›.canon; repeat' (first | with_reducible assumption | with_reducible apply gwf_gmodKeys))

theorem supplyTrip_keeps {base s : State} (hk : Keeps base s) (y : Nat) (cause : Nat) : Keeps base (supplyTrip s y cause) := by
  unfold supplyTrip
  repeat' first
    | with_reducible assumption
    | with_reducible apply hwAbort_keeps
    | with_reducible apply journal_keeps
    | with_reducible apply record_keeps
    | intro _
    | dsimp only

theorem coreTrip_keeps {base s : State} (hk : Keeps base s) (y : Nat) (cause : Nat) : Keeps base (coreTrip s y cause) := by
  unfold coreTrip
  repeat' first
    | with_reducible assumption
    | with_reducible apply modYard_keeps
    | with_reducible apply coreLost_keeps
    | with_reducible apply supplyTrip_keeps
    | intro _
    | dsimp only
    | with_reducible refine Keeps.upd ?_ ?_ ?_ ?_ ?_ ?_ ?_ ?_ ?_ ?_ ?_ ?_
    | (obtain ⟨⟩ := ‹Keeps base _›.canon; with_reducible assumption)

theorem execCoreRailTrip_keeps {base s : State} (hk : Keeps base s) (yard : YardId) : OutKeeps base (execCoreRailTrip yard s) := by
  unfold execCoreRailTrip
  repeat' first
    | with_reducible assumption
    | with_reducible apply coreTrip_keeps
    | with_reducible apply Keeps.ite
    | with_reducible apply OutKeeps.next
    | intro _
    | dsimp only
    | split

theorem discardCaught_keeps {base s : State} (hk : Keeps base s) (m : TrackMsg) : Keeps base (discardCaught s m) := by
  unfold discardCaught
  repeat' first
    | with_reducible assumption
    | with_reducible apply modQu_keeps
    | with_reducible apply countOut_keeps
    | with_reducible apply Keeps.ite
    | with_reducible refine Keeps.foldl ?_ (fun _ _ _ => ?_)
    | intro _
    | dsimp only
    | split
    | with_reducible refine Keeps.upd ?_ ?_ ?_ ?_ ?_ ?_ ?_ ?_ ?_ ?_ ?_ ?_
    | (obtain ⟨⟩ := ‹Keeps base _›.canon; repeat' (first | with_reducible assumption | with_reducible apply gwf_gmapAll))

theorem trackLost_keeps {base s : State} (hk : Keeps base s) (y : Nat) : Keeps base (trackLost s y) := by
  unfold trackLost
  repeat' first
    | with_reducible assumption
    | with_reducible apply modYard_keeps
    | with_reducible apply discardCaught_keeps
    | with_reducible refine Keeps.foldl ?_ (fun _ _ _ => ?_)
    | intro _
    | dsimp only
    | with_reducible refine Keeps.upd ?_ ?_ ?_ ?_ ?_ ?_ ?_ ?_ ?_ ?_ ?_ ?_
    | (obtain ⟨⟩ := ‹Keeps base _›.canon; with_reducible assumption)

theorem trackTrip_keeps {base s : State} (hk : Keeps base s) (y : Nat) : Keeps base (trackTrip s y) := by
  unfold trackTrip
  repeat' first
    | with_reducible assumption
    | with_reducible apply modYard_keeps
    | with_reducible apply coreLost_keeps
    | with_reducible apply supplyTrip_keeps
    | with_reducible apply trackLost_keeps
    | with_reducible apply Keeps.ite
    | intro _
    | dsimp only
    | split
    | with_reducible refine Keeps.upd ?_ ?_ ?_ ?_ ?_ ?_ ?_ ?_ ?_ ?_ ?_ ?_
    | (obtain ⟨⟩ := ‹Keeps base _›.canon; repeat' (first | with_reducible assumption | with_reducible apply gwf_gmodKeys))

theorem execTrackRailTrip_keeps {base s : State} (hk : Keeps base s) (yard : YardId) : OutKeeps base (execTrackRailTrip yard s) := by
  unfold execTrackRailTrip
  repeat' first
    | with_reducible assumption
    | with_reducible apply trackTrip_keeps
    | with_reducible apply Keeps.ite
    | with_reducible apply OutKeeps.next
    | intro _
    | dsimp only
    | split

theorem sampleSupply_keeps {base s : State} (hk : Keeps base s) (r : YardId × Int) : Keeps base (sampleSupply s r) := by
  unfold sampleSupply
  repeat' first
    | with_reducible assumption
    | with_reducible apply modYard_keeps
    | with_reducible apply coreTrip_keeps
    | with_reducible apply Keeps.ite
    | intro _
    | dsimp only
    | split
    | with_reducible refine Keeps.upd ?_ ?_ ?_ ?_ ?_ ?_ ?_ ?_ ?_ ?_ ?_ ?_
    | (obtain ⟨⟩ := ‹Keeps base _›.canon; with_reducible assumption)

theorem allToD4_keeps {base s : State} (hk : Keeps base s)  : Keeps base (allToD4 s) := by
  unfold allToD4
  repeat' first
    | with_reducible assumption
    | intro _
    | dsimp only
    | with_reducible refine Keeps.upd ?_ ?_ ?_ ?_ ?_ ?_ ?_ ?_ ?_ ?_ ?_ ?_
    | (obtain ⟨⟩ := ‹Keeps base _›.canon; repeat' (first | with_reducible assumption | with_reducible apply gwf_gmapAll))

theorem thermTrip_keeps {base s : State} (hk : Keeps base s) (t : Int) : Keeps base (thermTrip s t) := by
  unfold thermTrip
  repeat' first
    | with_reducible assumption
    | with_reducible apply hwAbort_keeps
    | with_reducible apply journal_keeps
    | with_reducible apply record_keeps
    | with_reducible apply dropBallast_keeps
    | with_reducible apply allToD4_keeps
    | intro _
    | dsimp only
    | with_reducible refine Keeps.upd ?_ ?_ ?_ ?_ ?_ ?_ ?_ ?_ ?_ ?_ ?_ ?_
    | (obtain ⟨⟩ := ‹Keeps base _›.canon; with_reducible assumption)

theorem tripRails_keeps {base s : State} (hk : Keeps base s)  : Keeps base (tripRails s) := by
  unfold tripRails
  repeat' first
    | with_reducible assumption
    | with_reducible apply takeDrop_keeps
    | with_reducible refine Keeps.foldl ?_ (fun _ _ _ => ?_)
    | intro _
    | dsimp only
    | with_reducible refine Keeps.upd ?_ ?_ ?_ ?_ ?_ ?_ ?_ ?_ ?_ ?_ ?_ ?_
    | (obtain ⟨⟩ := ‹Keeps base _›.canon; repeat' (first | with_reducible assumption | with_reducible apply gwf_gmapAll))

theorem execTripRailOff_keeps {base s : State} (hk : Keeps base s)  : OutKeeps base (execTripRailOff s) := by
  unfold execTripRailOff
  repeat' first
    | with_reducible assumption
    | with_reducible apply tripRails_keeps
    | with_reducible apply Keeps.ite
    | with_reducible apply OutKeeps.next
    | intro _
    | dsimp only
    | split

theorem execSensorSample_keeps {base s : State} (hk : Keeps base s) (sheds : List ShedReading) (supplies : List (YardId × Int)) : OutKeeps base (execSensorSample sheds supplies s) := by
  unfold execSensorSample
  repeat' first
    | with_reducible assumption
    | with_reducible apply sampleShed_keeps
    | with_reducible apply setPeak_keeps
    | with_reducible apply sampleSupply_keeps
    | with_reducible apply thermTrip_keeps
    | with_reducible apply tripRails_keeps
    | with_reducible apply Keeps.ite
    | with_reducible apply OutKeeps.next
    | with_reducible apply OutKeeps.ite
    | trivial
    | with_reducible refine Keeps.foldl ?_ (fun _ _ _ => ?_)
    | intro _
    | dsimp only
    | split
    | with_reducible refine Keeps.upd ?_ ?_ ?_ ?_ ?_ ?_ ?_ ?_ ?_ ?_ ?_ ?_
    | (obtain ⟨⟩ := ‹Keeps base _›.canon; with_reducible assumption)

theorem execThrottleStep_keeps {base s : State} (hk : Keeps base s) (yard : YardId) (shed : ShedNo) (up : Bool) : OutKeeps base (execThrottleStep yard shed up s) := by
  unfold execThrottleStep
  repeat' first
    | with_reducible assumption
    | with_reducible apply modPShed_keeps
    | with_reducible apply Keeps.ite
    | with_reducible apply OutKeeps.next
    | intro _
    | dsimp only
    | split

/-! Remap. -/

theorem applyEdit_keeps {base s : State} (hk : Keeps base s) (x0 : RemapEdit) : Keeps base (applyEdit s x0) := by
  unfold applyEdit
  repeat' first
    | with_reducible assumption
    | with_reducible apply modYard_keeps
    | with_reducible apply modPShed_keeps
    | intro _
    | dsimp only
    | split
    | with_reducible refine Keeps.upd ?_ ?_ ?_ ?_ ?_ ?_ ?_ ?_ ?_ ?_ ?_ ?_
    | (obtain ⟨⟩ := ‹Keeps base _›.canon; repeat' (first | with_reducible assumption | with_reducible apply gwf_gset | with_reducible apply gwf_gmodKeys))

theorem journalEdit_keeps {base s : State} (hk : Keeps base s) (x0 : RemapEdit) : Keeps base (journalEdit s x0) := by
  unfold journalEdit
  repeat' first
    | with_reducible assumption
    | with_reducible apply journal_keeps
    | intro _
    | dsimp only
    | split

theorem setValid_keeps {base s : State} (hk : Keeps base s) (r : RemapRun) (v : Bool) : Keeps base (setValid s r v) := by
  unfold setValid
  repeat' first
    | with_reducible assumption
    | with_reducible apply modYard_keeps
    | with_reducible apply Keeps.ite
    | intro _
    | dsimp only
    | split
    | with_reducible refine Keeps.upd ?_ ?_ ?_ ?_ ?_ ?_ ?_ ?_ ?_ ?_ ?_ ?_
    | (obtain ⟨⟩ := ‹Keeps base _›.canon; repeat' (first | with_reducible assumption | with_reducible apply gwf_gmodKeys))

theorem markReload_keeps {base s : State} (hk : Keeps base s) (stalls : List Nat) : Keeps base (markReload s stalls) := by
  unfold markReload
  repeat' first
    | with_reducible assumption
    | with_reducible apply disarmPlace_keeps
    | with_reducible apply Keeps.ite
    | intro _
    | dsimp only
    | split
    | with_reducible refine Keeps.upd ?_ ?_ ?_ ?_ ?_ ?_ ?_ ?_ ?_ ?_ ?_ ?_
    | (obtain ⟨⟩ := ‹Keeps base _›.canon; repeat' (first | with_reducible assumption | with_reducible apply gwf_gmapAll))

theorem execRemapRun_keeps {base s : State} (hk : Keeps base s)  : OutKeeps base (execRemapRun s) := by
  unfold execRemapRun
  repeat' first
    | with_reducible assumption
    | with_reducible apply journalEdit_keeps
    | with_reducible apply setValid_keeps
    | with_reducible apply markReload_keeps
    | with_reducible apply Keeps.ite
    | with_reducible apply OutKeeps.next
    | with_reducible refine Keeps.foldl ?_ (fun _ _ _ => ?_)
    | intro _
    | dsimp only
    | split
    | with_reducible refine Keeps.upd ?_ ?_ ?_ ?_ ?_ ?_ ?_ ?_ ?_ ?_ ?_ ?_
    | (obtain ⟨⟩ := ‹Keeps base _›.canon; with_reducible assumption)

theorem restartWith_keeps {base s : State} (hk : Keeps base s) (r : RemapRun) (u : FailUnit) : Keeps base (restartWith s r u) := by
  unfold restartWith
  repeat' first
    | with_reducible assumption
    | with_reducible apply setValid_keeps
    | intro _
    | dsimp only
    | with_reducible refine Keeps.upd ?_ ?_ ?_ ?_ ?_ ?_ ?_ ?_ ?_ ?_ ?_ ?_
    | (obtain ⟨⟩ := ‹Keeps base _›.canon; with_reducible assumption)

theorem execRemapFault_keeps {base s : State} (hk : Keeps base s) (u : FailUnit) : OutKeeps base (execRemapFault u s) := by
  unfold execRemapFault
  repeat' first
    | with_reducible assumption
    | with_reducible apply restartWith_keeps
    | with_reducible apply failUnit_keeps
    | with_reducible apply Keeps.ite
    | with_reducible apply OutKeeps.next
    | intro _
    | dsimp only
    | split
    | with_reducible refine Keeps.upd ?_ ?_ ?_ ?_ ?_ ?_ ?_ ?_ ?_ ?_ ?_ ?_
    | (obtain ⟨⟩ := ‹Keeps base _›.canon; with_reducible assumption)

theorem fixPscol_keeps {base s : State} (hk : Keeps base s) (y : Nat) : Keeps base (fixPscol s y) := by
  unfold fixPscol
  repeat' first
    | with_reducible assumption
    | intro _
    | dsimp only
    | with_reducible refine Keeps.upd ?_ ?_ ?_ ?_ ?_ ?_ ?_ ?_ ?_ ?_ ?_ ?_
    | (obtain ⟨⟩ := ‹Keeps base _›.canon; repeat' (first | with_reducible assumption | with_reducible apply gwf_gmodKeys))

theorem wakeSpares_keeps {base s : State} (hk : Keeps base s) (x0 : RemapEdit) : Keeps base (wakeSpares s x0) := by
  unfold wakeSpares
  repeat' first
    | with_reducible assumption
    | with_reducible apply modPShed_keeps
    | intro _
    | dsimp only
    | split
    | with_reducible refine Keeps.upd ?_ ?_ ?_ ?_ ?_ ?_ ?_ ?_ ?_ ?_ ?_ ?_
    | (obtain ⟨⟩ := ‹Keeps base _›.canon; with_reducible assumption)

theorem applyRun_keeps {base s : State} (hk : Keeps base s) (r : RemapRun) : Keeps base (applyRun s r) := by
  unfold applyRun
  unfold takeFresh
  repeat' first
    | with_reducible assumption
    | with_reducible apply applyEdit_keeps
    | with_reducible apply setValid_keeps
    | with_reducible apply fixPscol_keeps
    | with_reducible apply wakeSpares_keeps
    | with_reducible apply Keeps.ite
    | with_reducible refine Keeps.foldl ?_ (fun _ _ _ => ?_)
    | intro _
    | dsimp only
    | split
    | with_reducible refine Keeps.upd ?_ ?_ ?_ ?_ ?_ ?_ ?_ ?_ ?_ ?_ ?_ ?_
    | (obtain ⟨⟩ := ‹Keeps base _›.canon; repeat' (first | with_reducible assumption | with_reducible apply gwf_gmodKeys))

theorem degrade_keeps {base s : State} (hk : Keeps base s)  : Keeps base (degrade s) := by
  unfold degrade
  repeat' first
    | with_reducible assumption
    | with_reducible apply Keeps.ite
    | intro _
    | dsimp only
    | split
    | with_reducible refine Keeps.upd ?_ ?_ ?_ ?_ ?_ ?_ ?_ ?_ ?_ ?_ ?_ ?_
    | (obtain ⟨⟩ := ‹Keeps base _›.canon; with_reducible assumption)

theorem execRemapComplete_keeps {base s : State} (hk : Keeps base s)  : OutKeeps base (execRemapComplete s) := by
  unfold execRemapComplete
  repeat' first
    | with_reducible assumption
    | with_reducible apply fixHeld_keeps
    | with_reducible apply applyRun_keeps
    | with_reducible apply degrade_keeps
    | with_reducible apply releaseStart_keeps
    | with_reducible apply Keeps.ite
    | with_reducible apply OutKeeps.next
    | intro _
    | dsimp only
    | split
    | with_reducible refine Keeps.upd ?_ ?_ ?_ ?_ ?_ ?_ ?_ ?_ ?_ ?_ ?_ ?_
    | (obtain ⟨⟩ := ‹Keeps base _›.canon; with_reducible assumption)

theorem execSpareRetirement_keeps {base s : State} (hk : Keeps base s) (u : FailUnit) : OutKeeps base (execSpareRetirement u s) := by
  unfold execSpareRetirement
  repeat' first
    | with_reducible assumption
    | with_reducible apply applyEdit_keeps
    | with_reducible apply journalEdit_keeps
    | with_reducible apply Keeps.ite
    | with_reducible apply OutKeeps.next
    | with_reducible refine Keeps.foldl ?_ (fun _ _ _ => ?_)
    | intro _
    | dsimp only
    | split
    | with_reducible refine Keeps.upd ?_ ?_ ?_ ?_ ?_ ?_ ?_ ?_ ?_ ?_ ?_ ?_
    | (obtain ⟨⟩ := ‹Keeps base _›.canon; with_reducible assumption)

theorem measureAging_keeps {base s : State} (hk : Keeps base s) (n : Nat) (ro : Nat) (vmin : Nat) : Keeps base (measureAging s n ro vmin) := by
  unfold measureAging
  unfold takeFresh
  repeat' first
    | with_reducible assumption
    | with_reducible apply groomPost_keeps
    | with_reducible apply modPShed_keeps
    | with_reducible apply journal_keeps
    | with_reducible apply failUnit_keeps
    | with_reducible apply Keeps.ite
    | intro _
    | dsimp only
    | split
    | with_reducible refine Keeps.upd ?_ ?_ ?_ ?_ ?_ ?_ ?_ ?_ ?_ ?_ ?_ ?_
    | (obtain ⟨⟩ := ‹Keeps base _›.canon; with_reducible assumption)

theorem writeLctrl_keeps {base s : State} (hk : Keeps base s) (data : Nat) : Keeps base (writeLctrl data s) := by
  unfold writeLctrl
  repeat' first
    | with_reducible assumption
    | with_reducible apply modPShed_keeps
    | with_reducible apply enterDepth_keeps
    | with_reducible apply Keeps.ite
    | intro _
    | dsimp only
    | split
    | with_reducible refine Keeps.upd ?_ ?_ ?_ ?_ ?_ ?_ ?_ ?_ ?_ ?_ ?_ ?_
    | (obtain ⟨⟩ := ‹Keeps base _›.canon; with_reducible assumption)

theorem execLungeStart_keeps {base s : State} (hk : Keeps base s) (o : Origin) (data : Word64) : OutKeeps base (execLungeStart o data s) := by
  unfold execLungeStart
  repeat' first
    | with_reducible assumption
    | with_reducible apply asHostler_keeps
    | with_reducible apply writeLctrl_keeps
    | with_reducible apply OutKeeps.next
    | intro _
    | dsimp only

theorem journalProb_keeps {base s : State} (hk : Keeps base s) (u : FailUnit) (event : Nat) : Keeps base (journalProb s u event) := by
  unfold journalProb
  repeat' first
    | with_reducible assumption
    | with_reducible apply journal_keeps
    | intro _
    | dsimp only

theorem probationPass_keeps {base s : State} (hk : Keeps base s) (b : Probation) : Keeps base (probationPass s b) := by
  unfold probationPass
  repeat' first
    | with_reducible assumption
    | with_reducible apply journal_keeps
    | with_reducible apply journalProb_keeps
    | with_reducible apply Keeps.ite
    | intro _
    | dsimp only
    | split

theorem probationFail_keeps {base s : State} (hk : Keeps base s) (u : FailUnit) (source : Nat) : Keeps base (probationFail s u source) := by
  unfold probationFail
  repeat' first
    | with_reducible assumption
    | with_reducible apply journalProb_keeps
    | with_reducible apply failUnit_keeps
    | intro _
    | dsimp only

theorem execLungeComplete_keeps {base s : State} (hk : Keeps base s) (r : LungeResult) : OutKeeps base (execLungeComplete r s) := by
  unfold execLungeComplete
  repeat' first
    | with_reducible assumption
    | with_reducible apply modPShed_keeps
    | with_reducible apply journal_keeps
    | with_reducible apply measureAging_keeps
    | with_reducible apply probationPass_keeps
    | with_reducible apply probationFail_keeps
    | with_reducible apply failUnit_keeps
    | with_reducible apply Keeps.ite
    | with_reducible apply OutKeeps.next
    | with_reducible refine Keeps.foldl ?_ (fun _ _ _ => ?_)
    | intro _
    | dsimp only
    | split
    | with_reducible refine Keeps.upd ?_ ?_ ?_ ?_ ?_ ?_ ?_ ?_ ?_ ?_ ?_ ?_
    | (obtain ⟨⟩ := ‹Keeps base _›.canon; with_reducible assumption)

/-! Studbook. -/

theorem studbookRepair_keeps {base s : State} (hk : Keeps base s)  : Keeps base (studbookRepair s) := by
  unfold studbookRepair
  repeat' first
    | with_reducible assumption
    | with_reducible apply journal_keeps
    | with_reducible apply record_keeps
    | intro _
    | dsimp only
    | with_reducible refine Keeps.upd ?_ ?_ ?_ ?_ ?_ ?_ ?_ ?_ ?_ ?_ ?_ ?_
    | (obtain ⟨⟩ := ‹Keeps base _›.canon; with_reducible assumption)

theorem raiseArb_keeps {base s : State} (hk : Keeps base s) (kind : Nat) (level : Nat) : Keeps base (raiseArb s kind level) := by
  unfold raiseArb
  repeat' first
    | with_reducible assumption
    | with_reducible apply journal_keeps
    | with_reducible apply Keeps.ite
    | intro _
    | dsimp only
    | split

theorem blowArb_keeps {base s : State} (hk : Keeps base s) : Keeps base (blowArb s) := Keeps.blow hk

theorem svcWrite_keeps {base s : State} (hk : Keeps base s) (box : Nat) (a : Nat) (bs : List Byte) : Keeps base (svcWrite s box a bs) := by
  unfold svcWrite
  repeat' first
    | with_reducible assumption
    | with_reducible apply Keeps.ite
    | intro _
    | dsimp only
    | split
    | with_reducible refine Keeps.upd ?_ ?_ ?_ ?_ ?_ ?_ ?_ ?_ ?_ ?_ ?_ ?_
    | (obtain ⟨⟩ := ‹Keeps base _›.canon; repeat' (first | with_reducible assumption | with_reducible apply Memory.wf_writeBytes))

theorem svcAnswer_keeps {base s : State} (hk : Keeps base s) (box : Nat) (ptr : Nat) (typ : Nat) (ok : Bool) : Keeps base (svcAnswer s box ptr typ ok) := by
  unfold svcAnswer
  unfold takeFresh
  repeat' first
    | with_reducible assumption
    | with_reducible apply groomPost_keeps
    | with_reducible apply Keeps.ite
    | intro _
    | dsimp only
    | split
    | with_reducible refine Keeps.upd ?_ ?_ ?_ ?_ ?_ ?_ ?_ ?_ ?_ ?_ ?_ ?_
    | (obtain ⟨⟩ := ‹Keeps base _›.canon; with_reducible assumption)

theorem serve_keeps {base s : State} (hk : Keeps base s) (box typ : Nat) {f : Nat → State → State}
    (hf : ∀ p t, Keeps base t → Keeps base (f p t)) : Keeps base (serve s box typ f) := by
  unfold serve
  split
  · exact hk
  · exact Keeps.ite hk (hf _ _ (popBox_keeps hk _))

theorem owe_keeps {base s : State} (hk : Keeps base s) (box : Nat) (ptr : Nat) (typ : Nat) (kind : Nat) (body : List Nat) : Keeps base (owe s box ptr typ kind body) := by
  unfold owe
  repeat' first
    | with_reducible assumption
    | with_reducible apply journal_keeps
    | intro _
    | dsimp only
    | with_reducible refine Keeps.upd ?_ ?_ ?_ ?_ ?_ ?_ ?_ ?_ ?_ ?_ ?_ ?_
    | (obtain ⟨⟩ := ‹Keeps base _›.canon; with_reducible assumption)

theorem commitRecord_keeps {base s : State} (hk : Keeps base s) (r : SbRec) (rest : List SbRec) : Keeps base (commitRecord s r rest) := by
  unfold commitRecord
  repeat' first
    | with_reducible assumption
    | with_reducible apply Keeps.ite
    | intro _
    | dsimp only
    | split
    | with_reducible refine Keeps.upd ?_ ?_ ?_ ?_ ?_ ?_ ?_ ?_ ?_ ?_ ?_ ?_
    | (obtain ⟨⟩ := ‹Keeps base _›.canon; with_reducible assumption)

theorem afterCommit_keeps {base s : State} (hk : Keeps base s) (r : SbRec) : Keeps base (afterCommit s r) := by
  unfold afterCommit
  repeat' first
    | with_reducible assumption
    | with_reducible apply raiseArb_keeps
    | with_reducible apply svcAnswer_keeps
    | with_reducible apply Keeps.ite
    | intro _
    | dsimp only
    | split
    | with_reducible refine Keeps.upd ?_ ?_ ?_ ?_ ?_ ?_ ?_ ?_ ?_ ?_ ?_ ?_
    | (obtain ⟨⟩ := ‹Keeps base _›.canon; with_reducible assumption)

theorem commitNext_keeps {base s : State} (hk : Keeps base s)  : Keeps base (commitNext s) := by
  unfold commitNext
  repeat' first
    | with_reducible assumption
    | with_reducible apply commitRecord_keeps
    | with_reducible apply afterCommit_keeps
    | intro _
    | dsimp only
    | split
    | with_reducible refine Keeps.upd ?_ ?_ ?_ ?_ ?_ ?_ ?_ ?_ ?_ ?_ ?_ ?_
    | (obtain ⟨⟩ := ‹Keeps base _›.canon; with_reducible assumption)

theorem commitAll_keeps {base s : State} (hk : Keeps base s)  : Keeps base (commitAll s) := by
  unfold commitAll
  repeat' first
    | with_reducible assumption
    | with_reducible apply commitNext_keeps
    | with_reducible refine Keeps.foldl ?_ (fun _ _ _ => ?_)
    | intro _
    | dsimp only

theorem execStudbookCommit_keeps {base s : State} (hk : Keeps base s) (r : CommitResult) : OutKeeps base (execStudbookCommit r s) := by
  unfold execStudbookCommit
  repeat' first
    | with_reducible assumption
    | with_reducible apply studbookRepair_keeps
    | with_reducible apply commitNext_keeps
    | with_reducible apply Keeps.ite
    | with_reducible apply OutKeeps.next
    | intro _
    | dsimp only
    | split
    | with_reducible refine Keeps.upd ?_ ?_ ?_ ?_ ?_ ?_ ?_ ?_ ?_ ?_ ?_ ?_
    | (obtain ⟨⟩ := ‹Keeps base _›.canon; with_reducible assumption)

theorem execLifeUpdate_keeps {base s : State} (hk : Keeps base s) (hours : Nat) (hourly : Bool) : OutKeeps base (execLifeUpdate hours hourly s) := by
  unfold execLifeUpdate
  repeat' first
    | with_reducible assumption
    | with_reducible apply journal_keeps
    | with_reducible apply Keeps.ite
    | with_reducible apply OutKeeps.next
    | intro _
    | dsimp only
    | split
    | with_reducible refine Keeps.upd ?_ ?_ ?_ ?_ ?_ ?_ ?_ ?_ ?_ ?_ ?_ ?_
    | (obtain ⟨⟩ := ‹Keeps base _›.canon; with_reducible assumption)

theorem execAttest_keeps {base s : State} (hk : Keeps base s) (internal : Bool) : OutKeeps base (execAttest internal s) := by
  unfold execAttest
  repeat' first
    | with_reducible assumption
    | with_reducible apply svcWrite_keeps
    | with_reducible apply svcAnswer_keeps
    | with_reducible apply serve_keeps
    | with_reducible apply Keeps.ite
    | with_reducible apply OutKeeps.next
    | intro _
    | dsimp only
    | split

theorem execKeyreg_keeps {base s : State} (hk : Keeps base s) (sigOk : Bool) : OutKeeps base (execKeyreg sigOk s) := by
  unfold execKeyreg
  repeat' first
    | with_reducible assumption
    | with_reducible apply svcAnswer_keeps
    | with_reducible apply serve_keeps
    | with_reducible apply owe_keeps
    | with_reducible apply Keeps.ite
    | with_reducible apply OutKeeps.next
    | intro _
    | dsimp only
    | split

theorem execSbread_keeps {base s : State} (hk : Keeps base s) (internal : Bool) : OutKeeps base (execSbread internal s) := by
  unfold execSbread
  repeat' first
    | with_reducible assumption
    | with_reducible apply svcWrite_keeps
    | with_reducible apply svcAnswer_keeps
    | with_reducible apply serve_keeps
    | with_reducible apply Keeps.ite
    | with_reducible apply OutKeeps.next
    | intro _
    | dsimp only
    | split

theorem suspectOne_keeps {base s : State} (hk : Keeps base s) (u : FailUnit) : Keeps base (suspectOne s u) := by
  unfold suspectOne
  repeat' first
    | with_reducible assumption
    | with_reducible apply journalProb_keeps
    | with_reducible apply probationFail_keeps
    | with_reducible apply Keeps.ite
    | intro _
    | dsimp only
    | split

theorem execSuspect_keeps {base s : State} (hk : Keeps base s) : OutKeeps base (execSuspect s) := by
  unfold execSuspect
  refine OutKeeps.next (serve_keeps hk _ _ fun p t ht => ?_)
  dsimp only
  refine Keeps.ite (svcAnswer_keeps ht _ _ _ _) (Keeps.ite (svcAnswer_keeps ht _ _ _ _) ?_)
  have h1 : Keeps base ((((List.range (Memory.readLe t.hmem p 4)).map
      (fun i => suspectUnit (Memory.readLe t.hmem (p + 4 + 4 * i) 4))).filterMap id).foldl suspectOne t) :=
    Keeps.foldl ht (fun _ _ h => suspectOne_keeps h _)
  refine Keeps.ite (svcAnswer_keeps h1 _ _ _ _) ?_
  split
  · with_reducible refine Keeps.upd h1 ?_ ?_ ?_ ?_ ?_ ?_ ?_ ?_ ?_ ?_ ?_
    all_goals (intro h; obtain ⟨⟩ := h.canon; with_reducible assumption)
  · exact h1

theorem execLungeset_keeps {base s : State} (hk : Keeps base s) (img : ImageCheck) : OutKeeps base (execLungeset img s) := by
  unfold execLungeset
  repeat' first
    | with_reducible assumption
    | with_reducible apply svcAnswer_keeps
    | with_reducible apply serve_keeps
    | with_reducible apply owe_keeps
    | with_reducible apply Keeps.ite
    | with_reducible apply OutKeeps.next
    | intro _
    | dsimp only
    | split

theorem execOperatorImageLoad_keeps {base s : State} (hk : Keeps base s) (img : ImageCheck) : OutKeeps base (execOperatorImageLoad img s) := by
  unfold execOperatorImageLoad
  repeat' first
    | with_reducible assumption
    | with_reducible apply raiseArb_keeps
    | with_reducible apply Keeps.ite
    | with_reducible apply OutKeeps.next
    | intro _
    | dsimp only
    | split
    | with_reducible refine Keeps.upd ?_ ?_ ?_ ?_ ?_ ?_ ?_ ?_ ?_ ?_ ?_ ?_
    | (obtain ⟨⟩ := ‹Keeps base _›.canon; with_reducible assumption)

/-! Bringup. -/

theorem State.cold_keeps {base s : State} (hk : Keeps base s) : Keeps base (State.cold s) := by
  unfold State.cold
  with_reducible refine Keeps.upd hk ?_ ?_ ?_ ?_ ?_ ?_ ?_ ?_ ?_ ?_ ?_
  all_goals first | (intro h; obtain ⟨⟩ := h.canon; with_reducible assumption) | (intro _; rfl)

theorem finishWarm_keeps {base s : State} (hk : Keeps base s) : Keeps base (finishWarm s) := by
  unfold finishWarm
  with_reducible refine Keeps.upd ?_ ?_ ?_ ?_ ?_ ?_ ?_ ?_ ?_ ?_ ?_ ?_
  · with_reducible refine Keeps.upd ?_ ?_ ?_ ?_ ?_ ?_ ?_ ?_ ?_ ?_ ?_ ?_
    · with_reducible refine Keeps.upd hk (fun h => ?_) ?_ ?_ ?_ ?_ ?_ ?_ ?_ ?_ ?_ ?_
      · unfold SecBlock.warm; dsimp only; exact gwf_gconst _
      all_goals (intro h; obtain ⟨⟩ := h.canon; first | with_reducible assumption | (with_reducible apply gwf_gmapAll; with_reducible assumption))
    all_goals (intro h; obtain ⟨⟩ := h.canon; first | with_reducible assumption | (with_reducible apply gwf_gmodKeys; with_reducible assumption) | (with_reducible apply gwf_gmapAll; with_reducible assumption) | with_reducible exact gwf_gconst _)
  all_goals (intro h; obtain ⟨⟩ := h.canon; with_reducible assumption)

theorem warmReset_keeps {base s : State} (hk : Keeps base s)  : Keeps base (warmReset s) := by
  unfold warmReset
  repeat' first
    | with_reducible assumption
    | with_reducible apply abortNow_keeps
    | with_reducible apply finishWarm_keeps
    | with_reducible apply Keeps.ite
    | intro _
    | dsimp only
    | split
    | with_reducible refine Keeps.upd ?_ ?_ ?_ ?_ ?_ ?_ ?_ ?_ ?_ ?_ ?_ ?_
    | (obtain ⟨⟩ := ‹Keeps base _›.canon; with_reducible assumption)

theorem execAbortedReached_keeps {base s : State} (hk : Keeps base s)  : OutKeeps base (execAbortedReached s) := by
  unfold execAbortedReached
  repeat' first
    | with_reducible assumption
    | with_reducible apply finishWarm_keeps
    | with_reducible apply abortedReached_keeps
    | with_reducible apply Keeps.ite
    | with_reducible apply OutKeeps.next
    | intro _
    | dsimp only
    | split

theorem writeReset_keeps {base s : State} (hk : Keeps base s) (data : Nat) : Keeps base (writeReset data s) := by
  unfold writeReset
  repeat' first
    | with_reducible assumption
    | with_reducible apply State.cold_keeps
    | with_reducible apply warmReset_keeps
    | with_reducible apply Keeps.ite
    | intro _
    | dsimp only
    | split
    | with_reducible refine Keeps.upd ?_ ?_ ?_ ?_ ?_ ?_ ?_ ?_ ?_ ?_ ?_ ?_
    | (obtain ⟨⟩ := ‹Keeps base _›.canon; with_reducible assumption)

theorem execCold_keeps {base s : State} (hk : Keeps base s) (o : Origin) : OutKeeps base (execCold o s) := by
  unfold execCold
  repeat' first
    | with_reducible assumption
    | with_reducible apply writeReset_keeps
    | with_reducible apply asAuth_keeps
    | with_reducible apply OutKeeps.next
    | intro _
    | dsimp only

theorem execWarm_keeps {base s : State} (hk : Keeps base s) (o : Origin) : OutKeeps base (execWarm o s) := by
  unfold execWarm
  repeat' first
    | with_reducible assumption
    | with_reducible apply writeReset_keeps
    | with_reducible apply asAuth_keeps
    | with_reducible apply OutKeeps.next
    | intro _
    | dsimp only

theorem execResetPin_keeps {base s : State} (hk : Keeps base s) (low : LowTime) : OutKeeps base (execResetPin low s) := by
  unfold execResetPin
  unfold takeFresh
  repeat' first
    | with_reducible assumption
    | with_reducible apply State.cold_keeps
    | with_reducible apply Keeps.ite
    | with_reducible apply OutKeeps.next
    | intro _
    | dsimp only
    | split
    | with_reducible refine Keeps.upd ?_ ?_ ?_ ?_ ?_ ?_ ?_ ?_ ?_ ?_ ?_ ?_
    | (obtain ⟨⟩ := ‹Keeps base _›.canon; with_reducible assumption)

theorem fuseConflict_keeps {base s : State} (hk : Keeps base s)  : Keeps base (fuseConflict s) := by
  unfold fuseConflict
  repeat' first
    | with_reducible assumption
    | with_reducible apply journal_keeps
    | with_reducible apply record_keeps
    | intro _
    | dsimp only

theorem readVariant_keeps {base s : State} (hk : Keeps base s)  : Keeps base (readVariant s) := by
  unfold readVariant
  repeat' first
    | with_reducible assumption
    | with_reducible apply fuseConflict_keeps
    | with_reducible apply Keeps.ite
    | intro _
    | dsimp only
    | split
    | with_reducible refine Keeps.upd ?_ ?_ ?_ ?_ ?_ ?_ ?_ ?_ ?_ ?_ ?_ ?_
    | (obtain ⟨⟩ := ‹Keeps base _›.canon; with_reducible assumption)

theorem recoverStudbook_keeps {base s : State} (hk : Keeps base s) (g : GroomInputs) : Keeps base (recoverStudbook g s) := by
  unfold recoverStudbook
  unfold takeFresh
  repeat' first
    | with_reducible assumption
    | with_reducible apply studbookRepair_keeps
    | with_reducible apply Keeps.ite
    | intro _
    | dsimp only
    | split
    | with_reducible refine Keeps.upd ?_ ?_ ?_ ?_ ?_ ?_ ?_ ?_ ?_ ?_ ?_ ?_
    | (obtain ⟨⟩ := ‹Keeps base _›.canon; with_reducible assumption)

theorem startFirmware_keeps {base s : State} (hk : Keeps base s) (g : GroomInputs) : Keeps base (startFirmware g s) := by
  unfold startFirmware
  repeat' first
    | with_reducible assumption
    | with_reducible apply recoverStudbook_keeps
    | with_reducible apply raiseArb_keeps
    | with_reducible apply blowArb_keeps
    | with_reducible apply Keeps.ite
    | intro _
    | dsimp only
    | split
    | with_reducible refine Keeps.upd ?_ ?_ ?_ ?_ ?_ ?_ ?_ ?_ ?_ ?_ ?_ ?_
    | (obtain ⟨⟩ := ‹Keeps base _›.canon; with_reducible assumption)

theorem execGroomStart_keeps {base s : State} (hk : Keeps base s) (g : GroomInputs) : OutKeeps base (execGroomStart g s) := by
  unfold execGroomStart
  repeat' first
    | with_reducible assumption
    | with_reducible apply readVariant_keeps
    | with_reducible apply startFirmware_keeps
    | with_reducible apply blowArb_keeps
    | with_reducible apply Keeps.ite
    | with_reducible apply OutKeeps.next
    | intro _
    | dsimp only
    | split
    | with_reducible refine Keeps.upd ?_ ?_ ?_ ?_ ?_ ?_ ?_ ?_ ?_ ?_ ?_ ?_
    | (obtain ⟨⟩ := ‹Keeps base _›.canon; with_reducible assumption)

theorem execFirmwareRecoveryImage_keeps {base s : State} (hk : Keeps base s) (last : Bool) (img : Option ImageCheck) : OutKeeps base (execFirmwareRecoveryImage last img s) := by
  unfold execFirmwareRecoveryImage
  repeat' first
    | with_reducible assumption
    | with_reducible apply popBox_keeps
    | with_reducible apply Keeps.ite
    | with_reducible apply OutKeeps.next
    | intro _
    | dsimp only
    | split
    | with_reducible refine Keeps.upd ?_ ?_ ?_ ?_ ?_ ?_ ?_ ?_ ?_ ?_ ?_ ?_
    | (obtain ⟨⟩ := ‹Keeps base _›.canon; with_reducible assumption)

theorem writeLock_keeps {base s : State} (hk : Keeps base s) (data : Nat) : Keeps base (writeLock data s) := by
  unfold writeLock
  repeat' first
    | with_reducible assumption
    | intro _
    | dsimp only
    | with_reducible refine Keeps.upd ?_ ?_ ?_ ?_ ?_ ?_ ?_ ?_ ?_ ?_ ?_ ?_
    | (obtain ⟨⟩ := ‹Keeps base _›.canon; with_reducible assumption)

theorem execGroomLock_keeps {base s : State} (hk : Keeps base s) (o : Origin) (data : Word64) : OutKeeps base (execGroomLock o data s) := by
  unfold execGroomLock
  repeat' first
    | with_reducible assumption
    | with_reducible apply writeLock_keeps
    | with_reducible apply asAuth_keeps
    | with_reducible apply OutKeeps.next
    | intro _
    | dsimp only

theorem testFail_keeps {base s : State} (hk : Keeps base s) (u : FailUnit) : Keeps base (testFail s u) := by
  unfold testFail
  repeat' first
    | with_reducible assumption
    | with_reducible apply journal_keeps
    | with_reducible apply journalProb_keeps
    | with_reducible apply Keeps.ite
    | intro _
    | dsimp only
    | split
    | with_reducible refine Keeps.upd ?_ ?_ ?_ ?_ ?_ ?_ ?_ ?_ ?_ ?_ ?_ ?_
    | (obtain ⟨⟩ := ‹Keeps base _›.canon; with_reducible assumption)

theorem finishBist_keeps {base s : State} (hk : Keeps base s) (r : StepResult) : Keeps base (finishBist s r) := by
  unfold finishBist
  repeat' first
    | with_reducible assumption
    | with_reducible apply fuseConflict_keeps
    | with_reducible apply testFail_keeps
    | with_reducible apply measureAging_keeps
    | with_reducible apply commitAll_keeps
    | with_reducible refine Keeps.foldl ?_ (fun _ _ _ => ?_)
    | intro _
    | dsimp only
    | with_reducible refine Keeps.upd ?_ ?_ ?_ ?_ ?_ ?_ ?_ ?_ ?_ ?_ ?_ ?_
    | (obtain ⟨⟩ := ‹Keeps base _›.canon; with_reducible assumption)

theorem buildRemap_keeps {base s : State} (hk : Keeps base s) : Keeps base (buildRemap s) := by
  unfold buildRemap
  extract_lets g s1 s2
  have h1 : Keeps base s1 := by
    with_reducible refine Keeps.upd hk ?_ ?_ ?_ ?_ ?_ (fun h => gwf_gmodKeys h.canon.yards _ _) ?_ (fun _ => gwf_buildSheds hk.canon.psheds) ?_ ?_ ?_
    all_goals (intro h; obtain ⟨⟩ := h.canon; with_reducible assumption)
  have h2 : Keeps base s2 := by
    with_reducible refine Keeps.upd h1 ?_ ?_ ?_ ?_ ?_ ?_ (fun h => gwf_gmodKeys h.canon.sheds _ _) ?_ ?_ ?_ ?_
    all_goals (intro h; obtain ⟨⟩ := h.canon; with_reducible assumption)
  with_reducible refine Keeps.upd h2 ?_ ?_ ?_ ?_ ?_ ?_ ?_ (fun h => gwf_gmodKeys h.canon.psheds _ _) ?_ ?_ ?_
  all_goals (intro h; obtain ⟨⟩ := h.canon; with_reducible assumption)

theorem buildRoutes_keeps {base s : State} (hk : Keeps base s)  : Keeps base (buildRoutes s) := by
  unfold buildRoutes
  repeat' first
    | with_reducible assumption
    | intro _
    | dsimp only
    | with_reducible refine Keeps.upd ?_ ?_ ?_ ?_ ?_ ?_ ?_ ?_ ?_ ?_ ?_ ?_
    | (obtain ⟨⟩ := ‹Keeps base _›.canon; repeat' (first | with_reducible assumption | with_reducible apply gwf_gconst))

theorem finishLoft_keeps {base s : State} (hk : Keeps base s) (r : StepResult) : Keeps base (finishLoft s r) := by
  unfold finishLoft
  repeat' first
    | with_reducible assumption
    | with_reducible apply testFail_keeps
    | with_reducible apply buildRemap_keeps
    | with_reducible apply commitAll_keeps
    | with_reducible apply Keeps.ite
    | with_reducible refine Keeps.foldl ?_ (fun _ _ _ => ?_)
    | intro _
    | dsimp only
    | split
    | with_reducible refine Keeps.upd ?_ ?_ ?_ ?_ ?_ ?_ ?_ ?_ ?_ ?_ ?_ ?_
    | (obtain ⟨⟩ := ‹Keeps base _›.canon; repeat' (first | with_reducible assumption | with_reducible apply gwf_gmapAll | with_reducible apply gwf_gconst))

theorem trainOthers_keeps {base s : State} (hk : Keeps base s)  : Keeps base (trainOthers s) := by
  unfold trainOthers
  repeat' first
    | with_reducible assumption
    | with_reducible apply Keeps.ite
    | intro _
    | dsimp only
    | split
    | with_reducible refine Keeps.upd ?_ ?_ ?_ ?_ ?_ ?_ ?_ ?_ ?_ ?_ ?_ ?_
    | (obtain ⟨⟩ := ‹Keeps base _›.canon; repeat' (first | with_reducible assumption | with_reducible apply gwf_gmodKeys))

theorem beginStep_keeps {base s : State} (hk : Keeps base s) (k : Nat) : Keeps base (beginStep s k) := by
  unfold beginStep
  repeat' first
    | with_reducible assumption
    | with_reducible apply trainOthers_keeps
    | with_reducible apply modPort_keeps
    | with_reducible apply Keeps.ite
    | intro _
    | dsimp only
    | split
    | with_reducible refine Keeps.upd ?_ ?_ ?_ ?_ ?_ ?_ ?_ ?_ ?_ ?_ ?_ ?_
    | (obtain ⟨⟩ := ‹Keeps base _›.canon; with_reducible assumption)

theorem doneStep_keeps {base s : State} (hk : Keeps base s) (k : Nat) : Keeps base (doneStep s k) := by
  unfold doneStep
  repeat' first
    | with_reducible assumption
    | with_reducible apply beginStep_keeps
    | with_reducible apply Keeps.ite
    | intro _
    | dsimp only
    | split
    | with_reducible refine Keeps.upd ?_ ?_ ?_ ?_ ?_ ?_ ?_ ?_ ?_ ?_ ?_ ?_
    | (obtain ⟨⟩ := ‹Keeps base _›.canon; with_reducible assumption)

theorem failStep_keeps {base s : State} (hk : Keeps base s) (err : Nat) : Keeps base (failStep s err) := by
  unfold failStep
  repeat' first
    | with_reducible assumption
    | intro _
    | dsimp only
    | with_reducible refine Keeps.upd ?_ ?_ ?_ ?_ ?_ ?_ ?_ ?_ ?_ ?_ ?_ ?_
    | (obtain ⟨⟩ := ‹Keeps base _›.canon; with_reducible assumption)

theorem writeBootctl_keeps {base s : State} (hk : Keeps base s) (data : Nat) : Keeps base (writeBootctl data s) := by
  unfold writeBootctl
  repeat' first
    | with_reducible assumption
    | with_reducible apply beginStep_keeps
    | with_reducible apply step_keeps
    | with_reducible apply Keeps.ite
    | intro _
    | dsimp only
    | split
    | with_reducible refine Keeps.upd ?_ ?_ ?_ ?_ ?_ ?_ ?_ ?_ ?_ ?_ ?_ ?_
    | (obtain ⟨⟩ := ‹Keeps base _›.canon; with_reducible assumption)

theorem stepCommand_keeps {base s : State} (hk : Keeps base s) (o : Origin) (k : Nat) (auto : Bool) (hsrc : Bool) : OutKeeps base (stepCommand o k auto hsrc s) := by
  unfold stepCommand
  repeat' first
    | with_reducible assumption
    | with_reducible apply writeBootctl_keeps
    | with_reducible apply asAuth_keeps
    | with_reducible apply OutKeeps.next
    | intro _
    | dsimp only

theorem execTrack_keeps {base s : State} (hk : Keeps base s) (o : Origin) (auto : Bool) (hsrc : Bool) : OutKeeps base (execTrack o auto hsrc s) := by
  unfold execTrack
  repeat' first
    | with_reducible assumption
    | with_reducible apply stepCommand_keeps
    | with_reducible apply OutKeeps.next
    | intro _
    | dsimp only

theorem execCore_keeps {base s : State} (hk : Keeps base s) (o : Origin) (auto : Bool) (hsrc : Bool) : OutKeeps base (execCore o auto hsrc s) := by
  unfold execCore
  repeat' first
    | with_reducible assumption
    | with_reducible apply stepCommand_keeps
    | with_reducible apply OutKeeps.next
    | intro _
    | dsimp only

theorem execClocks_keeps {base s : State} (hk : Keeps base s) (o : Origin) (auto : Bool) (hsrc : Bool) : OutKeeps base (execClocks o auto hsrc s) := by
  unfold execClocks
  repeat' first
    | with_reducible assumption
    | with_reducible apply stepCommand_keeps
    | with_reducible apply OutKeeps.next
    | intro _
    | dsimp only

theorem execBist_keeps {base s : State} (hk : Keeps base s) (o : Origin) (auto : Bool) (hsrc : Bool) : OutKeeps base (execBist o auto hsrc s) := by
  unfold execBist
  repeat' first
    | with_reducible assumption
    | with_reducible apply stepCommand_keeps
    | with_reducible apply OutKeeps.next
    | intro _
    | dsimp only

theorem execRemap_keeps {base s : State} (hk : Keeps base s) (o : Origin) (auto : Bool) (hsrc : Bool) : OutKeeps base (execRemap o auto hsrc s) := by
  unfold execRemap
  repeat' first
    | with_reducible assumption
    | with_reducible apply stepCommand_keeps
    | with_reducible apply OutKeeps.next
    | intro _
    | dsimp only

theorem execLoft_keeps {base s : State} (hk : Keeps base s) (o : Origin) (auto : Bool) (hsrc : Bool) : OutKeeps base (execLoft o auto hsrc s) := by
  unfold execLoft
  repeat' first
    | with_reducible assumption
    | with_reducible apply stepCommand_keeps
    | with_reducible apply OutKeeps.next
    | intro _
    | dsimp only

theorem execPorts_keeps {base s : State} (hk : Keeps base s) (o : Origin) (auto : Bool) (hsrc : Bool) : OutKeeps base (execPorts o auto hsrc s) := by
  unfold execPorts
  repeat' first
    | with_reducible assumption
    | with_reducible apply stepCommand_keeps
    | with_reducible apply OutKeeps.next
    | intro _
    | dsimp only

theorem execHostler_keeps {base s : State} (hk : Keeps base s) (o : Origin) (auto : Bool) (hsrc : Bool) : OutKeeps base (execHostler o auto hsrc s) := by
  unfold execHostler
  repeat' first
    | with_reducible assumption
    | with_reducible apply stepCommand_keeps
    | with_reducible apply OutKeeps.next
    | intro _
    | dsimp only

theorem execReady_keeps {base s : State} (hk : Keeps base s) (o : Origin) (auto : Bool) (hsrc : Bool) : OutKeeps base (execReady o auto hsrc s) := by
  unfold execReady
  repeat' first
    | with_reducible assumption
    | with_reducible apply stepCommand_keeps
    | with_reducible apply OutKeeps.next
    | intro _
    | dsimp only

theorem finishTrack_keeps {base s : State} (hk : Keeps base s) (trips : List YardId) : Keeps base (finishTrack s trips) := by
  unfold finishTrack
  repeat' first
    | with_reducible assumption
    | with_reducible apply trackTrip_keeps
    | with_reducible refine Keeps.foldl ?_ (fun _ _ _ => ?_)
    | intro _
    | dsimp only
    | with_reducible refine Keeps.upd ?_ ?_ ?_ ?_ ?_ ?_ ?_ ?_ ?_ ?_ ?_ ?_
    | (obtain ⟨⟩ := ‹Keeps base _›.canon; repeat' (first | with_reducible assumption | with_reducible apply gwf_gmodKeys))

theorem finishCore_keeps {base s : State} (hk : Keeps base s) (trips : List YardId) : Keeps base (finishCore s trips) := by
  unfold finishCore
  repeat' first
    | with_reducible assumption
    | with_reducible apply coreTrip_keeps
    | with_reducible apply Keeps.ite
    | with_reducible refine Keeps.foldl ?_ (fun _ _ _ => ?_)
    | intro _
    | dsimp only
    | split
    | with_reducible refine Keeps.upd ?_ ?_ ?_ ?_ ?_ ?_ ?_ ?_ ?_ ?_ ?_ ?_
    | (obtain ⟨⟩ := ‹Keeps base _›.canon; repeat' (first | with_reducible assumption | with_reducible apply gwf_gmodKeys))

theorem finishClocks_keeps {base s : State} (hk : Keeps base s)  : Keeps base (finishClocks s) := by
  unfold finishClocks
  repeat' first
    | with_reducible assumption
    | with_reducible apply Keeps.ite
    | intro _
    | dsimp only
    | split
    | with_reducible refine Keeps.upd ?_ ?_ ?_ ?_ ?_ ?_ ?_ ?_ ?_ ?_ ?_ ?_
    | (obtain ⟨⟩ := ‹Keeps base _›.canon; repeat' (first | with_reducible assumption | with_reducible apply gwf_gmodKeys))

theorem laneChars_keeps {base s : State} (hk : Keeps base s)  : Keeps base (laneChars s) := by
  unfold laneChars
  repeat' first
    | with_reducible assumption
    | with_reducible apply journal_keeps
    | with_reducible apply Keeps.ite
    | with_reducible refine Keeps.foldl ?_ (fun _ _ _ => ?_)
    | intro _
    | dsimp only
    | split

theorem finishPorts_keeps {base s : State} (hk : Keeps base s) (timedOut : Bool) : Keeps base (finishPorts s timedOut) := by
  unfold finishPorts
  repeat' first
    | with_reducible assumption
    | with_reducible apply trainOthers_keeps
    | with_reducible apply doneStep_keeps
    | with_reducible apply failStep_keeps
    | with_reducible apply laneChars_keeps
    | with_reducible apply Keeps.ite
    | intro _
    | dsimp only
    | split
    | with_reducible refine Keeps.upd ?_ ?_ ?_ ?_ ?_ ?_ ?_ ?_ ?_ ?_ ?_ ?_
    | (obtain ⟨⟩ := ‹Keeps base _›.canon; with_reducible assumption)

theorem loadHostler_keeps {base s : State} (hk : Keeps base s)  : Keeps base (loadHostler s) := by
  unfold loadHostler
  repeat' first
    | with_reducible assumption
    | with_reducible apply Keeps.ite
    | intro _
    | dsimp only
    | split
    | with_reducible refine Keeps.upd ?_ ?_ ?_ ?_ ?_ ?_ ?_ ?_ ?_ ?_ ?_ ?_
    | (obtain ⟨⟩ := ‹Keeps base _›.canon; repeat' (first | with_reducible assumption | with_reducible apply Memory.wf_putWindow | with_reducible apply Memory.wf_window))

theorem finishHostler_keeps {base s : State} (hk : Keeps base s) (image : Option ImageCheck) (timedOut : Bool) : Keeps base (finishHostler s image timedOut) := by
  unfold finishHostler
  repeat' first
    | with_reducible assumption
    | with_reducible apply doneStep_keeps
    | with_reducible apply failStep_keeps
    | with_reducible apply loadHostler_keeps
    | with_reducible apply Keeps.ite
    | intro _
    | dsimp only
    | split
    | with_reducible refine Keeps.upd ?_ ?_ ?_ ?_ ?_ ?_ ?_ ?_ ?_ ?_ ?_ ?_
    | (obtain ⟨⟩ := ‹Keeps base _›.canon; repeat' (first | with_reducible assumption | with_reducible apply gwf_gmodKeys))

theorem finishReady_keeps {base s : State} (hk : Keeps base s) (ms : Nat) : Keeps base (finishReady s ms) := by
  unfold finishReady
  repeat' first
    | with_reducible assumption
    | with_reducible apply doneStep_keeps
    | with_reducible apply Keeps.ite
    | intro _
    | dsimp only
    | split
    | with_reducible refine Keeps.upd ?_ ?_ ?_ ?_ ?_ ?_ ?_ ?_ ?_ ?_ ?_ ?_
    | (obtain ⟨⟩ := ‹Keeps base _›.canon; with_reducible assumption)

theorem execBootStepComplete_keeps {base s : State} (hk : Keeps base s) (r : StepResult) : OutKeeps base (execBootStepComplete r s) := by
  unfold execBootStepComplete
  repeat' first
    | with_reducible assumption
    | with_reducible apply finishBist_keeps
    | with_reducible apply buildRemap_keeps
    | with_reducible apply buildRoutes_keeps
    | with_reducible apply finishLoft_keeps
    | with_reducible apply doneStep_keeps
    | with_reducible apply finishTrack_keeps
    | with_reducible apply finishCore_keeps
    | with_reducible apply finishClocks_keeps
    | with_reducible apply finishPorts_keeps
    | with_reducible apply finishHostler_keeps
    | with_reducible apply finishReady_keeps
    | with_reducible apply Keeps.ite
    | with_reducible apply OutKeeps.next
    | intro _
    | dsimp only
    | split
    | with_reducible refine Keeps.upd ?_ ?_ ?_ ?_ ?_ ?_ ?_ ?_ ?_ ?_ ?_ ?_
    | (obtain ⟨⟩ := ‹Keeps base _›.canon; with_reducible assumption)

end Sys2Proof.Machine
end

