-- ==== Sys2Proof/Laws/KeepsAccess.lean ====
section
/-! SUPPORT. What register and window accesses, I3C and JTAG keep (Safety, `Keeps`). -/

set_option Elab.async false
set_option linter.all false

namespace Sys2Proof.Machine

/-! Access. -/

theorem devWrite_keeps {base s : State} (hk : Keeps base s) (off : Nat) (data : Nat) : Keeps base (devWrite off data s) := by
  unfold devWrite
  repeat' first
    | with_reducible assumption
    | with_reducible apply writeReset_keeps
    | with_reducible apply writeBootctl_keeps
    | with_reducible apply Keeps.ite
    | intro _
    | dsimp only
    | split
    | with_reducible refine Keeps.upd ?_ ?_ ?_ ?_ ?_ ?_ ?_ ?_ ?_ ?_ ?_ ?_
    | (obtain ⟨⟩ := ‹Keeps base _›.canon; with_reducible assumption)

theorem grmWrite_keeps {base s : State} (hk : Keeps base s) (off : Nat) (data : Nat) : Keeps base (grmWrite off data s) := by
  unfold grmWrite
  repeat' first
    | with_reducible assumption
    | with_reducible apply writeLock_keeps
    | with_reducible apply Keeps.ite
    | intro _
    | dsimp only
    | split
    | with_reducible refine Keeps.upd ?_ ?_ ?_ ?_ ?_ ?_ ?_ ?_ ?_ ?_ ?_ ?_
    | (obtain ⟨⟩ := ‹Keeps base _›.canon; with_reducible assumption)

theorem pwrWrite_keeps {base s : State} (hk : Keeps base s) (off : Nat) (data : Nat) : Keeps base (pwrWrite off data s) := by
  unfold pwrWrite
  repeat' first
    | with_reducible assumption
    | with_reducible apply writeCap_keeps
    | with_reducible apply writeNextev_keeps
    | with_reducible apply writeStagger_keeps
    | with_reducible apply writeLshed_keeps
    | intro _
    | dsimp only
    | split
    | with_reducible refine Keeps.upd ?_ ?_ ?_ ?_ ?_ ?_ ?_ ?_ ?_ ?_ ?_ ?_
    | (obtain ⟨⟩ := ‹Keeps base _›.canon; with_reducible assumption)

theorem thmWrite_keeps {base s : State} (hk : Keeps base s) (off : Nat) (data : Nat) : Keeps base (thmWrite off data s) := by
  unfold thmWrite
  repeat' first
    | with_reducible assumption
    | with_reducible apply writeThmClk_keeps
    | with_reducible apply writeThmCfg_keeps
    | intro _
    | dsimp only
    | split
    | with_reducible refine Keeps.upd ?_ ?_ ?_ ?_ ?_ ?_ ?_ ?_ ?_ ?_ ?_ ?_
    | (obtain ⟨⟩ := ‹Keeps base _›.canon; with_reducible assumption)

theorem errWrite_keeps {base s : State} (hk : Keeps base s) (off : Nat) (data : Nat) : Keeps base (errWrite off data s) := by
  unfold errWrite
  repeat' first
    | with_reducible assumption
    | with_reducible apply writeLctrl_keeps
    | intro _
    | dsimp only
    | split
    | with_reducible refine Keeps.upd ?_ ?_ ?_ ?_ ?_ ?_ ?_ ?_ ?_ ?_ ?_ ?_
    | (obtain ⟨⟩ := ‹Keeps base _›.canon; with_reducible assumption)

theorem secWrite_keeps {base s : State} (hk : Keeps base s) (off : Nat) (data : Nat) : Keeps base (secWrite off data s) := by
  unfold secWrite
  repeat' first
    | with_reducible assumption
    | with_reducible apply writeEpoch_keeps
    | with_reducible apply cmdErr_keeps
    | with_reducible apply writeSecCtrl_keeps
    | with_reducible apply Keeps.ite
    | intro _
    | dsimp only
    | split
    | with_reducible refine Keeps.upd ?_ ?_ ?_ ?_ ?_ ?_ ?_ ?_ ?_ ?_ ?_ ?_
    | (obtain ⟨⟩ := ‹Keeps base _›.canon; with_reducible assumption)

theorem boxWrite_keeps {base s : State} (hk : Keeps base s) (o : Origin) (n : Nat) (off : Nat) (data : Nat) : OptKeeps base (boxWrite o n off data s) := by
  unfold boxWrite
  repeat' first
    | with_reducible assumption
    | with_reducible apply ringBox_keeps
    | with_reducible apply post_keeps
    | with_reducible apply clearDoor_keeps
    | with_reducible apply writeMask_keeps
    | with_reducible apply writePop_keeps
    | with_reducible apply setRxrdy_keeps
    | with_reducible apply modBox_keeps
    | with_reducible apply Keeps.ite
    | with_reducible apply OptKeeps.some
    | with_reducible apply OptKeeps.ite
    | exact OptKeeps.none
    | intro _
    | dsimp only
    | split
    | with_reducible refine Keeps.upd ?_ ?_ ?_ ?_ ?_ ?_ ?_ ?_ ?_ ?_ ?_ ?_
    | (obtain ⟨⟩ := ‹Keeps base _›.canon; with_reducible assumption)

theorem ringWrite_keeps {base s : State} (hk : Keeps base s) (o : Origin) (r : Nat) (off : Nat) (data : Nat) : OptKeeps base (ringWrite o r off data s) := by
  unfold ringWrite
  repeat' first
    | with_reducible assumption
    | with_reducible apply writeHead_keeps
    | with_reducible apply writeTail_keeps
    | with_reducible apply modRing_keeps
    | with_reducible apply Keeps.ite
    | with_reducible apply OptKeeps.some
    | with_reducible apply OptKeeps.ite
    | exact OptKeeps.none
    | intro _
    | dsimp only
    | split
    | with_reducible refine Keeps.upd ?_ ?_ ?_ ?_ ?_ ?_ ?_ ?_ ?_ ?_ ?_ ?_
    | (obtain ⟨⟩ := ‹Keeps base _›.canon; with_reducible assumption)

theorem mbxWrite_keeps {base s : State} (hk : Keeps base s) (o : Origin) (off : Nat) (data : Nat) : OptKeeps base (mbxWrite o off data s) := by
  unfold mbxWrite
  repeat' first
    | with_reducible assumption
    | with_reducible apply boxWrite_keeps
    | with_reducible apply ringWrite_keeps
    | with_reducible apply Keeps.ite
    | with_reducible apply OptKeeps.some
    | with_reducible apply OptKeeps.ite
    | exact OptKeeps.none
    | intro _
    | dsimp only
    | split
    | with_reducible refine Keeps.upd ?_ ?_ ?_ ?_ ?_ ?_ ?_ ?_ ?_ ?_ ?_ ?_
    | (obtain ⟨⟩ := ‹Keeps base _›.canon; with_reducible assumption)

theorem portWrite_keeps {base s : State} (hk : Keeps base s) (o : Origin) (p : Nat) (off : Nat) (data : Nat) : Keeps base (portWrite o p off data s) := by
  unfold portWrite
  repeat' first
    | with_reducible assumption
    | with_reducible apply modPort_keeps
    | with_reducible apply modCtx_keeps
    | with_reducible apply writePortCfg_keeps
    | with_reducible apply writePortCtrl_keeps
    | with_reducible apply writeMctrl_keeps
    | with_reducible apply Keeps.ite
    | intro _
    | dsimp only
    | split
    | with_reducible refine Keeps.upd ?_ ?_ ?_ ?_ ?_ ?_ ?_ ?_ ?_ ?_ ?_ ?_
    | (obtain ⟨⟩ := ‹Keeps base _›.canon; repeat' (first | with_reducible assumption | with_reducible apply gwf_gset))

theorem marsWrite_keeps {base s : State} (hk : Keeps base s) (off : Nat) (data : Nat) : Keeps base (marsWrite off data s) := by
  unfold marsWrite
  repeat' first
    | with_reducible assumption
    | with_reducible apply writeBctrl_keeps
    | with_reducible apply modBucket_keeps
    | with_reducible apply writeEntry_keeps
    | with_reducible apply Keeps.ite
    | intro _
    | dsimp only
    | split
    | with_reducible refine Keeps.upd ?_ ?_ ?_ ?_ ?_ ?_ ?_ ?_ ?_ ?_ ?_ ?_
    | (obtain ⟨⟩ := ‹Keeps base _›.canon; repeat' (first | with_reducible assumption | with_reducible apply gwf_gset))

theorem writePred_keeps {base s : State} (hk : Keeps base s) (k : Nat) (data : Nat) : Keeps base (writePred k data s) := by
  unfold writePred
  repeat' first
    | with_reducible assumption
    | with_reducible apply modShed_keeps
    | with_reducible apply Keeps.ite
    | intro _
    | dsimp only
    | split
    | with_reducible refine Keeps.upd ?_ ?_ ?_ ?_ ?_ ?_ ?_ ?_ ?_ ?_ ?_ ?_
    | (obtain ⟨⟩ := ‹Keeps base _›.canon; with_reducible assumption)

theorem shedWrite_keeps {base s : State} (hk : Keeps base s) (k : Nat) (off : Nat) (data : Nat) : Keeps base (shedWrite k off data s) := by
  unfold shedWrite
  repeat' first
    | with_reducible assumption
    | with_reducible apply writePred_keeps
    | with_reducible apply modShed_keeps
    | with_reducible apply Keeps.ite
    | intro _
    | dsimp only
    | split
    | with_reducible refine Keeps.upd ?_ ?_ ?_ ?_ ?_ ?_ ?_ ?_ ?_ ?_ ?_ ?_
    | (obtain ⟨⟩ := ‹Keeps base _›.canon; repeat' (first | with_reducible assumption | with_reducible apply gwf_gset))

theorem yardWrite_keeps {base s : State} (hk : Keeps base s) (y : Nat) (off : Nat) (data : Nat) : Keeps base (yardWrite y off data s) := by
  unfold yardWrite
  repeat' first
    | with_reducible assumption
    | with_reducible apply modYard_keeps
    | with_reducible apply Keeps.ite
    | intro _
    | dsimp only
    | split
    | with_reducible refine Keeps.upd ?_ ?_ ?_ ?_ ?_ ?_ ?_ ?_ ?_ ?_ ?_ ?_
    | (obtain ⟨⟩ := ‹Keeps base _›.canon; with_reducible assumption)

theorem regWrite_keeps {base s : State} (hk : Keeps base s) (o : Origin) (a : Nat) (data : Nat) : OptKeeps base (regWrite o a data s) := by
  unfold regWrite
  repeat' first
    | with_reducible assumption
    | with_reducible apply devWrite_keeps
    | with_reducible apply grmWrite_keeps
    | with_reducible apply pwrWrite_keeps
    | with_reducible apply thmWrite_keeps
    | with_reducible apply errWrite_keeps
    | with_reducible apply secWrite_keeps
    | with_reducible apply mbxWrite_keeps
    | with_reducible apply portWrite_keeps
    | with_reducible apply marsWrite_keeps
    | with_reducible apply shedWrite_keeps
    | with_reducible apply yardWrite_keeps
    | with_reducible apply Keeps.ite
    | with_reducible apply OptKeeps.some
    | with_reducible apply OptKeeps.ite
    | exact OptKeeps.none
    | intro _
    | dsimp only
    | split
    | with_reducible refine Keeps.upd ?_ ?_ ?_ ?_ ?_ ?_ ?_ ?_ ?_ ?_ ?_ ?_
    | (obtain ⟨⟩ := ‹Keeps base _›.canon; with_reducible assumption)

theorem addressError_keeps {base s : State} (hk : Keeps base s) (o : Origin) (a : Nat) : Keeps base (addressError o a s) := by
  unfold addressError
  repeat' first
    | with_reducible assumption
    | with_reducible apply answer_keeps
    | with_reducible apply Keeps.ite
    | intro _
    | dsimp only
    | split

theorem readReg_keeps {base s : State} (hk : Keeps base s) (o : Origin) (a : Nat) : Keeps base (readReg o a s) := by
  unfold readReg
  repeat' first
    | with_reducible assumption
    | with_reducible apply addressError_keeps
    | with_reducible apply answer_keeps
    | with_reducible apply Keeps.ite
    | intro _
    | dsimp only
    | split

theorem writeReg_keeps {base s : State} (hk : Keeps base s) (o : Origin) (a data : Nat) : Keeps base (writeReg o a data s) := by
  refine Keeps.ite (addressError_keeps hk _ _) ?_
  have h := regWrite_keeps hk o a data
  revert h
  cases regWrite o a data s <;> intro h
  · exact answer_keeps hk _ _ _
  · exact answer_keeps h _ _ _

theorem readWindow_keeps {base s : State} (hk : Keeps base s) (o : Origin) (addr : Nat) (n : Nat) : Keeps base (readWindow o addr n s) := by
  unfold readWindow
  repeat' first
    | with_reducible assumption
    | with_reducible apply answer_keeps
    | intro _
    | dsimp only
    | split
    | with_reducible refine Keeps.upd ?_ ?_ ?_ ?_ ?_ ?_ ?_ ?_ ?_ ?_ ?_ ?_
    | (obtain ⟨⟩ := ‹Keeps base _›.canon; with_reducible assumption)

theorem writeWindow_keeps {base s : State} (hk : Keeps base s) (o : Origin) (addr : Nat) (data : List Byte) : Keeps base (writeWindow o addr data s) := by
  unfold writeWindow
  repeat' first
    | with_reducible assumption
    | with_reducible apply answer_keeps
    | intro _
    | dsimp only
    | split
    | with_reducible refine Keeps.upd ?_ ?_ ?_ ?_ ?_ ?_ ?_ ?_ ?_ ?_ ?_ ?_
    | (obtain ⟨⟩ := ‹Keeps base _›.canon; repeat' (first | with_reducible assumption | with_reducible apply Memory.wf_writeBytes))

theorem execRegisterWrite_keeps {base s : State} (hk : Keeps base s) (o : Origin) (addr : BitVec 40) (data : Word64) : OutKeeps base (execRegisterWrite o addr data s) := by
  unfold execRegisterWrite
  repeat' first
    | with_reducible assumption
    | with_reducible apply writeReg_keeps
    | with_reducible apply OutKeeps.next
    | intro _
    | dsimp only

theorem execWindowRead_keeps {base s : State} (hk : Keeps base s) (o : Origin) (addr : BitVec 40) (wlen : Nat) : OutKeeps base (execWindowRead o addr wlen s) := by
  unfold execWindowRead
  repeat' first
    | with_reducible assumption
    | with_reducible apply readWindow_keeps
    | with_reducible apply OutKeeps.next
    | intro _
    | dsimp only

theorem execWindowWrite_keeps {base s : State} (hk : Keeps base s) (o : Origin) (addr : BitVec 40) (data : List Byte) : OutKeeps base (execWindowWrite o addr data s) := by
  unfold execWindowWrite
  repeat' first
    | with_reducible assumption
    | with_reducible apply writeWindow_keeps
    | with_reducible apply OutKeeps.next
    | intro _
    | dsimp only

theorem execPclr_keeps {base s : State} (hk : Keeps base s) (o : Origin) (yard : YardId) (shed : ShedNo) : OutKeeps base (execPclr o yard shed s) := by
  unfold execPclr
  repeat' first
    | with_reducible assumption
    | with_reducible apply writePred_keeps
    | with_reducible apply asAuth_keeps
    | with_reducible apply Keeps.ite
    | with_reducible apply OutKeeps.next
    | intro _
    | dsimp only
    | split

theorem transact_keeps {base s : State} (hk : Keeps base s) (o : Origin) (t : Trans) : Keeps base (transact o t s) := by
  unfold transact
  repeat' first
    | with_reducible assumption
    | with_reducible apply readReg_keeps
    | with_reducible apply writeReg_keeps
    | with_reducible apply readWindow_keeps
    | with_reducible apply writeWindow_keeps
    | with_reducible apply answer_keeps
    | with_reducible apply Keeps.ite
    | intro _
    | dsimp only
    | split

theorem respond_keeps {base s : State} (hk : Keeps base s) (p : Nat) (w1 : Nat) (payload : List Byte) (r : Resp) : Keeps base (respond s p w1 payload r) := by
  unfold respond
  repeat' first
    | with_reducible assumption
    | with_reducible apply sendCar_keeps
    | with_reducible apply Keeps.ite
    | intro _
    | dsimp only
    | split

theorem forward_keeps {base s : State} (hk : Keeps base s) (p : Nat) (w1 : Nat) (payload : List Byte) : Keeps base (forward s p w1 payload) := by
  unfold forward
  repeat' first
    | with_reducible assumption
    | with_reducible apply sendCar_keeps
    | with_reducible apply modPort_keeps
    | intro _
    | dsimp only
    | split
    | with_reducible refine Keeps.upd ?_ ?_ ?_ ?_ ?_ ?_ ?_ ?_ ?_ ?_ ?_ ?_
    | (obtain ⟨⟩ := ‹Keeps base _›.canon; with_reducible assumption)

theorem dropBridged_keeps {base s : State} (hk : Keeps base s) (p : Nat) (f : Bridged → Bool) : Keeps base (dropBridged s p f) := by
  unfold dropBridged
  repeat' first
    | with_reducible assumption
    | with_reducible apply modPort_keeps
    | intro _
    | dsimp only
    | with_reducible refine Keeps.upd ?_ ?_ ?_ ?_ ?_ ?_ ?_ ?_ ?_ ?_ ?_ ?_
    | (obtain ⟨⟩ := ‹Keeps base _›.canon; with_reducible assumption)

theorem takeResponse_keeps {base s : State} (hk : Keeps base s) (p : Nat) (w1 : Nat) (payload : List Byte) : Keeps base (takeResponse s p w1 payload) := by
  unfold takeResponse
  repeat' first
    | with_reducible assumption
    | with_reducible apply dropBridged_keeps
    | with_reducible apply sendCar_keeps
    | intro _
    | dsimp only
    | split
    | with_reducible refine Keeps.upd ?_ ?_ ?_ ?_ ?_ ?_ ?_ ?_ ?_ ?_ ?_ ?_
    | (obtain ⟨⟩ := ‹Keeps base _›.canon; with_reducible assumption)

theorem takeRequest_keeps {base s : State} (hk : Keeps base s) (p : Nat) (w1 : Nat) (payload : List Byte) : Keeps base (takeRequest s p w1 payload) := by
  unfold takeRequest
  repeat' first
    | with_reducible assumption
    | with_reducible apply transact_keeps
    | with_reducible apply respond_keeps
    | with_reducible apply forward_keeps
    | with_reducible apply Keeps.ite
    | intro _
    | dsimp only
    | split

theorem execMgmt_keeps {base s : State} (hk : Keeps base s) (port : PortId) (car : RxCar) : OutKeeps base (execMgmt port car s) := by
  unfold execMgmt
  refine OutKeeps.next ?_
  with_reducible refine Keeps.ite hk ?_
  have hg := receiveCar_keeps hk port car
  revert hg
  cases receiveCar s port car <;> intro hg <;> have hg' : Keeps base _ := hg <;> clear hg <;> dsimp only
  all_goals repeat' first
    | with_reducible assumption
    | with_reducible apply takeResponse_keeps
    | with_reducible apply takeRequest_keeps
    | with_reducible apply Keeps.ite
    | with_reducible apply OutKeeps.next
    | intro _
    | dsimp only
    | split
    | with_reducible refine Keeps.upd ?_ ?_ ?_ ?_ ?_ ?_ ?_ ?_ ?_ ?_ ?_ ?_
    | (obtain ⟨⟩ := ‹Keeps base _›.canon; with_reducible assumption)

theorem execBridgeTimeout_keeps {base s : State} (hk : Keeps base s) (port : PortId) (tid : BitVec 16) : OutKeeps base (execBridgeTimeout port tid s) := by
  unfold execBridgeTimeout
  repeat' first
    | with_reducible assumption
    | with_reducible apply respond_keeps
    | with_reducible apply dropBridged_keeps
    | with_reducible apply OutKeeps.next
    | intro _
    | dsimp only
    | split
    | with_reducible refine Keeps.upd ?_ ?_ ?_ ?_ ?_ ?_ ?_ ?_ ?_ ?_ ?_ ?_
    | (obtain ⟨⟩ := ‹Keeps base _›.canon; with_reducible assumption)

/-! Electrical. -/

theorem State.off_keeps {base s : State} (hk : Keeps base s)  : Keeps base (State.off s) := by
  unfold State.off
  repeat' first
    | with_reducible assumption
    | with_reducible apply State.cold_keeps
    | intro _
    | dsimp only
    | with_reducible refine Keeps.upd ?_ ?_ ?_ ?_ ?_ ?_ ?_ ?_ ?_ ?_ ?_ ?_
    | (obtain ⟨⟩ := ‹Keeps base _›.canon; repeat' (first | with_reducible assumption | with_reducible apply Memory.wf_nil))

theorem execFeedChange_keeps {base s : State} (hk : Keeps base s) (feedB : Bool) (present : Bool) (rideThrough : Bool) : OutKeeps base (execFeedChange feedB present rideThrough s) := by
  unfold execFeedChange
  repeat' first
    | with_reducible assumption
    | with_reducible apply State.off_keeps
    | with_reducible apply Keeps.ite
    | with_reducible apply OutKeeps.next
    | intro _
    | dsimp only
    | split
    | with_reducible refine Keeps.upd ?_ ?_ ?_ ?_ ?_ ?_ ?_ ?_ ?_ ?_ ?_ ?_
    | (obtain ⟨⟩ := ‹Keeps base _›.canon; with_reducible assumption)

theorem execPowerOn_keeps {base s : State} (hk : Keeps base s) (feedB : Bool) : OutKeeps base (execPowerOn feedB s) := by
  unfold execPowerOn
  repeat' first
    | with_reducible assumption
    | with_reducible apply State.cold_keeps
    | with_reducible apply Keeps.ite
    | with_reducible apply OutKeeps.next
    | intro _
    | dsimp only
    | split
    | with_reducible refine Keeps.upd ?_ ?_ ?_ ?_ ?_ ?_ ?_ ?_ ?_ ?_ ?_ ?_
    | (obtain ⟨⟩ := ‹Keeps base _›.canon; with_reducible assumption)

theorem i3cWrite_keeps {base s : State} (hk : Keeps base s) (bytes : List Byte) : Keeps base (i3cWrite bytes s) := by
  unfold i3cWrite
  repeat' first
    | with_reducible assumption
    | with_reducible apply transact_keeps
    | intro _
    | dsimp only
    | split
    | with_reducible refine Keeps.upd ?_ ?_ ?_ ?_ ?_ ?_ ?_ ?_ ?_ ?_ ?_ ?_
    | (obtain ⟨⟩ := ‹Keeps base _›.canon; with_reducible assumption)

theorem i3cRead_keeps {base s : State} (hk : Keeps base s)  : Keeps base (i3cRead s) := by
  unfold i3cRead
  repeat' first
    | with_reducible assumption
    | intro _
    | dsimp only
    | with_reducible refine Keeps.upd ?_ ?_ ?_ ?_ ?_ ?_ ?_ ?_ ?_ ?_ ?_ ?_
    | (obtain ⟨⟩ := ‹Keeps base _›.canon; with_reducible assumption)

theorem execI3cTransaction_keeps {base s : State} (hk : Keeps base s) (op : I3cOp) : OutKeeps base (execI3cTransaction op s) := by
  unfold execI3cTransaction
  repeat' first
    | with_reducible assumption
    | with_reducible apply i3cWrite_keeps
    | with_reducible apply i3cRead_keeps
    | with_reducible apply Keeps.ite
    | with_reducible apply OutKeeps.next
    | intro _
    | dsimp only
    | split
    | with_reducible refine Keeps.upd ?_ ?_ ?_ ?_ ?_ ?_ ?_ ?_ ?_ ?_ ?_ ?_
    | (obtain ⟨⟩ := ‹Keeps base _›.canon; with_reducible assumption)

theorem execI3cCcc_keeps {base s : State} (hk : Keeps base s) (ccc : I3cCcc) : OutKeeps base (execI3cCcc ccc s) := by
  unfold execI3cCcc
  unfold takeFresh
  repeat' first
    | with_reducible assumption
    | with_reducible apply Keeps.ite
    | with_reducible apply OutKeeps.next
    | intro _
    | dsimp only
    | split
    | with_reducible refine Keeps.upd ?_ ?_ ?_ ?_ ?_ ?_ ?_ ?_ ?_ ?_ ?_ ?_
    | (obtain ⟨⟩ := ‹Keeps base _›.canon; with_reducible assumption)

theorem execExtest_keeps {base s : State} (hk : Keeps base s) (drive : List Bool) : OutKeeps base (execExtest drive s) := by
  unfold execExtest
  unfold takeFresh
  repeat' first
    | with_reducible assumption
    | with_reducible apply Keeps.ite
    | with_reducible apply OutKeeps.next
    | intro _
    | dsimp only
    | split
    | with_reducible refine Keeps.upd ?_ ?_ ?_ ?_ ?_ ?_ ?_ ?_ ?_ ?_ ?_ ?_
    | (obtain ⟨⟩ := ‹Keeps base _›.canon; with_reducible assumption)

theorem execIdcode_keeps {base s : State} (hk : Keeps base s)  : OutKeeps base (execIdcode s) := by
  unfold execIdcode
  repeat' first
    | with_reducible assumption
    | with_reducible apply OutKeeps.next
    | intro _
    | dsimp only
    | with_reducible refine Keeps.upd ?_ ?_ ?_ ?_ ?_ ?_ ?_ ?_ ?_ ?_ ?_ ?_
    | (obtain ⟨⟩ := ‹Keeps base _›.canon; with_reducible assumption)

theorem execSamplePreload_keeps {base s : State} (hk : Keeps base s) (preload : List Bool) : OutKeeps base (execSamplePreload preload s) := by
  unfold execSamplePreload
  unfold takeFresh
  repeat' first
    | with_reducible assumption
    | with_reducible apply OutKeeps.next
    | intro _
    | dsimp only
    | split
    | with_reducible refine Keeps.upd ?_ ?_ ?_ ?_ ?_ ?_ ?_ ?_ ?_ ?_ ?_ ?_
    | (obtain ⟨⟩ := ‹Keeps base _›.canon; with_reducible assumption)

theorem execBypass_keeps {base s : State} (hk : Keeps base s)  : OutKeeps base (execBypass s) := by
  unfold execBypass
  repeat' first
    | with_reducible assumption
    | with_reducible apply OutKeeps.next
    | intro _
    | dsimp only
    | with_reducible refine Keeps.upd ?_ ?_ ?_ ?_ ?_ ?_ ?_ ?_ ?_ ?_ ?_ ?_
    | (obtain ⟨⟩ := ‹Keeps base _›.canon; with_reducible assumption)

theorem execTapReset_keeps {base s : State} (hk : Keeps base s)  : OutKeeps base (execTapReset s) := by
  unfold execTapReset
  repeat' first
    | with_reducible assumption
    | with_reducible apply OutKeeps.next
    | intro _
    | dsimp only
    | with_reducible refine Keeps.upd ?_ ?_ ?_ ?_ ?_ ?_ ?_ ?_ ?_ ?_ ?_ ?_
    | (obtain ⟨⟩ := ‹Keeps base _›.canon; with_reducible assumption)

end Sys2Proof.Machine
end

