-- ==== Sys2Proof/Laws/Same.lean ====
section
/-! SUPPORT. Which parts of the state every shared operation can change (Safety, `Same`): one lemma for each operation of Ops, Origins, Link, Abort and Operands. -/

set_option Elab.async false
set_option linter.all false

namespace Sys2Proof.Machine

/-- A listed part of one list is in every list that contains it. -/
theorem partIn {a b : List StatePart} (h : a ⊆ b) {p : StatePart} (hp : a.contains p = true) : p ∈ b := h (List.contains_iff_mem.1 hp)

/-- Inclusion, computed. -/
theorem sub_of {a b c : List StatePart} (h2 : b ⊆ c) (h1 : a.all b.contains = true) : a ⊆ c :=
  fun _ hx => partIn h2 (List.all_eq_true.1 h1 _ hx)

theorem Same.upd {ps : List StatePart} {c s : State} (h : Same ps c s) {dev fuses grm pwr thm err sec mbx mars ports yards sheds psheds stalls routeA routeB track nextId rm lunge i3c tap pins hmem gwin fresh resp}
    (h_dev : dev = s.dev ∨ StatePart.dev ∈ ps)
    (h_fuses : fuses = s.fuses ∨ StatePart.fuses ∈ ps)
    (h_grm : grm = s.grm ∨ StatePart.grm ∈ ps)
    (h_pwr : pwr = s.pwr ∨ StatePart.pwr ∈ ps)
    (h_thm : thm = s.thm ∨ StatePart.thm ∈ ps)
    (h_err : err = s.err ∨ StatePart.err ∈ ps)
    (h_sec : sec = s.sec ∨ StatePart.sec ∈ ps)
    (h_mbx : mbx = s.mbx ∨ StatePart.mbx ∈ ps)
    (h_mars : mars = s.mars ∨ StatePart.mars ∈ ps)
    (h_ports : ports = s.ports ∨ StatePart.ports ∈ ps)
    (h_yards : yards = s.yards ∨ StatePart.yards ∈ ps)
    (h_sheds : sheds = s.sheds ∨ StatePart.sheds ∈ ps)
    (h_psheds : psheds = s.psheds ∨ StatePart.psheds ∈ ps)
    (h_stalls : stalls = s.stalls ∨ StatePart.stalls ∈ ps)
    (h_routeA : routeA = s.routeA ∨ StatePart.routeA ∈ ps)
    (h_routeB : routeB = s.routeB ∨ StatePart.routeB ∈ ps)
    (h_track : track = s.track ∨ StatePart.track ∈ ps)
    (h_nextId : nextId = s.nextId ∨ StatePart.nextId ∈ ps)
    (h_rm : rm = s.rm ∨ StatePart.rm ∈ ps)
    (h_lunge : lunge = s.lunge ∨ StatePart.lunge ∈ ps)
    (h_i3c : i3c = s.i3c ∨ StatePart.i3c ∈ ps)
    (h_tap : tap = s.tap ∨ StatePart.tap ∈ ps)
    (h_pins : pins = s.pins ∨ StatePart.pins ∈ ps)
    (h_hmem : hmem = s.hmem ∨ StatePart.hmem ∈ ps)
    (h_gwin : gwin = s.gwin ∨ StatePart.gwin ∈ ps)
    (h_fresh : fresh = s.fresh ∨ StatePart.fresh ∈ ps)
    (h_resp : resp = s.resp ∨ StatePart.resp ∈ ps)
    : Same ps c (State.mk dev fuses grm pwr thm err sec mbx mars ports yards sheds psheds stalls routeA routeB track nextId rm lunge i3c tap pins hmem gwin fresh resp s.pending) := by
  constructor
  intro p hp
  have := h.kept p hp
  cases p
  case dev => exact (h_dev.resolve_right hp).trans this
  case fuses => exact (h_fuses.resolve_right hp).trans this
  case grm => exact (h_grm.resolve_right hp).trans this
  case pwr => exact (h_pwr.resolve_right hp).trans this
  case thm => exact (h_thm.resolve_right hp).trans this
  case err => exact (h_err.resolve_right hp).trans this
  case sec => exact (h_sec.resolve_right hp).trans this
  case mbx => exact (h_mbx.resolve_right hp).trans this
  case mars => exact (h_mars.resolve_right hp).trans this
  case ports => exact (h_ports.resolve_right hp).trans this
  case yards => exact (h_yards.resolve_right hp).trans this
  case sheds => exact (h_sheds.resolve_right hp).trans this
  case psheds => exact (h_psheds.resolve_right hp).trans this
  case stalls => exact (h_stalls.resolve_right hp).trans this
  case routeA => exact (h_routeA.resolve_right hp).trans this
  case routeB => exact (h_routeB.resolve_right hp).trans this
  case track => exact (h_track.resolve_right hp).trans this
  case nextId => exact (h_nextId.resolve_right hp).trans this
  case rm => exact (h_rm.resolve_right hp).trans this
  case lunge => exact (h_lunge.resolve_right hp).trans this
  case i3c => exact (h_i3c.resolve_right hp).trans this
  case tap => exact (h_tap.resolve_right hp).trans this
  case pins => exact (h_pins.resolve_right hp).trans this
  case hmem => exact (h_hmem.resolve_right hp).trans this
  case gwin => exact (h_gwin.resolve_right hp).trans this
  case fresh => exact (h_fresh.resolve_right hp).trans this
  case resp => exact (h_resp.resolve_right hp).trans this
  case pending => exact this

theorem Same.ite {ps : List StatePart} {c a b : State} {p : Prop} [Decidable p] (ha : Same ps c a) (hb : Same ps c b) : Same ps c (if p then a else b) := by
  split <;> assumption

theorem Same.foldl {ps : List StatePart} {c s : State} {α : Type} {f : State → α → State} {l : List α} (h : Same ps c s)
    (hf : ∀ s x, Same ps c s → Same ps c (f s x)) : Same ps c (l.foldl f s) := by
  induction l generalizing s with
  | nil => exact h
  | cons x l ih => exact ih (hf _ _ h)

theorem Same.refl {ps : List StatePart} {s : State} : Same ps s s := by constructor; intro p _; cases p <;> rfl

/-- The state inside a word's end is the same as `c` outside `ps`. -/
def WordSame (ps : List StatePart) (c : State) : WordEnd → Prop
  | .retire s _ _ => Same ps c s
  | .jump s _ _ => Same ps c s
  | .skipTo s _ _ => Same ps c s
  | .hold s _ => Same ps c s
  | .fault s _ => Same ps c s
  | .done s => Same ps c s

/-- The next state, if there is one, is the same as `c` outside `ps`. -/
def OutSame (ps : List StatePart) (c : State) : Host.Outcome State Fault Refusal → Prop
  | .next s => Same ps c s
  | .fault _ => True
  | .refused _ => True

/-- The state, if there is one, is the same as `c` outside `ps`. -/
def OptSame (ps : List StatePart) (c : State) : Option State → Prop
  | some s => Same ps c s
  | none => True

theorem WordSame.ite {ps : List StatePart} {c : State} {a b : WordEnd} {p : Prop} [Decidable p] (ha : WordSame ps c a) (hb : WordSame ps c b) : WordSame ps c (if p then a else b) := by
  split <;> assumption
theorem WordSame.retire {ps : List StatePart} {c s : State} (h : Same ps c s) (n p) : WordSame ps c (.retire s n p) := h
theorem WordSame.jump {ps : List StatePart} {c s : State} (h : Same ps c s) (n p) : WordSame ps c (.jump s n p) := h
theorem WordSame.skipTo {ps : List StatePart} {c s : State} (h : Same ps c s) (n p) : WordSame ps c (.skipTo s n p) := h
theorem WordSame.hold {ps : List StatePart} {c s : State} (h : Same ps c s) (n) : WordSame ps c (.hold s n) := h
theorem WordSame.fault {ps : List StatePart} {c s : State} (h : Same ps c s) (n) : WordSame ps c (.fault s n) := h
theorem WordSame.done {ps : List StatePart} {c s : State} (h : Same ps c s) : WordSame ps c (.done s) := h
theorem OutSame.next {ps : List StatePart} {c s : State} (h : Same ps c s) : OutSame ps c (.next s) := h
theorem OptSame.some {ps : List StatePart} {c s : State} (h : Same ps c s) : OptSame ps c (Option.some s) := h
theorem OptSame.none {ps : List StatePart} {c : State} : OptSame ps c Option.none := trivial
theorem OptSame.ite {ps : List StatePart} {c : State} {a b : Option State} {p : Prop} [Decidable p] (ha : OptSame ps c a) (hb : OptSame ps c b) : OptSame ps c (if p then a else b) := by
  split <;> assumption
theorem OutSame.ite {ps : List StatePart} {c : State} {a b : Host.Outcome State Fault Refusal} {p : Prop} [Decidable p] (ha : OutSame ps c a) (hb : OutSame ps c b) : OutSame ps c (if p then a else b) := by
  split <;> assumption

/-! Ops. -/

theorem modStall_same {ps : List StatePart} {base s : State} (hk : Same ps base s) (sid : Nat) (f : Stall → Stall)
    (hp : ([.stalls] : List StatePart) ⊆ ps := by exact sub_of (by assumption) (by decide)) : Same ps base (modStall s sid f) := by
  unfold modStall
  repeat' first
    | exact Or.inr (partIn hp (by decide))
    | with_reducible exact Or.inl rfl
    | with_reducible assumption
    | exact sub_of hp (by decide)
    | intro _
    | dsimp only
    | with_reducible refine Same.upd ?_ ?_ ?_ ?_ ?_ ?_ ?_ ?_ ?_ ?_ ?_ ?_ ?_ ?_ ?_ ?_ ?_ ?_ ?_ ?_ ?_ ?_ ?_ ?_ ?_ ?_ ?_ ?_

theorem modShed_same {ps : List StatePart} {base s : State} (hk : Same ps base s) (k : Nat) (f : Shed → Shed)
    (hp : ([.sheds] : List StatePart) ⊆ ps := by exact sub_of (by assumption) (by decide)) : Same ps base (modShed s k f) := by
  unfold modShed
  repeat' first
    | exact Or.inr (partIn hp (by decide))
    | with_reducible exact Or.inl rfl
    | with_reducible assumption
    | exact sub_of hp (by decide)
    | intro _
    | dsimp only
    | with_reducible refine Same.upd ?_ ?_ ?_ ?_ ?_ ?_ ?_ ?_ ?_ ?_ ?_ ?_ ?_ ?_ ?_ ?_ ?_ ?_ ?_ ?_ ?_ ?_ ?_ ?_ ?_ ?_ ?_ ?_

theorem modYard_same {ps : List StatePart} {base s : State} (hk : Same ps base s) (y : Nat) (f : Yard → Yard)
    (hp : ([.yards] : List StatePart) ⊆ ps := by exact sub_of (by assumption) (by decide)) : Same ps base (modYard s y f) := by
  unfold modYard
  repeat' first
    | exact Or.inr (partIn hp (by decide))
    | with_reducible exact Or.inl rfl
    | with_reducible assumption
    | exact sub_of hp (by decide)
    | intro _
    | dsimp only
    | with_reducible refine Same.upd ?_ ?_ ?_ ?_ ?_ ?_ ?_ ?_ ?_ ?_ ?_ ?_ ?_ ?_ ?_ ?_ ?_ ?_ ?_ ?_ ?_ ?_ ?_ ?_ ?_ ?_ ?_ ?_

theorem modPShed_same {ps : List StatePart} {base s : State} (hk : Same ps base s) (n : Nat) (f : PShed → PShed)
    (hp : ([.psheds] : List StatePart) ⊆ ps := by exact sub_of (by assumption) (by decide)) : Same ps base (modPShed s n f) := by
  unfold modPShed
  repeat' first
    | exact Or.inr (partIn hp (by decide))
    | with_reducible exact Or.inl rfl
    | with_reducible assumption
    | exact sub_of hp (by decide)
    | intro _
    | dsimp only
    | with_reducible refine Same.upd ?_ ?_ ?_ ?_ ?_ ?_ ?_ ?_ ?_ ?_ ?_ ?_ ?_ ?_ ?_ ?_ ?_ ?_ ?_ ?_ ?_ ?_ ?_ ?_ ?_ ?_ ?_ ?_

theorem modPort_same {ps : List StatePart} {base s : State} (hk : Same ps base s) (p : Nat) (f : Port → Port)
    (hp : ([.ports] : List StatePart) ⊆ ps := by exact sub_of (by assumption) (by decide)) : Same ps base (modPort s p f) := by
  unfold modPort
  repeat' first
    | exact Or.inr (partIn hp (by decide))
    | with_reducible exact Or.inl rfl
    | with_reducible assumption
    | exact sub_of hp (by decide)
    | intro _
    | dsimp only
    | with_reducible refine Same.upd ?_ ?_ ?_ ?_ ?_ ?_ ?_ ?_ ?_ ?_ ?_ ?_ ?_ ?_ ?_ ?_ ?_ ?_ ?_ ?_ ?_ ?_ ?_ ?_ ?_ ?_ ?_ ?_

theorem modPlace_same {ps : List StatePart} {base s : State} (hk : Same ps base s) (p : Nat) (f : Place → Place)
    (hp : ([.sec] : List StatePart) ⊆ ps := by exact sub_of (by assumption) (by decide)) : Same ps base (modPlace s p f) := by
  unfold modPlace
  repeat' first
    | exact Or.inr (partIn hp (by decide))
    | with_reducible exact Or.inl rfl
    | with_reducible assumption
    | exact sub_of hp (by decide)
    | intro _
    | dsimp only
    | with_reducible refine Same.upd ?_ ?_ ?_ ?_ ?_ ?_ ?_ ?_ ?_ ?_ ?_ ?_ ?_ ?_ ?_ ?_ ?_ ?_ ?_ ?_ ?_ ?_ ?_ ?_ ?_ ?_ ?_ ?_

theorem modBucket_same {ps : List StatePart} {base s : State} (hk : Same ps base s) (c : Nat) (f : Bucket → Bucket)
    (hp : ([.mars] : List StatePart) ⊆ ps := by exact sub_of (by assumption) (by decide)) : Same ps base (modBucket s c f) := by
  unfold modBucket
  repeat' first
    | exact Or.inr (partIn hp (by decide))
    | with_reducible exact Or.inl rfl
    | with_reducible assumption
    | exact sub_of hp (by decide)
    | intro _
    | dsimp only
    | with_reducible refine Same.upd ?_ ?_ ?_ ?_ ?_ ?_ ?_ ?_ ?_ ?_ ?_ ?_ ?_ ?_ ?_ ?_ ?_ ?_ ?_ ?_ ?_ ?_ ?_ ?_ ?_ ?_ ?_ ?_

theorem modBox_same {ps : List StatePart} {base s : State} (hk : Same ps base s) (n : Nat) (f : Mailbox → Mailbox)
    (hp : ([.mbx] : List StatePart) ⊆ ps := by exact sub_of (by assumption) (by decide)) : Same ps base (modBox s n f) := by
  unfold modBox
  repeat' first
    | exact Or.inr (partIn hp (by decide))
    | with_reducible exact Or.inl rfl
    | with_reducible assumption
    | exact sub_of hp (by decide)
    | intro _
    | dsimp only
    | with_reducible refine Same.upd ?_ ?_ ?_ ?_ ?_ ?_ ?_ ?_ ?_ ?_ ?_ ?_ ?_ ?_ ?_ ?_ ?_ ?_ ?_ ?_ ?_ ?_ ?_ ?_ ?_ ?_ ?_ ?_

theorem modRing_same {ps : List StatePart} {base s : State} (hk : Same ps base s) (r : Nat) (f : Ring → Ring)
    (hp : ([.mbx] : List StatePart) ⊆ ps := by exact sub_of (by assumption) (by decide)) : Same ps base (modRing s r f) := by
  unfold modRing
  repeat' first
    | exact Or.inr (partIn hp (by decide))
    | with_reducible exact Or.inl rfl
    | with_reducible assumption
    | exact sub_of hp (by decide)
    | intro _
    | dsimp only
    | with_reducible refine Same.upd ?_ ?_ ?_ ?_ ?_ ?_ ?_ ?_ ?_ ?_ ?_ ?_ ?_ ?_ ?_ ?_ ?_ ?_ ?_ ?_ ?_ ?_ ?_ ?_ ?_ ?_ ?_ ?_

theorem modCtx_same {ps : List StatePart} {base s : State} (hk : Same ps base s) (p : Nat) (c : Nat) (f : StreamCtx → StreamCtx)
    (hp : ([.ports] : List StatePart) ⊆ ps := by exact sub_of (by assumption) (by decide)) : Same ps base (modCtx s p c f) := by
  unfold modCtx
  repeat' first
    | exact Or.inr (partIn hp (by decide))
    | with_reducible exact Or.inl rfl
    | with_reducible assumption
    | with_reducible apply modPort_same
    | exact sub_of hp (by decide)
    | intro _
    | dsimp only
    | with_reducible refine Same.upd ?_ ?_ ?_ ?_ ?_ ?_ ?_ ?_ ?_ ?_ ?_ ?_ ?_ ?_ ?_ ?_ ?_ ?_ ?_ ?_ ?_ ?_ ?_ ?_ ?_ ?_ ?_ ?_

theorem modSeq_same {ps : List StatePart} {base s : State} (hk : Same ps base s) (sid : Nat) (f : Seq → Seq)
    (hp : ([.stalls] : List StatePart) ⊆ ps := by exact sub_of (by assumption) (by decide)) : Same ps base (modSeq s sid f) := by
  unfold modSeq
  repeat' first
    | exact Or.inr (partIn hp (by decide))
    | with_reducible exact Or.inl rfl
    | with_reducible assumption
    | with_reducible apply modStall_same
    | exact sub_of hp (by decide)
    | intro _
    | dsimp only
    | with_reducible refine Same.upd ?_ ?_ ?_ ?_ ?_ ?_ ?_ ?_ ?_ ?_ ?_ ?_ ?_ ?_ ?_ ?_ ?_ ?_ ?_ ?_ ?_ ?_ ?_ ?_ ?_ ?_ ?_ ?_

theorem modQu_same {ps : List StatePart} {base s : State} (hk : Same ps base s) (sid : Nat) (f : QueueUnit → QueueUnit)
    (hp : ([.stalls] : List StatePart) ⊆ ps := by exact sub_of (by assumption) (by decide)) : Same ps base (modQu s sid f) := by
  unfold modQu
  repeat' first
    | exact Or.inr (partIn hp (by decide))
    | with_reducible exact Or.inl rfl
    | with_reducible assumption
    | with_reducible apply modStall_same
    | exact sub_of hp (by decide)
    | intro _
    | dsimp only
    | with_reducible refine Same.upd ?_ ?_ ?_ ?_ ?_ ?_ ?_ ?_ ?_ ?_ ?_ ?_ ?_ ?_ ?_ ?_ ?_ ?_ ?_ ?_ ?_ ?_ ?_ ?_ ?_ ?_ ?_ ?_

theorem modEng_same {ps : List StatePart} {base s : State} (hk : Same ps base s) (sid : Nat) (f : Engines → Engines)
    (hp : ([.stalls] : List StatePart) ⊆ ps := by exact sub_of (by assumption) (by decide)) : Same ps base (modEng s sid f) := by
  unfold modEng
  repeat' first
    | exact Or.inr (partIn hp (by decide))
    | with_reducible exact Or.inl rfl
    | with_reducible assumption
    | with_reducible apply modStall_same
    | exact sub_of hp (by decide)
    | intro _
    | dsimp only
    | with_reducible refine Same.upd ?_ ?_ ?_ ?_ ?_ ?_ ?_ ?_ ?_ ?_ ?_ ?_ ?_ ?_ ?_ ?_ ?_ ?_ ?_ ?_ ?_ ?_ ?_ ?_ ?_ ?_ ?_ ?_

theorem modMem_same {ps : List StatePart} {base s : State} (hk : Same ps base s) (sid : Nat) (f : StallMem → StallMem)
    (hp : ([.stalls] : List StatePart) ⊆ ps := by exact sub_of (by assumption) (by decide)) : Same ps base (modMem s sid f) := by
  unfold modMem
  repeat' first
    | exact Or.inr (partIn hp (by decide))
    | with_reducible exact Or.inl rfl
    | with_reducible assumption
    | with_reducible apply modStall_same
    | exact sub_of hp (by decide)
    | intro _
    | dsimp only
    | with_reducible refine Same.upd ?_ ?_ ?_ ?_ ?_ ?_ ?_ ?_ ?_ ?_ ?_ ?_ ?_ ?_ ?_ ?_ ?_ ?_ ?_ ?_ ?_ ?_ ?_ ?_ ?_ ?_ ?_ ?_

theorem raiseIrq_same {ps : List StatePart} {base s : State} (hk : Same ps base s) (c : Nat)
    (hp : ([.mbx] : List StatePart) ⊆ ps := by exact sub_of (by assumption) (by decide)) : Same ps base (raiseIrq s c) := by
  unfold raiseIrq
  repeat' first
    | exact Or.inr (partIn hp (by decide))
    | with_reducible exact Or.inl rfl
    | with_reducible assumption
    | exact sub_of hp (by decide)
    | intro _
    | dsimp only
    | with_reducible refine Same.upd ?_ ?_ ?_ ?_ ?_ ?_ ?_ ?_ ?_ ?_ ?_ ?_ ?_ ?_ ?_ ?_ ?_ ?_ ?_ ?_ ?_ ?_ ?_ ?_ ?_ ?_ ?_ ?_

theorem callCore_same {ps : List StatePart} {base s : State} (hk : Same ps base s) (n : Nat) (old : Nat)
    (hp : ([.mbx] : List StatePart) ⊆ ps := by exact sub_of (by assumption) (by decide)) : Same ps base (callCore s n old) := by
  unfold callCore
  repeat' first
    | with_reducible assumption
    | with_reducible apply raiseIrq_same
    | with_reducible apply Same.ite
    | exact sub_of hp (by decide)
    | intro _
    | dsimp only
    | split

theorem ringCore_same {ps : List StatePart} {base s : State} (hk : Same ps base s) (n : Nat) (bits : Nat)
    (hp : ([.mbx] : List StatePart) ⊆ ps := by exact sub_of (by assumption) (by decide)) : Same ps base (ringCore s n bits) := by
  unfold ringCore
  repeat' first
    | exact Or.inr (partIn hp (by decide))
    | with_reducible exact Or.inl rfl
    | with_reducible assumption
    | with_reducible apply modBox_same
    | with_reducible apply callCore_same
    | exact sub_of hp (by decide)
    | intro _
    | dsimp only
    | with_reducible refine Same.upd ?_ ?_ ?_ ?_ ?_ ?_ ?_ ?_ ?_ ?_ ?_ ?_ ?_ ?_ ?_ ?_ ?_ ?_ ?_ ?_ ?_ ?_ ?_ ?_ ?_ ?_ ?_ ?_

theorem journal_same {ps : List StatePart} {base s : State} (hk : Same ps base s) (kind : Nat) (body : List Nat)
    (hp : ([.grm] : List StatePart) ⊆ ps := by exact sub_of (by assumption) (by decide)) : Same ps base (journal s kind body) := by
  unfold journal
  repeat' first
    | exact Or.inr (partIn hp (by decide))
    | with_reducible exact Or.inl rfl
    | with_reducible assumption
    | with_reducible apply Same.ite
    | exact sub_of hp (by decide)
    | intro _
    | dsimp only
    | split
    | with_reducible refine Same.upd ?_ ?_ ?_ ?_ ?_ ?_ ?_ ?_ ?_ ?_ ?_ ?_ ?_ ?_ ?_ ?_ ?_ ?_ ?_ ?_ ?_ ?_ ?_ ?_ ?_ ?_ ?_ ?_

theorem markSheds_same {ps : List StatePart} {base s : State} (hk : Same ps base s) (code : Nat) (src : Src)
    (hp : ([.sheds] : List StatePart) ⊆ ps := by exact sub_of (by assumption) (by decide)) : Same ps base (markSheds s code src) := by
  cases src
  case stall => exact modShed_same hk _ _
  case shed => exact modShed_same hk _ _
  case yard =>
    unfold markSheds
    dsimp only
    with_reducible refine Same.upd hk ?_ ?_ ?_ ?_ ?_ ?_ ?_ ?_ ?_ ?_ ?_ ?_ ?_ ?_ ?_ ?_ ?_ ?_ ?_ ?_ ?_ ?_ ?_ ?_ ?_ ?_ ?_
    all_goals first | exact Or.inr (partIn hp (by decide)) | with_reducible exact Or.inl rfl
  case port => exact hk
  case ring => exact hk
  case device => exact hk

theorem recordWith_same {ps : List StatePart} {base s : State} (hk : Same ps base s) (code : Nat) (src : Src) (enters : Bool)
    (hp : ([.grm, .err, .mbx, .sheds] : List StatePart) ⊆ ps := by exact sub_of (by assumption) (by decide)) : Same ps base (recordWith s code src enters) := by
  unfold recordWith
  repeat' first
    | exact Or.inr (partIn hp (by decide))
    | with_reducible exact Or.inl rfl
    | with_reducible assumption
    | with_reducible apply raiseIrq_same
    | with_reducible apply ringCore_same
    | with_reducible apply journal_same
    | with_reducible apply markSheds_same
    | with_reducible apply Same.ite
    | exact sub_of hp (by decide)
    | intro _
    | dsimp only
    | split
    | with_reducible refine Same.upd ?_ ?_ ?_ ?_ ?_ ?_ ?_ ?_ ?_ ?_ ?_ ?_ ?_ ?_ ?_ ?_ ?_ ?_ ?_ ?_ ?_ ?_ ?_ ?_ ?_ ?_ ?_ ?_

theorem record_same {ps : List StatePart} {base s : State} (hk : Same ps base s) (code : Nat) (src : Src)
    (hp : ([.grm, .err, .mbx, .sheds] : List StatePart) ⊆ ps := by exact sub_of (by assumption) (by decide)) : Same ps base (record s code src) := by
  unfold record
  repeat' first
    | with_reducible assumption
    | with_reducible apply recordWith_same
    | exact sub_of hp (by decide)
    | intro _
    | dsimp only

theorem staleDrop_same {ps : List StatePart} {base s : State} (hk : Same ps base s) (sid : Nat)
    (hp : ([.grm, .err, .sec, .mbx, .sheds] : List StatePart) ⊆ ps := by exact sub_of (by assumption) (by decide)) : Same ps base (staleDrop s sid) := by
  unfold staleDrop
  repeat' first
    | exact Or.inr (partIn hp (by decide))
    | with_reducible exact Or.inl rfl
    | with_reducible assumption
    | with_reducible apply record_same
    | exact sub_of hp (by decide)
    | intro _
    | dsimp only
    | with_reducible refine Same.upd ?_ ?_ ?_ ?_ ?_ ?_ ?_ ?_ ?_ ?_ ?_ ?_ ?_ ?_ ?_ ?_ ?_ ?_ ?_ ?_ ?_ ?_ ?_ ?_ ?_ ?_ ?_ ?_

/-! Origins. -/

theorem answer_same {ps : List StatePart} {base s : State} (hk : Same ps base s) (status : Nat) (data : Word64) (bytes : List Byte)
    (hp : ([.resp] : List StatePart) ⊆ ps := by exact sub_of (by assumption) (by decide)) : Same ps base (answer s status data bytes) := by
  unfold answer
  repeat' first
    | exact Or.inr (partIn hp (by decide))
    | with_reducible exact Or.inl rfl
    | with_reducible assumption
    | exact sub_of hp (by decide)
    | intro _
    | dsimp only
    | with_reducible refine Same.upd ?_ ?_ ?_ ?_ ?_ ?_ ?_ ?_ ?_ ?_ ?_ ?_ ?_ ?_ ?_ ?_ ?_ ?_ ?_ ?_ ?_ ?_ ?_ ?_ ?_ ?_ ?_ ?_

theorem asAuth_same {ps : List StatePart} {base s : State} (hk : Same ps base s) (o : Origin) {f : State → State} (hf : Same ps base s → Same ps base (f s))
    (hp : ([.resp] : List StatePart) ⊆ ps := by exact sub_of (by assumption) (by decide)) : Same ps base (asAuth o s f) :=
  Same.ite (answer_same (hf hk) _ _ _) (answer_same hk _ _ _)

theorem asHostler_same {ps : List StatePart} {base s : State} (hk : Same ps base s) (o : Origin) {f : State → State} (hf : Same ps base s → Same ps base (f s))
    (hp : ([.resp] : List StatePart) ⊆ ps := by exact sub_of (by assumption) (by decide)) : Same ps base (asHostler o s f) :=
  Same.ite (answer_same (hf hk) _ _ _) (answer_same hk _ _ _)

/-! Link. -/

theorem sendCar_same {ps : List StatePart} {base s : State} (hk : Same ps base s) (p : Nat) (c : TxCar)
    (hp : ([.ports] : List StatePart) ⊆ ps := by exact sub_of (by assumption) (by decide)) : Same ps base (sendCar s p c) := by
  unfold sendCar
  repeat' first
    | exact Or.inr (partIn hp (by decide))
    | with_reducible exact Or.inl rfl
    | with_reducible assumption
    | with_reducible apply modPort_same
    | with_reducible apply Same.ite
    | exact sub_of hp (by decide)
    | intro _
    | dsimp only
    | split
    | with_reducible refine Same.upd ?_ ?_ ?_ ?_ ?_ ?_ ?_ ?_ ?_ ?_ ?_ ?_ ?_ ?_ ?_ ?_ ?_ ?_ ?_ ?_ ?_ ?_ ?_ ?_ ?_ ?_ ?_ ?_

theorem sendPlain_same {ps : List StatePart} {base s : State} (hk : Same ps base s) (p : Nat) (c : TxCar)
    (hp : ([.ports] : List StatePart) ⊆ ps := by exact sub_of (by assumption) (by decide)) : Same ps base (sendPlain s p c) := by
  unfold sendPlain
  repeat' first
    | exact Or.inr (partIn hp (by decide))
    | with_reducible exact Or.inl rfl
    | with_reducible assumption
    | with_reducible apply modPort_same
    | exact sub_of hp (by decide)
    | intro _
    | dsimp only
    | with_reducible refine Same.upd ?_ ?_ ?_ ?_ ?_ ?_ ?_ ?_ ?_ ?_ ?_ ?_ ?_ ?_ ?_ ?_ ?_ ?_ ?_ ?_ ?_ ?_ ?_ ?_ ?_ ?_ ?_ ?_

theorem sendSctl_same {ps : List StatePart} {base s : State} (hk : Same ps base s) (p : Nat) (kind : Nat) (id : Nat) (a0 : Nat) (a1 : Nat) (a2 : Nat)
    (hp : ([.ports] : List StatePart) ⊆ ps := by exact sub_of (by assumption) (by decide)) : Same ps base (sendSctl s p kind id a0 a1 a2) := by
  unfold sendSctl
  repeat' first
    | with_reducible assumption
    | with_reducible apply sendCar_same
    | exact sub_of hp (by decide)
    | intro _
    | dsimp only

theorem linkAuth_same {ps : List StatePart} {base s : State} (hk : Same ps base s) (p : Nat)
    (hp : ([.grm, .err, .mbx, .ports, .sheds] : List StatePart) ⊆ ps := by exact sub_of (by assumption) (by decide)) : Same ps base (linkAuth s p) := by
  unfold linkAuth
  repeat' first
    | exact Or.inr (partIn hp (by decide))
    | with_reducible exact Or.inl rfl
    | with_reducible assumption
    | with_reducible apply modPort_same
    | with_reducible apply record_same
    | exact sub_of hp (by decide)
    | intro _
    | dsimp only
    | with_reducible refine Same.upd ?_ ?_ ?_ ?_ ?_ ?_ ?_ ?_ ?_ ?_ ?_ ?_ ?_ ?_ ?_ ?_ ?_ ?_ ?_ ?_ ?_ ?_ ?_ ?_ ?_ ?_ ?_ ?_

theorem linkBer_same {ps : List StatePart} {base s : State} (hk : Same ps base s) (p : Nat)
    (hp : ([.grm, .err, .mbx, .ports, .sheds] : List StatePart) ⊆ ps := by exact sub_of (by assumption) (by decide)) : Same ps base (linkBer s p) := by
  unfold linkBer
  repeat' first
    | exact Or.inr (partIn hp (by decide))
    | with_reducible exact Or.inl rfl
    | with_reducible assumption
    | with_reducible apply modPort_same
    | with_reducible apply record_same
    | exact sub_of hp (by decide)
    | intro _
    | dsimp only
    | with_reducible refine Same.upd ?_ ?_ ?_ ?_ ?_ ?_ ?_ ?_ ?_ ?_ ?_ ?_ ?_ ?_ ?_ ?_ ?_ ?_ ?_ ?_ ?_ ?_ ?_ ?_ ?_ ?_ ?_ ?_

theorem fixSource_same {ps : List StatePart} {base s : State} (hk : Same ps base s) 
    (hp : ([.dev] : List StatePart) ⊆ ps := by exact sub_of (by assumption) (by decide)) : Same ps base (fixSource s) := by
  unfold fixSource
  repeat' first
    | exact Or.inr (partIn hp (by decide))
    | with_reducible exact Or.inl rfl
    | with_reducible assumption
    | exact sub_of hp (by decide)
    | intro _
    | dsimp only
    | with_reducible refine Same.upd ?_ ?_ ?_ ?_ ?_ ?_ ?_ ?_ ?_ ?_ ?_ ?_ ?_ ?_ ?_ ?_ ?_ ?_ ?_ ?_ ?_ ?_ ?_ ?_ ?_ ?_ ?_ ?_

theorem portState_same {ps : List StatePart} {base s : State} (hk : Same ps base s) (p : Nat) (f : Port → Port)
    (hp : ([.dev, .ports] : List StatePart) ⊆ ps := by exact sub_of (by assumption) (by decide)) : Same ps base (portState s p f) := by
  unfold portState
  repeat' first
    | with_reducible assumption
    | with_reducible apply fixSource_same
    | with_reducible apply modPort_same
    | exact sub_of hp (by decide)
    | intro _
    | dsimp only

/-! Abort. -/

theorem failLoads_same {ps : List StatePart} {base s : State} (hk : Same ps base s) (id : Nat)
    (hp : ([.sec] : List StatePart) ⊆ ps := by exact sub_of (by assumption) (by decide)) : Same ps base (failLoads s id) := by
  unfold failLoads
  repeat' first
    | exact Or.inr (partIn hp (by decide))
    | with_reducible exact Or.inl rfl
    | with_reducible assumption
    | with_reducible apply Same.ite
    | exact sub_of hp (by decide)
    | intro _
    | dsimp only
    | split
    | with_reducible refine Same.upd ?_ ?_ ?_ ?_ ?_ ?_ ?_ ?_ ?_ ?_ ?_ ?_ ?_ ?_ ?_ ?_ ?_ ?_ ?_ ?_ ?_ ?_ ?_ ?_ ?_ ?_ ?_ ?_

theorem stopStream_same {ps : List StatePart} {base s : State} (hk : Same ps base s) (p : Nat) (c : Nat) (st : Nat)
    (hp : ([.sec, .ports] : List StatePart) ⊆ ps := by exact sub_of (by assumption) (by decide)) : Same ps base (stopStream s p c st) := by
  unfold stopStream
  repeat' first
    | exact Or.inr (partIn hp (by decide))
    | with_reducible exact Or.inl rfl
    | with_reducible assumption
    | with_reducible apply failLoads_same
    | with_reducible apply sendSctl_same
    | with_reducible apply modPort_same
    | with_reducible apply modCtx_same
    | with_reducible apply Same.ite
    | exact sub_of hp (by decide)
    | intro _
    | dsimp only
    | split
    | with_reducible refine Same.upd ?_ ?_ ?_ ?_ ?_ ?_ ?_ ?_ ?_ ?_ ?_ ?_ ?_ ?_ ?_ ?_ ?_ ?_ ?_ ?_ ?_ ?_ ?_ ?_ ?_ ?_ ?_ ?_

theorem sendResend_same {ps : List StatePart} {base s : State} (hk : Same ps base s) (p : Nat) (c : Nat) (b : Nat)
    (hp : ([.ports] : List StatePart) ⊆ ps := by exact sub_of (by assumption) (by decide)) : Same ps base (sendResend s p c b) := by
  unfold sendResend
  repeat' first
    | exact Or.inr (partIn hp (by decide))
    | with_reducible exact Or.inl rfl
    | with_reducible assumption
    | with_reducible apply sendSctl_same
    | with_reducible apply modCtx_same
    | exact sub_of hp (by decide)
    | intro _
    | dsimp only
    | with_reducible refine Same.upd ?_ ?_ ?_ ?_ ?_ ?_ ?_ ?_ ?_ ?_ ?_ ?_ ?_ ?_ ?_ ?_ ?_ ?_ ?_ ?_ ?_ ?_ ?_ ?_ ?_ ?_ ?_ ?_

theorem slotFreed_same {ps : List StatePart} {base s : State} (hk : Same ps base s) (p : Nat)
    (hp : ([.ports] : List StatePart) ⊆ ps := by exact sub_of (by assumption) (by decide)) : Same ps base (slotFreed s p) := by
  refine Same.foldl hk (fun t x ht => ?_)
  dsimp only
  split
  · exact Same.ite (sendResend_same (modCtx_same ht _ _ _) _ _ _) ht
  · exact ht

theorem cancelBound_same {ps : List StatePart} {base s : State} (hk : Same ps base s) 
    (hp : ([.sec, .ports] : List StatePart) ⊆ ps := by exact sub_of (by assumption) (by decide)) : Same ps base (cancelBound s) := by
  unfold cancelBound
  repeat' first
    | with_reducible assumption
    | with_reducible apply stopStream_same
    | with_reducible apply slotFreed_same
    | with_reducible refine Same.foldl ?_ (fun _ _ _ => ?_)
    | exact sub_of hp (by decide)
    | intro _
    | dsimp only

theorem fixHeld_same {ps : List StatePart} {base s : State} (hk : Same ps base s) 
    (hp : ([.sec] : List StatePart) ⊆ ps := by exact sub_of (by assumption) (by decide)) : Same ps base (fixHeld s) := by
  unfold fixHeld
  repeat' first
    | exact Or.inr (partIn hp (by decide))
    | with_reducible exact Or.inl rfl
    | with_reducible assumption
    | with_reducible apply Same.ite
    | exact sub_of hp (by decide)
    | intro _
    | dsimp only
    | split
    | with_reducible refine Same.upd ?_ ?_ ?_ ?_ ?_ ?_ ?_ ?_ ?_ ?_ ?_ ?_ ?_ ?_ ?_ ?_ ?_ ?_ ?_ ?_ ?_ ?_ ?_ ?_ ?_ ?_ ?_ ?_

theorem gradCheck_same {ps : List StatePart} {base s : State} (hk : Same ps base s) (c : Nat) (cause : Nat)
    (hp : ([.grm, .err, .mbx, .mars, .sheds] : List StatePart) ⊆ ps := by exact sub_of (by assumption) (by decide)) : Same ps base (gradCheck s c cause) := by
  unfold gradCheck
  repeat' first
    | exact Or.inr (partIn hp (by decide))
    | with_reducible exact Or.inl rfl
    | with_reducible assumption
    | with_reducible apply modBucket_same
    | with_reducible apply record_same
    | exact sub_of hp (by decide)
    | intro _
    | dsimp only
    | with_reducible refine Same.upd ?_ ?_ ?_ ?_ ?_ ?_ ?_ ?_ ?_ ?_ ?_ ?_ ?_ ?_ ?_ ?_ ?_ ?_ ?_ ?_ ?_ ?_ ?_ ?_ ?_ ?_ ?_ ?_

theorem bucketEnd_same {ps : List StatePart} {base s : State} (hk : Same ps base s) (clean : Bool) (c : Nat)
    (hp : ([.grm, .err, .mbx, .mars, .sheds] : List StatePart) ⊆ ps := by exact sub_of (by assumption) (by decide)) : Same ps base (bucketEnd clean s c) := by
  unfold bucketEnd
  repeat' first
    | exact Or.inr (partIn hp (by decide))
    | with_reducible exact Or.inl rfl
    | with_reducible assumption
    | with_reducible apply gradCheck_same
    | with_reducible apply modBucket_same
    | with_reducible apply Same.ite
    | exact sub_of hp (by decide)
    | intro _
    | dsimp only
    | split
    | with_reducible refine Same.upd ?_ ?_ ?_ ?_ ?_ ?_ ?_ ?_ ?_ ?_ ?_ ?_ ?_ ?_ ?_ ?_ ?_ ?_ ?_ ?_ ?_ ?_ ?_ ?_ ?_ ?_ ?_ ?_

theorem bucketsEnd_same {ps : List StatePart} {base s : State} (hk : Same ps base s) (clean : Bool)
    (hp : ([.grm, .err, .mbx, .mars, .sheds] : List StatePart) ⊆ ps := by exact sub_of (by assumption) (by decide)) : Same ps base (bucketsEnd s clean) := by
  unfold bucketsEnd
  repeat' first
    | with_reducible assumption
    | with_reducible apply bucketEnd_same
    | with_reducible refine Same.foldl ?_ (fun _ _ _ => ?_)
    | exact sub_of hp (by decide)
    | intro _
    | dsimp only

theorem abortNow_same {ps : List StatePart} {base s : State} (hk : Same ps base s) (p cause : Nat)
    (hp : ([.grm, .err, .sec, .mbx, .mars, .ports, .sheds, .stalls, .track, .fresh] : List StatePart) ⊆ ps := by exact sub_of (by assumption) (by decide)) : Same ps base (abortNow s p cause) := by
  unfold abortNow takeFresh
  with_reducible refine Same.upd ?_ ?_ ?_ ?_ ?_ ?_ ?_ ?_ ?_ ?_ ?_ ?_ ?_ ?_ ?_ ?_ ?_ ?_ ?_ ?_ ?_ ?_ ?_ ?_ ?_ ?_ ?_ ?_
  · with_reducible apply bucketsEnd_same
    · with_reducible apply cancelBound_same
      · with_reducible refine Same.upd ?_ ?_ ?_ ?_ ?_ ?_ ?_ ?_ ?_ ?_ ?_ ?_ ?_ ?_ ?_ ?_ ?_ ?_ ?_ ?_ ?_ ?_ ?_ ?_ ?_ ?_ ?_ ?_
        · with_reducible apply modPlace_same
          · with_reducible refine Same.upd hk ?_ ?_ ?_ ?_ ?_ ?_ ?_ ?_ ?_ ?_ ?_ ?_ ?_ ?_ ?_ ?_ ?_ ?_ ?_ ?_ ?_ ?_ ?_ ?_ ?_ ?_ ?_
            all_goals first | exact Or.inr (partIn hp (by decide)) | with_reducible exact Or.inl rfl
          · exact sub_of hp (by decide)
        all_goals first | exact Or.inr (partIn hp (by decide)) | with_reducible exact Or.inl rfl
      · exact sub_of hp (by decide)
    · exact sub_of hp (by decide)
  all_goals first | exact Or.inr (partIn hp (by decide)) | with_reducible exact Or.inl rfl

theorem abortLate_same {ps : List StatePart} {base s : State} (hk : Same ps base s) (cause : Nat)
    (hp : ([.grm, .err, .sec, .mbx, .sheds] : List StatePart) ⊆ ps := by exact sub_of (by assumption) (by decide)) : Same ps base (abortLate s cause) := by
  unfold abortLate
  repeat' first
    | exact Or.inr (partIn hp (by decide))
    | with_reducible exact Or.inl rfl
    | with_reducible assumption
    | with_reducible apply record_same
    | exact sub_of hp (by decide)
    | intro _
    | dsimp only
    | with_reducible refine Same.upd ?_ ?_ ?_ ?_ ?_ ?_ ?_ ?_ ?_ ?_ ?_ ?_ ?_ ?_ ?_ ?_ ?_ ?_ ?_ ?_ ?_ ?_ ?_ ?_ ?_ ?_ ?_ ?_

theorem requestAbort_same {ps : List StatePart} {base s : State} (hk : Same ps base s) (cause : Nat)
    (hp : ([.grm, .err, .sec, .mbx, .mars, .ports, .sheds, .stalls, .track, .fresh] : List StatePart) ⊆ ps := by exact sub_of (by assumption) (by decide)) : Same ps base (requestAbort s cause) := by
  unfold requestAbort
  repeat' first
    | exact Or.inr (partIn hp (by decide))
    | with_reducible exact Or.inl rfl
    | with_reducible assumption
    | with_reducible apply abortNow_same
    | with_reducible apply abortLate_same
    | exact sub_of hp (by decide)
    | intro _
    | dsimp only
    | split
    | with_reducible refine Same.upd ?_ ?_ ?_ ?_ ?_ ?_ ?_ ?_ ?_ ?_ ?_ ?_ ?_ ?_ ?_ ?_ ?_ ?_ ?_ ?_ ?_ ?_ ?_ ?_ ?_ ?_ ?_ ?_

theorem hwAbort_same {ps : List StatePart} {base s : State} (hk : Same ps base s) (cause : Nat)
    (hp : ([.grm, .err, .sec, .mbx, .mars, .ports, .sheds, .stalls, .track, .fresh] : List StatePart) ⊆ ps := by exact sub_of (by assumption) (by decide)) : Same ps base (hwAbort s cause) := by
  unfold hwAbort
  repeat' first
    | exact Or.inr (partIn hp (by decide))
    | with_reducible exact Or.inl rfl
    | with_reducible assumption
    | with_reducible apply abortNow_same
    | exact sub_of hp (by decide)
    | intro _
    | dsimp only
    | split
    | with_reducible refine Same.upd ?_ ?_ ?_ ?_ ?_ ?_ ?_ ?_ ?_ ?_ ?_ ?_ ?_ ?_ ?_ ?_ ?_ ?_ ?_ ?_ ?_ ?_ ?_ ?_ ?_ ?_ ?_ ?_

theorem stallFault_same {ps : List StatePart} {base s : State} (hk : Same ps base s) (sid : Nat) (code : Nat) (pc : Nat)
    (hp : ([.grm, .err, .sec, .mbx, .mars, .ports, .sheds, .stalls, .track, .fresh] : List StatePart) ⊆ ps := by exact sub_of (by assumption) (by decide)) : Same ps base (stallFault s sid code pc) := by
  unfold stallFault
  unfold takeFresh
  repeat' first
    | exact Or.inr (partIn hp (by decide))
    | with_reducible exact Or.inl rfl
    | with_reducible assumption
    | with_reducible apply hwAbort_same
    | with_reducible apply modStall_same
    | with_reducible apply modShed_same
    | with_reducible apply record_same
    | with_reducible apply Same.ite
    | exact sub_of hp (by decide)
    | intro _
    | dsimp only
    | split
    | with_reducible refine Same.upd ?_ ?_ ?_ ?_ ?_ ?_ ?_ ?_ ?_ ?_ ?_ ?_ ?_ ?_ ?_ ?_ ?_ ?_ ?_ ?_ ?_ ?_ ?_ ?_ ?_ ?_ ?_ ?_

/-! Operands. -/

theorem progress_same {ps : List StatePart} {base s : State} (hk : Same ps base s) (sid : Nat)
    (hp : ([.sheds] : List StatePart) ⊆ ps := by exact sub_of (by assumption) (by decide)) : Same ps base (progress s sid) := by
  unfold progress
  repeat' first
    | exact Or.inr (partIn hp (by decide))
    | with_reducible exact Or.inl rfl
    | with_reducible assumption
    | with_reducible apply modShed_same
    | with_reducible apply Same.ite
    | exact sub_of hp (by decide)
    | intro _
    | dsimp only
    | split
    | with_reducible refine Same.upd ?_ ?_ ?_ ?_ ?_ ?_ ?_ ?_ ?_ ?_ ?_ ?_ ?_ ?_ ?_ ?_ ?_ ?_ ?_ ?_ ?_ ?_ ?_ ?_ ?_ ?_ ?_ ?_

theorem passCycles_same {ps : List StatePart} {base s : State} (hk : Same ps base s) (sid : Nat) (n : Nat)
    (hp : ([.stalls] : List StatePart) ⊆ ps := by exact sub_of (by assumption) (by decide)) : Same ps base (passCycles s sid n) := by
  unfold passCycles
  repeat' first
    | exact Or.inr (partIn hp (by decide))
    | with_reducible exact Or.inl rfl
    | with_reducible assumption
    | with_reducible apply modSeq_same
    | exact sub_of hp (by decide)
    | intro _
    | dsimp only
    | with_reducible refine Same.upd ?_ ?_ ?_ ?_ ?_ ?_ ?_ ?_ ?_ ?_ ?_ ?_ ?_ ?_ ?_ ?_ ?_ ?_ ?_ ?_ ?_ ?_ ?_ ?_ ?_ ?_ ?_ ?_

theorem passFree_same {ps : List StatePart} {base s : State} (hk : Same ps base s) (sid : Nat)
    (hp : ([.stalls, .fresh] : List StatePart) ⊆ ps := by exact sub_of (by assumption) (by decide)) : Same ps base (passFree s sid) := by
  unfold passFree
  unfold takeFresh
  repeat' first
    | exact Or.inr (partIn hp (by decide))
    | with_reducible exact Or.inl rfl
    | with_reducible assumption
    | with_reducible apply passCycles_same
    | exact sub_of hp (by decide)
    | intro _
    | dsimp only
    | split
    | with_reducible refine Same.upd ?_ ?_ ?_ ?_ ?_ ?_ ?_ ?_ ?_ ?_ ?_ ?_ ?_ ?_ ?_ ?_ ?_ ?_ ?_ ?_ ?_ ?_ ?_ ?_ ?_ ?_ ?_ ?_

theorem retireAt_same {ps : List StatePart} {base s : State} (hk : Same ps base s) (sid : Nat) (pc : Nat) (loops : List Loop) (cost : Nat)
    (hp : ([.sheds, .stalls] : List StatePart) ⊆ ps := by exact sub_of (by assumption) (by decide)) : Same ps base (retireAt s sid pc loops cost) := by
  unfold retireAt
  repeat' first
    | exact Or.inr (partIn hp (by decide))
    | with_reducible exact Or.inl rfl
    | with_reducible assumption
    | with_reducible apply progress_same
    | with_reducible apply modSeq_same
    | exact sub_of hp (by decide)
    | intro _
    | dsimp only
    | with_reducible refine Same.upd ?_ ?_ ?_ ?_ ?_ ?_ ?_ ?_ ?_ ?_ ?_ ?_ ?_ ?_ ?_ ?_ ?_ ?_ ?_ ?_ ?_ ?_ ?_ ?_ ?_ ?_ ?_ ?_

theorem goOn_same {ps : List StatePart} {base s : State} (hk : Same ps base s) (sid : Nat) (pc : Nat) (at' : Nat) (cost : Nat)
    (hp : ([.grm, .err, .sec, .mbx, .mars, .ports, .sheds, .stalls, .track, .fresh] : List StatePart) ⊆ ps := by exact sub_of (by assumption) (by decide)) : Same ps base (goOn s sid pc at' cost) := by
  unfold goOn
  repeat' first
    | with_reducible assumption
    | with_reducible apply stallFault_same
    | with_reducible apply retireAt_same
    | with_reducible apply Same.ite
    | exact sub_of hp (by decide)
    | intro _
    | dsimp only
    | split

theorem finishWord_same {ps : List StatePart} {base : State} {e : WordEnd} (he : WordSame ps base e) (sid pc : Nat)
    (hp : ([.grm, .err, .sec, .mbx, .mars, .ports, .sheds, .stalls, .track, .fresh] : List StatePart) ⊆ ps := by exact sub_of (by assumption) (by decide)) : Same ps base (finishWord sid pc e) := by
  cases e
  case retire s cost port => exact goOn_same (Same.ite (passFree_same he _) he) _ _ _ _
  case jump => exact retireAt_same he _ _ _ _
  case skipTo => exact goOn_same he _ _ _ _
  case hold s r => exact modSeq_same (s := passFree s sid) (passFree_same he _) sid (fun q => { q with run := r })
  case fault => exact stallFault_same he _ _ _
  case done => exact he

theorem issueWord_same {ps : List StatePart} {base s : State} (hk : Same ps base s) (sid op : Nat) {body : Stall → Nat → WordEnd}
    (hb : ∀ t w, WordSame ps base (body t w)) (hp : ([.grm, .err, .sec, .mbx, .mars, .ports, .sheds, .stalls, .track, .fresh] : List StatePart) ⊆ ps := by exact sub_of (by assumption) (by decide)) : Same ps base (issueWord s sid op body) :=
  Same.ite (Same.ite (stallFault_same hk _ _ _) (Same.ite (finishWord_same (hb _ _) _ _) hk)) hk

theorem putStall_same {ps : List StatePart} {base s : State} (hk : Same ps base s) (sid : Nat) (t : Stall)
    (hp : ([.stalls] : List StatePart) ⊆ ps := by exact sub_of (by assumption) (by decide)) : Same ps base (putStall s sid t) := by
  unfold putStall
  repeat' first
    | exact Or.inr (partIn hp (by decide))
    | with_reducible exact Or.inl rfl
    | with_reducible assumption
    | exact sub_of hp (by decide)
    | intro _
    | dsimp only
    | with_reducible refine Same.upd ?_ ?_ ?_ ?_ ?_ ?_ ?_ ?_ ?_ ?_ ?_ ?_ ?_ ?_ ?_ ?_ ?_ ?_ ?_ ?_ ?_ ?_ ?_ ?_ ?_ ?_ ?_ ?_

end Sys2Proof.Machine
end

