-- ==== Sys2Proof/Laws/SameWords.lean ====
section
/-! SUPPORT. Which parts of the state the routine words and the operations under them can change (Safety, `Same`). -/

set_option Elab.async false
set_option linter.all false

namespace Sys2Proof.Machine

/-! Control. -/

theorem execNop_same {ps : List StatePart} {base s : State} (hk : Same ps base s) (sid : StallId)
    (hp : ([.grm, .err, .sec, .mbx, .mars, .ports, .sheds, .stalls, .track, .fresh] : List StatePart) ⊆ ps := by exact sub_of (by assumption) (by decide)) : OutSame ps base (execNop sid s) := by
  unfold execNop
  repeat' first
    | with_reducible assumption
    | with_reducible apply issueWord_same
    | with_reducible apply Same.ite
    | with_reducible apply WordSame.ite
    | with_reducible apply WordSame.retire
    | with_reducible apply WordSame.fault
    | with_reducible apply OutSame.next
    | exact sub_of hp (by decide)
    | intro _
    | dsimp only
    | split

theorem execEnd_same {ps : List StatePart} {base s : State} (hk : Same ps base s) (sid : StallId)
    (hp : ([.grm, .err, .sec, .mbx, .mars, .ports, .sheds, .stalls, .track, .fresh] : List StatePart) ⊆ ps := by exact sub_of (by assumption) (by decide)) : OutSame ps base (execEnd sid s) := by
  unfold execEnd
  repeat' first
    | with_reducible assumption
    | with_reducible apply progress_same
    | with_reducible apply issueWord_same
    | with_reducible apply putStall_same
    | with_reducible apply Same.ite
    | with_reducible apply WordSame.ite
    | with_reducible apply WordSame.hold
    | with_reducible apply WordSame.fault
    | with_reducible apply WordSame.done
    | with_reducible apply OutSame.next
    | exact sub_of hp (by decide)
    | intro _
    | dsimp only
    | split

theorem execLoop_same {ps : List StatePart} {base s : State} (hk : Same ps base s) (sid : StallId)
    (hp : ([.grm, .err, .sec, .mbx, .mars, .ports, .sheds, .stalls, .track, .fresh] : List StatePart) ⊆ ps := by exact sub_of (by assumption) (by decide)) : OutSame ps base (execLoop sid s) := by
  unfold execLoop
  repeat' first
    | exact Or.inr (partIn hp (by decide))
    | with_reducible exact Or.inl rfl
    | with_reducible assumption
    | with_reducible apply issueWord_same
    | with_reducible apply modSeq_same
    | with_reducible apply Same.ite
    | with_reducible apply WordSame.ite
    | with_reducible apply WordSame.retire
    | with_reducible apply WordSame.skipTo
    | with_reducible apply WordSame.fault
    | with_reducible apply OutSame.next
    | exact sub_of hp (by decide)
    | intro _
    | dsimp only
    | split
    | with_reducible refine Same.upd ?_ ?_ ?_ ?_ ?_ ?_ ?_ ?_ ?_ ?_ ?_ ?_ ?_ ?_ ?_ ?_ ?_ ?_ ?_ ?_ ?_ ?_ ?_ ?_ ?_ ?_ ?_ ?_

theorem brtWord_same {ps : List StatePart} {base s : State} (hk : Same ps base s) (sid : Nat) (t : Stall) (w : Nat)
    (hp : ([] : List StatePart) ⊆ ps := by exact sub_of (by assumption) (by decide)) : WordSame ps base (brtWord s sid t w) := by
  unfold brtWord
  repeat' first
    | with_reducible assumption
    | with_reducible apply Same.ite
    | with_reducible apply WordSame.ite
    | with_reducible apply WordSame.retire
    | with_reducible apply WordSame.jump
    | with_reducible apply WordSame.hold
    | with_reducible apply WordSame.fault
    | exact sub_of hp (by decide)
    | intro _
    | dsimp only
    | split

theorem execBrt_same {ps : List StatePart} {base s : State} (hk : Same ps base s) (sid : StallId)
    (hp : ([.grm, .err, .sec, .mbx, .mars, .ports, .sheds, .stalls, .track, .fresh] : List StatePart) ⊆ ps := by exact sub_of (by assumption) (by decide)) : OutSame ps base (execBrt sid s) := by
  unfold execBrt
  repeat' first
    | with_reducible assumption
    | with_reducible apply brtWord_same
    | with_reducible apply issueWord_same
    | with_reducible apply Same.ite
    | with_reducible apply WordSame.ite
    | with_reducible apply OutSame.next
    | exact sub_of hp (by decide)
    | intro _
    | dsimp only
    | split

theorem execBrtWaitSatisfied_same {ps : List StatePart} {base s : State} (hk : Same ps base s) (sid : StallId)
    (hp : ([.grm, .err, .sec, .mbx, .mars, .ports, .sheds, .stalls, .track, .fresh] : List StatePart) ⊆ ps := by exact sub_of (by assumption) (by decide)) : OutSame ps base (execBrtWaitSatisfied sid s) := by
  refine Same.ite (issueWord_same hk _ _ (fun t w => ?_)) hk
  have h := brtWord_same hk sid t w
  revert h
  cases brtWord s sid t w <;> intro h
  case hold => exact hk
  all_goals exact h

theorem execBr_same {ps : List StatePart} {base s : State} (hk : Same ps base s) (sid : StallId)
    (hp : ([.grm, .err, .sec, .mbx, .mars, .ports, .sheds, .stalls, .track, .fresh] : List StatePart) ⊆ ps := by exact sub_of (by assumption) (by decide)) : OutSame ps base (execBr sid s) := by
  unfold execBr
  repeat' first
    | with_reducible assumption
    | with_reducible apply issueWord_same
    | with_reducible apply Same.ite
    | with_reducible apply WordSame.ite
    | with_reducible apply WordSame.retire
    | with_reducible apply WordSame.jump
    | with_reducible apply WordSame.fault
    | with_reducible apply OutSame.next
    | exact sub_of hp (by decide)
    | intro _
    | dsimp only
    | split

theorem execJmp_same {ps : List StatePart} {base s : State} (hk : Same ps base s) (sid : StallId)
    (hp : ([.grm, .err, .sec, .mbx, .mars, .ports, .sheds, .stalls, .track, .fresh] : List StatePart) ⊆ ps := by exact sub_of (by assumption) (by decide)) : OutSame ps base (execJmp sid s) := by
  unfold execJmp
  repeat' first
    | with_reducible assumption
    | with_reducible apply issueWord_same
    | with_reducible apply Same.ite
    | with_reducible apply WordSame.ite
    | with_reducible apply WordSame.jump
    | with_reducible apply WordSame.fault
    | with_reducible apply OutSame.next
    | exact sub_of hp (by decide)
    | intro _
    | dsimp only
    | split

theorem countNopart_same {ps : List StatePart} {base s : State} (hk : Same ps base s) (sid : Nat)
    (hp : ([.sheds] : List StatePart) ⊆ ps := by exact sub_of (by assumption) (by decide)) : Same ps base (countNopart s sid) := by
  unfold countNopart
  repeat' first
    | exact Or.inr (partIn hp (by decide))
    | with_reducible exact Or.inl rfl
    | with_reducible assumption
    | with_reducible apply modShed_same
    | exact sub_of hp (by decide)
    | intro _
    | dsimp only
    | with_reducible refine Same.upd ?_ ?_ ?_ ?_ ?_ ?_ ?_ ?_ ?_ ?_ ?_ ?_ ?_ ?_ ?_ ?_ ?_ ?_ ?_ ?_ ?_ ?_ ?_ ?_ ?_ ?_ ?_ ?_

theorem execWaitg_same {ps : List StatePart} {base s : State} (hk : Same ps base s) (sid : StallId)
    (hp : ([.grm, .err, .sec, .mbx, .mars, .ports, .sheds, .stalls, .track, .fresh] : List StatePart) ⊆ ps := by exact sub_of (by assumption) (by decide)) : OutSame ps base (execWaitg sid s) := by
  unfold execWaitg
  repeat' first
    | exact Or.inr (partIn hp (by decide))
    | with_reducible exact Or.inl rfl
    | with_reducible assumption
    | with_reducible apply countNopart_same
    | with_reducible apply issueWord_same
    | with_reducible apply Same.ite
    | with_reducible apply WordSame.ite
    | with_reducible apply WordSame.retire
    | with_reducible apply WordSame.hold
    | with_reducible apply WordSame.fault
    | with_reducible apply OutSame.next
    | exact sub_of hp (by decide)
    | intro _
    | dsimp only
    | split
    | with_reducible refine Same.upd ?_ ?_ ?_ ?_ ?_ ?_ ?_ ?_ ?_ ?_ ?_ ?_ ?_ ?_ ?_ ?_ ?_ ?_ ?_ ?_ ?_ ?_ ?_ ?_ ?_ ?_ ?_ ?_

theorem execArrive_same {ps : List StatePart} {base s : State} (hk : Same ps base s) (sid : StallId)
    (hp : ([.grm, .err, .sec, .mbx, .mars, .ports, .sheds, .stalls, .track, .fresh] : List StatePart) ⊆ ps := by exact sub_of (by assumption) (by decide)) : OutSame ps base (execArrive sid s) := by
  unfold execArrive
  repeat' first
    | exact Or.inr (partIn hp (by decide))
    | with_reducible exact Or.inl rfl
    | with_reducible assumption
    | with_reducible apply countNopart_same
    | with_reducible apply issueWord_same
    | with_reducible apply modStall_same
    | with_reducible apply Same.ite
    | with_reducible apply WordSame.ite
    | with_reducible apply WordSame.retire
    | with_reducible apply WordSame.hold
    | with_reducible apply WordSame.fault
    | with_reducible apply OutSame.next
    | exact sub_of hp (by decide)
    | intro _
    | dsimp only
    | split
    | with_reducible refine Same.upd ?_ ?_ ?_ ?_ ?_ ?_ ?_ ?_ ?_ ?_ ?_ ?_ ?_ ?_ ?_ ?_ ?_ ?_ ?_ ?_ ?_ ?_ ?_ ?_ ?_ ?_ ?_ ?_

/-! Moves. -/

theorem parity_same {ps : List StatePart} {base s : State} (hk : Same ps base s) (sid : Nat) (par : Bool)
    (hp : ([.grm, .err, .mbx, .sheds] : List StatePart) ⊆ ps := by exact sub_of (by assumption) (by decide)) : Same ps base (parity s sid par) := by
  unfold parity
  repeat' first
    | with_reducible assumption
    | with_reducible apply record_same
    | with_reducible apply Same.ite
    | exact sub_of hp (by decide)
    | intro _
    | dsimp only
    | split

theorem brandFails_same {ps : List StatePart} {base s : State} (hk : Same ps base s) (sid n : Nat)
    (hp : ([.grm, .err, .mbx, .sheds] : List StatePart) ⊆ ps := by exact sub_of (by assumption) (by decide)) : Same ps base (brandFails s sid n) := by
  induction n generalizing s with
  | zero => exact hk
  | succ n ih => exact ih (record_same hk _ _)

theorem execMov_same {ps : List StatePart} {base s : State} (hk : Same ps base s) (sid : StallId) (par : Bool)
    (hp : ([.grm, .err, .sec, .mbx, .mars, .ports, .sheds, .stalls, .track, .fresh] : List StatePart) ⊆ ps := by exact sub_of (by assumption) (by decide)) : OutSame ps base (execMov sid par s) := by
  unfold execMov
  repeat' first
    | exact Or.inr (partIn hp (by decide))
    | with_reducible exact Or.inl rfl
    | with_reducible assumption
    | with_reducible apply parity_same
    | with_reducible apply brandFails_same
    | with_reducible apply issueWord_same
    | with_reducible apply putStall_same
    | with_reducible apply Same.ite
    | with_reducible apply WordSame.ite
    | with_reducible apply WordSame.retire
    | with_reducible apply WordSame.hold
    | with_reducible apply WordSame.fault
    | with_reducible apply OutSame.next
    | exact sub_of hp (by decide)
    | intro _
    | dsimp only
    | split
    | with_reducible refine Same.upd ?_ ?_ ?_ ?_ ?_ ?_ ?_ ?_ ?_ ?_ ?_ ?_ ?_ ?_ ?_ ?_ ?_ ?_ ?_ ?_ ?_ ?_ ?_ ?_ ?_ ?_ ?_ ?_

theorem execMovq_same {ps : List StatePart} {base s : State} (hk : Same ps base s) (sid : StallId)
    (hp : ([.grm, .err, .sec, .mbx, .mars, .ports, .sheds, .stalls, .track, .fresh] : List StatePart) ⊆ ps := by exact sub_of (by assumption) (by decide)) : OutSame ps base (execMovq sid s) := by
  unfold execMovq
  repeat' first
    | exact Or.inr (partIn hp (by decide))
    | with_reducible exact Or.inl rfl
    | with_reducible assumption
    | with_reducible apply issueWord_same
    | with_reducible apply putStall_same
    | with_reducible apply Same.ite
    | with_reducible apply WordSame.ite
    | with_reducible apply WordSame.retire
    | with_reducible apply WordSame.hold
    | with_reducible apply WordSame.fault
    | with_reducible apply OutSame.next
    | exact sub_of hp (by decide)
    | intro _
    | dsimp only
    | split
    | with_reducible refine Same.upd ?_ ?_ ?_ ?_ ?_ ?_ ?_ ?_ ?_ ?_ ?_ ?_ ?_ ?_ ?_ ?_ ?_ ?_ ?_ ?_ ?_ ?_ ?_ ?_ ?_ ?_ ?_ ?_

theorem execMovqs_same {ps : List StatePart} {base s : State} (hk : Same ps base s) (sid : StallId)
    (hp : ([.grm, .err, .sec, .mbx, .mars, .ports, .sheds, .stalls, .track, .fresh] : List StatePart) ⊆ ps := by exact sub_of (by assumption) (by decide)) : OutSame ps base (execMovqs sid s) := by
  unfold execMovqs
  repeat' first
    | exact Or.inr (partIn hp (by decide))
    | with_reducible exact Or.inl rfl
    | with_reducible assumption
    | with_reducible apply issueWord_same
    | with_reducible apply putStall_same
    | with_reducible apply Same.ite
    | with_reducible apply WordSame.ite
    | with_reducible apply WordSame.retire
    | with_reducible apply WordSame.fault
    | with_reducible apply OutSame.next
    | exact sub_of hp (by decide)
    | intro _
    | dsimp only
    | split
    | with_reducible refine Same.upd ?_ ?_ ?_ ?_ ?_ ?_ ?_ ?_ ?_ ?_ ?_ ?_ ?_ ?_ ?_ ?_ ?_ ?_ ?_ ?_ ?_ ?_ ?_ ?_ ?_ ?_ ?_ ?_

theorem execQrel_same {ps : List StatePart} {base s : State} (hk : Same ps base s) (sid : StallId)
    (hp : ([.grm, .err, .sec, .mbx, .mars, .ports, .sheds, .stalls, .track, .fresh] : List StatePart) ⊆ ps := by exact sub_of (by assumption) (by decide)) : OutSame ps base (execQrel sid s) := by
  unfold execQrel
  repeat' first
    | with_reducible assumption
    | with_reducible apply issueWord_same
    | with_reducible apply putStall_same
    | with_reducible apply Same.ite
    | with_reducible apply WordSame.ite
    | with_reducible apply WordSame.retire
    | with_reducible apply WordSame.fault
    | with_reducible apply OutSame.next
    | exact sub_of hp (by decide)
    | intro _
    | dsimp only
    | split

theorem execLds_same {ps : List StatePart} {base s : State} (hk : Same ps base s) (sid : StallId) (par : Bool)
    (hp : ([.grm, .err, .sec, .mbx, .mars, .ports, .sheds, .stalls, .track, .fresh] : List StatePart) ⊆ ps := by exact sub_of (by assumption) (by decide)) : OutSame ps base (execLds sid par s) := by
  unfold execLds
  repeat' first
    | exact Or.inr (partIn hp (by decide))
    | with_reducible exact Or.inl rfl
    | with_reducible assumption
    | with_reducible apply parity_same
    | with_reducible apply issueWord_same
    | with_reducible apply putStall_same
    | with_reducible apply Same.ite
    | with_reducible apply WordSame.ite
    | with_reducible apply WordSame.retire
    | with_reducible apply WordSame.fault
    | with_reducible apply OutSame.next
    | exact sub_of hp (by decide)
    | intro _
    | dsimp only
    | split
    | with_reducible refine Same.upd ?_ ?_ ?_ ?_ ?_ ?_ ?_ ?_ ?_ ?_ ?_ ?_ ?_ ?_ ?_ ?_ ?_ ?_ ?_ ?_ ?_ ?_ ?_ ?_ ?_ ?_ ?_ ?_

theorem execSts_same {ps : List StatePart} {base s : State} (hk : Same ps base s) (sid : StallId)
    (hp : ([.grm, .err, .sec, .mbx, .mars, .ports, .sheds, .stalls, .track, .fresh] : List StatePart) ⊆ ps := by exact sub_of (by assumption) (by decide)) : OutSame ps base (execSts sid s) := by
  unfold execSts
  repeat' first
    | exact Or.inr (partIn hp (by decide))
    | with_reducible exact Or.inl rfl
    | with_reducible assumption
    | with_reducible apply issueWord_same
    | with_reducible apply putStall_same
    | with_reducible apply Same.ite
    | with_reducible apply WordSame.ite
    | with_reducible apply WordSame.retire
    | with_reducible apply WordSame.hold
    | with_reducible apply WordSame.fault
    | with_reducible apply OutSame.next
    | exact sub_of hp (by decide)
    | intro _
    | dsimp only
    | split
    | with_reducible refine Same.upd ?_ ?_ ?_ ?_ ?_ ?_ ?_ ?_ ?_ ?_ ?_ ?_ ?_ ?_ ?_ ?_ ?_ ?_ ?_ ?_ ?_ ?_ ?_ ?_ ?_ ?_ ?_ ?_

theorem execAgb_same {ps : List StatePart} {base s : State} (hk : Same ps base s) (sid : StallId)
    (hp : ([.grm, .err, .sec, .mbx, .mars, .ports, .sheds, .stalls, .track, .fresh] : List StatePart) ⊆ ps := by exact sub_of (by assumption) (by decide)) : OutSame ps base (execAgb sid s) := by
  unfold execAgb
  repeat' first
    | exact Or.inr (partIn hp (by decide))
    | with_reducible exact Or.inl rfl
    | with_reducible assumption
    | with_reducible apply issueWord_same
    | with_reducible apply putStall_same
    | with_reducible apply Same.ite
    | with_reducible apply WordSame.ite
    | with_reducible apply WordSame.retire
    | with_reducible apply WordSame.hold
    | with_reducible apply WordSame.fault
    | with_reducible apply OutSame.next
    | exact sub_of hp (by decide)
    | intro _
    | dsimp only
    | split
    | with_reducible refine Same.upd ?_ ?_ ?_ ?_ ?_ ?_ ?_ ?_ ?_ ?_ ?_ ?_ ?_ ?_ ?_ ?_ ?_ ?_ ?_ ?_ ?_ ?_ ?_ ?_ ?_ ?_ ?_ ?_

theorem execAgs_same {ps : List StatePart} {base s : State} (hk : Same ps base s) (sid : StallId)
    (hp : ([.grm, .err, .sec, .mbx, .mars, .ports, .sheds, .stalls, .track, .fresh] : List StatePart) ⊆ ps := by exact sub_of (by assumption) (by decide)) : OutSame ps base (execAgs sid s) := by
  unfold execAgs
  repeat' first
    | exact Or.inr (partIn hp (by decide))
    | with_reducible exact Or.inl rfl
    | with_reducible assumption
    | with_reducible apply issueWord_same
    | with_reducible apply putStall_same
    | with_reducible apply Same.ite
    | with_reducible apply WordSame.ite
    | with_reducible apply WordSame.retire
    | with_reducible apply WordSame.hold
    | with_reducible apply WordSame.fault
    | with_reducible apply OutSame.next
    | exact sub_of hp (by decide)
    | intro _
    | dsimp only
    | split
    | with_reducible refine Same.upd ?_ ?_ ?_ ?_ ?_ ?_ ?_ ?_ ?_ ?_ ?_ ?_ ?_ ?_ ?_ ?_ ?_ ?_ ?_ ?_ ?_ ?_ ?_ ?_ ?_ ?_ ?_ ?_

/-! Tallies. -/

theorem setTally_same {ps : List StatePart} {base s : State} (hk : Same ps base s) (sid : Nat) (k : Nat) (v : Nat)
    (hp : ([.stalls] : List StatePart) ⊆ ps := by exact sub_of (by assumption) (by decide)) : Same ps base (setTally s sid k v) := by
  unfold setTally
  repeat' first
    | exact Or.inr (partIn hp (by decide))
    | with_reducible exact Or.inl rfl
    | with_reducible assumption
    | with_reducible apply modQu_same
    | exact sub_of hp (by decide)
    | intro _
    | dsimp only
    | with_reducible refine Same.upd ?_ ?_ ?_ ?_ ?_ ?_ ?_ ?_ ?_ ?_ ?_ ?_ ?_ ?_ ?_ ?_ ?_ ?_ ?_ ?_ ?_ ?_ ?_ ?_ ?_ ?_ ?_ ?_

theorem tallyDrift_same {ps : List StatePart} {base s : State} (hk : Same ps base s) (sid : Nat) (k : Nat)
    (hp : ([.grm, .err, .mbx, .sheds] : List StatePart) ⊆ ps := by exact sub_of (by assumption) (by decide)) : Same ps base (tallyDrift s sid k) := by
  unfold tallyDrift
  repeat' first
    | exact Or.inr (partIn hp (by decide))
    | with_reducible exact Or.inl rfl
    | with_reducible assumption
    | with_reducible apply modShed_same
    | with_reducible apply record_same
    | with_reducible apply Same.ite
    | exact sub_of hp (by decide)
    | intro _
    | dsimp only
    | split
    | with_reducible refine Same.upd ?_ ?_ ?_ ?_ ?_ ?_ ?_ ?_ ?_ ?_ ?_ ?_ ?_ ?_ ?_ ?_ ?_ ?_ ?_ ?_ ?_ ?_ ?_ ?_ ?_ ?_ ?_ ?_

theorem tallyUnder_same {ps : List StatePart} {base s : State} (hk : Same ps base s) (sid : Nat) (k : Nat)
    (hp : ([.grm, .err, .mbx, .sheds] : List StatePart) ⊆ ps := by exact sub_of (by assumption) (by decide)) : Same ps base (tallyUnder s sid k) := by
  unfold tallyUnder
  repeat' first
    | exact Or.inr (partIn hp (by decide))
    | with_reducible exact Or.inl rfl
    | with_reducible assumption
    | with_reducible apply modShed_same
    | with_reducible apply record_same
    | with_reducible apply Same.ite
    | exact sub_of hp (by decide)
    | intro _
    | dsimp only
    | split
    | with_reducible refine Same.upd ?_ ?_ ?_ ?_ ?_ ?_ ?_ ?_ ?_ ?_ ?_ ?_ ?_ ?_ ?_ ?_ ?_ ?_ ?_ ?_ ?_ ?_ ?_ ?_ ?_ ?_ ?_ ?_

theorem gateLeftOpen_same {ps : List StatePart} {base s : State} (hk : Same ps base s) (sid : Nat) (line : Nat)
    (hp : ([.grm, .err, .mbx, .sheds] : List StatePart) ⊆ ps := by exact sub_of (by assumption) (by decide)) : Same ps base (gateLeftOpen s sid line) := by
  unfold gateLeftOpen
  repeat' first
    | exact Or.inr (partIn hp (by decide))
    | with_reducible exact Or.inl rfl
    | with_reducible assumption
    | with_reducible apply modShed_same
    | with_reducible apply record_same
    | with_reducible apply Same.ite
    | exact sub_of hp (by decide)
    | intro _
    | dsimp only
    | split
    | with_reducible refine Same.upd ?_ ?_ ?_ ?_ ?_ ?_ ?_ ?_ ?_ ?_ ?_ ?_ ?_ ?_ ?_ ?_ ?_ ?_ ?_ ?_ ?_ ?_ ?_ ?_ ?_ ?_ ?_ ?_

theorem tallyUp_same {ps : List StatePart} {base s : State} (hk : Same ps base s) (sid : Nat) (k : Nat) (n : Nat)
    (hp : ([.grm, .err, .mbx, .sheds, .stalls] : List StatePart) ⊆ ps := by exact sub_of (by assumption) (by decide)) : Same ps base (tallyUp s sid k n) := by
  unfold tallyUp
  repeat' first
    | with_reducible assumption
    | with_reducible apply setTally_same
    | with_reducible apply tallyDrift_same
    | with_reducible apply Same.ite
    | exact sub_of hp (by decide)
    | intro _
    | dsimp only
    | split

theorem tallyDown_same {ps : List StatePart} {base s : State} (hk : Same ps base s) (sid : Nat) (k : Nat) (n : Nat)
    (hp : ([.grm, .err, .mbx, .sheds, .stalls] : List StatePart) ⊆ ps := by exact sub_of (by assumption) (by decide)) : Same ps base (tallyDown s sid k n) := by
  unfold tallyDown
  repeat' first
    | with_reducible assumption
    | with_reducible apply setTally_same
    | with_reducible apply tallyUnder_same
    | with_reducible apply Same.ite
    | exact sub_of hp (by decide)
    | intro _
    | dsimp only
    | split

theorem tallyWord_same {ps : List StatePart} {base s : State} (hk : Same ps base s) (sid : Nat) {change : State → Nat → Nat → Nat → State}
    (hc : ∀ a b c, Same ps base (change s a b c)) (t : Stall) (w : Nat) : WordSame ps base (tallyWord s sid change t w) := by
  unfold tallyWord
  dsimp only
  with_reducible apply WordSame.ite
  · exact hk
  · exact hc _ _ _

theorem execTinc_same {ps : List StatePart} {base s : State} (hk : Same ps base s) (sid : StallId)
    (hp : ([.grm, .err, .sec, .mbx, .mars, .ports, .sheds, .stalls, .track, .fresh] : List StatePart) ⊆ ps := by exact sub_of (by assumption) (by decide)) : OutSame ps base (execTinc sid s) :=
  issueWord_same hk _ _ (tallyWord_same hk _ (fun _ _ _ => tallyUp_same hk _ _ _))

theorem execTdec_same {ps : List StatePart} {base s : State} (hk : Same ps base s) (sid : StallId)
    (hp : ([.grm, .err, .sec, .mbx, .mars, .ports, .sheds, .stalls, .track, .fresh] : List StatePart) ⊆ ps := by exact sub_of (by assumption) (by decide)) : OutSame ps base (execTdec sid s) :=
  issueWord_same hk _ _ (tallyWord_same hk _ (fun _ _ _ => tallyDown_same hk _ _ _))

theorem execTrd_same {ps : List StatePart} {base s : State} (hk : Same ps base s) (sid : StallId)
    (hp : ([.grm, .err, .sec, .mbx, .mars, .ports, .sheds, .stalls, .track, .fresh] : List StatePart) ⊆ ps := by exact sub_of (by assumption) (by decide)) : OutSame ps base (execTrd sid s) := by
  unfold execTrd
  repeat' first
    | with_reducible assumption
    | with_reducible apply issueWord_same
    | with_reducible apply putStall_same
    | with_reducible apply Same.ite
    | with_reducible apply WordSame.ite
    | with_reducible apply WordSame.retire
    | with_reducible apply WordSame.fault
    | with_reducible apply OutSame.next
    | exact sub_of hp (by decide)
    | intro _
    | dsimp only
    | split

theorem execTset_same {ps : List StatePart} {base s : State} (hk : Same ps base s) (sid : StallId)
    (hp : ([.grm, .err, .sec, .mbx, .mars, .ports, .sheds, .stalls, .track, .fresh] : List StatePart) ⊆ ps := by exact sub_of (by assumption) (by decide)) : OutSame ps base (execTset sid s) := by
  unfold execTset
  repeat' first
    | with_reducible assumption
    | with_reducible apply issueWord_same
    | with_reducible apply setTally_same
    | with_reducible apply Same.ite
    | with_reducible apply WordSame.ite
    | with_reducible apply WordSame.retire
    | with_reducible apply WordSame.fault
    | with_reducible apply OutSame.next
    | exact sub_of hp (by decide)
    | intro _
    | dsimp only
    | split

/-! Misc. -/

theorem execBrand_same {ps : List StatePart} {base s : State} (hk : Same ps base s) (sid : StallId)
    (hp : ([.grm, .err, .sec, .mbx, .mars, .ports, .sheds, .stalls, .track, .fresh] : List StatePart) ⊆ ps := by exact sub_of (by assumption) (by decide)) : OutSame ps base (execBrand sid s) := by
  unfold execBrand
  repeat' first
    | exact Or.inr (partIn hp (by decide))
    | with_reducible exact Or.inl rfl
    | with_reducible assumption
    | with_reducible apply brandFails_same
    | with_reducible apply issueWord_same
    | with_reducible apply putStall_same
    | with_reducible apply modStall_same
    | with_reducible apply Same.ite
    | with_reducible apply WordSame.ite
    | with_reducible apply WordSame.retire
    | with_reducible apply WordSame.hold
    | with_reducible apply WordSame.fault
    | with_reducible apply OutSame.next
    | exact sub_of hp (by decide)
    | intro _
    | dsimp only
    | split
    | with_reducible refine Same.upd ?_ ?_ ?_ ?_ ?_ ?_ ?_ ?_ ?_ ?_ ?_ ?_ ?_ ?_ ?_ ?_ ?_ ?_ ?_ ?_ ?_ ?_ ?_ ?_ ?_ ?_ ?_ ?_

theorem execBallast_same {ps : List StatePart} {base s : State} (hk : Same ps base s) (sid : StallId)
    (hp : ([.grm, .err, .sec, .mbx, .mars, .ports, .sheds, .stalls, .track, .fresh] : List StatePart) ⊆ ps := by exact sub_of (by assumption) (by decide)) : OutSame ps base (execBallast sid s) := by
  unfold execBallast
  repeat' first
    | exact Or.inr (partIn hp (by decide))
    | with_reducible exact Or.inl rfl
    | with_reducible assumption
    | with_reducible apply issueWord_same
    | with_reducible apply modEng_same
    | with_reducible apply Same.ite
    | with_reducible apply WordSame.ite
    | with_reducible apply WordSame.retire
    | with_reducible apply WordSame.fault
    | with_reducible apply OutSame.next
    | exact sub_of hp (by decide)
    | intro _
    | dsimp only
    | split
    | with_reducible refine Same.upd ?_ ?_ ?_ ?_ ?_ ?_ ?_ ?_ ?_ ?_ ?_ ?_ ?_ ?_ ?_ ?_ ?_ ?_ ?_ ?_ ?_ ?_ ?_ ?_ ?_ ?_ ?_ ?_

theorem execBallastRunOut_same {ps : List StatePart} {base s : State} (hk : Same ps base s) (sid : StallId)
    (hp : ([.stalls] : List StatePart) ⊆ ps := by exact sub_of (by assumption) (by decide)) : OutSame ps base (execBallastRunOut sid s) := by
  unfold execBallastRunOut
  repeat' first
    | with_reducible assumption
    | with_reducible apply modEng_same
    | with_reducible apply Same.ite
    | with_reducible apply OutSame.next
    | exact sub_of hp (by decide)
    | intro _
    | dsimp only
    | split

theorem execSalu_same {ps : List StatePart} {base s : State} (hk : Same ps base s) (sid : StallId)
    (hp : ([.grm, .err, .sec, .mbx, .mars, .ports, .sheds, .stalls, .track, .fresh] : List StatePart) ⊆ ps := by exact sub_of (by assumption) (by decide)) : OutSame ps base (execSalu sid s) := by
  unfold execSalu
  repeat' first
    | with_reducible assumption
    | with_reducible apply issueWord_same
    | with_reducible apply putStall_same
    | with_reducible apply Same.ite
    | with_reducible apply WordSame.ite
    | with_reducible apply WordSame.retire
    | with_reducible apply WordSame.fault
    | with_reducible apply OutSame.next
    | exact sub_of hp (by decide)
    | intro _
    | dsimp only
    | split

theorem execSli_same {ps : List StatePart} {base s : State} (hk : Same ps base s) (sid : StallId)
    (hp : ([.grm, .err, .sec, .mbx, .mars, .ports, .sheds, .stalls, .track, .fresh] : List StatePart) ⊆ ps := by exact sub_of (by assumption) (by decide)) : OutSame ps base (execSli sid s) := by
  unfold execSli
  repeat' first
    | with_reducible assumption
    | with_reducible apply issueWord_same
    | with_reducible apply putStall_same
    | with_reducible apply Same.ite
    | with_reducible apply WordSame.ite
    | with_reducible apply WordSame.retire
    | with_reducible apply WordSame.fault
    | with_reducible apply OutSame.next
    | exact sub_of hp (by decide)
    | intro _
    | dsimp only
    | split

/-! Vector. -/

theorem takeMany_same {ps : List StatePart} {base s : State} (hk : Same ps base s) (n : Nat)
    (hp : ([.fresh] : List StatePart) ⊆ ps := by exact sub_of (by assumption) (by decide)) : Same ps base (takeMany s n) := by
  unfold takeMany
  repeat' first
    | exact Or.inr (partIn hp (by decide))
    | with_reducible exact Or.inl rfl
    | with_reducible assumption
    | exact sub_of hp (by decide)
    | intro _
    | dsimp only
    | with_reducible refine Same.upd ?_ ?_ ?_ ?_ ?_ ?_ ?_ ?_ ?_ ?_ ?_ ?_ ?_ ?_ ?_ ?_ ?_ ?_ ?_ ?_ ?_ ?_ ?_ ?_ ?_ ?_ ?_ ?_

theorem vecWord_same {ps : List StatePart} {base s : State} (hk : Same ps base s) (sid : Nat) (res : Bool) (t : Stall) (w : Nat)
    (hp : ([.grm, .err, .mbx, .sheds, .stalls, .fresh] : List StatePart) ⊆ ps := by exact sub_of (by assumption) (by decide)) : WordSame ps base (vecWord s sid res t w) := by
  unfold vecWord
  repeat' first
    | exact Or.inr (partIn hp (by decide))
    | with_reducible exact Or.inl rfl
    | with_reducible assumption
    | with_reducible apply putStall_same
    | with_reducible apply record_same
    | with_reducible apply takeMany_same
    | with_reducible apply Same.ite
    | with_reducible apply WordSame.ite
    | with_reducible apply WordSame.retire
    | with_reducible apply WordSame.hold
    | with_reducible apply WordSame.fault
    | with_reducible refine Same.foldl ?_ (fun _ _ _ => ?_)
    | exact sub_of hp (by decide)
    | intro _
    | dsimp only
    | split
    | with_reducible refine Same.upd ?_ ?_ ?_ ?_ ?_ ?_ ?_ ?_ ?_ ?_ ?_ ?_ ?_ ?_ ?_ ?_ ?_ ?_ ?_ ?_ ?_ ?_ ?_ ?_ ?_ ?_ ?_ ?_

theorem execVadd_same {ps : List StatePart} {base s : State} (hk : Same ps base s) (sid : StallId) (res : Bool)
    (hp : ([.grm, .err, .sec, .mbx, .mars, .ports, .sheds, .stalls, .track, .fresh] : List StatePart) ⊆ ps := by exact sub_of (by assumption) (by decide)) : OutSame ps base (execVadd sid res s) := by
  unfold execVadd
  repeat' first
    | with_reducible assumption
    | with_reducible apply issueWord_same
    | with_reducible apply vecWord_same
    | with_reducible apply OutSame.next
    | exact sub_of hp (by decide)
    | intro _
    | dsimp only

theorem execVsub_same {ps : List StatePart} {base s : State} (hk : Same ps base s) (sid : StallId) (res : Bool)
    (hp : ([.grm, .err, .sec, .mbx, .mars, .ports, .sheds, .stalls, .track, .fresh] : List StatePart) ⊆ ps := by exact sub_of (by assumption) (by decide)) : OutSame ps base (execVsub sid res s) := by
  unfold execVsub
  repeat' first
    | with_reducible assumption
    | with_reducible apply issueWord_same
    | with_reducible apply vecWord_same
    | with_reducible apply OutSame.next
    | exact sub_of hp (by decide)
    | intro _
    | dsimp only

theorem execVmul_same {ps : List StatePart} {base s : State} (hk : Same ps base s) (sid : StallId) (res : Bool)
    (hp : ([.grm, .err, .sec, .mbx, .mars, .ports, .sheds, .stalls, .track, .fresh] : List StatePart) ⊆ ps := by exact sub_of (by assumption) (by decide)) : OutSame ps base (execVmul sid res s) := by
  unfold execVmul
  repeat' first
    | with_reducible assumption
    | with_reducible apply issueWord_same
    | with_reducible apply vecWord_same
    | with_reducible apply OutSame.next
    | exact sub_of hp (by decide)
    | intro _
    | dsimp only

theorem execVfma_same {ps : List StatePart} {base s : State} (hk : Same ps base s) (sid : StallId) (res : Bool)
    (hp : ([.grm, .err, .sec, .mbx, .mars, .ports, .sheds, .stalls, .track, .fresh] : List StatePart) ⊆ ps := by exact sub_of (by assumption) (by decide)) : OutSame ps base (execVfma sid res s) := by
  unfold execVfma
  repeat' first
    | with_reducible assumption
    | with_reducible apply issueWord_same
    | with_reducible apply vecWord_same
    | with_reducible apply OutSame.next
    | exact sub_of hp (by decide)
    | intro _
    | dsimp only

theorem execVmax_same {ps : List StatePart} {base s : State} (hk : Same ps base s) (sid : StallId) (res : Bool)
    (hp : ([.grm, .err, .sec, .mbx, .mars, .ports, .sheds, .stalls, .track, .fresh] : List StatePart) ⊆ ps := by exact sub_of (by assumption) (by decide)) : OutSame ps base (execVmax sid res s) := by
  unfold execVmax
  repeat' first
    | with_reducible assumption
    | with_reducible apply issueWord_same
    | with_reducible apply vecWord_same
    | with_reducible apply OutSame.next
    | exact sub_of hp (by decide)
    | intro _
    | dsimp only

theorem execVmin_same {ps : List StatePart} {base s : State} (hk : Same ps base s) (sid : StallId) (res : Bool)
    (hp : ([.grm, .err, .sec, .mbx, .mars, .ports, .sheds, .stalls, .track, .fresh] : List StatePart) ⊆ ps := by exact sub_of (by assumption) (by decide)) : OutSame ps base (execVmin sid res s) := by
  unfold execVmin
  repeat' first
    | with_reducible assumption
    | with_reducible apply issueWord_same
    | with_reducible apply vecWord_same
    | with_reducible apply OutSame.next
    | exact sub_of hp (by decide)
    | intro _
    | dsimp only

theorem execVact_same {ps : List StatePart} {base s : State} (hk : Same ps base s) (sid : StallId) (res : Bool)
    (hp : ([.grm, .err, .sec, .mbx, .mars, .ports, .sheds, .stalls, .track, .fresh] : List StatePart) ⊆ ps := by exact sub_of (by assumption) (by decide)) : OutSame ps base (execVact sid res s) := by
  unfold execVact
  repeat' first
    | with_reducible assumption
    | with_reducible apply issueWord_same
    | with_reducible apply vecWord_same
    | with_reducible apply OutSame.next
    | exact sub_of hp (by decide)
    | intro _
    | dsimp only

theorem execVexp2_same {ps : List StatePart} {base s : State} (hk : Same ps base s) (sid : StallId) (res : Bool)
    (hp : ([.grm, .err, .sec, .mbx, .mars, .ports, .sheds, .stalls, .track, .fresh] : List StatePart) ⊆ ps := by exact sub_of (by assumption) (by decide)) : OutSame ps base (execVexp2 sid res s) := by
  unfold execVexp2
  repeat' first
    | with_reducible assumption
    | with_reducible apply issueWord_same
    | with_reducible apply vecWord_same
    | with_reducible apply OutSame.next
    | exact sub_of hp (by decide)
    | intro _
    | dsimp only

theorem execVlog2_same {ps : List StatePart} {base s : State} (hk : Same ps base s) (sid : StallId) (res : Bool)
    (hp : ([.grm, .err, .sec, .mbx, .mars, .ports, .sheds, .stalls, .track, .fresh] : List StatePart) ⊆ ps := by exact sub_of (by assumption) (by decide)) : OutSame ps base (execVlog2 sid res s) := by
  unfold execVlog2
  repeat' first
    | with_reducible assumption
    | with_reducible apply issueWord_same
    | with_reducible apply vecWord_same
    | with_reducible apply OutSame.next
    | exact sub_of hp (by decide)
    | intro _
    | dsimp only

theorem execVrsqrt_same {ps : List StatePart} {base s : State} (hk : Same ps base s) (sid : StallId) (res : Bool)
    (hp : ([.grm, .err, .sec, .mbx, .mars, .ports, .sheds, .stalls, .track, .fresh] : List StatePart) ⊆ ps := by exact sub_of (by assumption) (by decide)) : OutSame ps base (execVrsqrt sid res s) := by
  unfold execVrsqrt
  repeat' first
    | with_reducible assumption
    | with_reducible apply issueWord_same
    | with_reducible apply vecWord_same
    | with_reducible apply OutSame.next
    | exact sub_of hp (by decide)
    | intro _
    | dsimp only

theorem execVrcp_same {ps : List StatePart} {base s : State} (hk : Same ps base s) (sid : StallId) (res : Bool)
    (hp : ([.grm, .err, .sec, .mbx, .mars, .ports, .sheds, .stalls, .track, .fresh] : List StatePart) ⊆ ps := by exact sub_of (by assumption) (by decide)) : OutSame ps base (execVrcp sid res s) := by
  unfold execVrcp
  repeat' first
    | with_reducible assumption
    | with_reducible apply issueWord_same
    | with_reducible apply vecWord_same
    | with_reducible apply OutSame.next
    | exact sub_of hp (by decide)
    | intro _
    | dsimp only

theorem execVred_same {ps : List StatePart} {base s : State} (hk : Same ps base s) (sid : StallId) (res : Bool)
    (hp : ([.grm, .err, .sec, .mbx, .mars, .ports, .sheds, .stalls, .track, .fresh] : List StatePart) ⊆ ps := by exact sub_of (by assumption) (by decide)) : OutSame ps base (execVred sid res s) := by
  unfold execVred
  repeat' first
    | with_reducible assumption
    | with_reducible apply issueWord_same
    | with_reducible apply vecWord_same
    | with_reducible apply OutSame.next
    | exact sub_of hp (by decide)
    | intro _
    | dsimp only

theorem execVcvt_same {ps : List StatePart} {base s : State} (hk : Same ps base s) (sid : StallId) (res : Bool)
    (hp : ([.grm, .err, .sec, .mbx, .mars, .ports, .sheds, .stalls, .track, .fresh] : List StatePart) ⊆ ps := by exact sub_of (by assumption) (by decide)) : OutSame ps base (execVcvt sid res s) := by
  unfold execVcvt
  repeat' first
    | with_reducible assumption
    | with_reducible apply issueWord_same
    | with_reducible apply vecWord_same
    | with_reducible apply OutSame.next
    | exact sub_of hp (by decide)
    | intro _
    | dsimp only

theorem execVcmp_same {ps : List StatePart} {base s : State} (hk : Same ps base s) (sid : StallId) (res : Bool)
    (hp : ([.grm, .err, .sec, .mbx, .mars, .ports, .sheds, .stalls, .track, .fresh] : List StatePart) ⊆ ps := by exact sub_of (by assumption) (by decide)) : OutSame ps base (execVcmp sid res s) := by
  unfold execVcmp
  repeat' first
    | with_reducible assumption
    | with_reducible apply issueWord_same
    | with_reducible apply vecWord_same
    | with_reducible apply OutSame.next
    | exact sub_of hp (by decide)
    | intro _
    | dsimp only

theorem execVlogic_same {ps : List StatePart} {base s : State} (hk : Same ps base s) (sid : StallId)
    (hp : ([.grm, .err, .sec, .mbx, .mars, .ports, .sheds, .stalls, .track, .fresh] : List StatePart) ⊆ ps := by exact sub_of (by assumption) (by decide)) : OutSame ps base (execVlogic sid s) := by
  unfold execVlogic
  repeat' first
    | with_reducible assumption
    | with_reducible apply issueWord_same
    | with_reducible apply vecWord_same
    | with_reducible apply OutSame.next
    | exact sub_of hp (by decide)
    | intro _
    | dsimp only

theorem execVcopy_same {ps : List StatePart} {base s : State} (hk : Same ps base s) (sid : StallId)
    (hp : ([.grm, .err, .sec, .mbx, .mars, .ports, .sheds, .stalls, .track, .fresh] : List StatePart) ⊆ ps := by exact sub_of (by assumption) (by decide)) : OutSame ps base (execVcopy sid s) := by
  unfold execVcopy
  repeat' first
    | with_reducible assumption
    | with_reducible apply issueWord_same
    | with_reducible apply vecWord_same
    | with_reducible apply OutSame.next
    | exact sub_of hp (by decide)
    | intro _
    | dsimp only

/-! Matrix. -/

theorem completeJob_same {ps : List StatePart} {base s : State} (hk : Same ps base s) (sid : Nat) (j : Job) (next : Stall → Stall)
    (hp : ([.grm, .err, .sec, .mbx, .mars, .ports, .sheds, .stalls, .track, .fresh] : List StatePart) ⊆ ps := by exact sub_of (by assumption) (by decide)) : Same ps base (completeJob s sid j next) := by
  unfold completeJob
  repeat' first
    | exact Or.inr (partIn hp (by decide))
    | with_reducible exact Or.inl rfl
    | with_reducible assumption
    | with_reducible apply stallFault_same
    | with_reducible apply putStall_same
    | with_reducible apply modShed_same
    | exact sub_of hp (by decide)
    | intro _
    | dsimp only
    | split
    | with_reducible refine Same.upd ?_ ?_ ?_ ?_ ?_ ?_ ?_ ?_ ?_ ?_ ?_ ?_ ?_ ?_ ?_ ?_ ?_ ?_ ?_ ?_ ?_ ?_ ?_ ?_ ?_ ?_ ?_ ?_

theorem execDmmCompletion_same {ps : List StatePart} {base s : State} (hk : Same ps base s) (sid : StallId)
    (hp : ([.grm, .err, .sec, .mbx, .mars, .ports, .sheds, .stalls, .track, .fresh] : List StatePart) ⊆ ps := by exact sub_of (by assumption) (by decide)) : OutSame ps base (execDmmCompletion sid s) := by
  unfold execDmmCompletion
  repeat' first
    | exact Or.inr (partIn hp (by decide))
    | with_reducible exact Or.inl rfl
    | with_reducible assumption
    | with_reducible apply completeJob_same
    | with_reducible apply OutSame.next
    | exact sub_of hp (by decide)
    | intro _
    | dsimp only
    | split
    | with_reducible refine Same.upd ?_ ?_ ?_ ?_ ?_ ?_ ?_ ?_ ?_ ?_ ?_ ?_ ?_ ?_ ?_ ?_ ?_ ?_ ?_ ?_ ?_ ?_ ?_ ?_ ?_ ?_ ?_ ?_

theorem execRakeCompletion_same {ps : List StatePart} {base s : State} (hk : Same ps base s) (sid : StallId)
    (hp : ([.grm, .err, .sec, .mbx, .mars, .ports, .sheds, .stalls, .track, .fresh] : List StatePart) ⊆ ps := by exact sub_of (by assumption) (by decide)) : OutSame ps base (execRakeCompletion sid s) := by
  unfold execRakeCompletion
  repeat' first
    | exact Or.inr (partIn hp (by decide))
    | with_reducible exact Or.inl rfl
    | with_reducible assumption
    | with_reducible apply completeJob_same
    | with_reducible apply OutSame.next
    | exact sub_of hp (by decide)
    | intro _
    | dsimp only
    | split
    | with_reducible refine Same.upd ?_ ?_ ?_ ?_ ?_ ?_ ?_ ?_ ?_ ?_ ?_ ?_ ?_ ?_ ?_ ?_ ?_ ?_ ?_ ?_ ?_ ?_ ?_ ?_ ?_ ?_ ?_ ?_

theorem overflowJob_same {ps : List StatePart} {base s : State} (hk : Same ps base s) (sid : Nat) (j : Job) (put : Job → Engines → Engines)
    (hp : ([.grm, .err, .mbx, .sheds, .stalls] : List StatePart) ⊆ ps := by exact sub_of (by assumption) (by decide)) : Same ps base (overflowJob s sid j put) := by
  unfold overflowJob
  repeat' first
    | exact Or.inr (partIn hp (by decide))
    | with_reducible exact Or.inl rfl
    | with_reducible assumption
    | with_reducible apply putStall_same
    | with_reducible apply modShed_same
    | with_reducible apply record_same
    | with_reducible apply Same.ite
    | exact sub_of hp (by decide)
    | intro _
    | dsimp only
    | split
    | with_reducible refine Same.upd ?_ ?_ ?_ ?_ ?_ ?_ ?_ ?_ ?_ ?_ ?_ ?_ ?_ ?_ ?_ ?_ ?_ ?_ ?_ ?_ ?_ ?_ ?_ ?_ ?_ ?_ ?_ ?_

theorem execOverflowReplay_same {ps : List StatePart} {base s : State} (hk : Same ps base s) (sid : StallId) (rake : Bool)
    (hp : ([.grm, .err, .mbx, .sheds, .stalls] : List StatePart) ⊆ ps := by exact sub_of (by assumption) (by decide)) : OutSame ps base (execOverflowReplay sid rake s) := by
  unfold execOverflowReplay
  repeat' first
    | exact Or.inr (partIn hp (by decide))
    | with_reducible exact Or.inl rfl
    | with_reducible assumption
    | with_reducible apply overflowJob_same
    | with_reducible apply Same.ite
    | with_reducible apply OutSame.next
    | exact sub_of hp (by decide)
    | intro _
    | dsimp only
    | split
    | with_reducible refine Same.upd ?_ ?_ ?_ ?_ ?_ ?_ ?_ ?_ ?_ ?_ ?_ ?_ ?_ ?_ ?_ ?_ ?_ ?_ ?_ ?_ ?_ ?_ ?_ ?_ ?_ ?_ ?_ ?_

/-! Draft. -/

theorem execDmm_same {ps : List StatePart} {base s : State} (hk : Same ps base s) (sid : StallId)
    (hp : ([.grm, .err, .sec, .mbx, .mars, .ports, .sheds, .stalls, .track, .fresh] : List StatePart) ⊆ ps := by exact sub_of (by assumption) (by decide)) : OutSame ps base (execDmm sid s) := by
  unfold execDmm
  repeat' first
    | exact Or.inr (partIn hp (by decide))
    | with_reducible exact Or.inl rfl
    | with_reducible assumption
    | with_reducible apply issueWord_same
    | with_reducible apply putStall_same
    | with_reducible apply modEng_same
    | with_reducible apply Same.ite
    | with_reducible apply WordSame.ite
    | with_reducible apply WordSame.retire
    | with_reducible apply WordSame.hold
    | with_reducible apply WordSame.fault
    | with_reducible apply OutSame.next
    | exact sub_of hp (by decide)
    | intro _
    | dsimp only
    | split
    | with_reducible refine Same.upd ?_ ?_ ?_ ?_ ?_ ?_ ?_ ?_ ?_ ?_ ?_ ?_ ?_ ?_ ?_ ?_ ?_ ?_ ?_ ?_ ?_ ?_ ?_ ?_ ?_ ?_ ?_ ?_

theorem dataChecks_same {ps : List StatePart} {base s : State} (hk : Same ps base s) (sid n : Nat)
    (hp : ([.grm, .err, .mbx, .sheds] : List StatePart) ⊆ ps := by exact sub_of (by assumption) (by decide)) : Same ps base (dataChecks s sid n) := by
  induction n generalizing s with
  | zero => exact hk
  | succ n ih => exact ih (record_same hk _ _)

theorem execDrain_same {ps : List StatePart} {base s : State} (hk : Same ps base s) (sid : StallId)
    (hp : ([.grm, .err, .sec, .mbx, .mars, .ports, .sheds, .stalls, .track, .fresh] : List StatePart) ⊆ ps := by exact sub_of (by assumption) (by decide)) : OutSame ps base (execDrain sid s) := by
  unfold execDrain
  repeat' first
    | exact Or.inr (partIn hp (by decide))
    | with_reducible exact Or.inl rfl
    | with_reducible assumption
    | with_reducible apply dataChecks_same
    | with_reducible apply issueWord_same
    | with_reducible apply putStall_same
    | with_reducible apply record_same
    | with_reducible apply Same.ite
    | with_reducible apply WordSame.ite
    | with_reducible apply WordSame.retire
    | with_reducible apply WordSame.hold
    | with_reducible apply WordSame.fault
    | with_reducible apply OutSame.next
    | exact sub_of hp (by decide)
    | intro _
    | dsimp only
    | split
    | with_reducible refine Same.upd ?_ ?_ ?_ ?_ ?_ ?_ ?_ ?_ ?_ ?_ ?_ ?_ ?_ ?_ ?_ ?_ ?_ ?_ ?_ ?_ ?_ ?_ ?_ ?_ ?_ ?_ ?_ ?_

theorem execDexp_same {ps : List StatePart} {base s : State} (hk : Same ps base s) (sid : StallId)
    (hp : ([.grm, .err, .sec, .mbx, .mars, .ports, .sheds, .stalls, .track, .fresh] : List StatePart) ⊆ ps := by exact sub_of (by assumption) (by decide)) : OutSame ps base (execDexp sid s) := by
  unfold execDexp
  repeat' first
    | with_reducible assumption
    | with_reducible apply issueWord_same
    | with_reducible apply putStall_same
    | with_reducible apply record_same
    | with_reducible apply Same.ite
    | with_reducible apply WordSame.ite
    | with_reducible apply WordSame.retire
    | with_reducible apply WordSame.hold
    | with_reducible apply WordSame.fault
    | with_reducible apply OutSame.next
    | exact sub_of hp (by decide)
    | intro _
    | dsimp only
    | split

theorem execDstat_same {ps : List StatePart} {base s : State} (hk : Same ps base s) (sid : StallId)
    (hp : ([.grm, .err, .sec, .mbx, .mars, .ports, .sheds, .stalls, .track, .fresh] : List StatePart) ⊆ ps := by exact sub_of (by assumption) (by decide)) : OutSame ps base (execDstat sid s) := by
  unfold execDstat
  repeat' first
    | with_reducible assumption
    | with_reducible apply issueWord_same
    | with_reducible apply putStall_same
    | with_reducible apply Same.ite
    | with_reducible apply WordSame.ite
    | with_reducible apply WordSame.retire
    | with_reducible apply WordSame.hold
    | with_reducible apply WordSame.fault
    | with_reducible apply OutSame.next
    | exact sub_of hp (by decide)
    | intro _
    | dsimp only
    | split

/-! Rake. -/

theorem execSmm_same {ps : List StatePart} {base s : State} (hk : Same ps base s) (sid : StallId)
    (hp : ([.grm, .err, .sec, .mbx, .mars, .ports, .sheds, .stalls, .track, .fresh] : List StatePart) ⊆ ps := by exact sub_of (by assumption) (by decide)) : OutSame ps base (execSmm sid s) := by
  unfold execSmm
  repeat' first
    | exact Or.inr (partIn hp (by decide))
    | with_reducible exact Or.inl rfl
    | with_reducible assumption
    | with_reducible apply issueWord_same
    | with_reducible apply putStall_same
    | with_reducible apply modEng_same
    | with_reducible apply Same.ite
    | with_reducible apply WordSame.ite
    | with_reducible apply WordSame.retire
    | with_reducible apply WordSame.hold
    | with_reducible apply WordSame.fault
    | with_reducible apply OutSame.next
    | exact sub_of hp (by decide)
    | intro _
    | dsimp only
    | split
    | with_reducible refine Same.upd ?_ ?_ ?_ ?_ ?_ ?_ ?_ ?_ ?_ ?_ ?_ ?_ ?_ ?_ ?_ ?_ ?_ ?_ ?_ ?_ ?_ ?_ ?_ ?_ ?_ ?_ ?_ ?_

theorem execSdd_same {ps : List StatePart} {base s : State} (hk : Same ps base s) (sid : StallId)
    (hp : ([.grm, .err, .sec, .mbx, .mars, .ports, .sheds, .stalls, .track, .fresh] : List StatePart) ⊆ ps := by exact sub_of (by assumption) (by decide)) : OutSame ps base (execSdd sid s) := by
  unfold execSdd
  repeat' first
    | exact Or.inr (partIn hp (by decide))
    | with_reducible exact Or.inl rfl
    | with_reducible assumption
    | with_reducible apply issueWord_same
    | with_reducible apply putStall_same
    | with_reducible apply modShed_same
    | with_reducible apply modEng_same
    | with_reducible apply Same.ite
    | with_reducible apply WordSame.ite
    | with_reducible apply WordSame.retire
    | with_reducible apply WordSame.hold
    | with_reducible apply WordSame.fault
    | with_reducible apply OutSame.next
    | exact sub_of hp (by decide)
    | intro _
    | dsimp only
    | split
    | with_reducible refine Same.upd ?_ ?_ ?_ ?_ ?_ ?_ ?_ ?_ ?_ ?_ ?_ ?_ ?_ ?_ ?_ ?_ ?_ ?_ ?_ ?_ ?_ ?_ ?_ ?_ ?_ ?_ ?_ ?_

theorem execPsel_same {ps : List StatePart} {base s : State} (hk : Same ps base s) (sid : StallId)
    (hp : ([.grm, .err, .sec, .mbx, .mars, .ports, .sheds, .stalls, .track, .fresh] : List StatePart) ⊆ ps := by exact sub_of (by assumption) (by decide)) : OutSame ps base (execPsel sid s) := by
  unfold execPsel
  repeat' first
    | exact Or.inr (partIn hp (by decide))
    | with_reducible exact Or.inl rfl
    | with_reducible assumption
    | with_reducible apply issueWord_same
    | with_reducible apply putStall_same
    | with_reducible apply Same.ite
    | with_reducible apply WordSame.ite
    | with_reducible apply WordSame.retire
    | with_reducible apply WordSame.hold
    | with_reducible apply WordSame.fault
    | with_reducible apply OutSame.next
    | exact sub_of hp (by decide)
    | intro _
    | dsimp only
    | split
    | with_reducible refine Same.upd ?_ ?_ ?_ ?_ ?_ ?_ ?_ ?_ ?_ ?_ ?_ ?_ ?_ ?_ ?_ ?_ ?_ ?_ ?_ ?_ ?_ ?_ ?_ ?_ ?_ ?_ ?_ ?_

theorem execPchk_same {ps : List StatePart} {base s : State} (hk : Same ps base s) (sid : StallId)
    (hp : ([.grm, .err, .sec, .mbx, .mars, .ports, .sheds, .stalls, .track, .fresh] : List StatePart) ⊆ ps := by exact sub_of (by assumption) (by decide)) : OutSame ps base (execPchk sid s) := by
  unfold execPchk
  repeat' first
    | exact Or.inr (partIn hp (by decide))
    | with_reducible exact Or.inl rfl
    | with_reducible assumption
    | with_reducible apply issueWord_same
    | with_reducible apply putStall_same
    | with_reducible apply modShed_same
    | with_reducible apply record_same
    | with_reducible apply Same.ite
    | with_reducible apply WordSame.ite
    | with_reducible apply WordSame.retire
    | with_reducible apply WordSame.hold
    | with_reducible apply WordSame.fault
    | with_reducible apply OutSame.next
    | exact sub_of hp (by decide)
    | intro _
    | dsimp only
    | split
    | with_reducible refine Same.upd ?_ ?_ ?_ ?_ ?_ ?_ ?_ ?_ ?_ ?_ ?_ ?_ ?_ ?_ ?_ ?_ ?_ ?_ ?_ ?_ ?_ ?_ ?_ ?_ ?_ ?_ ?_ ?_

end Sys2Proof.Machine
end

