-- ==== Sys2Proof/Laws/SameTrack.lean ====
section
/-! SUPPORT. Which parts of the state the events of the track, the queues, the gates and the sections can change (Safety, `Same`). -/

set_option Elab.async false
set_option linter.all false

namespace Sys2Proof.Machine

/-! Track. -/

theorem countIn_same {ps : List StatePart} {base s : State} (hk : Same ps base s) (p : Packet) (y : Nat)
    (hp : ([.yards] : List StatePart) ⊆ ps := by exact sub_of (by assumption) (by decide)) : Same ps base (countIn s p y) := by
  unfold countIn
  repeat' first
    | exact Or.inr (partIn hp (by decide))
    | with_reducible exact Or.inl rfl
    | with_reducible assumption
    | with_reducible apply modYard_same
    | with_reducible apply Same.ite
    | exact sub_of hp (by decide)
    | intro _
    | dsimp only
    | split
    | with_reducible refine Same.upd ?_ ?_ ?_ ?_ ?_ ?_ ?_ ?_ ?_ ?_ ?_ ?_ ?_ ?_ ?_ ?_ ?_ ?_ ?_ ?_ ?_ ?_ ?_ ?_ ?_ ?_ ?_ ?_

theorem countOut_same {ps : List StatePart} {base s : State} (hk : Same ps base s) (p : Packet) (y : Nat)
    (hp : ([.yards] : List StatePart) ⊆ ps := by exact sub_of (by assumption) (by decide)) : Same ps base (countOut s p y) := by
  unfold countOut
  repeat' first
    | exact Or.inr (partIn hp (by decide))
    | with_reducible exact Or.inl rfl
    | with_reducible assumption
    | with_reducible apply modYard_same
    | with_reducible apply Same.ite
    | exact sub_of hp (by decide)
    | intro _
    | dsimp only
    | split
    | with_reducible refine Same.upd ?_ ?_ ?_ ?_ ?_ ?_ ?_ ?_ ?_ ?_ ?_ ?_ ?_ ?_ ?_ ?_ ?_ ?_ ?_ ?_ ?_ ?_ ?_ ?_ ?_ ?_ ?_ ?_

theorem inject_same {ps : List StatePart} {base s : State} (hk : Same ps base s) (p : Packet) (router : Nat) (side : Nat)
    (hp : ([.yards, .track, .nextId] : List StatePart) ⊆ ps := by exact sub_of (by assumption) (by decide)) : Same ps base (inject s p router side) := by
  unfold inject
  repeat' first
    | exact Or.inr (partIn hp (by decide))
    | with_reducible exact Or.inl rfl
    | with_reducible assumption
    | with_reducible apply countIn_same
    | exact sub_of hp (by decide)
    | intro _
    | dsimp only
    | with_reducible refine Same.upd ?_ ?_ ?_ ?_ ?_ ?_ ?_ ?_ ?_ ?_ ?_ ?_ ?_ ?_ ?_ ?_ ?_ ?_ ?_ ?_ ?_ ?_ ?_ ?_ ?_ ?_ ?_ ?_

theorem requeue_same {ps : List StatePart} {base s : State} (hk : Same ps base s) (m : TrackMsg)
    (hp : ([.track] : List StatePart) ⊆ ps := by exact sub_of (by assumption) (by decide)) : Same ps base (requeue s m) := by
  unfold requeue
  repeat' first
    | exact Or.inr (partIn hp (by decide))
    | with_reducible exact Or.inl rfl
    | with_reducible assumption
    | exact sub_of hp (by decide)
    | intro _
    | dsimp only
    | with_reducible refine Same.upd ?_ ?_ ?_ ?_ ?_ ?_ ?_ ?_ ?_ ?_ ?_ ?_ ?_ ?_ ?_ ?_ ?_ ?_ ?_ ?_ ?_ ?_ ?_ ?_ ?_ ?_ ?_ ?_

theorem modTrack_same {ps : List StatePart} {base s : State} (hk : Same ps base s) (id : Nat) (f : TrackMsg → TrackMsg)
    (hp : ([.track] : List StatePart) ⊆ ps := by exact sub_of (by assumption) (by decide)) : Same ps base (modTrack s id f) := by
  unfold modTrack
  repeat' first
    | exact Or.inr (partIn hp (by decide))
    | with_reducible exact Or.inl rfl
    | with_reducible assumption
    | with_reducible apply Same.ite
    | exact sub_of hp (by decide)
    | intro _
    | dsimp only
    | split
    | with_reducible refine Same.upd ?_ ?_ ?_ ?_ ?_ ?_ ?_ ?_ ?_ ?_ ?_ ?_ ?_ ?_ ?_ ?_ ?_ ?_ ?_ ?_ ?_ ?_ ?_ ?_ ?_ ?_ ?_ ?_

theorem removeTrack_same {ps : List StatePart} {base s : State} (hk : Same ps base s) (m : TrackMsg)
    (hp : ([.yards, .track] : List StatePart) ⊆ ps := by exact sub_of (by assumption) (by decide)) : Same ps base (removeTrack s m) := by
  unfold removeTrack
  repeat' first
    | exact Or.inr (partIn hp (by decide))
    | with_reducible exact Or.inl rfl
    | with_reducible assumption
    | with_reducible apply countOut_same
    | exact sub_of hp (by decide)
    | intro _
    | dsimp only
    | with_reducible refine Same.upd ?_ ?_ ?_ ?_ ?_ ?_ ?_ ?_ ?_ ?_ ?_ ?_ ?_ ?_ ?_ ?_ ?_ ?_ ?_ ?_ ?_ ?_ ?_ ?_ ?_ ?_ ?_ ?_

theorem discardAt_same {ps : List StatePart} {base s : State} (hk : Same ps base s) (id : Nat)
    (hp : ([.yards, .track] : List StatePart) ⊆ ps := by exact sub_of (by assumption) (by decide)) : Same ps base (discardAt s id) := by
  unfold discardAt
  repeat' first
    | exact Or.inr (partIn hp (by decide))
    | with_reducible exact Or.inl rfl
    | with_reducible assumption
    | with_reducible apply modTrack_same
    | with_reducible apply removeTrack_same
    | with_reducible apply Same.ite
    | exact sub_of hp (by decide)
    | intro _
    | dsimp only
    | split
    | with_reducible refine Same.upd ?_ ?_ ?_ ?_ ?_ ?_ ?_ ?_ ?_ ?_ ?_ ?_ ?_ ?_ ?_ ?_ ?_ ?_ ?_ ?_ ?_ ?_ ?_ ?_ ?_ ?_ ?_ ?_

theorem countUnreach_same {ps : List StatePart} {base s : State} (hk : Same ps base s) (y : Nat)
    (hp : ([.yards] : List StatePart) ⊆ ps := by exact sub_of (by assumption) (by decide)) : Same ps base (countUnreach s y) := by
  unfold countUnreach
  repeat' first
    | exact Or.inr (partIn hp (by decide))
    | with_reducible exact Or.inl rfl
    | with_reducible assumption
    | with_reducible apply modYard_same
    | exact sub_of hp (by decide)
    | intro _
    | dsimp only
    | with_reducible refine Same.upd ?_ ?_ ?_ ?_ ?_ ?_ ?_ ?_ ?_ ?_ ?_ ?_ ?_ ?_ ?_ ?_ ?_ ?_ ?_ ?_ ?_ ?_ ?_ ?_ ?_ ?_ ?_ ?_

theorem failUnit_same {ps : List StatePart} {base s : State} (hk : Same ps base s) (u : FailUnit) (source : Nat)
    (hp : ([.grm, .rm] : List StatePart) ⊆ ps := by exact sub_of (by assumption) (by decide)) : Same ps base (failUnit s u source) := by
  unfold failUnit
  repeat' first
    | exact Or.inr (partIn hp (by decide))
    | with_reducible exact Or.inl rfl
    | with_reducible assumption
    | with_reducible apply journal_same
    | with_reducible apply Same.ite
    | exact sub_of hp (by decide)
    | intro _
    | dsimp only
    | split
    | with_reducible refine Same.upd ?_ ?_ ?_ ?_ ?_ ?_ ?_ ?_ ?_ ?_ ?_ ?_ ?_ ?_ ?_ ?_ ?_ ?_ ?_ ?_ ?_ ?_ ?_ ?_ ?_ ?_ ?_ ?_

theorem refuseFlit_same {ps : List StatePart} {base s : State} (hk : Same ps base s) (m : TrackMsg) (prev : Nat) (h : Hop)
    (hp : ([.grm, .err, .sec, .mbx, .mars, .ports, .yards, .sheds, .stalls, .track, .rm, .fresh] : List StatePart) ⊆ ps := by exact sub_of (by assumption) (by decide)) : Same ps base (refuseFlit s m prev h) := by
  unfold refuseFlit
  repeat' first
    | exact Or.inr (partIn hp (by decide))
    | with_reducible exact Or.inl rfl
    | with_reducible assumption
    | with_reducible apply hwAbort_same
    | with_reducible apply modYard_same
    | with_reducible apply record_same
    | with_reducible apply modTrack_same
    | with_reducible apply failUnit_same
    | with_reducible apply Same.ite
    | exact sub_of hp (by decide)
    | intro _
    | dsimp only
    | split
    | with_reducible refine Same.upd ?_ ?_ ?_ ?_ ?_ ?_ ?_ ?_ ?_ ?_ ?_ ?_ ?_ ?_ ?_ ?_ ?_ ?_ ?_ ?_ ?_ ?_ ?_ ?_ ?_ ?_ ?_ ?_

theorem toInbox_same {ps : List StatePart} {base s : State} (hk : Same ps base s) (port : Nat) (p : Packet)
    (hp : ([.ports] : List StatePart) ⊆ ps := by exact sub_of (by assumption) (by decide)) : Same ps base (toInbox s port p) := by
  unfold toInbox
  repeat' first
    | exact Or.inr (partIn hp (by decide))
    | with_reducible exact Or.inl rfl
    | with_reducible assumption
    | with_reducible apply modPort_same
    | exact sub_of hp (by decide)
    | intro _
    | dsimp only
    | split
    | with_reducible refine Same.upd ?_ ?_ ?_ ?_ ?_ ?_ ?_ ?_ ?_ ?_ ?_ ?_ ?_ ?_ ?_ ?_ ?_ ?_ ?_ ?_ ?_ ?_ ?_ ?_ ?_ ?_ ?_ ?_

theorem exitFlit_same {ps : List StatePart} {base s : State} (hk : Same ps base s) (m : TrackMsg) (i : Nat)
    (hp : ([.ports, .yards, .stalls, .track] : List StatePart) ⊆ ps := by exact sub_of (by assumption) (by decide)) : Same ps base (exitFlit s m i) := by
  unfold exitFlit
  repeat' first
    | exact Or.inr (partIn hp (by decide))
    | with_reducible exact Or.inl rfl
    | with_reducible assumption
    | with_reducible apply modQu_same
    | with_reducible apply modTrack_same
    | with_reducible apply removeTrack_same
    | with_reducible apply toInbox_same
    | with_reducible apply Same.ite
    | exact sub_of hp (by decide)
    | intro _
    | dsimp only
    | split
    | with_reducible refine Same.upd ?_ ?_ ?_ ?_ ?_ ?_ ?_ ?_ ?_ ?_ ?_ ?_ ?_ ?_ ?_ ?_ ?_ ?_ ?_ ?_ ?_ ?_ ?_ ?_ ?_ ?_ ?_ ?_

theorem bodyHop_same {ps : List StatePart} {base s : State} (hk : Same ps base s) (m : TrackMsg) (i : Nat) (p : Nat) (crcOk : Bool)
    (hp : ([.grm, .err, .sec, .mbx, .mars, .ports, .yards, .sheds, .stalls, .track, .rm, .fresh] : List StatePart) ⊆ ps := by exact sub_of (by assumption) (by decide)) : Same ps base (bodyHop s m i p crcOk) := by
  unfold bodyHop
  repeat' first
    | exact Or.inr (partIn hp (by decide))
    | with_reducible exact Or.inl rfl
    | with_reducible assumption
    | with_reducible apply countOut_same
    | with_reducible apply modTrack_same
    | with_reducible apply refuseFlit_same
    | with_reducible apply Same.ite
    | exact sub_of hp (by decide)
    | intro _
    | dsimp only
    | split
    | with_reducible refine Same.upd ?_ ?_ ?_ ?_ ?_ ?_ ?_ ?_ ?_ ?_ ?_ ?_ ?_ ?_ ?_ ?_ ?_ ?_ ?_ ?_ ?_ ?_ ?_ ?_ ?_ ?_ ?_ ?_

theorem headerHop_same {ps : List StatePart} {base s : State} (hk : Same ps base s) (m : TrackMsg) (adaptive : Option (Fin 4)) (crcOk : Bool)
    (hp : ([.grm, .err, .sec, .mbx, .mars, .ports, .yards, .sheds, .stalls, .track, .rm, .fresh] : List StatePart) ⊆ ps := by exact sub_of (by assumption) (by decide)) : Same ps base (headerHop s m adaptive crcOk) := by
  unfold headerHop
  repeat' first
    | exact Or.inr (partIn hp (by decide))
    | with_reducible exact Or.inl rfl
    | with_reducible assumption
    | with_reducible apply modQu_same
    | with_reducible apply countIn_same
    | with_reducible apply countOut_same
    | with_reducible apply requeue_same
    | with_reducible apply modTrack_same
    | with_reducible apply removeTrack_same
    | with_reducible apply discardAt_same
    | with_reducible apply countUnreach_same
    | with_reducible apply refuseFlit_same
    | with_reducible apply toInbox_same
    | with_reducible apply Same.ite
    | exact sub_of hp (by decide)
    | intro _
    | dsimp only
    | split
    | with_reducible refine Same.upd ?_ ?_ ?_ ?_ ?_ ?_ ?_ ?_ ?_ ?_ ?_ ?_ ?_ ?_ ?_ ?_ ?_ ?_ ?_ ?_ ?_ ?_ ?_ ?_ ?_ ?_ ?_ ?_

theorem flitHop_same {ps : List StatePart} {base s : State} (hk : Same ps base s) (id : Nat) (i : Nat) (adaptive : Option (Fin 4)) (crcOk : Bool)
    (hp : ([.grm, .err, .sec, .mbx, .mars, .ports, .yards, .sheds, .stalls, .track, .rm, .fresh] : List StatePart) ⊆ ps := by exact sub_of (by assumption) (by decide)) : Same ps base (flitHop s id i adaptive crcOk) := by
  unfold flitHop
  repeat' first
    | exact Or.inr (partIn hp (by decide))
    | with_reducible exact Or.inl rfl
    | with_reducible assumption
    | with_reducible apply exitFlit_same
    | with_reducible apply bodyHop_same
    | with_reducible apply headerHop_same
    | with_reducible apply Same.ite
    | exact sub_of hp (by decide)
    | intro _
    | dsimp only
    | split
    | with_reducible refine Same.upd ?_ ?_ ?_ ?_ ?_ ?_ ?_ ?_ ?_ ?_ ?_ ?_ ?_ ?_ ?_ ?_ ?_ ?_ ?_ ?_ ?_ ?_ ?_ ?_ ?_ ?_ ?_ ?_

theorem execFlitHop_same {ps : List StatePart} {base s : State} (hk : Same ps base s) (mid : Nat) (flit : Nat) (adaptive : Option (Fin 4)) (crcOk : Bool)
    (hp : ([.grm, .err, .sec, .mbx, .mars, .ports, .yards, .sheds, .stalls, .track, .rm, .fresh] : List StatePart) ⊆ ps := by exact sub_of (by assumption) (by decide)) : OutSame ps base (execFlitHop mid flit adaptive crcOk s) := by
  unfold execFlitHop
  repeat' first
    | with_reducible assumption
    | with_reducible apply flitHop_same
    | with_reducible apply OutSame.next
    | exact sub_of hp (by decide)
    | intro _
    | dsimp only

theorem injectSiding_same {ps : List StatePart} {base s : State} (hk : Same ps base s) (port : Nat) (p : Packet)
    (hp : ([.yards, .track, .nextId] : List StatePart) ⊆ ps := by exact sub_of (by assumption) (by decide)) : OptSame ps base (injectSiding s port p) := by
  unfold injectSiding
  cases sidingLink s port p
  · exact OptSame.none
  · exact inject_same hk _ _ _

theorem execSidingInjection_same {ps : List StatePart} {base s : State} (hk : Same ps base s) (port : PortId) (what : Injection)
    (hp : ([.ports, .yards, .track, .nextId] : List StatePart) ⊆ ps := by exact sub_of (by assumption) (by decide)) : OutSame ps base (execSidingInjection port what s) := by
  have key : ∀ q, OptSame ps base (injectSiding s port q) := fun q => injectSiding_same hk port q
  have key' : ∀ q t, injectSiding s port q = some t → Same ps base t := fun q t e => by have := key q; rw [e] at this; exact this
  unfold execSidingInjection
  apply OutSame.next
  cases what with
  | unit =>
    dsimp only
    split
    · exact hk
    · refine Same.ite hk ?_
      split
      · exact hk
      · rename_i h
        exact modPort_same (key' _ _ h) _ _
  | message m =>
    dsimp only
    split
    · exact hk
    · refine Same.ite ?_ hk
      split
      · exact hk
      · rename_i h
        exact key' _ _ h

/-! Sends. -/

theorem sendOne_same {ps : List StatePart} {base s : State} (hk : Same ps base s) (sid : Nat) (vc : Nat) (f : Bool) (tag : Nat) (dest : Nat) (payload : List Byte)
    (hp : ([.yards, .stalls, .track, .nextId] : List StatePart) ⊆ ps := by exact sub_of (by assumption) (by decide)) : Same ps base (sendOne s sid vc f tag dest payload) := by
  unfold sendOne
  repeat' first
    | exact Or.inr (partIn hp (by decide))
    | with_reducible exact Or.inl rfl
    | with_reducible assumption
    | with_reducible apply modQu_same
    | with_reducible apply inject_same
    | with_reducible apply Same.ite
    | exact sub_of hp (by decide)
    | intro _
    | dsimp only
    | split
    | with_reducible refine Same.upd ?_ ?_ ?_ ?_ ?_ ?_ ?_ ?_ ?_ ?_ ?_ ?_ ?_ ?_ ?_ ?_ ?_ ?_ ?_ ?_ ?_ ?_ ?_ ?_ ?_ ?_ ?_ ?_

theorem execSend_same {ps : List StatePart} {base s : State} (hk : Same ps base s) (sid : StallId)
    (hp : ([.grm, .err, .sec, .mbx, .mars, .ports, .yards, .sheds, .stalls, .track, .nextId, .fresh] : List StatePart) ⊆ ps := by exact sub_of (by assumption) (by decide)) : OutSame ps base (execSend sid s) := by
  unfold execSend
  repeat' first
    | exact Or.inr (partIn hp (by decide))
    | with_reducible exact Or.inl rfl
    | with_reducible assumption
    | with_reducible apply issueWord_same
    | with_reducible apply putStall_same
    | with_reducible apply sendOne_same
    | with_reducible apply Same.ite
    | with_reducible apply WordSame.ite
    | with_reducible apply WordSame.retire
    | with_reducible apply WordSame.hold
    | with_reducible apply WordSame.fault
    | with_reducible apply OutSame.next
    | exact sub_of hp (by decide)
    | intro _
    | dsimp only
    | split
    | with_reducible refine Same.upd ?_ ?_ ?_ ?_ ?_ ?_ ?_ ?_ ?_ ?_ ?_ ?_ ?_ ?_ ?_ ?_ ?_ ?_ ?_ ?_ ?_ ?_ ?_ ?_ ?_ ?_ ?_ ?_

theorem execSendl_same {ps : List StatePart} {base s : State} (hk : Same ps base s) (sid : StallId)
    (hp : ([.grm, .err, .sec, .mbx, .mars, .ports, .yards, .sheds, .stalls, .track, .nextId, .fresh] : List StatePart) ⊆ ps := by exact sub_of (by assumption) (by decide)) : OutSame ps base (execSendl sid s) := by
  unfold execSendl
  repeat' first
    | exact Or.inr (partIn hp (by decide))
    | with_reducible exact Or.inl rfl
    | with_reducible assumption
    | with_reducible apply issueWord_same
    | with_reducible apply putStall_same
    | with_reducible apply sendOne_same
    | with_reducible apply Same.ite
    | with_reducible apply WordSame.ite
    | with_reducible apply WordSame.retire
    | with_reducible apply WordSame.hold
    | with_reducible apply WordSame.fault
    | with_reducible apply OutSame.next
    | with_reducible refine Same.foldl ?_ (fun _ _ _ => ?_)
    | exact sub_of hp (by decide)
    | intro _
    | dsimp only
    | split
    | with_reducible refine Same.upd ?_ ?_ ?_ ?_ ?_ ?_ ?_ ?_ ?_ ?_ ?_ ?_ ?_ ?_ ?_ ?_ ?_ ?_ ?_ ?_ ?_ ?_ ?_ ?_ ?_ ?_ ?_ ?_

theorem execSends_same {ps : List StatePart} {base s : State} (hk : Same ps base s) (sid : StallId)
    (hp : ([.grm, .err, .sec, .mbx, .mars, .ports, .yards, .sheds, .stalls, .track, .nextId, .fresh] : List StatePart) ⊆ ps := by exact sub_of (by assumption) (by decide)) : OutSame ps base (execSends sid s) := by
  unfold execSends
  repeat' first
    | with_reducible assumption
    | with_reducible apply issueWord_same
    | with_reducible apply sendOne_same
    | with_reducible apply Same.ite
    | with_reducible apply WordSame.ite
    | with_reducible apply WordSame.retire
    | with_reducible apply WordSame.hold
    | with_reducible apply WordSame.fault
    | with_reducible apply OutSame.next
    | exact sub_of hp (by decide)
    | intro _
    | dsimp only
    | split

theorem execRelay_same {ps : List StatePart} {base s : State} (hk : Same ps base s) (sid : StallId)
    (hp : ([.grm, .err, .sec, .mbx, .mars, .ports, .sheds, .stalls, .track, .fresh] : List StatePart) ⊆ ps := by exact sub_of (by assumption) (by decide)) : OutSame ps base (execRelay sid s) := by
  unfold execRelay
  repeat' first
    | exact Or.inr (partIn hp (by decide))
    | with_reducible exact Or.inl rfl
    | with_reducible assumption
    | with_reducible apply issueWord_same
    | with_reducible apply modStall_same
    | with_reducible apply Same.ite
    | with_reducible apply WordSame.ite
    | with_reducible apply WordSame.retire
    | with_reducible apply WordSame.fault
    | with_reducible apply OutSame.next
    | exact sub_of hp (by decide)
    | intro _
    | dsimp only
    | split
    | with_reducible refine Same.upd ?_ ?_ ?_ ?_ ?_ ?_ ?_ ?_ ?_ ?_ ?_ ?_ ?_ ?_ ?_ ?_ ?_ ?_ ?_ ?_ ?_ ?_ ?_ ?_ ?_ ?_ ?_ ?_

/-! Queues. -/

theorem relayFor_same {ps : List StatePart} {base s : State} (hk : Same ps base s) (sid : Nat) (id : Nat) (e : Nat) (h : Hdr) (payload : List Byte)
    (hp : ([.stalls] : List StatePart) ⊆ ps := by exact sub_of (by assumption) (by decide)) : Same ps base (relayFor s sid id e h payload) := by
  unfold relayFor
  repeat' first
    | exact Or.inr (partIn hp (by decide))
    | with_reducible exact Or.inl rfl
    | with_reducible assumption
    | with_reducible apply modQu_same
    | with_reducible apply Same.ite
    | exact sub_of hp (by decide)
    | intro _
    | dsimp only
    | split
    | with_reducible refine Same.upd ?_ ?_ ?_ ?_ ?_ ?_ ?_ ?_ ?_ ?_ ?_ ?_ ?_ ?_ ?_ ?_ ?_ ?_ ?_ ?_ ?_ ?_ ?_ ?_ ?_ ?_ ?_ ?_

theorem countFence_same {ps : List StatePart} {base s : State} (hk : Same ps base s) (sid : Nat) (h : Hdr)
    (hp : ([.stalls] : List StatePart) ⊆ ps := by exact sub_of (by assumption) (by decide)) : Same ps base (countFence s sid h) := by
  unfold countFence
  repeat' first
    | exact Or.inr (partIn hp (by decide))
    | with_reducible exact Or.inl rfl
    | with_reducible assumption
    | with_reducible apply modQu_same
    | with_reducible apply Same.ite
    | exact sub_of hp (by decide)
    | intro _
    | dsimp only
    | split
    | with_reducible refine Same.upd ?_ ?_ ?_ ?_ ?_ ?_ ?_ ?_ ?_ ?_ ?_ ?_ ?_ ?_ ?_ ?_ ?_ ?_ ?_ ?_ ?_ ?_ ?_ ?_ ?_ ?_ ?_ ?_

theorem enterTarget_same {ps : List StatePart} {base s : State} (hk : Same ps base s) (sid : Nat) (id : Nat) (e : Nat) (h : Hdr) (payload : List Byte)
    (hp : ([.stalls] : List StatePart) ⊆ ps := by exact sub_of (by assumption) (by decide)) : Same ps base (enterTarget s sid id e h payload) := by
  unfold enterTarget
  repeat' first
    | exact Or.inr (partIn hp (by decide))
    | with_reducible exact Or.inl rfl
    | with_reducible assumption
    | with_reducible apply modQu_same
    | with_reducible apply relayFor_same
    | with_reducible apply countFence_same
    | with_reducible apply Same.ite
    | exact sub_of hp (by decide)
    | intro _
    | dsimp only
    | split
    | with_reducible refine Same.upd ?_ ?_ ?_ ?_ ?_ ?_ ?_ ?_ ?_ ?_ ?_ ?_ ?_ ?_ ?_ ?_ ?_ ?_ ?_ ?_ ?_ ?_ ?_ ?_ ?_ ?_ ?_ ?_

theorem arrived_same {ps : List StatePart} {base s : State} (hk : Same ps base s) (sid : Nat) (tag : Nat)
    (hp : ([.grm, .err, .mbx, .sheds, .stalls] : List StatePart) ⊆ ps := by exact sub_of (by assumption) (by decide)) : Same ps base (arrived s sid tag) := by
  unfold arrived
  repeat' first
    | exact Or.inr (partIn hp (by decide))
    | with_reducible exact Or.inl rfl
    | with_reducible assumption
    | with_reducible apply progress_same
    | with_reducible apply modQu_same
    | with_reducible apply tallyUp_same
    | with_reducible apply Same.ite
    | exact sub_of hp (by decide)
    | intro _
    | dsimp only
    | split
    | with_reducible refine Same.upd ?_ ?_ ?_ ?_ ?_ ?_ ?_ ?_ ?_ ?_ ?_ ?_ ?_ ?_ ?_ ?_ ?_ ?_ ?_ ?_ ?_ ?_ ?_ ?_ ?_ ?_ ?_ ?_

theorem addContribution_same {ps : List StatePart} {base s : State} (hk : Same ps base s) (sid : Nat) (c : Nat) (tag : Nat) (len : Nat) (payload : List Byte)
    (hp : ([.grm, .err, .mbx, .sheds, .stalls] : List StatePart) ⊆ ps := by exact sub_of (by assumption) (by decide)) : Same ps base (addContribution s sid c tag len payload) := by
  unfold addContribution
  repeat' first
    | exact Or.inr (partIn hp (by decide))
    | with_reducible exact Or.inl rfl
    | with_reducible assumption
    | with_reducible apply modQu_same
    | with_reducible apply record_same
    | with_reducible apply arrived_same
    | with_reducible apply Same.ite
    | exact sub_of hp (by decide)
    | intro _
    | dsimp only
    | split
    | with_reducible refine Same.upd ?_ ?_ ?_ ?_ ?_ ?_ ?_ ?_ ?_ ?_ ?_ ?_ ?_ ?_ ?_ ?_ ?_ ?_ ?_ ?_ ?_ ?_ ?_ ?_ ?_ ?_ ?_ ?_

theorem finishTarget_same {ps : List StatePart} {base s : State} (hk : Same ps base s) (sid : Nat) (id : Nat) (e : Nat) (h : Hdr) (payload : List Byte)
    (hp : ([.grm, .err, .mbx, .sheds, .stalls] : List StatePart) ⊆ ps := by exact sub_of (by assumption) (by decide)) : Same ps base (finishTarget s sid id e h payload) := by
  unfold finishTarget
  repeat' first
    | with_reducible assumption
    | with_reducible apply modQu_same
    | with_reducible apply arrived_same
    | with_reducible apply addContribution_same
    | with_reducible apply Same.ite
    | exact sub_of hp (by decide)
    | intro _
    | dsimp only
    | split

theorem countMiss_same {ps : List StatePart} {base s : State} (hk : Same ps base s) (sid : Nat) (miss : Bool)
    (hp : ([.yards] : List StatePart) ⊆ ps := by exact sub_of (by assumption) (by decide)) : Same ps base (countMiss s sid miss) := by
  unfold countMiss
  repeat' first
    | exact Or.inr (partIn hp (by decide))
    | with_reducible exact Or.inl rfl
    | with_reducible assumption
    | with_reducible apply modYard_same
    | with_reducible apply Same.ite
    | exact sub_of hp (by decide)
    | intro _
    | dsimp only
    | split
    | with_reducible refine Same.upd ?_ ?_ ?_ ?_ ?_ ?_ ?_ ?_ ?_ ?_ ?_ ?_ ?_ ?_ ?_ ?_ ?_ ?_ ?_ ?_ ?_ ?_ ?_ ?_ ?_ ?_ ?_ ?_

theorem clearEj_same {ps : List StatePart} {base s : State} (hk : Same ps base s) (sid : Nat) (vc : Nat)
    (hp : ([.stalls] : List StatePart) ⊆ ps := by exact sub_of (by assumption) (by decide)) : Same ps base (clearEj s sid vc) := by
  unfold clearEj
  repeat' first
    | exact Or.inr (partIn hp (by decide))
    | with_reducible exact Or.inl rfl
    | with_reducible assumption
    | with_reducible apply modQu_same
    | exact sub_of hp (by decide)
    | intro _
    | dsimp only
    | with_reducible refine Same.upd ?_ ?_ ?_ ?_ ?_ ?_ ?_ ?_ ?_ ?_ ?_ ?_ ?_ ?_ ?_ ?_ ?_ ?_ ?_ ?_ ?_ ?_ ?_ ?_ ?_ ?_ ?_ ?_

theorem requestWake_same {ps : List StatePart} {base s : State} (hk : Same ps base s) (sid : Nat)
    (hp : ([.psheds] : List StatePart) ⊆ ps := by exact sub_of (by assumption) (by decide)) : Same ps base (requestWake s sid) := by
  unfold requestWake
  repeat' first
    | exact Or.inr (partIn hp (by decide))
    | with_reducible exact Or.inl rfl
    | with_reducible assumption
    | with_reducible apply modPShed_same
    | exact sub_of hp (by decide)
    | intro _
    | dsimp only
    | with_reducible refine Same.upd ?_ ?_ ?_ ?_ ?_ ?_ ?_ ?_ ?_ ?_ ?_ ?_ ?_ ?_ ?_ ?_ ?_ ?_ ?_ ?_ ?_ ?_ ?_ ?_ ?_ ?_ ?_ ?_

theorem acceptHeader_same {ps : List StatePart} {base s : State} (hk : Same ps base s) (sid : Nat) (vc : Nat) (m : TrackMsg) (h : Hdr) (payload : List Byte)
    (hp : ([.grm, .err, .sec, .mbx, .mars, .ports, .yards, .sheds, .stalls, .track, .fresh] : List StatePart) ⊆ ps := by exact sub_of (by assumption) (by decide)) : Same ps base (acceptHeader s sid vc m h payload) := by
  unfold acceptHeader
  repeat' first
    | exact Or.inr (partIn hp (by decide))
    | with_reducible exact Or.inl rfl
    | with_reducible assumption
    | with_reducible apply stallFault_same
    | with_reducible apply modYard_same
    | with_reducible apply modQu_same
    | with_reducible apply staleDrop_same
    | with_reducible apply enterTarget_same
    | with_reducible apply countMiss_same
    | with_reducible apply clearEj_same
    | with_reducible apply modTrack_same
    | with_reducible apply removeTrack_same
    | with_reducible apply discardAt_same
    | with_reducible apply Same.ite
    | exact sub_of hp (by decide)
    | intro _
    | dsimp only
    | split
    | with_reducible refine Same.upd ?_ ?_ ?_ ?_ ?_ ?_ ?_ ?_ ?_ ?_ ?_ ?_ ?_ ?_ ?_ ?_ ?_ ?_ ?_ ?_ ?_ ?_ ?_ ?_ ?_ ?_ ?_ ?_

theorem acceptNotice_same {ps : List StatePart} {base s : State} (hk : Same ps base s) (sid : Nat) (h : Hdr) (payload : List Byte)
    (hp : ([.grm, .err, .sec, .mbx, .mars, .ports, .yards, .sheds, .stalls, .track, .nextId, .fresh] : List StatePart) ⊆ ps := by exact sub_of (by assumption) (by decide)) : OptSame ps base (acceptNotice s sid h payload) := by
  unfold acceptNotice
  repeat' first
    | exact Or.inr (partIn hp (by decide))
    | with_reducible exact Or.inl rfl
    | with_reducible assumption
    | with_reducible apply stallFault_same
    | with_reducible apply modQu_same
    | with_reducible apply staleDrop_same
    | with_reducible apply enterTarget_same
    | with_reducible apply finishTarget_same
    | with_reducible apply countMiss_same
    | with_reducible apply OptSame.some
    | with_reducible apply OptSame.ite
    | exact OptSame.none
    | exact sub_of hp (by decide)
    | intro _
    | dsimp only
    | split
    | with_reducible refine Same.upd ?_ ?_ ?_ ?_ ?_ ?_ ?_ ?_ ?_ ?_ ?_ ?_ ?_ ?_ ?_ ?_ ?_ ?_ ?_ ?_ ?_ ?_ ?_ ?_ ?_ ?_ ?_ ?_

theorem ejectHeader_same {ps : List StatePart} {base s : State} (hk : Same ps base s) (sid : Nat) (vc : Nat)
    (hp : ([.grm, .err, .sec, .mbx, .mars, .ports, .yards, .sheds, .psheds, .stalls, .track, .fresh] : List StatePart) ⊆ ps := by exact sub_of (by assumption) (by decide)) : Same ps base (ejectHeader s sid vc) := by
  unfold ejectHeader
  repeat' first
    | exact Or.inr (partIn hp (by decide))
    | with_reducible exact Or.inl rfl
    | with_reducible assumption
    | with_reducible apply clearEj_same
    | with_reducible apply requestWake_same
    | with_reducible apply acceptHeader_same
    | with_reducible apply discardAt_same
    | with_reducible apply countUnreach_same
    | with_reducible apply Same.ite
    | exact sub_of hp (by decide)
    | intro _
    | dsimp only
    | split
    | with_reducible refine Same.upd ?_ ?_ ?_ ?_ ?_ ?_ ?_ ?_ ?_ ?_ ?_ ?_ ?_ ?_ ?_ ?_ ?_ ?_ ?_ ?_ ?_ ?_ ?_ ?_ ?_ ?_ ?_ ?_

theorem execMessageAcceptance_same {ps : List StatePart} {base s : State} (hk : Same ps base s) (sid : StallId) (vc : Fin 3) (par : Bool)
    (hp : ([.grm, .err, .sec, .mbx, .mars, .ports, .yards, .sheds, .psheds, .stalls, .track, .nextId, .fresh] : List StatePart) ⊆ ps := by exact sub_of (by assumption) (by decide)) : OutSame ps base (execMessageAcceptance sid vc par s) := by
  unfold execMessageAcceptance
  extract_lets u here s1 via
  have h1 : Same ps base s1 := parity_same hk _ _
  have hv : OptSame ps base via := by
    refine OptSame.ite ?_ OptSame.none
    split
    · exact OptSame.none
    · exact acceptNotice_same h1 _ _ _
  apply OutSame.next
  revert hv
  cases via <;> intro hv
  · exact ejectHeader_same h1 _ _
  · exact hv

theorem execMessageComplete_same {ps : List StatePart} {base s : State} (hk : Same ps base s) (sid : StallId) (vc : Fin 3)
    (hp : ([.grm, .err, .mbx, .yards, .sheds, .stalls, .track] : List StatePart) ⊆ ps := by exact sub_of (by assumption) (by decide)) : OutSame ps base (execMessageComplete sid vc s) := by
  unfold execMessageComplete
  repeat' first
    | exact Or.inr (partIn hp (by decide))
    | with_reducible exact Or.inl rfl
    | with_reducible assumption
    | with_reducible apply modQu_same
    | with_reducible apply arrived_same
    | with_reducible apply removeTrack_same
    | with_reducible apply OutSame.next
    | exact sub_of hp (by decide)
    | intro _
    | dsimp only
    | split
    | with_reducible refine Same.upd ?_ ?_ ?_ ?_ ?_ ?_ ?_ ?_ ?_ ?_ ?_ ?_ ?_ ?_ ?_ ?_ ?_ ?_ ?_ ?_ ?_ ?_ ?_ ?_ ?_ ?_ ?_ ?_

theorem execContributionCounted_same {ps : List StatePart} {base s : State} (hk : Same ps base s) (sid : StallId) (vc : Fin 3)
    (hp : ([.grm, .err, .mbx, .yards, .sheds, .stalls, .track] : List StatePart) ⊆ ps := by exact sub_of (by assumption) (by decide)) : OutSame ps base (execContributionCounted sid vc s) := by
  unfold execContributionCounted
  repeat' first
    | exact Or.inr (partIn hp (by decide))
    | with_reducible exact Or.inl rfl
    | with_reducible assumption
    | with_reducible apply modQu_same
    | with_reducible apply addContribution_same
    | with_reducible apply removeTrack_same
    | with_reducible apply OutSame.next
    | exact sub_of hp (by decide)
    | intro _
    | dsimp only
    | split
    | with_reducible refine Same.upd ?_ ?_ ?_ ?_ ?_ ?_ ?_ ?_ ?_ ?_ ?_ ?_ ?_ ?_ ?_ ?_ ?_ ?_ ?_ ?_ ?_ ?_ ?_ ?_ ?_ ?_ ?_ ?_

theorem execRelayCopy_same {ps : List StatePart} {base s : State} (hk : Same ps base s) (sid : StallId)
    (hp : ([.yards, .stalls, .track, .nextId] : List StatePart) ⊆ ps := by exact sub_of (by assumption) (by decide)) : OutSame ps base (execRelayCopy sid s) := by
  unfold execRelayCopy
  repeat' first
    | exact Or.inr (partIn hp (by decide))
    | with_reducible exact Or.inl rfl
    | with_reducible assumption
    | with_reducible apply modQu_same
    | with_reducible apply inject_same
    | with_reducible apply Same.ite
    | with_reducible apply OutSame.next
    | exact sub_of hp (by decide)
    | intro _
    | dsimp only
    | split
    | with_reducible refine Same.upd ?_ ?_ ?_ ?_ ?_ ?_ ?_ ?_ ?_ ?_ ?_ ?_ ?_ ?_ ?_ ?_ ?_ ?_ ?_ ?_ ?_ ?_ ?_ ?_ ?_ ?_ ?_ ?_

theorem execReleaseBegin_same {ps : List StatePart} {base s : State} (hk : Same ps base s) (sid : StallId) (slot : Fin 8)
    (hp : ([.stalls, .nextId] : List StatePart) ⊆ ps := by exact sub_of (by assumption) (by decide)) : OutSame ps base (execReleaseBegin sid slot s) := by
  unfold execReleaseBegin
  repeat' first
    | exact Or.inr (partIn hp (by decide))
    | with_reducible exact Or.inl rfl
    | with_reducible assumption
    | with_reducible apply modQu_same
    | with_reducible apply Same.ite
    | with_reducible apply OutSame.next
    | exact sub_of hp (by decide)
    | intro _
    | dsimp only
    | split
    | with_reducible refine Same.upd ?_ ?_ ?_ ?_ ?_ ?_ ?_ ?_ ?_ ?_ ?_ ?_ ?_ ?_ ?_ ?_ ?_ ?_ ?_ ?_ ?_ ?_ ?_ ?_ ?_ ?_ ?_ ?_

theorem execReleaseComplete_same {ps : List StatePart} {base s : State} (hk : Same ps base s) (sid : StallId) (slot : Fin 8)
    (hp : ([.sheds, .stalls] : List StatePart) ⊆ ps := by exact sub_of (by assumption) (by decide)) : OutSame ps base (execReleaseComplete sid slot s) := by
  unfold execReleaseComplete
  repeat' first
    | exact Or.inr (partIn hp (by decide))
    | with_reducible exact Or.inl rfl
    | with_reducible assumption
    | with_reducible apply progress_same
    | with_reducible apply modQu_same
    | with_reducible apply Same.ite
    | with_reducible apply OutSame.next
    | exact sub_of hp (by decide)
    | intro _
    | dsimp only
    | split
    | with_reducible refine Same.upd ?_ ?_ ?_ ?_ ?_ ?_ ?_ ?_ ?_ ?_ ?_ ?_ ?_ ?_ ?_ ?_ ?_ ?_ ?_ ?_ ?_ ?_ ?_ ?_ ?_ ?_ ?_ ?_

theorem execPenLeave_same {ps : List StatePart} {base s : State} (hk : Same ps base s) (sid : StallId)
    (hp : ([.grm, .err, .mbx, .sheds, .stalls] : List StatePart) ⊆ ps := by exact sub_of (by assumption) (by decide)) : OutSame ps base (execPenLeave sid s) := by
  unfold execPenLeave
  repeat' first
    | exact Or.inr (partIn hp (by decide))
    | with_reducible exact Or.inl rfl
    | with_reducible assumption
    | with_reducible apply modQu_same
    | with_reducible apply enterTarget_same
    | with_reducible apply finishTarget_same
    | with_reducible apply Same.ite
    | with_reducible apply OutSame.next
    | exact sub_of hp (by decide)
    | intro _
    | dsimp only
    | split
    | with_reducible refine Same.upd ?_ ?_ ?_ ?_ ?_ ?_ ?_ ?_ ?_ ?_ ?_ ?_ ?_ ?_ ?_ ?_ ?_ ?_ ?_ ?_ ?_ ?_ ?_ ?_ ?_ ?_ ?_ ?_

theorem execDispatch_same {ps : List StatePart} {base s : State} (hk : Same ps base s) (sid : StallId) (par : Bool)
    (hp : ([.grm, .err, .mbx, .sheds, .stalls, .fresh] : List StatePart) ⊆ ps := by exact sub_of (by assumption) (by decide)) : OutSame ps base (execDispatch sid par s) := by
  unfold execDispatch
  repeat' first
    | exact Or.inr (partIn hp (by decide))
    | with_reducible exact Or.inl rfl
    | with_reducible assumption
    | with_reducible apply parity_same
    | with_reducible apply passFree_same
    | with_reducible apply modSeq_same
    | with_reducible apply Same.ite
    | with_reducible apply OutSame.next
    | exact sub_of hp (by decide)
    | intro _
    | dsimp only
    | split
    | with_reducible refine Same.upd ?_ ?_ ?_ ?_ ?_ ?_ ?_ ?_ ?_ ?_ ?_ ?_ ?_ ?_ ?_ ?_ ?_ ?_ ?_ ?_ ?_ ?_ ?_ ?_ ?_ ?_ ?_ ?_

theorem execProgressWatchdogFire_same {ps : List StatePart} {base s : State} (hk : Same ps base s) (yard : YardId) (shed : ShedNo)
    (hp : ([.grm, .err, .sec, .mbx, .mars, .ports, .sheds, .stalls, .track, .fresh] : List StatePart) ⊆ ps := by exact sub_of (by assumption) (by decide)) : OutSame ps base (execProgressWatchdogFire yard shed s) := by
  unfold execProgressWatchdogFire
  repeat' first
    | exact Or.inr (partIn hp (by decide))
    | with_reducible exact Or.inl rfl
    | with_reducible assumption
    | with_reducible apply hwAbort_same
    | with_reducible apply modShed_same
    | with_reducible apply record_same
    | with_reducible apply Same.ite
    | with_reducible apply OutSame.next
    | exact sub_of hp (by decide)
    | intro _
    | dsimp only
    | split
    | with_reducible refine Same.upd ?_ ?_ ?_ ?_ ?_ ?_ ?_ ?_ ?_ ?_ ?_ ?_ ?_ ?_ ?_ ?_ ?_ ?_ ?_ ?_ ?_ ?_ ?_ ?_ ?_ ?_ ?_ ?_

/-! Gates. -/

theorem switchEpoch_same {ps : List StatePart} {base s : State} (hk : Same ps base s) 
    (hp : ([.sec] : List StatePart) ⊆ ps := by exact sub_of (by assumption) (by decide)) : Same ps base (switchEpoch s) := by
  unfold switchEpoch
  repeat' first
    | exact Or.inr (partIn hp (by decide))
    | with_reducible exact Or.inl rfl
    | with_reducible assumption
    | exact sub_of hp (by decide)
    | intro _
    | dsimp only
    | with_reducible refine Same.upd ?_ ?_ ?_ ?_ ?_ ?_ ?_ ?_ ?_ ?_ ?_ ?_ ?_ ?_ ?_ ?_ ?_ ?_ ?_ ?_ ?_ ?_ ?_ ?_ ?_ ?_ ?_ ?_

theorem execEpochDrained_same {ps : List StatePart} {base s : State} (hk : Same ps base s) 
    (hp : ([.sec] : List StatePart) ⊆ ps := by exact sub_of (by assumption) (by decide)) : OutSame ps base (execEpochDrained s) := by
  unfold execEpochDrained
  repeat' first
    | exact Or.inr (partIn hp (by decide))
    | with_reducible exact Or.inl rfl
    | with_reducible assumption
    | with_reducible apply Same.ite
    | with_reducible apply OutSame.next
    | exact sub_of hp (by decide)
    | intro _
    | dsimp only
    | split
    | with_reducible refine Same.upd ?_ ?_ ?_ ?_ ?_ ?_ ?_ ?_ ?_ ?_ ?_ ?_ ?_ ?_ ?_ ?_ ?_ ?_ ?_ ?_ ?_ ?_ ?_ ?_ ?_ ?_ ?_ ?_

theorem writeEpoch_same {ps : List StatePart} {base s : State} (hk : Same ps base s) (data : Nat)
    (hp : ([.sec] : List StatePart) ⊆ ps := by exact sub_of (by assumption) (by decide)) : Same ps base (writeEpoch data s) := by
  unfold writeEpoch
  repeat' first
    | exact Or.inr (partIn hp (by decide))
    | with_reducible exact Or.inl rfl
    | with_reducible assumption
    | with_reducible apply Same.ite
    | exact sub_of hp (by decide)
    | intro _
    | dsimp only
    | split
    | with_reducible refine Same.upd ?_ ?_ ?_ ?_ ?_ ?_ ?_ ?_ ?_ ?_ ?_ ?_ ?_ ?_ ?_ ?_ ?_ ?_ ?_ ?_ ?_ ?_ ?_ ?_ ?_ ?_ ?_ ?_

theorem execSecEpochWrite_same {ps : List StatePart} {base s : State} (hk : Same ps base s) (o : Origin) (data : Word64)
    (hp : ([.sec, .resp] : List StatePart) ⊆ ps := by exact sub_of (by assumption) (by decide)) : OutSame ps base (execSecEpochWrite o data s) := by
  unfold execSecEpochWrite
  repeat' first
    | with_reducible assumption
    | with_reducible apply writeEpoch_same
    | with_reducible apply asAuth_same
    | with_reducible apply OutSame.next
    | exact sub_of hp (by decide)
    | intro _
    | dsimp only

theorem modRoute_same {ps : List StatePart} {base s : State} (hk : Same ps base s) (v : Bool) (f : RouteTable → RouteTable)
    (hp : ([.routeA, .routeB] : List StatePart) ⊆ ps := by exact sub_of (by assumption) (by decide)) : Same ps base (modRoute s v f) := by
  unfold modRoute
  repeat' first
    | exact Or.inr (partIn hp (by decide))
    | with_reducible exact Or.inl rfl
    | with_reducible assumption
    | with_reducible apply Same.ite
    | exact sub_of hp (by decide)
    | intro _
    | dsimp only
    | split
    | with_reducible refine Same.upd ?_ ?_ ?_ ?_ ?_ ?_ ?_ ?_ ?_ ?_ ?_ ?_ ?_ ?_ ?_ ?_ ?_ ?_ ?_ ?_ ?_ ?_ ?_ ?_ ?_ ?_ ?_ ?_

theorem execRouteTableWrite_same {ps : List StatePart} {base s : State} (hk : Same ps base s) (version : Bool) (sid : StallId) (entries : List Byte)
    (hp : ([.yards, .routeA, .routeB] : List StatePart) ⊆ ps := by exact sub_of (by assumption) (by decide)) : OutSame ps base (execRouteTableWrite version sid entries s) := by
  unfold execRouteTableWrite
  repeat' first
    | exact Or.inr (partIn hp (by decide))
    | with_reducible exact Or.inl rfl
    | with_reducible assumption
    | with_reducible apply modRoute_same
    | with_reducible apply modYard_same
    | with_reducible apply Same.ite
    | with_reducible apply OutSame.next
    | with_reducible apply OutSame.ite
    | trivial
    | exact sub_of hp (by decide)
    | intro _
    | dsimp only
    | split
    | with_reducible refine Same.upd ?_ ?_ ?_ ?_ ?_ ?_ ?_ ?_ ?_ ?_ ?_ ?_ ?_ ?_ ?_ ?_ ?_ ?_ ?_ ?_ ?_ ?_ ?_ ?_ ?_ ?_ ?_ ?_

theorem execDetourInstall_same {ps : List StatePart} {base s : State} (hk : Same ps base s) 
    (hp : ([.sec, .routeA, .routeB] : List StatePart) ⊆ ps := by exact sub_of (by assumption) (by decide)) : OutSame ps base (execDetourInstall s) := by
  unfold execDetourInstall
  repeat' first
    | exact Or.inr (partIn hp (by decide))
    | with_reducible exact Or.inl rfl
    | with_reducible assumption
    | with_reducible apply modRoute_same
    | with_reducible apply Same.ite
    | with_reducible apply OutSame.next
    | exact sub_of hp (by decide)
    | intro _
    | dsimp only
    | split
    | with_reducible refine Same.upd ?_ ?_ ?_ ?_ ?_ ?_ ?_ ?_ ?_ ?_ ?_ ?_ ?_ ?_ ?_ ?_ ?_ ?_ ?_ ?_ ?_ ?_ ?_ ?_ ?_ ?_ ?_ ?_

theorem realignTally_same {ps : List StatePart} {base s : State} (hk : Same ps base s) (bit : Nat) (sid : Nat) (k : Nat)
    (hp : ([.grm, .err, .mbx, .sheds, .stalls] : List StatePart) ⊆ ps := by exact sub_of (by assumption) (by decide)) : Same ps base (realignTally bit sid s k) := by
  unfold realignTally
  repeat' first
    | with_reducible assumption
    | with_reducible apply setTally_same
    | with_reducible apply tallyDrift_same
    | with_reducible apply Same.ite
    | exact sub_of hp (by decide)
    | intro _
    | dsimp only
    | split

theorem clearPend_same {ps : List StatePart} {base s : State} (hk : Same ps base s) (bit : Nat) (sid : Nat)
    (hp : ([.grm, .err, .mbx, .sheds, .psheds, .stalls] : List StatePart) ⊆ ps := by exact sub_of (by assumption) (by decide)) : Same ps base (clearPend bit s sid) := by
  unfold clearPend
  repeat' first
    | exact Or.inr (partIn hp (by decide))
    | with_reducible exact Or.inl rfl
    | with_reducible assumption
    | with_reducible apply realignTally_same
    | with_reducible apply modStall_same
    | with_reducible apply requestWake_same
    | with_reducible apply Same.ite
    | with_reducible refine Same.foldl ?_ (fun _ _ _ => ?_)
    | exact sub_of hp (by decide)
    | intro _
    | dsimp only
    | split
    | with_reducible refine Same.upd ?_ ?_ ?_ ?_ ?_ ?_ ?_ ?_ ?_ ?_ ?_ ?_ ?_ ?_ ?_ ?_ ?_ ?_ ?_ ?_ ?_ ?_ ?_ ?_ ?_ ?_ ?_ ?_

theorem invertPhase_same {ps : List StatePart} {base s : State} (hk : Same ps base s) (scope : Nat) (unit : Nat) (line : Nat)
    (hp : ([.sec, .yards, .sheds] : List StatePart) ⊆ ps := by exact sub_of (by assumption) (by decide)) : Same ps base (invertPhase s scope unit line) := by
  unfold invertPhase
  repeat' first
    | exact Or.inr (partIn hp (by decide))
    | with_reducible exact Or.inl rfl
    | with_reducible assumption
    | with_reducible apply modShed_same
    | with_reducible apply modYard_same
    | with_reducible apply Same.ite
    | exact sub_of hp (by decide)
    | intro _
    | dsimp only
    | split
    | with_reducible refine Same.upd ?_ ?_ ?_ ?_ ?_ ?_ ?_ ?_ ?_ ?_ ?_ ?_ ?_ ?_ ?_ ?_ ?_ ?_ ?_ ?_ ?_ ?_ ?_ ?_ ?_ ?_ ?_ ?_

theorem execGateOpening_same {ps : List StatePart} {base s : State} (hk : Same ps base s) (scope : Fin 3) (unit : Nat) (line : Fin 16)
    (hp : ([.grm, .err, .sec, .mbx, .yards, .sheds, .psheds, .stalls] : List StatePart) ⊆ ps := by exact sub_of (by assumption) (by decide)) : OutSame ps base (execGateOpening scope unit line s) := by
  unfold execGateOpening
  repeat' first
    | exact Or.inr (partIn hp (by decide))
    | with_reducible exact Or.inl rfl
    | with_reducible assumption
    | with_reducible apply switchEpoch_same
    | with_reducible apply clearPend_same
    | with_reducible apply invertPhase_same
    | with_reducible apply Same.ite
    | with_reducible apply OutSame.next
    | with_reducible refine Same.foldl ?_ (fun _ _ _ => ?_)
    | exact sub_of hp (by decide)
    | intro _
    | dsimp only
    | split
    | with_reducible refine Same.upd ?_ ?_ ?_ ?_ ?_ ?_ ?_ ?_ ?_ ?_ ?_ ?_ ?_ ?_ ?_ ?_ ?_ ?_ ?_ ?_ ?_ ?_ ?_ ?_ ?_ ?_ ?_ ?_

/-! Tack. -/

theorem applyRtd_same {ps : List StatePart} {base s : State} (hk : Same ps base s) (rs : List Word64)
    (hp : ([.routeA, .routeB] : List StatePart) ⊆ ps := by exact sub_of (by assumption) (by decide)) : Same ps base (applyRtd s rs) := by
  unfold applyRtd
  repeat' first
    | with_reducible assumption
    | with_reducible apply modRoute_same
    | with_reducible refine Same.foldl ?_ (fun _ _ _ => ?_)
    | exact sub_of hp (by decide)
    | intro _
    | dsimp only

theorem applyMrd_same {ps : List StatePart} {base s : State} (hk : Same ps base s) (rs : List (Nat × Word64))
    (hp : ([.mars] : List StatePart) ⊆ ps := by exact sub_of (by assumption) (by decide)) : Same ps base (applyMrd s rs) := by
  unfold applyMrd
  repeat' first
    | exact Or.inr (partIn hp (by decide))
    | with_reducible exact Or.inl rfl
    | with_reducible assumption
    | with_reducible apply Same.ite
    | with_reducible refine Same.foldl ?_ (fun _ _ _ => ?_)
    | exact sub_of hp (by decide)
    | intro _
    | dsimp only
    | split
    | with_reducible refine Same.upd ?_ ?_ ?_ ?_ ?_ ?_ ?_ ?_ ?_ ?_ ?_ ?_ ?_ ?_ ?_ ?_ ?_ ?_ ?_ ?_ ?_ ?_ ?_ ?_ ?_ ?_ ?_ ?_

/-! Sections. -/

theorem cmdErr_same {ps : List StatePart} {base s : State} (hk : Same ps base s) (p : Nat) (code : Nat)
    (hp : ([.sec] : List StatePart) ⊆ ps := by exact sub_of (by assumption) (by decide)) : Same ps base (cmdErr s p code) := by
  unfold cmdErr
  repeat' first
    | exact Or.inr (partIn hp (by decide))
    | with_reducible exact Or.inl rfl
    | with_reducible assumption
    | with_reducible apply modPlace_same
    | exact sub_of hp (by decide)
    | intro _
    | dsimp only
    | with_reducible refine Same.upd ?_ ?_ ?_ ?_ ?_ ?_ ?_ ?_ ?_ ?_ ?_ ?_ ?_ ?_ ?_ ?_ ?_ ?_ ?_ ?_ ?_ ?_ ?_ ?_ ?_ ?_ ?_ ?_

theorem hmemParity_same {ps : List StatePart} {base s : State} (hk : Same ps base s) 
    (hp : ([.grm, .err, .mbx, .sheds] : List StatePart) ⊆ ps := by exact sub_of (by assumption) (by decide)) : Same ps base (hmemParity s) := by
  unfold hmemParity
  repeat' first
    | with_reducible assumption
    | with_reducible apply record_same
    | exact sub_of hp (by decide)
    | intro _
    | dsimp only

theorem takeLoad_same {ps : List StatePart} {base s : State} (hk : Same ps base s) (p : Nat)
    (hp : ([.sec] : List StatePart) ⊆ ps := by exact sub_of (by assumption) (by decide)) : Same ps base (takeLoad p s) := by
  unfold takeLoad
  repeat' first
    | exact Or.inr (partIn hp (by decide))
    | with_reducible exact Or.inl rfl
    | with_reducible assumption
    | with_reducible apply modPlace_same
    | with_reducible apply cmdErr_same
    | with_reducible apply Same.ite
    | exact sub_of hp (by decide)
    | intro _
    | dsimp only
    | split
    | with_reducible refine Same.upd ?_ ?_ ?_ ?_ ?_ ?_ ?_ ?_ ?_ ?_ ?_ ?_ ?_ ?_ ?_ ?_ ?_ ?_ ?_ ?_ ?_ ?_ ?_ ?_ ?_ ?_ ?_ ?_

theorem rackAll_same {ps : List StatePart} {base s : State} (hk : Same ps base s) (p : Nat) (m : Mem)
    (hp : ([.stalls] : List StatePart) ⊆ ps := by exact sub_of (by assumption) (by decide)) : Same ps base (rackAll s p m) := by
  unfold rackAll
  repeat' first
    | exact Or.inr (partIn hp (by decide))
    | with_reducible exact Or.inl rfl
    | with_reducible assumption
    | with_reducible apply Same.ite
    | exact sub_of hp (by decide)
    | intro _
    | dsimp only
    | split
    | with_reducible refine Same.upd ?_ ?_ ?_ ?_ ?_ ?_ ?_ ?_ ?_ ?_ ?_ ?_ ?_ ?_ ?_ ?_ ?_ ?_ ?_ ?_ ?_ ?_ ?_ ?_ ?_ ?_ ?_ ?_

theorem execLoadComplete_same {ps : List StatePart} {base s : State} (hk : Same ps base s) (place : PlaceNo) (memErr : Bool)
    (hp : ([.grm, .err, .sec, .mbx, .sheds, .stalls] : List StatePart) ⊆ ps := by exact sub_of (by assumption) (by decide)) : OutSame ps base (execLoadComplete place memErr s) := by
  unfold execLoadComplete
  repeat' first
    | exact Or.inr (partIn hp (by decide))
    | with_reducible exact Or.inl rfl
    | with_reducible assumption
    | with_reducible apply modPlace_same
    | with_reducible apply hmemParity_same
    | with_reducible apply rackAll_same
    | with_reducible apply Same.ite
    | with_reducible apply OutSame.next
    | exact sub_of hp (by decide)
    | intro _
    | dsimp only
    | split
    | with_reducible refine Same.upd ?_ ?_ ?_ ?_ ?_ ?_ ?_ ?_ ?_ ?_ ?_ ?_ ?_ ?_ ?_ ?_ ?_ ?_ ?_ ?_ ?_ ?_ ?_ ?_ ?_ ?_ ?_ ?_

theorem takeEvict_same {ps : List StatePart} {base s : State} (hk : Same ps base s) (p : Nat)
    (hp : ([.sec] : List StatePart) ⊆ ps := by exact sub_of (by assumption) (by decide)) : Same ps base (takeEvict p s) := by
  unfold takeEvict
  repeat' first
    | with_reducible assumption
    | with_reducible apply modPlace_same
    | with_reducible apply cmdErr_same
    | with_reducible apply Same.ite
    | exact sub_of hp (by decide)
    | intro _
    | dsimp only
    | split

theorem takeReload_same {ps : List StatePart} {base s : State} (hk : Same ps base s) (p : Nat)
    (hp : ([.sec] : List StatePart) ⊆ ps := by exact sub_of (by assumption) (by decide)) : Same ps base (takeReload p s) := by
  unfold takeReload
  repeat' first
    | exact Or.inr (partIn hp (by decide))
    | with_reducible exact Or.inl rfl
    | with_reducible assumption
    | with_reducible apply modPlace_same
    | with_reducible apply cmdErr_same
    | with_reducible apply Same.ite
    | exact sub_of hp (by decide)
    | intro _
    | dsimp only
    | split
    | with_reducible refine Same.upd ?_ ?_ ?_ ?_ ?_ ?_ ?_ ?_ ?_ ?_ ?_ ?_ ?_ ?_ ?_ ?_ ?_ ?_ ?_ ?_ ?_ ?_ ?_ ?_ ?_ ?_ ?_ ?_

theorem execReloadComplete_same {ps : List StatePart} {base s : State} (hk : Same ps base s) (place : PlaceNo) (memErr : Bool)
    (hp : ([.grm, .err, .sec, .mbx, .sheds, .stalls] : List StatePart) ⊆ ps := by exact sub_of (by assumption) (by decide)) : OutSame ps base (execReloadComplete place memErr s) := by
  unfold execReloadComplete
  repeat' first
    | exact Or.inr (partIn hp (by decide))
    | with_reducible exact Or.inl rfl
    | with_reducible assumption
    | with_reducible apply modPlace_same
    | with_reducible apply hmemParity_same
    | with_reducible apply Same.ite
    | with_reducible apply OutSame.next
    | exact sub_of hp (by decide)
    | intro _
    | dsimp only
    | split
    | with_reducible refine Same.upd ?_ ?_ ?_ ?_ ?_ ?_ ?_ ?_ ?_ ?_ ?_ ?_ ?_ ?_ ?_ ?_ ?_ ?_ ?_ ?_ ?_ ?_ ?_ ?_ ?_ ?_ ?_ ?_

theorem fixDevState_same {ps : List StatePart} {base s : State} (hk : Same ps base s) 
    (hp : ([.dev] : List StatePart) ⊆ ps := by exact sub_of (by assumption) (by decide)) : Same ps base (fixDevState s) := by
  unfold fixDevState
  repeat' first
    | exact Or.inr (partIn hp (by decide))
    | with_reducible exact Or.inl rfl
    | with_reducible assumption
    | with_reducible apply Same.ite
    | exact sub_of hp (by decide)
    | intro _
    | dsimp only
    | split
    | with_reducible refine Same.upd ?_ ?_ ?_ ?_ ?_ ?_ ?_ ?_ ?_ ?_ ?_ ?_ ?_ ?_ ?_ ?_ ?_ ?_ ?_ ?_ ?_ ?_ ?_ ?_ ?_ ?_ ?_ ?_

theorem flipShed_same {ps : List StatePart} {base s : State} (hk : Same ps base s) (k : Nat)
    (hp : ([.sheds, .psheds, .stalls] : List StatePart) ⊆ ps := by exact sub_of (by assumption) (by decide)) : Same ps base (flipShed s k) := by
  unfold flipShed
  repeat' first
    | exact Or.inr (partIn hp (by decide))
    | with_reducible exact Or.inl rfl
    | with_reducible assumption
    | with_reducible apply modShed_same
    | with_reducible apply modPShed_same
    | exact sub_of hp (by decide)
    | intro _
    | dsimp only
    | with_reducible refine Same.upd ?_ ?_ ?_ ?_ ?_ ?_ ?_ ?_ ?_ ?_ ?_ ?_ ?_ ?_ ?_ ?_ ?_ ?_ ?_ ?_ ?_ ?_ ?_ ?_ ?_ ?_ ?_ ?_

theorem openSheds_same {ps : List StatePart} {base s : State} (hk : Same ps base s) 
    (hp : ([.sheds, .psheds, .stalls] : List StatePart) ⊆ ps := by exact sub_of (by assumption) (by decide)) : Same ps base (openSheds s) := by
  unfold openSheds
  repeat' first
    | exact Or.inr (partIn hp (by decide))
    | with_reducible exact Or.inl rfl
    | with_reducible assumption
    | with_reducible apply modPShed_same
    | with_reducible apply Same.ite
    | with_reducible refine Same.foldl ?_ (fun _ _ _ => ?_)
    | exact sub_of hp (by decide)
    | intro _
    | dsimp only
    | split
    | with_reducible refine Same.upd ?_ ?_ ?_ ?_ ?_ ?_ ?_ ?_ ?_ ?_ ?_ ?_ ?_ ?_ ?_ ?_ ?_ ?_ ?_ ?_ ?_ ?_ ?_ ?_ ?_ ?_ ?_ ?_

theorem sendOpen_same {ps : List StatePart} {base s : State} (hk : Same ps base s) (p : Nat)
    (hp : ([.pwr, .sec, .yards, .sheds, .psheds, .stalls] : List StatePart) ⊆ ps := by exact sub_of (by assumption) (by decide)) : Same ps base (sendOpen s p) := by
  unfold sendOpen
  repeat' first
    | exact Or.inr (partIn hp (by decide))
    | with_reducible exact Or.inl rfl
    | with_reducible assumption
    | with_reducible apply openSheds_same
    | exact sub_of hp (by decide)
    | intro _
    | dsimp only
    | with_reducible refine Same.upd ?_ ?_ ?_ ?_ ?_ ?_ ?_ ?_ ?_ ?_ ?_ ?_ ?_ ?_ ?_ ?_ ?_ ?_ ?_ ?_ ?_ ?_ ?_ ?_ ?_ ?_ ?_ ?_

theorem takeStart_same {ps : List StatePart} {base s : State} (hk : Same ps base s) (p : Nat)
    (hp : ([.pwr, .sec, .yards, .sheds, .psheds, .stalls] : List StatePart) ⊆ ps := by exact sub_of (by assumption) (by decide)) : Same ps base (takeStart p s) := by
  unfold takeStart
  repeat' first
    | exact Or.inr (partIn hp (by decide))
    | with_reducible exact Or.inl rfl
    | with_reducible assumption
    | with_reducible apply cmdErr_same
    | with_reducible apply sendOpen_same
    | with_reducible apply Same.ite
    | exact sub_of hp (by decide)
    | intro _
    | dsimp only
    | split
    | with_reducible refine Same.upd ?_ ?_ ?_ ?_ ?_ ?_ ?_ ?_ ?_ ?_ ?_ ?_ ?_ ?_ ?_ ?_ ?_ ?_ ?_ ?_ ?_ ?_ ?_ ?_ ?_ ?_ ?_ ?_

theorem autoStart_same {ps : List StatePart} {base s : State} (hk : Same ps base s) 
    (hp : ([.pwr, .sec, .yards, .sheds, .psheds, .stalls] : List StatePart) ⊆ ps := by exact sub_of (by assumption) (by decide)) : Same ps base (autoStart s) := by
  unfold autoStart
  repeat' first
    | exact Or.inr (partIn hp (by decide))
    | with_reducible exact Or.inl rfl
    | with_reducible assumption
    | with_reducible apply cmdErr_same
    | with_reducible apply sendOpen_same
    | with_reducible apply Same.ite
    | exact sub_of hp (by decide)
    | intro _
    | dsimp only
    | split
    | with_reducible refine Same.upd ?_ ?_ ?_ ?_ ?_ ?_ ?_ ?_ ?_ ?_ ?_ ?_ ?_ ?_ ?_ ?_ ?_ ?_ ?_ ?_ ?_ ?_ ?_ ?_ ?_ ?_ ?_ ?_

theorem releaseStart_same {ps : List StatePart} {base s : State} (hk : Same ps base s) 
    (hp : ([.pwr, .sec, .yards, .sheds, .psheds, .stalls] : List StatePart) ⊆ ps := by exact sub_of (by assumption) (by decide)) : Same ps base (releaseStart s) := by
  unfold releaseStart
  repeat' first
    | exact Or.inr (partIn hp (by decide))
    | with_reducible exact Or.inl rfl
    | with_reducible assumption
    | with_reducible apply takeStart_same
    | with_reducible apply autoStart_same
    | with_reducible apply Same.ite
    | exact sub_of hp (by decide)
    | intro _
    | dsimp only
    | split
    | with_reducible refine Same.upd ?_ ?_ ?_ ?_ ?_ ?_ ?_ ?_ ?_ ?_ ?_ ?_ ?_ ?_ ?_ ?_ ?_ ?_ ?_ ?_ ?_ ?_ ?_ ?_ ?_ ?_ ?_ ?_

theorem armEndsLunge_same {ps : List StatePart} {base s : State} (hk : Same ps base s) (p : Nat)
    (hp : ([.err, .psheds, .lunge] : List StatePart) ⊆ ps := by exact sub_of (by assumption) (by decide)) : Same ps base (armEndsLunge s p) := by
  unfold armEndsLunge
  repeat' first
    | exact Or.inr (partIn hp (by decide))
    | with_reducible exact Or.inl rfl
    | with_reducible assumption
    | with_reducible apply modPShed_same
    | with_reducible apply Same.ite
    | exact sub_of hp (by decide)
    | intro _
    | dsimp only
    | split
    | with_reducible refine Same.upd ?_ ?_ ?_ ?_ ?_ ?_ ?_ ?_ ?_ ?_ ?_ ?_ ?_ ?_ ?_ ?_ ?_ ?_ ?_ ?_ ?_ ?_ ?_ ?_ ?_ ?_ ?_ ?_

theorem takeArm_same {ps : List StatePart} {base s : State} (hk : Same ps base s) (p : Nat) (auto : Bool)
    (hp : ([.err, .sec, .psheds, .lunge] : List StatePart) ⊆ ps := by exact sub_of (by assumption) (by decide)) : Same ps base (takeArm p auto s) := by
  unfold takeArm
  repeat' first
    | exact Or.inr (partIn hp (by decide))
    | with_reducible exact Or.inl rfl
    | with_reducible assumption
    | with_reducible apply modPlace_same
    | with_reducible apply cmdErr_same
    | with_reducible apply armEndsLunge_same
    | with_reducible apply Same.ite
    | exact sub_of hp (by decide)
    | intro _
    | dsimp only
    | split
    | with_reducible refine Same.upd ?_ ?_ ?_ ?_ ?_ ?_ ?_ ?_ ?_ ?_ ?_ ?_ ?_ ?_ ?_ ?_ ?_ ?_ ?_ ?_ ?_ ?_ ?_ ?_ ?_ ?_ ?_ ?_

theorem armDeltas_same {ps : List StatePart} {base s : State} (hk : Same ps base s) (p : Nat)
    (hp : ([.sec, .mars, .yards, .routeA, .routeB] : List StatePart) ⊆ ps := by exact sub_of (by assumption) (by decide)) : Same ps base (armDeltas s p) := by
  unfold armDeltas
  repeat' first
    | exact Or.inr (partIn hp (by decide))
    | with_reducible exact Or.inl rfl
    | with_reducible assumption
    | with_reducible apply writeEpoch_same
    | with_reducible apply applyRtd_same
    | with_reducible apply applyMrd_same
    | with_reducible apply Same.ite
    | exact sub_of hp (by decide)
    | intro _
    | dsimp only
    | split
    | with_reducible refine Same.upd ?_ ?_ ?_ ?_ ?_ ?_ ?_ ?_ ?_ ?_ ?_ ?_ ?_ ?_ ?_ ?_ ?_ ?_ ?_ ?_ ?_ ?_ ?_ ?_ ?_ ?_ ?_ ?_

theorem execArmComplete_same {ps : List StatePart} {base s : State} (hk : Same ps base s) 
    (hp : ([.pwr, .sec, .mars, .yards, .sheds, .psheds, .stalls, .routeA, .routeB] : List StatePart) ⊆ ps := by exact sub_of (by assumption) (by decide)) : OutSame ps base (execArmComplete s) := by
  unfold execArmComplete
  repeat' first
    | exact Or.inr (partIn hp (by decide))
    | with_reducible exact Or.inl rfl
    | with_reducible assumption
    | with_reducible apply modPlace_same
    | with_reducible apply autoStart_same
    | with_reducible apply armDeltas_same
    | with_reducible apply Same.ite
    | with_reducible apply OutSame.next
    | exact sub_of hp (by decide)
    | intro _
    | dsimp only
    | split
    | with_reducible refine Same.upd ?_ ?_ ?_ ?_ ?_ ?_ ?_ ?_ ?_ ?_ ?_ ?_ ?_ ?_ ?_ ?_ ?_ ?_ ?_ ?_ ?_ ?_ ?_ ?_ ?_ ?_ ?_ ?_

theorem disarmPlace_same {ps : List StatePart} {base s : State} (hk : Same ps base s) (p : Nat)
    (hp : ([.sec] : List StatePart) ⊆ ps := by exact sub_of (by assumption) (by decide)) : Same ps base (disarmPlace s p) := by
  unfold disarmPlace
  repeat' first
    | exact Or.inr (partIn hp (by decide))
    | with_reducible exact Or.inl rfl
    | with_reducible assumption
    | with_reducible apply modPlace_same
    | exact sub_of hp (by decide)
    | intro _
    | dsimp only
    | with_reducible refine Same.upd ?_ ?_ ?_ ?_ ?_ ?_ ?_ ?_ ?_ ?_ ?_ ?_ ?_ ?_ ?_ ?_ ?_ ?_ ?_ ?_ ?_ ?_ ?_ ?_ ?_ ?_ ?_ ?_

theorem takeDisarm_same {ps : List StatePart} {base s : State} (hk : Same ps base s) (p : Nat)
    (hp : ([.sec] : List StatePart) ⊆ ps := by exact sub_of (by assumption) (by decide)) : Same ps base (takeDisarm p s) := by
  unfold takeDisarm
  repeat' first
    | with_reducible assumption
    | with_reducible apply cmdErr_same
    | with_reducible apply disarmPlace_same
    | with_reducible apply Same.ite
    | exact sub_of hp (by decide)
    | intro _
    | dsimp only
    | split

theorem takeSec_same {ps : List StatePart} {base s : State} (hk : Same ps base s) (cmd : Nat) (place : Nat) (auto : Bool)
    (hp : ([.grm, .pwr, .err, .sec, .mbx, .mars, .ports, .yards, .sheds, .psheds, .stalls, .track, .lunge, .fresh] : List StatePart) ⊆ ps := by exact sub_of (by assumption) (by decide)) : Same ps base (takeSec cmd place auto s) := by
  unfold takeSec
  repeat' first
    | with_reducible assumption
    | with_reducible apply requestAbort_same
    | with_reducible apply takeLoad_same
    | with_reducible apply takeEvict_same
    | with_reducible apply takeReload_same
    | with_reducible apply takeStart_same
    | with_reducible apply takeArm_same
    | with_reducible apply takeDisarm_same
    | with_reducible apply Same.ite
    | exact sub_of hp (by decide)
    | intro _
    | dsimp only
    | split

theorem writeSecCtrl_same {ps : List StatePart} {base s : State} (hk : Same ps base s) (data : Nat)
    (hp : ([.grm, .pwr, .err, .sec, .mbx, .mars, .ports, .yards, .sheds, .psheds, .stalls, .track, .lunge, .fresh] : List StatePart) ⊆ ps := by exact sub_of (by assumption) (by decide)) : Same ps base (writeSecCtrl data s) := by
  unfold writeSecCtrl
  repeat' first
    | exact Or.inr (partIn hp (by decide))
    | with_reducible exact Or.inl rfl
    | with_reducible assumption
    | with_reducible apply takeSec_same
    | with_reducible apply Same.ite
    | exact sub_of hp (by decide)
    | intro _
    | dsimp only
    | split
    | with_reducible refine Same.upd ?_ ?_ ?_ ?_ ?_ ?_ ?_ ?_ ?_ ?_ ?_ ?_ ?_ ?_ ?_ ?_ ?_ ?_ ?_ ?_ ?_ ?_ ?_ ?_ ?_ ?_ ?_ ?_

theorem secCommand_same {ps : List StatePart} {base s : State} (hk : Same ps base s) (o : Origin) (cmd : Nat) (place : Nat) (auto : Bool)
    (hp : ([.grm, .pwr, .err, .sec, .mbx, .mars, .ports, .yards, .sheds, .psheds, .stalls, .track, .lunge, .fresh, .resp] : List StatePart) ⊆ ps := by exact sub_of (by assumption) (by decide)) : OutSame ps base (secCommand o cmd place auto s) := by
  unfold secCommand
  repeat' first
    | with_reducible assumption
    | with_reducible apply asAuth_same
    | with_reducible apply writeSecCtrl_same
    | with_reducible apply OutSame.next
    | exact sub_of hp (by decide)
    | intro _
    | dsimp only

theorem execLoad_same {ps : List StatePart} {base s : State} (hk : Same ps base s) (o : Origin) (place : PlaceNo)
    (hp : ([.grm, .pwr, .err, .sec, .mbx, .mars, .ports, .yards, .sheds, .psheds, .stalls, .track, .lunge, .fresh, .resp] : List StatePart) ⊆ ps := by exact sub_of (by assumption) (by decide)) : OutSame ps base (execLoad o place s) := by
  unfold execLoad
  repeat' first
    | with_reducible assumption
    | with_reducible apply secCommand_same
    | with_reducible apply OutSame.next
    | exact sub_of hp (by decide)
    | intro _
    | dsimp only

theorem execArm_same {ps : List StatePart} {base s : State} (hk : Same ps base s) (o : Origin) (place : PlaceNo) (auto : Bool)
    (hp : ([.grm, .pwr, .err, .sec, .mbx, .mars, .ports, .yards, .sheds, .psheds, .stalls, .track, .lunge, .fresh, .resp] : List StatePart) ⊆ ps := by exact sub_of (by assumption) (by decide)) : OutSame ps base (execArm o place auto s) := by
  unfold execArm
  repeat' first
    | with_reducible assumption
    | with_reducible apply secCommand_same
    | with_reducible apply OutSame.next
    | exact sub_of hp (by decide)
    | intro _
    | dsimp only

theorem execStart_same {ps : List StatePart} {base s : State} (hk : Same ps base s) (o : Origin) (place : PlaceNo)
    (hp : ([.grm, .pwr, .err, .sec, .mbx, .mars, .ports, .yards, .sheds, .psheds, .stalls, .track, .lunge, .fresh, .resp] : List StatePart) ⊆ ps := by exact sub_of (by assumption) (by decide)) : OutSame ps base (execStart o place s) := by
  unfold execStart
  repeat' first
    | with_reducible assumption
    | with_reducible apply secCommand_same
    | with_reducible apply OutSame.next
    | exact sub_of hp (by decide)
    | intro _
    | dsimp only

theorem execAbort_same {ps : List StatePart} {base s : State} (hk : Same ps base s) (o : Origin)
    (hp : ([.grm, .pwr, .err, .sec, .mbx, .mars, .ports, .yards, .sheds, .psheds, .stalls, .track, .lunge, .fresh, .resp] : List StatePart) ⊆ ps := by exact sub_of (by assumption) (by decide)) : OutSame ps base (execAbort o s) := by
  unfold execAbort
  repeat' first
    | with_reducible assumption
    | with_reducible apply secCommand_same
    | with_reducible apply OutSame.next
    | exact sub_of hp (by decide)
    | intro _
    | dsimp only

theorem execDisarm_same {ps : List StatePart} {base s : State} (hk : Same ps base s) (o : Origin) (place : PlaceNo)
    (hp : ([.grm, .pwr, .err, .sec, .mbx, .mars, .ports, .yards, .sheds, .psheds, .stalls, .track, .lunge, .fresh, .resp] : List StatePart) ⊆ ps := by exact sub_of (by assumption) (by decide)) : OutSame ps base (execDisarm o place s) := by
  unfold execDisarm
  repeat' first
    | with_reducible assumption
    | with_reducible apply secCommand_same
    | with_reducible apply OutSame.next
    | exact sub_of hp (by decide)
    | intro _
    | dsimp only

theorem execEvict_same {ps : List StatePart} {base s : State} (hk : Same ps base s) (o : Origin) (place : PlaceNo)
    (hp : ([.grm, .pwr, .err, .sec, .mbx, .mars, .ports, .yards, .sheds, .psheds, .stalls, .track, .lunge, .fresh, .resp] : List StatePart) ⊆ ps := by exact sub_of (by assumption) (by decide)) : OutSame ps base (execEvict o place s) := by
  unfold execEvict
  repeat' first
    | with_reducible assumption
    | with_reducible apply secCommand_same
    | with_reducible apply OutSame.next
    | exact sub_of hp (by decide)
    | intro _
    | dsimp only

theorem execReload_same {ps : List StatePart} {base s : State} (hk : Same ps base s) (o : Origin) (place : PlaceNo)
    (hp : ([.grm, .pwr, .err, .sec, .mbx, .mars, .ports, .yards, .sheds, .psheds, .stalls, .track, .lunge, .fresh, .resp] : List StatePart) ⊆ ps := by exact sub_of (by assumption) (by decide)) : OutSame ps base (execReload o place s) := by
  unfold execReload
  repeat' first
    | with_reducible assumption
    | with_reducible apply secCommand_same
    | with_reducible apply OutSame.next
    | exact sub_of hp (by decide)
    | intro _
    | dsimp only

theorem beginStalls_same {ps : List StatePart} {base s : State} (hk : Same ps base s) 
    (hp : ([.stalls, .fresh] : List StatePart) ⊆ ps := by exact sub_of (by assumption) (by decide)) : Same ps base (beginStalls s) := by
  unfold beginStalls
  repeat' first
    | exact Or.inr (partIn hp (by decide))
    | with_reducible exact Or.inl rfl
    | with_reducible assumption
    | exact sub_of hp (by decide)
    | intro _
    | dsimp only
    | with_reducible refine Same.upd ?_ ?_ ?_ ?_ ?_ ?_ ?_ ?_ ?_ ?_ ?_ ?_ ?_ ?_ ?_ ?_ ?_ ?_ ?_ ?_ ?_ ?_ ?_ ?_ ?_ ?_ ?_ ?_

theorem startPower_same {ps : List StatePart} {base s : State} (hk : Same ps base s) (p : Nat)
    (hp : ([.pwr] : List StatePart) ⊆ ps := by exact sub_of (by assumption) (by decide)) : Same ps base (startPower s p) := by
  unfold startPower
  repeat' first
    | exact Or.inr (partIn hp (by decide))
    | with_reducible exact Or.inl rfl
    | with_reducible assumption
    | with_reducible apply Same.ite
    | exact sub_of hp (by decide)
    | intro _
    | dsimp only
    | split
    | with_reducible refine Same.upd ?_ ?_ ?_ ?_ ?_ ?_ ?_ ?_ ?_ ?_ ?_ ?_ ?_ ?_ ?_ ?_ ?_ ?_ ?_ ?_ ?_ ?_ ?_ ?_ ?_ ?_ ?_ ?_

theorem execStartOpening_same {ps : List StatePart} {base s : State} (hk : Same ps base s) 
    (hp : ([.dev, .pwr, .err, .sec, .yards, .sheds, .stalls, .fresh] : List StatePart) ⊆ ps := by exact sub_of (by assumption) (by decide)) : OutSame ps base (execStartOpening s) := by
  unfold execStartOpening
  repeat' first
    | exact Or.inr (partIn hp (by decide))
    | with_reducible exact Or.inl rfl
    | with_reducible assumption
    | with_reducible apply switchEpoch_same
    | with_reducible apply invertPhase_same
    | with_reducible apply modPlace_same
    | with_reducible apply fixDevState_same
    | with_reducible apply beginStalls_same
    | with_reducible apply startPower_same
    | with_reducible apply Same.ite
    | with_reducible apply OutSame.next
    | exact sub_of hp (by decide)
    | intro _
    | dsimp only
    | split
    | with_reducible refine Same.upd ?_ ?_ ?_ ?_ ?_ ?_ ?_ ?_ ?_ ?_ ?_ ?_ ?_ ?_ ?_ ?_ ?_ ?_ ?_ ?_ ?_ ?_ ?_ ?_ ?_ ?_ ?_ ?_

theorem closeStall_same {ps : List StatePart} {base s : State} (hk : Same ps base s) (sid : Nat)
    (hp : ([.grm, .err, .mbx, .sheds] : List StatePart) ⊆ ps := by exact sub_of (by assumption) (by decide)) : Same ps base (closeStall s sid) := by
  unfold closeStall
  repeat' first
    | with_reducible assumption
    | with_reducible apply tallyDrift_same
    | with_reducible apply gateLeftOpen_same
    | with_reducible apply Same.ite
    | with_reducible refine Same.foldl ?_ (fun _ _ _ => ?_)
    | exact sub_of hp (by decide)
    | intro _
    | dsimp only
    | split

theorem closeStalls_same {ps : List StatePart} {base s : State} (hk : Same ps base s) 
    (hp : ([.stalls] : List StatePart) ⊆ ps := by exact sub_of (by assumption) (by decide)) : Same ps base (closeStalls s) := by
  unfold closeStalls
  repeat' first
    | exact Or.inr (partIn hp (by decide))
    | with_reducible exact Or.inl rfl
    | with_reducible assumption
    | exact sub_of hp (by decide)
    | intro _
    | dsimp only
    | with_reducible refine Same.upd ?_ ?_ ?_ ?_ ?_ ?_ ?_ ?_ ?_ ?_ ?_ ?_ ?_ ?_ ?_ ?_ ?_ ?_ ?_ ?_ ?_ ?_ ?_ ?_ ?_ ?_ ?_ ?_

theorem parkHeld_same {ps : List StatePart} {base s : State} (hk : Same ps base s) 
    (hp : ([.psheds] : List StatePart) ⊆ ps := by exact sub_of (by assumption) (by decide)) : Same ps base (parkHeld s) := by
  unfold parkHeld
  repeat' first
    | exact Or.inr (partIn hp (by decide))
    | with_reducible exact Or.inl rfl
    | with_reducible assumption
    | with_reducible apply Same.ite
    | exact sub_of hp (by decide)
    | intro _
    | dsimp only
    | split
    | with_reducible refine Same.upd ?_ ?_ ?_ ?_ ?_ ?_ ?_ ?_ ?_ ?_ ?_ ?_ ?_ ?_ ?_ ?_ ?_ ?_ ?_ ?_ ?_ ?_ ?_ ?_ ?_ ?_ ?_ ?_

theorem learnEnd_same {ps : List StatePart} {base s : State} (hk : Same ps base s) (p : Nat)
    (hp : ([.pwr] : List StatePart) ⊆ ps := by exact sub_of (by assumption) (by decide)) : Same ps base (learnEnd s p) := by
  unfold learnEnd
  repeat' first
    | exact Or.inr (partIn hp (by decide))
    | with_reducible exact Or.inl rfl
    | with_reducible assumption
    | exact sub_of hp (by decide)
    | intro _
    | dsimp only
    | split
    | with_reducible refine Same.upd ?_ ?_ ?_ ?_ ?_ ?_ ?_ ?_ ?_ ?_ ?_ ?_ ?_ ?_ ?_ ?_ ?_ ?_ ?_ ?_ ?_ ?_ ?_ ?_ ?_ ?_ ?_ ?_

theorem endHeld_same {ps : List StatePart} {base s : State} (hk : Same ps base s) 
    (hp : ([.sec] : List StatePart) ⊆ ps := by exact sub_of (by assumption) (by decide)) : Same ps base (endHeld s) := by
  unfold endHeld
  repeat' first
    | exact Or.inr (partIn hp (by decide))
    | with_reducible exact Or.inl rfl
    | with_reducible assumption
    | exact sub_of hp (by decide)
    | intro _
    | dsimp only
    | with_reducible refine Same.upd ?_ ?_ ?_ ?_ ?_ ?_ ?_ ?_ ?_ ?_ ?_ ?_ ?_ ?_ ?_ ?_ ?_ ?_ ?_ ?_ ?_ ?_ ?_ ?_ ?_ ?_ ?_ ?_

theorem completeSection_same {ps : List StatePart} {base s : State} (hk : Same ps base s) (p : Nat)
    (hp : ([.grm, .pwr, .err, .sec, .mbx, .mars, .sheds, .psheds, .stalls] : List StatePart) ⊆ ps := by exact sub_of (by assumption) (by decide)) : Same ps base (completeSection s p) := by
  unfold completeSection
  repeat' first
    | exact Or.inr (partIn hp (by decide))
    | with_reducible exact Or.inl rfl
    | with_reducible assumption
    | with_reducible apply bucketsEnd_same
    | with_reducible apply modPlace_same
    | with_reducible apply closeStall_same
    | with_reducible apply closeStalls_same
    | with_reducible apply parkHeld_same
    | with_reducible apply learnEnd_same
    | with_reducible apply endHeld_same
    | with_reducible refine Same.foldl ?_ (fun _ _ _ => ?_)
    | exact sub_of hp (by decide)
    | intro _
    | dsimp only
    | with_reducible refine Same.upd ?_ ?_ ?_ ?_ ?_ ?_ ?_ ?_ ?_ ?_ ?_ ?_ ?_ ?_ ?_ ?_ ?_ ?_ ?_ ?_ ?_ ?_ ?_ ?_ ?_ ?_ ?_ ?_

theorem execEndLatch_same {ps : List StatePart} {base s : State} (hk : Same ps base s) 
    (hp : ([.dev, .grm, .pwr, .err, .sec, .mbx, .mars, .yards, .sheds, .psheds, .stalls] : List StatePart) ⊆ ps := by exact sub_of (by assumption) (by decide)) : OutSame ps base (execEndLatch s) := by
  unfold execEndLatch
  repeat' first
    | exact Or.inr (partIn hp (by decide))
    | with_reducible exact Or.inl rfl
    | with_reducible assumption
    | with_reducible apply fixDevState_same
    | with_reducible apply autoStart_same
    | with_reducible apply completeSection_same
    | with_reducible apply Same.ite
    | with_reducible apply OutSame.next
    | exact sub_of hp (by decide)
    | intro _
    | dsimp only
    | split
    | with_reducible refine Same.upd ?_ ?_ ?_ ?_ ?_ ?_ ?_ ?_ ?_ ?_ ?_ ?_ ?_ ?_ ?_ ?_ ?_ ?_ ?_ ?_ ?_ ?_ ?_ ?_ ?_ ?_ ?_ ?_

theorem abortedReached_same {ps : List StatePart} {base s : State} (hk : Same ps base s) 
    (hp : ([.dev, .pwr, .err, .sec, .yards, .sheds, .psheds, .stalls] : List StatePart) ⊆ ps := by exact sub_of (by assumption) (by decide)) : Same ps base (abortedReached s) := by
  unfold abortedReached
  repeat' first
    | exact Or.inr (partIn hp (by decide))
    | with_reducible exact Or.inl rfl
    | with_reducible assumption
    | with_reducible apply modPlace_same
    | with_reducible apply fixDevState_same
    | with_reducible apply autoStart_same
    | with_reducible apply Same.ite
    | exact sub_of hp (by decide)
    | intro _
    | dsimp only
    | split
    | with_reducible refine Same.upd ?_ ?_ ?_ ?_ ?_ ?_ ?_ ?_ ?_ ?_ ?_ ?_ ?_ ?_ ?_ ?_ ?_ ?_ ?_ ?_ ?_ ?_ ?_ ?_ ?_ ?_ ?_ ?_

theorem landLoft_same {ps : List StatePart} {base s : State} (hk : Same ps base s) (sid : Nat) (h : LoftHdr) (payload : List Byte)
    (hp : ([.grm, .err, .mbx, .yards, .sheds, .stalls, .track, .nextId] : List StatePart) ⊆ ps := by exact sub_of (by assumption) (by decide)) : Same ps base (landLoft s sid h payload) := by
  unfold landLoft
  repeat' first
    | exact Or.inr (partIn hp (by decide))
    | with_reducible exact Or.inl rfl
    | with_reducible assumption
    | with_reducible apply modQu_same
    | with_reducible apply modMem_same
    | with_reducible apply record_same
    | with_reducible apply inject_same
    | with_reducible apply Same.ite
    | exact sub_of hp (by decide)
    | intro _
    | dsimp only
    | split
    | with_reducible refine Same.upd ?_ ?_ ?_ ?_ ?_ ?_ ?_ ?_ ?_ ?_ ?_ ?_ ?_ ?_ ?_ ?_ ?_ ?_ ?_ ?_ ?_ ?_ ?_ ?_ ?_ ?_ ?_ ?_

theorem execLoftWriteLanding_same {ps : List StatePart} {base s : State} (hk : Same ps base s) (sid : StallId)
    (hp : ([.grm, .err, .mbx, .yards, .sheds, .psheds, .stalls, .track, .nextId] : List StatePart) ⊆ ps := by exact sub_of (by assumption) (by decide)) : OutSame ps base (execLoftWriteLanding sid s) := by
  unfold execLoftWriteLanding
  repeat' first
    | exact Or.inr (partIn hp (by decide))
    | with_reducible exact Or.inl rfl
    | with_reducible assumption
    | with_reducible apply clearEj_same
    | with_reducible apply requestWake_same
    | with_reducible apply landLoft_same
    | with_reducible apply modTrack_same
    | with_reducible apply removeTrack_same
    | with_reducible apply discardAt_same
    | with_reducible apply countUnreach_same
    | with_reducible apply Same.ite
    | with_reducible apply OutSame.next
    | exact sub_of hp (by decide)
    | intro _
    | dsimp only
    | split
    | with_reducible refine Same.upd ?_ ?_ ?_ ?_ ?_ ?_ ?_ ?_ ?_ ?_ ?_ ?_ ?_ ?_ ?_ ?_ ?_ ?_ ?_ ?_ ?_ ?_ ?_ ?_ ?_ ?_ ?_ ?_

end Sys2Proof.Machine
end

