-- ==== Sys2Proof/Laws/SamePort.lean ====
section
/-! SUPPORT. Which parts of the state the commands of streams, buckets, ports, time and mailboxes can change (Safety, `Same`). -/

set_option Elab.async false
set_option linter.all false

namespace Sys2Proof.Machine

/-- The state of a received car's outcome is the same as `c` outside `ps`. -/
def GotSame (ps : List StatePart) (c : State) : Got → Prop
  | .take s => Same ps c s
  | .drop s => Same ps c s

theorem GotSame.take {ps : List StatePart} {c s : State} (h : Same ps c s) : GotSame ps c (.take s) := h
theorem GotSame.drop {ps : List StatePart} {c s : State} (h : Same ps c s) : GotSame ps c (.drop s) := h
theorem GotSame.ite {ps : List StatePart} {c : State} {a b : Got} {p : Prop} [Decidable p] (ha : GotSame ps c a) (hb : GotSame ps c b) : GotSame ps c (if p then a else b) := by
  split <;> assumption

theorem exchangeOffset_same {ps : List StatePart} {base s : State} (hk : Same ps base s) (t1 t2 t3 t4 : Nat)
    (hp : ([.fresh] : List StatePart) ⊆ ps := by exact sub_of (by assumption) (by decide)) : Same ps base (exchangeOffset s t1 t2 t3 t4).2 := by
  unfold exchangeOffset takeFresh
  dsimp only
  split
  · exact hk
  · with_reducible refine Same.upd hk ?_ ?_ ?_ ?_ ?_ ?_ ?_ ?_ ?_ ?_ ?_ ?_ ?_ ?_ ?_ ?_ ?_ ?_ ?_ ?_ ?_ ?_ ?_ ?_ ?_ ?_ ?_
    all_goals first | exact Or.inr (partIn hp (by decide)) | with_reducible exact Or.inl rfl

/-! Cars. -/

theorem sendLctl_same {ps : List StatePart} {base s : State} (hk : Same ps base s) (p : Nat) (nak : Bool)
    (hp : ([.ports] : List StatePart) ⊆ ps := by exact sub_of (by assumption) (by decide)) : Same ps base (sendLctl s p nak) := by
  unfold sendLctl
  repeat' first
    | exact Or.inr (partIn hp (by decide))
    | with_reducible exact Or.inl rfl
    | with_reducible assumption
    | with_reducible apply modPort_same
    | exact sub_of hp (by decide)
    | intro _
    | dsimp only
    | with_reducible refine Same.upd ?_ ?_ ?_ ?_ ?_ ?_ ?_ ?_ ?_ ?_ ?_ ?_ ?_ ?_ ?_ ?_ ?_ ?_ ?_ ?_ ?_ ?_ ?_ ?_ ?_ ?_ ?_ ?_

theorem sendNak_same {ps : List StatePart} {base s : State} (hk : Same ps base s) (p : Nat)
    (hp : ([.ports] : List StatePart) ⊆ ps := by exact sub_of (by assumption) (by decide)) : Same ps base (sendNak s p) := by
  unfold sendNak
  repeat' first
    | with_reducible assumption
    | with_reducible apply sendLctl_same
    | with_reducible apply Same.ite
    | exact sub_of hp (by decide)
    | intro _
    | dsimp only
    | split

theorem quarantine_same {ps : List StatePart} {base s : State} (hk : Same ps base s) (p : Nat) (cause : Nat)
    (hp : ([.dev, .ports] : List StatePart) ⊆ ps := by exact sub_of (by assumption) (by decide)) : Same ps base (quarantine s p cause) := by
  unfold quarantine
  repeat' first
    | exact Or.inr (partIn hp (by decide))
    | with_reducible exact Or.inl rfl
    | with_reducible assumption
    | with_reducible apply portState_same
    | exact sub_of hp (by decide)
    | intro _
    | dsimp only
    | with_reducible refine Same.upd ?_ ?_ ?_ ?_ ?_ ?_ ?_ ?_ ?_ ?_ ?_ ?_ ?_ ?_ ?_ ?_ ?_ ?_ ?_ ?_ ?_ ?_ ?_ ?_ ?_ ?_ ?_ ?_

theorem gcmFail_same {ps : List StatePart} {base s : State} (hk : Same ps base s) (p : Nat)
    (hp : ([.dev, .grm, .err, .mbx, .ports, .sheds] : List StatePart) ⊆ ps := by exact sub_of (by assumption) (by decide)) : Same ps base (gcmFail s p) := by
  unfold gcmFail
  repeat' first
    | exact Or.inr (partIn hp (by decide))
    | with_reducible exact Or.inl rfl
    | with_reducible assumption
    | with_reducible apply sendNak_same
    | with_reducible apply quarantine_same
    | with_reducible apply linkAuth_same
    | with_reducible apply modPort_same
    | with_reducible apply Same.ite
    | exact sub_of hp (by decide)
    | intro _
    | dsimp only
    | split
    | with_reducible refine Same.upd ?_ ?_ ?_ ?_ ?_ ?_ ?_ ?_ ?_ ?_ ?_ ?_ ?_ ?_ ?_ ?_ ?_ ?_ ?_ ?_ ?_ ?_ ?_ ?_ ?_ ?_ ?_ ?_

theorem malformed_same {ps : List StatePart} {base s : State} (hk : Same ps base s) (p : Nat)
    (hp : ([.ports] : List StatePart) ⊆ ps := by exact sub_of (by assumption) (by decide)) : Same ps base (malformed s p) := by
  unfold malformed
  repeat' first
    | exact Or.inr (partIn hp (by decide))
    | with_reducible exact Or.inl rfl
    | with_reducible assumption
    | with_reducible apply modPort_same
    | exact sub_of hp (by decide)
    | intro _
    | dsimp only
    | with_reducible refine Same.upd ?_ ?_ ?_ ?_ ?_ ?_ ?_ ?_ ?_ ?_ ?_ ?_ ?_ ?_ ?_ ?_ ?_ ?_ ?_ ?_ ?_ ?_ ?_ ?_ ?_ ?_ ?_ ?_

theorem receiveCar_same {ps : List StatePart} {base s : State} (hk : Same ps base s) (p : Nat) (c : RxCar)
    (hp : ([.dev, .grm, .err, .mbx, .ports, .sheds] : List StatePart) ⊆ ps := by exact sub_of (by assumption) (by decide)) : GotSame ps base (receiveCar s p c) := by
  unfold receiveCar
  repeat' first
    | exact Or.inr (partIn hp (by decide))
    | with_reducible exact Or.inl rfl
    | with_reducible assumption
    | with_reducible apply sendNak_same
    | with_reducible apply gcmFail_same
    | with_reducible apply malformed_same
    | with_reducible apply modPort_same
    | with_reducible apply Same.ite
    | with_reducible apply GotSame.take
    | with_reducible apply GotSame.drop
    | with_reducible apply GotSame.ite
    | exact sub_of hp (by decide)
    | intro _
    | dsimp only
    | split
    | with_reducible refine Same.upd ?_ ?_ ?_ ?_ ?_ ?_ ?_ ?_ ?_ ?_ ?_ ?_ ?_ ?_ ?_ ?_ ?_ ?_ ?_ ?_ ?_ ?_ ?_ ?_ ?_ ?_ ?_ ?_

theorem replayCars_same {ps : List StatePart} {base s : State} (hk : Same ps base s) (p : Nat)
    (hp : ([.dev, .grm, .err, .mbx, .ports, .sheds] : List StatePart) ⊆ ps := by exact sub_of (by assumption) (by decide)) : Same ps base (replayCars s p) := by
  unfold replayCars
  repeat' first
    | exact Or.inr (partIn hp (by decide))
    | with_reducible exact Or.inl rfl
    | with_reducible assumption
    | with_reducible apply linkBer_same
    | with_reducible apply portState_same
    | with_reducible apply modPort_same
    | with_reducible apply Same.ite
    | exact sub_of hp (by decide)
    | intro _
    | dsimp only
    | split
    | with_reducible refine Same.upd ?_ ?_ ?_ ?_ ?_ ?_ ?_ ?_ ?_ ?_ ?_ ?_ ?_ ?_ ?_ ?_ ?_ ?_ ?_ ?_ ?_ ?_ ?_ ?_ ?_ ?_ ?_ ?_

theorem applyLctl_same {ps : List StatePart} {base s : State} (hk : Same ps base s) (p : Nat) (payload : List Byte)
    (hp : ([.dev, .grm, .err, .mbx, .ports, .sheds] : List StatePart) ⊆ ps := by exact sub_of (by assumption) (by decide)) : Same ps base (applyLctl s p payload) := by
  unfold applyLctl
  repeat' first
    | exact Or.inr (partIn hp (by decide))
    | with_reducible exact Or.inl rfl
    | with_reducible assumption
    | with_reducible apply replayCars_same
    | with_reducible apply modPort_same
    | with_reducible apply Same.ite
    | exact sub_of hp (by decide)
    | intro _
    | dsimp only
    | split
    | with_reducible refine Same.upd ?_ ?_ ?_ ?_ ?_ ?_ ?_ ?_ ?_ ?_ ?_ ?_ ?_ ?_ ?_ ?_ ?_ ?_ ?_ ?_ ?_ ?_ ?_ ?_ ?_ ?_ ?_ ?_

theorem execLctlSend_same {ps : List StatePart} {base s : State} (hk : Same ps base s) (port : PortId)
    (hp : ([.ports] : List StatePart) ⊆ ps := by exact sub_of (by assumption) (by decide)) : OutSame ps base (execLctlSend port s) := by
  unfold execLctlSend
  repeat' first
    | with_reducible assumption
    | with_reducible apply sendLctl_same
    | with_reducible apply Same.ite
    | with_reducible apply OutSame.next
    | exact sub_of hp (by decide)
    | intro _
    | dsimp only
    | split

theorem execReplayTimeout_same {ps : List StatePart} {base s : State} (hk : Same ps base s) (port : PortId)
    (hp : ([.dev, .grm, .err, .mbx, .ports, .sheds] : List StatePart) ⊆ ps := by exact sub_of (by assumption) (by decide)) : OutSame ps base (execReplayTimeout port s) := by
  unfold execReplayTimeout
  repeat' first
    | with_reducible assumption
    | with_reducible apply replayCars_same
    | with_reducible apply Same.ite
    | with_reducible apply OutSame.next
    | exact sub_of hp (by decide)
    | intro _
    | dsimp only
    | split

/-! Streams. -/

theorem takeIssue_same {ps : List StatePart} {base s : State} (hk : Same ps base s) (p : Nat) (c : Nat)
    (hp : ([.ports] : List StatePart) ⊆ ps := by exact sub_of (by assumption) (by decide)) : Same ps base (takeIssue p c s) := by
  unfold takeIssue
  repeat' first
    | exact Or.inr (partIn hp (by decide))
    | with_reducible exact Or.inl rfl
    | with_reducible assumption
    | with_reducible apply sendSctl_same
    | with_reducible apply modPort_same
    | with_reducible apply modCtx_same
    | with_reducible apply Same.ite
    | exact sub_of hp (by decide)
    | intro _
    | dsimp only
    | split
    | with_reducible refine Same.upd ?_ ?_ ?_ ?_ ?_ ?_ ?_ ?_ ?_ ?_ ?_ ?_ ?_ ?_ ?_ ?_ ?_ ?_ ?_ ?_ ?_ ?_ ?_ ?_ ?_ ?_ ?_ ?_

theorem takeCancel_same {ps : List StatePart} {base s : State} (hk : Same ps base s) (p : Nat) (c : Nat)
    (hp : ([.sec, .ports] : List StatePart) ⊆ ps := by exact sub_of (by assumption) (by decide)) : Same ps base (takeCancel p c s) := by
  unfold takeCancel
  repeat' first
    | exact Or.inr (partIn hp (by decide))
    | with_reducible exact Or.inl rfl
    | with_reducible assumption
    | with_reducible apply stopStream_same
    | with_reducible apply slotFreed_same
    | with_reducible apply fixHeld_same
    | with_reducible apply modPort_same
    | with_reducible apply Same.ite
    | exact sub_of hp (by decide)
    | intro _
    | dsimp only
    | split
    | with_reducible refine Same.upd ?_ ?_ ?_ ?_ ?_ ?_ ?_ ?_ ?_ ?_ ?_ ?_ ?_ ?_ ?_ ?_ ?_ ?_ ?_ ?_ ?_ ?_ ?_ ?_ ?_ ?_ ?_ ?_

theorem writeMctrl_same {ps : List StatePart} {base s : State} (hk : Same ps base s) (p : Nat) (data : Nat)
    (hp : ([.sec, .ports] : List StatePart) ⊆ ps := by exact sub_of (by assumption) (by decide)) : Same ps base (writeMctrl p data s) := by
  unfold writeMctrl
  repeat' first
    | exact Or.inr (partIn hp (by decide))
    | with_reducible exact Or.inl rfl
    | with_reducible assumption
    | with_reducible apply modPort_same
    | with_reducible apply takeIssue_same
    | with_reducible apply takeCancel_same
    | with_reducible apply Same.ite
    | exact sub_of hp (by decide)
    | intro _
    | dsimp only
    | split
    | with_reducible refine Same.upd ?_ ?_ ?_ ?_ ?_ ?_ ?_ ?_ ?_ ?_ ?_ ?_ ?_ ?_ ?_ ?_ ?_ ?_ ?_ ?_ ?_ ?_ ?_ ?_ ?_ ?_ ?_ ?_

theorem execStreamIssue_same {ps : List StatePart} {base s : State} (hk : Same ps base s) (o : Origin) (port : PortId) (ctx : Fin 32)
    (hp : ([.sec, .ports, .resp] : List StatePart) ⊆ ps := by exact sub_of (by assumption) (by decide)) : OutSame ps base (execStreamIssue o port ctx s) := by
  unfold execStreamIssue
  repeat' first
    | with_reducible assumption
    | with_reducible apply asAuth_same
    | with_reducible apply writeMctrl_same
    | with_reducible apply OutSame.next
    | exact sub_of hp (by decide)
    | intro _
    | dsimp only

theorem execStreamCancel_same {ps : List StatePart} {base s : State} (hk : Same ps base s) (o : Origin) (port : PortId) (ctx : Fin 32)
    (hp : ([.sec, .ports, .resp] : List StatePart) ⊆ ps := by exact sub_of (by assumption) (by decide)) : OutSame ps base (execStreamCancel o port ctx s) := by
  unfold execStreamCancel
  repeat' first
    | with_reducible assumption
    | with_reducible apply asAuth_same
    | with_reducible apply writeMctrl_same
    | with_reducible apply OutSame.next
    | exact sub_of hp (by decide)
    | intro _
    | dsimp only

theorem freeSlot_same {ps : List StatePart} {base s : State} (hk : Same ps base s) (p : Nat) (c : Nat) (b : Nat)
    (hp : ([.ports] : List StatePart) ⊆ ps := by exact sub_of (by assumption) (by decide)) : Same ps base (freeSlot s p c b) := by
  unfold freeSlot
  repeat' first
    | exact Or.inr (partIn hp (by decide))
    | with_reducible exact Or.inl rfl
    | with_reducible assumption
    | with_reducible apply modPort_same
    | exact sub_of hp (by decide)
    | intro _
    | dsimp only
    | with_reducible refine Same.upd ?_ ?_ ?_ ?_ ?_ ?_ ?_ ?_ ?_ ?_ ?_ ?_ ?_ ?_ ?_ ?_ ?_ ?_ ?_ ?_ ?_ ?_ ?_ ?_ ?_ ?_ ?_ ?_

theorem loseStream_same {ps : List StatePart} {base s : State} (hk : Same ps base s) (p : Nat) (c : Nat)
    (hp : ([.grm, .err, .sec, .mbx, .mars, .ports, .sheds, .stalls, .track, .fresh] : List StatePart) ⊆ ps := by exact sub_of (by assumption) (by decide)) : Same ps base (loseStream s p c) := by
  unfold loseStream
  repeat' first
    | exact Or.inr (partIn hp (by decide))
    | with_reducible exact Or.inl rfl
    | with_reducible assumption
    | with_reducible apply stopStream_same
    | with_reducible apply slotFreed_same
    | with_reducible apply fixHeld_same
    | with_reducible apply hwAbort_same
    | with_reducible apply recordWith_same
    | with_reducible apply Same.ite
    | exact sub_of hp (by decide)
    | intro _
    | dsimp only
    | split
    | with_reducible refine Same.upd ?_ ?_ ?_ ?_ ?_ ?_ ?_ ?_ ?_ ?_ ?_ ?_ ?_ ?_ ?_ ?_ ?_ ?_ ?_ ?_ ?_ ?_ ?_ ?_ ?_ ?_ ?_ ?_

theorem blockFailed_same {ps : List StatePart} {base s : State} (hk : Same ps base s) (p : Nat) (c : Nat) (b : Nat)
    (hp : ([.grm, .err, .sec, .mbx, .mars, .ports, .sheds, .stalls, .track, .fresh] : List StatePart) ⊆ ps := by exact sub_of (by assumption) (by decide)) : Same ps base (blockFailed s p c b) := by
  unfold blockFailed
  repeat' first
    | exact Or.inr (partIn hp (by decide))
    | with_reducible exact Or.inl rfl
    | with_reducible assumption
    | with_reducible apply sendResend_same
    | with_reducible apply slotFreed_same
    | with_reducible apply modPort_same
    | with_reducible apply modCtx_same
    | with_reducible apply record_same
    | with_reducible apply freeSlot_same
    | with_reducible apply loseStream_same
    | with_reducible apply Same.ite
    | exact sub_of hp (by decide)
    | intro _
    | dsimp only
    | split
    | with_reducible refine Same.upd ?_ ?_ ?_ ?_ ?_ ?_ ?_ ?_ ?_ ?_ ?_ ?_ ?_ ?_ ?_ ?_ ?_ ?_ ?_ ?_ ?_ ?_ ?_ ?_ ?_ ?_ ?_ ?_

theorem dupDrop_same {ps : List StatePart} {base s : State} (hk : Same ps base s) (p : Nat)
    (hp : ([.ports] : List StatePart) ⊆ ps := by exact sub_of (by assumption) (by decide)) : Same ps base (dupDrop s p) := by
  unfold dupDrop
  repeat' first
    | exact Or.inr (partIn hp (by decide))
    | with_reducible exact Or.inl rfl
    | with_reducible assumption
    | with_reducible apply modPort_same
    | exact sub_of hp (by decide)
    | intro _
    | dsimp only
    | with_reducible refine Same.upd ?_ ?_ ?_ ?_ ?_ ?_ ?_ ?_ ?_ ?_ ?_ ?_ ?_ ?_ ?_ ?_ ?_ ?_ ?_ ?_ ?_ ?_ ?_ ?_ ?_ ?_ ?_ ?_

theorem overrunDrop_same {ps : List StatePart} {base s : State} (hk : Same ps base s) (p : Nat) (c : Nat) (b : Nat)
    (hp : ([.ports] : List StatePart) ⊆ ps := by exact sub_of (by assumption) (by decide)) : Same ps base (overrunDrop s p c b) := by
  unfold overrunDrop
  repeat' first
    | exact Or.inr (partIn hp (by decide))
    | with_reducible exact Or.inl rfl
    | with_reducible assumption
    | with_reducible apply modPort_same
    | with_reducible apply modCtx_same
    | exact sub_of hp (by decide)
    | intro _
    | dsimp only
    | split
    | with_reducible refine Same.upd ?_ ?_ ?_ ?_ ?_ ?_ ?_ ?_ ?_ ?_ ?_ ?_ ?_ ?_ ?_ ?_ ?_ ?_ ?_ ?_ ?_ ?_ ?_ ?_ ?_ ?_ ?_ ?_

theorem placeCar_same {ps : List StatePart} {base s : State} (hk : Same ps base s) (p : Nat) (c : Nat) (b : Nat) (k : Nat) (car : RxCar) (a : ASlot)
    (hp : ([.grm, .err, .sec, .mbx, .mars, .ports, .sheds, .stalls, .track, .fresh] : List StatePart) ⊆ ps := by exact sub_of (by assumption) (by decide)) : Same ps base (placeCar s p c b k car a) := by
  unfold placeCar
  repeat' first
    | exact Or.inr (partIn hp (by decide))
    | with_reducible exact Or.inl rfl
    | with_reducible assumption
    | with_reducible apply modPort_same
    | with_reducible apply blockFailed_same
    | with_reducible apply Same.ite
    | exact sub_of hp (by decide)
    | intro _
    | dsimp only
    | split
    | with_reducible refine Same.upd ?_ ?_ ?_ ?_ ?_ ?_ ?_ ?_ ?_ ?_ ?_ ?_ ?_ ?_ ?_ ?_ ?_ ?_ ?_ ?_ ?_ ?_ ?_ ?_ ?_ ?_ ?_ ?_

theorem takeStreamCar_same {ps : List StatePart} {base s : State} (hk : Same ps base s) (p : Nat) (c : Nat) (b : Nat) (k : Nat) (car : RxCar)
    (hp : ([.grm, .err, .sec, .mbx, .mars, .ports, .sheds, .stalls, .track, .fresh] : List StatePart) ⊆ ps := by exact sub_of (by assumption) (by decide)) : Same ps base (takeStreamCar s p c b k car) := by
  unfold takeStreamCar
  repeat' first
    | exact Or.inr (partIn hp (by decide))
    | with_reducible exact Or.inl rfl
    | with_reducible assumption
    | with_reducible apply fixHeld_same
    | with_reducible apply modCtx_same
    | with_reducible apply dupDrop_same
    | with_reducible apply overrunDrop_same
    | with_reducible apply placeCar_same
    | with_reducible apply Same.ite
    | exact sub_of hp (by decide)
    | intro _
    | dsimp only
    | split
    | with_reducible refine Same.upd ?_ ?_ ?_ ?_ ?_ ?_ ?_ ?_ ?_ ?_ ?_ ?_ ?_ ?_ ?_ ?_ ?_ ?_ ?_ ?_ ?_ ?_ ?_ ?_ ?_ ?_ ?_ ?_

theorem execSdata_same {ps : List StatePart} {base s : State} (hk : Same ps base s) (port : PortId) (car : RxCar)
    (hp : ([.dev, .grm, .err, .sec, .mbx, .mars, .ports, .sheds, .stalls, .track, .fresh] : List StatePart) ⊆ ps := by exact sub_of (by assumption) (by decide)) : OutSame ps base (execSdata port car s) := by
  unfold execSdata
  refine OutSame.next ?_
  with_reducible refine Same.ite hk ?_
  have hg := receiveCar_same hk port car
  revert hg
  cases receiveCar s port car <;> intro hg <;> have hg' : Same ps base _ := hg <;> clear hg <;> dsimp only
  all_goals repeat' first
    | with_reducible assumption
    | with_reducible apply dupDrop_same
    | with_reducible apply takeStreamCar_same
    | with_reducible apply Same.ite
    | with_reducible apply OutSame.next
    | exact sub_of hp (by decide)
    | intro _
    | dsimp only
    | split
    | exact Or.inr (partIn hp (by decide))
    | with_reducible exact Or.inl rfl
    | with_reducible refine Same.upd ?_ ?_ ?_ ?_ ?_ ?_ ?_ ?_ ?_ ?_ ?_ ?_ ?_ ?_ ?_ ?_ ?_ ?_ ?_ ?_ ?_ ?_ ?_ ?_ ?_ ?_ ?_ ?_

theorem deliverBlock_same {ps : List StatePart} {base s : State} (hk : Same ps base s) (p : Nat) (c : Nat) (b : Nat) (a : ASlot)
    (hp : ([.grm, .err, .mbx, .ports, .sheds, .hmem] : List StatePart) ⊆ ps := by exact sub_of (by assumption) (by decide)) : Same ps base (deliverBlock s p c b a) := by
  unfold deliverBlock
  repeat' first
    | exact Or.inr (partIn hp (by decide))
    | with_reducible exact Or.inl rfl
    | with_reducible assumption
    | with_reducible apply modPort_same
    | with_reducible apply modCtx_same
    | with_reducible apply record_same
    | with_reducible apply Same.ite
    | exact sub_of hp (by decide)
    | intro _
    | dsimp only
    | split
    | with_reducible refine Same.upd ?_ ?_ ?_ ?_ ?_ ?_ ?_ ?_ ?_ ?_ ?_ ?_ ?_ ?_ ?_ ?_ ?_ ?_ ?_ ?_ ?_ ?_ ?_ ?_ ?_ ?_ ?_ ?_

theorem releaseBlock_same {ps : List StatePart} {base s : State} (hk : Same ps base s) (p : Nat) (c : Nat) (b : Nat) (a : ASlot)
    (hp : ([.grm, .err, .sec, .mbx, .ports, .sheds, .hmem] : List StatePart) ⊆ ps := by exact sub_of (by assumption) (by decide)) : Same ps base (releaseBlock s p c b a) := by
  unfold releaseBlock
  repeat' first
    | with_reducible assumption
    | with_reducible apply slotFreed_same
    | with_reducible apply fixHeld_same
    | with_reducible apply modCtx_same
    | with_reducible apply freeSlot_same
    | with_reducible apply deliverBlock_same
    | exact sub_of hp (by decide)
    | intro _
    | dsimp only

theorem execBlockRelease_same {ps : List StatePart} {base s : State} (hk : Same ps base s) (port : PortId) (ctx : Fin 32)
    (hp : ([.grm, .err, .sec, .mbx, .ports, .sheds, .hmem] : List StatePart) ⊆ ps := by exact sub_of (by assumption) (by decide)) : OutSame ps base (execBlockRelease port ctx s) := by
  unfold execBlockRelease
  repeat' first
    | exact Or.inr (partIn hp (by decide))
    | with_reducible exact Or.inl rfl
    | with_reducible assumption
    | with_reducible apply releaseBlock_same
    | with_reducible apply Same.ite
    | with_reducible apply OutSame.next
    | exact sub_of hp (by decide)
    | intro _
    | dsimp only
    | split
    | with_reducible refine Same.upd ?_ ?_ ?_ ?_ ?_ ?_ ?_ ?_ ?_ ?_ ?_ ?_ ?_ ?_ ?_ ?_ ?_ ?_ ?_ ?_ ?_ ?_ ?_ ?_ ?_ ?_ ?_ ?_

theorem takeCredit_same {ps : List StatePart} {base s : State} (hk : Same ps base s) (p : Nat) (h : Hdr) (payload : List Byte)
    (hp : ([.ports] : List StatePart) ⊆ ps := by exact sub_of (by assumption) (by decide)) : Same ps base (takeCredit s p h payload) := by
  unfold takeCredit
  repeat' first
    | exact Or.inr (partIn hp (by decide))
    | with_reducible exact Or.inl rfl
    | with_reducible assumption
    | with_reducible apply modCtx_same
    | with_reducible apply dupDrop_same
    | with_reducible apply Same.ite
    | exact sub_of hp (by decide)
    | intro _
    | dsimp only
    | split
    | with_reducible refine Same.upd ?_ ?_ ?_ ?_ ?_ ?_ ?_ ?_ ?_ ?_ ?_ ?_ ?_ ?_ ?_ ?_ ?_ ?_ ?_ ?_ ?_ ?_ ?_ ?_ ?_ ?_ ?_ ?_

theorem execCreditMessage_same {ps : List StatePart} {base s : State} (hk : Same ps base s) (port : PortId)
    (hp : ([.ports] : List StatePart) ⊆ ps := by exact sub_of (by assumption) (by decide)) : OutSame ps base (execCreditMessage port s) := by
  unfold execCreditMessage
  repeat' first
    | exact Or.inr (partIn hp (by decide))
    | with_reducible exact Or.inl rfl
    | with_reducible assumption
    | with_reducible apply modPort_same
    | with_reducible apply takeCredit_same
    | with_reducible apply Same.ite
    | with_reducible apply OutSame.next
    | exact sub_of hp (by decide)
    | intro _
    | dsimp only
    | split
    | with_reducible refine Same.upd ?_ ?_ ?_ ?_ ?_ ?_ ?_ ?_ ?_ ?_ ?_ ?_ ?_ ?_ ?_ ?_ ?_ ?_ ?_ ?_ ?_ ?_ ?_ ?_ ?_ ?_ ?_ ?_

theorem execAckReport_same {ps : List StatePart} {base s : State} (hk : Same ps base s) (port : PortId) (ctx : Fin 32)
    (hp : ([.ports] : List StatePart) ⊆ ps := by exact sub_of (by assumption) (by decide)) : OutSame ps base (execAckReport port ctx s) := by
  unfold execAckReport
  repeat' first
    | exact Or.inr (partIn hp (by decide))
    | with_reducible exact Or.inl rfl
    | with_reducible assumption
    | with_reducible apply sendSctl_same
    | with_reducible apply modCtx_same
    | with_reducible apply Same.ite
    | with_reducible apply OutSame.next
    | exact sub_of hp (by decide)
    | intro _
    | dsimp only
    | split
    | with_reducible refine Same.upd ?_ ?_ ?_ ?_ ?_ ?_ ?_ ?_ ?_ ?_ ?_ ?_ ?_ ?_ ?_ ?_ ?_ ?_ ?_ ?_ ?_ ?_ ?_ ?_ ?_ ?_ ?_ ?_

theorem execSoftGap_same {ps : List StatePart} {base s : State} (hk : Same ps base s) (port : PortId) (ctx : Fin 32)
    (hp : ([.grm, .err, .sec, .mbx, .ports, .sheds] : List StatePart) ⊆ ps := by exact sub_of (by assumption) (by decide)) : OutSame ps base (execSoftGap port ctx s) := by
  unfold execSoftGap
  repeat' first
    | exact Or.inr (partIn hp (by decide))
    | with_reducible exact Or.inl rfl
    | with_reducible assumption
    | with_reducible apply sendResend_same
    | with_reducible apply modCtx_same
    | with_reducible apply record_same
    | with_reducible apply Same.ite
    | with_reducible apply OutSame.next
    | exact sub_of hp (by decide)
    | intro _
    | dsimp only
    | split
    | with_reducible refine Same.upd ?_ ?_ ?_ ?_ ?_ ?_ ?_ ?_ ?_ ?_ ?_ ?_ ?_ ?_ ?_ ?_ ?_ ?_ ?_ ?_ ?_ ?_ ?_ ?_ ?_ ?_ ?_ ?_

theorem execHardGap_same {ps : List StatePart} {base s : State} (hk : Same ps base s) (port : PortId) (ctx : Fin 32)
    (hp : ([.grm, .err, .sec, .mbx, .mars, .ports, .sheds, .stalls, .track, .fresh] : List StatePart) ⊆ ps := by exact sub_of (by assumption) (by decide)) : OutSame ps base (execHardGap port ctx s) := by
  unfold execHardGap
  repeat' first
    | with_reducible assumption
    | with_reducible apply loseStream_same
    | with_reducible apply Same.ite
    | with_reducible apply OutSame.next
    | exact sub_of hp (by decide)
    | intro _
    | dsimp only
    | split

theorem writeEntry_same {ps : List StatePart} {base s : State} (hk : Same ps base s) (version : Bool) (index : Nat) (data : Word64)
    (hp : ([.mars] : List StatePart) ⊆ ps := by exact sub_of (by assumption) (by decide)) : Same ps base (writeEntry version index data s) := by
  unfold writeEntry
  repeat' first
    | exact Or.inr (partIn hp (by decide))
    | with_reducible exact Or.inl rfl
    | with_reducible assumption
    | with_reducible apply Same.ite
    | exact sub_of hp (by decide)
    | intro _
    | dsimp only
    | split
    | with_reducible refine Same.upd ?_ ?_ ?_ ?_ ?_ ?_ ?_ ?_ ?_ ?_ ?_ ?_ ?_ ?_ ?_ ?_ ?_ ?_ ?_ ?_ ?_ ?_ ?_ ?_ ?_ ?_ ?_ ?_

theorem execMarshallingEntryWrite_same {ps : List StatePart} {base s : State} (hk : Same ps base s) (o : Origin) (version : Bool) (index : Fin 524288) (data : Word64)
    (hp : ([.mars, .resp] : List StatePart) ⊆ ps := by exact sub_of (by assumption) (by decide)) : OutSame ps base (execMarshallingEntryWrite o version index data s) := by
  unfold execMarshallingEntryWrite
  repeat' first
    | with_reducible assumption
    | with_reducible apply asAuth_same
    | with_reducible apply writeEntry_same
    | with_reducible apply OutSame.next
    | exact sub_of hp (by decide)
    | intro _
    | dsimp only

/-! Buckets. -/

theorem sendBucketCtl_same {ps : List StatePart} {base s : State} (hk : Same ps base s) (c : Nat) (kind : Nat) (a0 : Nat) (a1 : Nat) (a2 : Nat)
    (hp : ([.ports] : List StatePart) ⊆ ps := by exact sub_of (by assumption) (by decide)) : Same ps base (sendBucketCtl s c kind a0 a1 a2) := by
  unfold sendBucketCtl
  repeat' first
    | with_reducible assumption
    | with_reducible apply sendSctl_same
    | exact sub_of hp (by decide)
    | intro _
    | dsimp only

theorem dropWaiting_same {ps : List StatePart} {base s : State} (hk : Same ps base s) (c : Nat)
    (hp : ([.ports] : List StatePart) ⊆ ps := by exact sub_of (by assumption) (by decide)) : Same ps base (dropWaiting s c) := by
  unfold dropWaiting
  repeat' first
    | exact Or.inr (partIn hp (by decide))
    | with_reducible exact Or.inl rfl
    | with_reducible assumption
    | with_reducible apply modPort_same
    | exact sub_of hp (by decide)
    | intro _
    | dsimp only
    | with_reducible refine Same.upd ?_ ?_ ?_ ?_ ?_ ?_ ?_ ?_ ?_ ?_ ?_ ?_ ?_ ?_ ?_ ?_ ?_ ?_ ?_ ?_ ?_ ?_ ?_ ?_ ?_ ?_ ?_ ?_

theorem sendTable_same {ps : List StatePart} {base s : State} (hk : Same ps base s) (c : Nat)
    (hp : ([.ports] : List StatePart) ⊆ ps := by exact sub_of (by assumption) (by decide)) : Same ps base (sendTable s c) := by
  unfold sendTable
  repeat' first
    | with_reducible assumption
    | with_reducible apply sendCar_same
    | with_reducible refine Same.foldl ?_ (fun _ _ _ => ?_)
    | exact sub_of hp (by decide)
    | intro _
    | dsimp only

theorem takeBucketIssue_same {ps : List StatePart} {base s : State} (hk : Same ps base s) (c : Nat)
    (hp : ([.mars, .ports] : List StatePart) ⊆ ps := by exact sub_of (by assumption) (by decide)) : Same ps base (takeBucketIssue c s) := by
  unfold takeBucketIssue
  repeat' first
    | exact Or.inr (partIn hp (by decide))
    | with_reducible exact Or.inl rfl
    | with_reducible assumption
    | with_reducible apply sendBucketCtl_same
    | with_reducible apply sendTable_same
    | with_reducible apply modBucket_same
    | with_reducible apply Same.ite
    | exact sub_of hp (by decide)
    | intro _
    | dsimp only
    | split
    | with_reducible refine Same.upd ?_ ?_ ?_ ?_ ?_ ?_ ?_ ?_ ?_ ?_ ?_ ?_ ?_ ?_ ?_ ?_ ?_ ?_ ?_ ?_ ?_ ?_ ?_ ?_ ?_ ?_ ?_ ?_

theorem takeBucketCancel_same {ps : List StatePart} {base s : State} (hk : Same ps base s) (c : Nat)
    (hp : ([.mars, .ports] : List StatePart) ⊆ ps := by exact sub_of (by assumption) (by decide)) : Same ps base (takeBucketCancel c s) := by
  unfold takeBucketCancel
  repeat' first
    | exact Or.inr (partIn hp (by decide))
    | with_reducible exact Or.inl rfl
    | with_reducible assumption
    | with_reducible apply sendBucketCtl_same
    | with_reducible apply dropWaiting_same
    | with_reducible apply modBucket_same
    | with_reducible apply Same.ite
    | exact sub_of hp (by decide)
    | intro _
    | dsimp only
    | split
    | with_reducible refine Same.upd ?_ ?_ ?_ ?_ ?_ ?_ ?_ ?_ ?_ ?_ ?_ ?_ ?_ ?_ ?_ ?_ ?_ ?_ ?_ ?_ ?_ ?_ ?_ ?_ ?_ ?_ ?_ ?_

theorem writeBctrl_same {ps : List StatePart} {base s : State} (hk : Same ps base s) (data : Nat)
    (hp : ([.mars, .ports] : List StatePart) ⊆ ps := by exact sub_of (by assumption) (by decide)) : Same ps base (writeBctrl data s) := by
  unfold writeBctrl
  repeat' first
    | exact Or.inr (partIn hp (by decide))
    | with_reducible exact Or.inl rfl
    | with_reducible assumption
    | with_reducible apply takeBucketIssue_same
    | with_reducible apply takeBucketCancel_same
    | with_reducible apply Same.ite
    | exact sub_of hp (by decide)
    | intro _
    | dsimp only
    | split
    | with_reducible refine Same.upd ?_ ?_ ?_ ?_ ?_ ?_ ?_ ?_ ?_ ?_ ?_ ?_ ?_ ?_ ?_ ?_ ?_ ?_ ?_ ?_ ?_ ?_ ?_ ?_ ?_ ?_ ?_ ?_

theorem execBucketIssue_same {ps : List StatePart} {base s : State} (hk : Same ps base s) (o : Origin) (ctx : Fin 64)
    (hp : ([.mars, .ports, .resp] : List StatePart) ⊆ ps := by exact sub_of (by assumption) (by decide)) : OutSame ps base (execBucketIssue o ctx s) := by
  unfold execBucketIssue
  repeat' first
    | with_reducible assumption
    | with_reducible apply writeBctrl_same
    | with_reducible apply asAuth_same
    | with_reducible apply OutSame.next
    | exact sub_of hp (by decide)
    | intro _
    | dsimp only

theorem execBucketCancel_same {ps : List StatePart} {base s : State} (hk : Same ps base s) (o : Origin) (ctx : Fin 64)
    (hp : ([.mars, .ports, .resp] : List StatePart) ⊆ ps := by exact sub_of (by assumption) (by decide)) : OutSame ps base (execBucketCancel o ctx s) := by
  unfold execBucketCancel
  repeat' first
    | with_reducible assumption
    | with_reducible apply writeBctrl_same
    | with_reducible apply asAuth_same
    | with_reducible apply OutSame.next
    | exact sub_of hp (by decide)
    | intro _
    | dsimp only

theorem partLate_same {ps : List StatePart} {base s : State} (hk : Same ps base s) (c : Nat)
    (hp : ([.mars] : List StatePart) ⊆ ps := by exact sub_of (by assumption) (by decide)) : Same ps base (partLate s c) := by
  unfold partLate
  repeat' first
    | exact Or.inr (partIn hp (by decide))
    | with_reducible exact Or.inl rfl
    | with_reducible assumption
    | with_reducible apply modBucket_same
    | exact sub_of hp (by decide)
    | intro _
    | dsimp only
    | with_reducible refine Same.upd ?_ ?_ ?_ ?_ ?_ ?_ ?_ ?_ ?_ ?_ ?_ ?_ ?_ ?_ ?_ ?_ ?_ ?_ ?_ ?_ ?_ ?_ ?_ ?_ ?_ ?_ ?_ ?_

theorem stagePart_same {ps : List StatePart} {base s : State} (hk : Same ps base s) (x : Part) (pl : List Byte)
    (hp : ([.mars, .hmem] : List StatePart) ⊆ ps := by exact sub_of (by assumption) (by decide)) : Same ps base (stagePart s x pl) := by
  unfold stagePart
  repeat' first
    | exact Or.inr (partIn hp (by decide))
    | with_reducible exact Or.inl rfl
    | with_reducible assumption
    | with_reducible apply modBucket_same
    | with_reducible apply Same.ite
    | with_reducible refine Same.foldl ?_ (fun _ _ _ => ?_)
    | exact sub_of hp (by decide)
    | intro _
    | dsimp only
    | split
    | with_reducible refine Same.upd ?_ ?_ ?_ ?_ ?_ ?_ ?_ ?_ ?_ ?_ ?_ ?_ ?_ ?_ ?_ ?_ ?_ ?_ ?_ ?_ ?_ ?_ ?_ ?_ ?_ ?_ ?_ ?_

theorem takePart_same {ps : List StatePart} {base s : State} (hk : Same ps base s) (p : Nat) (h : Hdr) (pl : List Byte)
    (hp : ([.grm, .err, .mbx, .mars, .sheds, .hmem] : List StatePart) ⊆ ps := by exact sub_of (by assumption) (by decide)) : Same ps base (takePart s p h pl) := by
  unfold takePart
  repeat' first
    | with_reducible assumption
    | with_reducible apply gradCheck_same
    | with_reducible apply partLate_same
    | with_reducible apply stagePart_same
    | with_reducible apply record_same
    | with_reducible apply Same.ite
    | exact sub_of hp (by decide)
    | intro _
    | dsimp only
    | split

theorem execGradientPart_same {ps : List StatePart} {base s : State} (hk : Same ps base s) (port : PortId)
    (hp : ([.grm, .err, .mbx, .mars, .ports, .sheds, .hmem] : List StatePart) ⊆ ps := by exact sub_of (by assumption) (by decide)) : OutSame ps base (execGradientPart port s) := by
  unfold execGradientPart
  repeat' first
    | exact Or.inr (partIn hp (by decide))
    | with_reducible exact Or.inl rfl
    | with_reducible assumption
    | with_reducible apply takePart_same
    | with_reducible apply modPort_same
    | with_reducible apply Same.ite
    | with_reducible apply OutSame.next
    | exact sub_of hp (by decide)
    | intro _
    | dsimp only
    | split
    | with_reducible refine Same.upd ?_ ?_ ?_ ?_ ?_ ?_ ?_ ?_ ?_ ?_ ?_ ?_ ?_ ?_ ?_ ?_ ?_ ?_ ?_ ?_ ?_ ?_ ?_ ?_ ?_ ?_ ?_ ?_

theorem sendBlocks_same {ps : List StatePart} {base s : State} (hk : Same ps base s) (c : Nat) (b : Nat)
    (hp : ([.ports] : List StatePart) ⊆ ps := by exact sub_of (by assumption) (by decide)) : Same ps base (sendBlocks s c b) := by
  unfold sendBlocks
  repeat' first
    | with_reducible assumption
    | with_reducible apply sendCar_same
    | with_reducible refine Same.foldl ?_ (fun _ _ _ => ?_)
    | exact sub_of hp (by decide)
    | intro _
    | dsimp only

theorem sendClose_same {ps : List StatePart} {base s : State} (hk : Same ps base s) (c : Nat)
    (hp : ([.ports] : List StatePart) ⊆ ps := by exact sub_of (by assumption) (by decide)) : Same ps base (sendClose s c) := by
  unfold sendClose
  repeat' first
    | with_reducible assumption
    | with_reducible apply sendBucketCtl_same
    | exact sub_of hp (by decide)
    | intro _
    | dsimp only

theorem startRound_same {ps : List StatePart} {base s : State} (hk : Same ps base s) (c : Nat)
    (hp : ([.mars, .ports] : List StatePart) ⊆ ps := by exact sub_of (by assumption) (by decide)) : Same ps base (startRound s c) := by
  unfold startRound
  repeat' first
    | exact Or.inr (partIn hp (by decide))
    | with_reducible exact Or.inl rfl
    | with_reducible assumption
    | with_reducible apply sendBlocks_same
    | with_reducible apply modBucket_same
    | exact sub_of hp (by decide)
    | intro _
    | dsimp only
    | with_reducible refine Same.upd ?_ ?_ ?_ ?_ ?_ ?_ ?_ ?_ ?_ ?_ ?_ ?_ ?_ ?_ ?_ ?_ ?_ ?_ ?_ ?_ ?_ ?_ ?_ ?_ ?_ ?_ ?_ ?_

theorem execBucketSendStart_same {ps : List StatePart} {base s : State} (hk : Same ps base s) (ctx : Fin 64)
    (hp : ([.mars, .ports] : List StatePart) ⊆ ps := by exact sub_of (by assumption) (by decide)) : OutSame ps base (execBucketSendStart ctx s) := by
  unfold execBucketSendStart
  repeat' first
    | with_reducible assumption
    | with_reducible apply startRound_same
    | with_reducible apply Same.ite
    | with_reducible apply OutSame.next
    | exact sub_of hp (by decide)
    | intro _
    | dsimp only
    | split

theorem execBucketCloseSent_same {ps : List StatePart} {base s : State} (hk : Same ps base s) (ctx : Fin 64)
    (hp : ([.mars, .ports] : List StatePart) ⊆ ps := by exact sub_of (by assumption) (by decide)) : OutSame ps base (execBucketCloseSent ctx s) := by
  unfold execBucketCloseSent
  repeat' first
    | exact Or.inr (partIn hp (by decide))
    | with_reducible exact Or.inl rfl
    | with_reducible assumption
    | with_reducible apply sendClose_same
    | with_reducible apply modBucket_same
    | with_reducible apply Same.ite
    | with_reducible apply OutSame.next
    | exact sub_of hp (by decide)
    | intro _
    | dsimp only
    | split
    | with_reducible refine Same.upd ?_ ?_ ?_ ?_ ?_ ?_ ?_ ?_ ?_ ?_ ?_ ?_ ?_ ?_ ?_ ?_ ?_ ?_ ?_ ?_ ?_ ?_ ?_ ?_ ?_ ?_ ?_ ?_

theorem roundFailed_same {ps : List StatePart} {base s : State} (hk : Same ps base s) (c : Nat)
    (hp : ([.grm, .err, .mbx, .mars, .ports, .sheds] : List StatePart) ⊆ ps := by exact sub_of (by assumption) (by decide)) : Same ps base (roundFailed s c) := by
  unfold roundFailed
  repeat' first
    | exact Or.inr (partIn hp (by decide))
    | with_reducible exact Or.inl rfl
    | with_reducible assumption
    | with_reducible apply gradCheck_same
    | with_reducible apply startRound_same
    | with_reducible apply modBucket_same
    | with_reducible apply Same.ite
    | exact sub_of hp (by decide)
    | intro _
    | dsimp only
    | split
    | with_reducible refine Same.upd ?_ ?_ ?_ ?_ ?_ ?_ ?_ ?_ ?_ ?_ ?_ ?_ ?_ ?_ ?_ ?_ ?_ ?_ ?_ ?_ ?_ ?_ ?_ ?_ ?_ ?_ ?_ ?_

theorem checkReturn_same {ps : List StatePart} {base s : State} (hk : Same ps base s) (c : Nat)
    (hp : ([.grm, .err, .mbx, .mars, .ports, .sheds] : List StatePart) ⊆ ps := by exact sub_of (by assumption) (by decide)) : Same ps base (checkReturn s c) := by
  unfold checkReturn
  repeat' first
    | exact Or.inr (partIn hp (by decide))
    | with_reducible exact Or.inl rfl
    | with_reducible assumption
    | with_reducible apply roundFailed_same
    | with_reducible apply modBucket_same
    | with_reducible apply Same.ite
    | exact sub_of hp (by decide)
    | intro _
    | dsimp only
    | split
    | with_reducible refine Same.upd ?_ ?_ ?_ ?_ ?_ ?_ ?_ ?_ ?_ ?_ ?_ ?_ ?_ ?_ ?_ ?_ ?_ ?_ ?_ ?_ ?_ ?_ ?_ ?_ ?_ ?_ ?_ ?_

theorem takeReturned_same {ps : List StatePart} {base s : State} (hk : Same ps base s) (p : Nat) (c : Nat) (k : Nat) (bytes : List Byte) (brand : Nat)
    (hp : ([.grm, .err, .mbx, .mars, .ports, .sheds, .hmem] : List StatePart) ⊆ ps := by exact sub_of (by assumption) (by decide)) : Same ps base (takeReturned s p c k bytes brand) := by
  unfold takeReturned
  repeat' first
    | exact Or.inr (partIn hp (by decide))
    | with_reducible exact Or.inl rfl
    | with_reducible assumption
    | with_reducible apply sendBucketCtl_same
    | with_reducible apply roundFailed_same
    | with_reducible apply checkReturn_same
    | with_reducible apply modBucket_same
    | with_reducible apply record_same
    | with_reducible apply Same.ite
    | with_reducible refine Same.foldl ?_ (fun _ _ _ => ?_)
    | exact sub_of hp (by decide)
    | intro _
    | dsimp only
    | split
    | with_reducible refine Same.upd ?_ ?_ ?_ ?_ ?_ ?_ ?_ ?_ ?_ ?_ ?_ ?_ ?_ ?_ ?_ ?_ ?_ ?_ ?_ ?_ ?_ ?_ ?_ ?_ ?_ ?_ ?_ ?_

theorem takeReturnCar_same {ps : List StatePart} {base s : State} (hk : Same ps base s) (p : Nat) (car : RxCar)
    (hp : ([.grm, .err, .mbx, .mars, .ports, .sheds, .hmem] : List StatePart) ⊆ ps := by exact sub_of (by assumption) (by decide)) : Same ps base (takeReturnCar s p car) := by
  unfold takeReturnCar
  repeat' first
    | exact Or.inr (partIn hp (by decide))
    | with_reducible exact Or.inl rfl
    | with_reducible assumption
    | with_reducible apply takeReturned_same
    | with_reducible apply modBucket_same
    | with_reducible apply Same.ite
    | exact sub_of hp (by decide)
    | intro _
    | dsimp only
    | split
    | with_reducible refine Same.upd ?_ ?_ ?_ ?_ ?_ ?_ ?_ ?_ ?_ ?_ ?_ ?_ ?_ ?_ ?_ ?_ ?_ ?_ ?_ ?_ ?_ ?_ ?_ ?_ ?_ ?_ ?_ ?_

theorem execGret_same {ps : List StatePart} {base s : State} (hk : Same ps base s) (port : PortId) (car : RxCar)
    (hp : ([.dev, .grm, .err, .mbx, .mars, .ports, .sheds, .hmem] : List StatePart) ⊆ ps := by exact sub_of (by assumption) (by decide)) : OutSame ps base (execGret port car s) := by
  unfold execGret
  refine OutSame.next ?_
  with_reducible refine Same.ite hk ?_
  have hg := receiveCar_same hk port car
  revert hg
  cases receiveCar s port car <;> intro hg <;> have hg' : Same ps base _ := hg <;> clear hg <;> dsimp only
  all_goals repeat' first
    | with_reducible assumption
    | with_reducible apply takeReturnCar_same
    | with_reducible apply Same.ite
    | with_reducible apply OutSame.next
    | exact sub_of hp (by decide)
    | intro _
    | dsimp only
    | split
    | exact Or.inr (partIn hp (by decide))
    | with_reducible exact Or.inl rfl
    | with_reducible refine Same.upd ?_ ?_ ?_ ?_ ?_ ?_ ?_ ?_ ?_ ?_ ?_ ?_ ?_ ?_ ?_ ?_ ?_ ?_ ?_ ?_ ?_ ?_ ?_ ?_ ?_ ?_ ?_ ?_

theorem execBucketTimeout_same {ps : List StatePart} {base s : State} (hk : Same ps base s) (ctx : Fin 64)
    (hp : ([.grm, .err, .mbx, .mars, .ports, .sheds] : List StatePart) ⊆ ps := by exact sub_of (by assumption) (by decide)) : OutSame ps base (execBucketTimeout ctx s) := by
  unfold execBucketTimeout
  repeat' first
    | exact Or.inr (partIn hp (by decide))
    | with_reducible exact Or.inl rfl
    | with_reducible assumption
    | with_reducible apply sendBucketCtl_same
    | with_reducible apply dropWaiting_same
    | with_reducible apply modBucket_same
    | with_reducible apply recordWith_same
    | with_reducible apply Same.ite
    | with_reducible apply OutSame.next
    | exact sub_of hp (by decide)
    | intro _
    | dsimp only
    | split
    | with_reducible refine Same.upd ?_ ?_ ?_ ?_ ?_ ?_ ?_ ?_ ?_ ?_ ?_ ?_ ?_ ?_ ?_ ?_ ?_ ?_ ?_ ?_ ?_ ?_ ?_ ?_ ?_ ?_ ?_ ?_

theorem takeBagree_same {ps : List StatePart} {base s : State} (hk : Same ps base s) (c : Nat) (a0 : Nat)
    (hp : ([.grm, .err, .mbx, .mars, .sheds] : List StatePart) ⊆ ps := by exact sub_of (by assumption) (by decide)) : Same ps base (takeBagree s c a0) := by
  unfold takeBagree
  repeat' first
    | exact Or.inr (partIn hp (by decide))
    | with_reducible exact Or.inl rfl
    | with_reducible assumption
    | with_reducible apply gradCheck_same
    | with_reducible apply modBucket_same
    | with_reducible apply Same.ite
    | exact sub_of hp (by decide)
    | intro _
    | dsimp only
    | split
    | with_reducible refine Same.upd ?_ ?_ ?_ ?_ ?_ ?_ ?_ ?_ ?_ ?_ ?_ ?_ ?_ ?_ ?_ ?_ ?_ ?_ ?_ ?_ ?_ ?_ ?_ ?_ ?_ ?_ ?_ ?_

theorem takeBrsnd_same {ps : List StatePart} {base s : State} (hk : Same ps base s) (c : Nat) (k : Nat) (round : Nat)
    (hp : ([.mars, .ports] : List StatePart) ⊆ ps := by exact sub_of (by assumption) (by decide)) : Same ps base (takeBrsnd s c k round) := by
  unfold takeBrsnd
  repeat' first
    | exact Or.inr (partIn hp (by decide))
    | with_reducible exact Or.inl rfl
    | with_reducible assumption
    | with_reducible apply sendBlocks_same
    | with_reducible apply sendClose_same
    | with_reducible apply modBucket_same
    | with_reducible apply Same.ite
    | exact sub_of hp (by decide)
    | intro _
    | dsimp only
    | split
    | with_reducible refine Same.upd ?_ ?_ ?_ ?_ ?_ ?_ ?_ ?_ ?_ ?_ ?_ ?_ ?_ ?_ ?_ ?_ ?_ ?_ ?_ ?_ ?_ ?_ ?_ ?_ ?_ ?_ ?_ ?_

theorem takeBasum_same {ps : List StatePart} {base s : State} (hk : Same ps base s) (c : Nat) (a : Nat) (round : Nat)
    (hp : ([.grm, .err, .mbx, .mars, .ports, .sheds] : List StatePart) ⊆ ps := by exact sub_of (by assumption) (by decide)) : Same ps base (takeBasum s c a round) := by
  unfold takeBasum
  repeat' first
    | exact Or.inr (partIn hp (by decide))
    | with_reducible exact Or.inl rfl
    | with_reducible assumption
    | with_reducible apply checkReturn_same
    | with_reducible apply modBucket_same
    | with_reducible apply Same.ite
    | exact sub_of hp (by decide)
    | intro _
    | dsimp only
    | split
    | with_reducible refine Same.upd ?_ ?_ ?_ ?_ ?_ ?_ ?_ ?_ ?_ ?_ ?_ ?_ ?_ ?_ ?_ ?_ ?_ ?_ ?_ ?_ ?_ ?_ ?_ ?_ ?_ ?_ ?_ ?_

theorem takeRecord_same {ps : List StatePart} {base s : State} (hk : Same ps base s) (p : Nat) (r : Ctl)
    (hp : ([.grm, .err, .mbx, .mars, .ports, .sheds] : List StatePart) ⊆ ps := by exact sub_of (by assumption) (by decide)) : Same ps base (takeRecord p s r) := by
  unfold takeRecord
  repeat' first
    | with_reducible assumption
    | with_reducible apply takeBagree_same
    | with_reducible apply takeBrsnd_same
    | with_reducible apply takeBasum_same
    | with_reducible apply malformed_same
    | with_reducible apply Same.ite
    | exact sub_of hp (by decide)
    | intro _
    | dsimp only
    | split

theorem takeSctl_same {ps : List StatePart} {base s : State} (hk : Same ps base s) (port : PortId) (kind : Nat) (car : RxCar)
    (hp : ([.dev, .grm, .err, .mbx, .mars, .ports, .sheds] : List StatePart) ⊆ ps := by exact sub_of (by assumption) (by decide)) : Same ps base (takeSctl port kind car s) := by
  refine Same.ite hk ?_
  have h := receiveCar_same hk port car
  revert h
  cases receiveCar s port car <;> intro h
  · exact h
  · exact Same.foldl h (fun _ _ ht => takeRecord_same ht _ _)

theorem execBagree_same {ps : List StatePart} {base s : State} (hk : Same ps base s) (port : PortId) (car : RxCar)
    (hp : ([.dev, .grm, .err, .mbx, .mars, .ports, .sheds] : List StatePart) ⊆ ps := by exact sub_of (by assumption) (by decide)) : OutSame ps base (execBagree port car s) := by
  unfold execBagree
  repeat' first
    | with_reducible assumption
    | with_reducible apply takeSctl_same
    | with_reducible apply OutSame.next
    | exact sub_of hp (by decide)
    | intro _
    | dsimp only

theorem execBrsnd_same {ps : List StatePart} {base s : State} (hk : Same ps base s) (port : PortId) (car : RxCar)
    (hp : ([.dev, .grm, .err, .mbx, .mars, .ports, .sheds] : List StatePart) ⊆ ps := by exact sub_of (by assumption) (by decide)) : OutSame ps base (execBrsnd port car s) := by
  unfold execBrsnd
  repeat' first
    | with_reducible assumption
    | with_reducible apply takeSctl_same
    | with_reducible apply OutSame.next
    | exact sub_of hp (by decide)
    | intro _
    | dsimp only

theorem execBasum_same {ps : List StatePart} {base s : State} (hk : Same ps base s) (port : PortId) (car : RxCar)
    (hp : ([.dev, .grm, .err, .mbx, .mars, .ports, .sheds] : List StatePart) ⊆ ps := by exact sub_of (by assumption) (by decide)) : OutSame ps base (execBasum port car s) := by
  unfold execBasum
  repeat' first
    | with_reducible assumption
    | with_reducible apply takeSctl_same
    | with_reducible apply OutSame.next
    | exact sub_of hp (by decide)
    | intro _
    | dsimp only

theorem execStstop_same {ps : List StatePart} {base s : State} (hk : Same ps base s) (port : PortId) (car : RxCar)
    (hp : ([.dev, .grm, .err, .mbx, .mars, .ports, .sheds] : List StatePart) ⊆ ps := by exact sub_of (by assumption) (by decide)) : OutSame ps base (execStstop port car s) := by
  unfold execStstop
  repeat' first
    | with_reducible assumption
    | with_reducible apply takeSctl_same
    | with_reducible apply OutSame.next
    | exact sub_of hp (by decide)
    | intro _
    | dsimp only

theorem execBstop_same {ps : List StatePart} {base s : State} (hk : Same ps base s) (port : PortId) (car : RxCar)
    (hp : ([.dev, .grm, .err, .mbx, .mars, .ports, .sheds] : List StatePart) ⊆ ps := by exact sub_of (by assumption) (by decide)) : OutSame ps base (execBstop port car s) := by
  unfold execBstop
  repeat' first
    | with_reducible assumption
    | with_reducible apply takeSctl_same
    | with_reducible apply OutSame.next
    | exact sub_of hp (by decide)
    | intro _
    | dsimp only

/-! Time. -/

theorem tickWall_same {ps : List StatePart} {base s : State} (hk : Same ps base s) 
    (hp : ([.dev, .fresh] : List StatePart) ⊆ ps := by exact sub_of (by assumption) (by decide)) : Same ps base (tickWall s) := by
  unfold tickWall
  unfold takeFresh
  repeat' first
    | exact Or.inr (partIn hp (by decide))
    | with_reducible exact Or.inl rfl
    | with_reducible assumption
    | with_reducible apply Same.ite
    | exact sub_of hp (by decide)
    | intro _
    | dsimp only
    | split
    | with_reducible refine Same.upd ?_ ?_ ?_ ?_ ?_ ?_ ?_ ?_ ?_ ?_ ?_ ?_ ?_ ?_ ?_ ?_ ?_ ?_ ?_ ?_ ?_ ?_ ?_ ?_ ?_ ?_ ?_ ?_

theorem tickRun_same {ps : List StatePart} {base s : State} (hk : Same ps base s) 
    (hp : ([.sec] : List StatePart) ⊆ ps := by exact sub_of (by assumption) (by decide)) : Same ps base (tickRun s) := by
  unfold tickRun
  repeat' first
    | exact Or.inr (partIn hp (by decide))
    | with_reducible exact Or.inl rfl
    | with_reducible assumption
    | with_reducible apply Same.ite
    | exact sub_of hp (by decide)
    | intro _
    | dsimp only
    | split
    | with_reducible refine Same.upd ?_ ?_ ?_ ?_ ?_ ?_ ?_ ?_ ?_ ?_ ?_ ?_ ?_ ?_ ?_ ?_ ?_ ?_ ?_ ?_ ?_ ?_ ?_ ?_ ?_ ?_ ?_ ?_

theorem tickDog_same {ps : List StatePart} {base s : State} (hk : Same ps base s) (k : Nat)
    (hp : ([.sheds] : List StatePart) ⊆ ps := by exact sub_of (by assumption) (by decide)) : Same ps base (tickDog s k) := by
  unfold tickDog
  repeat' first
    | exact Or.inr (partIn hp (by decide))
    | with_reducible exact Or.inl rfl
    | with_reducible assumption
    | with_reducible apply modShed_same
    | with_reducible apply Same.ite
    | exact sub_of hp (by decide)
    | intro _
    | dsimp only
    | split
    | with_reducible refine Same.upd ?_ ?_ ?_ ?_ ?_ ?_ ?_ ?_ ?_ ?_ ?_ ?_ ?_ ?_ ?_ ?_ ?_ ?_ ?_ ?_ ?_ ?_ ?_ ?_ ?_ ?_ ?_ ?_

theorem tickDogs_same {ps : List StatePart} {base s : State} (hk : Same ps base s) 
    (hp : ([.sheds] : List StatePart) ⊆ ps := by exact sub_of (by assumption) (by decide)) : Same ps base (tickDogs s) := by
  unfold tickDogs
  repeat' first
    | with_reducible assumption
    | with_reducible apply tickDog_same
    | with_reducible apply Same.ite
    | with_reducible refine Same.foldl ?_ (fun _ _ _ => ?_)
    | exact sub_of hp (by decide)
    | intro _
    | dsimp only
    | split

theorem tick_same {ps : List StatePart} {base s : State} (hk : Same ps base s) 
    (hp : ([.dev, .sec, .sheds, .fresh] : List StatePart) ⊆ ps := by exact sub_of (by assumption) (by decide)) : Same ps base (tick s) := by
  unfold tick
  repeat' first
    | with_reducible assumption
    | with_reducible apply tickWall_same
    | with_reducible apply tickRun_same
    | with_reducible apply tickDogs_same
    | with_reducible apply Same.ite
    | exact sub_of hp (by decide)
    | intro _
    | dsimp only
    | split

/-! Ports. -/

theorem writePortCfg_same {ps : List StatePart} {base s : State} (hk : Same ps base s) (p : Nat) (data : Nat)
    (hp : ([.dev, .ports] : List StatePart) ⊆ ps := by exact sub_of (by assumption) (by decide)) : Same ps base (writePortCfg p data s) := by
  unfold writePortCfg
  repeat' first
    | exact Or.inr (partIn hp (by decide))
    | with_reducible exact Or.inl rfl
    | with_reducible assumption
    | with_reducible apply portState_same
    | with_reducible apply Same.ite
    | exact sub_of hp (by decide)
    | intro _
    | dsimp only
    | split
    | with_reducible refine Same.upd ?_ ?_ ?_ ?_ ?_ ?_ ?_ ?_ ?_ ?_ ?_ ?_ ?_ ?_ ?_ ?_ ?_ ?_ ?_ ?_ ?_ ?_ ?_ ?_ ?_ ?_ ?_ ?_

theorem takeTrain_same {ps : List StatePart} {base s : State} (hk : Same ps base s) (p : Nat)
    (hp : ([.ports] : List StatePart) ⊆ ps := by exact sub_of (by assumption) (by decide)) : Same ps base (takeTrain p s) := by
  unfold takeTrain
  repeat' first
    | with_reducible assumption
    | with_reducible apply modPort_same
    | with_reducible apply Same.ite
    | exact sub_of hp (by decide)
    | intro _
    | dsimp only
    | split

theorem takeQclr_same {ps : List StatePart} {base s : State} (hk : Same ps base s) (o : Origin) (p : Nat)
    (hp : ([.ports] : List StatePart) ⊆ ps := by exact sub_of (by assumption) (by decide)) : Same ps base (takeQclr o p s) := by
  unfold takeQclr
  repeat' first
    | exact Or.inr (partIn hp (by decide))
    | with_reducible exact Or.inl rfl
    | with_reducible assumption
    | with_reducible apply modPort_same
    | with_reducible apply Same.ite
    | exact sub_of hp (by decide)
    | intro _
    | dsimp only
    | split
    | with_reducible refine Same.upd ?_ ?_ ?_ ?_ ?_ ?_ ?_ ?_ ?_ ?_ ?_ ?_ ?_ ?_ ?_ ?_ ?_ ?_ ?_ ?_ ?_ ?_ ?_ ?_ ?_ ?_ ?_ ?_

theorem takeDrop_same {ps : List StatePart} {base s : State} (hk : Same ps base s) (p : Nat)
    (hp : ([.dev, .ports] : List StatePart) ⊆ ps := by exact sub_of (by assumption) (by decide)) : Same ps base (takeDrop p s) := by
  unfold takeDrop
  repeat' first
    | with_reducible assumption
    | with_reducible apply portState_same
    | with_reducible apply Same.ite
    | exact sub_of hp (by decide)
    | intro _
    | dsimp only
    | split

theorem execPortCfgWrite_same {ps : List StatePart} {base s : State} (hk : Same ps base s) (o : Origin) (port : PortId) (data : Word64)
    (hp : ([.dev, .ports, .resp] : List StatePart) ⊆ ps := by exact sub_of (by assumption) (by decide)) : OutSame ps base (execPortCfgWrite o port data s) := by
  unfold execPortCfgWrite
  repeat' first
    | with_reducible assumption
    | with_reducible apply asAuth_same
    | with_reducible apply writePortCfg_same
    | with_reducible apply OutSame.next
    | exact sub_of hp (by decide)
    | intro _
    | dsimp only

theorem execTrain_same {ps : List StatePart} {base s : State} (hk : Same ps base s) (o : Origin) (port : PortId)
    (hp : ([.ports, .resp] : List StatePart) ⊆ ps := by exact sub_of (by assumption) (by decide)) : OutSame ps base (execTrain o port s) := by
  unfold execTrain
  repeat' first
    | with_reducible assumption
    | with_reducible apply asAuth_same
    | with_reducible apply takeTrain_same
    | with_reducible apply OutSame.next
    | exact sub_of hp (by decide)
    | intro _
    | dsimp only

theorem execQclr_same {ps : List StatePart} {base s : State} (hk : Same ps base s) (o : Origin) (port : PortId)
    (hp : ([.ports, .resp] : List StatePart) ⊆ ps := by exact sub_of (by assumption) (by decide)) : OutSame ps base (execQclr o port s) := by
  unfold execQclr
  repeat' first
    | with_reducible assumption
    | with_reducible apply asAuth_same
    | with_reducible apply takeQclr_same
    | with_reducible apply OutSame.next
    | exact sub_of hp (by decide)
    | intro _
    | dsimp only

theorem execDrop_same {ps : List StatePart} {base s : State} (hk : Same ps base s) (o : Origin) (port : PortId)
    (hp : ([.dev, .ports, .resp] : List StatePart) ⊆ ps := by exact sub_of (by assumption) (by decide)) : OutSame ps base (execDrop o port s) := by
  unfold execDrop
  repeat' first
    | with_reducible assumption
    | with_reducible apply asAuth_same
    | with_reducible apply takeDrop_same
    | with_reducible apply OutSame.next
    | exact sub_of hp (by decide)
    | intro _
    | dsimp only

theorem execTryintExpiry_same {ps : List StatePart} {base s : State} (hk : Same ps base s) (port : PortId)
    (hp : ([.ports] : List StatePart) ⊆ ps := by exact sub_of (by assumption) (by decide)) : OutSame ps base (execTryintExpiry port s) := by
  unfold execTryintExpiry
  repeat' first
    | with_reducible assumption
    | with_reducible apply modPort_same
    | with_reducible apply Same.ite
    | with_reducible apply OutSame.next
    | exact sub_of hp (by decide)
    | intro _
    | dsimp only
    | split

theorem sendMessage_same {ps : List StatePart} {base s : State} (hk : Same ps base s) (p : Nat) (typ : Nat) (n : Nat) (msg : List Byte)
    (hp : ([.ports] : List StatePart) ⊆ ps := by exact sub_of (by assumption) (by decide)) : Same ps base (sendMessage s p typ n msg) := by
  unfold sendMessage
  repeat' first
    | with_reducible assumption
    | with_reducible apply sendCar_same
    | with_reducible apply sendPlain_same
    | with_reducible apply Same.ite
    | with_reducible refine Same.foldl ?_ (fun _ _ _ => ?_)
    | exact sub_of hp (by decide)
    | intro _
    | dsimp only
    | split

theorem startAuth_same {ps : List StatePart} {base s : State} (hk : Same ps base s) (p : Nat)
    (hp : ([.ports, .fresh] : List StatePart) ⊆ ps := by exact sub_of (by assumption) (by decide)) : Same ps base (startAuth s p) := by
  unfold startAuth
  unfold takeFresh
  repeat' first
    | exact Or.inr (partIn hp (by decide))
    | with_reducible exact Or.inl rfl
    | with_reducible assumption
    | with_reducible apply modPort_same
    | with_reducible apply sendMessage_same
    | with_reducible apply step_same
    | exact sub_of hp (by decide)
    | intro _
    | dsimp only
    | split
    | with_reducible refine Same.upd ?_ ?_ ?_ ?_ ?_ ?_ ?_ ?_ ?_ ?_ ?_ ?_ ?_ ?_ ?_ ?_ ?_ ?_ ?_ ?_ ?_ ?_ ?_ ?_ ?_ ?_ ?_ ?_

theorem sendKex1_same {ps : List StatePart} {base s : State} (hk : Same ps base s) (p : Nat) (epoch : Nat)
    (hp : ([.ports, .fresh] : List StatePart) ⊆ ps := by exact sub_of (by assumption) (by decide)) : Same ps base (sendKex1 s p epoch) := by
  unfold sendKex1
  unfold takeFresh
  repeat' first
    | exact Or.inr (partIn hp (by decide))
    | with_reducible exact Or.inl rfl
    | with_reducible assumption
    | with_reducible apply modPort_same
    | with_reducible apply sendMessage_same
    | with_reducible apply step_same
    | exact sub_of hp (by decide)
    | intro _
    | dsimp only
    | split
    | with_reducible refine Same.upd ?_ ?_ ?_ ?_ ?_ ?_ ?_ ?_ ?_ ?_ ?_ ?_ ?_ ?_ ?_ ?_ ?_ ?_ ?_ ?_ ?_ ?_ ?_ ?_ ?_ ?_ ?_ ?_

theorem failHandshake_same {ps : List StatePart} {base s : State} (hk : Same ps base s) (p : Nat)
    (hp : ([.dev, .grm, .err, .mbx, .ports, .sheds] : List StatePart) ⊆ ps := by exact sub_of (by assumption) (by decide)) : Same ps base (failHandshake s p) := by
  unfold failHandshake
  repeat' first
    | exact Or.inr (partIn hp (by decide))
    | with_reducible exact Or.inl rfl
    | with_reducible assumption
    | with_reducible apply quarantine_same
    | with_reducible apply linkAuth_same
    | with_reducible apply modPort_same
    | with_reducible apply Same.ite
    | exact sub_of hp (by decide)
    | intro _
    | dsimp only
    | split
    | with_reducible refine Same.upd ?_ ?_ ?_ ?_ ?_ ?_ ?_ ?_ ?_ ?_ ?_ ?_ ?_ ?_ ?_ ?_ ?_ ?_ ?_ ?_ ?_ ?_ ?_ ?_ ?_ ?_ ?_ ?_

theorem failRekey_same {ps : List StatePart} {base s : State} (hk : Same ps base s) (p : Nat)
    (hp : ([.grm, .err, .mbx, .ports, .sheds] : List StatePart) ⊆ ps := by exact sub_of (by assumption) (by decide)) : Same ps base (failRekey s p) := by
  unfold failRekey
  repeat' first
    | exact Or.inr (partIn hp (by decide))
    | with_reducible exact Or.inl rfl
    | with_reducible assumption
    | with_reducible apply linkAuth_same
    | with_reducible apply modPort_same
    | with_reducible apply step_same
    | exact sub_of hp (by decide)
    | intro _
    | dsimp only
    | with_reducible refine Same.upd ?_ ?_ ?_ ?_ ?_ ?_ ?_ ?_ ?_ ?_ ?_ ?_ ?_ ?_ ?_ ?_ ?_ ?_ ?_ ?_ ?_ ?_ ?_ ?_ ?_ ?_ ?_ ?_

theorem failExchange_same {ps : List StatePart} {base s : State} (hk : Same ps base s) (p : Nat)
    (hp : ([.dev, .grm, .err, .mbx, .ports, .sheds] : List StatePart) ⊆ ps := by exact sub_of (by assumption) (by decide)) : Same ps base (failExchange s p) := by
  unfold failExchange
  repeat' first
    | with_reducible assumption
    | with_reducible apply failHandshake_same
    | with_reducible apply failRekey_same
    | with_reducible apply Same.ite
    | exact sub_of hp (by decide)
    | intro _
    | dsimp only
    | split

theorem startRekey_same {ps : List StatePart} {base s : State} (hk : Same ps base s) (p : Nat)
    (hp : ([.ports, .fresh] : List StatePart) ⊆ ps := by exact sub_of (by assumption) (by decide)) : Same ps base (startRekey s p) := by
  unfold startRekey
  repeat' first
    | with_reducible assumption
    | with_reducible apply sendKex1_same
    | with_reducible apply Same.ite
    | exact sub_of hp (by decide)
    | intro _
    | dsimp only
    | split

theorem fixKeys_same {ps : List StatePart} {base s : State} (hk : Same ps base s) (p : Nat)
    (hp : ([.dev, .grm, .err, .mbx, .ports, .sheds, .fresh] : List StatePart) ⊆ ps := by exact sub_of (by assumption) (by decide)) : Same ps base (fixKeys s p) := by
  unfold fixKeys
  repeat' first
    | exact Or.inr (partIn hp (by decide))
    | with_reducible exact Or.inl rfl
    | with_reducible assumption
    | with_reducible apply linkAuth_same
    | with_reducible apply portState_same
    | with_reducible apply startAuth_same
    | with_reducible apply Same.ite
    | exact sub_of hp (by decide)
    | intro _
    | dsimp only
    | split
    | with_reducible refine Same.upd ?_ ?_ ?_ ?_ ?_ ?_ ?_ ?_ ?_ ?_ ?_ ?_ ?_ ?_ ?_ ?_ ?_ ?_ ?_ ?_ ?_ ?_ ?_ ?_ ?_ ?_ ?_ ?_

theorem execRekey_same {ps : List StatePart} {base s : State} (hk : Same ps base s) (o : Origin) (port : PortId)
    (hp : ([.ports, .fresh, .resp] : List StatePart) ⊆ ps := by exact sub_of (by assumption) (by decide)) : OutSame ps base (execRekey o port s) := by
  unfold execRekey
  repeat' first
    | with_reducible assumption
    | with_reducible apply asAuth_same
    | with_reducible apply startRekey_same
    | with_reducible apply OutSame.next
    | exact sub_of hp (by decide)
    | intro _
    | dsimp only

theorem execRekeyTimer_same {ps : List StatePart} {base s : State} (hk : Same ps base s) (port : PortId)
    (hp : ([.dev, .grm, .err, .mbx, .ports, .sheds, .fresh] : List StatePart) ⊆ ps := by exact sub_of (by assumption) (by decide)) : OutSame ps base (execRekeyTimer port s) := by
  unfold execRekeyTimer
  repeat' first
    | with_reducible assumption
    | with_reducible apply startRekey_same
    | with_reducible apply fixKeys_same
    | with_reducible apply Same.ite
    | with_reducible apply OutSame.next
    | exact sub_of hp (by decide)
    | intro _
    | dsimp only
    | split

theorem execRekeyRetry_same {ps : List StatePart} {base s : State} (hk : Same ps base s) (port : PortId)
    (hp : ([.ports, .fresh] : List StatePart) ⊆ ps := by exact sub_of (by assumption) (by decide)) : OutSame ps base (execRekeyRetry port s) := by
  unfold execRekeyRetry
  repeat' first
    | with_reducible assumption
    | with_reducible apply startRekey_same
    | with_reducible apply Same.ite
    | with_reducible apply OutSame.next
    | exact sub_of hp (by decide)
    | intro _
    | dsimp only
    | split

theorem writePortCtrl_same {ps : List StatePart} {base s : State} (hk : Same ps base s) (o : Origin) (p : Nat) (data : Nat)
    (hp : ([.dev, .ports, .fresh] : List StatePart) ⊆ ps := by exact sub_of (by assumption) (by decide)) : Same ps base (writePortCtrl o p data s) := by
  unfold writePortCtrl
  repeat' first
    | with_reducible assumption
    | with_reducible apply takeTrain_same
    | with_reducible apply takeQclr_same
    | with_reducible apply takeDrop_same
    | with_reducible apply startRekey_same
    | with_reducible apply Same.ite
    | exact sub_of hp (by decide)
    | intro _
    | dsimp only
    | split

theorem endTraining_same {ps : List StatePart} {base s : State} (hk : Same ps base s) (p : Nat)
    (hp : ([.dev, .ports, .fresh] : List StatePart) ⊆ ps := by exact sub_of (by assumption) (by decide)) : Same ps base (endTraining s p) := by
  unfold endTraining
  repeat' first
    | exact Or.inr (partIn hp (by decide))
    | with_reducible exact Or.inl rfl
    | with_reducible assumption
    | with_reducible apply portState_same
    | with_reducible apply modPort_same
    | with_reducible apply startAuth_same
    | with_reducible apply Same.ite
    | exact sub_of hp (by decide)
    | intro _
    | dsimp only
    | split
    | with_reducible refine Same.upd ?_ ?_ ?_ ?_ ?_ ?_ ?_ ?_ ?_ ?_ ?_ ?_ ?_ ?_ ?_ ?_ ?_ ?_ ?_ ?_ ?_ ?_ ?_ ?_ ?_ ?_ ?_ ?_

theorem execTrainingAttemptEnd_same {ps : List StatePart} {base s : State} (hk : Same ps base s) (port : PortId) (lanes : List LaneResult)
    (hp : ([.dev, .ports, .fresh] : List StatePart) ⊆ ps := by exact sub_of (by assumption) (by decide)) : OutSame ps base (execTrainingAttemptEnd port lanes s) := by
  unfold execTrainingAttemptEnd
  repeat' first
    | exact Or.inr (partIn hp (by decide))
    | with_reducible exact Or.inl rfl
    | with_reducible assumption
    | with_reducible apply modPort_same
    | with_reducible apply endTraining_same
    | with_reducible apply Same.ite
    | with_reducible apply OutSame.next
    | with_reducible apply OutSame.ite
    | trivial
    | exact sub_of hp (by decide)
    | intro _
    | dsimp only
    | split
    | with_reducible refine Same.upd ?_ ?_ ?_ ?_ ?_ ?_ ?_ ?_ ?_ ?_ ?_ ?_ ?_ ?_ ?_ ?_ ?_ ?_ ?_ ?_ ?_ ?_ ?_ ?_ ?_ ?_ ?_ ?_

theorem execHello_same {ps : List StatePart} {base s : State} (hk : Same ps base s) (port : PortId) (car : RxCar) (sigsOk : Bool)
    (hp : ([.dev, .grm, .err, .mbx, .ports, .sheds, .fresh] : List StatePart) ⊆ ps := by exact sub_of (by assumption) (by decide)) : OutSame ps base (execHello port car sigsOk s) := by
  unfold execHello
  refine OutSame.next ?_
  with_reducible refine Same.ite hk ?_
  have hg := receiveCar_same hk port car
  revert hg
  cases receiveCar s port car <;> intro hg <;> have hg' : Same ps base _ := hg <;> clear hg <;> dsimp only
  all_goals repeat' first
    | with_reducible assumption
    | with_reducible apply quarantine_same
    | with_reducible apply linkAuth_same
    | with_reducible apply modPort_same
    | with_reducible apply sendKex1_same
    | with_reducible apply failHandshake_same
    | with_reducible apply Same.ite
    | with_reducible apply OutSame.next
    | exact sub_of hp (by decide)
    | intro _
    | dsimp only
    | split
    | exact Or.inr (partIn hp (by decide))
    | with_reducible exact Or.inl rfl
    | with_reducible refine Same.upd ?_ ?_ ?_ ?_ ?_ ?_ ?_ ?_ ?_ ?_ ?_ ?_ ?_ ?_ ?_ ?_ ?_ ?_ ?_ ?_ ?_ ?_ ?_ ?_ ?_ ?_ ?_ ?_

theorem takeKex2_same {ps : List StatePart} {base s : State} (hk : Same ps base s) (p : Nat) (msg : List Byte)
    (hp : ([.ports] : List StatePart) ⊆ ps := by exact sub_of (by assumption) (by decide)) : Same ps base (takeKex2 s p msg) := by
  unfold takeKex2
  repeat' first
    | exact Or.inr (partIn hp (by decide))
    | with_reducible exact Or.inl rfl
    | with_reducible assumption
    | with_reducible apply sendLctl_same
    | with_reducible apply modPort_same
    | with_reducible apply sendMessage_same
    | with_reducible apply step_same
    | with_reducible apply Same.ite
    | exact sub_of hp (by decide)
    | intro _
    | dsimp only
    | split
    | with_reducible refine Same.upd ?_ ?_ ?_ ?_ ?_ ?_ ?_ ?_ ?_ ?_ ?_ ?_ ?_ ?_ ?_ ?_ ?_ ?_ ?_ ?_ ?_ ?_ ?_ ?_ ?_ ?_ ?_ ?_

theorem execKex_same {ps : List StatePart} {base s : State} (hk : Same ps base s) (port : PortId) (car : RxCar) (sigsOk : Bool)
    (hp : ([.dev, .grm, .err, .mbx, .ports, .sheds] : List StatePart) ⊆ ps := by exact sub_of (by assumption) (by decide)) : OutSame ps base (execKex port car sigsOk s) := by
  unfold execKex
  refine OutSame.next ?_
  with_reducible refine Same.ite hk ?_
  have hg := receiveCar_same hk port car
  revert hg
  cases receiveCar s port car <;> intro hg <;> have hg' : Same ps base _ := hg <;> clear hg <;> dsimp only
  all_goals repeat' first
    | with_reducible assumption
    | with_reducible apply modPort_same
    | with_reducible apply failExchange_same
    | with_reducible apply takeKex2_same
    | with_reducible apply Same.ite
    | with_reducible apply OutSame.next
    | exact sub_of hp (by decide)
    | intro _
    | dsimp only
    | split
    | exact Or.inr (partIn hp (by decide))
    | with_reducible exact Or.inl rfl
    | with_reducible refine Same.upd ?_ ?_ ?_ ?_ ?_ ?_ ?_ ?_ ?_ ?_ ?_ ?_ ?_ ?_ ?_ ?_ ?_ ?_ ?_ ?_ ?_ ?_ ?_ ?_ ?_ ?_ ?_ ?_

theorem execHandshakeTimeout_same {ps : List StatePart} {base s : State} (hk : Same ps base s) (port : PortId)
    (hp : ([.dev, .grm, .err, .mbx, .ports, .sheds] : List StatePart) ⊆ ps := by exact sub_of (by assumption) (by decide)) : OutSame ps base (execHandshakeTimeout port s) := by
  unfold execHandshakeTimeout
  repeat' first
    | with_reducible assumption
    | with_reducible apply failHandshake_same
    | with_reducible apply failRekey_same
    | with_reducible apply Same.ite
    | with_reducible apply OutSame.next
    | exact sub_of hp (by decide)
    | intro _
    | dsimp only
    | split

theorem execAuthRetry_same {ps : List StatePart} {base s : State} (hk : Same ps base s) (port : PortId)
    (hp : ([.ports, .fresh] : List StatePart) ⊆ ps := by exact sub_of (by assumption) (by decide)) : OutSame ps base (execAuthRetry port s) := by
  unfold execAuthRetry
  repeat' first
    | with_reducible assumption
    | with_reducible apply startAuth_same
    | with_reducible apply Same.ite
    | with_reducible apply OutSame.next
    | exact sub_of hp (by decide)
    | intro _
    | dsimp only
    | split

theorem finishRekey_same {ps : List StatePart} {base s : State} (hk : Same ps base s) (p : Nat)
    (hp : ([.ports] : List StatePart) ⊆ ps := by exact sub_of (by assumption) (by decide)) : Same ps base (finishRekey s p) := by
  unfold finishRekey
  repeat' first
    | exact Or.inr (partIn hp (by decide))
    | with_reducible exact Or.inl rfl
    | with_reducible assumption
    | with_reducible apply modPort_same
    | with_reducible apply step_same
    | with_reducible apply Same.ite
    | exact sub_of hp (by decide)
    | intro _
    | dsimp only
    | split
    | with_reducible refine Same.upd ?_ ?_ ?_ ?_ ?_ ?_ ?_ ?_ ?_ ?_ ?_ ?_ ?_ ?_ ?_ ?_ ?_ ?_ ?_ ?_ ?_ ?_ ?_ ?_ ?_ ?_ ?_ ?_

theorem enterUp_same {ps : List StatePart} {base s : State} (hk : Same ps base s) (p : Nat)
    (hp : ([.dev, .ports] : List StatePart) ⊆ ps := by exact sub_of (by assumption) (by decide)) : Same ps base (enterUp s p) := by
  unfold enterUp
  repeat' first
    | exact Or.inr (partIn hp (by decide))
    | with_reducible exact Or.inl rfl
    | with_reducible assumption
    | with_reducible apply portState_same
    | exact sub_of hp (by decide)
    | intro _
    | dsimp only
    | with_reducible refine Same.upd ?_ ?_ ?_ ?_ ?_ ?_ ?_ ?_ ?_ ?_ ?_ ?_ ?_ ?_ ?_ ?_ ?_ ?_ ?_ ?_ ?_ ?_ ?_ ?_ ?_ ?_ ?_ ?_

theorem execLctl_same {ps : List StatePart} {base s : State} (hk : Same ps base s) (port : PortId) (car : RxCar)
    (hp : ([.dev, .grm, .err, .mbx, .ports, .sheds, .fresh] : List StatePart) ⊆ ps := by exact sub_of (by assumption) (by decide)) : OutSame ps base (execLctl port car s) := by
  unfold execLctl
  repeat' first
    | exact Or.inr (partIn hp (by decide))
    | with_reducible exact Or.inl rfl
    | with_reducible assumption
    | with_reducible apply sendNak_same
    | with_reducible apply gcmFail_same
    | with_reducible apply malformed_same
    | with_reducible apply applyLctl_same
    | with_reducible apply modPort_same
    | with_reducible apply fixKeys_same
    | with_reducible apply finishRekey_same
    | with_reducible apply enterUp_same
    | with_reducible apply Same.ite
    | with_reducible apply OutSame.next
    | exact sub_of hp (by decide)
    | intro _
    | dsimp only
    | split
    | with_reducible refine Same.upd ?_ ?_ ?_ ?_ ?_ ?_ ?_ ?_ ?_ ?_ ?_ ?_ ?_ ?_ ?_ ?_ ?_ ?_ ?_ ?_ ?_ ?_ ?_ ?_ ?_ ?_ ?_ ?_

theorem execMarkerCar_same {ps : List StatePart} {base s : State} (hk : Same ps base s) (port : PortId) (good : Bool) (frame : BitVec 32)
    (hp : ([.ports] : List StatePart) ⊆ ps := by exact sub_of (by assumption) (by decide)) : OutSame ps base (execMarkerCar port good frame s) := by
  unfold execMarkerCar
  repeat' first
    | exact Or.inr (partIn hp (by decide))
    | with_reducible exact Or.inl rfl
    | with_reducible assumption
    | with_reducible apply modPort_same
    | with_reducible apply Same.ite
    | with_reducible apply OutSame.next
    | exact sub_of hp (by decide)
    | intro _
    | dsimp only
    | split
    | with_reducible refine Same.upd ?_ ?_ ?_ ?_ ?_ ?_ ?_ ?_ ?_ ?_ ?_ ?_ ?_ ?_ ?_ ?_ ?_ ?_ ?_ ?_ ?_ ?_ ?_ ?_ ?_ ?_ ?_ ?_

theorem execBerWindow_same {ps : List StatePart} {base s : State} (hk : Same ps base s) (port : PortId) (errBits : List Nat) (uncorr : Nat) (lost : List Bool)
    (hp : ([.dev, .grm, .err, .mbx, .ports, .sheds] : List StatePart) ⊆ ps := by exact sub_of (by assumption) (by decide)) : OutSame ps base (execBerWindow port errBits uncorr lost s) := by
  unfold execBerWindow
  repeat' first
    | exact Or.inr (partIn hp (by decide))
    | with_reducible exact Or.inl rfl
    | with_reducible assumption
    | with_reducible apply linkBer_same
    | with_reducible apply portState_same
    | with_reducible apply modPort_same
    | with_reducible apply Same.ite
    | with_reducible apply OutSame.next
    | with_reducible apply OutSame.ite
    | trivial
    | exact sub_of hp (by decide)
    | intro _
    | dsimp only
    | split
    | with_reducible refine Same.upd ?_ ?_ ?_ ?_ ?_ ?_ ?_ ?_ ?_ ?_ ?_ ?_ ?_ ?_ ?_ ?_ ?_ ?_ ?_ ?_ ?_ ?_ ?_ ?_ ?_ ?_ ?_ ?_

theorem execNoCarTimeout_same {ps : List StatePart} {base s : State} (hk : Same ps base s) (port : PortId)
    (hp : ([.dev, .ports] : List StatePart) ⊆ ps := by exact sub_of (by assumption) (by decide)) : OutSame ps base (execNoCarTimeout port s) := by
  unfold execNoCarTimeout
  repeat' first
    | with_reducible assumption
    | with_reducible apply portState_same
    | with_reducible apply Same.ite
    | with_reducible apply OutSame.next
    | exact sub_of hp (by decide)
    | intro _
    | dsimp only
    | split

theorem execRetrainTimeout_same {ps : List StatePart} {base s : State} (hk : Same ps base s) (port : PortId)
    (hp : ([.dev, .ports] : List StatePart) ⊆ ps := by exact sub_of (by assumption) (by decide)) : OutSame ps base (execRetrainTimeout port s) := by
  unfold execRetrainTimeout
  repeat' first
    | with_reducible assumption
    | with_reducible apply portState_same
    | with_reducible apply Same.ite
    | with_reducible apply OutSame.next
    | exact sub_of hp (by decide)
    | intro _
    | dsimp only
    | split

theorem execBeaconSend_same {ps : List StatePart} {base s : State} (hk : Same ps base s) 
    (hp : ([.dev, .ports] : List StatePart) ⊆ ps := by exact sub_of (by assumption) (by decide)) : OutSame ps base (execBeaconSend s) := by
  unfold execBeaconSend
  repeat' first
    | exact Or.inr (partIn hp (by decide))
    | with_reducible exact Or.inl rfl
    | with_reducible assumption
    | with_reducible apply sendCar_same
    | with_reducible apply Same.ite
    | with_reducible apply OutSame.next
    | exact sub_of hp (by decide)
    | intro _
    | dsimp only
    | split
    | with_reducible refine Same.upd ?_ ?_ ?_ ?_ ?_ ?_ ?_ ?_ ?_ ?_ ?_ ?_ ?_ ?_ ?_ ?_ ?_ ?_ ?_ ?_ ?_ ?_ ?_ ?_ ?_ ?_ ?_ ?_

theorem correctWall_same {ps : List StatePart} {base s : State} (hk : Same ps base s) (offset : Int)
    (hp : ([.dev] : List StatePart) ⊆ ps := by exact sub_of (by assumption) (by decide)) : Same ps base (correctWall s offset) := by
  unfold correctWall
  repeat' first
    | exact Or.inr (partIn hp (by decide))
    | with_reducible exact Or.inl rfl
    | with_reducible assumption
    | with_reducible apply Same.ite
    | exact sub_of hp (by decide)
    | intro _
    | dsimp only
    | split
    | with_reducible refine Same.upd ?_ ?_ ?_ ?_ ?_ ?_ ?_ ?_ ?_ ?_ ?_ ?_ ?_ ?_ ?_ ?_ ?_ ?_ ?_ ?_ ?_ ?_ ?_ ?_ ?_ ?_ ?_ ?_

theorem execBeacon_same {ps : List StatePart} {base s : State} (hk : Same ps base s) (port : PortId) (car : RxCar) (t4 : Word64)
    (hp : ([.dev, .grm, .err, .mbx, .ports, .sheds, .fresh] : List StatePart) ⊆ ps := by exact sub_of (by assumption) (by decide)) : OutSame ps base (execBeacon port car t4 s) := by
  unfold execBeacon
  refine Same.ite hk ?_
  have h := receiveCar_same hk port car
  revert h
  cases receiveCar s port car <;> intro h
  · exact h
  · have hp : ∀ t f, Same ps base t → Same ps base (portState t port f) := fun t f ht => portState_same ht _ _
    have he : ∀ t a b c d, Same ps base t → Same ps base (match exchangeOffset t a b c d with | (off, s) => correctWall s off) :=
      fun t a b c d ht => correctWall_same (exchangeOffset_same ht a b c d) _
    exact Same.ite (he _ _ _ _ _ (hp _ _ h)) (hp _ _ h)

/-! Mailboxes. -/

theorem raiseIbi_same {ps : List StatePart} {base s : State} (hk : Same ps base s) 
    (hp : ([.i3c] : List StatePart) ⊆ ps := by exact sub_of (by assumption) (by decide)) : Same ps base (raiseIbi s) := by
  unfold raiseIbi
  repeat' first
    | exact Or.inr (partIn hp (by decide))
    | with_reducible exact Or.inl rfl
    | with_reducible assumption
    | with_reducible apply Same.ite
    | exact sub_of hp (by decide)
    | intro _
    | dsimp only
    | split
    | with_reducible refine Same.upd ?_ ?_ ?_ ?_ ?_ ?_ ?_ ?_ ?_ ?_ ?_ ?_ ?_ ?_ ?_ ?_ ?_ ?_ ?_ ?_ ?_ ?_ ?_ ?_ ?_ ?_ ?_ ?_

theorem callHost_same {ps : List StatePart} {base s : State} (hk : Same ps base s) (n : Nat) (old : Nat)
    (hp : ([.ports, .i3c] : List StatePart) ⊆ ps := by exact sub_of (by assumption) (by decide)) : Same ps base (callHost s n old) := by
  unfold callHost
  repeat' first
    | exact Or.inr (partIn hp (by decide))
    | with_reducible exact Or.inl rfl
    | with_reducible assumption
    | with_reducible apply sendCar_same
    | with_reducible apply raiseIbi_same
    | with_reducible apply Same.ite
    | exact sub_of hp (by decide)
    | intro _
    | dsimp only
    | split
    | with_reducible refine Same.upd ?_ ?_ ?_ ?_ ?_ ?_ ?_ ?_ ?_ ?_ ?_ ?_ ?_ ?_ ?_ ?_ ?_ ?_ ?_ ?_ ?_ ?_ ?_ ?_ ?_ ?_ ?_ ?_

theorem callReceiver_same {ps : List StatePart} {base s : State} (hk : Same ps base s) (n : Nat) (old : Nat)
    (hp : ([.mbx, .ports, .i3c] : List StatePart) ⊆ ps := by exact sub_of (by assumption) (by decide)) : Same ps base (callReceiver s n old) := by
  unfold callReceiver
  repeat' first
    | with_reducible assumption
    | with_reducible apply callHost_same
    | with_reducible apply callCore_same
    | with_reducible apply Same.ite
    | exact sub_of hp (by decide)
    | intro _
    | dsimp only
    | split

theorem ringBox_same {ps : List StatePart} {base s : State} (hk : Same ps base s) (n : Nat) (bits : Nat)
    (hp : ([.mbx, .ports, .i3c] : List StatePart) ⊆ ps := by exact sub_of (by assumption) (by decide)) : Same ps base (ringBox s n bits) := by
  unfold ringBox
  repeat' first
    | exact Or.inr (partIn hp (by decide))
    | with_reducible exact Or.inl rfl
    | with_reducible assumption
    | with_reducible apply callReceiver_same
    | with_reducible apply modBox_same
    | exact sub_of hp (by decide)
    | intro _
    | dsimp only
    | with_reducible refine Same.upd ?_ ?_ ?_ ?_ ?_ ?_ ?_ ?_ ?_ ?_ ?_ ?_ ?_ ?_ ?_ ?_ ?_ ?_ ?_ ?_ ?_ ?_ ?_ ?_ ?_ ?_ ?_ ?_

theorem asParty_same {ps : List StatePart} {base s : State} (hk : Same ps base s) (o : Origin) (n : Nat) (side : Party) {f : State → State}
    (hf : Same ps base s → Same ps base (f s)) (hp : ([.resp] : List StatePart) ⊆ ps := by exact sub_of (by assumption) (by decide)) :
    Same ps base (asParty o n side s f) := Same.ite (answer_same (hf hk) _ _ _) (answer_same hk _ _ _)

theorem post_same {ps : List StatePart} {base s : State} (hk : Same ps base s) (n : Nat) (hi : Nat)
    (hp : ([.mbx, .ports, .i3c] : List StatePart) ⊆ ps := by exact sub_of (by assumption) (by decide)) : Same ps base (post n hi s) := by
  unfold post
  repeat' first
    | exact Or.inr (partIn hp (by decide))
    | with_reducible exact Or.inl rfl
    | with_reducible assumption
    | with_reducible apply ringBox_same
    | with_reducible apply modBox_same
    | with_reducible apply Same.ite
    | exact sub_of hp (by decide)
    | intro _
    | dsimp only
    | split
    | with_reducible refine Same.upd ?_ ?_ ?_ ?_ ?_ ?_ ?_ ?_ ?_ ?_ ?_ ?_ ?_ ?_ ?_ ?_ ?_ ?_ ?_ ?_ ?_ ?_ ?_ ?_ ?_ ?_ ?_ ?_

theorem groomPost_same {ps : List StatePart} {base s : State} (hk : Same ps base s) (n : Nat) (ptr : Nat) (len : Nat) (typ : Nat) (bell : Nat)
    (hp : ([.mbx, .ports, .i3c] : List StatePart) ⊆ ps := by exact sub_of (by assumption) (by decide)) : Same ps base (groomPost s n ptr len typ bell) := by
  unfold groomPost
  repeat' first
    | exact Or.inr (partIn hp (by decide))
    | with_reducible exact Or.inl rfl
    | with_reducible assumption
    | with_reducible apply post_same
    | with_reducible apply modBox_same
    | exact sub_of hp (by decide)
    | intro _
    | dsimp only
    | with_reducible refine Same.upd ?_ ?_ ?_ ?_ ?_ ?_ ?_ ?_ ?_ ?_ ?_ ?_ ?_ ?_ ?_ ?_ ?_ ?_ ?_ ?_ ?_ ?_ ?_ ?_ ?_ ?_ ?_ ?_

theorem execMbxPost_same {ps : List StatePart} {base s : State} (hk : Same ps base s) (o : Origin) (n : Fin 10) (hi : Word64)
    (hp : ([.mbx, .ports, .i3c, .resp] : List StatePart) ⊆ ps := by exact sub_of (by assumption) (by decide)) : OutSame ps base (execMbxPost o n hi s) := by
  unfold execMbxPost
  repeat' first
    | with_reducible assumption
    | with_reducible apply asParty_same
    | with_reducible apply post_same
    | with_reducible apply OutSame.next
    | exact sub_of hp (by decide)
    | intro _
    | dsimp only

theorem execMbxRing_same {ps : List StatePart} {base s : State} (hk : Same ps base s) (o : Origin) (n : Fin 10) (data : Word64)
    (hp : ([.mbx, .ports, .i3c, .resp] : List StatePart) ⊆ ps := by exact sub_of (by assumption) (by decide)) : OutSame ps base (execMbxRing o n data s) := by
  unfold execMbxRing
  repeat' first
    | with_reducible assumption
    | with_reducible apply ringBox_same
    | with_reducible apply asParty_same
    | with_reducible apply OutSame.next
    | exact sub_of hp (by decide)
    | intro _
    | dsimp only

theorem clearDoor_same {ps : List StatePart} {base s : State} (hk : Same ps base s) (n : Nat) (data : Nat)
    (hp : ([.mbx] : List StatePart) ⊆ ps := by exact sub_of (by assumption) (by decide)) : Same ps base (clearDoor n data s) := by
  unfold clearDoor
  repeat' first
    | exact Or.inr (partIn hp (by decide))
    | with_reducible exact Or.inl rfl
    | with_reducible assumption
    | with_reducible apply modBox_same
    | exact sub_of hp (by decide)
    | intro _
    | dsimp only
    | with_reducible refine Same.upd ?_ ?_ ?_ ?_ ?_ ?_ ?_ ?_ ?_ ?_ ?_ ?_ ?_ ?_ ?_ ?_ ?_ ?_ ?_ ?_ ?_ ?_ ?_ ?_ ?_ ?_ ?_ ?_

theorem execMbxDoorClear_same {ps : List StatePart} {base s : State} (hk : Same ps base s) (o : Origin) (n : Fin 10) (data : Word64)
    (hp : ([.mbx, .resp] : List StatePart) ⊆ ps := by exact sub_of (by assumption) (by decide)) : OutSame ps base (execMbxDoorClear o n data s) := by
  unfold execMbxDoorClear
  repeat' first
    | with_reducible assumption
    | with_reducible apply asParty_same
    | with_reducible apply clearDoor_same
    | with_reducible apply OutSame.next
    | exact sub_of hp (by decide)
    | intro _
    | dsimp only

theorem writeMask_same {ps : List StatePart} {base s : State} (hk : Same ps base s) (n : Nat) (data : Nat)
    (hp : ([.mbx, .ports, .i3c] : List StatePart) ⊆ ps := by exact sub_of (by assumption) (by decide)) : Same ps base (writeMask n data s) := by
  unfold writeMask
  repeat' first
    | exact Or.inr (partIn hp (by decide))
    | with_reducible exact Or.inl rfl
    | with_reducible assumption
    | with_reducible apply callReceiver_same
    | with_reducible apply modBox_same
    | exact sub_of hp (by decide)
    | intro _
    | dsimp only
    | with_reducible refine Same.upd ?_ ?_ ?_ ?_ ?_ ?_ ?_ ?_ ?_ ?_ ?_ ?_ ?_ ?_ ?_ ?_ ?_ ?_ ?_ ?_ ?_ ?_ ?_ ?_ ?_ ?_ ?_ ?_

theorem execMbxMaskWrite_same {ps : List StatePart} {base s : State} (hk : Same ps base s) (o : Origin) (n : Fin 10) (data : Word64)
    (hp : ([.mbx, .ports, .i3c, .resp] : List StatePart) ⊆ ps := by exact sub_of (by assumption) (by decide)) : OutSame ps base (execMbxMaskWrite o n data s) := by
  unfold execMbxMaskWrite
  repeat' first
    | with_reducible assumption
    | with_reducible apply asParty_same
    | with_reducible apply writeMask_same
    | with_reducible apply OutSame.next
    | exact sub_of hp (by decide)
    | intro _
    | dsimp only

theorem popBox_same {ps : List StatePart} {base s : State} (hk : Same ps base s) (n : Nat)
    (hp : ([.mbx] : List StatePart) ⊆ ps := by exact sub_of (by assumption) (by decide)) : Same ps base (popBox n s) := by
  unfold popBox
  repeat' first
    | exact Or.inr (partIn hp (by decide))
    | with_reducible exact Or.inl rfl
    | with_reducible assumption
    | with_reducible apply modBox_same
    | exact sub_of hp (by decide)
    | intro _
    | dsimp only
    | with_reducible refine Same.upd ?_ ?_ ?_ ?_ ?_ ?_ ?_ ?_ ?_ ?_ ?_ ?_ ?_ ?_ ?_ ?_ ?_ ?_ ?_ ?_ ?_ ?_ ?_ ?_ ?_ ?_ ?_ ?_

theorem flushBox_same {ps : List StatePart} {base s : State} (hk : Same ps base s) (n : Nat)
    (hp : ([.mbx] : List StatePart) ⊆ ps := by exact sub_of (by assumption) (by decide)) : Same ps base (flushBox n s) := by
  unfold flushBox
  repeat' first
    | exact Or.inr (partIn hp (by decide))
    | with_reducible exact Or.inl rfl
    | with_reducible assumption
    | with_reducible apply modBox_same
    | exact sub_of hp (by decide)
    | intro _
    | dsimp only
    | with_reducible refine Same.upd ?_ ?_ ?_ ?_ ?_ ?_ ?_ ?_ ?_ ?_ ?_ ?_ ?_ ?_ ?_ ?_ ?_ ?_ ?_ ?_ ?_ ?_ ?_ ?_ ?_ ?_ ?_ ?_

theorem writePop_same {ps : List StatePart} {base s : State} (hk : Same ps base s) (n : Nat) (data : Nat)
    (hp : ([.mbx] : List StatePart) ⊆ ps := by exact sub_of (by assumption) (by decide)) : Same ps base (writePop n data s) := by
  unfold writePop
  repeat' first
    | with_reducible assumption
    | with_reducible apply popBox_same
    | with_reducible apply flushBox_same
    | with_reducible apply Same.ite
    | exact sub_of hp (by decide)
    | intro _
    | dsimp only
    | split

theorem execPop_same {ps : List StatePart} {base s : State} (hk : Same ps base s) (o : Origin) (n : Fin 10)
    (hp : ([.mbx, .resp] : List StatePart) ⊆ ps := by exact sub_of (by assumption) (by decide)) : OutSame ps base (execPop o n s) := by
  unfold execPop
  repeat' first
    | with_reducible assumption
    | with_reducible apply asParty_same
    | with_reducible apply popBox_same
    | with_reducible apply OutSame.next
    | exact sub_of hp (by decide)
    | intro _
    | dsimp only

theorem execFlush_same {ps : List StatePart} {base s : State} (hk : Same ps base s) (o : Origin) (n : Fin 10)
    (hp : ([.mbx, .resp] : List StatePart) ⊆ ps := by exact sub_of (by assumption) (by decide)) : OutSame ps base (execFlush o n s) := by
  unfold execFlush
  repeat' first
    | with_reducible assumption
    | with_reducible apply asParty_same
    | with_reducible apply flushBox_same
    | with_reducible apply OutSame.next
    | exact sub_of hp (by decide)
    | intro _
    | dsimp only

theorem setRxrdy_same {ps : List StatePart} {base s : State} (hk : Same ps base s) (n : Nat) (v : Bool)
    (hp : ([.grm, .mbx] : List StatePart) ⊆ ps := by exact sub_of (by assumption) (by decide)) : Same ps base (setRxrdy n v s) := by
  unfold setRxrdy
  repeat' first
    | exact Or.inr (partIn hp (by decide))
    | with_reducible exact Or.inl rfl
    | with_reducible assumption
    | with_reducible apply modBox_same
    | with_reducible apply journal_same
    | with_reducible apply Same.ite
    | exact sub_of hp (by decide)
    | intro _
    | dsimp only
    | split
    | with_reducible refine Same.upd ?_ ?_ ?_ ?_ ?_ ?_ ?_ ?_ ?_ ?_ ?_ ?_ ?_ ?_ ?_ ?_ ?_ ?_ ?_ ?_ ?_ ?_ ?_ ?_ ?_ ?_ ?_ ?_

theorem execRxrdy_same {ps : List StatePart} {base s : State} (hk : Same ps base s) (o : Origin) (n : Fin 10) (value : Bool)
    (hp : ([.grm, .mbx, .resp] : List StatePart) ⊆ ps := by exact sub_of (by assumption) (by decide)) : OutSame ps base (execRxrdy o n value s) := by
  unfold execRxrdy
  repeat' first
    | with_reducible assumption
    | with_reducible apply asParty_same
    | with_reducible apply setRxrdy_same
    | with_reducible apply OutSame.next
    | exact sub_of hp (by decide)
    | intro _
    | dsimp only

theorem stopBad_same {ps : List StatePart} {base s : State} (hk : Same ps base s) (r : Nat)
    (hp : ([.mbx] : List StatePart) ⊆ ps := by exact sub_of (by assumption) (by decide)) : Same ps base (stopBad r s) := by
  unfold stopBad
  repeat' first
    | exact Or.inr (partIn hp (by decide))
    | with_reducible exact Or.inl rfl
    | with_reducible assumption
    | with_reducible apply modRing_same
    | with_reducible apply Same.ite
    | exact sub_of hp (by decide)
    | intro _
    | dsimp only
    | split
    | with_reducible refine Same.upd ?_ ?_ ?_ ?_ ?_ ?_ ?_ ?_ ?_ ?_ ?_ ?_ ?_ ?_ ?_ ?_ ?_ ?_ ?_ ?_ ?_ ?_ ?_ ?_ ?_ ?_ ?_ ?_

theorem writeHead_same {ps : List StatePart} {base s : State} (hk : Same ps base s) (r : Nat) (data : Nat)
    (hp : ([.mbx] : List StatePart) ⊆ ps := by exact sub_of (by assumption) (by decide)) : Same ps base (writeHead r data s) := by
  unfold writeHead
  repeat' first
    | exact Or.inr (partIn hp (by decide))
    | with_reducible exact Or.inl rfl
    | with_reducible assumption
    | with_reducible apply stopBad_same
    | with_reducible apply modRing_same
    | with_reducible apply raiseIrq_same
    | with_reducible apply Same.ite
    | exact sub_of hp (by decide)
    | intro _
    | dsimp only
    | split
    | with_reducible refine Same.upd ?_ ?_ ?_ ?_ ?_ ?_ ?_ ?_ ?_ ?_ ?_ ?_ ?_ ?_ ?_ ?_ ?_ ?_ ?_ ?_ ?_ ?_ ?_ ?_ ?_ ?_ ?_ ?_

theorem writeTail_same {ps : List StatePart} {base s : State} (hk : Same ps base s) (r : Nat) (data : Nat)
    (hp : ([.mbx] : List StatePart) ⊆ ps := by exact sub_of (by assumption) (by decide)) : Same ps base (writeTail r data s) := by
  unfold writeTail
  repeat' first
    | exact Or.inr (partIn hp (by decide))
    | with_reducible exact Or.inl rfl
    | with_reducible assumption
    | with_reducible apply stopBad_same
    | with_reducible apply modRing_same
    | exact sub_of hp (by decide)
    | intro _
    | dsimp only
    | with_reducible refine Same.upd ?_ ?_ ?_ ?_ ?_ ?_ ?_ ?_ ?_ ?_ ?_ ?_ ?_ ?_ ?_ ?_ ?_ ?_ ?_ ?_ ?_ ?_ ?_ ?_ ?_ ?_ ?_ ?_

theorem execCrheadWrite_same {ps : List StatePart} {base s : State} (hk : Same ps base s) (o : Origin) (r : Fin 8) (data : Word64)
    (hp : ([.mbx, .resp] : List StatePart) ⊆ ps := by exact sub_of (by assumption) (by decide)) : OutSame ps base (execCrheadWrite o r data s) := by
  unfold execCrheadWrite
  repeat' first
    | with_reducible assumption
    | with_reducible apply writeHead_same
    | with_reducible apply answer_same
    | with_reducible apply Same.ite
    | with_reducible apply OutSame.next
    | exact sub_of hp (by decide)
    | intro _
    | dsimp only
    | split

theorem execCrcfgWrite_same {ps : List StatePart} {base s : State} (hk : Same ps base s) (o : Origin) (r : Fin 8) (data : Word64)
    (hp : ([.mbx, .resp] : List StatePart) ⊆ ps := by exact sub_of (by assumption) (by decide)) : OutSame ps base (execCrcfgWrite o r data s) := by
  unfold execCrcfgWrite
  repeat' first
    | with_reducible assumption
    | with_reducible apply modRing_same
    | with_reducible apply asHostler_same
    | with_reducible apply OutSame.next
    | exact sub_of hp (by decide)
    | intro _
    | dsimp only

theorem takeSvc_same {ps : List StatePart} {base s : State} (hk : Same ps base s) (p : Nat) (payload : List Byte)
    (hp : ([.mbx, .hmem, .fresh] : List StatePart) ⊆ ps := by exact sub_of (by assumption) (by decide)) : Same ps base (takeSvc s p payload) := by
  unfold takeSvc
  unfold takeFresh
  repeat' first
    | exact Or.inr (partIn hp (by decide))
    | with_reducible exact Or.inl rfl
    | with_reducible assumption
    | with_reducible apply Same.ite
    | exact sub_of hp (by decide)
    | intro _
    | dsimp only
    | split
    | with_reducible refine Same.upd ?_ ?_ ?_ ?_ ?_ ?_ ?_ ?_ ?_ ?_ ?_ ?_ ?_ ?_ ?_ ?_ ?_ ?_ ?_ ?_ ?_ ?_ ?_ ?_ ?_ ?_ ?_ ?_

theorem execSvc_same {ps : List StatePart} {base s : State} (hk : Same ps base s) (port : PortId) (car : RxCar)
    (hp : ([.dev, .grm, .err, .mbx, .ports, .sheds, .hmem, .fresh] : List StatePart) ⊆ ps := by exact sub_of (by assumption) (by decide)) : OutSame ps base (execSvc port car s) := by
  unfold execSvc
  refine OutSame.next ?_
  with_reducible refine Same.ite hk ?_
  have hg := receiveCar_same hk port car
  revert hg
  cases receiveCar s port car <;> intro hg <;> have hg' : Same ps base _ := hg <;> clear hg <;> dsimp only
  all_goals repeat' first
    | with_reducible assumption
    | with_reducible apply takeSvc_same
    | with_reducible apply Same.ite
    | with_reducible apply OutSame.next
    | exact sub_of hp (by decide)
    | intro _
    | dsimp only
    | split
    | exact Or.inr (partIn hp (by decide))
    | with_reducible exact Or.inl rfl
    | with_reducible refine Same.upd ?_ ?_ ?_ ?_ ?_ ?_ ?_ ?_ ?_ ?_ ?_ ?_ ?_ ?_ ?_ ?_ ?_ ?_ ?_ ?_ ?_ ?_ ?_ ?_ ?_ ?_ ?_ ?_

end Sys2Proof.Machine
end

