-- ==== Sys2Proof/Laws/SameGroom.lean ====
section
/-! SUPPORT. Which parts of the state the commands of power, heat, remap, lunge, studbook, bring-up and resets can change (Safety, `Same`). -/

set_option Elab.async false
set_option linter.all false

namespace Sys2Proof.Machine

/-! Power. -/

theorem fixLimit_same {ps : List StatePart} {base s : State} (hk : Same ps base s) 
    (hp : ([.pwr] : List StatePart) ⊆ ps := by exact sub_of (by assumption) (by decide)) : Same ps base (fixLimit s) := by
  unfold fixLimit
  repeat' first
    | exact Or.inr (partIn hp (by decide))
    | with_reducible exact Or.inl rfl
    | with_reducible assumption
    | with_reducible apply Same.ite
    | exact sub_of hp (by decide)
    | intro _
    | dsimp only
    | split
    | with_reducible refine Same.upd ?_ ?_ ?_ ?_ ?_ ?_ ?_ ?_ ?_ ?_ ?_ ?_ ?_ ?_ ?_ ?_ ?_ ?_ ?_ ?_ ?_ ?_ ?_ ?_ ?_ ?_ ?_ ?_

theorem writeCap_same {ps : List StatePart} {base s : State} (hk : Same ps base s) (data : Nat)
    (hp : ([.pwr] : List StatePart) ⊆ ps := by exact sub_of (by assumption) (by decide)) : Same ps base (writeCap data s) := by
  unfold writeCap
  repeat' first
    | exact Or.inr (partIn hp (by decide))
    | with_reducible exact Or.inl rfl
    | with_reducible assumption
    | with_reducible apply fixLimit_same
    | exact sub_of hp (by decide)
    | intro _
    | dsimp only
    | with_reducible refine Same.upd ?_ ?_ ?_ ?_ ?_ ?_ ?_ ?_ ?_ ?_ ?_ ?_ ?_ ?_ ?_ ?_ ?_ ?_ ?_ ?_ ?_ ?_ ?_ ?_ ?_ ?_ ?_ ?_

theorem execPwrCapWrite_same {ps : List StatePart} {base s : State} (hk : Same ps base s) (o : Origin) (data : Word64)
    (hp : ([.pwr, .resp] : List StatePart) ⊆ ps := by exact sub_of (by assumption) (by decide)) : OutSame ps base (execPwrCapWrite o data s) := by
  unfold execPwrCapWrite
  repeat' first
    | with_reducible assumption
    | with_reducible apply asAuth_same
    | with_reducible apply writeCap_same
    | with_reducible apply OutSame.next
    | exact sub_of hp (by decide)
    | intro _
    | dsimp only

theorem slewLimit_same {ps : List StatePart} {base s : State} (hk : Same ps base s) 
    (hp : ([.pwr] : List StatePart) ⊆ ps := by exact sub_of (by assumption) (by decide)) : Same ps base (slewLimit s) := by
  unfold slewLimit
  repeat' first
    | exact Or.inr (partIn hp (by decide))
    | with_reducible exact Or.inl rfl
    | with_reducible assumption
    | with_reducible apply Same.ite
    | exact sub_of hp (by decide)
    | intro _
    | dsimp only
    | split
    | with_reducible refine Same.upd ?_ ?_ ?_ ?_ ?_ ?_ ?_ ?_ ?_ ?_ ?_ ?_ ?_ ?_ ?_ ?_ ?_ ?_ ?_ ?_ ?_ ?_ ?_ ?_ ?_ ?_ ?_ ?_

theorem countOvershoot_same {ps : List StatePart} {base s : State} (hk : Same ps base s) 
    (hp : ([.pwr] : List StatePart) ⊆ ps := by exact sub_of (by assumption) (by decide)) : Same ps base (countOvershoot s) := by
  unfold countOvershoot
  repeat' first
    | exact Or.inr (partIn hp (by decide))
    | with_reducible exact Or.inl rfl
    | with_reducible assumption
    | with_reducible apply Same.ite
    | exact sub_of hp (by decide)
    | intro _
    | dsimp only
    | split
    | with_reducible refine Same.upd ?_ ?_ ?_ ?_ ?_ ?_ ?_ ?_ ?_ ?_ ?_ ?_ ?_ ?_ ?_ ?_ ?_ ?_ ?_ ?_ ?_ ?_ ?_ ?_ ?_ ?_ ?_ ?_

theorem execAllocatorInterval_same {ps : List StatePart} {base s : State} (hk : Same ps base s) (m : PowerMeas)
    (hp : ([.pwr] : List StatePart) ⊆ ps := by exact sub_of (by assumption) (by decide)) : OutSame ps base (execAllocatorInterval m s) := by
  unfold execAllocatorInterval
  repeat' first
    | exact Or.inr (partIn hp (by decide))
    | with_reducible exact Or.inl rfl
    | with_reducible assumption
    | with_reducible apply slewLimit_same
    | with_reducible apply countOvershoot_same
    | with_reducible apply Same.ite
    | with_reducible apply OutSame.next
    | exact sub_of hp (by decide)
    | intro _
    | dsimp only
    | split
    | with_reducible refine Same.upd ?_ ?_ ?_ ?_ ?_ ?_ ?_ ?_ ?_ ?_ ?_ ?_ ?_ ?_ ?_ ?_ ?_ ?_ ?_ ?_ ?_ ?_ ?_ ?_ ?_ ?_ ?_ ?_

theorem execYardRailInterval_same {ps : List StatePart} {base s : State} (hk : Same ps base s) (yard : YardId) (watts : Nat)
    (hp : ([.yards] : List StatePart) ⊆ ps := by exact sub_of (by assumption) (by decide)) : OutSame ps base (execYardRailInterval yard watts s) := by
  unfold execYardRailInterval
  repeat' first
    | with_reducible assumption
    | with_reducible apply modYard_same
    | with_reducible apply OutSame.next
    | exact sub_of hp (by decide)
    | intro _
    | dsimp only

theorem propose_same {ps : List StatePart} {base s : State} (hk : Same ps base s) (k : Nat)
    (hp : ([.psheds] : List StatePart) ⊆ ps := by exact sub_of (by assumption) (by decide)) : Same ps base (propose s k) := by
  unfold propose
  repeat' first
    | exact Or.inr (partIn hp (by decide))
    | with_reducible exact Or.inl rfl
    | with_reducible assumption
    | with_reducible apply modPShed_same
    | with_reducible apply Same.ite
    | exact sub_of hp (by decide)
    | intro _
    | dsimp only
    | split
    | with_reducible refine Same.upd ?_ ?_ ?_ ?_ ?_ ?_ ?_ ?_ ?_ ?_ ?_ ?_ ?_ ?_ ?_ ?_ ?_ ?_ ?_ ?_ ?_ ?_ ?_ ?_ ?_ ?_ ?_ ?_

theorem enterDepth_same {ps : List StatePart} {base s : State} (hk : Same ps base s) (n : Nat) (d : Nat)
    (hp : ([.sec, .psheds, .stalls, .fresh] : List StatePart) ⊆ ps := by exact sub_of (by assumption) (by decide)) : Same ps base (enterDepth s n d) := by
  unfold enterDepth
  repeat' first
    | exact Or.inr (partIn hp (by decide))
    | with_reducible exact Or.inl rfl
    | with_reducible assumption
    | with_reducible apply modPShed_same
    | with_reducible apply Same.ite
    | exact sub_of hp (by decide)
    | intro _
    | dsimp only
    | split
    | with_reducible refine Same.upd ?_ ?_ ?_ ?_ ?_ ?_ ?_ ?_ ?_ ?_ ?_ ?_ ?_ ?_ ?_ ?_ ?_ ?_ ?_ ?_ ?_ ?_ ?_ ?_ ?_ ?_ ?_ ?_

theorem admitSheds_same {ps : List StatePart} {base s : State} (hk : Same ps base s) (ns : List Nat)
    (hp : ([.sec, .psheds, .stalls, .fresh] : List StatePart) ⊆ ps := by exact sub_of (by assumption) (by decide)) : Same ps base (admitSheds s ns) := by
  unfold admitSheds
  repeat' first
    | with_reducible assumption
    | with_reducible apply enterDepth_same
    | with_reducible refine Same.foldl ?_ (fun _ _ _ => ?_)
    | exact sub_of hp (by decide)
    | intro _
    | dsimp only

theorem admitAll_same {ps : List StatePart} {base s : State} (hk : Same ps base s) 
    (hp : ([.sec, .psheds, .stalls, .fresh] : List StatePart) ⊆ ps := by exact sub_of (by assumption) (by decide)) : Same ps base (admitAll s) := by
  unfold admitAll
  repeat' first
    | with_reducible assumption
    | with_reducible apply admitSheds_same
    | exact sub_of hp (by decide)
    | intro _
    | dsimp only

theorem execIdleProposal_same {ps : List StatePart} {base s : State} (hk : Same ps base s) (yard : YardId) (shed : ShedNo) (_cause : ProposalCause)
    (hp : ([.psheds] : List StatePart) ⊆ ps := by exact sub_of (by assumption) (by decide)) : OutSame ps base (execIdleProposal yard shed _cause s) := by
  unfold execIdleProposal
  repeat' first
    | with_reducible assumption
    | with_reducible apply propose_same
    | with_reducible apply OutSame.next
    | exact sub_of hp (by decide)
    | intro _
    | dsimp only

theorem execShedWake_same {ps : List StatePart} {base s : State} (hk : Same ps base s) (yard : YardId) (shed : ShedNo) (cause : WakeCause)
    (hp : ([.psheds] : List StatePart) ⊆ ps := by exact sub_of (by assumption) (by decide)) : OutSame ps base (execShedWake yard shed cause s) := by
  unfold execShedWake
  repeat' first
    | exact Or.inr (partIn hp (by decide))
    | with_reducible exact Or.inl rfl
    | with_reducible assumption
    | with_reducible apply modPShed_same
    | with_reducible apply Same.ite
    | with_reducible apply OutSame.next
    | exact sub_of hp (by decide)
    | intro _
    | dsimp only
    | split
    | with_reducible refine Same.upd ?_ ?_ ?_ ?_ ?_ ?_ ?_ ?_ ?_ ?_ ?_ ?_ ?_ ?_ ?_ ?_ ?_ ?_ ?_ ?_ ?_ ?_ ?_ ?_ ?_ ?_ ?_ ?_

theorem execWakeComplete_same {ps : List StatePart} {base s : State} (hk : Same ps base s) (yard : YardId) (shed : ShedNo)
    (hp : ([.sheds, .psheds, .stalls] : List StatePart) ⊆ ps := by exact sub_of (by assumption) (by decide)) : OutSame ps base (execWakeComplete yard shed s) := by
  unfold execWakeComplete
  repeat' first
    | exact Or.inr (partIn hp (by decide))
    | with_reducible exact Or.inl rfl
    | with_reducible assumption
    | with_reducible apply modPShed_same
    | with_reducible apply propose_same
    | with_reducible apply flipShed_same
    | with_reducible apply Same.ite
    | with_reducible apply OutSame.next
    | exact sub_of hp (by decide)
    | intro _
    | dsimp only
    | split
    | with_reducible refine Same.upd ?_ ?_ ?_ ?_ ?_ ?_ ?_ ?_ ?_ ?_ ?_ ?_ ?_ ?_ ?_ ?_ ?_ ?_ ?_ ?_ ?_ ?_ ?_ ?_ ?_ ?_ ?_ ?_

theorem writeNextev_same {ps : List StatePart} {base s : State} (hk : Same ps base s) (data : Nat)
    (hp : ([.pwr, .psheds] : List StatePart) ⊆ ps := by exact sub_of (by assumption) (by decide)) : Same ps base (writeNextev data s) := by
  unfold writeNextev
  repeat' first
    | exact Or.inr (partIn hp (by decide))
    | with_reducible exact Or.inl rfl
    | with_reducible assumption
    | with_reducible apply propose_same
    | with_reducible refine Same.foldl ?_ (fun _ _ _ => ?_)
    | exact sub_of hp (by decide)
    | intro _
    | dsimp only
    | with_reducible refine Same.upd ?_ ?_ ?_ ?_ ?_ ?_ ?_ ?_ ?_ ?_ ?_ ?_ ?_ ?_ ?_ ?_ ?_ ?_ ?_ ?_ ?_ ?_ ?_ ?_ ?_ ?_ ?_ ?_

theorem execNextevWrite_same {ps : List StatePart} {base s : State} (hk : Same ps base s) (o : Origin) (data : Word64)
    (hp : ([.pwr, .psheds, .resp] : List StatePart) ⊆ ps := by exact sub_of (by assumption) (by decide)) : OutSame ps base (execNextevWrite o data s) := by
  unfold execNextevWrite
  repeat' first
    | with_reducible assumption
    | with_reducible apply asAuth_same
    | with_reducible apply writeNextev_same
    | with_reducible apply OutSame.next
    | exact sub_of hp (by decide)
    | intro _
    | dsimp only

theorem setBallast_same {ps : List StatePart} {base s : State} (hk : Same ps base s) 
    (hp : ([.psheds, .stalls, .fresh] : List StatePart) ⊆ ps := by exact sub_of (by assumption) (by decide)) : Same ps base (setBallast s) := by
  unfold setBallast
  repeat' first
    | exact Or.inr (partIn hp (by decide))
    | with_reducible exact Or.inl rfl
    | with_reducible assumption
    | with_reducible apply Same.ite
    | exact sub_of hp (by decide)
    | intro _
    | dsimp only
    | split
    | with_reducible refine Same.upd ?_ ?_ ?_ ?_ ?_ ?_ ?_ ?_ ?_ ?_ ?_ ?_ ?_ ?_ ?_ ?_ ?_ ?_ ?_ ?_ ?_ ?_ ?_ ?_ ?_ ?_ ?_ ?_

theorem dropBallast_same {ps : List StatePart} {base s : State} (hk : Same ps base s) 
    (hp : ([.psheds] : List StatePart) ⊆ ps := by exact sub_of (by assumption) (by decide)) : Same ps base (dropBallast s) := by
  unfold dropBallast
  repeat' first
    | exact Or.inr (partIn hp (by decide))
    | with_reducible exact Or.inl rfl
    | with_reducible assumption
    | exact sub_of hp (by decide)
    | intro _
    | dsimp only
    | with_reducible refine Same.upd ?_ ?_ ?_ ?_ ?_ ?_ ?_ ?_ ?_ ?_ ?_ ?_ ?_ ?_ ?_ ?_ ?_ ?_ ?_ ?_ ?_ ?_ ?_ ?_ ?_ ?_ ?_ ?_

theorem withhold_same {ps : List StatePart} {base s : State} (hk : Same ps base s) 
    (hp : ([.grm, .pwr, .err, .mbx, .sheds, .psheds] : List StatePart) ⊆ ps := by exact sub_of (by assumption) (by decide)) : Same ps base (withhold s) := by
  unfold withhold
  repeat' first
    | exact Or.inr (partIn hp (by decide))
    | with_reducible exact Or.inl rfl
    | with_reducible assumption
    | with_reducible apply record_same
    | with_reducible apply Same.ite
    | exact sub_of hp (by decide)
    | intro _
    | dsimp only
    | split
    | with_reducible refine Same.upd ?_ ?_ ?_ ?_ ?_ ?_ ?_ ?_ ?_ ?_ ?_ ?_ ?_ ?_ ?_ ?_ ?_ ?_ ?_ ?_ ?_ ?_ ?_ ?_ ?_ ?_ ?_ ?_

theorem wakeSome_same {ps : List StatePart} {base s : State} (hk : Same ps base s) (ns : List Nat)
    (hp : ([.psheds, .fresh] : List StatePart) ⊆ ps := by exact sub_of (by assumption) (by decide)) : Same ps base (wakeSome s ns) := by
  unfold wakeSome
  unfold takeFresh
  repeat' first
    | exact Or.inr (partIn hp (by decide))
    | with_reducible exact Or.inl rfl
    | with_reducible assumption
    | exact sub_of hp (by decide)
    | intro _
    | dsimp only
    | split
    | with_reducible refine Same.upd ?_ ?_ ?_ ?_ ?_ ?_ ?_ ?_ ?_ ?_ ?_ ?_ ?_ ?_ ?_ ?_ ?_ ?_ ?_ ?_ ?_ ?_ ?_ ?_ ?_ ?_ ?_ ?_

theorem drawAbove_same {ps : List StatePart} {base s : State} (hk : Same ps base s) 
    (hp : ([.pwr, .sec, .psheds, .stalls, .fresh] : List StatePart) ⊆ ps := by exact sub_of (by assumption) (by decide)) : Same ps base (drawAbove s) := by
  unfold drawAbove
  unfold takeFresh
  repeat' first
    | exact Or.inr (partIn hp (by decide))
    | with_reducible exact Or.inl rfl
    | with_reducible assumption
    | with_reducible apply admitSheds_same
    | with_reducible apply setBallast_same
    | exact sub_of hp (by decide)
    | intro _
    | dsimp only
    | split
    | with_reducible refine Same.upd ?_ ?_ ?_ ?_ ?_ ?_ ?_ ?_ ?_ ?_ ?_ ?_ ?_ ?_ ?_ ?_ ?_ ?_ ?_ ?_ ?_ ?_ ?_ ?_ ?_ ?_ ?_ ?_

theorem drawBelow_same {ps : List StatePart} {base s : State} (hk : Same ps base s) (short : Bool)
    (hp : ([.grm, .pwr, .err, .mbx, .sheds, .psheds, .stalls, .fresh] : List StatePart) ⊆ ps := by exact sub_of (by assumption) (by decide)) : Same ps base (drawBelow s short) := by
  unfold drawBelow
  unfold takeFresh
  repeat' first
    | exact Or.inr (partIn hp (by decide))
    | with_reducible exact Or.inl rfl
    | with_reducible assumption
    | with_reducible apply setBallast_same
    | with_reducible apply withhold_same
    | with_reducible apply wakeSome_same
    | with_reducible apply Same.ite
    | exact sub_of hp (by decide)
    | intro _
    | dsimp only
    | split
    | with_reducible refine Same.upd ?_ ?_ ?_ ?_ ?_ ?_ ?_ ?_ ?_ ?_ ?_ ?_ ?_ ?_ ?_ ?_ ?_ ?_ ?_ ?_ ?_ ?_ ?_ ?_ ?_ ?_ ?_ ?_

theorem execRampInterval_same {ps : List StatePart} {base s : State} (hk : Same ps base s) (m : RampMeas)
    (hp : ([.grm, .pwr, .err, .sec, .mbx, .sheds, .psheds, .stalls, .fresh] : List StatePart) ⊆ ps := by exact sub_of (by assumption) (by decide)) : OutSame ps base (execRampInterval m s) := by
  unfold execRampInterval
  repeat' first
    | exact Or.inr (partIn hp (by decide))
    | with_reducible exact Or.inl rfl
    | with_reducible assumption
    | with_reducible apply admitAll_same
    | with_reducible apply dropBallast_same
    | with_reducible apply drawAbove_same
    | with_reducible apply drawBelow_same
    | with_reducible apply Same.ite
    | with_reducible apply OutSame.next
    | exact sub_of hp (by decide)
    | intro _
    | dsimp only
    | split
    | with_reducible refine Same.upd ?_ ?_ ?_ ?_ ?_ ?_ ?_ ?_ ?_ ?_ ?_ ?_ ?_ ?_ ?_ ?_ ?_ ?_ ?_ ?_ ?_ ?_ ?_ ?_ ?_ ?_ ?_ ?_

theorem writeStagger_same {ps : List StatePart} {base s : State} (hk : Same ps base s) (data : Nat)
    (hp : ([.pwr] : List StatePart) ⊆ ps := by exact sub_of (by assumption) (by decide)) : Same ps base (writeStagger data s) := by
  unfold writeStagger
  repeat' first
    | exact Or.inr (partIn hp (by decide))
    | with_reducible exact Or.inl rfl
    | with_reducible assumption
    | with_reducible apply Same.ite
    | exact sub_of hp (by decide)
    | intro _
    | dsimp only
    | split
    | with_reducible refine Same.upd ?_ ?_ ?_ ?_ ?_ ?_ ?_ ?_ ?_ ?_ ?_ ?_ ?_ ?_ ?_ ?_ ?_ ?_ ?_ ?_ ?_ ?_ ?_ ?_ ?_ ?_ ?_ ?_

theorem execStaggerArm_same {ps : List StatePart} {base s : State} (hk : Same ps base s) (o : Origin) (data : Word64)
    (hp : ([.pwr, .resp] : List StatePart) ⊆ ps := by exact sub_of (by assumption) (by decide)) : OutSame ps base (execStaggerArm o data s) := by
  unfold execStaggerArm
  repeat' first
    | with_reducible assumption
    | with_reducible apply asAuth_same
    | with_reducible apply writeStagger_same
    | with_reducible apply OutSame.next
    | exact sub_of hp (by decide)
    | intro _
    | dsimp only

theorem execStaggerSlotReached_same {ps : List StatePart} {base s : State} (hk : Same ps base s) 
    (hp : ([.pwr, .sec, .yards, .sheds, .psheds, .stalls] : List StatePart) ⊆ ps := by exact sub_of (by assumption) (by decide)) : OutSame ps base (execStaggerSlotReached s) := by
  unfold execStaggerSlotReached
  repeat' first
    | exact Or.inr (partIn hp (by decide))
    | with_reducible exact Or.inl rfl
    | with_reducible assumption
    | with_reducible apply releaseStart_same
    | with_reducible apply Same.ite
    | with_reducible apply OutSame.next
    | exact sub_of hp (by decide)
    | intro _
    | dsimp only
    | split
    | with_reducible refine Same.upd ?_ ?_ ?_ ?_ ?_ ?_ ?_ ?_ ?_ ?_ ?_ ?_ ?_ ?_ ?_ ?_ ?_ ?_ ?_ ?_ ?_ ?_ ?_ ?_ ?_ ?_ ?_ ?_

theorem shedBegin_same {ps : List StatePart} {base s : State} (hk : Same ps base s) 
    (hp : ([.pwr, .sec, .psheds, .stalls, .fresh] : List StatePart) ⊆ ps := by exact sub_of (by assumption) (by decide)) : Same ps base (shedBegin s) := by
  unfold shedBegin
  repeat' first
    | exact Or.inr (partIn hp (by decide))
    | with_reducible exact Or.inl rfl
    | with_reducible assumption
    | with_reducible apply fixLimit_same
    | with_reducible apply admitAll_same
    | with_reducible apply dropBallast_same
    | exact sub_of hp (by decide)
    | intro _
    | dsimp only
    | with_reducible refine Same.upd ?_ ?_ ?_ ?_ ?_ ?_ ?_ ?_ ?_ ?_ ?_ ?_ ?_ ?_ ?_ ?_ ?_ ?_ ?_ ?_ ?_ ?_ ?_ ?_ ?_ ?_ ?_ ?_

theorem shedEnd_same {ps : List StatePart} {base s : State} (hk : Same ps base s) 
    (hp : ([.pwr] : List StatePart) ⊆ ps := by exact sub_of (by assumption) (by decide)) : Same ps base (shedEnd s) := by
  unfold shedEnd
  repeat' first
    | exact Or.inr (partIn hp (by decide))
    | with_reducible exact Or.inl rfl
    | with_reducible assumption
    | exact sub_of hp (by decide)
    | intro _
    | dsimp only
    | with_reducible refine Same.upd ?_ ?_ ?_ ?_ ?_ ?_ ?_ ?_ ?_ ?_ ?_ ?_ ?_ ?_ ?_ ?_ ?_ ?_ ?_ ?_ ?_ ?_ ?_ ?_ ?_ ?_ ?_ ?_

theorem shedChange_same {ps : List StatePart} {base s : State} (hk : Same ps base s) (old : Bool)
    (hp : ([.pwr, .sec, .psheds, .stalls, .fresh] : List StatePart) ⊆ ps := by exact sub_of (by assumption) (by decide)) : Same ps base (shedChange old s) := by
  unfold shedChange
  repeat' first
    | with_reducible assumption
    | with_reducible apply fixLimit_same
    | with_reducible apply shedBegin_same
    | with_reducible apply shedEnd_same
    | with_reducible apply Same.ite
    | exact sub_of hp (by decide)
    | intro _
    | dsimp only
    | split

theorem execLshedAssert_same {ps : List StatePart} {base s : State} (hk : Same ps base s) 
    (hp : ([.pwr, .sec, .psheds, .stalls, .pins, .fresh] : List StatePart) ⊆ ps := by exact sub_of (by assumption) (by decide)) : OutSame ps base (execLshedAssert s) := by
  unfold execLshedAssert
  repeat' first
    | exact Or.inr (partIn hp (by decide))
    | with_reducible exact Or.inl rfl
    | with_reducible assumption
    | with_reducible apply shedChange_same
    | with_reducible apply OutSame.next
    | exact sub_of hp (by decide)
    | intro _
    | dsimp only
    | with_reducible refine Same.upd ?_ ?_ ?_ ?_ ?_ ?_ ?_ ?_ ?_ ?_ ?_ ?_ ?_ ?_ ?_ ?_ ?_ ?_ ?_ ?_ ?_ ?_ ?_ ?_ ?_ ?_ ?_ ?_

theorem writeLshed_same {ps : List StatePart} {base s : State} (hk : Same ps base s) (data : Nat)
    (hp : ([.pwr, .sec, .psheds, .stalls, .fresh] : List StatePart) ⊆ ps := by exact sub_of (by assumption) (by decide)) : Same ps base (writeLshed data s) := by
  unfold writeLshed
  repeat' first
    | exact Or.inr (partIn hp (by decide))
    | with_reducible exact Or.inl rfl
    | with_reducible assumption
    | with_reducible apply shedChange_same
    | exact sub_of hp (by decide)
    | intro _
    | dsimp only
    | with_reducible refine Same.upd ?_ ?_ ?_ ?_ ?_ ?_ ?_ ?_ ?_ ?_ ?_ ?_ ?_ ?_ ?_ ?_ ?_ ?_ ?_ ?_ ?_ ?_ ?_ ?_ ?_ ?_ ?_ ?_

theorem execLreq_same {ps : List StatePart} {base s : State} (hk : Same ps base s) (o : Origin) (data : Word64)
    (hp : ([.pwr, .sec, .psheds, .stalls, .fresh, .resp] : List StatePart) ⊆ ps := by exact sub_of (by assumption) (by decide)) : OutSame ps base (execLreq o data s) := by
  unfold execLreq
  repeat' first
    | with_reducible assumption
    | with_reducible apply asAuth_same
    | with_reducible apply writeLshed_same
    | with_reducible apply OutSame.next
    | exact sub_of hp (by decide)
    | intro _
    | dsimp only

theorem execLoadShedEnd_same {ps : List StatePart} {base s : State} (hk : Same ps base s) 
    (hp : ([.pwr, .sec, .psheds, .stalls, .pins, .fresh] : List StatePart) ⊆ ps := by exact sub_of (by assumption) (by decide)) : OutSame ps base (execLoadShedEnd s) := by
  unfold execLoadShedEnd
  repeat' first
    | exact Or.inr (partIn hp (by decide))
    | with_reducible exact Or.inl rfl
    | with_reducible assumption
    | with_reducible apply shedChange_same
    | with_reducible apply OutSame.next
    | exact sub_of hp (by decide)
    | intro _
    | dsimp only
    | with_reducible refine Same.upd ?_ ?_ ?_ ?_ ?_ ?_ ?_ ?_ ?_ ?_ ?_ ?_ ?_ ?_ ?_ ?_ ?_ ?_ ?_ ?_ ?_ ?_ ?_ ?_ ?_ ?_ ?_ ?_

/-! Thermal. -/

theorem writeThmClk_same {ps : List StatePart} {base s : State} (hk : Same ps base s) (data : Nat)
    (hp : ([.thm] : List StatePart) ⊆ ps := by exact sub_of (by assumption) (by decide)) : Same ps base (writeThmClk data s) := by
  unfold writeThmClk
  repeat' first
    | exact Or.inr (partIn hp (by decide))
    | with_reducible exact Or.inl rfl
    | with_reducible assumption
    | exact sub_of hp (by decide)
    | intro _
    | dsimp only
    | with_reducible refine Same.upd ?_ ?_ ?_ ?_ ?_ ?_ ?_ ?_ ?_ ?_ ?_ ?_ ?_ ?_ ?_ ?_ ?_ ?_ ?_ ?_ ?_ ?_ ?_ ?_ ?_ ?_ ?_ ?_

theorem execThmClkWrite_same {ps : List StatePart} {base s : State} (hk : Same ps base s) (o : Origin) (data : Word64)
    (hp : ([.thm, .resp] : List StatePart) ⊆ ps := by exact sub_of (by assumption) (by decide)) : OutSame ps base (execThmClkWrite o data s) := by
  unfold execThmClkWrite
  repeat' first
    | with_reducible assumption
    | with_reducible apply asAuth_same
    | with_reducible apply writeThmClk_same
    | with_reducible apply OutSame.next
    | exact sub_of hp (by decide)
    | intro _
    | dsimp only

theorem writeThmCfg_same {ps : List StatePart} {base s : State} (hk : Same ps base s) (data : Nat)
    (hp : ([.thm] : List StatePart) ⊆ ps := by exact sub_of (by assumption) (by decide)) : Same ps base (writeThmCfg data s) := by
  unfold writeThmCfg
  repeat' first
    | exact Or.inr (partIn hp (by decide))
    | with_reducible exact Or.inl rfl
    | with_reducible assumption
    | exact sub_of hp (by decide)
    | intro _
    | dsimp only
    | with_reducible refine Same.upd ?_ ?_ ?_ ?_ ?_ ?_ ?_ ?_ ?_ ?_ ?_ ?_ ?_ ?_ ?_ ?_ ?_ ?_ ?_ ?_ ?_ ?_ ?_ ?_ ?_ ?_ ?_ ?_

theorem execDroopDetect_same {ps : List StatePart} {base s : State} (hk : Same ps base s) (yard : YardId) (shed : ShedNo) (deep : Bool)
    (hp : ([.psheds, .fresh] : List StatePart) ⊆ ps := by exact sub_of (by assumption) (by decide)) : OutSame ps base (execDroopDetect yard shed deep s) := by
  unfold execDroopDetect
  unfold takeFresh
  repeat' first
    | exact Or.inr (partIn hp (by decide))
    | with_reducible exact Or.inl rfl
    | with_reducible assumption
    | with_reducible apply modPShed_same
    | with_reducible apply Same.ite
    | with_reducible apply OutSame.next
    | exact sub_of hp (by decide)
    | intro _
    | dsimp only
    | split
    | with_reducible refine Same.upd ?_ ?_ ?_ ?_ ?_ ?_ ?_ ?_ ?_ ?_ ?_ ?_ ?_ ?_ ?_ ?_ ?_ ?_ ?_ ?_ ?_ ?_ ?_ ?_ ?_ ?_ ?_ ?_

theorem execDroopRecovery_same {ps : List StatePart} {base s : State} (hk : Same ps base s) (yard : YardId) (shed : ShedNo)
    (hp : ([.psheds] : List StatePart) ⊆ ps := by exact sub_of (by assumption) (by decide)) : OutSame ps base (execDroopRecovery yard shed s) := by
  unfold execDroopRecovery
  repeat' first
    | exact Or.inr (partIn hp (by decide))
    | with_reducible exact Or.inl rfl
    | with_reducible assumption
    | with_reducible apply modPShed_same
    | with_reducible apply OutSame.next
    | exact sub_of hp (by decide)
    | intro _
    | dsimp only
    | with_reducible refine Same.upd ?_ ?_ ?_ ?_ ?_ ?_ ?_ ?_ ?_ ?_ ?_ ?_ ?_ ?_ ?_ ?_ ?_ ?_ ?_ ?_ ?_ ?_ ?_ ?_ ?_ ?_ ?_ ?_

theorem sensorless_same {ps : List StatePart} {base s : State} (hk : Same ps base s) (n : PShedNo)
    (hp : ([.grm, .psheds, .rm] : List StatePart) ⊆ ps := by exact sub_of (by assumption) (by decide)) : Same ps base (sensorless s n) := by
  unfold sensorless
  repeat' first
    | with_reducible assumption
    | with_reducible apply modPShed_same
    | with_reducible apply failUnit_same
    | with_reducible apply Same.ite
    | exact sub_of hp (by decide)
    | intro _
    | dsimp only
    | split

theorem holdStep_same {ps : List StatePart} {base s : State} (hk : Same ps base s) (n : Nat)
    (hp : ([.grm, .err, .sec, .mbx, .sheds, .psheds] : List StatePart) ⊆ ps := by exact sub_of (by assumption) (by decide)) : Same ps base (holdStep s n) := by
  unfold holdStep
  repeat' first
    | exact Or.inr (partIn hp (by decide))
    | with_reducible exact Or.inl rfl
    | with_reducible assumption
    | with_reducible apply fixHeld_same
    | with_reducible apply modPShed_same
    | with_reducible apply record_same
    | with_reducible apply Same.ite
    | exact sub_of hp (by decide)
    | intro _
    | dsimp only
    | split
    | with_reducible refine Same.upd ?_ ?_ ?_ ?_ ?_ ?_ ?_ ?_ ?_ ?_ ?_ ?_ ?_ ?_ ?_ ?_ ?_ ?_ ?_ ?_ ?_ ?_ ?_ ?_ ?_ ?_ ?_ ?_

theorem sampleShed_same {ps : List StatePart} {base s : State} (hk : Same ps base s) (r : ShedReading)
    (hp : ([.grm, .thm, .err, .sec, .mbx, .sheds, .psheds, .rm] : List StatePart) ⊆ ps := by exact sub_of (by assumption) (by decide)) : Same ps base (sampleShed s r) := by
  unfold sampleShed
  repeat' first
    | exact Or.inr (partIn hp (by decide))
    | with_reducible exact Or.inl rfl
    | with_reducible assumption
    | with_reducible apply modPShed_same
    | with_reducible apply sensorless_same
    | with_reducible apply holdStep_same
    | with_reducible apply Same.ite
    | exact sub_of hp (by decide)
    | intro _
    | dsimp only
    | split
    | with_reducible refine Same.upd ?_ ?_ ?_ ?_ ?_ ?_ ?_ ?_ ?_ ?_ ?_ ?_ ?_ ?_ ?_ ?_ ?_ ?_ ?_ ?_ ?_ ?_ ?_ ?_ ?_ ?_ ?_ ?_

theorem setPeak_same {ps : List StatePart} {base s : State} (hk : Same ps base s) (t : Int) (n : Nat)
    (hp : ([.grm, .thm, .fresh] : List StatePart) ⊆ ps := by exact sub_of (by assumption) (by decide)) : Same ps base (setPeak s t n) := by
  unfold setPeak
  unfold takeFresh
  repeat' first
    | exact Or.inr (partIn hp (by decide))
    | with_reducible exact Or.inl rfl
    | with_reducible assumption
    | exact sub_of hp (by decide)
    | intro _
    | dsimp only
    | split
    | with_reducible refine Same.upd ?_ ?_ ?_ ?_ ?_ ?_ ?_ ?_ ?_ ?_ ?_ ?_ ?_ ?_ ?_ ?_ ?_ ?_ ?_ ?_ ?_ ?_ ?_ ?_ ?_ ?_ ?_ ?_

theorem dropRemaps_same {ps : List StatePart} {base s : State} (hk : Same ps base s) (y : Nat)
    (hp : ([.rm] : List StatePart) ⊆ ps := by exact sub_of (by assumption) (by decide)) : Same ps base (dropRemaps s y) := by
  unfold dropRemaps
  repeat' first
    | exact Or.inr (partIn hp (by decide))
    | with_reducible exact Or.inl rfl
    | with_reducible assumption
    | with_reducible apply Same.ite
    | exact sub_of hp (by decide)
    | intro _
    | dsimp only
    | split
    | with_reducible refine Same.upd ?_ ?_ ?_ ?_ ?_ ?_ ?_ ?_ ?_ ?_ ?_ ?_ ?_ ?_ ?_ ?_ ?_ ?_ ?_ ?_ ?_ ?_ ?_ ?_ ?_ ?_ ?_ ?_

theorem coreLost_same {ps : List StatePart} {base s : State} (hk : Same ps base s) (y : Nat)
    (hp : ([.dev, .pwr, .sec, .yards, .sheds, .psheds, .stalls, .rm] : List StatePart) ⊆ ps := by exact sub_of (by assumption) (by decide)) : Same ps base (coreLost s y) := by
  unfold coreLost
  repeat' first
    | exact Or.inr (partIn hp (by decide))
    | with_reducible exact Or.inl rfl
    | with_reducible assumption
    | with_reducible apply fixHeld_same
    | with_reducible apply modYard_same
    | with_reducible apply releaseStart_same
    | with_reducible apply dropRemaps_same
    | with_reducible apply Same.ite
    | exact sub_of hp (by decide)
    | intro _
    | dsimp only
    | split
    | with_reducible refine Same.upd ?_ ?_ ?_ ?_ ?_ ?_ ?_ ?_ ?_ ?_ ?_ ?_ ?_ ?_ ?_ ?_ ?_ ?_ ?_ ?_ ?_ ?_ ?_ ?_ ?_ ?_ ?_ ?_

theorem supplyTrip_same {ps : List StatePart} {base s : State} (hk : Same ps base s) (y : Nat) (cause : Nat)
    (hp : ([.grm, .err, .sec, .mbx, .mars, .ports, .sheds, .stalls, .track, .fresh] : List StatePart) ⊆ ps := by exact sub_of (by assumption) (by decide)) : Same ps base (supplyTrip s y cause) := by
  unfold supplyTrip
  repeat' first
    | with_reducible assumption
    | with_reducible apply hwAbort_same
    | with_reducible apply journal_same
    | with_reducible apply record_same
    | exact sub_of hp (by decide)
    | intro _
    | dsimp only

theorem coreTrip_same {ps : List StatePart} {base s : State} (hk : Same ps base s) (y : Nat) (cause : Nat)
    (hp : ([.dev, .grm, .pwr, .err, .sec, .mbx, .mars, .ports, .yards, .sheds, .psheds, .stalls, .track, .rm, .fresh] : List StatePart) ⊆ ps := by exact sub_of (by assumption) (by decide)) : Same ps base (coreTrip s y cause) := by
  unfold coreTrip
  repeat' first
    | exact Or.inr (partIn hp (by decide))
    | with_reducible exact Or.inl rfl
    | with_reducible assumption
    | with_reducible apply modYard_same
    | with_reducible apply coreLost_same
    | with_reducible apply supplyTrip_same
    | exact sub_of hp (by decide)
    | intro _
    | dsimp only
    | with_reducible refine Same.upd ?_ ?_ ?_ ?_ ?_ ?_ ?_ ?_ ?_ ?_ ?_ ?_ ?_ ?_ ?_ ?_ ?_ ?_ ?_ ?_ ?_ ?_ ?_ ?_ ?_ ?_ ?_ ?_

theorem execCoreRailTrip_same {ps : List StatePart} {base s : State} (hk : Same ps base s) (yard : YardId)
    (hp : ([.dev, .grm, .pwr, .err, .sec, .mbx, .mars, .ports, .yards, .sheds, .psheds, .stalls, .track, .rm, .fresh] : List StatePart) ⊆ ps := by exact sub_of (by assumption) (by decide)) : OutSame ps base (execCoreRailTrip yard s) := by
  unfold execCoreRailTrip
  repeat' first
    | with_reducible assumption
    | with_reducible apply coreTrip_same
    | with_reducible apply Same.ite
    | with_reducible apply OutSame.next
    | exact sub_of hp (by decide)
    | intro _
    | dsimp only
    | split

theorem discardCaught_same {ps : List StatePart} {base s : State} (hk : Same ps base s) (m : TrackMsg)
    (hp : ([.yards, .stalls, .track] : List StatePart) ⊆ ps := by exact sub_of (by assumption) (by decide)) : Same ps base (discardCaught s m) := by
  unfold discardCaught
  repeat' first
    | exact Or.inr (partIn hp (by decide))
    | with_reducible exact Or.inl rfl
    | with_reducible assumption
    | with_reducible apply modQu_same
    | with_reducible apply countOut_same
    | with_reducible apply Same.ite
    | with_reducible refine Same.foldl ?_ (fun _ _ _ => ?_)
    | exact sub_of hp (by decide)
    | intro _
    | dsimp only
    | split
    | with_reducible refine Same.upd ?_ ?_ ?_ ?_ ?_ ?_ ?_ ?_ ?_ ?_ ?_ ?_ ?_ ?_ ?_ ?_ ?_ ?_ ?_ ?_ ?_ ?_ ?_ ?_ ?_ ?_ ?_ ?_

theorem trackLost_same {ps : List StatePart} {base s : State} (hk : Same ps base s) (y : Nat)
    (hp : ([.yards, .stalls, .track] : List StatePart) ⊆ ps := by exact sub_of (by assumption) (by decide)) : Same ps base (trackLost s y) := by
  unfold trackLost
  repeat' first
    | exact Or.inr (partIn hp (by decide))
    | with_reducible exact Or.inl rfl
    | with_reducible assumption
    | with_reducible apply modYard_same
    | with_reducible apply discardCaught_same
    | with_reducible refine Same.foldl ?_ (fun _ _ _ => ?_)
    | exact sub_of hp (by decide)
    | intro _
    | dsimp only
    | with_reducible refine Same.upd ?_ ?_ ?_ ?_ ?_ ?_ ?_ ?_ ?_ ?_ ?_ ?_ ?_ ?_ ?_ ?_ ?_ ?_ ?_ ?_ ?_ ?_ ?_ ?_ ?_ ?_ ?_ ?_

theorem trackTrip_same {ps : List StatePart} {base s : State} (hk : Same ps base s) (y : Nat)
    (hp : ([.dev, .grm, .pwr, .err, .sec, .mbx, .mars, .ports, .yards, .sheds, .psheds, .stalls, .track, .rm, .fresh] : List StatePart) ⊆ ps := by exact sub_of (by assumption) (by decide)) : Same ps base (trackTrip s y) := by
  unfold trackTrip
  repeat' first
    | exact Or.inr (partIn hp (by decide))
    | with_reducible exact Or.inl rfl
    | with_reducible assumption
    | with_reducible apply modYard_same
    | with_reducible apply coreLost_same
    | with_reducible apply supplyTrip_same
    | with_reducible apply trackLost_same
    | with_reducible apply Same.ite
    | exact sub_of hp (by decide)
    | intro _
    | dsimp only
    | split
    | with_reducible refine Same.upd ?_ ?_ ?_ ?_ ?_ ?_ ?_ ?_ ?_ ?_ ?_ ?_ ?_ ?_ ?_ ?_ ?_ ?_ ?_ ?_ ?_ ?_ ?_ ?_ ?_ ?_ ?_ ?_

theorem execTrackRailTrip_same {ps : List StatePart} {base s : State} (hk : Same ps base s) (yard : YardId)
    (hp : ([.dev, .grm, .pwr, .err, .sec, .mbx, .mars, .ports, .yards, .sheds, .psheds, .stalls, .track, .rm, .fresh] : List StatePart) ⊆ ps := by exact sub_of (by assumption) (by decide)) : OutSame ps base (execTrackRailTrip yard s) := by
  unfold execTrackRailTrip
  repeat' first
    | with_reducible assumption
    | with_reducible apply trackTrip_same
    | with_reducible apply Same.ite
    | with_reducible apply OutSame.next
    | exact sub_of hp (by decide)
    | intro _
    | dsimp only
    | split

theorem sampleSupply_same {ps : List StatePart} {base s : State} (hk : Same ps base s) (r : YardId × Int)
    (hp : ([.dev, .grm, .pwr, .err, .sec, .mbx, .mars, .ports, .yards, .sheds, .psheds, .stalls, .track, .rm, .fresh] : List StatePart) ⊆ ps := by exact sub_of (by assumption) (by decide)) : Same ps base (sampleSupply s r) := by
  unfold sampleSupply
  repeat' first
    | exact Or.inr (partIn hp (by decide))
    | with_reducible exact Or.inl rfl
    | with_reducible assumption
    | with_reducible apply modYard_same
    | with_reducible apply coreTrip_same
    | with_reducible apply Same.ite
    | exact sub_of hp (by decide)
    | intro _
    | dsimp only
    | split
    | with_reducible refine Same.upd ?_ ?_ ?_ ?_ ?_ ?_ ?_ ?_ ?_ ?_ ?_ ?_ ?_ ?_ ?_ ?_ ?_ ?_ ?_ ?_ ?_ ?_ ?_ ?_ ?_ ?_ ?_ ?_

theorem allToD4_same {ps : List StatePart} {base s : State} (hk : Same ps base s) 
    (hp : ([.sec, .psheds, .stalls, .fresh] : List StatePart) ⊆ ps := by exact sub_of (by assumption) (by decide)) : Same ps base (allToD4 s) := by
  unfold allToD4
  repeat' first
    | exact Or.inr (partIn hp (by decide))
    | with_reducible exact Or.inl rfl
    | with_reducible assumption
    | exact sub_of hp (by decide)
    | intro _
    | dsimp only
    | with_reducible refine Same.upd ?_ ?_ ?_ ?_ ?_ ?_ ?_ ?_ ?_ ?_ ?_ ?_ ?_ ?_ ?_ ?_ ?_ ?_ ?_ ?_ ?_ ?_ ?_ ?_ ?_ ?_ ?_ ?_

theorem thermTrip_same {ps : List StatePart} {base s : State} (hk : Same ps base s) (t : Int)
    (hp : ([.grm, .pwr, .thm, .err, .sec, .mbx, .mars, .ports, .sheds, .psheds, .stalls, .track, .fresh] : List StatePart) ⊆ ps := by exact sub_of (by assumption) (by decide)) : Same ps base (thermTrip s t) := by
  unfold thermTrip
  repeat' first
    | exact Or.inr (partIn hp (by decide))
    | with_reducible exact Or.inl rfl
    | with_reducible assumption
    | with_reducible apply hwAbort_same
    | with_reducible apply journal_same
    | with_reducible apply record_same
    | with_reducible apply dropBallast_same
    | with_reducible apply allToD4_same
    | exact sub_of hp (by decide)
    | intro _
    | dsimp only
    | with_reducible refine Same.upd ?_ ?_ ?_ ?_ ?_ ?_ ?_ ?_ ?_ ?_ ?_ ?_ ?_ ?_ ?_ ?_ ?_ ?_ ?_ ?_ ?_ ?_ ?_ ?_ ?_ ?_ ?_ ?_

theorem tripRails_same {ps : List StatePart} {base s : State} (hk : Same ps base s) 
    (hp : ([.dev, .thm, .ports, .yards, .stalls] : List StatePart) ⊆ ps := by exact sub_of (by assumption) (by decide)) : Same ps base (tripRails s) := by
  unfold tripRails
  repeat' first
    | exact Or.inr (partIn hp (by decide))
    | with_reducible exact Or.inl rfl
    | with_reducible assumption
    | with_reducible apply takeDrop_same
    | with_reducible refine Same.foldl ?_ (fun _ _ _ => ?_)
    | exact sub_of hp (by decide)
    | intro _
    | dsimp only
    | with_reducible refine Same.upd ?_ ?_ ?_ ?_ ?_ ?_ ?_ ?_ ?_ ?_ ?_ ?_ ?_ ?_ ?_ ?_ ?_ ?_ ?_ ?_ ?_ ?_ ?_ ?_ ?_ ?_ ?_ ?_

theorem execTripRailOff_same {ps : List StatePart} {base s : State} (hk : Same ps base s) 
    (hp : ([.dev, .thm, .ports, .yards, .stalls] : List StatePart) ⊆ ps := by exact sub_of (by assumption) (by decide)) : OutSame ps base (execTripRailOff s) := by
  unfold execTripRailOff
  repeat' first
    | with_reducible assumption
    | with_reducible apply tripRails_same
    | with_reducible apply Same.ite
    | with_reducible apply OutSame.next
    | exact sub_of hp (by decide)
    | intro _
    | dsimp only
    | split

theorem execSensorSample_same {ps : List StatePart} {base s : State} (hk : Same ps base s) (sheds : List ShedReading) (supplies : List (YardId × Int))
    (hp : ([.dev, .grm, .pwr, .thm, .err, .sec, .mbx, .mars, .ports, .yards, .sheds, .psheds, .stalls, .track, .rm, .fresh] : List StatePart) ⊆ ps := by exact sub_of (by assumption) (by decide)) : OutSame ps base (execSensorSample sheds supplies s) := by
  unfold execSensorSample
  repeat' first
    | exact Or.inr (partIn hp (by decide))
    | with_reducible exact Or.inl rfl
    | with_reducible assumption
    | with_reducible apply sampleShed_same
    | with_reducible apply setPeak_same
    | with_reducible apply sampleSupply_same
    | with_reducible apply thermTrip_same
    | with_reducible apply tripRails_same
    | with_reducible apply Same.ite
    | with_reducible apply OutSame.next
    | with_reducible apply OutSame.ite
    | trivial
    | with_reducible refine Same.foldl ?_ (fun _ _ _ => ?_)
    | exact sub_of hp (by decide)
    | intro _
    | dsimp only
    | split
    | with_reducible refine Same.upd ?_ ?_ ?_ ?_ ?_ ?_ ?_ ?_ ?_ ?_ ?_ ?_ ?_ ?_ ?_ ?_ ?_ ?_ ?_ ?_ ?_ ?_ ?_ ?_ ?_ ?_ ?_ ?_

theorem execThrottleStep_same {ps : List StatePart} {base s : State} (hk : Same ps base s) (yard : YardId) (shed : ShedNo) (up : Bool)
    (hp : ([.psheds] : List StatePart) ⊆ ps := by exact sub_of (by assumption) (by decide)) : OutSame ps base (execThrottleStep yard shed up s) := by
  unfold execThrottleStep
  repeat' first
    | with_reducible assumption
    | with_reducible apply modPShed_same
    | with_reducible apply Same.ite
    | with_reducible apply OutSame.next
    | exact sub_of hp (by decide)
    | intro _
    | dsimp only
    | split

/-! Remap. -/

theorem applyEdit_same {ps : List StatePart} {base s : State} (hk : Same ps base s) (x0 : RemapEdit)
    (hp : ([.yards, .sheds, .psheds] : List StatePart) ⊆ ps := by exact sub_of (by assumption) (by decide)) : Same ps base (applyEdit s x0) := by
  unfold applyEdit
  repeat' first
    | exact Or.inr (partIn hp (by decide))
    | with_reducible exact Or.inl rfl
    | with_reducible assumption
    | with_reducible apply modYard_same
    | with_reducible apply modPShed_same
    | exact sub_of hp (by decide)
    | intro _
    | dsimp only
    | split
    | with_reducible refine Same.upd ?_ ?_ ?_ ?_ ?_ ?_ ?_ ?_ ?_ ?_ ?_ ?_ ?_ ?_ ?_ ?_ ?_ ?_ ?_ ?_ ?_ ?_ ?_ ?_ ?_ ?_ ?_ ?_

theorem journalEdit_same {ps : List StatePart} {base s : State} (hk : Same ps base s) (x0 : RemapEdit)
    (hp : ([.grm] : List StatePart) ⊆ ps := by exact sub_of (by assumption) (by decide)) : Same ps base (journalEdit s x0) := by
  unfold journalEdit
  repeat' first
    | with_reducible assumption
    | with_reducible apply journal_same
    | exact sub_of hp (by decide)
    | intro _
    | dsimp only
    | split

theorem setValid_same {ps : List StatePart} {base s : State} (hk : Same ps base s) (r : RemapRun) (v : Bool)
    (hp : ([.yards, .sheds] : List StatePart) ⊆ ps := by exact sub_of (by assumption) (by decide)) : Same ps base (setValid s r v) := by
  unfold setValid
  repeat' first
    | exact Or.inr (partIn hp (by decide))
    | with_reducible exact Or.inl rfl
    | with_reducible assumption
    | with_reducible apply modYard_same
    | with_reducible apply Same.ite
    | exact sub_of hp (by decide)
    | intro _
    | dsimp only
    | split
    | with_reducible refine Same.upd ?_ ?_ ?_ ?_ ?_ ?_ ?_ ?_ ?_ ?_ ?_ ?_ ?_ ?_ ?_ ?_ ?_ ?_ ?_ ?_ ?_ ?_ ?_ ?_ ?_ ?_ ?_ ?_

theorem markReload_same {ps : List StatePart} {base s : State} (hk : Same ps base s) (stalls : List Nat)
    (hp : ([.sec] : List StatePart) ⊆ ps := by exact sub_of (by assumption) (by decide)) : Same ps base (markReload s stalls) := by
  unfold markReload
  repeat' first
    | exact Or.inr (partIn hp (by decide))
    | with_reducible exact Or.inl rfl
    | with_reducible assumption
    | with_reducible apply disarmPlace_same
    | with_reducible apply Same.ite
    | exact sub_of hp (by decide)
    | intro _
    | dsimp only
    | split
    | with_reducible refine Same.upd ?_ ?_ ?_ ?_ ?_ ?_ ?_ ?_ ?_ ?_ ?_ ?_ ?_ ?_ ?_ ?_ ?_ ?_ ?_ ?_ ?_ ?_ ?_ ?_ ?_ ?_ ?_ ?_

theorem execRemapRun_same {ps : List StatePart} {base s : State} (hk : Same ps base s) 
    (hp : ([.grm, .sec, .yards, .sheds, .rm] : List StatePart) ⊆ ps := by exact sub_of (by assumption) (by decide)) : OutSame ps base (execRemapRun s) := by
  unfold execRemapRun
  repeat' first
    | exact Or.inr (partIn hp (by decide))
    | with_reducible exact Or.inl rfl
    | with_reducible assumption
    | with_reducible apply journalEdit_same
    | with_reducible apply setValid_same
    | with_reducible apply markReload_same
    | with_reducible apply Same.ite
    | with_reducible apply OutSame.next
    | with_reducible refine Same.foldl ?_ (fun _ _ _ => ?_)
    | exact sub_of hp (by decide)
    | intro _
    | dsimp only
    | split
    | with_reducible refine Same.upd ?_ ?_ ?_ ?_ ?_ ?_ ?_ ?_ ?_ ?_ ?_ ?_ ?_ ?_ ?_ ?_ ?_ ?_ ?_ ?_ ?_ ?_ ?_ ?_ ?_ ?_ ?_ ?_

theorem restartWith_same {ps : List StatePart} {base s : State} (hk : Same ps base s) (r : RemapRun) (u : FailUnit)
    (hp : ([.grm, .yards, .sheds, .rm] : List StatePart) ⊆ ps := by exact sub_of (by assumption) (by decide)) : Same ps base (restartWith s r u) := by
  unfold restartWith
  repeat' first
    | exact Or.inr (partIn hp (by decide))
    | with_reducible exact Or.inl rfl
    | with_reducible assumption
    | with_reducible apply setValid_same
    | exact sub_of hp (by decide)
    | intro _
    | dsimp only
    | with_reducible refine Same.upd ?_ ?_ ?_ ?_ ?_ ?_ ?_ ?_ ?_ ?_ ?_ ?_ ?_ ?_ ?_ ?_ ?_ ?_ ?_ ?_ ?_ ?_ ?_ ?_ ?_ ?_ ?_ ?_

theorem execRemapFault_same {ps : List StatePart} {base s : State} (hk : Same ps base s) (u : FailUnit)
    (hp : ([.grm, .yards, .sheds, .rm] : List StatePart) ⊆ ps := by exact sub_of (by assumption) (by decide)) : OutSame ps base (execRemapFault u s) := by
  unfold execRemapFault
  repeat' first
    | exact Or.inr (partIn hp (by decide))
    | with_reducible exact Or.inl rfl
    | with_reducible assumption
    | with_reducible apply restartWith_same
    | with_reducible apply failUnit_same
    | with_reducible apply Same.ite
    | with_reducible apply OutSame.next
    | exact sub_of hp (by decide)
    | intro _
    | dsimp only
    | split
    | with_reducible refine Same.upd ?_ ?_ ?_ ?_ ?_ ?_ ?_ ?_ ?_ ?_ ?_ ?_ ?_ ?_ ?_ ?_ ?_ ?_ ?_ ?_ ?_ ?_ ?_ ?_ ?_ ?_ ?_ ?_

theorem fixPscol_same {ps : List StatePart} {base s : State} (hk : Same ps base s) (y : Nat)
    (hp : ([.sheds] : List StatePart) ⊆ ps := by exact sub_of (by assumption) (by decide)) : Same ps base (fixPscol s y) := by
  unfold fixPscol
  repeat' first
    | exact Or.inr (partIn hp (by decide))
    | with_reducible exact Or.inl rfl
    | with_reducible assumption
    | exact sub_of hp (by decide)
    | intro _
    | dsimp only
    | with_reducible refine Same.upd ?_ ?_ ?_ ?_ ?_ ?_ ?_ ?_ ?_ ?_ ?_ ?_ ?_ ?_ ?_ ?_ ?_ ?_ ?_ ?_ ?_ ?_ ?_ ?_ ?_ ?_ ?_ ?_

theorem wakeSpares_same {ps : List StatePart} {base s : State} (hk : Same ps base s) (x0 : RemapEdit)
    (hp : ([.psheds] : List StatePart) ⊆ ps := by exact sub_of (by assumption) (by decide)) : Same ps base (wakeSpares s x0) := by
  unfold wakeSpares
  repeat' first
    | exact Or.inr (partIn hp (by decide))
    | with_reducible exact Or.inl rfl
    | with_reducible assumption
    | with_reducible apply modPShed_same
    | exact sub_of hp (by decide)
    | intro _
    | dsimp only
    | split
    | with_reducible refine Same.upd ?_ ?_ ?_ ?_ ?_ ?_ ?_ ?_ ?_ ?_ ?_ ?_ ?_ ?_ ?_ ?_ ?_ ?_ ?_ ?_ ?_ ?_ ?_ ?_ ?_ ?_ ?_ ?_

theorem applyRun_same {ps : List StatePart} {base s : State} (hk : Same ps base s) (r : RemapRun)
    (hp : ([.sec, .yards, .sheds, .psheds, .stalls, .fresh] : List StatePart) ⊆ ps := by exact sub_of (by assumption) (by decide)) : Same ps base (applyRun s r) := by
  unfold applyRun
  unfold takeFresh
  repeat' first
    | exact Or.inr (partIn hp (by decide))
    | with_reducible exact Or.inl rfl
    | with_reducible assumption
    | with_reducible apply applyEdit_same
    | with_reducible apply setValid_same
    | with_reducible apply fixPscol_same
    | with_reducible apply wakeSpares_same
    | with_reducible apply Same.ite
    | with_reducible refine Same.foldl ?_ (fun _ _ _ => ?_)
    | exact sub_of hp (by decide)
    | intro _
    | dsimp only
    | split
    | with_reducible refine Same.upd ?_ ?_ ?_ ?_ ?_ ?_ ?_ ?_ ?_ ?_ ?_ ?_ ?_ ?_ ?_ ?_ ?_ ?_ ?_ ?_ ?_ ?_ ?_ ?_ ?_ ?_ ?_ ?_

theorem degrade_same {ps : List StatePart} {base s : State} (hk : Same ps base s) 
    (hp : ([.dev] : List StatePart) ⊆ ps := by exact sub_of (by assumption) (by decide)) : Same ps base (degrade s) := by
  unfold degrade
  repeat' first
    | exact Or.inr (partIn hp (by decide))
    | with_reducible exact Or.inl rfl
    | with_reducible assumption
    | with_reducible apply Same.ite
    | exact sub_of hp (by decide)
    | intro _
    | dsimp only
    | split
    | with_reducible refine Same.upd ?_ ?_ ?_ ?_ ?_ ?_ ?_ ?_ ?_ ?_ ?_ ?_ ?_ ?_ ?_ ?_ ?_ ?_ ?_ ?_ ?_ ?_ ?_ ?_ ?_ ?_ ?_ ?_

theorem execRemapComplete_same {ps : List StatePart} {base s : State} (hk : Same ps base s) 
    (hp : ([.dev, .pwr, .sec, .yards, .sheds, .psheds, .stalls, .rm, .fresh] : List StatePart) ⊆ ps := by exact sub_of (by assumption) (by decide)) : OutSame ps base (execRemapComplete s) := by
  unfold execRemapComplete
  repeat' first
    | exact Or.inr (partIn hp (by decide))
    | with_reducible exact Or.inl rfl
    | with_reducible assumption
    | with_reducible apply fixHeld_same
    | with_reducible apply applyRun_same
    | with_reducible apply degrade_same
    | with_reducible apply releaseStart_same
    | with_reducible apply Same.ite
    | with_reducible apply OutSame.next
    | exact sub_of hp (by decide)
    | intro _
    | dsimp only
    | split
    | with_reducible refine Same.upd ?_ ?_ ?_ ?_ ?_ ?_ ?_ ?_ ?_ ?_ ?_ ?_ ?_ ?_ ?_ ?_ ?_ ?_ ?_ ?_ ?_ ?_ ?_ ?_ ?_ ?_ ?_ ?_

theorem execSpareRetirement_same {ps : List StatePart} {base s : State} (hk : Same ps base s) (u : FailUnit)
    (hp : ([.grm, .yards, .sheds, .psheds, .rm] : List StatePart) ⊆ ps := by exact sub_of (by assumption) (by decide)) : OutSame ps base (execSpareRetirement u s) := by
  unfold execSpareRetirement
  repeat' first
    | exact Or.inr (partIn hp (by decide))
    | with_reducible exact Or.inl rfl
    | with_reducible assumption
    | with_reducible apply applyEdit_same
    | with_reducible apply journalEdit_same
    | with_reducible apply Same.ite
    | with_reducible apply OutSame.next
    | with_reducible refine Same.foldl ?_ (fun _ _ _ => ?_)
    | exact sub_of hp (by decide)
    | intro _
    | dsimp only
    | split
    | with_reducible refine Same.upd ?_ ?_ ?_ ?_ ?_ ?_ ?_ ?_ ?_ ?_ ?_ ?_ ?_ ?_ ?_ ?_ ?_ ?_ ?_ ?_ ?_ ?_ ?_ ?_ ?_ ?_ ?_ ?_

theorem measureAging_same {ps : List StatePart} {base s : State} (hk : Same ps base s) (n : Nat) (ro : Nat) (vmin : Nat)
    (hp : ([.grm, .mbx, .ports, .psheds, .rm, .i3c, .fresh] : List StatePart) ⊆ ps := by exact sub_of (by assumption) (by decide)) : Same ps base (measureAging s n ro vmin) := by
  unfold measureAging
  unfold takeFresh
  repeat' first
    | exact Or.inr (partIn hp (by decide))
    | with_reducible exact Or.inl rfl
    | with_reducible assumption
    | with_reducible apply groomPost_same
    | with_reducible apply modPShed_same
    | with_reducible apply journal_same
    | with_reducible apply failUnit_same
    | with_reducible apply Same.ite
    | exact sub_of hp (by decide)
    | intro _
    | dsimp only
    | split
    | with_reducible refine Same.upd ?_ ?_ ?_ ?_ ?_ ?_ ?_ ?_ ?_ ?_ ?_ ?_ ?_ ?_ ?_ ?_ ?_ ?_ ?_ ?_ ?_ ?_ ?_ ?_ ?_ ?_ ?_ ?_

theorem writeLctrl_same {ps : List StatePart} {base s : State} (hk : Same ps base s) (data : Nat)
    (hp : ([.err, .sec, .psheds, .stalls, .lunge, .fresh] : List StatePart) ⊆ ps := by exact sub_of (by assumption) (by decide)) : Same ps base (writeLctrl data s) := by
  unfold writeLctrl
  repeat' first
    | exact Or.inr (partIn hp (by decide))
    | with_reducible exact Or.inl rfl
    | with_reducible assumption
    | with_reducible apply modPShed_same
    | with_reducible apply enterDepth_same
    | with_reducible apply Same.ite
    | exact sub_of hp (by decide)
    | intro _
    | dsimp only
    | split
    | with_reducible refine Same.upd ?_ ?_ ?_ ?_ ?_ ?_ ?_ ?_ ?_ ?_ ?_ ?_ ?_ ?_ ?_ ?_ ?_ ?_ ?_ ?_ ?_ ?_ ?_ ?_ ?_ ?_ ?_ ?_

theorem execLungeStart_same {ps : List StatePart} {base s : State} (hk : Same ps base s) (o : Origin) (data : Word64)
    (hp : ([.err, .sec, .psheds, .stalls, .lunge, .fresh, .resp] : List StatePart) ⊆ ps := by exact sub_of (by assumption) (by decide)) : OutSame ps base (execLungeStart o data s) := by
  unfold execLungeStart
  repeat' first
    | with_reducible assumption
    | with_reducible apply asHostler_same
    | with_reducible apply writeLctrl_same
    | with_reducible apply OutSame.next
    | exact sub_of hp (by decide)
    | intro _
    | dsimp only

theorem journalProb_same {ps : List StatePart} {base s : State} (hk : Same ps base s) (u : FailUnit) (event : Nat)
    (hp : ([.grm] : List StatePart) ⊆ ps := by exact sub_of (by assumption) (by decide)) : Same ps base (journalProb s u event) := by
  unfold journalProb
  repeat' first
    | with_reducible assumption
    | with_reducible apply journal_same
    | exact sub_of hp (by decide)
    | intro _
    | dsimp only

theorem probationPass_same {ps : List StatePart} {base s : State} (hk : Same ps base s) (b : Probation)
    (hp : ([.grm] : List StatePart) ⊆ ps := by exact sub_of (by assumption) (by decide)) : Same ps base (probationPass s b) := by
  unfold probationPass
  repeat' first
    | with_reducible assumption
    | with_reducible apply journal_same
    | with_reducible apply journalProb_same
    | with_reducible apply Same.ite
    | exact sub_of hp (by decide)
    | intro _
    | dsimp only
    | split

theorem probationFail_same {ps : List StatePart} {base s : State} (hk : Same ps base s) (u : FailUnit) (source : Nat)
    (hp : ([.grm, .rm] : List StatePart) ⊆ ps := by exact sub_of (by assumption) (by decide)) : Same ps base (probationFail s u source) := by
  unfold probationFail
  repeat' first
    | with_reducible assumption
    | with_reducible apply journalProb_same
    | with_reducible apply failUnit_same
    | exact sub_of hp (by decide)
    | intro _
    | dsimp only

theorem execLungeComplete_same {ps : List StatePart} {base s : State} (hk : Same ps base s) (r : LungeResult)
    (hp : ([.grm, .err, .mbx, .ports, .psheds, .rm, .lunge, .i3c, .fresh] : List StatePart) ⊆ ps := by exact sub_of (by assumption) (by decide)) : OutSame ps base (execLungeComplete r s) := by
  unfold execLungeComplete
  repeat' first
    | exact Or.inr (partIn hp (by decide))
    | with_reducible exact Or.inl rfl
    | with_reducible assumption
    | with_reducible apply modPShed_same
    | with_reducible apply journal_same
    | with_reducible apply measureAging_same
    | with_reducible apply probationPass_same
    | with_reducible apply probationFail_same
    | with_reducible apply failUnit_same
    | with_reducible apply Same.ite
    | with_reducible apply OutSame.next
    | with_reducible refine Same.foldl ?_ (fun _ _ _ => ?_)
    | exact sub_of hp (by decide)
    | intro _
    | dsimp only
    | split
    | with_reducible refine Same.upd ?_ ?_ ?_ ?_ ?_ ?_ ?_ ?_ ?_ ?_ ?_ ?_ ?_ ?_ ?_ ?_ ?_ ?_ ?_ ?_ ?_ ?_ ?_ ?_ ?_ ?_ ?_ ?_

/-! Studbook. -/

theorem studbookRepair_same {ps : List StatePart} {base s : State} (hk : Same ps base s) 
    (hp : ([.grm, .err, .mbx, .sheds] : List StatePart) ⊆ ps := by exact sub_of (by assumption) (by decide)) : Same ps base (studbookRepair s) := by
  unfold studbookRepair
  repeat' first
    | exact Or.inr (partIn hp (by decide))
    | with_reducible exact Or.inl rfl
    | with_reducible assumption
    | with_reducible apply journal_same
    | with_reducible apply record_same
    | exact sub_of hp (by decide)
    | intro _
    | dsimp only
    | with_reducible refine Same.upd ?_ ?_ ?_ ?_ ?_ ?_ ?_ ?_ ?_ ?_ ?_ ?_ ?_ ?_ ?_ ?_ ?_ ?_ ?_ ?_ ?_ ?_ ?_ ?_ ?_ ?_ ?_ ?_

theorem raiseArb_same {ps : List StatePart} {base s : State} (hk : Same ps base s) (kind : Nat) (level : Nat)
    (hp : ([.grm] : List StatePart) ⊆ ps := by exact sub_of (by assumption) (by decide)) : Same ps base (raiseArb s kind level) := by
  unfold raiseArb
  repeat' first
    | with_reducible assumption
    | with_reducible apply journal_same
    | with_reducible apply Same.ite
    | exact sub_of hp (by decide)
    | intro _
    | dsimp only
    | split

theorem blowArb_same {ps : List StatePart} {base s : State} (hk : Same ps base s) 
    (hp : ([.fuses] : List StatePart) ⊆ ps := by exact sub_of (by assumption) (by decide)) : Same ps base (blowArb s) := by
  unfold blowArb
  with_reducible refine Same.upd hk ?_ ?_ ?_ ?_ ?_ ?_ ?_ ?_ ?_ ?_ ?_ ?_ ?_ ?_ ?_ ?_ ?_ ?_ ?_ ?_ ?_ ?_ ?_ ?_ ?_ ?_ ?_
  all_goals first | exact Or.inr (partIn hp (by decide)) | with_reducible exact Or.inl rfl

theorem svcWrite_same {ps : List StatePart} {base s : State} (hk : Same ps base s) (box : Nat) (a : Nat) (bs : List Byte)
    (hp : ([.hmem, .gwin] : List StatePart) ⊆ ps := by exact sub_of (by assumption) (by decide)) : Same ps base (svcWrite s box a bs) := by
  unfold svcWrite
  repeat' first
    | exact Or.inr (partIn hp (by decide))
    | with_reducible exact Or.inl rfl
    | with_reducible assumption
    | with_reducible apply Same.ite
    | exact sub_of hp (by decide)
    | intro _
    | dsimp only
    | split
    | with_reducible refine Same.upd ?_ ?_ ?_ ?_ ?_ ?_ ?_ ?_ ?_ ?_ ?_ ?_ ?_ ?_ ?_ ?_ ?_ ?_ ?_ ?_ ?_ ?_ ?_ ?_ ?_ ?_ ?_ ?_

theorem svcAnswer_same {ps : List StatePart} {base s : State} (hk : Same ps base s) (box : Nat) (ptr : Nat) (typ : Nat) (ok : Bool)
    (hp : ([.mbx, .ports, .i3c, .fresh] : List StatePart) ⊆ ps := by exact sub_of (by assumption) (by decide)) : Same ps base (svcAnswer s box ptr typ ok) := by
  unfold svcAnswer
  unfold takeFresh
  repeat' first
    | exact Or.inr (partIn hp (by decide))
    | with_reducible exact Or.inl rfl
    | with_reducible assumption
    | with_reducible apply groomPost_same
    | with_reducible apply Same.ite
    | exact sub_of hp (by decide)
    | intro _
    | dsimp only
    | split
    | with_reducible refine Same.upd ?_ ?_ ?_ ?_ ?_ ?_ ?_ ?_ ?_ ?_ ?_ ?_ ?_ ?_ ?_ ?_ ?_ ?_ ?_ ?_ ?_ ?_ ?_ ?_ ?_ ?_ ?_ ?_

theorem serve_same {ps : List StatePart} {base s : State} (hk : Same ps base s) (box typ : Nat) {f : Nat → State → State}
    (hf : ∀ p t, Same ps base t → Same ps base (f p t)) (hp : ([.mbx] : List StatePart) ⊆ ps := by exact sub_of (by assumption) (by decide)) : Same ps base (serve s box typ f) := by
  unfold serve
  split
  · exact hk
  · exact Same.ite hk (hf _ _ (popBox_same hk _))

theorem owe_same {ps : List StatePart} {base s : State} (hk : Same ps base s) (box : Nat) (ptr : Nat) (typ : Nat) (kind : Nat) (body : List Nat)
    (hp : ([.grm] : List StatePart) ⊆ ps := by exact sub_of (by assumption) (by decide)) : Same ps base (owe s box ptr typ kind body) := by
  unfold owe
  repeat' first
    | exact Or.inr (partIn hp (by decide))
    | with_reducible exact Or.inl rfl
    | with_reducible assumption
    | with_reducible apply journal_same
    | exact sub_of hp (by decide)
    | intro _
    | dsimp only
    | with_reducible refine Same.upd ?_ ?_ ?_ ?_ ?_ ?_ ?_ ?_ ?_ ?_ ?_ ?_ ?_ ?_ ?_ ?_ ?_ ?_ ?_ ?_ ?_ ?_ ?_ ?_ ?_ ?_ ?_ ?_

theorem commitRecord_same {ps : List StatePart} {base s : State} (hk : Same ps base s) (r : SbRec) (rest : List SbRec)
    (hp : ([.grm] : List StatePart) ⊆ ps := by exact sub_of (by assumption) (by decide)) : Same ps base (commitRecord s r rest) := by
  unfold commitRecord
  repeat' first
    | exact Or.inr (partIn hp (by decide))
    | with_reducible exact Or.inl rfl
    | with_reducible assumption
    | with_reducible apply Same.ite
    | exact sub_of hp (by decide)
    | intro _
    | dsimp only
    | split
    | with_reducible refine Same.upd ?_ ?_ ?_ ?_ ?_ ?_ ?_ ?_ ?_ ?_ ?_ ?_ ?_ ?_ ?_ ?_ ?_ ?_ ?_ ?_ ?_ ?_ ?_ ?_ ?_ ?_ ?_ ?_

theorem afterCommit_same {ps : List StatePart} {base s : State} (hk : Same ps base s) (r : SbRec)
    (hp : ([.grm, .mbx, .ports, .i3c, .fresh] : List StatePart) ⊆ ps := by exact sub_of (by assumption) (by decide)) : Same ps base (afterCommit s r) := by
  unfold afterCommit
  repeat' first
    | exact Or.inr (partIn hp (by decide))
    | with_reducible exact Or.inl rfl
    | with_reducible assumption
    | with_reducible apply raiseArb_same
    | with_reducible apply svcAnswer_same
    | with_reducible apply Same.ite
    | exact sub_of hp (by decide)
    | intro _
    | dsimp only
    | split
    | with_reducible refine Same.upd ?_ ?_ ?_ ?_ ?_ ?_ ?_ ?_ ?_ ?_ ?_ ?_ ?_ ?_ ?_ ?_ ?_ ?_ ?_ ?_ ?_ ?_ ?_ ?_ ?_ ?_ ?_ ?_

theorem commitNext_same {ps : List StatePart} {base s : State} (hk : Same ps base s) 
    (hp : ([.grm, .mbx, .ports, .i3c, .fresh] : List StatePart) ⊆ ps := by exact sub_of (by assumption) (by decide)) : Same ps base (commitNext s) := by
  unfold commitNext
  repeat' first
    | exact Or.inr (partIn hp (by decide))
    | with_reducible exact Or.inl rfl
    | with_reducible assumption
    | with_reducible apply commitRecord_same
    | with_reducible apply afterCommit_same
    | exact sub_of hp (by decide)
    | intro _
    | dsimp only
    | split
    | with_reducible refine Same.upd ?_ ?_ ?_ ?_ ?_ ?_ ?_ ?_ ?_ ?_ ?_ ?_ ?_ ?_ ?_ ?_ ?_ ?_ ?_ ?_ ?_ ?_ ?_ ?_ ?_ ?_ ?_ ?_

theorem commitAll_same {ps : List StatePart} {base s : State} (hk : Same ps base s) 
    (hp : ([.grm, .mbx, .ports, .i3c, .fresh] : List StatePart) ⊆ ps := by exact sub_of (by assumption) (by decide)) : Same ps base (commitAll s) := by
  unfold commitAll
  repeat' first
    | with_reducible assumption
    | with_reducible apply commitNext_same
    | with_reducible refine Same.foldl ?_ (fun _ _ _ => ?_)
    | exact sub_of hp (by decide)
    | intro _
    | dsimp only

theorem execStudbookCommit_same {ps : List StatePart} {base s : State} (hk : Same ps base s) (r : CommitResult)
    (hp : ([.grm, .err, .mbx, .ports, .sheds, .i3c, .fresh] : List StatePart) ⊆ ps := by exact sub_of (by assumption) (by decide)) : OutSame ps base (execStudbookCommit r s) := by
  unfold execStudbookCommit
  repeat' first
    | exact Or.inr (partIn hp (by decide))
    | with_reducible exact Or.inl rfl
    | with_reducible assumption
    | with_reducible apply studbookRepair_same
    | with_reducible apply commitNext_same
    | with_reducible apply Same.ite
    | with_reducible apply OutSame.next
    | exact sub_of hp (by decide)
    | intro _
    | dsimp only
    | split
    | with_reducible refine Same.upd ?_ ?_ ?_ ?_ ?_ ?_ ?_ ?_ ?_ ?_ ?_ ?_ ?_ ?_ ?_ ?_ ?_ ?_ ?_ ?_ ?_ ?_ ?_ ?_ ?_ ?_ ?_ ?_

theorem execLifeUpdate_same {ps : List StatePart} {base s : State} (hk : Same ps base s) (hours : Nat) (hourly : Bool)
    (hp : ([.grm] : List StatePart) ⊆ ps := by exact sub_of (by assumption) (by decide)) : OutSame ps base (execLifeUpdate hours hourly s) := by
  unfold execLifeUpdate
  repeat' first
    | exact Or.inr (partIn hp (by decide))
    | with_reducible exact Or.inl rfl
    | with_reducible assumption
    | with_reducible apply journal_same
    | with_reducible apply Same.ite
    | with_reducible apply OutSame.next
    | exact sub_of hp (by decide)
    | intro _
    | dsimp only
    | split
    | with_reducible refine Same.upd ?_ ?_ ?_ ?_ ?_ ?_ ?_ ?_ ?_ ?_ ?_ ?_ ?_ ?_ ?_ ?_ ?_ ?_ ?_ ?_ ?_ ?_ ?_ ?_ ?_ ?_ ?_ ?_

theorem execAttest_same {ps : List StatePart} {base s : State} (hk : Same ps base s) (internal : Bool)
    (hp : ([.mbx, .ports, .i3c, .hmem, .gwin, .fresh] : List StatePart) ⊆ ps := by exact sub_of (by assumption) (by decide)) : OutSame ps base (execAttest internal s) := by
  unfold execAttest
  repeat' first
    | with_reducible assumption
    | with_reducible apply svcWrite_same
    | with_reducible apply svcAnswer_same
    | with_reducible apply serve_same
    | with_reducible apply Same.ite
    | with_reducible apply OutSame.next
    | exact sub_of hp (by decide)
    | intro _
    | dsimp only
    | split

theorem execKeyreg_same {ps : List StatePart} {base s : State} (hk : Same ps base s) (sigOk : Bool)
    (hp : ([.grm, .mbx, .ports, .i3c, .fresh] : List StatePart) ⊆ ps := by exact sub_of (by assumption) (by decide)) : OutSame ps base (execKeyreg sigOk s) := by
  unfold execKeyreg
  repeat' first
    | with_reducible assumption
    | with_reducible apply svcAnswer_same
    | with_reducible apply serve_same
    | with_reducible apply owe_same
    | with_reducible apply Same.ite
    | with_reducible apply OutSame.next
    | exact sub_of hp (by decide)
    | intro _
    | dsimp only
    | split

theorem execSbread_same {ps : List StatePart} {base s : State} (hk : Same ps base s) (internal : Bool)
    (hp : ([.mbx, .ports, .i3c, .hmem, .gwin, .fresh] : List StatePart) ⊆ ps := by exact sub_of (by assumption) (by decide)) : OutSame ps base (execSbread internal s) := by
  unfold execSbread
  repeat' first
    | with_reducible assumption
    | with_reducible apply svcWrite_same
    | with_reducible apply svcAnswer_same
    | with_reducible apply serve_same
    | with_reducible apply Same.ite
    | with_reducible apply OutSame.next
    | exact sub_of hp (by decide)
    | intro _
    | dsimp only
    | split

theorem suspectOne_same {ps : List StatePart} {base s : State} (hk : Same ps base s) (u : FailUnit)
    (hp : ([.grm, .rm] : List StatePart) ⊆ ps := by exact sub_of (by assumption) (by decide)) : Same ps base (suspectOne s u) := by
  unfold suspectOne
  repeat' first
    | with_reducible assumption
    | with_reducible apply journalProb_same
    | with_reducible apply probationFail_same
    | with_reducible apply Same.ite
    | exact sub_of hp (by decide)
    | intro _
    | dsimp only
    | split

theorem execSuspect_same {ps : List StatePart} {base s : State} (hk : Same ps base s) 
    (hp : ([.grm, .mbx, .ports, .rm, .i3c, .fresh] : List StatePart) ⊆ ps := by exact sub_of (by assumption) (by decide)) : OutSame ps base (execSuspect s) := by
  unfold execSuspect
  refine OutSame.next (serve_same hk _ _ fun p t ht => ?_)
  dsimp only
  refine Same.ite (svcAnswer_same ht _ _ _ _) (Same.ite (svcAnswer_same ht _ _ _ _) ?_)
  have h1 : Same ps base ((((List.range (Memory.readLe t.hmem p 4)).map
      (fun i => suspectUnit (Memory.readLe t.hmem (p + 4 + 4 * i) 4))).filterMap id).foldl suspectOne t) :=
    Same.foldl ht (fun _ _ h => suspectOne_same h _)
  refine Same.ite (svcAnswer_same h1 _ _ _ _) ?_
  split
  · with_reducible refine Same.upd h1 ?_ ?_ ?_ ?_ ?_ ?_ ?_ ?_ ?_ ?_ ?_ ?_ ?_ ?_ ?_ ?_ ?_ ?_ ?_ ?_ ?_ ?_ ?_ ?_ ?_ ?_ ?_
    all_goals first | exact Or.inr (partIn hp (by decide)) | with_reducible exact Or.inl rfl
  · exact h1

theorem execLungeset_same {ps : List StatePart} {base s : State} (hk : Same ps base s) (img : ImageCheck)
    (hp : ([.grm, .mbx, .ports, .i3c, .fresh] : List StatePart) ⊆ ps := by exact sub_of (by assumption) (by decide)) : OutSame ps base (execLungeset img s) := by
  unfold execLungeset
  repeat' first
    | with_reducible assumption
    | with_reducible apply svcAnswer_same
    | with_reducible apply serve_same
    | with_reducible apply owe_same
    | with_reducible apply Same.ite
    | with_reducible apply OutSame.next
    | exact sub_of hp (by decide)
    | intro _
    | dsimp only
    | split

theorem execOperatorImageLoad_same {ps : List StatePart} {base s : State} (hk : Same ps base s) (img : ImageCheck)
    (hp : ([.grm] : List StatePart) ⊆ ps := by exact sub_of (by assumption) (by decide)) : OutSame ps base (execOperatorImageLoad img s) := by
  unfold execOperatorImageLoad
  repeat' first
    | exact Or.inr (partIn hp (by decide))
    | with_reducible exact Or.inl rfl
    | with_reducible assumption
    | with_reducible apply raiseArb_same
    | with_reducible apply Same.ite
    | with_reducible apply OutSame.next
    | exact sub_of hp (by decide)
    | intro _
    | dsimp only
    | split
    | with_reducible refine Same.upd ?_ ?_ ?_ ?_ ?_ ?_ ?_ ?_ ?_ ?_ ?_ ?_ ?_ ?_ ?_ ?_ ?_ ?_ ?_ ?_ ?_ ?_ ?_ ?_ ?_ ?_ ?_ ?_

/-! Bringup. -/

theorem State.cold_same {ps : List StatePart} {base s : State} (hk : Same ps base s) 
    (hp : ([.dev, .fuses, .grm, .pwr, .thm, .err, .sec, .mbx, .mars, .ports, .yards, .sheds, .psheds, .stalls, .routeA, .routeB, .track, .nextId, .rm, .lunge, .i3c, .tap, .pins, .hmem, .gwin, .fresh, .resp, .pending] : List StatePart) ⊆ ps := by exact sub_of (by assumption) (by decide)) : Same ps base (State.cold s) := by
  unfold State.cold
  with_reducible refine Same.upd hk ?_ ?_ ?_ ?_ ?_ ?_ ?_ ?_ ?_ ?_ ?_ ?_ ?_ ?_ ?_ ?_ ?_ ?_ ?_ ?_ ?_ ?_ ?_ ?_ ?_ ?_ ?_
  all_goals first | exact Or.inr (partIn hp (by decide)) | with_reducible exact Or.inl rfl

theorem finishWarm_same {ps : List StatePart} {base s : State} (hk : Same ps base s) 
    (hp : ([.dev, .pwr, .err, .sec, .mbx, .mars, .ports, .yards, .sheds, .psheds, .stalls] : List StatePart) ⊆ ps := by exact sub_of (by assumption) (by decide)) : Same ps base (finishWarm s) := by
  unfold finishWarm
  repeat' first
    | exact Or.inr (partIn hp (by decide))
    | with_reducible exact Or.inl rfl
    | with_reducible assumption
    | with_reducible apply Same.ite
    | exact sub_of hp (by decide)
    | intro _
    | dsimp only
    | split
    | with_reducible refine Same.upd ?_ ?_ ?_ ?_ ?_ ?_ ?_ ?_ ?_ ?_ ?_ ?_ ?_ ?_ ?_ ?_ ?_ ?_ ?_ ?_ ?_ ?_ ?_ ?_ ?_ ?_ ?_ ?_

theorem warmReset_same {ps : List StatePart} {base s : State} (hk : Same ps base s) 
    (hp : ([.dev, .grm, .pwr, .err, .sec, .mbx, .mars, .ports, .yards, .sheds, .psheds, .stalls, .track, .fresh] : List StatePart) ⊆ ps := by exact sub_of (by assumption) (by decide)) : Same ps base (warmReset s) := by
  unfold warmReset
  repeat' first
    | exact Or.inr (partIn hp (by decide))
    | with_reducible exact Or.inl rfl
    | with_reducible assumption
    | with_reducible apply abortNow_same
    | with_reducible apply finishWarm_same
    | with_reducible apply Same.ite
    | exact sub_of hp (by decide)
    | intro _
    | dsimp only
    | split
    | with_reducible refine Same.upd ?_ ?_ ?_ ?_ ?_ ?_ ?_ ?_ ?_ ?_ ?_ ?_ ?_ ?_ ?_ ?_ ?_ ?_ ?_ ?_ ?_ ?_ ?_ ?_ ?_ ?_ ?_ ?_

theorem execAbortedReached_same {ps : List StatePart} {base s : State} (hk : Same ps base s) 
    (hp : ([.dev, .pwr, .err, .sec, .mbx, .mars, .ports, .yards, .sheds, .psheds, .stalls] : List StatePart) ⊆ ps := by exact sub_of (by assumption) (by decide)) : OutSame ps base (execAbortedReached s) := by
  unfold execAbortedReached
  repeat' first
    | with_reducible assumption
    | with_reducible apply finishWarm_same
    | with_reducible apply abortedReached_same
    | with_reducible apply Same.ite
    | with_reducible apply OutSame.next
    | exact sub_of hp (by decide)
    | intro _
    | dsimp only
    | split

theorem writeReset_same {ps : List StatePart} {base s : State} (hk : Same ps base s) (data : Nat)
    (hp : ([.dev, .fuses, .grm, .pwr, .thm, .err, .sec, .mbx, .mars, .ports, .yards, .sheds, .psheds, .stalls, .routeA, .routeB, .track, .nextId, .rm, .lunge, .i3c, .tap, .pins, .hmem, .gwin, .fresh, .resp, .pending] : List StatePart) ⊆ ps := by exact sub_of (by assumption) (by decide)) : Same ps base (writeReset data s) := by
  unfold writeReset
  repeat' first
    | exact Or.inr (partIn hp (by decide))
    | with_reducible exact Or.inl rfl
    | with_reducible assumption
    | with_reducible apply State.cold_same
    | with_reducible apply warmReset_same
    | with_reducible apply Same.ite
    | exact sub_of hp (by decide)
    | intro _
    | dsimp only
    | split
    | with_reducible refine Same.upd ?_ ?_ ?_ ?_ ?_ ?_ ?_ ?_ ?_ ?_ ?_ ?_ ?_ ?_ ?_ ?_ ?_ ?_ ?_ ?_ ?_ ?_ ?_ ?_ ?_ ?_ ?_ ?_

theorem execCold_same {ps : List StatePart} {base s : State} (hk : Same ps base s) (o : Origin)
    (hp : ([.dev, .fuses, .grm, .pwr, .thm, .err, .sec, .mbx, .mars, .ports, .yards, .sheds, .psheds, .stalls, .routeA, .routeB, .track, .nextId, .rm, .lunge, .i3c, .tap, .pins, .hmem, .gwin, .fresh, .resp, .pending] : List StatePart) ⊆ ps := by exact sub_of (by assumption) (by decide)) : OutSame ps base (execCold o s) := by
  unfold execCold
  repeat' first
    | with_reducible assumption
    | with_reducible apply writeReset_same
    | with_reducible apply asAuth_same
    | with_reducible apply OutSame.next
    | exact sub_of hp (by decide)
    | intro _
    | dsimp only

theorem execWarm_same {ps : List StatePart} {base s : State} (hk : Same ps base s) (o : Origin)
    (hp : ([.dev, .fuses, .grm, .pwr, .thm, .err, .sec, .mbx, .mars, .ports, .yards, .sheds, .psheds, .stalls, .routeA, .routeB, .track, .nextId, .rm, .lunge, .i3c, .tap, .pins, .hmem, .gwin, .fresh, .resp, .pending] : List StatePart) ⊆ ps := by exact sub_of (by assumption) (by decide)) : OutSame ps base (execWarm o s) := by
  unfold execWarm
  repeat' first
    | with_reducible assumption
    | with_reducible apply writeReset_same
    | with_reducible apply asAuth_same
    | with_reducible apply OutSame.next
    | exact sub_of hp (by decide)
    | intro _
    | dsimp only

theorem execResetPin_same {ps : List StatePart} {base s : State} (hk : Same ps base s) (low : LowTime)
    (hp : ([.dev, .fuses, .grm, .pwr, .thm, .err, .sec, .mbx, .mars, .ports, .yards, .sheds, .psheds, .stalls, .routeA, .routeB, .track, .nextId, .rm, .lunge, .i3c, .tap, .pins, .hmem, .gwin, .fresh, .resp, .pending] : List StatePart) ⊆ ps := by exact sub_of (by assumption) (by decide)) : OutSame ps base (execResetPin low s) := by
  unfold execResetPin
  unfold takeFresh
  repeat' first
    | exact Or.inr (partIn hp (by decide))
    | with_reducible exact Or.inl rfl
    | with_reducible assumption
    | with_reducible apply State.cold_same
    | with_reducible apply Same.ite
    | with_reducible apply OutSame.next
    | exact sub_of hp (by decide)
    | intro _
    | dsimp only
    | split
    | with_reducible refine Same.upd ?_ ?_ ?_ ?_ ?_ ?_ ?_ ?_ ?_ ?_ ?_ ?_ ?_ ?_ ?_ ?_ ?_ ?_ ?_ ?_ ?_ ?_ ?_ ?_ ?_ ?_ ?_ ?_

theorem fuseConflict_same {ps : List StatePart} {base s : State} (hk : Same ps base s) 
    (hp : ([.grm, .err, .mbx, .sheds] : List StatePart) ⊆ ps := by exact sub_of (by assumption) (by decide)) : Same ps base (fuseConflict s) := by
  unfold fuseConflict
  repeat' first
    | with_reducible assumption
    | with_reducible apply journal_same
    | with_reducible apply record_same
    | exact sub_of hp (by decide)
    | intro _
    | dsimp only

theorem readVariant_same {ps : List StatePart} {base s : State} (hk : Same ps base s) 
    (hp : ([.dev, .grm, .pwr, .thm, .err, .mbx, .sheds] : List StatePart) ⊆ ps := by exact sub_of (by assumption) (by decide)) : Same ps base (readVariant s) := by
  unfold readVariant
  repeat' first
    | exact Or.inr (partIn hp (by decide))
    | with_reducible exact Or.inl rfl
    | with_reducible assumption
    | with_reducible apply fuseConflict_same
    | with_reducible apply Same.ite
    | exact sub_of hp (by decide)
    | intro _
    | dsimp only
    | split
    | with_reducible refine Same.upd ?_ ?_ ?_ ?_ ?_ ?_ ?_ ?_ ?_ ?_ ?_ ?_ ?_ ?_ ?_ ?_ ?_ ?_ ?_ ?_ ?_ ?_ ?_ ?_ ?_ ?_ ?_ ?_

theorem recoverStudbook_same {ps : List StatePart} {base s : State} (hk : Same ps base s) (g : GroomInputs)
    (hp : ([.grm, .err, .mbx, .sheds, .fresh] : List StatePart) ⊆ ps := by exact sub_of (by assumption) (by decide)) : Same ps base (recoverStudbook g s) := by
  unfold recoverStudbook
  unfold takeFresh
  repeat' first
    | exact Or.inr (partIn hp (by decide))
    | with_reducible exact Or.inl rfl
    | with_reducible assumption
    | with_reducible apply studbookRepair_same
    | with_reducible apply Same.ite
    | exact sub_of hp (by decide)
    | intro _
    | dsimp only
    | split
    | with_reducible refine Same.upd ?_ ?_ ?_ ?_ ?_ ?_ ?_ ?_ ?_ ?_ ?_ ?_ ?_ ?_ ?_ ?_ ?_ ?_ ?_ ?_ ?_ ?_ ?_ ?_ ?_ ?_ ?_ ?_

theorem startFirmware_same {ps : List StatePart} {base s : State} (hk : Same ps base s) (g : GroomInputs)
    (hp : ([.dev, .fuses, .grm, .err, .mbx, .sheds, .fresh] : List StatePart) ⊆ ps := by exact sub_of (by assumption) (by decide)) : Same ps base (startFirmware g s) := by
  unfold startFirmware
  repeat' first
    | exact Or.inr (partIn hp (by decide))
    | with_reducible exact Or.inl rfl
    | with_reducible assumption
    | with_reducible apply recoverStudbook_same
    | with_reducible apply raiseArb_same
    | with_reducible apply blowArb_same
    | with_reducible apply Same.ite
    | exact sub_of hp (by decide)
    | intro _
    | dsimp only
    | split
    | with_reducible refine Same.upd ?_ ?_ ?_ ?_ ?_ ?_ ?_ ?_ ?_ ?_ ?_ ?_ ?_ ?_ ?_ ?_ ?_ ?_ ?_ ?_ ?_ ?_ ?_ ?_ ?_ ?_ ?_ ?_

theorem execGroomStart_same {ps : List StatePart} {base s : State} (hk : Same ps base s) (g : GroomInputs)
    (hp : ([.dev, .fuses, .grm, .pwr, .thm, .err, .mbx, .sheds, .pins, .fresh] : List StatePart) ⊆ ps := by exact sub_of (by assumption) (by decide)) : OutSame ps base (execGroomStart g s) := by
  unfold execGroomStart
  repeat' first
    | exact Or.inr (partIn hp (by decide))
    | with_reducible exact Or.inl rfl
    | with_reducible assumption
    | with_reducible apply readVariant_same
    | with_reducible apply startFirmware_same
    | with_reducible apply blowArb_same
    | with_reducible apply Same.ite
    | with_reducible apply OutSame.next
    | exact sub_of hp (by decide)
    | intro _
    | dsimp only
    | split
    | with_reducible refine Same.upd ?_ ?_ ?_ ?_ ?_ ?_ ?_ ?_ ?_ ?_ ?_ ?_ ?_ ?_ ?_ ?_ ?_ ?_ ?_ ?_ ?_ ?_ ?_ ?_ ?_ ?_ ?_ ?_

theorem execFirmwareRecoveryImage_same {ps : List StatePart} {base s : State} (hk : Same ps base s) (last : Bool) (img : Option ImageCheck)
    (hp : ([.grm, .mbx] : List StatePart) ⊆ ps := by exact sub_of (by assumption) (by decide)) : OutSame ps base (execFirmwareRecoveryImage last img s) := by
  unfold execFirmwareRecoveryImage
  repeat' first
    | exact Or.inr (partIn hp (by decide))
    | with_reducible exact Or.inl rfl
    | with_reducible assumption
    | with_reducible apply popBox_same
    | with_reducible apply Same.ite
    | with_reducible apply OutSame.next
    | exact sub_of hp (by decide)
    | intro _
    | dsimp only
    | split
    | with_reducible refine Same.upd ?_ ?_ ?_ ?_ ?_ ?_ ?_ ?_ ?_ ?_ ?_ ?_ ?_ ?_ ?_ ?_ ?_ ?_ ?_ ?_ ?_ ?_ ?_ ?_ ?_ ?_ ?_ ?_

theorem writeLock_same {ps : List StatePart} {base s : State} (hk : Same ps base s) (data : Nat)
    (hp : ([.grm] : List StatePart) ⊆ ps := by exact sub_of (by assumption) (by decide)) : Same ps base (writeLock data s) := by
  unfold writeLock
  repeat' first
    | exact Or.inr (partIn hp (by decide))
    | with_reducible exact Or.inl rfl
    | with_reducible assumption
    | exact sub_of hp (by decide)
    | intro _
    | dsimp only
    | with_reducible refine Same.upd ?_ ?_ ?_ ?_ ?_ ?_ ?_ ?_ ?_ ?_ ?_ ?_ ?_ ?_ ?_ ?_ ?_ ?_ ?_ ?_ ?_ ?_ ?_ ?_ ?_ ?_ ?_ ?_

theorem execGroomLock_same {ps : List StatePart} {base s : State} (hk : Same ps base s) (o : Origin) (data : Word64)
    (hp : ([.grm, .resp] : List StatePart) ⊆ ps := by exact sub_of (by assumption) (by decide)) : OutSame ps base (execGroomLock o data s) := by
  unfold execGroomLock
  repeat' first
    | with_reducible assumption
    | with_reducible apply writeLock_same
    | with_reducible apply asAuth_same
    | with_reducible apply OutSame.next
    | exact sub_of hp (by decide)
    | intro _
    | dsimp only

theorem testFail_same {ps : List StatePart} {base s : State} (hk : Same ps base s) (u : FailUnit)
    (hp : ([.grm] : List StatePart) ⊆ ps := by exact sub_of (by assumption) (by decide)) : Same ps base (testFail s u) := by
  unfold testFail
  repeat' first
    | exact Or.inr (partIn hp (by decide))
    | with_reducible exact Or.inl rfl
    | with_reducible assumption
    | with_reducible apply journal_same
    | with_reducible apply journalProb_same
    | with_reducible apply Same.ite
    | exact sub_of hp (by decide)
    | intro _
    | dsimp only
    | split
    | with_reducible refine Same.upd ?_ ?_ ?_ ?_ ?_ ?_ ?_ ?_ ?_ ?_ ?_ ?_ ?_ ?_ ?_ ?_ ?_ ?_ ?_ ?_ ?_ ?_ ?_ ?_ ?_ ?_ ?_ ?_

theorem finishBist_same {ps : List StatePart} {base s : State} (hk : Same ps base s) (r : StepResult)
    (hp : ([.grm, .err, .mbx, .ports, .sheds, .psheds, .rm, .i3c, .fresh] : List StatePart) ⊆ ps := by exact sub_of (by assumption) (by decide)) : Same ps base (finishBist s r) := by
  unfold finishBist
  repeat' first
    | exact Or.inr (partIn hp (by decide))
    | with_reducible exact Or.inl rfl
    | with_reducible assumption
    | with_reducible apply fuseConflict_same
    | with_reducible apply testFail_same
    | with_reducible apply measureAging_same
    | with_reducible apply commitAll_same
    | with_reducible refine Same.foldl ?_ (fun _ _ _ => ?_)
    | exact sub_of hp (by decide)
    | intro _
    | dsimp only
    | with_reducible refine Same.upd ?_ ?_ ?_ ?_ ?_ ?_ ?_ ?_ ?_ ?_ ?_ ?_ ?_ ?_ ?_ ?_ ?_ ?_ ?_ ?_ ?_ ?_ ?_ ?_ ?_ ?_ ?_ ?_

theorem buildRemap_same {ps : List StatePart} {base s : State} (hk : Same ps base s) 
    (hp : ([.yards, .sheds, .psheds] : List StatePart) ⊆ ps := by exact sub_of (by assumption) (by decide)) : Same ps base (buildRemap s) := by
  unfold buildRemap
  repeat' first
    | exact Or.inr (partIn hp (by decide))
    | with_reducible exact Or.inl rfl
    | with_reducible assumption
    | exact sub_of hp (by decide)
    | intro _
    | dsimp only
    | split
    | with_reducible refine Same.upd ?_ ?_ ?_ ?_ ?_ ?_ ?_ ?_ ?_ ?_ ?_ ?_ ?_ ?_ ?_ ?_ ?_ ?_ ?_ ?_ ?_ ?_ ?_ ?_ ?_ ?_ ?_ ?_

theorem buildRoutes_same {ps : List StatePart} {base s : State} (hk : Same ps base s) 
    (hp : ([.sec, .mars, .routeA, .routeB] : List StatePart) ⊆ ps := by exact sub_of (by assumption) (by decide)) : Same ps base (buildRoutes s) := by
  unfold buildRoutes
  repeat' first
    | exact Or.inr (partIn hp (by decide))
    | with_reducible exact Or.inl rfl
    | with_reducible assumption
    | exact sub_of hp (by decide)
    | intro _
    | dsimp only
    | with_reducible refine Same.upd ?_ ?_ ?_ ?_ ?_ ?_ ?_ ?_ ?_ ?_ ?_ ?_ ?_ ?_ ?_ ?_ ?_ ?_ ?_ ?_ ?_ ?_ ?_ ?_ ?_ ?_ ?_ ?_

theorem finishLoft_same {ps : List StatePart} {base s : State} (hk : Same ps base s) (r : StepResult)
    (hp : ([.grm, .mbx, .ports, .yards, .sheds, .psheds, .stalls, .i3c, .fresh] : List StatePart) ⊆ ps := by exact sub_of (by assumption) (by decide)) : Same ps base (finishLoft s r) := by
  unfold finishLoft
  repeat' first
    | exact Or.inr (partIn hp (by decide))
    | with_reducible exact Or.inl rfl
    | with_reducible assumption
    | with_reducible apply testFail_same
    | with_reducible apply buildRemap_same
    | with_reducible apply commitAll_same
    | with_reducible apply Same.ite
    | with_reducible refine Same.foldl ?_ (fun _ _ _ => ?_)
    | exact sub_of hp (by decide)
    | intro _
    | dsimp only
    | split
    | with_reducible refine Same.upd ?_ ?_ ?_ ?_ ?_ ?_ ?_ ?_ ?_ ?_ ?_ ?_ ?_ ?_ ?_ ?_ ?_ ?_ ?_ ?_ ?_ ?_ ?_ ?_ ?_ ?_ ?_ ?_

theorem trainOthers_same {ps : List StatePart} {base s : State} (hk : Same ps base s) 
    (hp : ([.dev, .ports] : List StatePart) ⊆ ps := by exact sub_of (by assumption) (by decide)) : Same ps base (trainOthers s) := by
  unfold trainOthers
  repeat' first
    | exact Or.inr (partIn hp (by decide))
    | with_reducible exact Or.inl rfl
    | with_reducible assumption
    | with_reducible apply Same.ite
    | exact sub_of hp (by decide)
    | intro _
    | dsimp only
    | split
    | with_reducible refine Same.upd ?_ ?_ ?_ ?_ ?_ ?_ ?_ ?_ ?_ ?_ ?_ ?_ ?_ ?_ ?_ ?_ ?_ ?_ ?_ ?_ ?_ ?_ ?_ ?_ ?_ ?_ ?_ ?_

theorem beginStep_same {ps : List StatePart} {base s : State} (hk : Same ps base s) (k : Nat)
    (hp : ([.dev, .ports] : List StatePart) ⊆ ps := by exact sub_of (by assumption) (by decide)) : Same ps base (beginStep s k) := by
  unfold beginStep
  repeat' first
    | exact Or.inr (partIn hp (by decide))
    | with_reducible exact Or.inl rfl
    | with_reducible assumption
    | with_reducible apply trainOthers_same
    | with_reducible apply modPort_same
    | with_reducible apply Same.ite
    | exact sub_of hp (by decide)
    | intro _
    | dsimp only
    | split
    | with_reducible refine Same.upd ?_ ?_ ?_ ?_ ?_ ?_ ?_ ?_ ?_ ?_ ?_ ?_ ?_ ?_ ?_ ?_ ?_ ?_ ?_ ?_ ?_ ?_ ?_ ?_ ?_ ?_ ?_ ?_

theorem doneStep_same {ps : List StatePart} {base s : State} (hk : Same ps base s) (k : Nat)
    (hp : ([.dev, .ports] : List StatePart) ⊆ ps := by exact sub_of (by assumption) (by decide)) : Same ps base (doneStep s k) := by
  unfold doneStep
  repeat' first
    | exact Or.inr (partIn hp (by decide))
    | with_reducible exact Or.inl rfl
    | with_reducible assumption
    | with_reducible apply beginStep_same
    | with_reducible apply Same.ite
    | exact sub_of hp (by decide)
    | intro _
    | dsimp only
    | split
    | with_reducible refine Same.upd ?_ ?_ ?_ ?_ ?_ ?_ ?_ ?_ ?_ ?_ ?_ ?_ ?_ ?_ ?_ ?_ ?_ ?_ ?_ ?_ ?_ ?_ ?_ ?_ ?_ ?_ ?_ ?_

theorem failStep_same {ps : List StatePart} {base s : State} (hk : Same ps base s) (err : Nat)
    (hp : ([.dev] : List StatePart) ⊆ ps := by exact sub_of (by assumption) (by decide)) : Same ps base (failStep s err) := by
  unfold failStep
  repeat' first
    | exact Or.inr (partIn hp (by decide))
    | with_reducible exact Or.inl rfl
    | with_reducible assumption
    | exact sub_of hp (by decide)
    | intro _
    | dsimp only
    | with_reducible refine Same.upd ?_ ?_ ?_ ?_ ?_ ?_ ?_ ?_ ?_ ?_ ?_ ?_ ?_ ?_ ?_ ?_ ?_ ?_ ?_ ?_ ?_ ?_ ?_ ?_ ?_ ?_ ?_ ?_

theorem writeBootctl_same {ps : List StatePart} {base s : State} (hk : Same ps base s) (data : Nat)
    (hp : ([.dev, .ports] : List StatePart) ⊆ ps := by exact sub_of (by assumption) (by decide)) : Same ps base (writeBootctl data s) := by
  unfold writeBootctl
  repeat' first
    | exact Or.inr (partIn hp (by decide))
    | with_reducible exact Or.inl rfl
    | with_reducible assumption
    | with_reducible apply beginStep_same
    | with_reducible apply step_same
    | with_reducible apply Same.ite
    | exact sub_of hp (by decide)
    | intro _
    | dsimp only
    | split
    | with_reducible refine Same.upd ?_ ?_ ?_ ?_ ?_ ?_ ?_ ?_ ?_ ?_ ?_ ?_ ?_ ?_ ?_ ?_ ?_ ?_ ?_ ?_ ?_ ?_ ?_ ?_ ?_ ?_ ?_ ?_

theorem stepCommand_same {ps : List StatePart} {base s : State} (hk : Same ps base s) (o : Origin) (k : Nat) (auto : Bool) (hsrc : Bool)
    (hp : ([.dev, .ports, .resp] : List StatePart) ⊆ ps := by exact sub_of (by assumption) (by decide)) : OutSame ps base (stepCommand o k auto hsrc s) := by
  unfold stepCommand
  repeat' first
    | with_reducible assumption
    | with_reducible apply writeBootctl_same
    | with_reducible apply asAuth_same
    | with_reducible apply OutSame.next
    | exact sub_of hp (by decide)
    | intro _
    | dsimp only

theorem execTrack_same {ps : List StatePart} {base s : State} (hk : Same ps base s) (o : Origin) (auto : Bool) (hsrc : Bool)
    (hp : ([.dev, .ports, .resp] : List StatePart) ⊆ ps := by exact sub_of (by assumption) (by decide)) : OutSame ps base (execTrack o auto hsrc s) := by
  unfold execTrack
  repeat' first
    | with_reducible assumption
    | with_reducible apply stepCommand_same
    | with_reducible apply OutSame.next
    | exact sub_of hp (by decide)
    | intro _
    | dsimp only

theorem execCore_same {ps : List StatePart} {base s : State} (hk : Same ps base s) (o : Origin) (auto : Bool) (hsrc : Bool)
    (hp : ([.dev, .ports, .resp] : List StatePart) ⊆ ps := by exact sub_of (by assumption) (by decide)) : OutSame ps base (execCore o auto hsrc s) := by
  unfold execCore
  repeat' first
    | with_reducible assumption
    | with_reducible apply stepCommand_same
    | with_reducible apply OutSame.next
    | exact sub_of hp (by decide)
    | intro _
    | dsimp only

theorem execClocks_same {ps : List StatePart} {base s : State} (hk : Same ps base s) (o : Origin) (auto : Bool) (hsrc : Bool)
    (hp : ([.dev, .ports, .resp] : List StatePart) ⊆ ps := by exact sub_of (by assumption) (by decide)) : OutSame ps base (execClocks o auto hsrc s) := by
  unfold execClocks
  repeat' first
    | with_reducible assumption
    | with_reducible apply stepCommand_same
    | with_reducible apply OutSame.next
    | exact sub_of hp (by decide)
    | intro _
    | dsimp only

theorem execBist_same {ps : List StatePart} {base s : State} (hk : Same ps base s) (o : Origin) (auto : Bool) (hsrc : Bool)
    (hp : ([.dev, .ports, .resp] : List StatePart) ⊆ ps := by exact sub_of (by assumption) (by decide)) : OutSame ps base (execBist o auto hsrc s) := by
  unfold execBist
  repeat' first
    | with_reducible assumption
    | with_reducible apply stepCommand_same
    | with_reducible apply OutSame.next
    | exact sub_of hp (by decide)
    | intro _
    | dsimp only

theorem execRemap_same {ps : List StatePart} {base s : State} (hk : Same ps base s) (o : Origin) (auto : Bool) (hsrc : Bool)
    (hp : ([.dev, .ports, .resp] : List StatePart) ⊆ ps := by exact sub_of (by assumption) (by decide)) : OutSame ps base (execRemap o auto hsrc s) := by
  unfold execRemap
  repeat' first
    | with_reducible assumption
    | with_reducible apply stepCommand_same
    | with_reducible apply OutSame.next
    | exact sub_of hp (by decide)
    | intro _
    | dsimp only

theorem execLoft_same {ps : List StatePart} {base s : State} (hk : Same ps base s) (o : Origin) (auto : Bool) (hsrc : Bool)
    (hp : ([.dev, .ports, .resp] : List StatePart) ⊆ ps := by exact sub_of (by assumption) (by decide)) : OutSame ps base (execLoft o auto hsrc s) := by
  unfold execLoft
  repeat' first
    | with_reducible assumption
    | with_reducible apply stepCommand_same
    | with_reducible apply OutSame.next
    | exact sub_of hp (by decide)
    | intro _
    | dsimp only

theorem execPorts_same {ps : List StatePart} {base s : State} (hk : Same ps base s) (o : Origin) (auto : Bool) (hsrc : Bool)
    (hp : ([.dev, .ports, .resp] : List StatePart) ⊆ ps := by exact sub_of (by assumption) (by decide)) : OutSame ps base (execPorts o auto hsrc s) := by
  unfold execPorts
  repeat' first
    | with_reducible assumption
    | with_reducible apply stepCommand_same
    | with_reducible apply OutSame.next
    | exact sub_of hp (by decide)
    | intro _
    | dsimp only

theorem execHostler_same {ps : List StatePart} {base s : State} (hk : Same ps base s) (o : Origin) (auto : Bool) (hsrc : Bool)
    (hp : ([.dev, .ports, .resp] : List StatePart) ⊆ ps := by exact sub_of (by assumption) (by decide)) : OutSame ps base (execHostler o auto hsrc s) := by
  unfold execHostler
  repeat' first
    | with_reducible assumption
    | with_reducible apply stepCommand_same
    | with_reducible apply OutSame.next
    | exact sub_of hp (by decide)
    | intro _
    | dsimp only

theorem execReady_same {ps : List StatePart} {base s : State} (hk : Same ps base s) (o : Origin) (auto : Bool) (hsrc : Bool)
    (hp : ([.dev, .ports, .resp] : List StatePart) ⊆ ps := by exact sub_of (by assumption) (by decide)) : OutSame ps base (execReady o auto hsrc s) := by
  unfold execReady
  repeat' first
    | with_reducible assumption
    | with_reducible apply stepCommand_same
    | with_reducible apply OutSame.next
    | exact sub_of hp (by decide)
    | intro _
    | dsimp only

theorem finishTrack_same {ps : List StatePart} {base s : State} (hk : Same ps base s) (trips : List YardId)
    (hp : ([.dev, .grm, .pwr, .err, .sec, .mbx, .mars, .ports, .yards, .sheds, .psheds, .stalls, .track, .rm, .fresh] : List StatePart) ⊆ ps := by exact sub_of (by assumption) (by decide)) : Same ps base (finishTrack s trips) := by
  unfold finishTrack
  repeat' first
    | exact Or.inr (partIn hp (by decide))
    | with_reducible exact Or.inl rfl
    | with_reducible assumption
    | with_reducible apply trackTrip_same
    | with_reducible refine Same.foldl ?_ (fun _ _ _ => ?_)
    | exact sub_of hp (by decide)
    | intro _
    | dsimp only
    | with_reducible refine Same.upd ?_ ?_ ?_ ?_ ?_ ?_ ?_ ?_ ?_ ?_ ?_ ?_ ?_ ?_ ?_ ?_ ?_ ?_ ?_ ?_ ?_ ?_ ?_ ?_ ?_ ?_ ?_ ?_

theorem finishCore_same {ps : List StatePart} {base s : State} (hk : Same ps base s) (trips : List YardId)
    (hp : ([.dev, .grm, .pwr, .err, .sec, .mbx, .mars, .ports, .yards, .sheds, .psheds, .stalls, .track, .rm, .fresh] : List StatePart) ⊆ ps := by exact sub_of (by assumption) (by decide)) : Same ps base (finishCore s trips) := by
  unfold finishCore
  repeat' first
    | exact Or.inr (partIn hp (by decide))
    | with_reducible exact Or.inl rfl
    | with_reducible assumption
    | with_reducible apply coreTrip_same
    | with_reducible apply Same.ite
    | with_reducible refine Same.foldl ?_ (fun _ _ _ => ?_)
    | exact sub_of hp (by decide)
    | intro _
    | dsimp only
    | split
    | with_reducible refine Same.upd ?_ ?_ ?_ ?_ ?_ ?_ ?_ ?_ ?_ ?_ ?_ ?_ ?_ ?_ ?_ ?_ ?_ ?_ ?_ ?_ ?_ ?_ ?_ ?_ ?_ ?_ ?_ ?_

theorem finishClocks_same {ps : List StatePart} {base s : State} (hk : Same ps base s) 
    (hp : ([.psheds] : List StatePart) ⊆ ps := by exact sub_of (by assumption) (by decide)) : Same ps base (finishClocks s) := by
  unfold finishClocks
  repeat' first
    | exact Or.inr (partIn hp (by decide))
    | with_reducible exact Or.inl rfl
    | with_reducible assumption
    | with_reducible apply Same.ite
    | exact sub_of hp (by decide)
    | intro _
    | dsimp only
    | split
    | with_reducible refine Same.upd ?_ ?_ ?_ ?_ ?_ ?_ ?_ ?_ ?_ ?_ ?_ ?_ ?_ ?_ ?_ ?_ ?_ ?_ ?_ ?_ ?_ ?_ ?_ ?_ ?_ ?_ ?_ ?_

theorem laneChars_same {ps : List StatePart} {base s : State} (hk : Same ps base s) 
    (hp : ([.grm] : List StatePart) ⊆ ps := by exact sub_of (by assumption) (by decide)) : Same ps base (laneChars s) := by
  unfold laneChars
  repeat' first
    | with_reducible assumption
    | with_reducible apply journal_same
    | with_reducible apply Same.ite
    | with_reducible refine Same.foldl ?_ (fun _ _ _ => ?_)
    | exact sub_of hp (by decide)
    | intro _
    | dsimp only
    | split

theorem finishPorts_same {ps : List StatePart} {base s : State} (hk : Same ps base s) (timedOut : Bool)
    (hp : ([.dev, .grm, .ports] : List StatePart) ⊆ ps := by exact sub_of (by assumption) (by decide)) : Same ps base (finishPorts s timedOut) := by
  unfold finishPorts
  repeat' first
    | exact Or.inr (partIn hp (by decide))
    | with_reducible exact Or.inl rfl
    | with_reducible assumption
    | with_reducible apply trainOthers_same
    | with_reducible apply doneStep_same
    | with_reducible apply failStep_same
    | with_reducible apply laneChars_same
    | with_reducible apply Same.ite
    | exact sub_of hp (by decide)
    | intro _
    | dsimp only
    | split
    | with_reducible refine Same.upd ?_ ?_ ?_ ?_ ?_ ?_ ?_ ?_ ?_ ?_ ?_ ?_ ?_ ?_ ?_ ?_ ?_ ?_ ?_ ?_ ?_ ?_ ?_ ?_ ?_ ?_ ?_ ?_

theorem loadHostler_same {ps : List StatePart} {base s : State} (hk : Same ps base s) 
    (hp : ([.hmem] : List StatePart) ⊆ ps := by exact sub_of (by assumption) (by decide)) : Same ps base (loadHostler s) := by
  unfold loadHostler
  repeat' first
    | exact Or.inr (partIn hp (by decide))
    | with_reducible exact Or.inl rfl
    | with_reducible assumption
    | with_reducible apply Same.ite
    | exact sub_of hp (by decide)
    | intro _
    | dsimp only
    | split
    | with_reducible refine Same.upd ?_ ?_ ?_ ?_ ?_ ?_ ?_ ?_ ?_ ?_ ?_ ?_ ?_ ?_ ?_ ?_ ?_ ?_ ?_ ?_ ?_ ?_ ?_ ?_ ?_ ?_ ?_ ?_

theorem finishHostler_same {ps : List StatePart} {base s : State} (hk : Same ps base s) (image : Option ImageCheck) (timedOut : Bool)
    (hp : ([.dev, .grm, .mbx, .ports, .hmem] : List StatePart) ⊆ ps := by exact sub_of (by assumption) (by decide)) : Same ps base (finishHostler s image timedOut) := by
  unfold finishHostler
  repeat' first
    | exact Or.inr (partIn hp (by decide))
    | with_reducible exact Or.inl rfl
    | with_reducible assumption
    | with_reducible apply doneStep_same
    | with_reducible apply failStep_same
    | with_reducible apply loadHostler_same
    | with_reducible apply Same.ite
    | exact sub_of hp (by decide)
    | intro _
    | dsimp only
    | split
    | with_reducible refine Same.upd ?_ ?_ ?_ ?_ ?_ ?_ ?_ ?_ ?_ ?_ ?_ ?_ ?_ ?_ ?_ ?_ ?_ ?_ ?_ ?_ ?_ ?_ ?_ ?_ ?_ ?_ ?_ ?_

theorem finishReady_same {ps : List StatePart} {base s : State} (hk : Same ps base s) (ms : Nat)
    (hp : ([.dev, .grm, .ports] : List StatePart) ⊆ ps := by exact sub_of (by assumption) (by decide)) : Same ps base (finishReady s ms) := by
  unfold finishReady
  repeat' first
    | exact Or.inr (partIn hp (by decide))
    | with_reducible exact Or.inl rfl
    | with_reducible assumption
    | with_reducible apply doneStep_same
    | with_reducible apply Same.ite
    | exact sub_of hp (by decide)
    | intro _
    | dsimp only
    | split
    | with_reducible refine Same.upd ?_ ?_ ?_ ?_ ?_ ?_ ?_ ?_ ?_ ?_ ?_ ?_ ?_ ?_ ?_ ?_ ?_ ?_ ?_ ?_ ?_ ?_ ?_ ?_ ?_ ?_ ?_ ?_

theorem execBootStepComplete_same {ps : List StatePart} {base s : State} (hk : Same ps base s) (r : StepResult)
    (hp : ([.dev, .grm, .pwr, .err, .sec, .mbx, .mars, .ports, .yards, .sheds, .psheds, .stalls, .routeA, .routeB, .track, .rm, .i3c, .hmem, .fresh] : List StatePart) ⊆ ps := by exact sub_of (by assumption) (by decide)) : OutSame ps base (execBootStepComplete r s) := by
  unfold execBootStepComplete
  repeat' first
    | exact Or.inr (partIn hp (by decide))
    | with_reducible exact Or.inl rfl
    | with_reducible assumption
    | with_reducible apply finishBist_same
    | with_reducible apply buildRemap_same
    | with_reducible apply buildRoutes_same
    | with_reducible apply finishLoft_same
    | with_reducible apply doneStep_same
    | with_reducible apply finishTrack_same
    | with_reducible apply finishCore_same
    | with_reducible apply finishClocks_same
    | with_reducible apply finishPorts_same
    | with_reducible apply finishHostler_same
    | with_reducible apply finishReady_same
    | with_reducible apply Same.ite
    | with_reducible apply OutSame.next
    | exact sub_of hp (by decide)
    | intro _
    | dsimp only
    | split
    | with_reducible refine Same.upd ?_ ?_ ?_ ?_ ?_ ?_ ?_ ?_ ?_ ?_ ?_ ?_ ?_ ?_ ?_ ?_ ?_ ?_ ?_ ?_ ?_ ?_ ?_ ?_ ?_ ?_ ?_ ?_

end Sys2Proof.Machine
end

