-- ==== Sys2Proof/Laws/SameAccess.lean ====
section
/-! SUPPORT. Which parts of the state register and window accesses, I3C and JTAG can change (Safety, `Same`). -/

set_option Elab.async false
set_option linter.all false

namespace Sys2Proof.Machine

/-! Access. -/

theorem devWrite_same {ps : List StatePart} {base s : State} (hk : Same ps base s) (off : Nat) (data : Nat)
    (hp : ([.dev, .fuses, .grm, .pwr, .thm, .err, .sec, .mbx, .mars, .ports, .yards, .sheds, .psheds, .stalls, .routeA, .routeB, .track, .nextId, .rm, .lunge, .i3c, .tap, .pins, .hmem, .gwin, .fresh, .resp, .pending] : List StatePart) ⊆ ps := by exact sub_of (by assumption) (by decide)) : Same ps base (devWrite off data s) := by
  unfold devWrite
  repeat' first
    | exact Or.inr (partIn hp (by decide))
    | with_reducible exact Or.inl rfl
    | with_reducible assumption
    | with_reducible apply writeReset_same
    | with_reducible apply writeBootctl_same
    | with_reducible apply Same.ite
    | exact sub_of hp (by decide)
    | intro _
    | dsimp only
    | split
    | with_reducible refine Same.upd ?_ ?_ ?_ ?_ ?_ ?_ ?_ ?_ ?_ ?_ ?_ ?_ ?_ ?_ ?_ ?_ ?_ ?_ ?_ ?_ ?_ ?_ ?_ ?_ ?_ ?_ ?_ ?_

theorem grmWrite_same {ps : List StatePart} {base s : State} (hk : Same ps base s) (off : Nat) (data : Nat)
    (hp : ([.grm] : List StatePart) ⊆ ps := by exact sub_of (by assumption) (by decide)) : Same ps base (grmWrite off data s) := by
  unfold grmWrite
  repeat' first
    | exact Or.inr (partIn hp (by decide))
    | with_reducible exact Or.inl rfl
    | with_reducible assumption
    | with_reducible apply writeLock_same
    | with_reducible apply Same.ite
    | exact sub_of hp (by decide)
    | intro _
    | dsimp only
    | split
    | with_reducible refine Same.upd ?_ ?_ ?_ ?_ ?_ ?_ ?_ ?_ ?_ ?_ ?_ ?_ ?_ ?_ ?_ ?_ ?_ ?_ ?_ ?_ ?_ ?_ ?_ ?_ ?_ ?_ ?_ ?_

theorem pwrWrite_same {ps : List StatePart} {base s : State} (hk : Same ps base s) (off : Nat) (data : Nat)
    (hp : ([.pwr, .sec, .psheds, .stalls, .fresh] : List StatePart) ⊆ ps := by exact sub_of (by assumption) (by decide)) : Same ps base (pwrWrite off data s) := by
  unfold pwrWrite
  repeat' first
    | exact Or.inr (partIn hp (by decide))
    | with_reducible exact Or.inl rfl
    | with_reducible assumption
    | with_reducible apply writeCap_same
    | with_reducible apply writeNextev_same
    | with_reducible apply writeStagger_same
    | with_reducible apply writeLshed_same
    | exact sub_of hp (by decide)
    | intro _
    | dsimp only
    | split
    | with_reducible refine Same.upd ?_ ?_ ?_ ?_ ?_ ?_ ?_ ?_ ?_ ?_ ?_ ?_ ?_ ?_ ?_ ?_ ?_ ?_ ?_ ?_ ?_ ?_ ?_ ?_ ?_ ?_ ?_ ?_

theorem thmWrite_same {ps : List StatePart} {base s : State} (hk : Same ps base s) (off : Nat) (data : Nat)
    (hp : ([.thm] : List StatePart) ⊆ ps := by exact sub_of (by assumption) (by decide)) : Same ps base (thmWrite off data s) := by
  unfold thmWrite
  repeat' first
    | exact Or.inr (partIn hp (by decide))
    | with_reducible exact Or.inl rfl
    | with_reducible assumption
    | with_reducible apply writeThmClk_same
    | with_reducible apply writeThmCfg_same
    | exact sub_of hp (by decide)
    | intro _
    | dsimp only
    | split
    | with_reducible refine Same.upd ?_ ?_ ?_ ?_ ?_ ?_ ?_ ?_ ?_ ?_ ?_ ?_ ?_ ?_ ?_ ?_ ?_ ?_ ?_ ?_ ?_ ?_ ?_ ?_ ?_ ?_ ?_ ?_

theorem errWrite_same {ps : List StatePart} {base s : State} (hk : Same ps base s) (off : Nat) (data : Nat)
    (hp : ([.err, .sec, .psheds, .stalls, .lunge, .fresh] : List StatePart) ⊆ ps := by exact sub_of (by assumption) (by decide)) : Same ps base (errWrite off data s) := by
  unfold errWrite
  repeat' first
    | exact Or.inr (partIn hp (by decide))
    | with_reducible exact Or.inl rfl
    | with_reducible assumption
    | with_reducible apply writeLctrl_same
    | exact sub_of hp (by decide)
    | intro _
    | dsimp only
    | split
    | with_reducible refine Same.upd ?_ ?_ ?_ ?_ ?_ ?_ ?_ ?_ ?_ ?_ ?_ ?_ ?_ ?_ ?_ ?_ ?_ ?_ ?_ ?_ ?_ ?_ ?_ ?_ ?_ ?_ ?_ ?_

theorem secWrite_same {ps : List StatePart} {base s : State} (hk : Same ps base s) (off : Nat) (data : Nat)
    (hp : ([.grm, .pwr, .err, .sec, .mbx, .mars, .ports, .yards, .sheds, .psheds, .stalls, .track, .lunge, .fresh] : List StatePart) ⊆ ps := by exact sub_of (by assumption) (by decide)) : Same ps base (secWrite off data s) := by
  unfold secWrite
  repeat' first
    | exact Or.inr (partIn hp (by decide))
    | with_reducible exact Or.inl rfl
    | with_reducible assumption
    | with_reducible apply writeEpoch_same
    | with_reducible apply cmdErr_same
    | with_reducible apply writeSecCtrl_same
    | with_reducible apply Same.ite
    | exact sub_of hp (by decide)
    | intro _
    | dsimp only
    | split
    | with_reducible refine Same.upd ?_ ?_ ?_ ?_ ?_ ?_ ?_ ?_ ?_ ?_ ?_ ?_ ?_ ?_ ?_ ?_ ?_ ?_ ?_ ?_ ?_ ?_ ?_ ?_ ?_ ?_ ?_ ?_

theorem boxWrite_same {ps : List StatePart} {base s : State} (hk : Same ps base s) (o : Origin) (n : Nat) (off : Nat) (data : Nat)
    (hp : ([.grm, .mbx, .ports, .i3c] : List StatePart) ⊆ ps := by exact sub_of (by assumption) (by decide)) : OptSame ps base (boxWrite o n off data s) := by
  unfold boxWrite
  repeat' first
    | exact Or.inr (partIn hp (by decide))
    | with_reducible exact Or.inl rfl
    | with_reducible assumption
    | with_reducible apply ringBox_same
    | with_reducible apply post_same
    | with_reducible apply clearDoor_same
    | with_reducible apply writeMask_same
    | with_reducible apply writePop_same
    | with_reducible apply setRxrdy_same
    | with_reducible apply modBox_same
    | with_reducible apply Same.ite
    | with_reducible apply OptSame.some
    | with_reducible apply OptSame.ite
    | exact OptSame.none
    | exact sub_of hp (by decide)
    | intro _
    | dsimp only
    | split
    | with_reducible refine Same.upd ?_ ?_ ?_ ?_ ?_ ?_ ?_ ?_ ?_ ?_ ?_ ?_ ?_ ?_ ?_ ?_ ?_ ?_ ?_ ?_ ?_ ?_ ?_ ?_ ?_ ?_ ?_ ?_

theorem ringWrite_same {ps : List StatePart} {base s : State} (hk : Same ps base s) (o : Origin) (r : Nat) (off : Nat) (data : Nat)
    (hp : ([.mbx] : List StatePart) ⊆ ps := by exact sub_of (by assumption) (by decide)) : OptSame ps base (ringWrite o r off data s) := by
  unfold ringWrite
  repeat' first
    | exact Or.inr (partIn hp (by decide))
    | with_reducible exact Or.inl rfl
    | with_reducible assumption
    | with_reducible apply writeHead_same
    | with_reducible apply writeTail_same
    | with_reducible apply modRing_same
    | with_reducible apply Same.ite
    | with_reducible apply OptSame.some
    | with_reducible apply OptSame.ite
    | exact OptSame.none
    | exact sub_of hp (by decide)
    | intro _
    | dsimp only
    | split
    | with_reducible refine Same.upd ?_ ?_ ?_ ?_ ?_ ?_ ?_ ?_ ?_ ?_ ?_ ?_ ?_ ?_ ?_ ?_ ?_ ?_ ?_ ?_ ?_ ?_ ?_ ?_ ?_ ?_ ?_ ?_

theorem mbxWrite_same {ps : List StatePart} {base s : State} (hk : Same ps base s) (o : Origin) (off : Nat) (data : Nat)
    (hp : ([.grm, .mbx, .ports, .i3c] : List StatePart) ⊆ ps := by exact sub_of (by assumption) (by decide)) : OptSame ps base (mbxWrite o off data s) := by
  unfold mbxWrite
  repeat' first
    | exact Or.inr (partIn hp (by decide))
    | with_reducible exact Or.inl rfl
    | with_reducible assumption
    | with_reducible apply boxWrite_same
    | with_reducible apply ringWrite_same
    | with_reducible apply Same.ite
    | with_reducible apply OptSame.some
    | with_reducible apply OptSame.ite
    | exact OptSame.none
    | exact sub_of hp (by decide)
    | intro _
    | dsimp only
    | split
    | with_reducible refine Same.upd ?_ ?_ ?_ ?_ ?_ ?_ ?_ ?_ ?_ ?_ ?_ ?_ ?_ ?_ ?_ ?_ ?_ ?_ ?_ ?_ ?_ ?_ ?_ ?_ ?_ ?_ ?_ ?_

theorem portWrite_same {ps : List StatePart} {base s : State} (hk : Same ps base s) (o : Origin) (p : Nat) (off : Nat) (data : Nat)
    (hp : ([.dev, .sec, .ports, .fresh] : List StatePart) ⊆ ps := by exact sub_of (by assumption) (by decide)) : Same ps base (portWrite o p off data s) := by
  unfold portWrite
  repeat' first
    | exact Or.inr (partIn hp (by decide))
    | with_reducible exact Or.inl rfl
    | with_reducible assumption
    | with_reducible apply modPort_same
    | with_reducible apply modCtx_same
    | with_reducible apply writePortCfg_same
    | with_reducible apply writePortCtrl_same
    | with_reducible apply writeMctrl_same
    | with_reducible apply Same.ite
    | exact sub_of hp (by decide)
    | intro _
    | dsimp only
    | split
    | with_reducible refine Same.upd ?_ ?_ ?_ ?_ ?_ ?_ ?_ ?_ ?_ ?_ ?_ ?_ ?_ ?_ ?_ ?_ ?_ ?_ ?_ ?_ ?_ ?_ ?_ ?_ ?_ ?_ ?_ ?_

theorem marsWrite_same {ps : List StatePart} {base s : State} (hk : Same ps base s) (off : Nat) (data : Nat)
    (hp : ([.mars, .ports] : List StatePart) ⊆ ps := by exact sub_of (by assumption) (by decide)) : Same ps base (marsWrite off data s) := by
  unfold marsWrite
  repeat' first
    | exact Or.inr (partIn hp (by decide))
    | with_reducible exact Or.inl rfl
    | with_reducible assumption
    | with_reducible apply writeBctrl_same
    | with_reducible apply modBucket_same
    | with_reducible apply writeEntry_same
    | with_reducible apply Same.ite
    | exact sub_of hp (by decide)
    | intro _
    | dsimp only
    | split
    | with_reducible refine Same.upd ?_ ?_ ?_ ?_ ?_ ?_ ?_ ?_ ?_ ?_ ?_ ?_ ?_ ?_ ?_ ?_ ?_ ?_ ?_ ?_ ?_ ?_ ?_ ?_ ?_ ?_ ?_ ?_

theorem writePred_same {ps : List StatePart} {base s : State} (hk : Same ps base s) (k : Nat) (data : Nat)
    (hp : ([.sheds] : List StatePart) ⊆ ps := by exact sub_of (by assumption) (by decide)) : Same ps base (writePred k data s) := by
  unfold writePred
  repeat' first
    | exact Or.inr (partIn hp (by decide))
    | with_reducible exact Or.inl rfl
    | with_reducible assumption
    | with_reducible apply modShed_same
    | with_reducible apply Same.ite
    | exact sub_of hp (by decide)
    | intro _
    | dsimp only
    | split
    | with_reducible refine Same.upd ?_ ?_ ?_ ?_ ?_ ?_ ?_ ?_ ?_ ?_ ?_ ?_ ?_ ?_ ?_ ?_ ?_ ?_ ?_ ?_ ?_ ?_ ?_ ?_ ?_ ?_ ?_ ?_

theorem shedWrite_same {ps : List StatePart} {base s : State} (hk : Same ps base s) (k : Nat) (off : Nat) (data : Nat)
    (hp : ([.sheds] : List StatePart) ⊆ ps := by exact sub_of (by assumption) (by decide)) : Same ps base (shedWrite k off data s) := by
  unfold shedWrite
  repeat' first
    | exact Or.inr (partIn hp (by decide))
    | with_reducible exact Or.inl rfl
    | with_reducible assumption
    | with_reducible apply writePred_same
    | with_reducible apply modShed_same
    | with_reducible apply Same.ite
    | exact sub_of hp (by decide)
    | intro _
    | dsimp only
    | split
    | with_reducible refine Same.upd ?_ ?_ ?_ ?_ ?_ ?_ ?_ ?_ ?_ ?_ ?_ ?_ ?_ ?_ ?_ ?_ ?_ ?_ ?_ ?_ ?_ ?_ ?_ ?_ ?_ ?_ ?_ ?_

theorem yardWrite_same {ps : List StatePart} {base s : State} (hk : Same ps base s) (y : Nat) (off : Nat) (data : Nat)
    (hp : ([.yards] : List StatePart) ⊆ ps := by exact sub_of (by assumption) (by decide)) : Same ps base (yardWrite y off data s) := by
  unfold yardWrite
  repeat' first
    | exact Or.inr (partIn hp (by decide))
    | with_reducible exact Or.inl rfl
    | with_reducible assumption
    | with_reducible apply modYard_same
    | with_reducible apply Same.ite
    | exact sub_of hp (by decide)
    | intro _
    | dsimp only
    | split
    | with_reducible refine Same.upd ?_ ?_ ?_ ?_ ?_ ?_ ?_ ?_ ?_ ?_ ?_ ?_ ?_ ?_ ?_ ?_ ?_ ?_ ?_ ?_ ?_ ?_ ?_ ?_ ?_ ?_ ?_ ?_

theorem regWrite_same {ps : List StatePart} {base s : State} (hk : Same ps base s) (o : Origin) (a : Nat) (data : Nat)
    (hp : ([.dev, .fuses, .grm, .pwr, .thm, .err, .sec, .mbx, .mars, .ports, .yards, .sheds, .psheds, .stalls, .routeA, .routeB, .track, .nextId, .rm, .lunge, .i3c, .tap, .pins, .hmem, .gwin, .fresh, .resp, .pending] : List StatePart) ⊆ ps := by exact sub_of (by assumption) (by decide)) : OptSame ps base (regWrite o a data s) := by
  unfold regWrite
  repeat' first
    | exact Or.inr (partIn hp (by decide))
    | with_reducible exact Or.inl rfl
    | with_reducible assumption
    | with_reducible apply devWrite_same
    | with_reducible apply grmWrite_same
    | with_reducible apply pwrWrite_same
    | with_reducible apply thmWrite_same
    | with_reducible apply errWrite_same
    | with_reducible apply secWrite_same
    | with_reducible apply mbxWrite_same
    | with_reducible apply portWrite_same
    | with_reducible apply marsWrite_same
    | with_reducible apply shedWrite_same
    | with_reducible apply yardWrite_same
    | with_reducible apply Same.ite
    | with_reducible apply OptSame.some
    | with_reducible apply OptSame.ite
    | exact OptSame.none
    | exact sub_of hp (by decide)
    | intro _
    | dsimp only
    | split
    | with_reducible refine Same.upd ?_ ?_ ?_ ?_ ?_ ?_ ?_ ?_ ?_ ?_ ?_ ?_ ?_ ?_ ?_ ?_ ?_ ?_ ?_ ?_ ?_ ?_ ?_ ?_ ?_ ?_ ?_ ?_

theorem addressError_same {ps : List StatePart} {base s : State} (hk : Same ps base s) (o : Origin) (a : Nat)
    (hp : ([.resp] : List StatePart) ⊆ ps := by exact sub_of (by assumption) (by decide)) : Same ps base (addressError o a s) := by
  unfold addressError
  repeat' first
    | with_reducible assumption
    | with_reducible apply answer_same
    | with_reducible apply Same.ite
    | exact sub_of hp (by decide)
    | intro _
    | dsimp only
    | split

theorem readReg_same {ps : List StatePart} {base s : State} (hk : Same ps base s) (o : Origin) (a : Nat)
    (hp : ([.resp] : List StatePart) ⊆ ps := by exact sub_of (by assumption) (by decide)) : Same ps base (readReg o a s) := by
  unfold readReg
  repeat' first
    | with_reducible assumption
    | with_reducible apply addressError_same
    | with_reducible apply answer_same
    | with_reducible apply Same.ite
    | exact sub_of hp (by decide)
    | intro _
    | dsimp only
    | split

theorem writeReg_same {ps : List StatePart} {base s : State} (hk : Same ps base s) (o : Origin) (a data : Nat)
    (hp : ([.dev, .fuses, .grm, .pwr, .thm, .err, .sec, .mbx, .mars, .ports, .yards, .sheds, .psheds, .stalls, .routeA, .routeB, .track, .nextId, .rm, .lunge, .i3c, .tap, .pins, .hmem, .gwin, .fresh, .resp, .pending] : List StatePart) ⊆ ps := by exact sub_of (by assumption) (by decide)) : Same ps base (writeReg o a data s) := by
  refine Same.ite (addressError_same hk _ _) ?_
  have h := regWrite_same hk o a data
  revert h
  cases regWrite o a data s <;> intro h
  · exact answer_same hk _ _ _
  · exact answer_same h _ _ _

theorem readWindow_same {ps : List StatePart} {base s : State} (hk : Same ps base s) (o : Origin) (addr : Nat) (n : Nat)
    (hp : ([.resp] : List StatePart) ⊆ ps := by exact sub_of (by assumption) (by decide)) : Same ps base (readWindow o addr n s) := by
  unfold readWindow
  repeat' first
    | exact Or.inr (partIn hp (by decide))
    | with_reducible exact Or.inl rfl
    | with_reducible assumption
    | with_reducible apply answer_same
    | exact sub_of hp (by decide)
    | intro _
    | dsimp only
    | split
    | with_reducible refine Same.upd ?_ ?_ ?_ ?_ ?_ ?_ ?_ ?_ ?_ ?_ ?_ ?_ ?_ ?_ ?_ ?_ ?_ ?_ ?_ ?_ ?_ ?_ ?_ ?_ ?_ ?_ ?_ ?_

theorem writeWindow_same {ps : List StatePart} {base s : State} (hk : Same ps base s) (o : Origin) (addr : Nat) (data : List Byte)
    (hp : ([.hmem, .gwin, .resp] : List StatePart) ⊆ ps := by exact sub_of (by assumption) (by decide)) : Same ps base (writeWindow o addr data s) := by
  unfold writeWindow
  repeat' first
    | exact Or.inr (partIn hp (by decide))
    | with_reducible exact Or.inl rfl
    | with_reducible assumption
    | with_reducible apply answer_same
    | exact sub_of hp (by decide)
    | intro _
    | dsimp only
    | split
    | with_reducible refine Same.upd ?_ ?_ ?_ ?_ ?_ ?_ ?_ ?_ ?_ ?_ ?_ ?_ ?_ ?_ ?_ ?_ ?_ ?_ ?_ ?_ ?_ ?_ ?_ ?_ ?_ ?_ ?_ ?_

theorem execRegisterWrite_same {ps : List StatePart} {base s : State} (hk : Same ps base s) (o : Origin) (addr : BitVec 40) (data : Word64)
    (hp : ([.dev, .fuses, .grm, .pwr, .thm, .err, .sec, .mbx, .mars, .ports, .yards, .sheds, .psheds, .stalls, .routeA, .routeB, .track, .nextId, .rm, .lunge, .i3c, .tap, .pins, .hmem, .gwin, .fresh, .resp, .pending] : List StatePart) ⊆ ps := by exact sub_of (by assumption) (by decide)) : OutSame ps base (execRegisterWrite o addr data s) := by
  unfold execRegisterWrite
  repeat' first
    | with_reducible assumption
    | with_reducible apply writeReg_same
    | with_reducible apply OutSame.next
    | exact sub_of hp (by decide)
    | intro _
    | dsimp only

theorem execWindowRead_same {ps : List StatePart} {base s : State} (hk : Same ps base s) (o : Origin) (addr : BitVec 40) (wlen : Nat)
    (hp : ([.resp] : List StatePart) ⊆ ps := by exact sub_of (by assumption) (by decide)) : OutSame ps base (execWindowRead o addr wlen s) := by
  unfold execWindowRead
  repeat' first
    | with_reducible assumption
    | with_reducible apply readWindow_same
    | with_reducible apply OutSame.next
    | exact sub_of hp (by decide)
    | intro _
    | dsimp only

theorem execWindowWrite_same {ps : List StatePart} {base s : State} (hk : Same ps base s) (o : Origin) (addr : BitVec 40) (data : List Byte)
    (hp : ([.hmem, .gwin, .resp] : List StatePart) ⊆ ps := by exact sub_of (by assumption) (by decide)) : OutSame ps base (execWindowWrite o addr data s) := by
  unfold execWindowWrite
  repeat' first
    | with_reducible assumption
    | with_reducible apply writeWindow_same
    | with_reducible apply OutSame.next
    | exact sub_of hp (by decide)
    | intro _
    | dsimp only

theorem execPclr_same {ps : List StatePart} {base s : State} (hk : Same ps base s) (o : Origin) (yard : YardId) (shed : ShedNo)
    (hp : ([.sheds, .resp] : List StatePart) ⊆ ps := by exact sub_of (by assumption) (by decide)) : OutSame ps base (execPclr o yard shed s) := by
  unfold execPclr
  repeat' first
    | with_reducible assumption
    | with_reducible apply writePred_same
    | with_reducible apply asAuth_same
    | with_reducible apply Same.ite
    | with_reducible apply OutSame.next
    | exact sub_of hp (by decide)
    | intro _
    | dsimp only
    | split

theorem transact_same {ps : List StatePart} {base s : State} (hk : Same ps base s) (o : Origin) (t : Trans)
    (hp : ([.dev, .fuses, .grm, .pwr, .thm, .err, .sec, .mbx, .mars, .ports, .yards, .sheds, .psheds, .stalls, .routeA, .routeB, .track, .nextId, .rm, .lunge, .i3c, .tap, .pins, .hmem, .gwin, .fresh, .resp, .pending] : List StatePart) ⊆ ps := by exact sub_of (by assumption) (by decide)) : Same ps base (transact o t s) := by
  unfold transact
  repeat' first
    | with_reducible assumption
    | with_reducible apply readReg_same
    | with_reducible apply writeReg_same
    | with_reducible apply readWindow_same
    | with_reducible apply writeWindow_same
    | with_reducible apply answer_same
    | with_reducible apply Same.ite
    | exact sub_of hp (by decide)
    | intro _
    | dsimp only
    | split

theorem respond_same {ps : List StatePart} {base s : State} (hk : Same ps base s) (p : Nat) (w1 : Nat) (payload : List Byte) (r : Resp)
    (hp : ([.ports] : List StatePart) ⊆ ps := by exact sub_of (by assumption) (by decide)) : Same ps base (respond s p w1 payload r) := by
  unfold respond
  repeat' first
    | with_reducible assumption
    | with_reducible apply sendCar_same
    | with_reducible apply Same.ite
    | exact sub_of hp (by decide)
    | intro _
    | dsimp only
    | split

theorem forward_same {ps : List StatePart} {base s : State} (hk : Same ps base s) (p : Nat) (w1 : Nat) (payload : List Byte)
    (hp : ([.ports] : List StatePart) ⊆ ps := by exact sub_of (by assumption) (by decide)) : Same ps base (forward s p w1 payload) := by
  unfold forward
  repeat' first
    | exact Or.inr (partIn hp (by decide))
    | with_reducible exact Or.inl rfl
    | with_reducible assumption
    | with_reducible apply sendCar_same
    | with_reducible apply modPort_same
    | exact sub_of hp (by decide)
    | intro _
    | dsimp only
    | split
    | with_reducible refine Same.upd ?_ ?_ ?_ ?_ ?_ ?_ ?_ ?_ ?_ ?_ ?_ ?_ ?_ ?_ ?_ ?_ ?_ ?_ ?_ ?_ ?_ ?_ ?_ ?_ ?_ ?_ ?_ ?_

theorem dropBridged_same {ps : List StatePart} {base s : State} (hk : Same ps base s) (p : Nat) (f : Bridged → Bool)
    (hp : ([.ports] : List StatePart) ⊆ ps := by exact sub_of (by assumption) (by decide)) : Same ps base (dropBridged s p f) := by
  unfold dropBridged
  repeat' first
    | exact Or.inr (partIn hp (by decide))
    | with_reducible exact Or.inl rfl
    | with_reducible assumption
    | with_reducible apply modPort_same
    | exact sub_of hp (by decide)
    | intro _
    | dsimp only
    | with_reducible refine Same.upd ?_ ?_ ?_ ?_ ?_ ?_ ?_ ?_ ?_ ?_ ?_ ?_ ?_ ?_ ?_ ?_ ?_ ?_ ?_ ?_ ?_ ?_ ?_ ?_ ?_ ?_ ?_ ?_

theorem takeResponse_same {ps : List StatePart} {base s : State} (hk : Same ps base s) (p : Nat) (w1 : Nat) (payload : List Byte)
    (hp : ([.ports] : List StatePart) ⊆ ps := by exact sub_of (by assumption) (by decide)) : Same ps base (takeResponse s p w1 payload) := by
  unfold takeResponse
  repeat' first
    | exact Or.inr (partIn hp (by decide))
    | with_reducible exact Or.inl rfl
    | with_reducible assumption
    | with_reducible apply dropBridged_same
    | with_reducible apply sendCar_same
    | exact sub_of hp (by decide)
    | intro _
    | dsimp only
    | split
    | with_reducible refine Same.upd ?_ ?_ ?_ ?_ ?_ ?_ ?_ ?_ ?_ ?_ ?_ ?_ ?_ ?_ ?_ ?_ ?_ ?_ ?_ ?_ ?_ ?_ ?_ ?_ ?_ ?_ ?_ ?_

theorem takeRequest_same {ps : List StatePart} {base s : State} (hk : Same ps base s) (p : Nat) (w1 : Nat) (payload : List Byte)
    (hp : ([.dev, .fuses, .grm, .pwr, .thm, .err, .sec, .mbx, .mars, .ports, .yards, .sheds, .psheds, .stalls, .routeA, .routeB, .track, .nextId, .rm, .lunge, .i3c, .tap, .pins, .hmem, .gwin, .fresh, .resp, .pending] : List StatePart) ⊆ ps := by exact sub_of (by assumption) (by decide)) : Same ps base (takeRequest s p w1 payload) := by
  unfold takeRequest
  repeat' first
    | with_reducible assumption
    | with_reducible apply transact_same
    | with_reducible apply respond_same
    | with_reducible apply forward_same
    | with_reducible apply Same.ite
    | exact sub_of hp (by decide)
    | intro _
    | dsimp only
    | split

theorem execMgmt_same {ps : List StatePart} {base s : State} (hk : Same ps base s) (port : PortId) (car : RxCar)
    (hp : ([.dev, .fuses, .grm, .pwr, .thm, .err, .sec, .mbx, .mars, .ports, .yards, .sheds, .psheds, .stalls, .routeA, .routeB, .track, .nextId, .rm, .lunge, .i3c, .tap, .pins, .hmem, .gwin, .fresh, .resp, .pending] : List StatePart) ⊆ ps := by exact sub_of (by assumption) (by decide)) : OutSame ps base (execMgmt port car s) := by
  unfold execMgmt
  refine OutSame.next ?_
  with_reducible refine Same.ite hk ?_
  have hg := receiveCar_same hk port car
  revert hg
  cases receiveCar s port car <;> intro hg <;> have hg' : Same ps base _ := hg <;> clear hg <;> dsimp only
  all_goals repeat' first
    | with_reducible assumption
    | with_reducible apply takeResponse_same
    | with_reducible apply takeRequest_same
    | with_reducible apply Same.ite
    | with_reducible apply OutSame.next
    | exact sub_of hp (by decide)
    | intro _
    | dsimp only
    | split
    | exact Or.inr (partIn hp (by decide))
    | with_reducible exact Or.inl rfl
    | with_reducible refine Same.upd ?_ ?_ ?_ ?_ ?_ ?_ ?_ ?_ ?_ ?_ ?_ ?_ ?_ ?_ ?_ ?_ ?_ ?_ ?_ ?_ ?_ ?_ ?_ ?_ ?_ ?_ ?_ ?_

theorem execBridgeTimeout_same {ps : List StatePart} {base s : State} (hk : Same ps base s) (port : PortId) (tid : BitVec 16)
    (hp : ([.ports] : List StatePart) ⊆ ps := by exact sub_of (by assumption) (by decide)) : OutSame ps base (execBridgeTimeout port tid s) := by
  unfold execBridgeTimeout
  repeat' first
    | exact Or.inr (partIn hp (by decide))
    | with_reducible exact Or.inl rfl
    | with_reducible assumption
    | with_reducible apply respond_same
    | with_reducible apply dropBridged_same
    | with_reducible apply OutSame.next
    | exact sub_of hp (by decide)
    | intro _
    | dsimp only
    | split
    | with_reducible refine Same.upd ?_ ?_ ?_ ?_ ?_ ?_ ?_ ?_ ?_ ?_ ?_ ?_ ?_ ?_ ?_ ?_ ?_ ?_ ?_ ?_ ?_ ?_ ?_ ?_ ?_ ?_ ?_ ?_

/-! Electrical. -/

theorem State.off_same {ps : List StatePart} {base s : State} (hk : Same ps base s) 
    (hp : ([.dev, .fuses, .grm, .pwr, .thm, .err, .sec, .mbx, .mars, .ports, .yards, .sheds, .psheds, .stalls, .routeA, .routeB, .track, .nextId, .rm, .lunge, .i3c, .tap, .pins, .hmem, .gwin, .fresh, .resp, .pending] : List StatePart) ⊆ ps := by exact sub_of (by assumption) (by decide)) : Same ps base (State.off s) := by
  unfold State.off
  repeat' first
    | exact Or.inr (partIn hp (by decide))
    | with_reducible exact Or.inl rfl
    | with_reducible assumption
    | with_reducible apply State.cold_same
    | exact sub_of hp (by decide)
    | intro _
    | dsimp only
    | with_reducible refine Same.upd ?_ ?_ ?_ ?_ ?_ ?_ ?_ ?_ ?_ ?_ ?_ ?_ ?_ ?_ ?_ ?_ ?_ ?_ ?_ ?_ ?_ ?_ ?_ ?_ ?_ ?_ ?_ ?_

theorem execFeedChange_same {ps : List StatePart} {base s : State} (hk : Same ps base s) (feedB : Bool) (present : Bool) (rideThrough : Bool)
    (hp : ([.dev, .fuses, .grm, .pwr, .thm, .err, .sec, .mbx, .mars, .ports, .yards, .sheds, .psheds, .stalls, .routeA, .routeB, .track, .nextId, .rm, .lunge, .i3c, .tap, .pins, .hmem, .gwin, .fresh, .resp, .pending] : List StatePart) ⊆ ps := by exact sub_of (by assumption) (by decide)) : OutSame ps base (execFeedChange feedB present rideThrough s) := by
  unfold execFeedChange
  repeat' first
    | exact Or.inr (partIn hp (by decide))
    | with_reducible exact Or.inl rfl
    | with_reducible assumption
    | with_reducible apply State.off_same
    | with_reducible apply Same.ite
    | with_reducible apply OutSame.next
    | exact sub_of hp (by decide)
    | intro _
    | dsimp only
    | split
    | with_reducible refine Same.upd ?_ ?_ ?_ ?_ ?_ ?_ ?_ ?_ ?_ ?_ ?_ ?_ ?_ ?_ ?_ ?_ ?_ ?_ ?_ ?_ ?_ ?_ ?_ ?_ ?_ ?_ ?_ ?_

theorem execPowerOn_same {ps : List StatePart} {base s : State} (hk : Same ps base s) (feedB : Bool)
    (hp : ([.dev, .fuses, .grm, .pwr, .thm, .err, .sec, .mbx, .mars, .ports, .yards, .sheds, .psheds, .stalls, .routeA, .routeB, .track, .nextId, .rm, .lunge, .i3c, .tap, .pins, .hmem, .gwin, .fresh, .resp, .pending] : List StatePart) ⊆ ps := by exact sub_of (by assumption) (by decide)) : OutSame ps base (execPowerOn feedB s) := by
  unfold execPowerOn
  repeat' first
    | exact Or.inr (partIn hp (by decide))
    | with_reducible exact Or.inl rfl
    | with_reducible assumption
    | with_reducible apply State.cold_same
    | with_reducible apply Same.ite
    | with_reducible apply OutSame.next
    | exact sub_of hp (by decide)
    | intro _
    | dsimp only
    | split
    | with_reducible refine Same.upd ?_ ?_ ?_ ?_ ?_ ?_ ?_ ?_ ?_ ?_ ?_ ?_ ?_ ?_ ?_ ?_ ?_ ?_ ?_ ?_ ?_ ?_ ?_ ?_ ?_ ?_ ?_ ?_

theorem i3cWrite_same {ps : List StatePart} {base s : State} (hk : Same ps base s) (bytes : List Byte)
    (hp : ([.dev, .fuses, .grm, .pwr, .thm, .err, .sec, .mbx, .mars, .ports, .yards, .sheds, .psheds, .stalls, .routeA, .routeB, .track, .nextId, .rm, .lunge, .i3c, .tap, .pins, .hmem, .gwin, .fresh, .resp, .pending] : List StatePart) ⊆ ps := by exact sub_of (by assumption) (by decide)) : Same ps base (i3cWrite bytes s) := by
  unfold i3cWrite
  repeat' first
    | exact Or.inr (partIn hp (by decide))
    | with_reducible exact Or.inl rfl
    | with_reducible assumption
    | with_reducible apply transact_same
    | exact sub_of hp (by decide)
    | intro _
    | dsimp only
    | split
    | with_reducible refine Same.upd ?_ ?_ ?_ ?_ ?_ ?_ ?_ ?_ ?_ ?_ ?_ ?_ ?_ ?_ ?_ ?_ ?_ ?_ ?_ ?_ ?_ ?_ ?_ ?_ ?_ ?_ ?_ ?_

theorem i3cRead_same {ps : List StatePart} {base s : State} (hk : Same ps base s) 
    (hp : ([.i3c] : List StatePart) ⊆ ps := by exact sub_of (by assumption) (by decide)) : Same ps base (i3cRead s) := by
  unfold i3cRead
  repeat' first
    | exact Or.inr (partIn hp (by decide))
    | with_reducible exact Or.inl rfl
    | with_reducible assumption
    | exact sub_of hp (by decide)
    | intro _
    | dsimp only
    | with_reducible refine Same.upd ?_ ?_ ?_ ?_ ?_ ?_ ?_ ?_ ?_ ?_ ?_ ?_ ?_ ?_ ?_ ?_ ?_ ?_ ?_ ?_ ?_ ?_ ?_ ?_ ?_ ?_ ?_ ?_

theorem execI3cTransaction_same {ps : List StatePart} {base s : State} (hk : Same ps base s) (op : I3cOp)
    (hp : ([.dev, .fuses, .grm, .pwr, .thm, .err, .sec, .mbx, .mars, .ports, .yards, .sheds, .psheds, .stalls, .routeA, .routeB, .track, .nextId, .rm, .lunge, .i3c, .tap, .pins, .hmem, .gwin, .fresh, .resp, .pending] : List StatePart) ⊆ ps := by exact sub_of (by assumption) (by decide)) : OutSame ps base (execI3cTransaction op s) := by
  unfold execI3cTransaction
  repeat' first
    | exact Or.inr (partIn hp (by decide))
    | with_reducible exact Or.inl rfl
    | with_reducible assumption
    | with_reducible apply i3cWrite_same
    | with_reducible apply i3cRead_same
    | with_reducible apply Same.ite
    | with_reducible apply OutSame.next
    | exact sub_of hp (by decide)
    | intro _
    | dsimp only
    | split
    | with_reducible refine Same.upd ?_ ?_ ?_ ?_ ?_ ?_ ?_ ?_ ?_ ?_ ?_ ?_ ?_ ?_ ?_ ?_ ?_ ?_ ?_ ?_ ?_ ?_ ?_ ?_ ?_ ?_ ?_ ?_

theorem execI3cCcc_same {ps : List StatePart} {base s : State} (hk : Same ps base s) (ccc : I3cCcc)
    (hp : ([.i3c, .fresh] : List StatePart) ⊆ ps := by exact sub_of (by assumption) (by decide)) : OutSame ps base (execI3cCcc ccc s) := by
  unfold execI3cCcc
  unfold takeFresh
  repeat' first
    | exact Or.inr (partIn hp (by decide))
    | with_reducible exact Or.inl rfl
    | with_reducible assumption
    | with_reducible apply Same.ite
    | with_reducible apply OutSame.next
    | exact sub_of hp (by decide)
    | intro _
    | dsimp only
    | split
    | with_reducible refine Same.upd ?_ ?_ ?_ ?_ ?_ ?_ ?_ ?_ ?_ ?_ ?_ ?_ ?_ ?_ ?_ ?_ ?_ ?_ ?_ ?_ ?_ ?_ ?_ ?_ ?_ ?_ ?_ ?_

theorem execExtest_same {ps : List StatePart} {base s : State} (hk : Same ps base s) (drive : List Bool)
    (hp : ([.tap, .fresh] : List StatePart) ⊆ ps := by exact sub_of (by assumption) (by decide)) : OutSame ps base (execExtest drive s) := by
  unfold execExtest
  unfold takeFresh
  repeat' first
    | exact Or.inr (partIn hp (by decide))
    | with_reducible exact Or.inl rfl
    | with_reducible assumption
    | with_reducible apply Same.ite
    | with_reducible apply OutSame.next
    | exact sub_of hp (by decide)
    | intro _
    | dsimp only
    | split
    | with_reducible refine Same.upd ?_ ?_ ?_ ?_ ?_ ?_ ?_ ?_ ?_ ?_ ?_ ?_ ?_ ?_ ?_ ?_ ?_ ?_ ?_ ?_ ?_ ?_ ?_ ?_ ?_ ?_ ?_ ?_

theorem execIdcode_same {ps : List StatePart} {base s : State} (hk : Same ps base s) 
    (hp : ([.tap] : List StatePart) ⊆ ps := by exact sub_of (by assumption) (by decide)) : OutSame ps base (execIdcode s) := by
  unfold execIdcode
  repeat' first
    | exact Or.inr (partIn hp (by decide))
    | with_reducible exact Or.inl rfl
    | with_reducible assumption
    | with_reducible apply OutSame.next
    | exact sub_of hp (by decide)
    | intro _
    | dsimp only
    | with_reducible refine Same.upd ?_ ?_ ?_ ?_ ?_ ?_ ?_ ?_ ?_ ?_ ?_ ?_ ?_ ?_ ?_ ?_ ?_ ?_ ?_ ?_ ?_ ?_ ?_ ?_ ?_ ?_ ?_ ?_

theorem execSamplePreload_same {ps : List StatePart} {base s : State} (hk : Same ps base s) (preload : List Bool)
    (hp : ([.tap, .fresh] : List StatePart) ⊆ ps := by exact sub_of (by assumption) (by decide)) : OutSame ps base (execSamplePreload preload s) := by
  unfold execSamplePreload
  unfold takeFresh
  repeat' first
    | exact Or.inr (partIn hp (by decide))
    | with_reducible exact Or.inl rfl
    | with_reducible assumption
    | with_reducible apply OutSame.next
    | exact sub_of hp (by decide)
    | intro _
    | dsimp only
    | split
    | with_reducible refine Same.upd ?_ ?_ ?_ ?_ ?_ ?_ ?_ ?_ ?_ ?_ ?_ ?_ ?_ ?_ ?_ ?_ ?_ ?_ ?_ ?_ ?_ ?_ ?_ ?_ ?_ ?_ ?_ ?_

theorem execBypass_same {ps : List StatePart} {base s : State} (hk : Same ps base s) 
    (hp : ([.tap] : List StatePart) ⊆ ps := by exact sub_of (by assumption) (by decide)) : OutSame ps base (execBypass s) := by
  unfold execBypass
  repeat' first
    | exact Or.inr (partIn hp (by decide))
    | with_reducible exact Or.inl rfl
    | with_reducible assumption
    | with_reducible apply OutSame.next
    | exact sub_of hp (by decide)
    | intro _
    | dsimp only
    | with_reducible refine Same.upd ?_ ?_ ?_ ?_ ?_ ?_ ?_ ?_ ?_ ?_ ?_ ?_ ?_ ?_ ?_ ?_ ?_ ?_ ?_ ?_ ?_ ?_ ?_ ?_ ?_ ?_ ?_ ?_

theorem execTapReset_same {ps : List StatePart} {base s : State} (hk : Same ps base s) 
    (hp : ([.tap] : List StatePart) ⊆ ps := by exact sub_of (by assumption) (by decide)) : OutSame ps base (execTapReset s) := by
  unfold execTapReset
  repeat' first
    | exact Or.inr (partIn hp (by decide))
    | with_reducible exact Or.inl rfl
    | with_reducible assumption
    | with_reducible apply OutSame.next
    | exact sub_of hp (by decide)
    | intro _
    | dsimp only
    | with_reducible refine Same.upd ?_ ?_ ?_ ?_ ?_ ?_ ?_ ?_ ?_ ?_ ?_ ?_ ?_ ?_ ?_ ?_ ?_ ?_ ?_ ?_ ?_ ?_ ?_ ?_ ?_ ?_ ?_ ?_

end Sys2Proof.Machine
end

