-- ==== Sys2Proof/Laws/Words.lean ====
section
/-! SUPPORT. What the shared operations of the routine words do, each once: the issue of a word, its retirement, its holds. -/

namespace Sys2Proof.Machine

theorem bit_iff (v i : Nat) : bitOf v i = decide (bitsOf v i i = 1) := by
  simp [bitOf, bitsOf, Nat.testBit, Nat.and_comm]

/-- A word that the sequencer issues is executed and ended. -/
theorem issueWord_of_issues {s : State} {sid op : Nat} {fs : List (Nat × Nat)} (h : Issues s sid op fs) (ho : unassignedOp op = false)
    (body : Stall → Nat → WordEnd) :
    issueWord s sid op body = finishWord sid (s.stall sid).seq.pc (body (s.stall sid) (wordAt (s.stall sid))) := by
  obtain ⟨h1, h2, _⟩ := h
  simp [issueWord, h1, h2, ho]

/-- A stall that cannot issue does nothing. -/
theorem issueWord_idle {s : State} {sid op : Nat} (h : canIssue s sid = false) (body : Stall → Nat → WordEnd) :
    issueWord s sid op body = s := by simp [issueWord, h]

@[simp] theorem putStall_stall {s : State} (h : gwf s.stalls = true) (sid : Nat) (u : Stall) : (putStall s sid u).stall sid = u := by
  simp [State.stall, gget_gset_self h]

theorem Canonical.put {s : State} (h : Canonical s) (sid : Nat) (u : Stall) : Canonical (putStall s sid u) := by
  obtain ⟨h1, h2, h3, h4, h5, h6, h7, h8, h9, h10, h11⟩ := h
  exact ⟨gwf_gset h1 _ _, h2, h3, h4, h5, h6, h7, h8, h9, h10, h11⟩

theorem putStall_self_mod {s : State} (sid : Nat) (f : Stall → Stall) : modStall s sid f = putStall s sid (f (s.stall sid)) := rfl

theorem modStall_putStall {s : State} (h : gwf s.stalls = true) (sid : Nat) (u : Stall) (f : Stall → Stall) :
    modStall (putStall s sid u) sid f = putStall s sid (f u) := by
  simp only [modStall, putStall, gmod_gset h]

/-- A word's retirement with the stall it leaves. -/
theorem retireAt_putStall {s : State} (h : gwf s.stalls = true) (sid : Nat) (u : Stall) (pc : Nat) (loops : List Loop) (cost : Nat) :
    retireAt (putStall s sid u) sid pc loops cost = retired s sid u pc loops cost := by
  unfold retireAt modSeq
  rw [modStall_putStall h]
  rfl

theorem goOn_putStall {s : State} (h : gwf s.stalls = true) (sid : Nat) (u : Stall) (at' cost : Nat) :
    goOn (putStall s sid u) sid (s.stall sid).seq.pc at' cost = goesOn s sid u at' cost := by
  simp only [goOn, goesOn, putStall_stall h, retireAt_putStall h]

/-- A stall put back as it stands. -/
theorem putStall_stall_self {s : State} (h : gwf s.stalls = true) (sid : Nat) : putStall s sid (s.stall sid) = s := by
  have key : gset s.stalls sid (gget s.stalls sid) = s.stalls := by
    obtain ⟨⟨d, l⟩, hm⟩ : ∃ m, s.stalls = m := ⟨_, rfl⟩
    have hw := h
    rw [hm] at hw ⊢
    simp only [gwf, Bool.and_eq_true, List.all_eq_true, decide_eq_true_eq] at hw
    obtain ⟨hr, hd⟩ := hw
    have ins : ∀ (lo : Nat) (l : List (Nat × Stall)), keysRise lo l = true → ∀ v, lookupKey sid l = some v → insertKey sid v l = l := by
      intro lo l
      induction l generalizing lo with
      | nil => intro _ v hv; simp [lookupKey] at hv
      | cons c r ih =>
        obtain ⟨j, w⟩ := c
        intro hr v hv
        simp [keysRise] at hr
        by_cases hj : j = sid
        · subst hj; simp [lookupKey] at hv; simp [insertKey, hv]
        · simp [lookupKey, hj] at hv
          have hlt : ¬ sid < j := by
            intro hlt
            have := lookupKey_below hr.2 (show sid < j + 1 by omega)
            rw [this] at hv; cases hv
          simp [insertKey, hlt, hj, ih _ hr.2 v hv]
    have era : ∀ (lo : Nat) (l : List (Nat × Stall)), keysRise lo l = true → lookupKey sid l = none → eraseKey sid l = l := by
      intro lo l
      induction l generalizing lo with
      | nil => intros; rfl
      | cons c r ih =>
        obtain ⟨j, w⟩ := c
        intro hr hv
        simp [keysRise] at hr
        by_cases hj : j = sid
        · simp [lookupKey, hj] at hv
        · simp [lookupKey, hj] at hv
          simp [eraseKey, hj, ih _ hr.2 hv]
    have mem : ∀ (l : List (Nat × Stall)) v, lookupKey sid l = some v → (sid, v) ∈ l := by
      intro l
      induction l with
      | nil => intro v hv; simp [lookupKey] at hv
      | cons c r ih =>
        obtain ⟨j, w⟩ := c
        intro v hv
        by_cases hj : j = sid
        · subst hj; simp [lookupKey] at hv; simp [hv]
        · simp [lookupKey, hj] at hv; exact List.mem_cons_of_mem _ (ih v hv)
    unfold gset gget
    cases hl : lookupKey sid l with
    | none => simp [era 0 l hr hl]
    | some v =>
      have : v ≠ d := hd _ (mem l v hl)
      simp [this, ins 0 l hr v hl]
  simp only [putStall, State.stall, key]

theorem goOn_self {s : State} (h : gwf s.stalls = true) (sid at' cost : Nat) :
    goOn s sid (s.stall sid).seq.pc at' cost = goesOn s sid (s.stall sid) at' cost := by
  have := goOn_putStall h sid (s.stall sid) at' cost
  rwa [putStall_stall_self h] at this

theorem retireAt_self {s : State} (h : gwf s.stalls = true) (sid pc : Nat) (loops : List Loop) (cost : Nat) :
    retireAt s sid pc loops cost = retired s sid (s.stall sid) pc loops cost := by
  have := retireAt_putStall h sid (s.stall sid) pc loops cost
  rwa [putStall_stall_self h] at this

/-- A wait of unstated length at a stall. -/
theorem passFree_putStall {s : State} (h : gwf s.stalls = true) (sid : Nat) (u : Stall) : passFree (putStall s sid u) sid = waited s sid u := by
  simp only [passFree, takeFresh, passCycles, modSeq, modStall, putStall, waited, gmod_gset h]

theorem passFree_self {s : State} (h : gwf s.stalls = true) (sid : Nat) : passFree s sid = waited s sid (s.stall sid) := by
  have := passFree_putStall h sid (s.stall sid)
  rwa [putStall_stall_self h] at this

/-! The ends of a word, by what it leaves. -/

theorem finish_retire {s : State} (h : gwf s.stalls = true) (sid : Nat) (u : Stall) (cost : Nat) :
    finishWord sid (s.stall sid).seq.pc (.retire (putStall s sid u) cost false) = after s sid u cost := by
  simp only [finishWord, after, Bool.false_eq_true, if_false, goOn_putStall h]

theorem finish_retire_self {s : State} (h : gwf s.stalls = true) (sid cost : Nat) :
    finishWord sid (s.stall sid).seq.pc (.retire s cost false) = after s sid (s.stall sid) cost := by
  simp only [finishWord, after, Bool.false_eq_true, if_false, goOn_self h]

theorem finish_jump {s : State} (h : gwf s.stalls = true) (sid target cost : Nat) :
    finishWord sid (s.stall sid).seq.pc (.jump s target cost) =
      retired s sid (s.stall sid) target (popLoops target (s.stall sid).seq.loops) cost := by
  simp only [finishWord, retireAt_self h]

theorem finish_skip {s : State} (h : gwf s.stalls = true) (sid last cost : Nat) :
    finishWord sid (s.stall sid).seq.pc (.skipTo s last cost) = goesOn s sid (s.stall sid) last cost := by
  simp only [finishWord, goOn_self h]

theorem finish_hold {s : State} (h : gwf s.stalls = true) (sid run : Nat) :
    finishWord sid (s.stall sid).seq.pc (.hold s run) = holds s sid run := by
  simp only [finishWord, passFree, takeFresh, passCycles, modSeq, modStall, holds, gmod, gset_gset h, gget_gset_self h, State.stall]

theorem finish_retire_port {s : State} (h : gwf s.stalls = true) (sid : Nat) (u : Stall) (cost : Nat) (port : Bool) :
    finishWord sid (s.stall sid).seq.pc (.retire (putStall s sid u) cost port) = afterPort s sid u port cost := by
  cases port with
  | false => simp only [afterPort, Bool.false_eq_true, if_false]; exact finish_retire h sid u cost
  | true =>
    have h' : gwf ({ s with fresh := s.fresh + 1 } : State).stalls = true := h
    simp only [afterPort, if_true, finishWord, passFree_putStall h]
    exact goOn_putStall (s := { s with fresh := s.fresh + 1 }) h' sid _ _ cost

/-! The records that a word makes stand beside the stall it leaves: neither reads the other. -/

/-- The journal entry and the calls of a record that sets a sticky bit (R391, R417). -/
def recordCalls (s : State) (newly captured : Bool) (code : Nat) (src : Src) : State :=
  if newly then
    if bitOf s.err.alerten code then ringCore (raiseIrq (journal s 8 [code, b2n captured, src.kind, src.loc, 1]) 4) 9 1
    else journal s 8 [code, b2n captured, src.kind, src.loc, 1]
  else s
theorem recordWith_eq (s : State) (code : Nat) (src : Src) (enters : Bool) :
    recordWith s code src enters =
      recordCalls (markSheds { s with err := s.err.record code src (enters && (activePlace s).isSome) s.dev.wall } code src)
        (!bitOf s.err.sticky code) (!s.err.fvalid) code src := rfl
theorem callCore_put (s : State) (sid : Nat) (u : Stall) (n old : Nat) : callCore (putStall s sid u) n old = putStall (callCore s n old) sid u := by
  unfold callCore
  rw [show (putStall s sid u).box n = s.box n from rfl]
  dsimp only
  by_cases h1 : (s.box n).calling &&& (old ^^^ 0xFFFFFFFF) = 0
  · rw [if_pos h1, if_pos h1]
  rw [if_neg h1, if_neg h1]
  by_cases h2 : n = 2 ∨ n = 6 ∨ n = 9
  · rw [if_pos h2, if_pos h2]; rfl
  rw [if_neg h2, if_neg h2]
  by_cases h3 : n = 0 ∨ n = 4 ∨ n = 8
  · rw [if_pos h3, if_pos h3]; rfl
  · rw [if_neg h3, if_neg h3]
theorem ringCore_put (s : State) (sid : Nat) (u : Stall) (n b : Nat) : ringCore (putStall s sid u) n b = putStall (ringCore s n b) sid u := by
  unfold ringCore
  exact callCore_put (modBox s n fun x => { x with door := x.door ||| b }) sid u n _
theorem markSheds_put (s : State) (sid : Nat) (u : Stall) (c : Nat) (src : Src) :
    markSheds (putStall s sid u) c src = putStall (markSheds s c src) sid u := by
  cases src <;> simp only [markSheds, modShed, putStall]
theorem recordCalls_put (s : State) (sid : Nat) (u : Stall) (n c : Bool) (code : Nat) (src : Src) :
    recordCalls (putStall s sid u) n c code src = putStall (recordCalls s n c code src) sid u := by
  cases n
  · rfl
  · unfold recordCalls
    rw [show (putStall s sid u).err = s.err from rfl]
    by_cases h : bitOf s.err.alerten code = true
    · simp only [h, if_true]; exact ringCore_put (raiseIrq (journal s 8 _) 4) sid u 9 1
    · simp only [h, if_true]; rfl
theorem recordWith_put (s : State) (sid : Nat) (u : Stall) (c : Nat) (src : Src) (b : Bool) :
    recordWith (putStall s sid u) c src b = putStall (recordWith s c src b) sid u := by
  simp only [recordWith_eq]
  rw [← recordCalls_put, ← markSheds_put]
  rfl
theorem record_put (s : State) (sid : Nat) (u : Stall) (c : Nat) (src : Src) :
    record (putStall s sid u) c src = putStall (record s c src) sid u := recordWith_put ..
theorem record_stalls (s : State) (c : Nat) (src : Src) : (record s c src).stalls = s.stalls :=
  (record_same (ps := [.grm, .err, .mbx, .sheds]) (Same.refl (s := s)) c src (by decide)).kept .stalls (by decide)
theorem parity_put (s : State) (sid : Nat) (u : Stall) (par : Bool) : parity (putStall s sid u) sid par = putStall (parity s sid par) sid u := by
  cases par
  · rfl
  · exact record_put ..
theorem parity_stalls (s : State) (sid : Nat) (par : Bool) : (parity s sid par).stalls = s.stalls := by
  cases par
  · rfl
  · exact record_stalls ..
theorem stall_eq {s t : State} (h : t.stalls = s.stalls) (sid : Nat) : t.stall sid = s.stall sid := by simp only [State.stall, h]

end Sys2Proof.Machine
end

