-- ==== Sys2Proof/Tests/Slice0.lean ====
section
/-! SUPPORT. Small tests whose expected values come from the spec's worked examples and tables, and, for each statement with
hypotheses, a witness that a concrete state meets them. -/

namespace Sys2Proof.Tests

open Sys2Proof Sys2Proof.Machine

set_option maxRecDepth 20000
set_option exponentiation.threshold 2048

/-! What the tests are built from. -/

/-- The state after reset with one stall, stall 0, set to `u`. -/
def lone (u : Stall) : State := { State.reset with stalls := ⟨Stall.atReset, [(0, u)]⟩ }

/-- A routine word: its opcode and its fields, each with its value and its lowest bit. -/
def word (op : Nat) (fs : List (Nat × Nat)) : Word64 := BitVec.ofNat 64 (fs.foldl (fun a f => a + f.1 * 2 ^ f.2) (op * 2 ^ 58))

/-- An open stall whose sequencer stands at word 0, which is `w`, with these scalar registers and generators. -/
def running (w : Word64) (regs : List (Nat × Word32)) (gens : List (Nat × AddrGen)) : Stall :=
  { Stall.atReset with
    opened := true, active := { Cfg.idle with store := ⟨0, [(0, w)]⟩ },
    seq := { Seq.start with run := 1, sregs := ⟨0, regs⟩, ags := ⟨AddrGen.atFlip, gens⟩ } }

/-- A generator at the start of a space. -/
def gen (space : Nat) (addr : Int) : AddrGen := { AddrGen.atFlip with space := space, base := addr, row := addr, addr := addr }

/-- The state whose stall 0 runs the word. -/
def at0 (w : Word64) (regs : List (Nat × Word32)) : State := lone (running w regs [])

/-- What holds of the next state, if there is one. -/
def next (o : Host.Outcome State Fault Refusal) (f : State → Bool) : Bool :=
  match o with
  | .next t => f t
  | .fault _ => false
  | .refused _ => false

/-- The check of `Canonical` on a concrete state. -/
def canonB (s : State) : Bool :=
  gwf s.stalls && gwf s.sheds && gwf s.yards && gwf s.psheds && gwf s.ports && gwf s.sec.places && gwf s.mars.buckets &&
  gwf s.mbx.boxes && gwf s.mbx.rings && Memory.wf s.hmem && Memory.wf s.gwin

theorem canonical_of {s : State} (h : canonB s = true) : Canonical s := by
  simp only [canonB, Bool.and_eq_true] at h
  obtain ⟨⟨⟨⟨⟨⟨⟨⟨⟨⟨h1, h2⟩, h3⟩, h4⟩, h5⟩, h6⟩, h7⟩, h8⟩, h9⟩, h10⟩, h11⟩ := h
  exact ⟨h1, h2, h3, h4, h5, h6, h7, h8, h9, h10, h11⟩

/-- The hypotheses of the statements about a routine word, for stall 0. -/
def Ready (s : State) (op : Nat) (fs : List (Nat × Nat)) : Prop := Canonical s ∧ Issues s 0 op fs

/-- The check of `Ready` on a concrete state. -/
def readyB (s : State) (op : Nat) (fs : List (Nat × Nat)) : Bool :=
  canonB s && canIssue s 0 && decide (bitsOf (wordAt (s.stall 0)) 63 58 = op) && onlyFields (wordAt (s.stall 0)) fs

theorem ready_of {s : State} {op : Nat} {fs : List (Nat × Nat)} (h : readyB s op fs = true) : Ready s op fs := by
  simp only [readyB, Bool.and_eq_true, decide_eq_true_eq] at h
  obtain ⟨⟨⟨h1, h2⟩, h3⟩, h4⟩ := h
  exact ⟨canonical_of h1, h2, h3, h4⟩

/-! Ill-formed terms are no commands. -/

theorem test_wf_route_entries : Instr.wf (.routeTableWrite false 0 (List.replicate 63 0#8)) = false := by decide
theorem test_wf_training_lanes : Instr.wf (.trainingAttemptEnd 0 (List.replicate 9 ⟨0, true, false, true⟩)) = false := by decide
theorem test_wf_window_lanes : Instr.wf (.berWindow 0 (List.replicate 8 0) 0 (List.replicate 7 false)) = false := by decide
theorem test_wf_window_counts : Instr.wf (.berWindow 0 (List.replicate 7 0) 0 (List.replicate 8 false)) = false := by decide
theorem test_wf_reading : Instr.wf (.sensorSample [⟨0, [some 20, some 20, some 20], [some 20, some 20, some 20]⟩] []) = false := by decide
theorem test_wf_reading_loft : Instr.wf (.sensorSample [⟨0, [some 20, some 20, some 20, some 20], [some 20]⟩] []) = false := by decide
theorem test_wf_stops : exec (.routeTableWrite false 0 []) State.reset = .fault .malformedCommand := rfl

/-! The grid: the worked examples of R4 and R16, and of the addresses of R28, R243 and R472. -/

theorem test_grid_stall : yardOf 717100 = 42 ∧ shedInYard 717100 = 26 ∧ stallInShed 717100 = 204 := by decide
theorem test_grid_physical : place 2 15 = 2 ∧ place 12 5 = 13 ∧ physOf (42 * 72 + 3 * 9 + 2) 12 13 = 857153 := by decide
theorem test_grid_moved : place 2 2 = 3 ∧ physOf (42 * 72 + 3 * 9 + 3) 12 12 = 857169 := by decide
theorem test_grid_unit : pshedOfPhys 857153 = 3053 ∧ prowOf 857153 = 12 ∧ pcolOf 857153 = 13 := by decide
theorem test_address_shed : whereIs 0x003A680000 = .shed (42 * 64 + 26) 0 := by decide
theorem test_address_yard : whereIs 0x003A03F000 = .yard 42 0 := by decide
theorem test_address_qstat : whereIs 0x003A684318 = .shed (42 * 64 + 26) (0x1000 + 204 * 0x40 + 0x18) := by decide
theorem test_address_port : whereIs 0x0014DC18 = .port 77 0xC18 := by decide

/-! Register accesses: the worked example of R472, and the errors of R465 and R466. -/

/-- The answer of a read. -/
def answerOf (a : Nat) (s : State) : Nat × Nat := ((readReg .hostPort a s).resp.status, (readReg .hostPort a s).resp.data.toNat)

theorem test_read_no_register : answerOf 0x0014DD00 State.reset = (0, 0) := by decide
theorem test_read_past_ports : answerOf 0x00190000 State.reset = (4, 0) := by decide
theorem test_read_unaligned : answerOf 0x0014DC1C State.reset = (4, 0) := by decide
theorem test_read_variant : answerOf 0x8 (readVariant State.reset) = (0, 0x01ABAC02) := by decide
theorem test_write_other_origin : next (exec (.registerWrite (.keadigor false) 0x40018 0) State.reset) (fun t => decide (t.resp.status = 2)) = true := by decide

/-- The ring of the worked example of R339. -/
def ring2 (tail : Nat) : State :=
  { State.reset with mbx := { State.reset.mbx with
    rings := ⟨Ring.atReset, [(2, { Ring.atReset with en := true, base := 0x400, head := 0x3F800, tail := tail })]⟩ } }

theorem test_ring_config : ringRead ((ring2 0x30C00).ring 2) 0 = 0x000004000043 := by decide
theorem test_ring_full : next (exec (.crheadWrite .hostPort 2 0x40C00) (ring2 0x30C00)) (fun t =>
    decide ((t.ring 2).head = 0x40C00 ∧ (t.ring 2).badhead = 0)) = true := by decide
theorem test_ring_too_full : next (exec (.crheadWrite .hostPort 2 0x40C00) (ring2 0x30B00)) (fun t =>
    decide ((t.ring 2).head = 0x3F800 ∧ (t.ring 2).badhead = 1)) = true := by decide

/-! Routine words: the encodings and the costs of the worked example of the chapter The Stall and Its Routines. -/

/-- A bound message of 64 flits (queue 3, tag 0x012). -/
def bound64 (u : Stall) : Stall :=
  { u with seq := { u.seq with bound0 := some 7, queue := 3 }, qu := { u.qu with queues := ⟨[], [(3, [⟨7, 0x12, [], 64, true⟩])]⟩ } }

theorem test_encodings : word 0x09 [(1, 51), (64, 39)] = 0x2408200000000000 ∧ word 0x30 [(1, 56), (5, 50), (0x13, 40), (3, 37), (64, 30)] = 0xC114137000000000 ∧
    word 0x01 [] = 0x0400000000000000 := by decide
theorem test_movq_cost : next (exec (.movq 0) (lone (bound64 (running 0x2408200000000000 [] [(1, gen 0 0x100)])))) (fun t =>
    decide ((t.stall 0).seq.cyc = 17 ∧ (t.stall 0).seq.pc = 1 ∧ ((t.stall 0).seq.ags.cells.map (·.2.i)) = [16])) = true := by decide
theorem test_send_cost : next (exec (.send 0) (lone
      { running 0xC114137000000000 [(5, 9)] [(3, gen 0 0x140)] with mem := { Stall.atReset.mem with manger := [(0x5000, 0xAB#8)] } })) (fun t =>
    decide ((t.stall 0).seq.cyc = 66) && t.track.all (fun m => match m.packet with
      | .msg h pl => decide (h.dest = 9 ∧ h.tag = 0x13 ∧ h.vc = 1 ∧ h.len = 64 ∧ pl.head? = some 0xAB#8)
      | .loft _ _ => false) && decide (t.track.length = 1)) = true := by decide
theorem test_end : next (exec (.endW 0) (lone (bound64 (running 0x0400000000000000 [] [])))) (fun t =>
    decide ((t.stall 0).seq.run = 0 ∧ (t.stall 0).seq.cyc = 1 ∧ (t.stall 0).qu.queues.cells = [])) = true := by decide
theorem test_jmp : next (exec (.jmp 0) (at0 (word 7 [(511, 0)]) [])) (fun t => decide ((t.stall 0).seq.pc = 511 ∧ (t.stall 0).seq.cyc = 2)) = true := by decide
theorem test_br_signed : next (exec (.br 0) (at0 (word 6 [(2, 55), (5, 50), (6, 45), (9, 0)]) [(5, 0xFFFFFFFF), (6, 1)])) (fun t =>
    decide ((t.stall 0).seq.pc = 9)) = true := by decide
theorem test_loop : next (exec (.loop 0) (at0 (word 2 [(3, 36), (4, 0)]) [])) (fun t => decide ((t.stall 0).seq.loops = [⟨1, 4, 2⟩])) = true := by decide
theorem test_salu_arith_shift : next (exec (.salu 0) (at0 (word 0x3E [(7, 54), (9, 49), (5, 44), (1, 38), (4, 0)]) [(5, 0x80000000)])) (fun t =>
    decide ((t.stall 0).sreg 0 9 = 0xF8000000)) = true := by decide
theorem test_salu_immediate : next (exec (.salu 0) (at0 (word 0x3E [(9, 49), (5, 44), (1, 38), (0xFFFF, 0)]) [(5, 0)])) (fun t =>
    decide ((t.stall 0).sreg 0 9 = 0xFFFFFFFF)) = true := by decide
theorem test_sli : next (exec (.sli 0) (at0 (word 0x3F [(31, 53), (5, 0)]) [])) (fun t => decide ((t.stall 0).sreg 0 31 = 1)) = true := by decide
theorem test_trd : next (exec (.trd 0) (lone { running (word 0x3A [(4, 49), (9, 44)]) [] [] with
      qu := { QueueUnit.empty with tallies := ⟨0, [(4, 77)]⟩ } })) (fun t => decide ((t.stall 0).sreg 0 9 = 77)) = true := by decide
theorem test_tdec_under : next (exec (.tdec 0) (at0 (word 0x39 [(4, 49), (1, 0)]) [])) (fun t =>
    decide (gget (t.stall 0).qu.tallies 4 = 0 ∧ (t.shed 0).gchk.under = true ∧ (t.shed 0).gchk.utally = 4)) = true := by decide
theorem test_tinc_top : next (exec (.tinc 0) (at0 (word 0x38 [(4, 49), (32767, 0)]) [])) (fun t => decide (gget (t.stall 0).qu.tallies 4 = 32767)) = true := by decide
theorem test_sts_bytes : next (exec (.sts 0) (at0 (word 0x0B [(5, 51), (0xBFFC, 0)]) [(5, 0x01020304)])) (fun t =>
    decide ((t.stall 0).mem.manger = [(0xBFFC, 4#8), (0xBFFD, 3#8), (0xBFFE, 2#8), (0xBFFF, 1#8)])) = true := by decide
theorem test_sts_end : next (exec (.sts 0) (at0 (word 0x0B [(5, 51), (0xC000, 0)]) [])) (fun t => decide ((t.stall 0).seq.fcode = 2)) = true := by decide
theorem test_lds_unaligned : next (exec (.lds 0 false) (at0 (word 0x0A [(9, 51), (0x22, 0)]) [])) (fun t => decide ((t.stall 0).seq.fcode = 3)) = true := by decide
theorem test_illegal_bit : next (exec (.nop 0) (at0 1 [])) (fun t => decide ((t.stall 0).seq.run = 5 ∧ (t.stall 0).seq.fcode = 1)) = true := by decide
theorem test_agb_negative : next (exec (.agb 0) (at0 (word 0x0C [(3, 55), (2, 53), (0x7FF, 42), (0xFFFF, 26)]) [])) (fun t =>
    decide (gget (t.stall 0).seq.ags 3 = ⟨2, 0x7FF, -1, 4096, 0, 4096, 0x7FF, 0x7FF, 0, 0⟩)) = true := by decide
theorem test_relay : next (exec (.relay 0) (at0 (word 0x33 [(2, 56), (0x40, 40)]) [])) (fun t =>
    decide (gget (t.stall 0).active.tags 0x40 = 0x200000)) = true := by decide
theorem test_waitg_outside : next (exec (.waitg 0) (at0 (word 4 [(2, 56), (15, 52)]) [])) (fun t => decide ((t.stall 0).seq.fcode = 10)) = true := by decide

/-! Formats and banks: the worked examples of the chapters on number formats and sparsity. -/

theorem test_bf16_even : writeFmt 1 .even (.fin false 0x58C000000 (-28)) = 0x42B2 := by decide
theorem test_bf16_zero : writeFmt 1 .zero (.fin false 0x58C000000 (-28)) = 0x42B1 := by decide
theorem test_fp32_exact : writeFmt 0 .even (.fin false 0x0090000000000000 (-16)) = 0x53100000 := by decide

/-- Bank 1 of the overflow replay's worked example. -/
def bank1 : Bank := { Bank.zero with e := -24, cells := ⟨⟨0, false, false⟩, [(3 * 16 + 7, ⟨0x6000000000000000, false, false⟩)]⟩ }

theorem test_bank_raise : gget (bank1.raise 8).cells 55 = ⟨0x0060000000000000, false, false⟩ ∧ (bank1.raise 8).e = -16 ∧ (bank1.raise 8).inexact = false := by decide
theorem test_dstat : next (exec (.dstat 0) (lone { running (word 0x14 [(1, 55), (9, 50)]) [] [] with
      eng := { Engines.idle with banks := ⟨Bank.zero, [(1, { Bank.zero with e := -16, replays := 1 })]⟩ } })) (fun t =>
    decide ((t.stall 0).sreg 0 9 = 0x43F0)) = true := by decide
theorem test_dmm_accepted : next (exec (.dmm 0) (at0 0x402A94FF20400000 [])) (fun t =>
    decide ((gget (t.stall 0).eng.banks 0).e = -28 ∧ (t.stall 0).eng.dexec.isSome = true ∧ (t.stall 0).seq.cyc = 1)) = true := by decide
theorem test_smm_accepted : next (exec (.smm 0) (at0 0x612A941F70202000 [])) (fun t =>
    decide ((gget (t.stall 0).eng.banks 2).e = -18 ∧ (t.stall 0).eng.rexec.isSome = true)) = true := by decide
theorem test_integer_saturates : vElem ⟨0x20, 3, 0, 0, 0, 1, 0, 0, false, 0, 0⟩ ⟨.even, 0, 0⟩ 0x7F 0x01 0 = 0x7F := by decide

/-! Messages: the worked examples of the chapters on messages and on the track. -/

theorem test_fence_entry : fenceEntry 0x4403386E 211054 0x40 = true ∧ fenceEntry 0x44032064 204900 0x40 = true := by decide

/-- Slot 2 of the combining example of R140, with this many contributions counted and these lane sums. -/
def combining (counted : Nat) (lanes : List (Nat × Int)) : Stall :=
  { Stall.atReset with
    opened := true,
    active := { Cfg.idle with tags := ⟨0, [(0x80, 0x000A4B00)]⟩, conf := ⟨0, [(6, 0x800), (35, 0x00060464)]⟩ },
    qu := { QueueUnit.empty with slots := ⟨Slot.empty, [(2, ⟨⟨0, lanes⟩, counted, counted, 0x80, false, false, 0⟩)]⟩ } }

theorem test_combine : (gget (((addContribution (lone (combining 1 [(0, 0x03800000), (1, 0x0A000000)])) 0 2 0x80 1
      (leBytes 8 0x00C00000 ++ leBytes 8 0xFFFFFFFFF3800000)).stall 0).qu.slots) 2).lanes.cells = [(0, 0x04400000), (1, -0x02800000)] := by decide
theorem test_release : next (exec (.releaseBegin 0 2) (lone (combining 3 [(0, 0x03000000)]))) (fun t =>
    decide (((t.stall 0).qu.queue 5).map (fun m => (m.tag, m.len, m.payload)) = [(0x80, 1, leBytes 16 0x03000000)])) = true := by decide

/-- A complete message of tag 0x080 at the head of queue 5 of an idle open stall, and a running section. -/
def arrivedMsg : State :=
  { lone { combining 0 [] with qu := { QueueUnit.empty with queues := ⟨[], [(5, [⟨7, 0x80, [], 1, true⟩])]⟩ } } with
    sec := { SecBlock.atReset with places := ⟨Place.atReset, [(2, { Place.atReset with st := 4 })]⟩ } }

theorem test_dispatch : next (exec (.dispatch 0 false) arrivedMsg) (fun t =>
    decide ((t.stall 0).sreg 0 28 = 0x1480 ∧ (t.stall 0).sreg 0 29 = 16 ∧ (t.stall 0).seq.pc = 0x100)) = true := by decide

/-- The receiver of the worked example of R162, whose fence counter stands at `cnt`; message 5 waits at its ejection input. -/
def fenced (cnt : Nat) : Stall :=
  { Stall.atReset with
    opened := true,
    active := { Cfg.idle with tags := ⟨0, [(0x40, 0x00004C00)]⟩, conf := ⟨0, [(7, 0x2000)]⟩, fin := ⟨0, [(0, 0x44032064)]⟩ },
    qu := { QueueUnit.empty with ej := ⟨[], [(1, [5])]⟩, finCnt := ⟨0, [(0, cnt)]⟩ } }

/-- The fenced message of that example at the receiver. -/
def fencedArrival (cnt : Nat) : State :=
  { lone (fenced cnt) with track := [⟨5, .msg ⟨0, 0x40, 1, 0, false, true, 2, 4, 204900, false, false⟩ [], false, 1, false, [⟨0, 4, false⟩], [gone, 0, 0, 0, 0], 0, .moving, false⟩] }

theorem test_fence_pens : next (exec (.messageAcceptance 0 1 false) (fencedArrival 0)) (fun t => decide ((t.stall 0).qu.pen.map (·.id) = [5])) = true := by decide
theorem test_fence_in_turn : next (exec (.messageAcceptance 0 1 false) (fencedArrival 2)) (fun t =>
    decide (((t.stall 0).qu.queue 6).map (·.id) = [5] ∧ gget (t.stall 0).qu.finCnt 0 = 3)) = true := by decide

/-! Streams, buckets and ports. -/

theorem test_map_entry : entryOk State.reset 0x25844AF12C = true ∧ bitsOf 0x25844AF12C 19 0 = 0xAF12C ∧ bitsOf 0x25844AF12C 29 20 = 0x44 := by decide
theorem test_map_version_b : next (exec (.registerWrite .hostler 0x0001490028 0x25844AF12C) State.reset) (fun t =>
    decide (t.mars.verB.cells = [(73733, 0x25844AF12C)] ∧ t.mars.verA.cells = [])) = true := by decide
theorem test_map_version_a : next (exec (.registerWrite .hostler 0x0001090028 1) State.reset) (fun t =>
    decide (t.mars.verA.cells = [] ∧ t.mars.refused = 1)) = true := by decide
theorem test_checksum : [(0, (3 : Int)), (1, -2), (5, 100), (1030, -128)].foldl (fun a x => csumAdd a (csumTerm x.1 x.2)) 0 = 0x1FFFFFFFFFFDFED6 := by decide
theorem test_checksum_sum : [(0, (8 : Int)), (1030, -1)].foldl (fun a x => csumAdd a (csumTerm x.1 x.2)) 0 = 0x1FFFFFFFFFFFFC00 := by decide

/-- Port 12 of the worked example of R287 at the end of its tests at a rate: the lanes ready, and the best so far. -/
def tested (rate ready : Nat) (best : Option (Nat × Nat × Nat)) : Port := { Port.atReset with st := 2, train := ⟨rate, 4, ready, best, gconst 0⟩ }

theorem test_training_first : (tested 0 0xDF none).judged.train.best = some (0, 4, 0xDF) := by decide
theorem test_training_better : (tested 1 0xFF (some (0, 4, 0xDF))).judged.train.best = some (1, 8, 0xFF) := by decide
theorem test_training_lanes : lanesInUse 0xDF 4 = 0x0F ∧ widthCode 8 = 3 := by decide

/-! Management ports: the worked example of R478, and R479. -/

theorem test_i3c_read : next (exec (.i3cTransaction (.privateWrite [0#8, 8#8, 0#8, 0#8, 0#8, 0#8])) (readVariant State.reset)) (fun t =>
    decide (t.i3c.unread = some [0#8, 2#8, 0xAC#8, 0xAB#8, 1#8, 0#8, 0#8, 0#8, 0#8])) = true := by decide
theorem test_i3c_unaligned : next (exec (.i3cTransaction (.privateWrite [0#8, 12#8, 0#8, 0#8, 0#8, 0#8])) State.reset) (fun t =>
    decide (t.i3c.unread = some [4#8, 0#8, 0#8, 0#8, 0#8, 0#8, 0#8, 0#8, 0#8])) = true := by decide
theorem test_i3c_length : next (exec (.i3cTransaction (.privateWrite [0#8, 8#8])) State.reset) (fun t => decide (t.i3c.unread = some [4#8])) = true := by decide
theorem test_idcode : next (exec .idcode State.reset) (fun t => decide (t.tap.out = 0x0C740A5B)) = true := by decide

/-! Power, heat, bring-up, the mailbox and the queue. -/

theorem test_cap_least : next (exec (.pwrCapWrite .hostPort 100) State.reset) (fun t => decide (t.pwr.capw = 8000 ∧ t.pwr.limit = 1800000)) = true := by decide
theorem test_ramp_step : next (exec (.rampInterval ⟨21000, 0, false⟩) { State.reset with pwr := { State.reset.pwr with gprev := 100 } }) (fun t =>
    decide (t.pwr.gprev = 140)) = true := by decide
theorem test_droop : next (exec (.droopDetect 0 0 true) State.reset) (fun t => decide ((t.pshed 0).dlim = 4 ∧ (t.pshed 0).droops = 1)) = true := by decide
theorem test_clock_steps : next (exec (.thmClkWrite .hostPort 799) State.reset) (fun t => decide (t.thm.mhz = 790)) = true := by decide
theorem test_step_out_of_order : next (exec (.core .hostPort false false) State.reset) (fun t => decide (t.dev.bootErr = 1 ∧ t.dev.busy = false)) = true := by decide
theorem test_groom_start : next (exec (.groomStart ⟨true, some 0, none, true, true, true, true, true, 0⟩) State.reset) (fun t =>
    decide (t.grm.ready = true ∧ t.grm.boots = 1 ∧ t.dev.maxmhz = 940 ∧ t.pins.pwrGood = true)) = true := by decide
theorem test_cold_clears : next (exec (.cold .hostPort) (lone (running 0 [] []))) (fun t => decide (t.stalls.cells = [] ∧ t.dev.st = 1)) = true := by decide
theorem test_post : next (exec (.mbxPost .hostPort 0 (BitVec.ofNat 64 (3 * 2 ^ 48))) State.reset) (fun t =>
    decide ((t.box 0).door = 8 ∧ (t.box 0).posted = 1 ∧ (t.box 0).queue.length = 1)) = true := by decide
theorem test_spare_fuse : next (exec (.remapFault (.stall 857153)) State.reset) (fun t => decide (t.rm.faults = [])) = true := by decide
theorem test_queue_front : next (step { State.reset with pending := [.idcode, .bypass] }) (fun t => decide (t.pending = [.bypass] ∧ t.tap.ir = 1)) = true := by decide

/-! The digests: the published check value of CRC-32, and the published SHA3-512 value of the empty string. -/

theorem test_crc32 : crc32 [0x31#8, 0x32#8, 0x33#8, 0x34#8, 0x35#8, 0x36#8, 0x37#8, 0x38#8, 0x39#8] = 0xCBF43926 := by decide
theorem test_sha3_empty : sha3 [] = 0x26cd1d2886857501e3d3b6959d1900f558c53a2c40e9e3114cf9f5f13a12b215a6805c47c1dcd1e05958e24f1682c9976e755a18dc67b5c8c59a3aa2cc739fa6 := by decide

/-! Witnesses: for each statement with hypotheses, concrete states and operands that meet them. -/

/-- A section runs at place 2 of this state. -/
def withRun (s : State) : State := { s with sec := { s.sec with places := ⟨Place.atReset, [(2, { Place.atReset with st := 4 })]⟩ } }

theorem reset_canonical : Canonical State.reset := canonical_of (by decide)

theorem reset_arb : ArbInRange State.reset := ⟨by decide, fun _ => Nat.zero_le _⟩

theorem witness_StepRunsTheCommand : ∃ s : State, s.pending = Instr.idcode :: [Instr.bypass] :=
  ⟨{ State.reset with pending := [.idcode, .bypass] }, rfl⟩

theorem witness_StepOnAnEmptyQueue :
    (∃ s : State, s.pending = [] ∧ s.dev.st = 0) ∧ (∃ s : State, s.pending = [] ∧ s.dev.st ≠ 0 ∧ s.dev.slew = 0) :=
  ⟨⟨{ State.reset with dev := { DevBlock.atReset with st := 0 } }, by decide, by decide⟩, ⟨State.reset, by decide, by decide, by decide⟩⟩

theorem witness_StepKeepsTheCanonicalForm : ∃ s t : State, Canonical s ∧ ArbInRange s ∧ step s = .next t ∧ s.pending ≠ [] :=
  ⟨{ State.reset with pending := [.idcode] }, _, canonical_of (by decide), ⟨reset_arb.wf, reset_arb.bound⟩, rfl, by decide⟩

theorem witness_StepNeverUnblowsAFuse : ∃ s t : State, Canonical s ∧ ArbInRange s ∧ step s = .next t :=
  ⟨State.reset, _, reset_canonical, reset_arb, rfl⟩

theorem witness_EveryCommandCompletes :
    (∃ (i : Instr) (s : State), Canonical s ∧ ArbInRange s ∧ Instr.wf i = true) ∧ (∃ i : Instr, Instr.wf i = false) ∧
    (∃ s : State, Canonical s ∧ ArbInRange s ∧ QueueWf s ∧ s.pending ≠ []) := by
  refine ⟨⟨.routeTableWrite false 0 (List.replicate 64 0#8), State.reset, reset_canonical, reset_arb, by decide⟩,
    ⟨.routeTableWrite false 0 [], rfl⟩, { State.reset with pending := [.idcode] }, canonical_of (by decide), ⟨reset_arb.wf, reset_arb.bound⟩, ?_, by decide⟩
  intro c hc
  obtain rfl : c = .idcode := by simpa using hc
  rfl

theorem witness_WhatACommandLeavesAlone : ∃ (i : Instr) (s t : State), exec i s = .next t := ⟨.idcode, State.reset, _, rfl⟩

theorem witness_ScalarRegisters : ∃ u : Stall, gwf u.seq.sregs = true ∧ u.seq.sregs ≠ gconst 0 := ⟨running 0 [(5, 7), (9, 1)] [], by decide, by decide⟩

theorem witness_JumpsAndBranches :
    Ready (at0 0 []) 0x00 [] ∧
    (∃ s, Ready s 0x07 [(57, 57), (54, 50), (8, 0)] ∧ s.fld 0 57 57 = 1 ∧ s.reg 0 (s.fld 0 54 50) = 2 ^ 32 - 1) ∧
    (∃ s, Ready s 0x07 [(57, 57), (54, 50), (8, 0)] ∧ s.fld 0 57 57 = 0 ∧ s.fld 0 8 0 = 511) ∧
    (∃ s, Ready s 0x06 [(57, 55), (54, 50), (49, 45), (8, 0)] ∧ s.fld 0 57 55 = 0) ∧
    (∃ s, Ready s 0x06 [(57, 55), (54, 50), (49, 45), (8, 0)] ∧ s.fld 0 57 55 = 5) ∧
    (∃ s, Ready s 0x06 [(57, 55), (54, 50), (49, 45), (8, 0)] ∧ s.fld 0 57 55 = 6) :=
  ⟨ready_of (by decide), ⟨at0 (word 7 [(1, 57), (5, 50)]) [(5, 0xFFFFFFFF)], ready_of (by decide), by decide, by decide⟩,
    ⟨at0 (word 7 [(511, 0)]) [], ready_of (by decide), by decide, by decide⟩, ⟨at0 (word 6 [(0, 55)]) [], ready_of (by decide), by decide⟩,
    ⟨at0 (word 6 [(5, 55)]) [], ready_of (by decide), by decide⟩, ⟨at0 (word 6 [(6, 55)]) [], ready_of (by decide), by decide⟩⟩

/-- A LOOP at word 0 with this last word, under these loops. -/
def loopAt (last : Nat) (ls : List Loop) : State :=
  let u := running (word 2 [(1, 36), (last, 0)]) [] []
  lone { u with seq := { u.seq with loops := ls } }

theorem witness_LoopPushesOrFaults :
    let fs := [(57, 57), (56, 52), (51, 36), (8, 0)]
    (∃ s, Ready s 0x02 fs ∧ s.fld 0 8 0 ≤ (s.stall 0).seq.pc) ∧
    (∃ s l, Ready s 0x02 fs ∧ (s.stall 0).seq.loops = [l] ∧ l.last < s.fld 0 8 0) ∧
    (∃ s, Ready s 0x02 fs ∧ 4 ≤ (s.stall 0).seq.loops.length) ∧
    (∃ s l, Ready s 0x02 fs ∧ (s.stall 0).seq.pc < s.fld 0 8 0 ∧ (s.stall 0).seq.loops = [l] ∧ s.fld 0 8 0 ≤ l.last) :=
  ⟨⟨loopAt 0 [], ready_of (by decide), by decide⟩, ⟨loopAt 3 [⟨0, 2, 1⟩], ⟨0, 2, 1⟩, ready_of (by decide), by decide, by decide⟩,
    ⟨loopAt 1 (List.replicate 4 ⟨0, 9, 1⟩), ready_of (by decide), by decide⟩,
    ⟨loopAt 511 [⟨0, 511, 1⟩], ⟨0, 511, 1⟩, ready_of (by decide), by decide, by decide, by decide⟩⟩

theorem witness_WhereAWordLeaves :
    (∃ (pc : Nat) (l : Loop), pc ≠ l.last) ∧ (∃ (pc : Nat) (l : Loop), pc = l.last ∧ 0 < l.left) ∧ (∃ (pc : Nat) (l : Loop), pc = l.last ∧ l.left = 0) :=
  ⟨⟨1, ⟨0, 2, 1⟩, by decide⟩, ⟨511, ⟨0, 511, 1⟩, by decide, by decide⟩, ⟨2, ⟨0, 2, 0⟩, by decide, by decide⟩⟩

/-- A Draft word in execution. -/
def aJob (w : Word64) : Job := ⟨w, 0, true, 0, false, []⟩

/-- The stall with a Draft word in execution. -/
def busyWith (w : Word64) (u : Stall) : Stall := { u with eng := { u.eng with dexec := some (aJob w) } }

theorem witness_EndReturnsToDispatch :
    (∃ s, Ready s 0x01 [(0, 0)] ∧ (s.stall 0).eng.jobs = [] ∧ gwf (s.stall 0).qu.queues = true ∧ (s.stall 0).seq.bound0 ≠ none) ∧
    (∃ s, Ready s 0x01 [(0, 0)] ∧ (s.stall 0).eng.jobs ≠ []) :=
  ⟨⟨lone (bound64 (running (word 1 []) [] [])), ready_of (by decide), by decide, by decide, by decide⟩,
    ⟨lone (busyWith 0x402A94FF20400000 (running (word 1 []) [] [])), ready_of (by decide), by decide⟩⟩

/-- A BRT at word 0 in this RUN code, tally 0 holding `v`. -/
def brtAt (wait cond imm target run v : Nat) : State :=
  let u := running (word 3 [(wait, 57), (cond, 55), (imm, 16), (target, 0)]) [] []
  lone { u with seq := { u.seq with run := run }, qu := { u.qu with tallies := ⟨0, [(0, v)]⟩ } }

theorem witness_BranchOnTally :
    let fs := [(57, 57), (56, 55), (54, 54), (53, 49), (48, 44), (31, 16), (8, 0)]
    Ready (brtAt 0 0 32768 0 1 1) 0x03 fs ∧ Ready (brtAt 0 0 32767 9 1 32767) 0x03 fs ∧ Ready (brtAt 0 0 32767 9 1 32766) 0x03 fs ∧
    Ready (brtAt 1 2 5 0 1 5) 0x03 fs ∧ Ready (brtAt 1 2 5 0 1 4) 0x03 fs ∧ Ready (brtAt 1 2 5 0 3 5) 0x03 fs ∧ Ready (brtAt 1 2 5 0 3 4) 0x03 fs :=
  ⟨ready_of (by decide), ready_of (by decide), ready_of (by decide), ready_of (by decide), ready_of (by decide), ready_of (by decide), ready_of (by decide)⟩

/-- A gate word at word 0, under this gate mask and these PENDs. -/
def gateAt (op scope line : Nat) (mask : Word32) (pend : Nat) : State :=
  let u := running (word op [(scope, 56), (line, 52)]) [] []
  lone { u with active := { u.active with mask := mask }, pend := pend }

theorem witness_GateWords :
    let fs := [(57, 56), (55, 52)]
    (∃ s, Ready s 0x04 fs ∧ s.fld 0 57 56 = 0 ∧ s.fld 0 55 52 = 3 ∧ (s.stall 0).active.mask.toNat.testBit 3 = false) ∧
    (∃ s, Ready s 0x05 fs ∧ s.fld 0 57 56 = 1 ∧ s.fld 0 55 52 = 7 ∧ (s.stall 0).active.mask.toNat.testBit 11 = true ∧ (s.stall 0).pend.testBit 11 = true) ∧
    (∃ s, Ready s 0x05 fs ∧ s.fld 0 57 56 = 2 ∧ s.fld 0 55 52 = 14 ∧ (s.stall 0).active.mask.toNat.testBit 26 = true ∧ (s.stall 0).pend.testBit 26 = false) ∧
    (∃ s, Ready s 0x04 fs ∧ s.fld 0 57 56 = 0 ∧ s.fld 0 55 52 = 4) ∧ (∃ s, Ready s 0x04 fs ∧ s.fld 0 57 56 = 1 ∧ s.fld 0 55 52 = 8) ∧
    (∃ s, Ready s 0x04 fs ∧ s.fld 0 57 56 = 2 ∧ s.fld 0 55 52 = 15) :=
  ⟨⟨gateAt 4 0 3 0 0, ready_of (by decide), by decide, by decide, by decide⟩,
    ⟨gateAt 5 1 7 0x800 0x800, ready_of (by decide), by decide, by decide, by decide, by decide⟩,
    ⟨gateAt 5 2 14 0x4000000 0, ready_of (by decide), by decide, by decide, by decide, by decide⟩,
    ⟨gateAt 4 0 4 0 0, ready_of (by decide), by decide, by decide⟩, ⟨gateAt 4 1 8 0 0, ready_of (by decide), by decide, by decide⟩,
    ⟨gateAt 4 2 15 0 0, ready_of (by decide), by decide, by decide⟩⟩

theorem witness_ScalarArithmetic :
    let fs := [(57, 54), (53, 49), (48, 44), (43, 39), (38, 38), (15, 0)]
    (∃ s, Ready s 0x3E fs ∧ s.fld 0 57 54 = 0) ∧ (∃ s, Ready s 0x3E fs ∧ s.fld 0 57 54 = 12) ∧ (∃ s, Ready s 0x3E fs ∧ s.fld 0 57 54 = 13) ∧
    Ready (at0 (word 0x3F [(31, 53), (2 ^ 32 - 1, 0)]) []) 0x3F [(57, 53), (31, 0)] :=
  ⟨⟨at0 (word 0x3E [(31, 49)]) [], ready_of (by decide), by decide⟩, ⟨at0 (word 0x3E [(12, 54)]) [], ready_of (by decide), by decide⟩,
    ⟨at0 (word 0x3E [(13, 54)]) [], ready_of (by decide), by decide⟩, ready_of (by decide)⟩

/-- The state in which a DMM with generators 1, 2 and 3 runs while the word stands at the PC. -/
def whileDmm (w : Word64) : State := lone (busyWith 0x402A94FF20400000 (running w [] []))

theorem witness_RoutineLoadsAndStores :
    let fs := [(57, 56), (55, 51), (50, 46), (16, 0)]
    Ready (at0 (word 0x0A [(3, 56), (9, 51), (0xFFFC, 0)]) []) 0x0A fs ∧ Ready (at0 (word 0x0A [(0xC000, 0)]) []) 0x0A fs ∧
    (∃ s, Ready s 0x0B fs ∧ (s.stall 0).interlocked [] [s.fld 0 57 56] = true) ∧
    (∃ s, Ready s 0x0B fs ∧ (s.stall 0).interlocked [] [s.fld 0 57 56] = false ∧ s.fld 0 57 56 = 3 ∧ 0x10000 ≤ s.fld 0 16 0) ∧
    (∃ s, Ready s 0x0B fs ∧ (s.stall 0).interlocked [] [s.fld 0 57 56] = false ∧ s.fld 0 57 56 = 0 ∧ s.fld 0 16 0 = 0xBFFE) ∧
    (∃ s, Ready s 0x0B fs ∧ (s.stall 0).interlocked [] [s.fld 0 57 56] = false ∧ s.fld 0 57 56 = 0 ∧ s.fld 0 16 0 = 0xBFFC) :=
  ⟨ready_of (by decide), ready_of (by decide), ⟨whileDmm (word 0x0B []), ready_of (by decide), by decide⟩,
    ⟨at0 (word 0x0B [(3, 56), (0x10000, 0)]) [], ready_of (by decide), by decide, by decide, by decide⟩,
    ⟨at0 (word 0x0B [(0xBFFE, 0)]) [], ready_of (by decide), by decide, by decide, by decide⟩,
    ⟨at0 (word 0x0B [(0xBFFC, 0)]) [], ready_of (by decide), by decide, by decide, by decide⟩⟩

theorem witness_AStoreWritesItsBytesAlone : ∃ (m : StallMem) (sp a : Nat) (bs : List Byte), sp < 4 ∧ Memory.wf m.manger = true ∧ Memory.wf m.loftA = true ∧
    Memory.wf m.loftB = true ∧ Memory.wf m.loftC = true ∧ gwf m.undef = true ∧ a % 4096 + bs.length ≤ 4096 ∧ a < 0x20000 ∧ bs ≠ [] :=
  ⟨Stall.atReset.mem, 3, 0x1FFFF, [1#8], by decide, by decide, by decide, by decide, by decide, by decide, by decide, by decide, by decide⟩

theorem witness_AddressGenerators :
    Ready (at0 (word 0x0C [(7, 55), (0x2FF, 42)]) []) 0x0C [(57, 55), (54, 53), (52, 42), (41, 26), (25, 14)] ∧
    Ready (at0 (word 0x0C [(0x300, 42)]) []) 0x0C [(57, 55), (54, 53), (52, 42), (41, 26), (25, 14)] ∧
    Ready (at0 (word 0x0D [(1, 54), (5, 49)]) [(5, 64)]) 0x0D [(57, 55), (54, 54), (53, 49), (48, 33), (32, 21)] ∧
    (∃ g : AddrGen, g.i < g.cnt0 ∧ g.j < g.cnt1 ∧ g.space < 4 ∧ g.row = g.base + g.j * g.str1 ∧ g.addr = g.row + g.i * g.str0 ∧ g.i + 1 = g.cnt0 ∧ g.j + 1 = g.cnt1) ∧
    (∃ g : AddrGen, g.i < g.cnt0 ∧ g.j < g.cnt1 ∧ g.space < 4 ∧ g.yields = none) :=
  ⟨ready_of (by decide), ready_of (by decide), ready_of (by decide),
    ⟨⟨0, 5, 1, 2, 3, 4, 14, 15, 1, 3⟩, by decide, by decide, by decide, by decide, by decide, by decide, by decide⟩,
    ⟨gen 0 0x300, by decide, by decide, by decide, by decide⟩⟩

theorem witness_TallyWords :
    let fs := [(57, 57), (53, 49), (48, 44), (15, 0)]
    Ready (at0 (word 0x38 [(31, 49), (32767, 0)]) []) 0x38 fs ∧ Ready (at0 (word 0x38 [(32768, 0)]) []) 0x38 fs ∧
    Ready (at0 (word 0x39 [(1, 0)]) []) 0x39 fs ∧ Ready (at0 (word 0x3A [(31, 49), (31, 44)]) []) 0x3A [(53, 49), (48, 44)] ∧
    Ready (at0 (word 0x3B [(32767, 0)]) []) 0x3B [(53, 49), (15, 0)] :=
  ⟨ready_of (by decide), ready_of (by decide), ready_of (by decide), ready_of (by decide), ready_of (by decide)⟩

theorem witness_MalformedWordsFault :
    (∃ s, wordRow (.nop 0) = some (0, 0, []) ∧ canIssue s 0 = true ∧ s.fld 0 63 58 = 0x37) ∧
    (∃ s, wordRow (.nop 0) = some (0, 0, []) ∧ canIssue s 0 = true ∧ s.fld 0 63 58 = 0 ∧ onlyFields (wordAt (s.stall 0)) [] = false) ∧
    (∃ s, wordRow (.nop 0) = some (0, 0, []) ∧ canIssue s 0 = true ∧ s.fld 0 63 58 = 0x01) ∧
    (∃ s, canIssue s 0 = true ∧ (s.stall 0).seq.run ≠ 3 ∧ s.fld 0 63 58 = 0x03) :=
  ⟨⟨at0 (word 0x37 []) [], rfl, by decide, by decide⟩, ⟨at0 (word 0 [(1, 57)]) [], rfl, by decide, by decide, by decide⟩,
    ⟨at0 (word 1 []) [], rfl, by decide, by decide⟩, ⟨brtAt 0 0 0 0 1 0, by decide, by decide, by decide⟩⟩

/-- Stall 0 of this state with its shed's PROG register having fired or not, at this RUN code. -/
def faulting (run : Nat) (fired : Bool) : State :=
  { lone { running 0 [] [] with seq := { Seq.start with run := run } } with sheds := ⟨Shed.atReset, [(0, { Shed.atReset with valid := true, fired := fired, cause := fired })]⟩ }

theorem witness_WhatAStallFaultDoes :
    (∃ s, Canonical s ∧ (s.stall 0).seq.run = 5) ∧ (∃ s, Canonical s ∧ (s.stall 0).seq.run ≠ 5 ∧ (s.shed (shedOf 0)).fired = true ∧ runningPlace s = none) ∧
    (∃ s, Canonical s ∧ (s.stall 0).seq.run ≠ 5 ∧ (s.shed (shedOf 0)).fired = false ∧ runningPlace s = some 2 ∧ (s.place 2).rldRun = false) :=
  ⟨⟨faulting 5 false, canonical_of (by decide), by decide⟩, ⟨faulting 1 true, canonical_of (by decide), by decide, by decide, by decide⟩,
    ⟨withRun (faulting 1 false), canonical_of (by decide), by decide, by decide, by decide, by decide⟩⟩

/-- A move's account at its start, with generators 1 and 2 at these places. -/
def moveFrom (src dst : AddrGen) : MovAcc := ⟨running 0 [] [(1, src), (2, dst)], [], 0, 0, 0, 0⟩

theorem witness_AUnitOfAMove :
    (gget (moveFrom (gen 0 0x300) (gen 1 0)).t.seq.ags 1).yields = none ∧ (gget (moveFrom (gen 1 0x41) (gen 1 0)).t.seq.ags 1).yields = some 0x1040 ∧
    (gget (moveFrom (gen 1 0x40) (gen 1 0x800)).t.seq.ags 2).yields = none ∧ (gget (moveFrom (gen 1 0x40) (gen 1 0x41)).t.seq.ags 2).yields = some 0x1040 ∧
    (gget (moveFrom (gen 0 0) (gen 3 0x3C0)).t.seq.ags 1).yields = some 0 ∧ (gget (moveFrom (gen 0 0) (gen 3 0x3C0)).t.seq.ags 2).yields = some 0xF000 := by decide

/-- A MOV through generators 1 and 2. -/
def movAt (brd n : Nat) (src dst : AddrGen) : State := lone (running (word 8 [(brd, 57), (1, 54), (2, 51), (n, 39)]) [] [(1, src), (2, dst)])

theorem witness_MoveWords :
    let fs := [(57, 57), (56, 54), (53, 51), (50, 39)]
    Ready (movAt 0 0 (gen 0 0) (gen 1 0)) 0x08 fs ∧ Ready (movAt 1 63 (gen 0 0) (gen 1 0)) 0x08 fs ∧
    (∃ s, Ready s 0x08 fs ∧ s.fld 0 50 39 ≠ 0 ∧ s.fld 0 57 57 = 0 ∧ (s.stall 0).interlocked [1, 2] [0] = true) ∧
    (∃ s, Ready s 0x08 fs ∧ (s.stall 0).interlocked [1, 2] [3] = false ∧ (movUnits 0 1 2 false 2 0 ⟨s.stall 0, [], 0, 0, 0, 0⟩).2 = none) ∧
    (∃ s, Ready s 0x08 fs ∧ (s.stall 0).interlocked [1, 2] [3] = false ∧ (movUnits 0 1 2 false 2 0 ⟨s.stall 0, [], 0, 0, 0, 0⟩).2 = some 2) :=
  ⟨ready_of (by decide), ready_of (by decide), ⟨whileDmm (word 8 [(1, 54), (2, 51), (1, 39)]), ready_of (by decide), by decide, by decide, by decide⟩,
    ⟨movAt 0 2 (gen 0 0x2FE) (gen 3 0), ready_of (by decide), by decide, by decide⟩,
    ⟨movAt 0 2 (gen 0 0x2FF) (gen 3 0), ready_of (by decide), by decide, by decide⟩⟩

theorem witness_MessageMoves :
    (∃ s, Ready s 0x0E [(57, 57), (55, 51), (45, 38)] ∧ (s.stall 0).boundMsg (s.fld 0 57 57) = none) ∧
    (∃ s m, Ready s 0x0E [(57, 57), (55, 51), (45, 38)] ∧ (s.stall 0).boundMsg (s.fld 0 57 57) = some m ∧ 16 * m.len = 4 * (s.fld 0 45 38 + 1)) ∧
    (∃ s, Ready s 0x0F [(57, 57)] ∧ s.fld 0 57 57 = 1 ∧ (s.stall 0).seq.bound1 = none) ∧
    (∃ s, Ready s 0x0F [(57, 57)] ∧ s.fld 0 57 57 = 0 ∧ (s.stall 0).seq.bound0 = some 7) :=
  ⟨⟨at0 (word 0x0E [(1, 57)]) [], ready_of (by decide), by decide⟩,
    ⟨lone (bound64 (running (word 0x0E [(255, 38)]) [] [])), ⟨7, 0x12, [], 64, true⟩, ready_of (by decide), by decide, by decide⟩,
    ⟨at0 (word 0x0F [(1, 57)]) [], ready_of (by decide), by decide, by decide⟩,
    ⟨lone (bound64 (running (word 0x0F []) [] [])), ready_of (by decide), by decide, by decide⟩⟩

theorem witness_MessageCopies :
    let fs := [(57, 57), (53, 51), (45, 39), (37, 32)]
    let at' := fun (n off : Nat) => lone (bound64 (running (word 9 [(1, 51), (n, 39), (off, 32)]) [] []))
    Ready (at' 0 0) 0x09 fs ∧ Ready (at' 65 0) 0x09 fs ∧ Ready (whileDmm (word 9 [(1, 51), (1, 39)])) 0x09 fs ∧
    ((whileDmm (word 9 [(1, 51), (1, 39)])).stall 0).interlocked [1] [0] = true ∧
    (∃ s, Ready s 0x09 fs ∧ s.fld 0 45 39 = 1 ∧ (s.stall 0).interlocked [0] [0] = false ∧ (s.stall 0).boundMsg 0 = none) ∧
    (Ready (at' 64 0) 0x09 fs ∧ ((at' 64 0).stall 0).interlocked [1] [0] = false ∧ (movqUnits 0 1 64 [] 64 64 0 ((at' 64 0).stall 0)).2 = none) ∧
    (Ready (at' 64 1) 0x09 fs ∧ ((at' 64 1).stall 0).interlocked [1] [0] = false ∧ (movqUnits 0 1 64 [] 64 64 1 ((at' 64 1).stall 0)).2 = some 6) ∧
    (gget (running 0 [] [(1, gen 0 0x300)]).seq.ags 1).yields = none ∧ (gget (running 0 [] [(1, gen 0 0x2FF)]).seq.ags 1).yields = some 0xBFC0 :=
  ⟨ready_of (by decide), ready_of (by decide), ready_of (by decide), by decide, ⟨at0 (word 9 [(1, 39)]) [], ready_of (by decide), by decide, by decide, by decide⟩,
    ⟨ready_of (by decide), by decide, by decide⟩, ⟨ready_of (by decide), by decide, by decide⟩, by decide, by decide⟩

/-- A BRAND through generator 1. -/
def brandAt (mode nb : Nat) (g : AddrGen) : State := lone (running (word 0x3C [(mode, 56), (1, 53), (nb, 45)]) [] [(1, g)])

theorem witness_BrandWord :
    let fs := [(57, 56), (55, 53), (52, 45), (44, 40)]
    Ready (brandAt 0 0 (gen 1 0)) 0x3C fs ∧ Ready (brandAt 3 1 (gen 1 0)) 0x3C fs ∧ Ready (brandAt 2 2 (gen 1 0)) 0x3C fs ∧ Ready (brandAt 1 1 (gen 0 0)) 0x3C fs ∧
    (∃ s, Ready s 0x3C fs ∧ s.fld 0 57 56 = 2 ∧ s.fld 0 52 45 = 1 ∧ (s.stall 0).interlocked [1] [] = true) ∧
    (∃ s, Ready s 0x3C fs ∧ s.fld 0 57 56 = 0 ∧ s.fld 0 52 45 = 1 ∧ (s.stall 0).interlocked [1] [] = false ∧ (gget (s.stall 0).seq.ags 1).yields = none) ∧
    (∃ s, Ready s 0x3C fs ∧ s.fld 0 57 56 = 0 ∧ s.fld 0 52 45 = 1 ∧ (s.stall 0).interlocked [1] [] = false ∧ (gget (s.stall 0).seq.ags 1).yields = some 64) ∧
    (∃ s, Ready s 0x3C fs ∧ s.fld 0 57 56 = 0 ∧ s.fld 0 52 45 = 1 ∧ (s.stall 0).interlocked [1] [] = false ∧ (gget (s.stall 0).seq.ags 1).yields = some 0x1F000 ∧
      (Stall.readUnits 0 1 64 (s.stall 0)).2.isSome = true) :=
  ⟨ready_of (by decide), ready_of (by decide), ready_of (by decide), ready_of (by decide),
    ⟨whileDmm (word 0x3C [(2, 56), (1, 53), (1, 45)]), ready_of (by decide), by decide, by decide, by decide⟩,
    ⟨brandAt 0 1 (gen 1 0x800), ready_of (by decide), by decide, by decide, by decide, by decide⟩,
    ⟨brandAt 0 1 (gen 1 1), ready_of (by decide), by decide, by decide, by decide, by decide⟩,
    ⟨brandAt 0 1 (gen 1 0x7C0), ready_of (by decide), by decide, by decide, by decide, by decide, by decide⟩⟩

theorem witness_BallastWords :
    let fs := [(57, 53), (52, 52), (51, 47), (23, 0)]
    Ready (at0 (word 0x3D [(17, 53)]) []) 0x3D fs ∧ Ready (at0 (word 0x3D [(16, 53), (2 ^ 24 - 1, 0)]) []) 0x3D fs ∧
    (∃ s, Canonical s ∧ (s.stall 0).eng.ballast = some (16, 1)) ∧ (∃ s, Canonical s ∧ (s.stall 0).eng.ballast = none) :=
  ⟨ready_of (by decide), ready_of (by decide), ⟨lone { Stall.atReset with eng := { Engines.idle with ballast := some (16, 1) } }, canonical_of (by decide), by decide⟩,
    ⟨State.reset, reset_canonical, by decide⟩⟩

/-- A VADD of one chunk through generators 1, 2 and 3. -/
def vaddAt (fmt : Nat) (g : AddrGen) : State := lone (running (word 0x20 [(fmt, 55), (1, 52), (2, 49), (3, 46), (1, 34)]) [] [(1, g)])

theorem witness_VectorWordsRun :
    wordRow (.vadd 0 false) = some (0, 0x20, vecFields) ∧ wordRow (.vcopy 0) = some (0, 0x2F, vecFields) ∧
    (∃ s, Ready s 0x20 vecFields ∧ (VF.of (wordAt (s.stall 0))).valid (wordAt (s.stall 0)) = false) ∧
    (∃ s, Ready s 0x20 vecFields ∧ (VF.of (wordAt (s.stall 0))).valid (wordAt (s.stall 0)) = true ∧ (s.stall 0).interlocked [1, 2, 3] [0] = true) ∧
    (∃ s, Ready s 0x20 vecFields ∧ let u := s.stall 0; let v := VF.of (wordAt u)
      v.valid (wordAt u) = true ∧ u.interlocked v.ags (v.writeSpaces u) = false ∧
      ((v.events u s.fresh).foldl (VRun.step 0 v (roundings v.rnd 0 s.fresh v.elems) 0 s.fresh false) ⟨u, [], [], [], [], [], none⟩).err = none) ∧
    (∃ s, Ready s 0x20 vecFields ∧ let u := s.stall 0; let v := VF.of (wordAt u)
      v.valid (wordAt u) = true ∧ u.interlocked v.ags (v.writeSpaces u) = false ∧
      ((v.events u s.fresh).foldl (VRun.step 0 v (roundings v.rnd 0 s.fresh v.elems) 0 s.fresh false) ⟨u, [], [], [], [], [], none⟩).err = some 2) :=
  ⟨rfl, rfl, ⟨vaddAt 7 (gen 0 0), ready_of (by decide), by decide⟩,
    ⟨whileDmm (word 0x20 [(3, 55), (1, 52), (2, 49), (3, 46), (1, 34)]), ready_of (by decide), by decide, by decide⟩,
    ⟨vaddAt 4 (gen 0 0x2FF), ready_of (by decide), by decide, by decide, by decide⟩,
    ⟨vaddAt 4 (gen 0 0x300), ready_of (by decide), by decide, by decide, by decide⟩⟩

theorem witness_VectorIntegerElements :
    (∃ v : VF, v.fmt = 3 ∧ v.bs = false ∧ v.op = 0x20 ∧ v.sub = 0) ∧ (∃ v : VF, v.fmt = 4 ∧ v.bs = false ∧ v.op = 0x2E ∧ v.sub = 3) ∧
    255 < 2 ^ widthOf 3 ∧ 2 ^ 32 - 1 < 2 ^ widthOf 4 :=
  ⟨⟨⟨0x20, 3, 0, 0, 0, 1, 0, 0, false, 0, 0⟩, by decide⟩, ⟨⟨0x2E, 4, 0, 0, 0, 1, 0, 0, false, 3, 0⟩, by decide⟩, by decide, by decide⟩

/-- A stall whose fence-out entries 0 and 15 name stall 9 with tag 0x40. -/
def fencing (u : Stall) : Stall := { u with active := { u.active with fout := ⟨0, [(0, 0x44000009), (15, 0x44000009)]⟩ } }

theorem witness_WhatASendPutsOnTheTrack :
    let named := fun (u : Stall) (i : Nat) =>
      (gget u.active.fout i).toNat.testBit 30 = true ∧ bitsOf (gget u.active.fout i).toNat 19 0 = 9 ∧ bitsOf (gget u.active.fout i).toNat 29 20 = 0x40
    gwf State.reset.stalls = true ∧ named (fencing Stall.atReset) 0 ∧ (∀ i, i < 16 → ¬ named Stall.atReset i) := by decide

/-- A SEND of `len` flits on `vc` from generator 1 to the stall that register 5 names. -/
def sendAt (vc f len : Nat) (g : AddrGen) : State := lone (fencing (running (word 0x30 [(vc, 56), (f, 55), (5, 50), (0x40, 40), (1, 37), (len, 30)]) [(5, 9)] [(1, g)]))
/-- A SENDL of `cnt` destinations listed at the byte that register 5 names. -/
def sendlAt (cnt : Nat) (list : Word32) : State := lone (running (word 0x31 [(5, 50), (0x40, 40), (1, 37), (1, 30), (cnt, 24)]) [(5, list)] [])
/-- The state with a message of VC0 going in at stall 0. -/
def injecting (s : State) : State :=
  { s with track := [⟨5, .msg ⟨9, 0x40, 0, 0, false, false, 0, 1, 0, false, false⟩ [], false, 0, false, [⟨0, 4, false⟩], [0, 0], 0, .moving, false⟩] }

theorem witness_SendWords :
    let f30 := [(57, 56), (55, 55), (54, 50), (49, 40), (39, 37), (36, 30)]
    let f31 := [(57, 56), (55, 55), (54, 50), (49, 40), (39, 37), (36, 30), (29, 24)]
    let f32 := [(57, 56), (55, 55), (54, 50), (49, 40), (39, 35), (34, 33)]
    Ready (sendAt 3 0 1 (gen 0 0)) 0x30 f30 ∧ Ready (sendAt 0 0 65 (gen 0 0)) 0x30 f30 ∧
    Ready (whileDmm (word 0x30 [(1, 37)])) 0x30 f30 ∧ ((whileDmm (word 0x30 [(1, 37)])).stall 0).interlocked [1] [] = true ∧
    (∃ s, Ready s 0x30 f30 ∧ (s.stall 0).interlocked [1] [] = false ∧ injectBusy s 0 4 0 false = true) ∧
    (∃ s, Ready s 0x30 f30 ∧ (s.stall 0).interlocked [1] [] = false ∧ injectBusy s 0 4 2 false = false ∧ (s.stall 0).qu.relays = [] ∧
      fenceEntry (gget (s.stall 0).active.fout 15) 9 0x40 = true ∧ (Stall.readUnits 0 1 16 (s.stall 0)).2.isSome = true) ∧
    (∃ s, Ready s 0x30 f30 ∧ (Stall.readUnits 0 1 1 (s.stall 0)).2 = none) ∧
    Ready (sendlAt 0 0) 0x31 f31 ∧ Ready (sendlAt 33 0) 0x31 f31 ∧ Ready (sendlAt 1 2) 0x31 f31 ∧ Ready (sendlAt 32 0xBF84) 0x31 f31 ∧
    (∃ s, Ready s 0x31 f31 ∧ s.fld 0 29 24 = 32 ∧ s.reg 0 5 + 4 * 32 = 0xC000 ∧ injectBusy s 0 4 0 false = false) ∧
    Ready (at0 (word 0x32 [(29, 35), (3, 33)]) []) 0x32 f32 ∧ Ready (at0 (word 0x32 [(28, 35), (3, 33)]) []) 0x32 f32 ∧
    Ready (injecting (at0 (word 0x32 []) [])) 0x32 f32 ∧ Ready (at0 (word 0x33 [(3, 56), (0x3FF, 40)]) []) 0x33 [(57, 56), (49, 40)] :=
  ⟨ready_of (by decide), ready_of (by decide), ready_of (by decide), by decide,
    ⟨injecting (sendAt 0 0 1 (gen 0 0)), ready_of (by decide), by decide, by decide⟩,
    ⟨sendAt 2 1 64 (gen 0 0), ready_of (by decide), by decide, by decide, by decide, by decide, by decide⟩,
    ⟨sendAt 0 0 1 (gen 0 0x300), ready_of (by decide), by decide⟩,
    ready_of (by decide), ready_of (by decide), ready_of (by decide), ready_of (by decide),
    ⟨sendlAt 32 0xBF80, ready_of (by decide), by decide, by decide, by decide⟩,
    ready_of (by decide), ready_of (by decide), ready_of (by decide), ready_of (by decide)⟩

/-- The E4M3 word of DMM, SMM or SDD with generators 1 and 2 on bank 0, ACC as given, with these further fields. -/
def matrixWord (op acc ng : Nat) (more : List (Nat × Nat)) : Word64 :=
  word op ([(acc, 57), (5, 51), (5, 47), (1, 44), (2, 41), (ng, 15)] ++ more)
/-- The state whose stall 0 issues the word with these words in the matrix engines. -/
def engaged (w : Word64) (dx dw rx rw : Option Job) : State :=
  lone { running w [] [] with eng := { Engines.idle with dexec := dx, dwait := dw, rexec := rx, rwait := rw } }
/-- Words on bank 1 with generators 4, 5 and 6, for the Draft and the Rake array. -/
def draftJob : Job := aJob (word 0x10 [(1, 55), (5, 51), (5, 47), (4, 44), (5, 41), (1, 15)])
def rakeJob : Job := aJob (word 0x18 [(1, 55), (5, 51), (5, 47), (4, 44), (5, 41), (1, 15)])
/-- A Rake word on bank 0. -/
def rakeJob0 : Job := aJob (word 0x18 [(5, 51), (5, 47), (4, 44), (5, 41), (1, 15)])

theorem witness_MatrixWordsIssue :
    Ready (engaged (matrixWord 0x10 0 0 []) none none none none) 0x10 [(57, 15)] ∧
    Ready (engaged (matrixWord 0x10 0 1 []) none none (some rakeJob0) none) 0x10 [(57, 15)] ∧
    Ready (engaged (matrixWord 0x10 0 1 []) none none (some rakeJob) none) 0x10 [(57, 15)] ∧
    Ready (engaged (matrixWord 0x10 0 4095 []) (some draftJob) none none none) 0x10 [(57, 15)] ∧
    Ready (engaged (matrixWord 0x10 1 1 []) (some draftJob) (some draftJob) none none) 0x10 [(57, 15)] ∧
    Ready (engaged (matrixWord 0x18 0 1 [(3, 13)]) none none none none) 0x18 [(57, 11)] ∧
    Ready (engaged (matrixWord 0x18 0 1 [(2, 13)]) none none none none) 0x18 [(57, 11)] ∧
    Ready (engaged (matrixWord 0x18 0 1 []) (some { draftJob with word := matrixWord 0x10 0 1 [] }) none none none) 0x18 [(57, 11)] ∧
    Ready (engaged (matrixWord 0x18 1 1 []) none none (some rakeJob) none) 0x18 [(57, 11)] ∧
    Ready (engaged (matrixWord 0x18 1 1 []) none none (some rakeJob) (some rakeJob)) 0x18 [(57, 11)] ∧
    Ready (engaged (matrixWord 0x19 0 1 [(1, 12), (1, 13)]) none none none none) 0x19 [(57, 9)] ∧
    Ready (engaged (matrixWord 0x19 0 1 [(4, 9)]) none none (some rakeJob) none) 0x19 [(57, 9)] ∧
    (∃ s, Ready s 0x19 [(57, 9)] ∧ (s.stall 0).eng.rexec = none ∧ (Stall.readUnits 0 3 (codeUnits (wordAt (s.stall 0))) (s.stall 0)).2.isSome = true) ∧
    (∃ s, Ready s 0x19 [(57, 9)] ∧ (s.stall 0).eng.rexec ≠ none ∧ (s.stall 0).eng.rwait = none) ∧
    (∃ s, Ready s 0x19 [(57, 9)] ∧ (Stall.readUnits 0 3 (codeUnits (wordAt (s.stall 0))) (s.stall 0)).2 = none) := by
  refine ⟨ready_of (by decide), ready_of (by decide), ready_of (by decide), ready_of (by decide), ready_of (by decide), ready_of (by decide),
    ready_of (by decide), ready_of (by decide), ready_of (by decide), ready_of (by decide), ready_of (by decide), ready_of (by decide),
    ⟨engaged (matrixWord 0x19 0 1 [(3, 9)]) none none none none, ready_of (by decide), by decide, by decide⟩,
    ⟨engaged (matrixWord 0x19 0 1 [(3, 9)]) none none (some rakeJob) none, ready_of (by decide), by decide, by decide⟩,
    ⟨lone (running (matrixWord 0x19 0 1 [(3, 9)]) [] [(3, gen 3 0x400)]), ready_of (by decide), by decide⟩⟩

/-- The state in which the DMM of the word runs on a bank 0 that holds `v` in its first cell; A's first element is 1, B's is `b`. -/
def dmmRuns (b : Byte) (v : Int) (e : Int) (src : AddrGen) : State :=
  lone { running 0 [] [(1, src), (2, gen 0 0x40)] with
    eng := { Engines.idle with dexec := some (aJob (matrixWord 0x10 1 1 [])), banks := ⟨Bank.zero, [(0, { Bank.zero with e := e, cells := ⟨Cell.zero, [(0, ⟨v, false, false⟩)]⟩ })]⟩ },
    mem := { Stall.atReset.mem with manger := [(0, 0x38#8), (0x1000, b)] } }

/-- How the word in execution ends. -/
def endOf (s : State) : Nat :=
  match runJob 0 (aJob (matrixWord 0x10 1 1 [])) (s.stall 0) with
  | .done _ _ _ => 0
  | .range _ => 1
  | .overflow => 2

theorem witness_MatrixWordsComplete :
    (∃ s, Canonical s ∧ (s.stall 0).eng.dexec = none ∧ (s.stall 0).eng.rexec = none) ∧
    (∃ s, Canonical s ∧ (s.stall 0).eng.dexec = some (aJob (matrixWord 0x10 1 1 [])) ∧ endOf s = 0) ∧
    (∃ s, Canonical s ∧ (s.stall 0).eng.dexec = some (aJob (matrixWord 0x10 1 1 [])) ∧ endOf s = 1) ∧
    (∃ s, Canonical s ∧ (s.stall 0).eng.dexec = some (aJob (matrixWord 0x10 1 1 [])) ∧ endOf s = 2 ∧ ((s.stall 0).bankOf 0 0).e + 8 = 511) ∧
    (∃ s, Canonical s ∧ (s.stall 0).eng.dexec = some (aJob (matrixWord 0x10 1 1 [])) ∧ endOf s = 2 ∧ ((s.stall 0).bankOf 0 0).e + 8 = 512) :=
  ⟨⟨State.reset, reset_canonical, by decide, by decide⟩, ⟨dmmRuns 0x38#8 0 0 (gen 0 0), canonical_of (by decide), by decide, by decide⟩,
    ⟨dmmRuns 0x38#8 0 0 (gen 0 0x300), canonical_of (by decide), by decide, by decide⟩,
    ⟨dmmRuns 0xB8#8 (-(2 ^ 63)) 503 (gen 0 0), canonical_of (by decide), by decide, by decide, by decide⟩,
    ⟨dmmRuns 0xB8#8 (-(2 ^ 63)) 504 (gen 0 0), canonical_of (by decide), by decide, by decide, by decide⟩⟩

theorem witness_BankRescaling :
    (∃ b : Bank, ∃ i, i < 128 ∧ (gget b.cells i).clamp = true) ∧ (∃ b : Bank, ∃ i, i < 128 ∧ (gget b.cells i).clamp = false ∧ (gget b.cells i).nan = false ∧
      (gget b.cells i).v % 2 ^ 8 ≠ 0 ∧ (gget b.cells i).v * 2 ^ 8 < 2 ^ 63) ∧
    (∃ b : Bank, ∃ i, i < 128 ∧ (gget b.cells i).v * 2 ^ 1 = 2 ^ 63) ∧ (∃ b : Bank, ∃ m, m < 8 ∧ (gget b.checks m).clamp = false ∧ (gget b.checks m).nan = false) :=
  ⟨⟨{ Bank.zero with cells := ⟨Cell.zero, [(127, ⟨5, false, true⟩)]⟩ }, 127, by decide, by decide⟩,
    ⟨{ Bank.zero with cells := ⟨Cell.zero, [(0, ⟨-1, false, false⟩)]⟩ }, 0, by decide, by decide, by decide, by decide, by decide⟩,
    ⟨{ Bank.zero with cells := ⟨Cell.zero, [(0, ⟨2 ^ 62, false, false⟩)]⟩ }, 0, by decide, by decide⟩, ⟨Bank.zero, 7, by decide, by decide, by decide⟩⟩

/-- A DRAIN of bank 0 through generator 1 in a format. -/
def drainAt (fmt : Nat) (g : AddrGen) : State := lone (running (word 0x12 [(fmt, 51), (1, 48)]) [] [(1, g)])

theorem witness_BankWords :
    let f := [(56, 55), (54, 51), (50, 48), (47, 46), (45, 41), (40, 33)]
    Ready (at0 (word 0x13 [(1, 57), (0x200, 27)]) []) 0x13 [(57, 57), (56, 55), (36, 27)] ∧ Ready (at0 (word 0x14 [(3, 55), (31, 50)]) []) 0x14 [(56, 55), (54, 50)] ∧
    Ready (drainAt 7 (gen 0 0)) 0x12 f ∧ Ready (whileDmm (word 0x12 [])) 0x12 f ∧ ((whileDmm (word 0x12 [])).stall 0).bankBusy 0 = true ∧
    (∃ s, Ready s 0x12 f ∧ (s.stall 0).bankBusy 0 = false ∧ (s.stall 0).interlocked [1] [0] = false ∧ (Stall.writeUnits 0 1 8 (List.replicate 512 0#8) (s.stall 0)).2 = true) ∧
    (∃ s, Ready s 0x12 f ∧ (s.stall 0).bankBusy 0 = false ∧ (s.stall 0).interlocked [1] [0] = false ∧ (Stall.writeUnits 0 1 8 (List.replicate 512 0#8) (s.stall 0)).2 = false) :=
  ⟨ready_of (by decide), ready_of (by decide), ready_of (by decide), ready_of (by decide), by decide,
    ⟨drainAt 0 (gen 0 0x2F8), ready_of (by decide), by decide, by decide, by decide⟩,
    ⟨drainAt 0 (gen 0 0x2F9), ready_of (by decide), by decide, by decide, by decide⟩⟩

/-- A PSEL of 16 * n scores and a PCHK of n values, through generators 1 (scores or values), 2 and 3. -/
def pselAt (n : Nat) (g : AddrGen) : State := lone (running (word 0x1A [(1, 52), (2, 49), (3, 46), (n, 35)]) [] [(1, g)])
def pchkAt (n : Nat) (g : AddrGen) : State := lone (running (word 0x1B [(1, 52), (2, 49), (3, 46), (n, 31)]) [] [(1, g)])

theorem witness_PredictorWords :
    let f := [(54, 52), (51, 49), (48, 46), (45, 35), (31, 27), (26, 22)]
    let g := [(54, 52), (51, 49), (48, 46), (45, 31), (30, 26), (25, 21)]
    Ready (pselAt 0 (gen 0 0)) 0x1A f ∧ Ready (whileDmm (word 0x1A [(1, 52), (2, 49), (3, 46), (1, 35)])) 0x1A f ∧
    (∃ s, Ready s 0x1A f ∧ (s.stall 0).interlocked [1, 2, 3] [0, 0] = false ∧ (Stall.readUnits 0 1 1 (s.stall 0)).2 = none) ∧
    (∃ s, Ready s 0x1A f ∧ (s.stall 0).interlocked [1, 2, 3] [0, 0] = false ∧ (Stall.readUnits 0 1 1 (s.stall 0)).2.isSome = true ∧
      (Stall.writeUnits 0 2 1 (List.replicate 2 0#8) (s.stall 0)).2 = true) ∧
    Ready (pchkAt 0 (gen 0 0)) 0x1B g ∧ Ready (pchkAt 32753 (gen 0 0)) 0x1B g ∧ Ready (whileDmm (word 0x1B [(1, 52), (2, 49), (3, 46), (1, 31)])) 0x1B g ∧
    (∃ s, Ready s 0x1B g ∧ (s.stall 0).interlocked [1, 2, 3] [0] = false ∧ (Stall.readUnits 0 2 1 (s.stall 0)).2.isSome = true ∧
      (Stall.readUnits 0 1 1 (s.stall 0)).2.isSome = true ∧ (Stall.writeUnits 0 3 1 (List.replicate 2 0#8) (s.stall 0)).2 = true) :=
  ⟨ready_of (by decide), ready_of (by decide), ⟨pselAt 1 (gen 0 0x300), ready_of (by decide), by decide, by decide⟩,
    ⟨pselAt 1 (gen 0 0x2FF), ready_of (by decide), by decide, by decide, by decide⟩,
    ready_of (by decide), ready_of (by decide), ready_of (by decide),
    ⟨pchkAt 16 (gen 0 0x2FF), ready_of (by decide), by decide, by decide, by decide, by decide⟩⟩

/-- A stall with these messages at the heads of queues 2 and 3, tags 0x10 and 0x11 being a pair. -/
def paired (a b : QMsg) : Stall :=
  { Stall.atReset with
    active := { Cfg.idle with tags := ⟨0, [(0x10, 0x0000C400), (0x11, 0x0000C600)]⟩ },
    qu := { QueueUnit.empty with queues := ⟨[], [(2, [a]), (3, [b])]⟩ } }

theorem witness_DispatchStartsARoutine :
    (∃ (s : State) (m : QMsg), Canonical s ∧ (s.stall 0).opened = true ∧ stallLive s 0 = true ∧ runningPlace s ≠ none ∧ (s.stall 0).seq.run = 0 ∧
      (s.stall 0).seq.lost = none ∧ (s.stall 0).eligible (((s.stall 0).seq.last + 1 + 5) % 32) = some ((m, 5), none) ∧
      ∀ j, j < 5 → (s.stall 0).eligible (((s.stall 0).seq.last + 1 + j) % 32) = none) ∧
    (∃ t : Stall, t.qu.queue 31 = []) ∧ (∃ (t : Stall) (m : QMsg), t.qu.queue 2 = [m] ∧ m.complete = false) ∧
    (∃ (t : Stall) (m n : QMsg), t.qu.queue 2 = [m] ∧ m.complete = true ∧ (gget t.active.tags m.tag).toNat.testBit 15 = true ∧ t.qu.queue 3 = [n] ∧ n.complete = true ∧ n.tag = m.tag ^^^ 1) ∧
    (∃ (t : Stall) (m n : QMsg), t.qu.queue 2 = [m] ∧ m.complete = true ∧ (gget t.active.tags m.tag).toNat.testBit 15 = true ∧ t.qu.queue 3 = [n] ∧ n.complete = false) :=
  ⟨⟨arrivedMsg, ⟨7, 0x80, [], 1, true⟩, canonical_of (by decide), by decide, by decide, by decide, by decide, by decide, by decide, by decide⟩,
    ⟨Stall.atReset, by decide⟩, ⟨paired ⟨1, 0x10, [], 0, false⟩ ⟨2, 0x11, [], 0, true⟩, _, rfl, by decide⟩,
    ⟨paired ⟨1, 0x10, [], 0, true⟩ ⟨2, 0x11, [], 0, true⟩, _, _, rfl, by decide, by decide, rfl, by decide, by decide⟩,
    ⟨paired ⟨1, 0x10, [], 0, true⟩ ⟨2, 0x11, [], 0, false⟩, _, _, rfl, by decide, by decide, rfl, by decide⟩⟩

/-- A message of generation `g` and one flit for stall 0, whose flit waits there; its header is at the ejection input, or gone. -/
def flitMsg (g fcount : Nat) (f : Bool) (path pos : List Nat) : TrackMsg :=
  ⟨5, .msg ⟨0, 0x40, 1, g, false, f, fcount, 1, 204900, false, false⟩ [], false, 1, false, path.map fun r => ⟨r, 4, false⟩, pos, 0, .moving, false⟩
/-- The receiver of `fenced` under this tag entry, queue 6 of this size, fence counter `cnt` and pen. -/
def receiver (entry size cnt : Nat) (pen : List PenEntry) : Stall :=
  { fenced cnt with
    active := { (fenced cnt).active with tags := ⟨0, [(0x40, BitVec.ofNat 32 entry)]⟩, conf := ⟨0, [(7, BitVec.ofNat 32 (size * 512))]⟩ },
    qu := { (fenced cnt).qu with pen := pen } }
/-- That receiver with the message at its ejection input. -/
def received (u : Stall) (m : TrackMsg) : State := { lone u with track := [m] }
/-- The check of what the queue unit's statement asks of a header's arrival: canonical, live, the message at the head of the input. -/
def arrivesB (s : State) : Bool :=
  canonB s && stallLive s 0 && decide ((gget (s.stall 0).qu.ej 1).head? = some 5) && (trackMsg s 5).isSome && (s.stall 0).opened
/-- A penned message of two units. -/
def penned (landed : Bool) : PenEntry := ⟨3, ⟨0, 0x40, 1, 0, false, true, 0, 1, 204900, false, false⟩, [], landed⟩

theorem witness_QueueUnitEvents :
    arrivesB (received (receiver 0x4C00 16 0 []) (flitMsg 1 0 false [0] [gone, 0])) = true ∧ arrivesB (received (receiver 0x4C00 16 0 []) (flitMsg 2 0 false [0] [gone, 0])) = true ∧
    arrivesB (received (receiver 0x0C00 16 0 []) (flitMsg 0 0 false [0] [gone, 0])) = true ∧ arrivesB (received (receiver 0x4C00 1 0 []) (flitMsg 0 0 false [0] [gone, 0])) = true ∧
    (∃ s, arrivesB s = true ∧ (s.stall 0).hasRoomFor 0x4C00 1 = false) ∧
    (∃ s, arrivesB s = true ∧ (s.stall 0).hasRoomFor 0x4C00 1 = true ∧ gget (s.stall 0).qu.landing 1 = none) ∧
    (∃ s, arrivesB s = true ∧ (s.stall 0).hasRoomFor 0xA4C00 1 = true) ∧
    (∃ s, arrivesB s = true ∧ fenceMatch (s.stall 0).active.fin 204900 0x40 = some 0 ∧ gget (s.stall 0).qu.finCnt 0 = 0 ∧ (s.stall 0).qu.pen.length = 7) ∧
    (∃ s, arrivesB s = true ∧ fenceMatch (s.stall 0).active.fin 204900 0x40 = some 0 ∧ gget (s.stall 0).qu.finCnt 0 = 0 ∧ (s.stall 0).qu.pen.length = 8) ∧
    (∃ s, canonB s = true ∧ stallLive s 0 = true ∧ gget (s.stall 0).qu.landing 1 = some (.queue 5 6) ∧ (lastFlit s 5).isSome = true) ∧
    (∃ s, canonB s = true ∧ stallLive s 0 = true ∧ gget (s.stall 0).qu.landing 1 = some (.slot 5 2) ∧ (lastFlit s 5).isSome = true) ∧
    (∃ s : State, canonB s = true ∧ stallLive s 0 = true ∧ (s.stall 0).qu.relays.length = 1 ∧ injectBusy s 0 4 1 false = false) ∧
    (∃ s, canonB s = true ∧ stallLive s 0 = true ∧ (s.stall 0).slotFull 2 = true ∧ (s.stall 0).hasUnits 5 2 = true) ∧
    (∃ s, canonB s = true ∧ stallLive s 0 = true ∧ (s.stall 0).slotFull 2 = true ∧ (s.stall 0).hasUnits 5 2 = false) ∧
    (∃ s, canonB s = true ∧ stallLive s 0 = true ∧ (gget (s.stall 0).qu.slots 2).releasing = true) ∧
    (∃ s, canonB s = true ∧ stallLive s 0 = true ∧ (s.stall 0).opened = true ∧ ((s.stall 0).qu.pen.find? (penReady (s.stall 0))).isSome = true) := by
  let landing := fun (l : Landing) => { receiver 0x4C00 16 0 [] with qu := { QueueUnit.empty with landing := ⟨none, [(1, some l)]⟩ } }
  let relays := { receiver 0x4C00 16 0 [] with qu := { QueueUnit.empty with relays := [⟨6, ⟨1, 0x40, 1, 0, false, false, 0, 1, 9, false, true⟩, [], 6, 2, false⟩] } }
  let full := { combining 3 [] with active := { (combining 3 []).active with conf := ⟨0, [(6, 0x200), (35, 0x00060464)]⟩ } }
  let ends := { combining 0 [] with qu := { QueueUnit.empty with slots := ⟨Slot.empty, [(2, ⟨⟨0, []⟩, 0, 0, 0x80, false, true, 1⟩)]⟩ } }
  exact ⟨by decide, by decide, by decide, by decide, ⟨received (receiver 0x4C00 2 0 [] |> fun u => { u with qu := { u.qu with queues := ⟨[], [(6, [⟨1, 0x40, [], 0, true⟩])]⟩ } })
      (flitMsg 0 0 false [0] [gone, 0]), by decide, by decide⟩,
    ⟨received (receiver 0x4C00 2 0 []) (flitMsg 0 0 false [0] [gone, 0]), by decide, by decide, by decide⟩,
    ⟨received ({ receiver 0xA4C00 2 0 [] with active := { (receiver 0xA4C00 2 0 []).active with conf := ⟨0, [(35, 0x00060464)]⟩ } }) (flitMsg 0 0 false [0] [gone, 0]),
      by decide, by decide⟩,
    ⟨received (receiver 0x4C00 16 0 (List.replicate 7 (penned false))) (flitMsg 0 1 true [0] [gone, 0]), by decide, by decide, by decide, by decide⟩,
    ⟨received (receiver 0x4C00 16 0 (List.replicate 8 (penned false))) (flitMsg 0 1 true [0] [gone, 0]), by decide, by decide, by decide, by decide⟩,
    ⟨received (landing (.queue 5 6)) (flitMsg 0 0 false [0] [gone, 0]), by decide, by decide, by decide, by decide⟩,
    ⟨received (landing (.slot 5 2)) (flitMsg 0 0 false [0] [gone, 0]), by decide, by decide, by decide, by decide⟩,
    ⟨lone relays, by decide, by decide, by decide, by decide⟩, ⟨lone (combining 3 []), by decide, by decide, by decide, by decide⟩,
    ⟨lone full, by decide, by decide, by decide, by decide⟩, ⟨lone ends, by decide, by decide, by decide⟩,
    ⟨lone (receiver 0x4C00 16 0 [penned true]), by decide, by decide, by decide, by decide⟩⟩

/-- Stall 0's router holds the message, and yard 0's track rail is on. -/
def moving (m : TrackMsg) : State :=
  { State.reset with track := [m], yards := ⟨Yard.atReset, [(0, { Yard.atReset with track := true })]⟩ }
/-- A message of VC0 to `dest` with its header at router 0, or further along `path`. -/
def vc0Msg (dest : Nat) (path pos : List Nat) : TrackMsg :=
  ⟨5, .msg ⟨dest, 0x40, 0, 0, false, false, 0, 1, 0, false, false⟩ [], false, 0, false, path.map fun r => ⟨r, 4, false⟩, pos, 0, .moving, false⟩

theorem witness_TrackMoves :
    (∃ m, trackMsg (moving m) m.id = some m ∧ m.fate = .moving ∧ m.pos[0]? = some 0 ∧ behindOther (moving m) m = false ∧ headerNext (moving m) m none = some .discard) ∧
    (∃ m, trackMsg (moving m) m.id = some m ∧ behindOther (moving m) m = false ∧ headerNext (moving m) m none = some .eject ∧ gget ((moving m).stall m.packet.dest).qu.ej m.vc = []) ∧
    (∃ m h, trackMsg (moving m) m.id = some m ∧ behindOther (moving m) m = false ∧ headerNext (moving m) m none = some (.hop h) ∧ hasRoom (moving m) h m.vc m.inbound = true ∧
      linkTaken (moving m) m.id m.vc h.router h.side = false ∧ m.vc = 0 ∧ m.refusals < 7) ∧
    (∃ m : TrackMsg, trackMsg (moving m) m.id = some m ∧ m.pos[1]? = some 0 ∧ m.pos[0]? = some 1 ∧ behindOther (moving m) m = false ∧ m.path.length = 2) ∧
    (∃ (s : State) (p : Packet), (s.port 0).outbox = [p] ∧ p.isLoft = false ∧ (sidingLink s 0 p).isSome = true) ∧
    (∃ (s : State) (p : Packet), ringGen s = some 0 ∧ (sidingLink s 143 p).isSome = true) :=
  ⟨⟨vc0Msg (128 * 1024) [127 * 1024] [0, 0], by decide, by decide, by decide, by decide, by decide⟩,
    ⟨vc0Msg 0 [0] [0, 0], by decide, by decide, by decide, by decide⟩,
    ⟨vc0Msg 1 [0] [0, 0], ⟨1, 1, false⟩, by decide, by decide, by decide, by decide, by decide, by decide, by decide⟩,
    ⟨vc0Msg 2 [0, 1] [1, 0], by decide, by decide, by decide, by decide, by decide⟩,
    ⟨{ State.reset with ports := ⟨Port.atReset, [(0, { Port.atReset with outbox := [(vc0Msg 9 [] []).packet] })]⟩ }, (vc0Msg 9 [] []).packet, by decide, by decide, by decide⟩,
    ⟨withRun State.reset, (vc0Msg 9 [] []).packet, by decide, by decide⟩⟩

/-- Stall 0 takes part in a line and has arrived at it, or not. -/
def lineStall (bit pend : Nat) : Stall := { running 0 [] [] with active := { (running 0 [] []).active with mask := BitVec.ofNat 32 (2 ^ bit) }, pend := pend }

theorem witness_GatesEpochsAndRoutes :
    (∃ s, Canonical s ∧ gateBit 0 3 = some 3 ∧ participants s 0 0 3 = [0] ∧ (s.stall 0).pend.testBit 3 = true) ∧
    (∃ s, Canonical s ∧ gateBit 1 7 = some 11 ∧ participants s 1 0 11 = [0] ∧ (s.stall 0).pend.testBit 11 = true) ∧
    (∃ s, Canonical s ∧ gateBit 2 14 = some 26 ∧ participants s 2 0 26 = [0] ∧ (s.stall 0).pend.testBit 26 = true ∧ s.sec.earm = true ∧ s.sec.eline = 14) ∧
    gwf (lineStall 3 8).qu.tallies = true ∧
    (∃ s, Canonical s ∧ watchdogCounts s (shedKey 0 0) = true ∧ (s.shed (shedKey 0 0)).fired = false) ∧
    (∀ y, y < 64 → (State.reset.yard y).cnt1 = 0) ∧ (∃ s : State, Canonical s ∧ s.sec.inj = false ∧ (s.yard 63).cnt1 ≠ 0) ∧
    (∃ es : List Byte, es.length = 64 ∧ true ≠ State.reset.sec.inj ∧ State.reset.sec.drained = true) ∧
    (∃ s : State, Canonical s ∧ ((List.range 64).filter fun y => (s.yard y).tracktrip) ≠ [] ∧ (routeTable s s.sec.inj).dead = [] ∧ s.sec.drained = true) :=
  ⟨⟨lone (lineStall 3 8), canonical_of (by decide), by decide, by decide, by decide⟩, ⟨lone (lineStall 11 0x800), canonical_of (by decide), by decide, by decide, by decide⟩,
    ⟨let s := lone (lineStall 26 0x4000000); { s with sec := { s.sec with earm := true, eline := 14 } }, canonical_of (by decide), by decide, by decide, by decide, by decide, by decide⟩,
    by decide, ⟨withRun (at0 0 []), canonical_of (by decide), by decide, by decide⟩, by decide,
    ⟨{ State.reset with yards := ⟨Yard.atReset, [(63, { Yard.atReset with cnt1 := 1 })]⟩ }, canonical_of (by decide), by decide, by decide⟩,
    ⟨List.replicate 64 0#8, by decide, by decide, by decide⟩,
    ⟨{ State.reset with yards := ⟨Yard.atReset, [(63, { Yard.atReset with tracktrip := true })]⟩ }, canonical_of (by decide), by decide, by decide, by decide⟩⟩

/-! The section controller. A tack that LOAD takes has 8 MiB of stall map, too much to evaluate its digest: the tack below is a header
whose digest field is what the digest of the rest is, and the check of R197 is proved of it. -/

/-- The header of a tack of one slice and one parameter block, all their bytes 0, without its digest (R195). -/
def tackHead : Mem :=
  [(0x00, 0xE4#8), (0x01, 0xC1#8), (0x02, 0xC4#8), (0x03, 0x7A#8), (0x04, 1#8), (0x08, 1#8), (0x1C, 1#8), (0x20, 1#8), (0x29, 1#8),
   (0x30, 0xC0#8), (0x31, 0x23#8), (0x38, 0x80#8), (0x39, 0x23#8), (0x70, 0xC0#8), (0x71, 0x23#8), (0x72, 0x80#8)]

/-- The bytes of a digest in the header's digest field. -/
def digestCells (d : Nat) : Mem := ((List.range 64).map fun i => (0xC0 + i, BitVec.ofNat 8 (d / 256 ^ i))).filter fun c => decide (c.2 ≠ 0#8)

/-- The tack with its digest. -/
def aTack : Mem := tackHead ++ digestCells (tackDigest tackHead)

theorem digestCells_keys {d : Nat} {c : Nat × Byte} (h : c ∈ digestCells d) : 0xC0 ≤ c.1 ∧ c.1 < 0x100 := by
  simp only [digestCells, List.mem_filter, List.mem_map, List.mem_range] at h
  obtain ⟨⟨i, hi, rfl⟩, _⟩ := h
  exact ⟨Nat.le_add_right .., by simp only; omega⟩

theorem lookup_append (k : Nat) (l r : Mem) : lookupKey k (l ++ r) = (match lookupKey k l with | some v => some v | none => lookupKey k r) := by
  induction l with
  | nil => rfl
  | cons c l ih => obtain ⟨j, v⟩ := c; simp only [List.cons_append, lookupKey]; split <;> simp_all

theorem lookup_absent {k : Nat} {l : Mem} (h : ∀ c ∈ l, c.1 ≠ k) : lookupKey k l = none := by
  induction l with
  | nil => rfl
  | cons c l ih =>
    obtain ⟨j, v⟩ := c
    simp only [lookupKey]
    rw [if_neg (h _ (List.mem_cons_self ..)), ih fun c hc => h c (List.mem_cons_of_mem _ hc)]

theorem read_tack {d a : Nat} (h : a < 0xC0 ∨ 0x100 ≤ a) : Memory.read (tackHead ++ digestCells d) a = Memory.read tackHead a := by
  have hn : lookupKey a (digestCells d) = none := lookup_absent fun c hc => by have := digestCells_keys hc; omega
  unfold Memory.read
  rw [lookup_append, hn]
  cases lookupKey a tackHead <;> rfl

theorem hdr_tack {d off n : Nat} (h : off + n ≤ 0xC0 ∨ 0x100 ≤ off) : hdrField (tackHead ++ digestCells d) off n = hdrField tackHead off n := by
  unfold hdrField Memory.readLe Memory.readBytes
  congr 1
  refine List.map_congr_left fun i hi => read_tack ?_
  have := List.mem_range.mp hi
  omega

theorem zero_tack {d off n : Nat} (h : off + n ≤ 0xC0) : zeroBytes (tackHead ++ digestCells d) off n = zeroBytes tackHead off n := by
  unfold zeroBytes
  rw [List.any_append, show (digestCells d).any (fun c => decide (off ≤ c.1) && decide (c.1 < off + n)) = false from
    List.any_eq_false.mpr fun c hc => by have := digestCells_keys hc; simp; omega, Bool.or_false]

theorem window_tack {d lo n : Nat} (h : 0x100 ≤ lo) : Memory.window (tackHead ++ digestCells d) lo n = Memory.window tackHead lo n := by
  unfold Memory.window
  rw [List.filter_append, List.map_append, show (digestCells d).filter (fun c => decide (lo ≤ c.1) && decide (c.1 < lo + n)) = [] from
    List.filter_eq_nil_iff.mpr fun c hc => by have := digestCells_keys hc; simp; omega]
  simp

theorem byte_of (d k : Nat) (hk : k < 64) : (lookupKey (0xC0 + k) (digestCells d)).getD 0#8 = BitVec.ofNat 8 (d / 256 ^ k) := by
  have go : ∀ (is : List Nat), is.Nodup → k ∈ is →
      (lookupKey (0xC0 + k) ((is.map fun i => (0xC0 + i, BitVec.ofNat 8 (d / 256 ^ i))).filter fun c => decide (c.2 ≠ 0#8))).getD 0#8 = BitVec.ofNat 8 (d / 256 ^ k) := by
    intro is
    induction is with
    | nil => simp
    | cons i is ih =>
      intro hn hm
      have ⟨h1, h2⟩ := List.nodup_cons.mp hn
      simp only [List.map_cons, List.filter_cons]
      rcases List.mem_cons.mp hm with rfl | hm'
      · split
        · simp [lookupKey]
        · next hz =>
          have hz' : BitVec.ofNat 8 (d / 256 ^ k) = 0#8 := by simpa using hz
          rw [lookup_absent, hz']
          · rfl
          · intro c hc
            simp only [List.mem_filter, List.mem_map] at hc
            obtain ⟨⟨j, hj, rfl⟩, _⟩ := hc
            have : j ≠ k := fun e => h1 (e ▸ hj)
            simp only; omega
      · have hik : i ≠ k := fun e => h1 (e ▸ hm')
        split
        · simp only [lookupKey]; rw [if_neg (by omega)]; exact ih h2 hm'
        · exact ih h2 hm'
  exact go _ List.nodup_range (List.mem_range.mpr hk)

theorem leNat_digits (d n : Nat) (h : d < 256 ^ n) : leNat ((List.range n).map fun i => BitVec.ofNat 8 (d / 256 ^ i)) = d := by
  induction n generalizing d with
  | zero => simp at h; subst h; rfl
  | succ n ih =>
    rw [List.range_succ_eq_map, List.map_cons, List.map_map]
    have e : ((fun i => BitVec.ofNat 8 (d / 256 ^ i)) ∘ Nat.succ) = fun i => BitVec.ofNat 8 (d / 256 / 256 ^ i) := by
      funext i; simp only [Function.comp, Nat.succ_eq_add_one]; rw [Nat.div_div_eq_div_mul, Nat.pow_succ, Nat.mul_comm]
    have hd : d / 256 < 256 ^ n := Nat.div_lt_of_lt_mul (by rw [Nat.pow_succ] at h; omega)
    rw [e]
    show (BitVec.ofNat 8 (d / 256 ^ 0)).toNat + 256 * leNat _ = d
    rw [ih _ hd]
    simp only [Nat.pow_zero, Nat.div_one, BitVec.toNat_ofNat]
    omega

/-- Every lane is a 64-bit number. -/
def Lanes (a : List Nat) : Prop := ∀ x ∈ a, x < 2 ^ 64

theorem lanes_getD {a : List Nat} (h : Lanes a) (i : Nat) : a.getD i 0 < 2 ^ 64 := by
  rw [List.getD_eq_getElem?_getD]
  cases hi : a[i]? with
  | none => simp
  | some v => simpa using h v (List.mem_of_getElem? hi)

theorem lanes_step (a : List Nat) (rc : Nat) (hr : rc < 2 ^ 64) : Lanes (keccakStep a rc) := by
  have hb : ∀ f : Nat → Nat × Nat, Lanes ((List.range 25).map fun i => rotl64 (f i).1 (f i).2) := by
    intro f x hx
    simp only [List.mem_map] at hx
    obtain ⟨i, _, rfl⟩ := hx
    exact Nat.mod_lt _ (by decide)
  have he : ∀ b : List Nat, Lanes b → Lanes ((List.range 25).map fun i =>
      b.getD (i % 5 % 5 + 5 * (i / 5 % 5)) 0 ^^^ (((2 ^ 64 - 1) ^^^ b.getD ((i % 5 + 1) % 5 + 5 * (i / 5 % 5)) 0) &&& b.getD ((i % 5 + 2) % 5 + 5 * (i / 5 % 5)) 0)) := by
    intro b hl x hx
    simp only [List.mem_map] at hx
    obtain ⟨i, _, rfl⟩ := hx
    exact Nat.xor_lt_two_pow (lanes_getD hl _) (Nat.and_lt_two_pow _ (lanes_getD hl _))
  intro x hx
  rcases List.mem_or_eq_of_mem_set hx with hx | rfl
  · exact he _ (hb fun i => (_, _)) x hx
  · exact Nat.xor_lt_two_pow (lanes_getD (he _ (hb fun i => (_, _))) 0) hr

theorem lanes_rounds (rs : List Nat) (h : Lanes rs) (a : List Nat) (ha : Lanes a) : Lanes (rs.foldl keccakStep a) := by
  induction rs generalizing a with
  | nil => exact ha
  | cons r rs ih => exact ih (fun x hx => h x (List.mem_cons_of_mem _ hx)) _ (lanes_step a r (h r (List.mem_cons_self ..)))

theorem lanes_absorb (a : List Nat) (blk : List Byte) : Lanes (keccakAbsorb a blk) := by
  obtain ⟨r, rs, hrs⟩ : ∃ r rs, keccakRound = r :: rs := ⟨_, _, rfl⟩
  have hall : Lanes keccakRound := by simp [Lanes, keccakRound]
  unfold keccakAbsorb
  rw [hrs] at hall ⊢
  exact lanes_rounds rs (fun x hx => hall x (List.mem_cons_of_mem _ hx)) _ (lanes_step _ r (hall r (List.mem_cons_self ..)))

theorem lanes_blocks (n : Nat) (bs : List Byte) (a : List Nat) (ha : Lanes a) : Lanes (keccakBlocks n bs a) := by
  induction n generalizing bs a with
  | zero => exact ha
  | succ n ih => exact ih _ _ (lanes_absorb a _)

theorem digest_lt {a : List Nat} (ha : Lanes a) (n : Nat) : (List.range n).foldl (fun acc i => acc + a.getD i 0 * 2 ^ (64 * i)) 0 < 2 ^ (64 * n) := by
  induction n with
  | zero => exact Nat.one_pos
  | succ n ih =>
    rw [List.range_succ, List.foldl_append, List.foldl_cons, List.foldl_nil, Nat.mul_succ, Nat.pow_add, Nat.mul_comm (2 ^ (64 * n))]
    have h := Nat.mul_le_mul_right (2 ^ (64 * n)) (lanes_getD ha n)
    rw [Nat.succ_mul] at h
    omega

theorem sha3_lt (bs : List Byte) : sha3 bs < 256 ^ 64 := by
  have h0 : Lanes (List.replicate 25 0) := by intro x hx; obtain ⟨_, rfl⟩ := List.mem_replicate.mp hx; decide
  have e : 2 ^ (64 * 8) = 256 ^ 64 := by rw [show (256 : Nat) = 2 ^ 8 from rfl, ← Nat.pow_mul]
  rw [← e]
  unfold sha3
  exact digest_lt (lanes_blocks _ _ _ h0) 8
/-- Fields and zero bytes below the digest field are the header's. -/
theorem tack_low (off n : Nat) (h : off + n ≤ 0xC0) : hdrField aTack off n = hdrField tackHead off n := hdr_tack (.inl h)

theorem tack_zero (off n : Nat) (h : off + n ≤ 0xC0) : zeroBytes aTack off n = zeroBytes tackHead off n := zero_tack h

theorem tack_digest : tackDigest aTack = tackDigest tackHead := by
  unfold tackDigest
  rw [show tackLen aTack = tackLen tackHead from tack_low _ _ (by decide)]
  refine congrArg sha3 (List.map_congr_left fun a _ => ?_)
  split
  · rfl
  · next h => exact read_tack (by omega)

theorem tack_field : hdrField aTack 0xC0 64 = tackDigest tackHead := by
  unfold aTack
  generalize hd : tackDigest tackHead = d
  have hlt : d < 256 ^ 64 := by rw [← hd]; exact sha3_lt _
  unfold hdrField Memory.readLe Memory.readBytes Memory.read
  refine Eq.trans (congrArg leNat (List.map_congr_left fun i hi => ?_)) (leNat_digits d 64 hlt)
  have hi' := List.mem_range.mp hi
  rw [lookup_append, show lookupKey (0xC0 + i) tackHead = none from lookup_absent (by
    intro c hc e; have : ∀ c ∈ tackHead, c.1 < 0xC0 := by decide
    have := this c hc; omega), byte_of d i hi']

theorem tack_layout : tackLayoutOk aTack = true := by
  have l := tack_low
  have z := tack_zero
  have n1 : tackRtdN aTack = 0 := (l _ _ (by decide)).trans (by decide)
  have n2 : tackMrdN aTack = 0 := (l _ _ (by decide)).trans (by decide)
  have n3 : tackPwrN aTack = 0 := (l _ _ (by decide)).trans (by decide)
  have n4 : tackSlices aTack = 1 := (l _ _ (by decide)).trans (by decide)
  have n5 : tackParams aTack = 1 := (l _ _ (by decide)).trans (by decide)
  have h1 : tackHdrOk aTack = true := by
    unfold tackHdrOk
    rw [l _ _ (by decide), l _ _ (by decide), l _ _ (by decide), z _ _ (by decide), z _ _ (by decide), z _ _ (by decide), z _ _ (by decide), z _ _ (by decide),
      z _ _ (by decide)]
    decide
  have h2 : tackCountsOk aTack = true := by unfold tackCountsOk; rw [n1, n2, n3, n4, n5]; decide
  have h3 : tackLen aTack = tackLen tackHead := l _ _ (by decide)
  have h4 : tackRegions aTack = tackRegions tackHead := by
    unfold tackRegions
    rw [l _ _ (by decide), l _ _ (by decide), l _ _ (by decide), l _ _ (by decide), l _ _ (by decide), l _ _ (by decide), n1, n2, n3, n4, n5]
    decide
  have h5 : tackMap aTack = gconst 0 := by
    unfold tackMap Memory.words
    rw [l _ _ (by decide), show hdrField tackHead 0x30 8 = 0x23C0 from by decide, show aTack = tackHead ++ digestCells (tackDigest tackHead) from rfl,
      window_tack (by decide)]
    decide
  have h6 : tackSlice aTack 0 = [] := by
    unfold tackSlice
    rw [l _ _ (by decide), show hdrField tackHead 0x28 8 = 0x100 from by decide, show aTack = tackHead ++ digestCells (tackDigest tackHead) from rfl,
      window_tack (by decide)]
    decide
  have h7 : tackMapOk aTack = true := by unfold tackMapOk; rw [h5, n4, n5]; decide
  have h8 : tackRtd aTack = [] := by unfold tackRtd; rw [n1]; rfl
  have h9 : tackMrd aTack = [] := by unfold tackMrd; rw [n2]; rfl
  have h10 : tackPwrOk aTack = true := by unfold tackPwrOk; rw [n3]; rfl
  have h11 : tackEpsw aTack = false := by unfold tackEpsw; rw [l _ _ (by decide)]; decide
  unfold tackLayoutOk
  rw [h1, h2, h3, h4, n1, n2, n4, h7, h8, h9, h10, h11]
  simp only [List.range_one, List.all_cons, List.all_nil, h6]
  decide

theorem tack_taken (size : Nat) (h : tackLen tackHead ≤ size) : tackRefused aTack size = none := by
  unfold tackRefused
  rw [tack_low 0 4 (by decide), tack_low 4 2 (by decide), tack_low 6 2 (by decide), if_neg (by decide),
    show tackLen aTack = tackLen tackHead from tack_low _ _ (by decide), if_neg (by omega), tack_layout, tack_digest, tack_field]
  simp

/-- The state with places 0 and 1 as given. -/
def placed (a b : Place) : State := { State.reset with sec := { SecBlock.atReset with places := ⟨Place.atReset, [(0, a), (1, b)].filter fun c => decide (c.2 ≠ Place.atReset)⟩ } }
/-- A place in this state. -/
def inState (st : Nat) : Place := { Place.atReset with st := st }
/-- A tack stream (MODE 2) of 0x803 blocks that has come to rest on port 0, context 0, in this state; SEC.LOADSRC names it as 1. -/
def tackStream (st : Nat) (s : State) : State :=
  { s with ports := ⟨Port.atReset, [(0, { Port.atReset with ctxs :=
    ⟨StreamCtx.atReset, [(0, { StreamCtx.atReset with desc := ⟨0, [(0, BitVec.ofNat 64 (2 * 2 ^ 34)), (2, 0x803)]⟩, st := st, tackBuf := aTack })]⟩ })]⟩ }
/-- A place that loads from that stream, or reloads from it. -/
def loads (st : Nat) (rld rldRun : Bool) : Place := { inState st with source := 1, rld := rld, rldRun := rldRun, digest := tackDigest tackHead }
/-- Every stall's rack holds an IDLE directory entry for place 0 of section 1. -/
def rackedIdle (s : State) : State := { s with stalls := gconst { Stall.atReset with mem := { Stall.atReset.mem with loftC := [(0x1FC40, 1#8), (0x1FC4A, 3#8)] } } }
/-- But stall 0's rack holds none. -/
def oneBare (s : State) : State := { s with stalls := ⟨s.stalls.dflt, [(0, Stall.atReset)]⟩ }
/-- Place 0 is being armed. -/
def armingPlace (s : State) : State := { s with sec := { s.sec with arming := some 0 } }

theorem witness_PlaceCommands :
    (∃ s : State, Canonical s ∧ (s.place 0).st = 0) ∧ (∃ s : State, Canonical s ∧ (s.place 0).st = 4) ∧ (∃ s : State, Canonical s ∧ (s.place 0).st = 7 ∧ s.sec.arming = none) ∧
    (∃ s : State, Canonical s ∧ (s.place 0).st = 5 ∧ (s.place 0).rld = true ∧ (s.place 0).rldRun = false) ∧ (∃ s : State, Canonical s ∧ (s.place 0).st = 3 ∧ s.sec.openOut = false) ∧
    (∃ s : State, Canonical s ∧ (s.place 0).st = 2 ∧ armedPlace s = some 1) ∧ (∃ s : State, Canonical s ∧ (s.place 0).st = 2 ∧ armedPlace s = none ∧ (s.place 0).rld = true) ∧
    (∃ s : State, Canonical s ∧ (s.place 0).st = 2 ∧ (s.place 0).epsw = true ∧ s.sec.drained = false) ∧ (∃ s : State, Canonical s ∧ (s.place 0).st = 2 ∧ (s.place 0).epsw = true ∧ s.sec.drained = true) ∧
    (∃ s : State, Canonical s ∧ (s.place 0).st = 1 ∧ tackSource s (s.place 0).source = .failed) ∧
    (∃ s : State, Canonical s ∧ (s.place 0).st = 1 ∧ tackSource s (s.place 0).source = .ready [] hmemSize ∧ tackRefused [] hmemSize = some 8) ∧
    (∃ s : State, Canonical s ∧ (s.place 0).st = 1 ∧ tackSource s (s.place 0).source = .ready aTack (0x803 * 4096) ∧ tackRefused aTack (0x803 * 4096) = none) ∧
    (∃ s : State, Canonical s ∧ (s.place 0).rldRun = true ∧ tackSource s (s.place 0).source = .ready aTack (0x803 * 4096) ∧ hdrField aTack 0xC0 64 = (s.place 0).digest) ∧
    (∃ s : State, Canonical s ∧ s.sec.arming = some 0 ∧ armFailure s 0 = some 0) ∧
    (∃ s : State, Canonical s ∧ s.sec.arming = some 0 ∧ armFailure s 0 = none ∧ (s.place 0).epsw = false ∧ s.sec.auto = false) := by
  exact ⟨⟨State.reset, reset_canonical, by decide⟩, ⟨placed (inState 4) Place.atReset, canonical_of (by decide), by decide⟩,
    ⟨placed (inState 7) Place.atReset, canonical_of (by decide), by decide, by decide⟩,
    ⟨placed { inState 5 with rld := true } Place.atReset, canonical_of (by decide), by decide, by decide, by decide⟩,
    ⟨placed (inState 3) Place.atReset, canonical_of (by decide), by decide, by decide⟩, ⟨placed (inState 2) (inState 3), canonical_of (by decide), by decide, by decide⟩,
    ⟨placed { inState 2 with rld := true } Place.atReset, canonical_of (by decide), by decide, by decide, by decide⟩,
    ⟨let s := placed { inState 2 with epsw := true } Place.atReset; { s with sec := { s.sec with drained := false } }, canonical_of (by decide), by decide, by decide, by decide⟩,
    ⟨placed { inState 2 with epsw := true } Place.atReset, canonical_of (by decide), by decide, by decide, by decide⟩,
    ⟨{ placed { inState 1 with source := 1 } Place.atReset with ports := ⟨Port.atReset, [(0, { Port.atReset with ctxs :=
        ⟨StreamCtx.atReset, [(0, { StreamCtx.atReset with desc := ⟨0, [(0, BitVec.ofNat 64 (2 * 2 ^ 34))]⟩, st := 5 })]⟩ })]⟩ }, canonical_of (by decide), by decide, by decide⟩,
    ⟨placed (inState 1) Place.atReset, canonical_of (by decide), by decide, by decide, by decide⟩,
    ⟨tackStream 4 { State.reset with sec := { SecBlock.atReset with places := ⟨Place.atReset, [(0, { inState 1 with source := 1 })]⟩ } }, ⟨rfl, rfl, rfl, rfl, rfl, rfl, rfl, rfl, rfl, rfl, rfl⟩, rfl, rfl,
      tack_taken _ (by decide)⟩,
    ⟨tackStream 4 { State.reset with sec := { SecBlock.atReset with places := ⟨Place.atReset, [(0, loads 5 true true)]⟩ } }, ⟨rfl, rfl, rfl, rfl, rfl, rfl, rfl, rfl, rfl, rfl, rfl⟩, rfl, rfl,
      tack_field⟩,
    ⟨oneBare (armingPlace (rackedIdle (placed { inState 2 with secid := 1 } Place.atReset))), canonical_of (by decide), by decide, by decide⟩,
    ⟨armingPlace (rackedIdle (placed { inState 2 with secid := 1 } Place.atReset)), canonical_of (by decide), by decide, by decide, by decide, by decide⟩⟩

/-- START's section controller state: place 0 ARMED with this PREDSEC, place 1 in this state. -/
def armedWith (pred : Word64) (other : Nat) : State := placed { inState 3 with predsec := pred } (inState other)
/-- The open is out for place 0 of this state. -/
def opening (s : State) : State := { s with sec := { s.sec with openOut := true } }

theorem reset_allArrived (s : State) (_hy : s.yards = gconst Yard.atReset) (hp : s.psheds = gconst PShed.atReset) (_hs : s.sheds = gconst Shed.atReset) : allArrived s = true := by
  refine List.all_eq_true.mpr fun k _ => ?_
  have h : s.pshed (pshedOf s k) = PShed.atReset := by unfold State.pshed; rw [hp]; rfl
  simp only [h]
  simp [PShed.atReset]

theorem witness_SectionRuns :
    (∃ s : State, Canonical s ∧ (s.place 0).st ≠ 3 ∧ s.sec.cplace < 8 ∧ runningPlace s = none) ∧ (∃ s : State, Canonical s ∧ (s.place 0).st = 3 ∧ s.sec.openOut = true) ∧
    (∃ s : State, Canonical s ∧ (s.place 0).st = 3 ∧ s.sec.openOut = false ∧ activePlace s = some 1) ∧
    (∃ s : State, Canonical s ∧ (s.place 0).st = 3 ∧ s.sec.openOut = false ∧ activePlace s = none ∧ (s.place 0).predsec ≠ 0 ∧ (s.place 0).predsec ≠ s.sec.lastsec) ∧
    (∃ s : State, Canonical s ∧ (s.place 0).st = 3 ∧ s.sec.openOut = false ∧ activePlace s = none ∧ (s.place 0).predsec = 0 ∧ startHeld s = true) ∧
    (∃ s : State, Canonical s ∧ (s.place 0).st = 3 ∧ s.sec.openOut = false ∧ activePlace s = none ∧ (s.place 0).predsec = 0 ∧ startHeld s = false) ∧
    (∃ s : State, Canonical s ∧ runningPlace s = some 0 ∧ s.sec.cplace < 8) ∧
    (∃ s : State, Canonical s ∧ armedPlace s = some 0 ∧ s.sec.openOut = true ∧ allArrived s = true) ∧
    (∃ sid, sid < 1048576 ∧ shedAbsent State.reset (shedOf sid) = false) ∧
    (∃ s : State, Canonical s ∧ runningPlace s = some 0 ∧ endAll s = true) ∧
    (∃ s : State, Canonical s ∧ placeIn s [6] = some 0 ∧ abortDrained s = true ∧ s.dev.warmBusy = false) :=
  ⟨⟨State.reset, reset_canonical, by decide, by decide, by decide⟩, ⟨opening (armedWith 0 0), canonical_of (by decide), by decide, by decide⟩,
    ⟨armedWith 0 6, canonical_of (by decide), by decide, by decide, by decide⟩, ⟨armedWith 5 0, canonical_of (by decide), by decide, by decide, by decide, by decide, by decide⟩,
    ⟨{ armedWith 0 0 with rm := ⟨[.shed 0], 1, none⟩ }, canonical_of (by decide), by decide, by decide, by decide, by decide, by decide⟩,
    ⟨armedWith 0 0, canonical_of (by decide), by decide, by decide, by decide, by decide, by decide⟩,
    ⟨placed (inState 4) Place.atReset, canonical_of (by decide), by decide, by decide⟩,
    ⟨opening (armedWith 0 0), canonical_of (by decide), by decide, by decide, reset_allArrived _ rfl rfl rfl⟩, ⟨1048575, by decide, by decide⟩,
    ⟨placed (inState 4) Place.atReset, canonical_of (by decide), by decide, by decide⟩,
    ⟨placed (inState 6) Place.atReset, canonical_of (by decide), by decide, by decide, by decide⟩⟩

/-- A port that is UP, has lock, and has advertised room for ten cars of each class, with context 0 as given. -/
def upPort (x : StreamCtx) (slots : List ASlot) : Port :=
  { Port.atReset with
    st := 4, locked := true, ctxs := ⟨StreamCtx.atReset, [(0, x)].filter fun c => decide (c.2 ≠ StreamCtx.atReset)⟩, slots := slots,
    sess := { Session.new with adv0 := 10, adv2 := 10, adv3 := 10, sadv := gconst 10 } }
/-- The state whose port 0 is `q`. -/
def onPort (q : Port) : State := { State.reset with ports := ⟨Port.atReset, [(0, q)]⟩ }
/-- A sound car. -/
def car (typ lvc : Nat) (w1 w2 : Word32) : RxCar := ⟨true, true, BitVec.ofNat 4 typ, BitVec.ofNat 2 lvc, true, false, 0, 0, w1, w2, 0, List.replicate 256 0#8⟩
/-- A stream of `nblk` blocks in `mode` on port 0, context 0, at this ACK. -/
def stream (mode nblk st ack : Nat) : StreamCtx :=
  { StreamCtx.atReset with desc := ⟨0, [(0, BitVec.ofNat 64 (mode * 2 ^ 34)), (2, BitVec.ofNat 64 nblk)]⟩, st := st, ack := ack }
/-- A slot of context 0 whose block is whole and verified. -/
def slot (b : Nat) (ok : Bool) : ASlot := ⟨0, b, gconst none, 0, ok⟩

/-- Whether port 0 takes this car and then satisfies `P`. -/
def took (s : State) (c : RxCar) (P : State → Bool) : Bool := match receiveCar s 0 c with | .take t => canonB t && P t | _ => false
theorem took_spec {P : State → Prop} [DecidablePred P] (s : State) (c : RxCar) (h : took s c (fun t => decide (P t)) = true) :
    ∃ t, Canonical t ∧ receiveCar s 0 c = .take t ∧ P t := by
  unfold took at h
  split at h
  · next t ht =>
    rw [Bool.and_eq_true] at h
    exact ⟨t, canonical_of h.1, ht, of_decide_eq_true h.2⟩
  · cases h

theorem witness_StreamCommandsAndCars :
    (∃ s : State, Canonical s ∧ Origin.auth .i3c = true ∧ (s.ctx 0 0).active = true) ∧ (∃ s : State, Canonical s ∧ (s.ctx 0 0).active = false ∧ (s.ctx 0 0).valid 0 0 = false) ∧
    (∃ s : State, Canonical s ∧ (s.ctx 0 0).active = false ∧ (s.ctx 0 0).valid 0 0 = true) ∧
    (∃ s t, Canonical t ∧ receiveCar s 0 (car 1 1 5 0) = .take t ∧ (t.ctx 0 5).active = false) ∧
    (∃ s t, Canonical t ∧ receiveCar s 0 (car 1 1 0 1) = .take t ∧ (t.ctx 0 0).active = true ∧ 1 < (t.ctx 0 0).ack) ∧
    (∃ s t, Canonical t ∧ receiveCar s 0 (car 1 1 0 65) = .take t ∧ (t.ctx 0 0).active = true ∧ (t.ctx 0 0).ack + 64 = 65) ∧
    (∃ s t, Canonical t ∧ receiveCar s 0 (car 1 1 0 64) = .take t ∧ (t.ctx 0 0).active = true ∧ 64 < (t.ctx 0 0).ack + 64 ∧ (t.port 0).slotAt 0 64 = none ∧
      ((t.port 0).slots.filter fun a => a.ctx = 0).length = 31) ∧
    (∃ s t, Canonical t ∧ receiveCar s 0 (car 1 1 0 64) = .take t ∧ (t.port 0).slotAt 0 64 = none ∧ ((t.port 0).slots.filter fun a => a.ctx = 0).length = 32) ∧
    (∃ s t, Canonical t ∧ receiveCar s 0 (car 1 1 0 0x0F000007) = .take t ∧ ((t.port 0).slotAt 0 7).isSome = true) :=
  ⟨⟨onPort (upPort (stream 0 9 1 0) []), canonical_of (by decide), by decide, by decide⟩, ⟨State.reset, reset_canonical, by decide, by decide⟩,
    ⟨onPort (upPort (stream 0 1 0 0) []), canonical_of (by decide), by decide, by decide⟩,
    ⟨onPort (upPort StreamCtx.atReset []), took_spec _ _ (by decide)⟩, ⟨onPort (upPort (stream 0 9 2 2) []), took_spec _ _ (by decide)⟩,
    ⟨onPort (upPort (stream 0 99 2 1) []), took_spec _ _ (by decide)⟩,
    ⟨onPort (upPort (stream 0 99 2 1) (List.replicate 31 (slot 9 false))), took_spec _ _ (by decide)⟩,
    ⟨onPort (upPort (stream 0 99 2 1) (List.replicate 32 (slot 9 false))), took_spec _ _ (by decide)⟩,
    ⟨onPort (upPort (stream 0 99 2 1) [slot 7 false]), took_spec _ _ (by decide)⟩⟩

/-- A credit message of `n` blocks for context 0. -/
def creditMsg (n : Nat) : Hdr × List Byte := (⟨0, 1, 2, 0, false, false, 0, 1, 0, false, false⟩, leBytes 4 0 ++ leBytes 4 n ++ List.replicate 8 0#8)
/-- A loft write whose only flit waits at stall 0. -/
def loftMsg (kind runm1 : Nat) : TrackMsg :=
  ⟨5, .loft ⟨0, runm1, kind, false, false, 0, 1, 0, 0, false, 0, 0x44, 0, 0, 0⟩ [], false, 2, true, [⟨0, 4, false⟩], [0], 0, .landing, false⟩
/-- Stall 0 with that write at its VC2 ejection input. -/
def loftArrived (m : TrackMsg) (notice : Option (Hdr × List Byte)) : State :=
  { lone { Stall.atReset with qu := { QueueUnit.empty with ej := ⟨[], [(2, [5])]⟩, notice := notice } } with track := [m] }

theorem witness_StreamReleaseCreditsAndGaps :
    (∀ mode, mode ∈ [1, 2] → let s := onPort (upPort (stream mode 9 2 0) [slot 0 true]); canonB s = true ∧ (s.ctx 0 0).active = true ∧ (s.ctx 0 0).mode = mode ∧ releasable s (s.ctx 0 0) 0 = true) ∧
    (∃ s : State, Canonical s ∧ (s.ctx 0 0).mode = 0 ∧ releasable s (s.ctx 0 0) 0 = true ∧ entryOk s (entryFor s (s.ctx 0 0) 0) = true) ∧
    (∃ s : State, Canonical s ∧ (s.ctx 0 0).mode = 0 ∧ releasable s (s.ctx 0 0) 0 = true ∧ entryOk s (entryFor s (s.ctx 0 0) 0) = false) ∧
    (∃ s : State, Canonical s ∧ (s.port 0).inbox = [creditMsg 4095] ∧ (s.ctx 0 0).active = true) ∧ (∃ s : State, Canonical s ∧ (s.port 0).inbox = [creditMsg 4096]) ∧
    (∃ s : State, Canonical s ∧ (s.ctx 0 0).ack ≠ (s.ctx 0 0).reported ∧ (s.ctx 0 0).active = true) ∧
    (∃ s : State, Canonical s ∧ (s.ctx 0 0).active = true ∧ gapPaused s 0 0 = false ∧ (s.ctx 0 0).st = 3) ∧
    (∃ s : State, Canonical s ∧ (s.ctx 0 0).active = true ∧ gapPaused s 0 0 = false ∧ (s.ctx 0 0).st = 2) ∧
    (∃ s : State, gget (s.stall 0).qu.ej 2 = [5] ∧ (trackMsg s 5).isSome = true ∧ shedAbsent s (shedOf 0) = true) ∧
    (∃ s : State, gget (s.stall 0).qu.ej 2 = [5] ∧ (trackMsg s 5).isSome = true ∧ shedAbsent s (shedOf 0) = false ∧ stallLive s 0 = false) ∧
    (∃ s : State, gget (s.stall 0).qu.ej 2 = [5] ∧ shedAbsent s (shedOf 0) = false ∧ stallLive s 0 = true ∧ (s.stall 0).qu.notice ≠ none) ∧
    (∀ kind, kind ∈ [0, 1, 2] → let s := loftArrived (loftMsg kind 1) none; gget (s.stall 0).qu.ej 2 = [5] ∧ stallLive s 0 = true ∧ (lastFlit s 5).isSome = true) ∧
    (∃ s : State, gget (s.stall 0).qu.ej 2 = [5] ∧ stallLive s 0 = true ∧ (trackMsg s 5).isSome = true ∧ lastFlit s 5 = none) :=
  ⟨by decide, ⟨{ onPort (upPort (stream 0 9 2 0) [slot 0 true]) with mars := { MarsBlock.atReset with verA := ⟨0, [(0, 0x40000000)]⟩ } }, canonical_of (by decide), by decide, by decide, by decide⟩,
    ⟨onPort (upPort (stream 0 9 2 0) [slot 0 true]), canonical_of (by decide), by decide, by decide, by decide⟩,
    ⟨onPort { upPort (stream 0 9 2 0) [] with inbox := [creditMsg 4095] }, canonical_of (by decide), rfl, by decide⟩,
    ⟨onPort { upPort (stream 0 9 2 0) [] with inbox := [creditMsg 4096] }, canonical_of (by decide), rfl⟩,
    ⟨onPort (upPort (stream 0 9 2 1) []), canonical_of (by decide), by decide, by decide⟩, ⟨onPort (upPort (stream 0 9 3 0) []), canonical_of (by decide), by decide, by decide, by decide⟩,
    ⟨onPort (upPort (stream 0 9 2 0) []), canonical_of (by decide), by decide, by decide, by decide⟩,
    ⟨{ loftArrived (loftMsg 0 0) none with sheds := ⟨Shed.atReset, [(0, { Shed.atReset with absent := true })]⟩ }, by decide, by decide, by decide⟩,
    ⟨{ loftArrived (loftMsg 0 0) none with psheds := gconst { PShed.atReset with depth := 4 } }, by decide, by decide, by decide, by decide⟩,
    ⟨loftArrived (loftMsg 0 0) (some (creditMsg 1)), by decide, by decide, by decide, by decide⟩, by decide,
    ⟨loftArrived { loftMsg 0 0 with pos := [0, 0] } none, by decide, by decide, by decide, by decide⟩⟩

/-! Buckets. -/

/-- A bucket of 16384 blocks whose areas follow one another in Hostler memory, on port 0, in this state. -/
def bigBucket (st : Nat) : Bucket := { Bucket.atReset with desc := ⟨0, [(1, BitVec.ofNat 64 (0x40000 * 2 ^ 41)), (2, 0x2000#64)]⟩, st := st }
/-- A state with bucket context 0 as given, while place 2 runs. -/
def withBucket (b : Bucket) : State := withRun { onPort (upPort StreamCtx.atReset []) with mars := { MarsBlock.atReset with buckets := ⟨Bucket.atReset, [(0, b)]⟩ } }
/-- A gradient half block of `len` units for bucket 0, block 0, half 0, of this section counter and scale byte. -/
def gradPart (g len : Nat) (scale : Byte) : Hdr × List Byte :=
  (⟨0, 2, 2, g, false, false, 0, len, 0, false, false⟩, leBytes 4 0 ++ leBytes 4 0 ++ [scale] ++ List.replicate 519 0#8)
/-- That part at the head of port 0's inbox. -/
def gradAt (s : State) (p : Hdr × List Byte) : State := { s with ports := gset s.ports 0 { s.port 0 with inbox := [p] } }

theorem bigBucket_valid (s : State) (h : s.hmem = []) : bucketValid s (bigBucket 7) = true := by
  unfold bucketValid
  rw [Bool.and_eq_true]
  refine ⟨by decide, List.all_eq_true.mpr fun k _ => ?_⟩
  unfold scaleOf
  rw [h]
  rfl

/-- What the clauses about a gradient part have in common. -/
def gradCase (s : State) (now mine formed scaled fresh : Bool) : Bool :=
  let b := s.bucket 0
  match (s.port 0).inbox with
  | [(h, pl)] => canonB s && decide (h.tag = 2) && decide (bitsOf (leAt pl 0 4) 5 0 = 0) &&
      (now == decide (runningPlace s ≠ none ∧ h.gen = s.sec.cg)) && (mine == decide (b.st = 1 ∧ b.port = 0)) &&
      (formed == decide (h.len = 33 ∧ bitsOf (leAt pl 0 4) 31 6 = 0 ∧ bitsOf (leAt pl 4 4) 31 17 = 0 ∧ leAt pl 9 7 = 0 ∧ bitsOf (leAt pl 4 4) 15 0 < b.nblk)) &&
      (scaled == decide (pl.getD 8 0 = Memory.read s.hmem (bitsOf (gget b.desc 1).toNat 63 41 * 64 + bitsOf (leAt pl 4 4) 15 0))) &&
      (fresh == decide (2 * bitsOf (leAt pl 4 4) 15 0 + bitsOf (leAt pl 4 4) 16 16 ∉ b.halves)) && decide ((slice pl 16 512).length = 512)
  | _ => false

theorem witness_BucketsFillAndSend_parts :
    gradCase (gradAt (withBucket (bigBucket 1)) (gradPart 1 33 0)) false true true true true = true ∧
    gradCase (gradAt (withBucket (bigBucket 2)) (gradPart 0 33 0)) true false true true true = true ∧
    gradCase (gradAt (withBucket (bigBucket 1)) (gradPart 0 32 0)) true true false true true = true ∧
    gradCase (gradAt (withBucket (bigBucket 1)) (gradPart 0 33 1)) true true true false true = true ∧
    gradCase (gradAt (withBucket { bigBucket 1 with halves := [0] }) (gradPart 0 33 0)) true true true true false = true ∧
    gradCase (gradAt (withBucket (bigBucket 1)) (gradPart 0 33 0)) true true true true true = true := by decide

theorem witness_BucketsFillAndSend :
    Origin.auth .i3c = true ∧ (∃ s : State, Canonical s ∧ (s.bucket 0).st = 7 ∧ bucketValid s (s.bucket 0) = true) ∧
    (∃ s : State, Canonical s ∧ (s.bucket 0).st = 7 ∧ bucketValid s (s.bucket 0) = false) ∧ (∃ s : State, Canonical s ∧ (s.bucket 0).st = 1 ∧ ¬ (s.bucket 0).st = 0) ∧
    (∃ s : State, Canonical s ∧ (s.bucket 0).st = 6) ∧
    (∃ s : State, Canonical s ∧ (s.bucket 0).st = 2 ∧ (s.bucket 0).clean = true ∧ (s.bucket 0).agreed = true ∧ (s.port (s.bucket 0).port).st = 4) ∧
    (∃ s : State, Canonical s ∧ (s.bucket 0).st = 3 ∧ ∀ c, c ∈ (s.port (s.bucket 0).port).sess.waiting → ¬ (c.typ = 2 ∧ c.w1 = (s.bucket 0).id 0)) ∧
    (∃ s : State, Canonical s ∧ (s.bucket 0).st = 4) :=
  ⟨rfl, ⟨withBucket (bigBucket 7), canonical_of (by decide), rfl, bigBucket_valid _ rfl⟩,
    ⟨withBucket { Bucket.atReset with desc := ⟨0, [(0, 144#64)]⟩, st := 7 }, canonical_of (by decide), rfl, rfl⟩,
    ⟨withBucket (bigBucket 1), canonical_of (by decide), rfl, by decide⟩, ⟨withBucket (bigBucket 6), canonical_of (by decide), rfl⟩,
    ⟨withBucket { bigBucket 2 with clean := true, agreed := true }, canonical_of (by decide), rfl, rfl, rfl, rfl⟩,
    ⟨withBucket (bigBucket 3), canonical_of (by decide), rfl, by decide⟩, ⟨withBucket (bigBucket 4), canonical_of (by decide), rfl⟩⟩

theorem leNat_zero (bs : List Byte) (h : ∀ b ∈ bs, b = 0#8) : leNat bs = 0 := by
  induction bs with
  | nil => rfl
  | cons b bs ih =>
    show b.toNat + 256 * leNat bs = 0
    rw [ih fun c hc => h c (List.mem_cons_of_mem _ hc), h b (List.mem_cons_self ..)]
    rfl

/-- A block of zeros has brand 0. -/
theorem brandOf_zero (bs : List Byte) (h : ∀ b ∈ bs, b = 0#8) : brandOf bs = 0 := by
  have hz : ∀ j, leAt bs (4 * j) 4 = 0 := fun j => leNat_zero _ fun b hb => by
    have hb := List.mem_of_mem_take (show b ∈ List.take 4 _ from hb)
    simp only [List.mem_append, List.mem_replicate] at hb
    exact hb.elim (fun hb => h b (List.mem_of_mem_drop hb)) (·.2)
  have hf : ∀ (l : List Nat), l.foldl (fun (acc : Int) (j : Nat) => acc + ((j : Int) + 1) * signedOf 32 (leAt bs (4 * j) 4)) 0 = 0 := by
    intro l
    induction l with
    | nil => rfl
    | cons j l ih => simp only [List.foldl_cons, hz j, show signedOf 32 0 = 0 from rfl, Int.mul_zero, Int.add_zero]; exact ih
  unfold brandOf
  rw [hf]
  rfl

/-- A GRET car of part `j` of block 0 of bucket 0, with this brand word. -/
def gretCar (j : Nat) (w3 : Word32) : RxCar := ⟨true, true, 3, 2, true, false, 0, 0, 0, BitVec.ofNat 32 (j * 2 ^ 16), w3, List.replicate 256 0#8⟩
/-- A bucket that has sent its blocks, to which these parts of block 0 have come back. -/
def returning (parts : List Nat) : Bucket := { bigBucket 4 with cars := ⟨none, parts.map fun i => (i, some (List.replicate 256 0#8))⟩ }
/-- Bucket 0's block 0 with the car's part. -/
def partsNow (t : State) (c : RxCar) : Bucket :=
  let b := t.bucket 0
  { b with cars := gset b.cars (bitsOf c.w2.toNat 19 16) (some c.payload), brands := if bitsOf c.w2.toNat 19 16 = 15 then gset b.brands 0 c.w3.toNat else b.brands }
/-- The car is due. -/
def returnDue (t : State) (c : RxCar) : Bool :=
  let b := t.bucket 0
  decide (b.st = 4 ∧ b.id 0 = c.w1.toNat ∧ b.port = 0 ∧ bitsOf c.w2.toNat 21 20 = b.rounds ∧ bitsOf c.w2.toNat 15 0 < b.nblk ∧ bitsOf c.w2.toNat 15 0 ∉ b.back ∧
    gget b.cars (bitsOf c.w2.toNat 19 16) = none)
/-- Block 0 is whole with the car. -/
def returnWhole (t : State) (c : RxCar) : Bool := decide (∀ i, i ∈ List.range 16 → gget (partsNow t c).cars i ≠ none)
/-- The block's bytes. -/
def returnBytes (t : State) (c : RxCar) : List Byte := (List.range 16).flatMap fun i => (gget (partsNow t c).cars i).getD []

theorem returnBytes_zero {t : State} {c : RxCar} (h : ∀ i, i ∈ List.range 16 → ((gget (partsNow t c).cars i).getD []).all (fun b => decide (b = 0#8)) = true) :
    brandOf (returnBytes t c) = 0 := by
  refine brandOf_zero _ fun b hb => ?_
  obtain ⟨i, hi, hb⟩ := List.mem_flatMap.mp hb
  exact of_decide_eq_true (List.all_eq_true.mp (h i hi) b hb)

theorem witness_BucketReturnsAndControl_returns :
    (∃ s t, Canonical t ∧ receiveCar s 0 (gretCar 15 0) = .take t ∧ returnDue t (gretCar 15 0) = false) ∧
    (∃ s t, Canonical t ∧ receiveCar s 0 (gretCar 15 0) = .take t ∧ returnDue t (gretCar 15 0) = true ∧ returnWhole t (gretCar 15 0) = false) ∧
    (∃ s t, Canonical t ∧ receiveCar s 0 (gretCar 15 0) = .take t ∧ returnDue t (gretCar 15 0) = true ∧ returnWhole t (gretCar 15 0) = true ∧
      brandOf (returnBytes t (gretCar 15 0)) = gget (partsNow t (gretCar 15 0)).brands 0) ∧
    (∃ s t, Canonical t ∧ receiveCar s 0 (gretCar 15 1) = .take t ∧ returnDue t (gretCar 15 1) = true ∧ returnWhole t (gretCar 15 1) = true ∧
      brandOf (returnBytes t (gretCar 15 1)) ≠ gget (partsNow t (gretCar 15 1)).brands 0) := by
  refine ⟨⟨withBucket (bigBucket 3), took_spec _ _ (by decide)⟩, ⟨withBucket (returning []), took_spec _ _ (by decide)⟩,
    ⟨withBucket (returning (List.range 15)), ?_⟩, ⟨withBucket (returning (List.range 15)), ?_⟩⟩
  · obtain ⟨t, hc, ht, h1, h2, h3, h4⟩ := took_spec (P := fun t => returnDue t (gretCar 15 0) = true ∧ returnWhole t (gretCar 15 0) = true ∧ gget (partsNow t (gretCar 15 0)).brands 0 = 0 ∧
      (∀ i, i ∈ List.range 16 → ((gget (partsNow t (gretCar 15 0)).cars i).getD []).all (fun b => decide (b = 0#8)) = true))
      (withBucket (returning (List.range 15))) (gretCar 15 0) (by decide)
    exact ⟨t, hc, ht, h1, h2, (returnBytes_zero h4).trans h3.symm⟩
  · obtain ⟨t, hc, ht, h1, h2, h3, h4⟩ := took_spec (P := fun t => returnDue t (gretCar 15 1) = true ∧ returnWhole t (gretCar 15 1) = true ∧ gget (partsNow t (gretCar 15 1)).brands 0 = 1 ∧
      (∀ i, i ∈ List.range 16 → ((gget (partsNow t (gretCar 15 1)).cars i).getD []).all (fun b => decide (b = 0#8)) = true))
      (withBucket (returning (List.range 15))) (gretCar 15 1) (by decide)
    exact ⟨t, hc, ht, h1, h2, by rw [returnBytes_zero h4, h3]; decide⟩

/-- An SCTL car with this one record. -/
def sctlCar (kind id a0 a1 : Nat) : RxCar :=
  ⟨true, true, 4, 0, true, false, 0, 0, 0, 0, 0, leBytes 4 kind ++ leBytes 4 id ++ leBytes 8 a0 ++ leBytes 8 a1 ++ List.replicate 232 0#8⟩

theorem test_sctl_record : ctlRecords (sctlCar 0x14 0x10000 3 2).payload = [⟨0x14, 0x10000, 3, 2, 0⟩] := by decide

theorem witness_BucketReturnsAndControl_control :
    (∃ t : State, Canonical t ∧ (t.bucket 0).haveA = true ∧ (t.bucket 0).back.length = (t.bucket 0).nblk ∧ (t.bucket 0).racc = (t.bucket 0).asum) ∧
    (∃ t : State, Canonical t ∧ (t.bucket 0).haveA = true ∧ (t.bucket 0).back.length = (t.bucket 0).nblk ∧ (t.bucket 0).racc ≠ (t.bucket 0).asum) ∧
    (∃ t : State, Canonical t ∧ ¬ ((t.bucket 0).haveA = true ∧ (t.bucket 0).back.length = (t.bucket 0).nblk)) ∧
    (∀ kind, kind ∈ [0x12, 0x14, 0x16, 4, 0x15] → ∃ s t, Canonical t ∧ receiveCar s 0 (sctlCar kind 0 0 0) = .take t ∧
      kind ∈ (ctlRecords (sctlCar kind 0 0 0).payload).map (·.kind)) ∧
    (∃ t : State, Canonical t ∧ (t.bucket 0).st = 1 ∧ (t.bucket 0).id 0 = 0 ∧ (t.bucket 0).port = 0) ∧
    (∃ t : State, Canonical t ∧ (t.bucket 0).st = 4 ∧ (t.bucket 0).id 0 = 0 ∧ (t.bucket 0).port = 0 ∧ (t.bucket 0).rounds = 0 ∧ 0 < (t.bucket 0).nblk) ∧
    (∃ t : State, Canonical t ∧ (t.bucket 0).st = 0 ∧ (t.ctx 0 0).id = 0 ∧ (t.ctx 0 0).st ≠ 0) := by
  refine ⟨⟨withBucket { bigBucket 4 with haveA := true, back := List.replicate 16384 0 }, canonical_of (by decide), rfl, List.length_replicate, rfl⟩,
    ⟨withBucket { bigBucket 4 with haveA := true, back := List.replicate 16384 0, racc := 1 }, canonical_of (by decide), rfl, List.length_replicate, by decide⟩,
    ⟨withBucket (bigBucket 4), canonical_of (by decide), by decide⟩, ?_, ⟨withBucket (bigBucket 1), canonical_of (by decide), rfl, rfl, rfl⟩,
    ⟨withBucket (bigBucket 4), canonical_of (by decide), rfl, rfl, rfl, rfl, by decide⟩, ⟨onPort (upPort (stream 0 9 2 0) []), canonical_of (by decide), rfl, rfl, by decide⟩⟩
  intro kind hk
  simp only [List.mem_cons, List.not_mem_nil, or_false] at hk
  rcases hk with rfl | rfl | rfl | rfl | rfl <;> exact ⟨withBucket (bigBucket 4), took_spec _ _ (by decide)⟩

/-! Ports. -/

/-- A lane that finds lock, or not. -/
def lane (ok : Bool) : LaneResult := ⟨0, ok, false, ok⟩
/-- A port in this state and at this rate of its training. -/
def trainingPort (st rate : Nat) : Port := { Port.atReset with st := st, train := ⟨rate, 0, 0, none, gconst 0⟩ }

theorem witness_PortCommandsAndTraining :
    Origin.auth .i3c = true ∧ Origin.internal .i3c = false ∧ Origin.internal (.groom) = true ∧
    (∀ st, st < 7 → st ≠ 1 → canonB (onPort { Port.atReset with st := st }) = true) ∧ (∃ s : State, Canonical s ∧ (s.port 0).st = 1 ∧ (s.port 0).tryint ≠ 0) ∧
    (∃ s : State, Canonical s ∧ (s.port 0).st = 4 ∧ (s.port 0).locked = true ∧ (s.port 0).frame = 0) ∧ (∃ s : State, Canonical s ∧ (s.port 0).st = 3 ∧ (s.port 0).locked = false) ∧
    (∃ s : State, Canonical s ∧ (s.port 0).st = 4 ∧ (s.port 0).lanes.testBit 0 = true ∧ 10 * laneLimit (s.port 0).rate < (List.replicate 8 (2 ^ 30)).getD 0 0) ∧
    (∃ s : State, Canonical s ∧ (s.port 0).st = 4 ∧ (s.port 0).lanes.testBit 0 = true ∧ (s.port 0).lanes.testBit 1 = true ∧
      [false, true, false, false, false, false, false, false].getD 1 false = true ∧ [false, true, false, false, false, false, false, false].getD 0 false = false) ∧
    (∃ (s : State) (l : List LaneResult), Canonical s ∧ l.length = 8 ∧ (s.port 0).st = 2 ∧ ¬ (((s.port 0).tried l).train.ready = 0xFF ∨ 4 ≤ ((s.port 0).tried l).train.attempts)) ∧
    (∃ (s : State) (l : List LaneResult), Canonical s ∧ l.length = 8 ∧ (s.port 0).st = 2 ∧ ((s.port 0).tried l).train.ready = 0xFF ∧ laneWidth ((s.port 0).tried l).train.ready = 8) ∧
    (∃ (s : State) (l : List LaneResult), Canonical s ∧ l.length = 8 ∧ (s.port 0).st = 5 ∧ 4 ≤ ((s.port 0).tried l).train.attempts ∧
      ¬ (laneWidth ((s.port 0).tried l).train.ready = 8 ∨ 3 ≤ ((s.port 0).tried l).train.rate)) ∧
    (∃ s : State, Canonical s ∧ (s.port 0).train.best = none) ∧ (∃ s : State, Canonical s ∧ (s.port 0).st = 5 ∧ (s.port 0).train.best = some (1, 4, 0xF)) :=
  ⟨rfl, rfl, rfl, by decide, ⟨onPort { Port.atReset with tryint := 255 }, canonical_of (by decide), rfl, by decide⟩,
    ⟨onPort (upPort StreamCtx.atReset []), canonical_of (by decide), rfl, rfl, rfl⟩, ⟨onPort { Port.atReset with st := 3 }, canonical_of (by decide), rfl, rfl⟩,
    ⟨onPort { Port.atReset with st := 4, lanes := 1 }, canonical_of (by decide), rfl, rfl, by decide⟩,
    ⟨onPort { Port.atReset with st := 4, lanes := 3 }, canonical_of (by decide), rfl, rfl, rfl, rfl, rfl⟩,
    ⟨onPort (trainingPort 2 0), List.replicate 8 (lane false), canonical_of (by decide), rfl, rfl, by decide⟩,
    ⟨onPort (trainingPort 2 0), List.replicate 8 (lane true), canonical_of (by decide), rfl, rfl, by decide, by decide⟩,
    ⟨onPort { trainingPort 5 0 with train := ⟨0, 3, 0, none, gconst 0⟩ }, List.replicate 4 (lane true) ++ List.replicate 4 (lane false), canonical_of (by decide), rfl, rfl, by decide, by decide⟩,
    ⟨onPort (trainingPort 2 0), canonical_of (by decide), rfl⟩, ⟨onPort { trainingPort 5 3 with train := ⟨3, 4, 0xF, some (1, 4, 0xF), gconst 0⟩ }, canonical_of (by decide), rfl, rfl⟩⟩

/-- A HELLO or KEX car of this chunk. -/
def chunkCar (typ : Nat) (enc : Bool) (i n : Nat) : RxCar :=
  ⟨true, true, BitVec.ofNat 4 typ, 3, enc, false, 0, 0, BitVec.ofNat 32 (i + n * 2 ^ 16), 0, 0, List.replicate 256 0#8⟩
/-- A port in AUTH, with lock, at this step of its handshake with these chunks of zeros held. -/
def authPort (step : Nat) (held : List Nat) : Port :=
  { upPort StreamCtx.atReset [] with st := 3, hs := { Handshake.idle with step := step, chunks := ⟨none, held.map fun i => (i, some (List.replicate 256 0#8))⟩ } }
/-- The held chunks with the car's. -/
def chunksNow (t : State) (c : RxCar) : Handshake := { (t.port 0).hs with chunks := gset (t.port 0).hs.chunks (bitsOf c.w1.toNat 15 0) (some c.payload) }
/-- The KEX2 message is whole and formed, for epoch 0. -/
def kexFormed (h : Handshake) : Bool :=
  match h.message 25 with
  | some msg => decide (leAt msg 0 1 = 2 ∧ leAt msg 1 3 = 0 ∧ leAt msg 4 4 = 0 ∧ leAt msg 8 8 = 0)
  | none => false

theorem witness_HandshakeAndRekey :
    (∃ s t, Canonical t ∧ receiveCar s 0 (chunkCar 9 false 58 58) = .take t ∧ (t.port 0).st = 3 ∧ (t.port 0).hs.step = 1 ∧
      ¬ (bitsOf (chunkCar 9 false 58 58).w1.toNat 31 16 = 58 ∧ bitsOf (chunkCar 9 false 58 58).w1.toNat 15 0 < 58)) ∧
    (∃ s t, Canonical t ∧ receiveCar s 0 (chunkCar 9 false 57 58) = .take t ∧ (t.port 0).st = 3 ∧ (t.port 0).hs.step = 1 ∧ (chunksNow t (chunkCar 9 false 57 58)).message 58 = none) ∧
    (∃ s t, Canonical t ∧ receiveCar s 0 (chunkCar 9 false 57 58) = .take t ∧ (t.port 0).st = 3 ∧ (t.port 0).hs.step = 1 ∧
      ((chunksNow t (chunkCar 9 false 57 58)).message 58).isSome = true) ∧
    (∀ s msg, helloAccepted s 0 msg false = false) ∧ (∃ s t, Canonical t ∧ receiveCar s 0 (chunkCar 9 false 0 58) = .take t ∧ ¬ ((t.port 0).st = 3 ∧ (t.port 0).hs.step = 1)) ∧
    (∃ s t, Canonical t ∧ receiveCar s 0 (chunkCar 10 false 0 24) = .take t ∧ (t.port 0).hs.step = 3) ∧
    (∃ s t, Canonical t ∧ receiveCar s 0 (chunkCar 10 true 0 25) = .take t ∧ (t.port 0).st = 4 ∧ (t.port 0).hs.step = 3 ∧ (chunksNow t (chunkCar 10 true 0 25)).message 25 = none) ∧
    (∃ s t, Canonical t ∧ receiveCar s 0 (chunkCar 10 false 24 25) = .take t ∧ (t.port 0).hs.step = 3 ∧ ((chunksNow t (chunkCar 10 false 24 25)).message 25).isSome = true) ∧
    (∃ s t, Canonical t ∧ receiveCar s 0 { chunkCar 10 false 0 25 with payload := 2#8 :: List.replicate 255 0#8 } = .take t ∧ (t.port 0).hs.step = 3 ∧
      kexFormed (chunksNow t { chunkCar 10 false 0 25 with payload := 2#8 :: List.replicate 255 0#8 }) = true) ∧
    (∃ s t, Canonical t ∧ receiveCar s 0 (chunkCar 10 false 0 25) = .take t ∧ (t.port 0).hs.step ≠ 3) ∧
    (∃ s : State, Canonical s ∧ (s.port 0).st = 3 ∧ (s.port 0).hs.step ≠ 0) ∧ (∃ s : State, Canonical s ∧ (s.port 0).st = 3 ∧ (s.port 0).hs.step = 0) ∧
    (∃ s : State, Canonical s ∧ (s.port 0).st = 4 ∧ (s.port 0).hs.step = 3) ∧ (∃ s : State, Canonical s ∧ (s.port 0).st = 4 ∧ (s.port 0).hs.step = 6 ∧ (s.port 0).sess.keysSpent = false) ∧
    (∃ s : State, Canonical s ∧ (s.port 0).st = 4 ∧ (s.port 0).hs.step = 7) ∧ (∃ s : State, Canonical s ∧ (s.port 0).st = 4 ∧ (s.port 0).sess.keysSpent = true) :=
  ⟨⟨onPort (authPort 1 []), took_spec _ _ (by decide)⟩, ⟨onPort (authPort 1 (List.range 56)), took_spec _ _ (by decide)⟩, ⟨onPort (authPort 1 (List.range 57)), took_spec _ _ (by decide)⟩,
    fun _ _ => rfl, ⟨onPort (authPort 0 []), took_spec _ _ (by decide)⟩, ⟨onPort (authPort 3 []), took_spec _ _ (by decide)⟩,
    ⟨onPort { authPort 3 [] with st := 4 }, took_spec _ _ (by decide)⟩, ⟨onPort (authPort 3 (List.range 24)), took_spec _ _ (by decide)⟩,
    ⟨onPort (authPort 3 ((List.range 24).map (· + 1))), took_spec _ _ (by decide)⟩, ⟨onPort (authPort 6 []), took_spec _ _ (by decide)⟩,
    ⟨onPort (authPort 1 []), canonical_of (by decide), rfl, by decide⟩, ⟨onPort (authPort 0 []), canonical_of (by decide), rfl, rfl⟩,
    ⟨onPort { authPort 3 [] with st := 4 }, canonical_of (by decide), rfl, rfl⟩, ⟨onPort { authPort 6 [] with st := 4 }, canonical_of (by decide), rfl, rfl, by decide⟩,
    ⟨onPort { authPort 7 [] with st := 4 }, canonical_of (by decide), rfl, rfl⟩,
    ⟨onPort { authPort 7 [] with st := 4, sess := { Session.new with txCars := 2 ^ 32 - 1024 } }, canonical_of (by decide), rfl, by decide⟩⟩

/-! A HELLO that the port accepts. Its leaf certificate holds the digest of the CA key, which is left unevaluated. -/

/-- The digest of a CA key of zeros. -/
def caDigest : List Byte := (sha3Bytes (List.replicate 2592 0#8)).take 32
/-- The HELLO's first bytes, to the digest in the leaf certificate. -/
def helloHead : List Byte := [1#8, 1#8, 2#8, 0#8] ++ List.replicate 60 0#8 ++ [0x01#8, 0xA0#8, 0xE7#8, 0x6C#8, 4#8] ++ List.replicate 19 0#8
/-- Its chunks. -/
def helloChunk (i : Nat) : List Byte :=
  if i = 0 then helloHead ++ (caDigest ++ List.replicate 136 0#8)
  else if i = 28 then List.replicate 192 0#8 ++ [0x01#8, 0xA0#8, 0xE7#8, 0x6C#8, 2#8] ++ List.replicate 59 0#8
  else List.replicate 256 0#8
/-- The message. -/
def helloMsg : List Byte := (List.range 58).flatMap helloChunk
/-- Its last chunk arrives. -/
def helloState : State :=
  onPort { authPort 1 [] with hs := { Handshake.idle with step := 1, chunks := ⟨none, (List.range 57).map fun i => (i, some (helloChunk i))⟩ } }

theorem hello_msg : ∃ post, helloMsg = helloHead ++ (caDigest ++ post) := by
  refine ⟨List.replicate 136 0#8 ++ ((List.range 57).map (· + 1)).flatMap helloChunk, ?_⟩
  unfold helloMsg
  rw [show List.range 58 = 0 :: (List.range 57).map (· + 1) from by decide, List.flatMap_cons, show helloChunk 0 = helloHead ++ (caDigest ++ List.replicate 136 0#8) from rfl,
    List.append_assoc, List.append_assoc]

theorem hello_leaf : slice (slice helloMsg 0x40 7296) 0x18 32 = caDigest := by
  obtain ⟨post, h⟩ := hello_msg
  have h1 : helloHead.length = 88 := by decide
  have h2 : caDigest.length = 32 := by decide
  rw [h]
  simp [slice, padTo, List.take_append, List.drop_append, h1, h2, List.take_of_length_le (show caDigest.length ≤ 7272 by rw [h2]; decide)]

theorem hello_ca : slice (slice helloMsg 0x1CC0 7296) 0x40 2592 = List.replicate 2592 0#8 := by decide

theorem accepted_of {s : State} {p : Nat} {msg : List Byte} (hh : (s.port p).host = false) (h1 : leAt msg 1 1 = 1 ∧ leAt msg 2 2 = 2 ∧ leAt msg 0 1 = 1)
    (h2 : certOk (slice msg 0x1CC0 7296) 2 = true) (h3 : certOk (slice msg 0x40 7296) 4 = true) (h4 : leAt (slice msg 0x40 7296) 8 8 = leAt msg 8 8)
    (h5 : slice (slice msg 0x40 7296) 0x18 32 = (sha3Bytes (slice (slice msg 0x1CC0 7296) 0x40 2592)).take 32) : helloAccepted s p msg true = true := by
  unfold helloAccepted
  simp [hh, h1, h2, h3, h4, h5]

theorem hello_accepted : helloAccepted helloState 0 helloMsg true = true :=
  accepted_of (by decide) (by decide) (by decide) (by decide) (by decide) (by rw [hello_leaf, hello_ca]; rfl)

theorem witness_HandshakeAndRekey_accepted : ∃ s, Canonical s ∧ receiveCar s 0 (chunkCar 9 false 57 58) = .take s ∧ (s.port 0).st = 3 ∧ (s.port 0).hs.step = 1 ∧
    (chunksNow s (chunkCar 9 false 57 58)).message 58 = some helloMsg ∧ helloAccepted s 0 helloMsg true = true := by
  refine ⟨helloState, canonical_of (by decide), rfl, rfl, rfl, ?_, hello_accepted⟩
  unfold Handshake.message
  rw [if_pos (by decide)]
  unfold helloMsg
  rw [List.flatMap_def, List.flatMap_def]
  exact congrArg (fun l => some (List.flatten l)) (show (List.range 58).map (fun i => (gget (chunksNow helloState (chunkCar 9 false 57 58)).chunks i).getD []) =
    (List.range 58).map helloChunk from rfl)

/-- A car of this kind, sealed and of sequence number `seq`. -/
def seqCar (seq : Nat) : RxCar := { car 1 1 0 0 with seq := BitVec.ofNat 16 seq }
/-- An LCTL with this word 1. -/
def lctlCar (seq : Nat) (w1 : Word32) : RxCar := ⟨true, true, 0, 0, true, false, BitVec.ofNat 16 seq, 0, w1, 0, 0, List.replicate 256 0#8⟩
/-- A beacon with these flags. -/
def beaconCar (flags : Byte) : RxCar := ⟨true, true, 8, 0, true, false, 0, 0, 0, 0, 0, List.replicate 24 0#8 ++ [flags] ++ List.replicate 231 0#8⟩
/-- Port 0 is UP, time comes from it, and a beacon is out. -/
def beaconOut : State := { onPort (upPort StreamCtx.atReset []) with dev := { State.reset.dev with srcport := 0, reqT1 := some 0 } }

theorem witness_ReceivedCarsAndTime :
    (∃ s : State, Canonical s ∧ ¬ (((s.port 0).st = 3 ∨ (s.port 0).st = 4) ∧ (s.port 0).locked = true)) ∧
    (∃ s : State, Canonical s ∧ (s.port 0).st = 4 ∧ (s.port 0).locked = true ∧ (s.port 0).sess.rxExp = 0) ∧
    (∃ s : State, Canonical s ∧ (s.port 0).st = 3 ∧ (s.port 0).locked = true) ∧ (seqCar 0).crcOk = true ∧ (seqCar 0).enc = true ∧ (seqCar 0).tagOk = true ∧
    (chunkCar 9 false 0 58).enc = false ∧ (chunkCar 9 false 0 58).typ = 9 ∧
    ((seqCar 0x8000).seq.toNat + 65536 - 0 % 65536) % 65536 = 32768 ∧ ((seqCar 0x7FFF).seq.toNat + 65536 - 0 % 65536) % 65536 = 32767 ∧
    ((seqCar 0).seq.toNat + 65536 - 0 % 65536) % 65536 = 0 ∧
    (∃ s : State, Canonical s ∧ (s.port 0).locked = true ∧ (s.port 0).st = 4 ∧ ((lctlCar 0x7FFF 0).seq.toNat + 2 * 65536 - (s.port 0).sess.lctlRx % 65536 - 1) % 65536 = 32767) ∧
    (∃ s : State, Canonical s ∧ (s.port 0).locked = true ∧ (s.port 0).st = 3 ∧ (s.port 0).hs.step = 6 ∧
      ((lctlCar 0x7FFE 0).seq.toNat + 2 * 65536 - (s.port 0).sess.lctlRx % 65536 - 1) % 65536 < 32767 ∧ (s.port 0).wellFormed (lctlCar 0x7FFE 0) = true) ∧
    (∃ s : State, Canonical s ∧ (s.port 0).locked = true ∧ (s.port 0).st = 4 ∧
      ((lctlCar 0 1).seq.toNat + 2 * 65536 - (s.port 0).sess.lctlRx % 65536 - 1) % 65536 < 32767 ∧ (s.port 0).wellFormed (lctlCar 0 1) = false) ∧
    (∃ s : State, Canonical s ∧ (s.port 0).st = 4 ∧ (s.port 0).tsrc = true ∧ (s.port 0).master = true ∧ ∀ k, ¬ k < 0) ∧
    (∀ p : Nat, ¬ (p < 144 ∧ (State.reset.port p).st = 4)) ∧ (∃ s : State, Canonical s ∧ s.dev.srcport < 144) ∧
    (∃ s t, Canonical t ∧ receiveCar s 0 (beaconCar 1) = .take t ∧ ¬ (leAt (beaconCar 1).payload 24 1).testBit 0 = false) ∧
    (∃ s t, Canonical t ∧ receiveCar s 0 (beaconCar 0) = .take t ∧ s.dev.srcport = 0 ∧ (leAt (beaconCar 0).payload 24 1).testBit 0 = false ∧
      s.dev.reqT1 = some (leAt (beaconCar 0).payload 0 8)) := by
  refine ⟨⟨State.reset, reset_canonical, by decide⟩, ⟨onPort (upPort StreamCtx.atReset []), canonical_of (by decide), rfl, rfl, rfl⟩,
    ⟨onPort (authPort 1 []), canonical_of (by decide), rfl, rfl⟩, rfl, rfl, rfl, rfl, rfl, by decide, by decide, by decide,
    ⟨onPort (upPort StreamCtx.atReset []), canonical_of (by decide), rfl, rfl, by decide⟩, ⟨onPort (authPort 6 []), canonical_of (by decide), rfl, rfl, rfl, by decide, by decide⟩,
    ⟨onPort (upPort StreamCtx.atReset []), canonical_of (by decide), rfl, rfl, by decide, by decide⟩,
    ⟨onPort { upPort StreamCtx.atReset [] with master := true }, canonical_of (by decide), rfl, rfl, rfl, by decide⟩, ?_, ⟨beaconOut, canonical_of (by decide), by decide⟩,
    ⟨beaconOut, took_spec _ _ (by decide)⟩, ⟨beaconOut, ?_⟩⟩
  · intro p h
    exact absurd h.2 (by show Port.atReset.st ≠ 4; decide)
  · obtain ⟨t, hc, ht, _⟩ := took_spec (P := fun _ => True) beaconOut (beaconCar 0) (by decide)
    exact ⟨t, hc, ht, rfl, by decide, by decide⟩

/-! Mailboxes, rings and service cars. -/

/-- Mailbox 0 is `b`. -/
def boxed (n : Nat) (b : Mailbox) : State := { State.reset with mbx := { MbxBlock.atReset with boxes := ⟨Mailbox.atReset, [(n, b)]⟩ } }
/-- Ring 0 is `k`. -/
def ringed (k : Ring) : State := { State.reset with mbx := { MbxBlock.atReset with rings := ⟨Ring.atReset, [(0, k)]⟩ } }
/-- A service car of a host. -/
def svcCar : RxCar := ⟨true, true, 7, 0, true, false, 0, 0, 0, 0, 0, List.replicate 256 0#8⟩

theorem witness_MailboxesRingsAndServiceCars :
    (Origin.internal .i3c = false ∧ (0 : Nat) < 8 ∧ Origin.auth .i3c = true ∧ partyOf .i3c = senderOf 0) ∧ ¬ (Origin.internal .i3c = true ∨ (8 : Nat) < 8) ∧
    (Origin.internal .groom = true ∧ partyOf .groom = receiverOf 0) ∧ partyOf .groom ≠ senderOf 0 ∧ partyOf .i3c ≠ receiverOf 0 ∧
    (∃ s : State, Canonical s ∧ 8 ≤ (s.box 0).queue.length) ∧ (∃ s : State, Canonical s ∧ (s.box 0).queue.length = 7) ∧
    (∃ s : State, Canonical s ∧ (s.box 1).calling &&& (0 ^^^ 0xFFFFFFFF) = 0) ∧
    (∃ s : State, Canonical s ∧ (s.box 2).calling &&& (0 ^^^ 0xFFFFFFFF) ≠ 0 ∧ receiverOf 2 = .hostler) ∧ (∃ s : State, Canonical s ∧ (s.box 0).calling &&& (0 ^^^ 0xFFFFFFFF) ≠ 0 ∧ receiverOf 0 = .groom) ∧
    (∃ s : State, Canonical s ∧ (s.box 1).calling &&& (0 ^^^ 0xFFFFFFFF) ≠ 0 ∧ receiverOf 1 = .host ∧ s.mbx.evt = false) ∧
    (∃ s : State, Canonical s ∧ (s.box 1).calling &&& (0 ^^^ 0xFFFFFFFF) ≠ 0 ∧ s.mbx.evt = true ∧ hostPort s = some 0) ∧
    ¬ (Origin.internal .i3c = false ∧ (Origin.auth (.keadigor false) = true ∨ Ring.atReset.sec = false)) ∧ (Origin.internal .i3c = false ∧ Origin.auth .i3c = true) ∧
    (0x10008 % 8 = 0 ∧ 2 ^ Ring.atReset.log2 < (0x10008 + 2 ^ 32 - Ring.atReset.tail) % 2 ^ 32) ∧
    (0x10000 % 8 = 0 ∧ ¬ 2 ^ Ring.atReset.log2 < (0x10000 + 2 ^ 32 - Ring.atReset.tail) % 2 ^ 32) ∧
    (∃ s : State, Canonical s ∧ (s.ring 0).en = true) ∧ (∃ s : State, Canonical s ∧ (s.ring 0).en = false) ∧ (∃ s t, Canonical s ∧ receiveCar s 0 svcCar = .drop t) ∧
    (∃ s t, Canonical t ∧ receiveCar s 0 svcCar = .take t ∧ t.mbx.svcSlots ≤ t.mbx.svcFill) ∧ (∃ s t, Canonical t ∧ receiveCar s 0 svcCar = .take t ∧ t.mbx.svcFill < t.mbx.svcSlots) :=
  ⟨⟨rfl, by decide, rfl, rfl⟩, by decide, ⟨rfl, rfl⟩, by decide, by decide,
    ⟨boxed 0 { Mailbox.atReset with queue := List.replicate 8 (0, 0) }, canonical_of (by decide), by decide⟩, ⟨boxed 0 { Mailbox.atReset with queue := List.replicate 7 (0, 0) }, canonical_of (by decide), by decide⟩,
    ⟨State.reset, reset_canonical, by decide⟩, ⟨boxed 2 { Mailbox.atReset with door := 1, mask := 0 }, canonical_of (by decide), by decide, rfl⟩,
    ⟨boxed 0 { Mailbox.atReset with door := 1, mask := 0 }, canonical_of (by decide), by decide, rfl⟩, ⟨boxed 1 { Mailbox.atReset with door := 1, mask := 0 }, canonical_of (by decide), by decide, rfl, rfl⟩,
    ⟨{ onPort { upPort StreamCtx.atReset [] with host := true } with mbx := { (boxed 1 { Mailbox.atReset with door := 1, mask := 0 }).mbx with evt := true } }, canonical_of (by decide), by decide, rfl, by decide⟩,
    by decide, ⟨rfl, rfl⟩, by decide, by decide, ⟨ringed { Ring.atReset with en := true }, canonical_of (by decide), rfl⟩, ⟨State.reset, reset_canonical, rfl⟩,
    ⟨State.reset, State.reset, reset_canonical, rfl⟩, ⟨onPort { upPort StreamCtx.atReset [] with host := true }, took_spec _ _ (by decide)⟩,
    ⟨{ onPort { upPort StreamCtx.atReset [] with host := true } with mbx := { MbxBlock.atReset with svcSlots := 16 } }, took_spec _ _ (by decide)⟩⟩

/-! Accesses. -/

/-- A management request, or a response when bit 18 of `w1` is set, for the module of this serial. -/
def mgmtCar (w1 : Word32) (serial : Nat) : RxCar := ⟨true, true, 6, 3, true, false, 0, 0, w1, 0, 0, leBytes 8 serial ++ List.replicate 248 0#8⟩
/-- A host port 0 and a Keadigor port 1, both UP, with these requests outstanding at port 0. -/
def twoPorts (l : List Bridged) : State :=
  { State.reset with ports := ⟨Port.atReset, [(0, { upPort StreamCtx.atReset [] with host := true, bridged := l }), (1, upPort StreamCtx.atReset [])]⟩ }

theorem witness_AccessesAndManagement :
    ((9 : Nat) % 8 ≠ 0 ∧ whereIs 0x8000000000 = .window ∧ (0x190000 : Nat) % 8 = 0 ∧ whereIs 0x190000 = .unassigned) ∧
    (whereIs 0x40018 = .err 0x18 ∧ Origin.auth .i3c = true ∧ regWrite .i3c 0x40018 0 State.reset ≠ none ∧ regWrite (.keadigor false) 0x40018 0 State.reset = none) ∧
    (whereIs 0x70800 = .mbx 0x800 ∧ Origin.internal .i3c = false ∧ regWrite .i3c 0x70800 0 State.reset = none ∧ whereIs 0x70000 = .mbx 0 ∧ Origin.auth (.keadigor false) = false) ∧
    ((0 : Nat) < 1 ∧ (224 : Nat) < 225 ∧ (0x20000000 : Nat) < 0x8020000000 - 0x8000000000 + 1 ∧ (0x10000 : Nat) < 0x804000FFFF - 0x8040000000 + 2) ∧
    (∃ s : State, Canonical s ∧ s.mbx.prottop * 4096 ≤ 0x2000000 ∧ ¬ s.mbx.prottop * 4096 ≤ 0x1FFFFFF ∧ Origin.auth .i3c = true) ∧
    (∃ s : State, Canonical s ∧ s.mbx.prottop * 4096 ≤ 0x2000000 ∧ s.mbx.nsbase * 4096 ≤ 0x2000000 ∧ 0x2000000 + 224 ≤ (s.mbx.nsbase + s.mbx.nsblks) * 4096) ∧
    (∃ s : State, Canonical s ∧ shedServed s 0 = false) ∧ (∃ s : State, Canonical s ∧ shedServed s 0 = true) ∧
    (∃ s t, Canonical t ∧ receiveCar s 0 (mgmtCar 0 State.reset.fuses.serial) = .take t ∧ leAt (mgmtCar 0 State.reset.fuses.serial).payload 0 8 = t.fuses.serial) ∧
    (∃ s t, Canonical t ∧ receiveCar s 0 (mgmtCar 0 7) = .take t ∧ leAt (mgmtCar 0 7).payload 0 8 ≠ t.fuses.serial ∧ (t.port 0).host = false) ∧
    (∃ s t, Canonical t ∧ receiveCar s 0 (mgmtCar 0 7) = .take t ∧ leAt (mgmtCar 0 7).payload 0 8 ≠ t.fuses.serial ∧ (t.port 0).host = true ∧ keadigorPort t = some 1) ∧
    (∃ s t, Canonical t ∧ receiveCar s 0 (mgmtCar 0x40000 0) = .take t ∧ bridgeOf t 0 0 = none) ∧
    (∃ s t, Canonical t ∧ receiveCar s 0 (mgmtCar 0x40000 0) = .take t ∧ bridgeOf t 0 0 = some 0) ∧
    (∃ s : State, Canonical s ∧ ∀ b ∈ (s.port 0).bridged, b.tid ≠ 0) ∧
    (∃ s : State, Canonical s ∧ (s.port 0).bridged = [⟨3, none, 0, []⟩] ++ ⟨0, none, 0, []⟩ :: [] ∧ ∀ c ∈ [(⟨3, none, 0, []⟩ : Bridged)], c.tid ≠ 0) :=
  ⟨by decide, by decide, by decide, by decide, ⟨State.reset, reset_canonical, by decide, by decide, rfl⟩,
    ⟨{ State.reset with mbx := { MbxBlock.atReset with nsbase := 0x2000, nsblks := 1 } }, canonical_of (by decide), by decide, by decide, by decide⟩,
    ⟨{ State.reset with sheds := gconst { Shed.atReset with absent := true } }, canonical_of (by decide), by decide⟩,
    ⟨{ State.reset with sheds := gconst { Shed.atReset with absent := false }, yards := gconst { Yard.atReset with core := true, track := true } }, canonical_of (by decide), by decide⟩,
    ⟨onPort (upPort StreamCtx.atReset []), took_spec _ _ (by decide)⟩, ⟨onPort (upPort StreamCtx.atReset []), took_spec _ _ (by decide)⟩, ⟨twoPorts [], took_spec _ _ (by decide)⟩,
    ⟨twoPorts [], took_spec _ _ (by decide)⟩, ⟨twoPorts [⟨0, some 0, 0, []⟩], took_spec _ _ (by decide)⟩, ⟨twoPorts [⟨3, none, 0, []⟩], canonical_of (by decide), by decide⟩,
    ⟨twoPorts [⟨3, none, 0, []⟩, ⟨0, none, 0, []⟩], canonical_of (by decide), rfl, by decide⟩⟩

/-! Power. -/

/-- The power controller is `p`. -/
def powered (p : PwrBlock) : State := { State.reset with pwr := p }
/-- The power controller after reset. -/
def pwr0 : PwrBlock := PwrBlock.atReset 18000
/-- Every physical shed is `p`. -/
def shedded (p : PShed) : State := { State.reset with psheds := gconst p }

theorem witness_PowerCapRampAndShedding :
    Origin.auth (.keadigor false) = false ∧ Origin.auth .i3c = true ∧
    (∃ s : State, Canonical s ∧ s.pwr.pin = true) ∧ (∃ s : State, Canonical s ∧ ¬ (s.pwr.pin = true ∨ s.pwr.lreq = true) ∧ s.pwr.limit = 1800000) ∧
    (∃ (s : State) (m : PowerMeas), Canonical s ∧ s.pwr.limit < 100 * m.input ∧ runningPlace s = some 2 ∧ s.pwr.learning = false ∧
      (s.pwr.shoots.filter (fun t => decide (s.dev.wall ≤ t + 100000000)) ++ [s.dev.wall]).length = 3) ∧
    (∃ (s : State) (m : PowerMeas), Canonical s ∧ s.pwr.limit < 100 * m.input ∧ runningPlace s = some 2 ∧ s.pwr.learning = false ∧
      (s.pwr.shoots.filter (fun t => decide (s.dev.wall ≤ t + 100000000)) ++ [s.dev.wall]).length < 3) ∧
    (∃ (s : State) (m : PowerMeas), Canonical s ∧ runningPlace s = none ∧ ¬ s.pwr.limit < 100 * m.input ∧ 0 < m.compute) ∧
    (∃ s : State, Canonical s ∧ shedAbsent s 0 = true) ∧ (∃ s : State, Canonical s ∧ shedAbsent s 0 = false) ∧
    (∃ s : State, Canonical s ∧ quietShed s 0 = true ∧ nextEvent s 0 = none) ∧ (∃ s : State, Canonical s ∧ quietShed s 0 = true ∧ nextEvent s 0 = some 400120) ∧
    (∃ s : State, Canonical s ∧ quietShed s 0 = false) ∧
    (∃ s : State, Canonical s ∧ shedAbsent s 0 = false ∧ s.thm.tripped = false ∧ (s.pshed (pshedOf s 0)).parked = false ∧ (s.pshed (pshedOf s 0)).waking = false ∧
      (s.pshed (pshedOf s 0)).depth ≠ 0 ∧ (s.pshed (pshedOf s 0)).wakeReq = true) ∧
    (∃ s : State, Canonical s ∧ (s.pshed (pshedOf s 0)).depth = 0) ∧ (∃ s : State, Canonical s ∧ (s.pshed (pshedOf s 0)).waking = false) ∧
    (∃ s : State, Canonical s ∧ (s.pshed (pshedOf s 0)).waking = true ∧ shedAbsent s 0 = false) ∧
    (∃ s : State, Canonical s ∧ moduleEvent s = none ∧ ¬ (s.pwr.pin = true ∨ s.pwr.lreq = true) ∧ s.thm.tripped = false) ∧
    (∃ s : State, Canonical s ∧ moduleEvent s = some 400120 ∧ expectedDraw s = some 9000 ∧ ¬ (s.pwr.pin = true ∨ s.pwr.lreq = true) ∧ s.thm.tripped = false) ∧
    (∃ s : State, Canonical s ∧ s.pwr.pend = true ∧ s.dev.wall < s.pwr.tslot) ∧ (∃ s : State, Canonical s ∧ s.pwr.pend = true ∧ s.pwr.tslot ≤ s.dev.wall ∧ armedPlace s = none) ∧
    (∃ s : State, Canonical s ∧ s.pwr.pend = true ∧ s.pwr.tslot ≤ s.dev.wall ∧ armedPlace s ≠ none) :=
  ⟨rfl, rfl, ⟨powered { pwr0 with pin := true }, canonical_of (by decide), rfl⟩, ⟨State.reset, reset_canonical, by decide, rfl⟩,
    ⟨withRun (powered { pwr0 with shoots := [0, 0] }), ⟨20000, 0, 0, 0, 0, 0⟩, canonical_of (by decide), by decide, by decide, rfl, by decide⟩,
    ⟨withRun State.reset, ⟨20000, 0, 0, 0, 0, 0⟩, canonical_of (by decide), by decide, by decide, rfl, by decide⟩,
    ⟨State.reset, ⟨18000, 0, 0, 0, 9000, 0⟩, reset_canonical, by decide, by decide, by decide⟩,
    ⟨{ State.reset with sheds := gconst { Shed.atReset with absent := true } }, canonical_of (by decide), by decide⟩, ⟨State.reset, reset_canonical, by decide⟩,
    ⟨State.reset, reset_canonical, by decide, by decide⟩, ⟨powered { pwr0 with nextev := 400120 }, canonical_of (by decide), by decide, by decide⟩,
    ⟨lone { Stall.atReset with opened := true, seq := { Seq.start with run := 1 } }, canonical_of (by decide), by decide⟩,
    ⟨shedded { PShed.atReset with depth := 2, wakeReq := true }, canonical_of (by decide), by decide, rfl, by decide, by decide, by decide, by decide⟩,
    ⟨State.reset, reset_canonical, by decide⟩, ⟨State.reset, reset_canonical, by decide⟩, ⟨shedded { PShed.atReset with depth := 2, waking := true }, canonical_of (by decide), by decide, by decide⟩,
    ⟨State.reset, reset_canonical, by decide, by decide, rfl⟩, ⟨powered { pwr0 with nextev := 400120, nextpw := 9000 }, canonical_of (by decide), by decide, by decide, by decide, rfl⟩,
    ⟨powered { pwr0 with pend := true, tslot := 1 }, canonical_of (by decide), rfl, by decide⟩, ⟨powered { pwr0 with pend := true }, canonical_of (by decide), rfl, by decide, by decide⟩,
    ⟨{ placed (inState 3) Place.atReset with pwr := { pwr0 with pend := true } }, canonical_of (by decide), rfl, by decide, by decide⟩⟩

/-! Heat and supply. -/

/-- The thermal block after reset. -/
def thm0 : ThmBlock := ThmBlock.atReset 800
/-- Every yard is `r`. -/
def yarded (r : Yard) : State := { State.reset with yards := gconst r }
/-- A powered yard. -/
def liveYard : Yard := { Yard.atReset with core := true, track := true }

theorem witness_HeatAndSupplyTrips :
    (∃ s : State, Canonical s ∧ (s.pshed 0).sfail = 15) ∧
    (∃ s : State, Canonical s ∧ (s.pshed 0).sfail ≠ 15 ∧ (s.pshed 0).tfloor < s.thm.throttle - 3 ∧ (s.pshed 0).tloft < 92) ∧
    (∃ s : State, Canonical s ∧ (s.pshed 0).sfail ≠ 15 ∧ ¬ ((s.pshed 0).tfloor < s.thm.throttle - 3 ∧ (s.pshed 0).tloft < 92) ∧ ¬ ((s.thm.throttle : Int) ≤ (s.pshed 0).tfloor ∨ 95 ≤ (s.pshed 0).tloft)) ∧
    (∃ s : State, Canonical s ∧ (s.pshed 0).sfail ≠ 15 ∧ ((s.thm.throttle : Int) ≤ (s.pshed 0).tfloor ∨ 95 ≤ (s.pshed 0).tloft)) ∧
    (∃ rs : List ShedReading, (∀ r ∈ rs, r.floor.length = 4 ∧ r.loft.length = 3) ∧ hottest State.reset rs = none) ∧
    (∃ rs : List ShedReading, (∀ r ∈ rs, r.floor.length = 4 ∧ r.loft.length = 3) ∧ hottest State.reset rs = some (115, 7)) ∧
    logicalShed State.reset 0 = some 0 ∧ logicalShed State.reset 8 = none ∧ (∃ s : State, Canonical s ∧ (s.pshed 0).hold = true ∧ (s.thm.release : Int) = 90) ∧
    (∃ s : State, Canonical s ∧ s.thm.tripped = true ∧ s.thm.railsOff = false) ∧ ¬ (State.reset.thm.tripped = true ∧ State.reset.thm.railsOff = false) ∧
    (∃ s : State, Canonical s ∧ (s.yard 0).core = true ∧ (s.yard 0).track = true) ∧ (∃ s : State, Canonical s ∧ (s.yard 0).core = false ∧ (s.yard 0).track = false) :=
  ⟨⟨shedded { PShed.atReset with sfail := 15 }, canonical_of (by decide), rfl⟩, ⟨State.reset, reset_canonical, by decide, by decide, by decide⟩,
    ⟨shedded { PShed.atReset with tfloor := 92 }, canonical_of (by decide), by decide, by decide, by decide⟩, ⟨shedded { PShed.atReset with tfloor := 95 }, canonical_of (by decide), by decide, by decide⟩,
    ⟨[⟨7, [none, none, none, none], [none, none, none]⟩], by decide, by decide⟩, ⟨[⟨7, [some 115, none, some 20, some 20], [some 20, some 20, some 20]⟩], by decide, by decide⟩,
    by decide, by decide, ⟨shedded { PShed.atReset with hold := true }, canonical_of (by decide), rfl, by decide⟩,
    ⟨{ State.reset with thm := { thm0 with tripped := true } }, canonical_of (by decide), rfl, rfl⟩, by decide, ⟨yarded liveYard, canonical_of (by decide), rfl, rfl⟩,
    ⟨State.reset, reset_canonical, rfl, rfl⟩⟩

/-! Remaps, lunges and probation. -/

/-- Every yard has power, and the remap engine is `r`. -/
def remapping (r : RemapEngine) : State := { yarded liveYard with rm := r }
/-- A remap of shed row 0 of yard 0, whose column 3 retires. -/
def shedRun : RemapRun := ⟨[.shed 3], 0, [.shedRow 0 0 3], [], [], []⟩

theorem witness_RemapsAndLunges :
    yardOut State.reset 0 = true ∧
    (∃ s : State, Canonical s ∧ s.rm.running = none ∧ unitInUse s (.shed 3) = true ∧ ¬ (unitRetired s (.shed 3) = true ∨ yardOut s (failYard (.shed 3)) = true ∨ failKnown s (.shed 3) = true)) ∧
    (∃ s : State, Canonical s ∧ unitInUse s (.shed 8) = false ∧ ¬ (unitRetired s (.shed 8) = true ∨ yardOut s (failYard (.shed 8)) = true ∨ failKnown s (.shed 8) = true)) ∧
    (∃ s : State, Canonical s ∧ s.rm.running = some shedRun ∧ shedRun.touches (.shed 4) = true ∧
      ¬ (unitRetired s (.shed 4) = true ∨ yardOut s (failYard (.shed 4)) = true ∨ failKnown s (.shed 4) = true)) ∧
    (∃ s : State, Canonical s ∧ (3 : Nat) % 9 = gget (s.yard 0).rcol 0) ∧
    (∃ s : State, Canonical s ∧ gget (s.yard 0).rcol 0 = 15 ∧ logicalShed s 3 ≠ none ∧ logicalShed s 8 = none) ∧
    (∃ s : State, Canonical s ∧ gget (s.yard 0).rcol 0 = 3 ∧ logicalShed s 4 ≠ none) ∧
    (∃ s : State, Canonical s ∧ unitRetired s (.stall 0) = false ∧ gget (s.pshed 0).rcol 0 = 31 ∧ logicalShed s 0 = some 0 ∧ pcolOf 0 ≠ 16 ∧ pcolOf 16 = 16) ∧
    (∃ s : State, Canonical s ∧ unitRetired s (.stall 0) = false ∧ gget (s.pshed 0).rcol 0 = 5) ∧ ¬ (State.reset.rm.faults.take 1 ≠ []) ∧
    (∃ s : State, Canonical s ∧ s.rm.running = none ∧ s.rm.faults.take s.rm.batch ≠ [] ∧ runningPlace s = none ∧ s.sec.openOut = false ∧ s.lunge.running = none ∧
      ∀ u ∈ s.rm.faults.take s.rm.batch, defectCommitted s u = true ∧ (s.yard (failYard u)).cnt0 = 0 ∧ (s.yard (failYard u)).cnt1 = 0 ∧ (s.yard (failYard u)).lwcnt = 0) ∧
    (∃ s : State, Canonical s ∧ s.grm.retireWait.contains (.shed 8) = true ∧ defectCommitted s (.shed 8) = false) ∧
    (∃ s : State, Canonical s ∧ s.grm.retireWait.contains (.shed 3) = true ∧ defectCommitted s (.shed 3) = true ∧ unitInUse s (.shed 3) = true) ∧
    (∃ s : State, Canonical s ∧ s.grm.retireWait.contains (.shed 8) = true ∧ defectCommitted s (.shed 8) = true ∧ unitInUse s (.shed 8) = false) ∧
    (∃ s : State, Canonical s ∧ Origin.internal .groom = true ∧ (0x4000#64).toNat.testBit 14 = true ∧ s.rm.running = none ∧ s.lunge.running = none ∧ yardOut s 0 = false ∧ lungeShedOk s 0 = true) ∧
    (∃ s : State, Canonical s ∧ s.lunge.running = some (0, 0, 0)) ∧ (∃ s : State, Canonical s ∧ s.lunge.running = some (0, 0, 1)) ∧
    (∀ l, ([] : List Nat).getLast? = some l → l + 21600000000000 ≤ 0) ∧ [0].getLast? = some 0 ∧ 21599999999999 < 0 + 21600000000000 ∧
    8 ≤ (([0, 21600000000000, 43200000000000, 64800000000000, 86400000000000, 108000000000000, 129600000000000] ++ [259200000000000]).drop (7 - 7)).length ∧
    (([0, 21600000000000, 43200000000000, 64800000000000, 86400000000000, 108000000000000, 129600000000000] ++ [259200000000000]).drop (7 - 7)).headD 0 + 259200000000000 ≤ 259200000000000 :=
  ⟨by decide, ⟨yarded liveYard, canonical_of (by decide), rfl, by decide, by decide⟩, ⟨yarded liveYard, canonical_of (by decide), by decide, by decide⟩,
    ⟨remapping ⟨[], 1, some shedRun⟩, canonical_of (by decide), rfl, by decide, by decide⟩,
    ⟨yarded { liveYard with rcol := ⟨15, [(0, 3)]⟩ }, canonical_of (by decide), by decide⟩, ⟨State.reset, reset_canonical, by decide, by decide, by decide⟩,
    ⟨yarded { liveYard with rcol := ⟨15, [(0, 3)]⟩ }, canonical_of (by decide), by decide, by decide⟩, ⟨State.reset, reset_canonical, by decide, by decide, by decide, by decide, by decide⟩,
    ⟨shedded { PShed.atReset with rcol := ⟨31, [(0, 5)]⟩ }, canonical_of (by decide), by decide, by decide⟩, by decide,
    ⟨remapping ⟨[.shed 3], 1, none⟩, canonical_of (by decide), rfl, by decide, by decide, rfl, rfl, by decide⟩,
    ⟨{ yarded liveYard with grm := { GrmBlock.atReset with retireWait := [.shed 8], queue := [⟨1, false, true, 0, 0, 0, [1, 8, 4, 0]⟩] } }, canonical_of (by decide), by decide, by decide⟩,
    ⟨{ yarded liveYard with grm := { GrmBlock.atReset with retireWait := [.shed 3] } }, canonical_of (by decide), by decide, by decide, by decide⟩,
    ⟨{ yarded liveYard with grm := { GrmBlock.atReset with retireWait := [.shed 8] } }, canonical_of (by decide), by decide, by decide, by decide⟩,
    ⟨yarded liveYard, canonical_of (by decide), rfl, by decide, rfl, rfl, by decide, by decide⟩, ⟨{ State.reset with lunge := ⟨some (0, 0, 0), 0⟩ }, canonical_of (by decide), rfl⟩,
    ⟨{ State.reset with lunge := ⟨some (0, 0, 1), 0⟩ }, canonical_of (by decide), rfl⟩, by simp, rfl, by decide, by decide, by decide⟩

/-! The Groom. -/

/-- The Groom is ready and serves, and this request waits in mailbox `b`. -/
def asking (b : Nat) (ptr hi : Word64) : State :=
  { State.reset with grm := { GrmBlock.atReset with ready := true }, mbx := { MbxBlock.atReset with boxes := ⟨Mailbox.atReset, [(b, { Mailbox.atReset with queue := [(ptr, hi)] })]⟩ } }
/-- A request of this type waits to be served. -/
def asksFor (s : State) (b typ ptr : Nat) : Bool :=
  match (s.box b).queue with
  | (p, hi) :: _ => canonB s && decide (ptr = p.toNat) && decide (bitsOf hi.toNat 47 32 = typ) && s.grm.ready && s.grm.due.isNone
  | [] => false
/-- A registration record at Groom window address 0 that makes key 1, signed by Gulune. -/
def keyRecord : Mem := [(0, 1#8), (2, 0x52#8), (3, 0x4B#8), (4, 1#8), (5, 1#8), (6, 3#8), (16, 1#8)]
/-- A record that waits. -/
def waitingRec (kind : Nat) : SbRec := ⟨kind, false, true, 0, 0, 0, [1, 8, 4, 0]⟩
/-- The Groom block is `g`. -/
def groomed (g : GrmBlock) : State := { State.reset with grm := g }
/-- The Groom block after reset. -/
def grm0 : GrmBlock := GrmBlock.atReset

theorem asksFor_spec {s : State} {b typ ptr : Nat} (h : asksFor s b typ ptr = true) : Canonical s ∧
    ∃ p hi rest, (s.box b).queue = (p, hi) :: rest ∧ ptr = p.toNat ∧ bitsOf hi.toNat 47 32 = typ ∧ s.grm.ready = true ∧ s.grm.due = none := by
  unfold asksFor at h
  split at h
  · next p hi rest hq =>
    simp only [Bool.and_eq_true, decide_eq_true_eq, Option.isNone_iff_eq_none] at h
    exact ⟨canonical_of h.1.1.1.1, p, hi, rest, hq, h.1.1.1.2, h.1.1.2, h.1.2, h.2⟩
  · cases h

theorem witness_GroomServicesAndImages :
    (asksFor (asking 0 0 0x1000000000) 0 0x10 0 = true ∧ 0 + 64 + 20256 ≤ 0x10000) ∧ (asksFor (asking 0 0xFFFF 0x1000000000) 0 0x10 0xFFFF = true ∧ 0x10000 < 0xFFFF + 64 + 20256) ∧
    (asksFor (asking 8 0 0x1200000000) 8 0x12 0 = true ∧ 0 + 16 + Memory.readLe (asking 8 0 0x1200000000).hmem 8 4 ≤ 0x20000000) ∧
    (asksFor (asking 0 0xFFFF 0x1200000000) 0 0x12 0xFFFF = true ∧ 0x10000 < 0xFFFF + 16) ∧ State.reset.grm.ready = false ∧
    (asksFor { asking 0 0 0x1100000000 with gwin := keyRecord } 0 0x11 0 = true ∧
      keyRecordOk { asking 0 0 0x1100000000 with gwin := keyRecord } keyRecord 0 true = true) ∧
    (asksFor (asking 0 0 0x1100000000) 0 0x11 0 = true ∧ keyRecordOk (asking 0 0 0x1100000000) [] 0 true = false) ∧
    (asksFor (asking 8 0 0x1400000000) 8 0x14 0 = true ∧ imageOk (asking 8 0 0x1400000000) 3 ⟨true, true, 3, 0, 0, 0⟩ = true ∧ imageOk (asking 8 0 0x1400000000) 3 ⟨true, false, 3, 0, 0, 0⟩ = false) ∧
    (∃ s : State, Canonical s ∧ s.dev.hostlerUp = true ∧ imageOk s 4 ⟨true, true, 4, 0, 0, 0⟩ = true) ∧ State.reset.dev.hostlerUp = false ∧
    (asksFor (asking 8 0 0x1300000000) 8 0x13 0 = true ∧ 0 + 4 + 4 * Memory.readLe (asking 8 0 0x1300000000).hmem 0 4 ≤ 0x20000000) ∧
    (asksFor { asking 8 0 0x1300000000 with hmem := [(0, 1#8), (7, 0x7F#8)] } 8 0x13 0 = true ∧ (suspectUnit (Memory.readLe [(0, 1#8), (7, 0x7F#8)] 4 4)).isNone = true) ∧
    (let s := { asking 8 0 0x1300000000 with hmem := [(0, 1#8)] }; asksFor s 8 0x13 0 = true ∧ suspectUnit (Memory.readLe s.hmem 4 4) = some (.stall 0) ∧
      (suspectOne s (.stall 0)).grm.queue.length ≠ s.grm.queue.length) ∧
    (∃ s : State, Canonical s ∧ s.grm.acquired.contains (.shed 3) = true) ∧ (∃ s : State, Canonical s ∧ (∃ b ∈ s.grm.prob, b.unit = .shed 3) ∧ s.grm.acquired.contains (.shed 3) = false) ∧
    (∃ s : State, Canonical s ∧ s.grm.ready = true ∧ nextRecord s.grm.budget s.grm.queue = none) ∧
    (∃ s : State, Canonical s ∧ s.grm.ready = true ∧ nextRecord s.grm.budget s.grm.queue = some (waitingRec 1, [])) ∧
    (State.reset.dev.st = 1 ∧ State.reset.grm.ready = false ∧ State.reset.grm.fwerr = false ∧ pickSlot State.reset none none = none ∧ pickSlot State.reset (some 0) none = some (false, 0)) ∧
    (∃ s : State, Canonical s ∧ s.dev.st = 1 ∧ s.grm.fwerr = true ∧ (s.box 0).queue = [(0, 8)] ∧ s.grm.slotArb0.getD 0 < s.grm.slotArb1.getD 0) ∧
    (∃ s : State, Canonical s ∧ s.dev.st = 1 ∧ s.grm.fwerr = true ∧ (s.box 0).queue = [(0, 8)] ∧ ¬ s.grm.slotArb0.getD 0 < s.grm.slotArb1.getD 0) :=
  ⟨by decide, by decide, by decide, by decide, rfl, by decide, by decide, by decide, ⟨{ State.reset with dev := { DevBlock.atReset with hostlerUp := true } }, canonical_of (by decide), rfl, by decide⟩,
    rfl, by decide, by decide, by decide, ⟨groomed { grm0 with acquired := [.shed 3] }, canonical_of (by decide), by decide⟩,
    ⟨groomed { grm0 with prob := [⟨.shed 3, []⟩] }, canonical_of (by decide), ⟨⟨.shed 3, []⟩, List.mem_cons_self .., rfl⟩, by decide⟩,
    ⟨groomed { grm0 with ready := true, budget := 0, queue := [waitingRec 4] }, canonical_of (by decide), rfl, by decide⟩,
    ⟨groomed { grm0 with ready := true, budget := 0, queue := [waitingRec 1] }, canonical_of (by decide), rfl, by decide⟩, by decide,
    ⟨{ asking 0 0 8 with grm := { grm0 with fwerr := true, slotArb1 := some 1 } }, canonical_of (by decide), rfl, rfl, by decide, by decide⟩,
    ⟨{ asking 0 0 8 with grm := { grm0 with fwerr := true } }, canonical_of (by decide), rfl, rfl, by decide, by decide⟩⟩

/-! Bring-up and resets. -/

/-- The running step is `k` at this phase. -/
def stepping (k phase : Nat) (auto : Bool) : State := { State.reset with dev := { DevBlock.atReset with st := 2, busy := true, done := k - 1, runStep := k, phase := phase, auto := auto } }
/-- Port 0 is `q` while step 7 runs. -/
def portStep (phase : Nat) (q : Port) : State := { stepping 7 phase false with ports := ⟨Port.atReset, [(0, q)]⟩ }

theorem reset_ports (p : Nat) : State.reset.port p = Port.atReset := rfl

theorem witness_BringUpSteps :
    (∃ s : State, Canonical s ∧ s.dev.busy = false ∧ 1 = s.dev.done + 1 ∧ (s.dev.st = 1 ∨ s.dev.st = 2) ∧ s.grm.idok = true ∧ s.grm.ready = true) ∧
    (∃ s : State, Canonical s ∧ s.dev.busy = false ∧ 7 = s.dev.done + 1 ∧ (s.dev.st = 1 ∨ s.dev.st = 2) ∧ s.grm.idok = true ∧ s.grm.ready = true) ∧
    Origin.auth (.keadigor false) = false ∧ (∀ p : Nat, p < 144 → ¬ ((State.reset.port p).host = true ∧ (State.reset.port p).en = true)) ∧
    (∃ s : State, Canonical s ∧ (s.port 0).host = true ∧ (s.port 0).en = true ∧ ∀ j, ¬ j < 0) ∧ (∃ s : State, Canonical s ∧ s.dev.auto = true) ∧ State.reset.dev.busy = false ∧
    (∀ k, k ∈ [1, 2, 3, 4, 5, 6, 8, 9] → canonB (stepping k 0 true) = true ∧ (stepping k 0 true).dev.busy = true ∧ (stepping k 0 true).dev.runStep = k) ∧
    (∃ s : State, Canonical s ∧ s.dev.runStep = 2 ∧ loadShed s = true) ∧ loadShed (stepping 2 0 true) = false ∧
    (∃ s : State, s.grm.bad.contains (.shed 3) = true) ∧ (∃ s : State, Canonical s ∧ s.dev.runStep = 7 ∧ s.dev.phase = 1 ∧ (hostPort s).isSome = true) ∧
    (∃ s : State, Canonical s ∧ s.dev.runStep = 7 ∧ s.dev.phase = 1 ∧ hostPort s = none) ∧
    (∃ s : State, Canonical s ∧ s.dev.runStep = 7 ∧ s.dev.phase ≠ 1 ∧ ∃ p : Nat, p < 144 ∧ ((s.port p).st = 2 ∨ (s.port p).st = 3)) ∧
    (∃ s : State, Canonical s ∧ s.dev.runStep = 7 ∧ s.dev.phase ≠ 1 ∧ ∀ p : Nat, p < 144 → (s.port p).st ≠ 2 ∧ (s.port p).st ≠ 3) ∧
    (imageOk (stepping 8 0 false) 2 ⟨true, true, 2, 0, 0, 0⟩ = true ∧ imageOk (stepping 8 0 false) 2 ⟨true, true, 3, 0, 0, 0⟩ = false) ∧
    (∃ s : State, Canonical s ∧ s.dev.runStep = 8 ∧ s.dev.phase ≠ 0 ∧ (s.box 9).rxrdy = true) ∧ (∃ s : State, Canonical s ∧ s.dev.runStep = 8 ∧ s.dev.phase ≠ 0 ∧ (s.box 9).rxrdy = false) ∧
    (∃ s : State, Canonical s ∧ s.dev.runStep = 9 ∧ ∃ y : Nat, y < 64 ∧ (s.yard y).lame = true) ∧
    (∃ s : State, Canonical s ∧ s.dev.runStep = 9 ∧ ¬ ((∃ y : Nat, y < 64 ∧ (s.yard y).lame = true) ∨ (∃ k : Nat, k < 4096 ∧ (s.shed k).absent = true))) := by
  refine ⟨⟨groomed { grm0 with idok := true, ready := true }, canonical_of (by decide), by decide⟩,
    ⟨{ groomed { grm0 with idok := true, ready := true } with dev := { DevBlock.atReset with done := 6 } }, canonical_of (by decide), by decide⟩, rfl,
    fun p _ h => absurd h.1 (by rw [reset_ports]; decide), ⟨onPort { Port.atReset with host := true }, canonical_of (by decide), rfl, rfl, by decide⟩, ⟨stepping 1 0 true, canonical_of (by decide), rfl⟩, rfl,
    by decide, ⟨{ stepping 2 0 true with pwr := { pwr0 with pin := true } }, canonical_of (by decide), rfl, by decide⟩, by decide, ⟨groomed { grm0 with bad := [.shed 3] }, by decide⟩,
    ⟨portStep 1 { upPort StreamCtx.atReset [] with host := true }, canonical_of (by decide), rfl, rfl, by decide⟩, ⟨stepping 7 1 false, canonical_of (by decide), rfl, rfl, by decide⟩,
    ⟨portStep 2 { Port.atReset with st := 2 }, canonical_of (by decide), rfl, by decide, 0, by decide, .inl rfl⟩,
    ⟨stepping 7 2 false, canonical_of (by decide), rfl, by decide, fun p _ => ?_⟩, by decide,
    ⟨{ stepping 8 1 false with mbx := (boxed 9 { Mailbox.atReset with rxrdy := true }).mbx }, canonical_of (by decide), rfl, by decide, by decide⟩,
    ⟨stepping 8 1 false, canonical_of (by decide), rfl, by decide, by decide⟩, ⟨{ stepping 9 0 false with yards := gconst { Yard.atReset with lame := true } }, canonical_of (by decide), rfl, 0, by decide, rfl⟩,
    ⟨stepping 9 0 false, canonical_of (by decide), rfl, ?_⟩⟩
  · rw [show (stepping 7 2 false).port p = Port.atReset from rfl]; decide
  · rintro (⟨y, _, h⟩ | ⟨k, _, h⟩)
    · exact absurd h (by rw [show (stepping 9 0 false).yard y = Yard.atReset from rfl]; decide)
    · exact absurd h (by rw [show (stepping 9 0 false).shed k = Shed.atReset from rfl]; decide)

theorem witness_ResetsPinsAndManagementPorts :
    (∃ s : State, Canonical s ∧ s.dev.st ≠ 3 ∧ s.dev.st ≠ 4 ∧ s.dev.st ≠ 5) ∧ (∃ s : State, Canonical s ∧ s.dev.st = 3 ∧ activePlace s = none) ∧
    (∃ s : State, Canonical s ∧ s.dev.st = 4 ∧ runningPlace s = none ∧ (activePlace s).isSome = true) ∧ (∃ s : State, Canonical s ∧ s.dev.st = 4 ∧ runningPlace s = some 0) ∧
    (∃ s : State, Canonical s ∧ s.dev.st = 0 ∧ s.pins.resetN = true) ∧ (∃ s : State, Canonical s ∧ s.dev.st = 0 ∧ s.pins.resetN = false) ∧
    i3cTrans [0#8] = none ∧ (i3cTrans (List.replicate 6 0#8)).isSome = true ∧ i3cTrans (2#8 :: List.replicate 5 0#8 ++ [225#8, 0#8]) = none ∧
    (i3cTrans (2#8 :: List.replicate 5 0#8 ++ [224#8, 0#8])).isSome = true ∧ State.reset.dev.st = 1 :=
  ⟨⟨State.reset, reset_canonical, by decide⟩, ⟨{ State.reset with dev := { DevBlock.atReset with st := 3 } }, canonical_of (by decide), rfl, by decide⟩,
    ⟨{ placed (inState 6) Place.atReset with dev := { DevBlock.atReset with st := 4 } }, canonical_of (by decide), rfl, by decide, by decide⟩,
    ⟨{ placed (inState 4) Place.atReset with dev := { DevBlock.atReset with st := 4 } }, canonical_of (by decide), rfl, by decide⟩,
    ⟨{ State.reset with dev := { DevBlock.atReset with st := 0 } }, canonical_of (by decide), rfl, rfl⟩,
    ⟨{ State.reset with dev := { DevBlock.atReset with st := 0 }, pins := { State.reset.pins with resetN := false } }, canonical_of (by decide), rfl, rfl⟩,
    by decide, by decide, by decide, by decide, rfl⟩

end Sys2Proof.Tests
end

section
/-! PROOFS. The remap engine, the lunge engine and probation (R21-R25, R209, R402, R403, R409, R427-R429): one equation for each case
of each command, what each operation under them does to the part it writes, and from these the statement O57. -/

namespace Sys2Proof.Machine

/-! Maps whose keys may repeat. -/

/-- A key that is not among the changed ones keeps its value. -/
theorem gget_gmodKeys_of_not_mem {α : Type} [DecidableEq α] (m : GMap α) {ks : List Nat} (f : Nat → α → α) {k : Nat}
    (hk : k ∉ ks) : gget (gmodKeys m ks f) k = gget m k := by
  induction ks generalizing m with
  | nil => rfl
  | cons j ks ih =>
    obtain ⟨hj, hks⟩ := not_or.1 (mt List.mem_cons.2 hk)
    exact (ih (gmod m j (f j)) hks).trans (gget_gmod_ne m _ hj)

/-- What every change at a key establishes holds of a changed key. -/
theorem gget_gmodKeys_of_mem {α : Type} [DecidableEq α] {m : GMap α} (h : gwf m = true) {ks : List Nat} {f : Nat → α → α} {k : Nat}
    {P : α → Prop} (hP : ∀ x, P (f k x)) (hk : k ∈ ks) : P (gget (gmodKeys m ks f) k) := by
  induction ks generalizing m with
  | nil => cases hk
  | cons j ks ih =>
    by_cases hks : k ∈ ks
    · exact ih (gwf_gmod h ..) hks
    · obtain rfl : k = j := (List.mem_cons.1 hk).resolve_right hks
      have hget : gget (gmodKeys m (k :: ks) f) k = f k (gget m k) :=
        (gget_gmodKeys_of_not_mem _ f hks).trans (gget_gset_self h ..)
      rw [hget]
      exact hP _

/-- What every change at a key keeps is kept. -/
theorem gget_gmodKeys_keeps {α : Type} [DecidableEq α] {m : GMap α} (h : gwf m = true) (ks : List Nat) {f : Nat → α → α} {k : Nat}
    {P : α → Prop} (hP : ∀ x, P x → P (f k x)) (hk : P (gget m k)) : P (gget (gmodKeys m ks f) k) := by
  induction ks generalizing m with
  | nil => exact hk
  | cons j ks ih =>
    refine ih (gwf_gmod h ..) ?_
    rw [gget_gmod h]
    split
    · next hj => subst hj; exact hP _ hk
    · exact hk

/-! A failing unit (R21, R23, R24, R428). -/

/-- Nothing is left to do for a failing unit: it is retired, its yard is out, or it is known already. -/
def FailSettled (s : State) (u : FailUnit) : Prop :=
  unitRetired s u = true ∨ yardOut s (failYard u) = true ∨ failKnown s u = true

/-- The DEFECT record of a unit that fails at run time. -/
def defectJournalled (s : State) (u : FailUnit) : State :=
  journal s 1 (unitCode u ++ [if unitInUse s u = true then 2 else 4, 0])

theorem failUnit_of_settled {s : State} {u : FailUnit} (h : FailSettled s u) (source : Nat) : failUnit s u source = s := by
  have hcond : (unitRetired s u || yardOut s (failYard u) || failKnown s u) = true := by
    simpa only [FailSettled, Bool.or_eq_true, or_assoc] using h
  simp only [failUnit, hcond, if_true]

theorem failUnit_of_new {s : State} {u : FailUnit} (h : ¬ FailSettled s u) :
    failUnit s u 2 =
      if unitInUse s u = true then { defectJournalled s u with rm := { s.rm with faults := s.rm.faults ++ [u] } }
      else { defectJournalled s u with grm := { (defectJournalled s u).grm with retireWait := s.grm.retireWait ++ [u] } } := by
  have hcond : ¬ (unitRetired s u || yardOut s (failYard u) || failKnown s u) = true := by
    simpa only [FailSettled, Bool.or_eq_true, or_assoc] using h
  simp only [failUnit, if_neg hcond]
  rfl

theorem failUnit_running (s : State) (u : FailUnit) (source : Nat) : (failUnit s u source).rm.running = s.rm.running := by
  unfold failUnit
  split
  · rfl
  · dsimp only
    split <;> rfl

/-- A unit that was not known waits in neither list. -/
theorem not_mem_of_not_known {s : State} {u : FailUnit} (h : failKnown s u = false) :
    u ∉ s.rm.faults ∧ u ∉ s.grm.retireWait := by
  simp only [failKnown, Bool.or_eq_false_iff, List.contains_eq_mem, decide_eq_false_iff_not] at h
  exact h.1

/-- A unit that has just failed is known. -/
theorem failKnown_failUnit {s : State} {u : FailUnit} (h : ¬ FailSettled s u) : failKnown (failUnit s u 2) u = true := by
  rw [failUnit_of_new h]
  split <;>
    simp only [failKnown, List.contains_eq_mem, List.mem_append, List.mem_singleton, or_true, decide_true, Bool.true_or, Bool.or_true]

/-- Leaving out an element that is not there leaves the list. -/
theorem filter_ne_of_not_mem {u : FailUnit} {l : List FailUnit} (h : u ∉ l) : l.filter (fun v => decide (v ≠ u)) = l :=
  List.filter_eq_self.2 fun _ hv => decide_eq_true fun e => h (e ▸ hv)

/-- Leaving out an element just appended leaves what stood before it. -/
theorem filter_ne_append_self {u : FailUnit} {l : List FailUnit} (h : u ∉ l) :
    (l ++ [u]).filter (fun v => decide (v ≠ u)) = l := by
  have hself : [u].filter (fun v => decide (v ≠ u)) = [] := List.filter_eq_nil_iff.2 fun v hv hne =>
    of_decide_eq_true hne (List.mem_singleton.1 hv)
  rw [List.filter_append, filter_ne_of_not_mem h, hself, List.append_nil]

/-- A restart, once the unit is left out of both lists it may wait in. -/
theorem restartWith_eq {s : State} {u : FailUnit} {faults wait : List FailUnit} (r : RemapRun)
    (hf : s.rm.faults.filter (fun v => decide (v ≠ u)) = faults) (hw : s.grm.retireWait.filter (fun v => decide (v ≠ u)) = wait) :
    restartWith s r u =
      setValid { s with rm := ⟨r.units ++ u :: faults, r.units.length + 1, none⟩, grm := { s.grm with retireWait := wait } } r true := by
  subst hf hw
  rfl

/-- A restart takes the failed unit along with the running remap, wherever the failure has put it (R23). -/
theorem restartWith_failUnit {s : State} {u : FailUnit} (h : ¬ FailSettled s u) (r : RemapRun) :
    restartWith (failUnit s u 2) r u =
      setValid { defectJournalled s u with rm := ⟨r.units ++ u :: s.rm.faults, r.units.length + 1, none⟩ } r true := by
  have hknown : failKnown s u = false := Bool.eq_false_iff.2 fun hk => h (.inr (.inr hk))
  obtain ⟨hfaults, hwait⟩ := not_mem_of_not_known hknown
  rw [failUnit_of_new h]
  split
  · exact restartWith_eq r (filter_ne_append_self hfaults) (filter_ne_of_not_mem hwait)
  · exact restartWith_eq r (filter_ne_of_not_mem hfaults) (filter_ne_append_self hwait)

theorem execRemapFault_of_settled {s : State} {u : FailUnit} (h : FailSettled s u) : execRemapFault u s = .next s := by
  simp only [execRemapFault, failUnit_of_settled h, Bool.not_and_self, Bool.false_and, Bool.false_eq_true, if_false]
  cases s.rm.running <;> rfl

theorem execRemapFault_of_untouched {s : State} {u : FailUnit} (ht : ∀ r, s.rm.running = some r → r.touches u = false) :
    execRemapFault u s = .next (failUnit s u 2) := by
  have hrun := failUnit_running s u 2
  unfold execRemapFault
  dsimp only
  split
  · next r hr => rw [ht r (hrun ▸ hr), Bool.and_false, if_neg Bool.false_ne_true]
  · rfl

theorem execRemapFault_of_touched {s : State} {u : FailUnit} {r : RemapRun} (h : ¬ FailSettled s u) (hr : s.rm.running = some r)
    (ht : r.touches u = true) :
    execRemapFault u s =
      .next (setValid { defectJournalled s u with rm := ⟨r.units ++ u :: s.rm.faults, r.units.length + 1, none⟩ } r true) := by
  have hknown : failKnown s u = false := Bool.eq_false_iff.2 fun hk => h (.inr (.inr hk))
  have hrun : (failUnit s u 2).rm.running = some r := (failUnit_running s u 2).trans hr
  simp only [execRemapFault, hrun, hknown, failKnown_failUnit h, ht, Bool.not_false, Bool.and_self, if_true, restartWith_failUnit h]

/-! What a fault changes (R21, R24). -/

section
variable {s : State} {n : Nat}

theorem planShed_of_retired (h : n % 9 = gget (s.yard (n / 72)).rcol (n % 72 / 9)) : planShed s n = ⟨[], [], []⟩ := by
  simp only [planShed, if_pos h]

theorem planShed_of_unused (h : n % 9 ≠ gget (s.yard (n / 72)).rcol (n % 72 / 9)) (hl : logicalShed s n = none) :
    planShed s n = ⟨[.shedRow (n / 72) (n % 72 / 9) (n % 9)], [], []⟩ := by
  simp only [planShed, if_neg h, hl]

theorem planShed_of_spare_left (h : n % 9 ≠ gget (s.yard (n / 72)).rcol (n % 72 / 9)) (hl : logicalShed s n ≠ none)
    (hg : gget (s.yard (n / 72)).rcol (n % 72 / 9) = 15) :
    planShed s n =
      let moved := ((List.range 8).filter (fun l => decide (n % 9 ≤ l))).flatMap
        (fun l => stallsOfShed (n / 72 * 64 + n % 72 / 9 * 8 + l))
      ⟨[.shedRow (n / 72) (n % 72 / 9) (n % 9)], moved, moved⟩ := by
  obtain ⟨k, hk⟩ := Option.ne_none_iff_exists'.1 hl
  simp only [planShed, if_neg h, hk, if_pos hg]

theorem planShed_of_no_spare (h : n % 9 ≠ gget (s.yard (n / 72)).rcol (n % 72 / 9)) (hl : logicalShed s n ≠ none)
    (hg : gget (s.yard (n / 72)).rcol (n % 72 / 9) ≠ 15) : planShed s n = ⟨[.lame (n / 72) (n % 72 / 9)], [], []⟩ := by
  obtain ⟨k, hk⟩ := Option.ne_none_iff_exists'.1 hl
  simp only [planShed, if_neg h, hk, if_neg hg]

end

section
variable {s : State} {p : PStallId}

theorem planUnit_stall_of_no_spare (hr : unitRetired s (.stall p) = false)
    (hg : gget (s.pshed (pshedOfPhys p)).rcol (prowOf p) ≠ 31) : planUnit s (.stall p) = planShed s (pshedOfPhys p) := by
  simp only [planUnit, hr, Bool.false_eq_true, if_false, if_pos hg]

theorem planUnit_stall_of_unused (hr : unitRetired s (.stall p) = false)
    (hg : gget (s.pshed (pshedOfPhys p)).rcol (prowOf p) = 31) (hl : logicalShed s (pshedOfPhys p) = none ∨ pcolOf p = 16) :
    planUnit s (.stall p) = ⟨[.stallRow (pshedOfPhys p) (prowOf p) (pcolOf p)], [], []⟩ := by
  have hspare : ¬ gget (s.pshed (pshedOfPhys p)).rcol (prowOf p) ≠ 31 := fun hn => hn hg
  simp only [planUnit, hr, Bool.false_eq_true, if_false, if_neg hspare]
  cases hk : logicalShed s (pshedOfPhys p) with
  | none => rfl
  | some k => exact if_pos (hl.resolve_left fun hnone => Option.some_ne_none k (hk.symm.trans hnone))

theorem planUnit_stall_of_used (hr : unitRetired s (.stall p) = false)
    (hg : gget (s.pshed (pshedOfPhys p)).rcol (prowOf p) = 31) (hc : pcolOf p ≠ 16) {k : Nat}
    (hk : logicalShed s (pshedOfPhys p) = some k) :
    planUnit s (.stall p) = ⟨[.stallRow (pshedOfPhys p) (prowOf p) (pcolOf p)],
      ((List.range 16).filter (fun l => decide (pcolOf p ≤ l))).map (fun l => sidOf k (prowOf p * 16 + l)), stallsOfShed k⟩ := by
  have hspare : ¬ gget (s.pshed (pshedOfPhys p)).rcol (prowOf p) ≠ 31 := fun hn => hn hg
  simp only [planUnit, hr, Bool.false_eq_true, if_false, if_neg hspare, hk, if_neg hc]

end

/-! The run of a remap (R22, R209). -/

/-- A remap may run: it has faults to handle, no remap, section, open or lunge runs, their records are committed and the counters of
their yards are zero. -/
def RemapMayRun (s : State) : Prop :=
  s.rm.running = none ∧ s.rm.faults.take s.rm.batch ≠ [] ∧ runningPlace s = none ∧ s.sec.openOut = false ∧ s.lunge.running = none ∧
    ∀ u ∈ s.rm.faults.take s.rm.batch, defectCommitted s u = true ∧ (s.yard (failYard u)).cnt0 = 0 ∧
      (s.yard (failYard u)).cnt1 = 0 ∧ (s.yard (failYard u)).lwcnt = 0

/-- The remap that REMAP_RUN begins. -/
def remapBegun (s : State) : RemapRun :=
  let us := s.rm.faults.take s.rm.batch
  let p := planAll s us
  ⟨us, failYard (us.headD (.stall 0)), p.edits, p.moved, p.stalls, if p.edits.any RemapEdit.isLame then [] else us.flatMap (heldBy s)⟩

/-- The state once a remap that begins has been recorded and its changes are journalled. -/
def remapRecorded (s : State) : State :=
  (remapBegun s).edits.foldl journalEdit { s with rm := ⟨s.rm.faults.drop s.rm.batch, 1, some (remapBegun s)⟩ }

/-- The state in which a remap runs. -/
def remapStarted (s : State) : State := setValid (markReload (remapRecorded s) (remapBegun s).stalls) (remapBegun s) false

/-- No remap runs and none of the conditions of a run fails. -/
theorem remapReady_iff (s : State) (us : List FailUnit) :
    remapReady s us = true ↔ runningPlace s = none ∧ s.sec.openOut = false ∧ s.lunge.running = none ∧
      ∀ u ∈ us, defectCommitted s u = true ∧ (s.yard (failYard u)).cnt0 = 0 ∧ (s.yard (failYard u)).cnt1 = 0 ∧
        (s.yard (failYard u)).lwcnt = 0 := by
  simp only [remapReady, Bool.and_eq_true, Option.isNone_iff_eq_none, Bool.not_eq_true', List.all_eq_true, decide_eq_true_eq]
  constructor
  · rintro ⟨⟨⟨⟨hplace, hopen⟩, hlunge⟩, hdefect⟩, hyards⟩
    refine ⟨hplace, hopen, hlunge, fun u hu => ?_⟩
    obtain ⟨⟨hcnt0, hcnt1⟩, hlwcnt⟩ := hyards (failYard u) (List.mem_map_of_mem hu)
    exact ⟨hdefect u hu, hcnt0, hcnt1, hlwcnt⟩
  · rintro ⟨hplace, hopen, hlunge, hunits⟩
    refine ⟨⟨⟨⟨hplace, hopen⟩, hlunge⟩, fun u hu => (hunits u hu).1⟩, fun y hy => ?_⟩
    obtain ⟨u, hu, rfl⟩ := List.mem_map.1 hy
    obtain ⟨_, hcnt0, hcnt1, hlwcnt⟩ := hunits u hu
    exact ⟨⟨hcnt0, hcnt1⟩, hlwcnt⟩

theorem remapUnblocked_iff (s : State) :
    (s.rm.running.isSome || (s.rm.faults.take s.rm.batch).isEmpty || !remapReady s (s.rm.faults.take s.rm.batch)) = false ↔
      RemapMayRun s := by
  simp only [Bool.or_eq_false_iff, Bool.not_eq_false', remapReady_iff, Option.isSome_eq_false_iff, Option.isNone_iff_eq_none,
    List.isEmpty_eq_false_iff]
  exact and_assoc

theorem execRemapRun_of_blocked {s : State} (h : ¬ RemapMayRun s) : execRemapRun s = .next s := by
  have hcond := eq_true_of_ne_false (mt (remapUnblocked_iff s).1 h)
  simp only [execRemapRun, hcond, if_true]

theorem execRemapRun_of_ready {s : State} (h : RemapMayRun s) : execRemapRun s = .next (remapStarted s) := by
  have hcond := ne_true_of_eq_false ((remapUnblocked_iff s).2 h)
  simp only [execRemapRun, if_neg hcond]
  rfl

/-- The records of the changes are all that the journalling of a remap adds. -/
theorem remapRecorded_same (s : State) {ps : List StatePart} (hp : ([.grm] : List StatePart) ⊆ ps) :
    Same ps { s with rm := ⟨s.rm.faults.drop s.rm.batch, 1, some (remapBegun s)⟩ } (remapRecorded s) :=
  Same.refl.foldl fun _ e h => journalEdit_same h e hp

theorem remapRecorded_sec (s : State) : (remapRecorded s).sec = s.sec :=
  (remapRecorded_same s (List.Subset.refl _)).kept .sec (by decide)

theorem remapRecorded_sheds (s : State) : (remapRecorded s).sheds = s.sheds :=
  (remapRecorded_same s (List.Subset.refl _)).kept .sheds (by decide)

/-- The state with its ARMED place, if any, back at LOADED. -/
def disarmArmed (s : State) : State :=
  match armedPlace s with
  | some p => disarmPlace s p
  | none => s

/-- A place whose stalls move: RLDPEND, unless it is empty. -/
def Place.markedReload (stalls : List Nat) (q : Place) : Place :=
  if q.st = 0 then q else { q with rld := true, rldFor := q.rldFor ++ stalls.filter (fun i => !q.rldFor.contains i) }

theorem markReload_places {s : State} {stalls : List Nat} (h : stalls ≠ []) :
    (markReload s stalls).sec.places = gmapAll (disarmArmed s).sec.places (Place.markedReload stalls) := by
  have hcond : ¬ stalls.isEmpty = true := fun e => h (List.isEmpty_iff.1 e)
  simp only [markReload, if_neg hcond]
  rfl

theorem disarmArmed_places (s : State) :
    (disarmArmed s).sec.places =
      match armedPlace s with
      | some p => gmod s.sec.places p fun q => { q with st := 2 }
      | none => s.sec.places := by
  unfold disarmArmed
  split <;> rfl

theorem gwf_disarmArmed {s : State} (h : gwf s.sec.places = true) : gwf (disarmArmed s).sec.places = true := by
  rw [disarmArmed_places]
  split
  · exact gwf_gmod h ..
  · exact h

theorem disarmArmed_place_st {s : State} (h : gwf s.sec.places = true) (q : Nat) :
    ((disarmArmed s).place q).st = if armedPlace s = some q then 2 else (s.place q).st := by
  unfold State.place
  rw [disarmArmed_places]
  split
  · next p hp =>
    rw [gget_gmod h, hp]
    simp only [Option.some.injEq, eq_comm (a := q)]
    split <;> rfl
  · next hp => rw [hp, if_neg fun e => nomatch e]

theorem markReload_place {s : State} (h : gwf s.sec.places = true) {stalls : List Nat} (hs : stalls ≠ []) (q : Nat) :
    (markReload s stalls).place q = ((disarmArmed s).place q).markedReload stalls := by
  unfold State.place
  rw [markReload_places hs, gget_gmapAll (gwf_disarmArmed h)]

theorem Place.markedReload_st (stalls : List Nat) (q : Place) : (q.markedReload stalls).st = q.st := by
  unfold Place.markedReload
  split <;> rfl

theorem Place.markedReload_rld (stalls : List Nat) {q : Place} (h : q.st ≠ 0) : (q.markedReload stalls).rld = true := by
  simp only [Place.markedReload, if_neg h]

/-- When stalls move, every place that holds a tack waits for its reload (R209). -/
theorem markReload_rld {s : State} (h : gwf s.sec.places = true) {stalls : List Nat} (hs : stalls ≠ []) {q : Nat}
    (hq : (s.place q).st ≠ 0) : ((markReload s stalls).place q).rld = true := by
  rw [markReload_place h hs]
  refine Place.markedReload_rld stalls ?_
  rw [disarmArmed_place_st h]
  split
  · decide
  · exact hq

/-- When stalls move, the ARMED place goes back to LOADED (R209). -/
theorem markReload_armed {s : State} (h : gwf s.sec.places = true) {stalls : List Nat} (hs : stalls ≠ []) {q : Nat}
    (hq : armedPlace s = some q) : ((markReload s stalls).place q).st = 2 := by
  rw [markReload_place h hs, Place.markedReload_st, disarmArmed_place_st h, if_pos hq]

theorem setValid_sheds (s : State) (r : RemapRun) (v : Bool) :
    (setValid s r v).sheds = gmodKeys s.sheds (shedsOf r.stalls) (fun _ h => { h with valid := v }) := by
  unfold setValid
  dsimp only
  split <;> rfl

/-- The sheds of the stalls to be reloaded are valid or not as told (R25). -/
theorem setValid_valid {s : State} (h : gwf s.sheds = true) {r : RemapRun} (v : Bool) {sid : Nat} (hs : sid ∈ r.stalls) :
    ((setValid s r v).shed (shedOf sid)).valid = v := by
  unfold State.shed
  rw [setValid_sheds]
  exact gget_gmodKeys_of_mem h (P := fun t => t.valid = v) (fun _ => rfl)
    (List.mem_eraseDups.2 (List.mem_map_of_mem hs))

theorem setValid_sec (s : State) (r : RemapRun) (v : Bool) : (setValid s r v).sec = s.sec :=
  (setValid_same Same.refl r v (List.Subset.refl _)).kept .sec (by decide)

theorem markReload_sheds (s : State) (stalls : List Nat) : (markReload s stalls).sheds = s.sheds :=
  (markReload_same Same.refl stalls (List.Subset.refl _)).kept .sheds (by decide)

theorem armedPlace_congr {s t : State} (h : t.sec = s.sec) : armedPlace t = armedPlace s := by
  simp only [armedPlace, placeIn, State.place, h]

theorem remapStarted_running (s : State) : (remapStarted s).rm.running = some (remapBegun s) := by
  have hrec := remapRecorded_same s (ps := [.grm, .sec, .yards, .sheds]) (by decide)
  have hsame := setValid_same (markReload_same hrec (remapBegun s).stalls (by decide)) (remapBegun s) false (by decide)
  exact congrArg RemapEngine.running (hsame.kept .rm (by decide))

theorem remapStarted_place (s : State) (q : Nat) :
    (remapStarted s).place q = (markReload (remapRecorded s) (remapBegun s).stalls).place q := by
  simp only [State.place, remapStarted, setValid_sec]

section
variable {s : State} (hs : gwf s.sec.places = true) (hm : (remapBegun s).stalls ≠ [])
include hs hm

theorem remapStarted_rld {q : Nat} (hq : (s.place q).st ≠ 0) : ((remapStarted s).place q).rld = true := by
  rw [remapStarted_place]
  refine markReload_rld ?_ hm ?_
  · rwa [remapRecorded_sec]
  · simpa only [State.place, remapRecorded_sec] using hq

theorem remapStarted_armed {q : Nat} (hq : armedPlace s = some q) : ((remapStarted s).place q).st = 2 := by
  rw [remapStarted_place]
  refine markReload_armed ?_ hm ?_
  · rwa [remapRecorded_sec]
  · rwa [armedPlace_congr (remapRecorded_sec s)]

end

theorem remapStarted_valid {s : State} (h : gwf s.sheds = true) {sid : Nat} (hs : sid ∈ (remapBegun s).stalls) :
    ((remapStarted s).shed (shedOf sid)).valid = false := by
  refine setValid_valid ?_ false hs
  rwa [markReload_sheds, remapRecorded_sheds]

/-! The end of a remap (R21, R22, R25). -/

theorem execRemapComplete_of_idle {s : State} (h : s.rm.running = none) : execRemapComplete s = .next s := by
  simp only [execRemapComplete, h]

/-- The state in which no remap runs any longer. -/
def remapStopped (s : State) : State := { s with rm := { s.rm with running := none } }

theorem execRemapComplete_of_running {s : State} {r : RemapRun} (h : s.rm.running = some r) :
    execRemapComplete s = .next (
      let t := applyRun (remapStopped s) r
      releaseStart (if r.edits.any RemapEdit.isLame then fixHeld (degrade t) else t)) := by
  simp only [execRemapComplete, h, remapStopped]

/-- The state in which the changes of a remap stand in the map, and nothing else is done yet. -/
def remapEdited (s : State) (r : RemapRun) : State :=
  r.edits.foldl (fun s e => applyEdit (wakeSpares s e) e) { s with fresh := s.fresh + 1 }

/-- The stalls once those that moved and those that lost their loft data have done so (R22). -/
def remapStalls (s : State) (r : RemapRun) : GMap Stall :=
  gmodKeys (gmodKeys s.stalls r.moved (fun _ t => t.carried s.fresh)) r.lost (fun _ t => { t with mem := t.mem.distrust s.fresh })

theorem remapEdited_same (s : State) (r : RemapRun) :
    Same [.yards, .sheds, .psheds] { s with fresh := s.fresh + 1 } (remapEdited s r) :=
  Same.refl.foldl fun _ e h => applyEdit_same (wakeSpares_same h e (by decide)) e (by decide)

theorem remapEdited_stalls (s : State) (r : RemapRun) : (remapEdited s r).stalls = s.stalls :=
  (remapEdited_same s r).kept .stalls (by decide)

theorem remapEdited_sec (s : State) (r : RemapRun) : (remapEdited s r).sec = s.sec :=
  (remapEdited_same s r).kept .sec (by decide)

/-- What a remap does when it ends: its changes, its stalls, LASTSEC, VALID and PSCOL. -/
theorem applyRun_eq (s : State) (r : RemapRun) :
    applyRun s r = fixPscol (setValid { remapEdited s r with
      stalls := remapStalls s r, sec := if r.moved = [] then s.sec else { s.sec with lastsec := 0 } } r true) r.yard := by
  simp only [remapStalls, ← remapEdited_stalls s r, ← remapEdited_sec s r]
  unfold applyRun takeFresh
  by_cases hm : r.moved = []
  · simp only [hm, if_true]
    rfl
  · have hcond : ¬ r.moved.isEmpty = true := fun e => hm (List.isEmpty_iff.1 e)
    simp only [if_neg hm, if_neg hcond]
    rfl

/-- VALID and PSCOL are the sheds' and the yards' affair. -/
theorem fixPscol_setValid_same (s : State) (r : RemapRun) (v : Bool) (y : Nat) :
    Same [.yards, .sheds] s (fixPscol (setValid s r v) y) :=
  fixPscol_same (setValid_same Same.refl r v (List.Subset.refl _)) y (by decide)

theorem applyRun_stalls (s : State) (r : RemapRun) : (applyRun s r).stalls = remapStalls s r := by
  rw [applyRun_eq]
  exact (fixPscol_setValid_same ..).kept .stalls (by decide)

theorem applyRun_rm (s : State) (r : RemapRun) : (applyRun s r).rm = s.rm :=
  (applyRun_same Same.refl r (List.Subset.refl _)).kept .rm (by decide)

theorem applyRun_sec (s : State) (r : RemapRun) :
    (applyRun s r).sec = if r.moved = [] then s.sec else { s.sec with lastsec := 0 } := by
  rw [applyRun_eq]
  exact (fixPscol_setValid_same ..).kept .sec (by decide)

theorem applyRun_lastsec (s : State) (r : RemapRun) :
    (applyRun s r).sec.lastsec = if r.moved = [] then s.sec.lastsec else 0 := by
  rw [applyRun_sec]
  split <;> rfl

theorem Stall.carried_manger (ev : Nat) (t : Stall) : (t.carried ev).mem.manger = [] := rfl

theorem StallMem.distrust_manger (ev : Nat) (m : StallMem) : (m.distrust ev).manger = m.manger := by
  simp only [StallMem.distrust, invalidate]

/-- A stall that moved has lost its manger (R22, R486). -/
theorem applyRun_moved {s : State} (h : gwf s.stalls = true) {r : RemapRun} {sid : Nat} (hm : sid ∈ r.moved) :
    ((applyRun s r).stall sid).mem.manger = [] := by
  unfold State.stall
  rw [applyRun_stalls]
  refine gget_gmodKeys_keeps (P := fun t => t.mem.manger = []) (gwf_gmodKeys h ..) _ (fun t ht => ?_) ?_
  · exact (t.mem.distrust_manger s.fresh).trans ht
  · exact gget_gmodKeys_of_mem h (P := fun t => t.mem.manger = []) (fun t => t.carried_manger s.fresh) hm

/-- A stall that neither moved nor lost its loft data is as it was. -/
theorem applyRun_other (s : State) {r : RemapRun} {sid : Nat} (hm : sid ∉ r.moved) (hl : sid ∉ r.lost) :
    (applyRun s r).stall sid = s.stall sid := by
  unfold State.stall
  rw [applyRun_stalls, remapStalls, gget_gmodKeys_of_not_mem _ _ hl, gget_gmodKeys_of_not_mem _ _ hm]

theorem applyEdit_lame_sheds (s : State) (y row : Nat) :
    (applyEdit s (.lame y row)).sheds = gmodKeys s.sheds (shedsOfYard y) (fun _ h => { h with absent := true }) := by
  simp only [applyEdit, modYard_sheds]

theorem gwf_applyEdit_sheds {s : State} (h : gwf s.sheds = true) (e : RemapEdit) : gwf (applyEdit s e).sheds = true := by
  cases e with
  | stallRow n row col => exact h
  | shedRow y row col => exact h
  | lame y row =>
    rw [applyEdit_lame_sheds]
    exact gwf_gmodKeys h ..

theorem wakeSpares_sheds (s : State) (e : RemapEdit) : (wakeSpares s e).sheds = s.sheds := by cases e <;> rfl

theorem gwf_remapEdited_sheds {s : State} (h : gwf s.sheds = true) (r : RemapRun) : gwf (remapEdited s r).sheds = true :=
  List.foldlRecOn (motive := fun t : State => gwf t.sheds = true) r.edits _ h
    fun t ht e _ => gwf_applyEdit_sheds (by rwa [wakeSpares_sheds]) e

theorem mem_shedsOfYard (y : Nat) {k : Nat} (hk : k < 64) : y * 64 + k ∈ shedsOfYard y := List.mem_map_of_mem (List.mem_range.2 hk)

theorem fixPscol_sheds (s : State) (y : Nat) :
    (fixPscol s y).sheds = gmodKeys s.sheds (shedsOfYard y) (fun k h => { h with pscol := pshedOf s k % 9 }) := by
  simp only [fixPscol]

/-- PSCOL of a yard's logical sheds names the physical column that presents each (R25, R28). -/
theorem fixPscol_pscol {s : State} (h : gwf s.sheds = true) {y j : Nat} (hj : j ∈ shedsOfYard y) :
    ((fixPscol s y).shed j).pscol = pshedOf (fixPscol s y) j % 9 := by
  have hyards : pshedOf (fixPscol s y) j = pshedOf s j := by simp only [pshedOf, State.yard, fixPscol]
  unfold State.shed
  rw [hyards, fixPscol_sheds]
  exact gget_gmodKeys_of_mem h (P := fun t => t.pscol = pshedOf s j % 9) (fun _ => rfl) hj

theorem applyRun_pscol {s : State} (h : gwf s.sheds = true) (r : RemapRun) {j : Nat} (hj : j ∈ shedsOfYard r.yard) :
    ((applyRun s r).shed j).pscol = pshedOf (applyRun s r) j % 9 := by
  rw [applyRun_eq]
  refine fixPscol_pscol ?_ hj
  rw [setValid_sheds]
  exact gwf_gmodKeys (gwf_remapEdited_sheds h r) ..

/-! Spares (R24). -/

/-- The state in which a unit no longer waits for its retirement. -/
def retireWaitLeft (s : State) (u : FailUnit) : State :=
  { s with grm := { s.grm with retireWait := s.grm.retireWait.filter (fun v => decide (v ≠ u)) } }

theorem unitInUse_retireWaitLeft (s : State) (u v : FailUnit) : unitInUse (retireWaitLeft s u) v = unitInUse s v := by
  cases v <;> rfl

theorem execSpareRetirement_of_not_due {s : State} {u : FailUnit}
    (h : s.grm.retireWait.contains u = false ∨ defectCommitted s u = false) : execSpareRetirement u s = .next s := by
  have hcond : (!s.grm.retireWait.contains u || !defectCommitted s u) = true := by
    simpa only [Bool.or_eq_true, Bool.not_eq_true'] using h
  simp only [execSpareRetirement, hcond, if_true]

section
variable {s : State} {u : FailUnit} (hw : s.grm.retireWait.contains u = true) (hc : defectCommitted s u = true)
include hw hc

theorem execSpareRetirement_of_used (hu : unitInUse s u = true) :
    execSpareRetirement u s = .next { retireWaitLeft s u with rm := { s.rm with faults := s.rm.faults ++ [u] } } := by
  have hused : unitInUse (retireWaitLeft s u) u = true := (unitInUse_retireWaitLeft s u u).trans hu
  simp only [execSpareRetirement, hw, hc, Bool.not_true, Bool.or_self, Bool.false_eq_true, if_false]
  exact congrArg Host.Outcome.next (if_pos hused)

theorem execSpareRetirement_of_unused (hu : unitInUse s u = false) :
    execSpareRetirement u s = .next (
      let es := (planUnit (retireWaitLeft s u) u).edits
      es.foldl applyEdit (es.foldl journalEdit (retireWaitLeft s u))) := by
  have hused : ¬ unitInUse (retireWaitLeft s u) u = true := by rw [unitInUse_retireWaitLeft, hu]; exact Bool.false_ne_true
  simp only [execSpareRetirement, hw, hc, Bool.not_true, Bool.or_self, Bool.false_eq_true, if_false]
  exact congrArg Host.Outcome.next (if_neg hused)

end

/-! The start of a lunge (R402, R409). -/

theorem asHostler_of_internal {o : Origin} (ho : Origin.internal o = true) (s : State) (f : State → State) :
    asHostler o s f = { f s with resp := ⟨0, 0, []⟩ } := if_pos ho

theorem asHostler_of_outside {o : Origin} (ho : Origin.internal o = false) (s : State) (f : State → State) :
    asHostler o s f = { s with resp := ⟨2, 0, []⟩ } := if_neg (by rw [ho]; exact Bool.false_ne_true)

theorem execLungeStart_of_outside {o : Origin} (ho : Origin.internal o = false) (data : Word64) (s : State) :
    execLungeStart o data s = .next { s with resp := ⟨2, 0, []⟩ } := congrArg _ (asHostler_of_outside ho ..)

theorem execLungeStart_of_internal {o : Origin} (ho : Origin.internal o = true) (data : Word64) (s : State) :
    execLungeStart o data s = .next { writeLctrl data.toNat s with resp := ⟨0, 0, []⟩ } := congrArg _ (asHostler_of_internal ho ..)

/-- The yard that a write of ERR.LCTRL names (R409). -/
def lctrlYard (v : Nat) : Nat := v % 64
/-- The logical shed that a write of ERR.LCTRL names (R409). -/
def lctrlShed (v : Nat) : Nat := v / 64 % 64
/-- The scope that a write of ERR.LCTRL names (R409). -/
def lctrlScope (v : Nat) : Nat := v / 4096 % 4

theorem bitsOf_lctrl (v : Nat) : bitsOf v 5 0 = lctrlYard v ∧ bitsOf v 11 6 = lctrlShed v ∧ bitsOf v 13 12 = lctrlScope v := by
  simp only [bitsOf, Nat.shiftRight_eq_div_pow]
  exact ⟨congrArg (· % 64) (Nat.div_one v), rfl, rfl⟩

/-- ERR.LCTRL holds the fields just written. -/
def lctrlWritten (s : State) (v : Nat) : State :=
  { s with err := { s.err with lyard := lctrlYard v, lshed := lctrlShed v, lscope := lctrlScope v } }

/-- The conditions of R402 for the lunge that a write of ERR.LCTRL asks for. -/
def LungeMayStart (s : State) (v : Nat) : Prop :=
  lctrlScope v < 2 ∧ s.rm.running = none ∧ s.lunge.running = none ∧ yardOut s (lctrlYard v) = false ∧
    (lctrlScope v = 0 → lungeShedOk (lctrlWritten s v) (lctrlYard v * 64 + lctrlShed v) = true)

/-- A lunge has begun: it is the running one, and ERR.LSTAT shows it. -/
def lungeBegun (s : State) (v : Nat) : State :=
  { lctrlWritten s v with lunge := ⟨some (lctrlYard v, lctrlShed v, lctrlScope v), s.dev.wall⟩, err := (lctrlWritten s v).err.lungeClear 1 }

theorem writeLctrl_eq (s : State) (v : Nat) :
    writeLctrl v s =
      let y := lctrlYard v; let k := lctrlShed v; let scope := lctrlScope v
      let n := pshedOf s (y * 64 + k)
      if v.testBit 14 = false then lctrlWritten s v
      else if (decide (2 ≤ scope) || s.rm.running.isSome || s.lunge.running.isSome || yardOut s y ||
          (decide (scope = 0) && !lungeShedOk (lctrlWritten s v) (y * 64 + k))) = true then
        { lctrlWritten s v with err := { (lctrlWritten s v).err with lrefused := true } }
      else if scope = 0 then modPShed (enterDepth (lungeBegun s v) n 4) n fun p => { p with waking := false, wakeReq := false }
      else lungeBegun s v := by
  obtain ⟨hy, hk, hscope⟩ := bitsOf_lctrl v
  simp only [writeLctrl, hy, hk, hscope, bitOf, Bool.not_eq_true']
  rfl

/-- The shed of a lunge is fit for it, or the lunge is on spares. -/
theorem lungeShedFit_iff (s : State) (scope k : Nat) :
    (decide (scope = 0) && !lungeShedOk s k) = false ↔ (scope = 0 → lungeShedOk s k = true) := by
  by_cases hscope : scope = 0
  · simp only [hscope, decide_true, Bool.true_and, Bool.not_eq_false', true_imp_iff]
  · simp only [hscope, decide_false, Bool.false_and, false_imp_iff]

theorem lungeAccepted_iff (s : State) (v : Nat) :
    (decide (2 ≤ lctrlScope v) || s.rm.running.isSome || s.lunge.running.isSome || yardOut s (lctrlYard v) ||
      (decide (lctrlScope v = 0) && !lungeShedOk (lctrlWritten s v) (lctrlYard v * 64 + lctrlShed v))) = false ↔ LungeMayStart s v := by
  simp only [Bool.or_eq_false_iff, lungeShedFit_iff, decide_eq_false_iff_not, Nat.not_le, Option.isSome_eq_false_iff,
    Option.isNone_iff_eq_none, and_assoc]
  exact Iff.rfl

section
variable {s : State} {v : Nat}

theorem writeLctrl_of_no_start (h : v.testBit 14 = false) : writeLctrl v s = lctrlWritten s v := by
  rw [writeLctrl_eq]
  exact if_pos h

variable (h : v.testBit 14 = true)
include h

theorem writeLctrl_of_refused (hc : ¬ LungeMayStart s v) :
    writeLctrl v s = { lctrlWritten s v with err := { (lctrlWritten s v).err with lrefused := true } } := by
  have hrefused := eq_true_of_ne_false (mt (lungeAccepted_iff s v).1 hc)
  rw [writeLctrl_eq]
  simp only [h, Bool.true_eq_false, if_false, if_pos hrefused]

theorem writeLctrl_of_spares (hc : LungeMayStart s v) (hs : lctrlScope v = 1) : writeLctrl v s = lungeBegun s v := by
  have hgo := ne_true_of_eq_false ((lungeAccepted_iff s v).2 hc)
  rw [writeLctrl_eq]
  simp only [h, Bool.true_eq_false, if_false, if_neg hgo]
  exact if_neg (by rw [hs]; decide)

theorem writeLctrl_of_shed (hc : LungeMayStart s v) (hs : lctrlScope v = 0) :
    writeLctrl v s =
      let n := pshedOf s (lctrlYard v * 64 + lctrlShed v)
      modPShed (enterDepth (lungeBegun s v) n 4) n fun p => { p with waking := false, wakeReq := false } := by
  have hgo := ne_true_of_eq_false ((lungeAccepted_iff s v).2 hc)
  rw [writeLctrl_eq]
  simp only [h, Bool.true_eq_false, if_false, if_neg hgo]
  exact if_pos hs

end

theorem enterDepth_psheds (s : State) (n d : Nat) :
    (enterDepth s n d).psheds = gmod s.psheds n fun p => { p with depth := d, vetoed := false, bduty := 0 } := by
  unfold enterDepth
  dsimp only
  split
  · rfl
  · split <;> split <;> rfl

theorem enterDepth_depth {s : State} (h : gwf s.psheds = true) (n d : Nat) : ((enterDepth s n d).pshed n).depth = d := by
  unfold State.pshed
  rw [enterDepth_psheds, gget_gmod h, if_pos rfl]

section
variable {o : Origin} {data : Word64} {s : State} (ho : Origin.internal o = true)
include ho

theorem execLungeStart_of_no_start (hv : data.toNat.testBit 14 = false) :
    execLungeStart o data s = .next { lctrlWritten s data.toNat with resp := ⟨0, 0, []⟩ } := by
  rw [execLungeStart_of_internal ho, writeLctrl_of_no_start hv]

variable (hv : data.toNat.testBit 14 = true)
include hv

theorem execLungeStart_of_refused (hc : ¬ LungeMayStart s data.toNat) :
    execLungeStart o data s = .next { lctrlWritten s data.toNat with
      err := { (lctrlWritten s data.toNat).err with lrefused := true }, resp := ⟨0, 0, []⟩ } := by
  rw [execLungeStart_of_internal ho, writeLctrl_of_refused hv hc]

theorem execLungeStart_of_spares (hc : LungeMayStart s data.toNat) (hs : lctrlScope data.toNat = 1) :
    execLungeStart o data s = .next { lungeBegun s data.toNat with resp := ⟨0, 0, []⟩ } := by
  rw [execLungeStart_of_internal ho, writeLctrl_of_spares hv hc hs]

theorem execLungeStart_of_shed (hc : LungeMayStart s data.toNat) (hs : lctrlScope data.toNat = 0) :
    execLungeStart o data s = .next (
      let n := pshedOf s (lctrlYard data.toNat * 64 + lctrlShed data.toNat)
      let u := enterDepth (lungeBegun s data.toNat) n 4
      { u with psheds := gset u.psheds n { u.pshed n with waking := false, wakeReq := false }, resp := ⟨0, 0, []⟩ }) := by
  rw [execLungeStart_of_internal ho, writeLctrl_of_shed hv hc hs]
  rfl

end

theorem lungeBegun_psheds (s : State) (v : Nat) : (lungeBegun s v).psheds = s.psheds := rfl

/-- The shed of a lunge is at D4 (R402). -/
theorem lungeBegun_depth {s : State} (h : gwf s.psheds = true) (v n : Nat) : ((enterDepth (lungeBegun s v) n 4).pshed n).depth = 4 :=
  enterDepth_depth (by rwa [lungeBegun_psheds]) n 4

/-! The end of a lunge (R402, R409, R427, R429). -/

theorem execLungeComplete_of_idle {s : State} (h : s.lunge.running = none) (r : LungeResult) : execLungeComplete r s = .next s := by
  simp only [execLungeComplete, h]

/-- The unit that a lunge names as failing, if any. -/
def lungeBad (s : State) (y k scope : Nat) (r : LungeResult) : Option FailUnit :=
  if r.failed then lungeUnit s y k scope r else none

/-- The lunge is over, reported in ERR.LSTAT and journalled. -/
def lungeReported (s : State) (y k scope : Nat) (r : LungeResult) : State :=
  journal { s with lunge := { s.lunge with running := none }, err := s.err.lungeDone scope r } 7
    ([y, k, scope, b2n r.failed] ++ (match lungeBad s y k scope r with | some u => unitCode u | none => []) ++ [s.grm.lungeArb])

theorem lungeReported_err (s : State) (y k scope : Nat) (r : LungeResult) :
    (lungeReported s y k scope r).err = s.err.lungeDone scope r := rfl

theorem ErrBlock.lungeDone_of_passed {r : LungeResult} (h : r.failed = false) (e : ErrBlock) (scope : Nat) :
    e.lungeDone scope r = e.lungeClear 2 := by
  simp only [ErrBlock.lungeDone, h, Bool.not_false, if_true]

theorem ErrBlock.lungeDone_of_failed_shed {r : LungeResult} (h : r.failed = true) (e : ErrBlock) :
    e.lungeDone 0 r = { e.lungeClear 3 with lwhole := r.whole, lstall := if r.whole then 0 else r.stall.val } := by
  simp only [ErrBlock.lungeDone, h, Bool.not_true, Bool.false_eq_true, if_false, if_true]

/-- What a lunge says of one unit on probation (R427). -/
def retest (bad : Option FailUnit) (failed : Bool) (s : State) (b : Probation) : State :=
  if bad = some b.unit then probationFail s b.unit 1 else if failed then s else probationPass s b

/-- The re-tests are counted and the unit found, if any, is failed. -/
def lungeJudged (s : State) (y k scope : Nat) (r : LungeResult) : State :=
  let bad := lungeBad s y k scope r
  let tested := if scope = 0 then s.grm.prob.filter (fun b => unitIn (pshedOf s (y * 64 + k)) b.unit) else []
  let b := tested.foldl (retest bad r.failed) (lungeReported s y k scope r)
  match bad with
  | some u => failUnit b u 1
  | none => b

theorem execLungeComplete_of_running {s : State} {y k scope : Nat} (h : s.lunge.running = some (y, k, scope)) (r : LungeResult) :
    execLungeComplete r s = .next (
      let n := pshedOf s (y * 64 + k)
      let c := lungeJudged s y k scope r
      if scope = 0 then measureAging (modPShed c n PShed.beginWake) n r.roKhz r.vminMv else c) := by
  simp only [execLungeComplete, h]
  rfl

/-! Probation (R427). -/

/-- Six hours and 72 hours, in ns. -/
theorem probation_times : 6 * 3600 * 10 ^ 9 = 21600000000000 ∧ 72 * 3600 * 10 ^ 9 = 259200000000000 := by decide

section
variable {s : State} {b : Probation}

theorem probationPass_of_early {l : Nat} (hl : b.passes.getLast? = some l) (ht : s.lunge.start < l + 21600000000000) :
    probationPass s b = s := by
  have hcond : (b.passes.getLast?.any fun l => decide (s.lunge.start < l + 6 * 3600 * 10 ^ 9)) = true := by
    rw [hl, Option.any_some, probation_times.1]
    exact decide_eq_true ht
  simp only [probationPass, hcond, if_true]

/-- The re-tests that count, with one more; the oldest gives way to it when there are eight. -/
def passesCounted (s : State) (b : Probation) : List Nat := (b.passes ++ [s.lunge.start]).drop (b.passes.length - 7)

/-- The last of the eight re-tests, 72 hours after the first. -/
def ProbationOver (s : State) (b : Probation) : Prop :=
  8 ≤ (passesCounted s b).length ∧ (passesCounted s b).headD 0 + 259200000000000 ≤ s.lunge.start

variable (h : ∀ l, b.passes.getLast? = some l → l + 21600000000000 ≤ s.lunge.start)
include h

theorem passes_not_early : (b.passes.getLast?.any fun l => decide (s.lunge.start < l + 6 * 3600 * 10 ^ 9)) = false := by
  rw [probation_times.1]
  cases hl : b.passes.getLast? with
  | none => rfl
  | some l =>
    rw [Option.any_some]
    exact decide_eq_false (Nat.not_lt.2 (h l hl))

theorem probationPass_of_over (ho : ProbationOver s b) :
    probationPass s b = journalProb (journal s 2 (unitCode b.unit ++ [1, s.lunge.start])) b.unit 3 := by
  obtain ⟨hcount, htime⟩ := ho
  rw [← probation_times.2] at htime
  simp only [probationPass, passes_not_early h, Bool.false_eq_true, if_false]
  exact if_pos ⟨hcount, htime⟩

theorem probationPass_of_going_on (ho : ¬ ProbationOver s b) :
    probationPass s b = journal s 2 (unitCode b.unit ++ [1, s.lunge.start]) := by
  unfold ProbationOver at ho
  rw [← probation_times.2] at ho
  simp only [probationPass, passes_not_early h, Bool.false_eq_true, if_false]
  exact if_neg ho

end

end Sys2Proof.Machine

namespace Sys2Proof.Proofs
open Sys2Proof Sys2Proof.Machine

/-- Settles O57: a case split over each command's outcomes, each of them the equation of its case above; what a remap changes is read off
the maps it writes, which are in canonical form. -/
theorem remapsAndLunges : Obligations.RemapsAndLunges := by
  intro s hs
  refine ⟨fun u => ⟨execRemapFault_of_settled, fun hnew ht => ?fault, fun r => execRemapFault_of_touched⟩,
    fun n => ⟨planShed_of_retired, planShed_of_unused, planShed_of_spare_left, planShed_of_no_spare⟩,
    fun p hr => ⟨planUnit_stall_of_no_spare hr, planUnit_stall_of_unused hr, fun _ hg hc hk => planUnit_stall_of_used hr hg hc hk⟩,
    ⟨execRemapRun_of_blocked, fun hready => ?run⟩,
    execRemapComplete_of_idle, fun r hr => ?complete,
    fun u => ⟨execSpareRetirement_of_not_due, execSpareRetirement_of_used, execSpareRetirement_of_unused⟩,
    fun o data => ?lunge, fun r hr => execLungeComplete_of_idle hr r, fun r y k scope hr => ?found, fun b => ?probation⟩
  case fault => exact (execRemapFault_of_untouched ht).trans (congrArg _ (failUnit_of_new hnew))
  case run =>
    exact ⟨remapBegun s, _, remapStarted s, execRemapRun_of_ready hready, rfl, rfl, rfl, rfl, rfl, rfl, remapStarted_running s,
      fun hm => ⟨fun q => remapStarted_rld hs.places hm, fun q => remapStarted_armed hs.places hm⟩,
      fun sid => remapStarted_valid hs.sheds⟩
  case complete =>
    exact ⟨applyRun (remapStopped s) r, execRemapComplete_of_running hr, rfl,
      congrArg RemapEngine.running (applyRun_rm (remapStopped s) r), applyRun_lastsec (remapStopped s) r,
      fun sid => applyRun_moved (s := remapStopped s) hs.stalls, fun sid => applyRun_other (remapStopped s),
      fun k hk => applyRun_pscol (s := remapStopped s) hs.sheds r (mem_shedsOfYard r.yard hk)⟩
  case lunge =>
    exact ⟨fun ho => execLungeStart_of_outside ho data s, execLungeStart_of_no_start, execLungeStart_of_refused, execLungeStart_of_spares,
      fun ho hv hc hscope => ⟨enterDepth (lungeBegun s data.toNat) (pshedOf s (lctrlYard data.toNat * 64 + lctrlShed data.toNat)) 4, rfl,
        execLungeStart_of_shed ho hv hc hscope, lungeBegun_depth hs.psheds data.toNat _⟩⟩
  case found =>
    refine ⟨fun hscope => ?_, fun hscope => ?_, fun hf => ?_, fun hf hscope => ?_⟩
    · exact (execLungeComplete_of_running hr r).trans (congrArg _ (if_neg hscope))
    · exact (execLungeComplete_of_running hr r).trans (congrArg _ (if_pos hscope))
    · exact (lungeReported_err s y k scope r).trans (ErrBlock.lungeDone_of_passed hf s.err scope)
    · subst hscope
      exact (lungeReported_err s y k 0 r).trans (ErrBlock.lungeDone_of_failed_shed hf s.err)
  case probation =>
    exact ⟨fun ⟨l, hl, ht⟩ => probationPass_of_early hl ht, probationPass_of_over, probationPass_of_going_on⟩

end Sys2Proof.Proofs
end

section
/-! PROOFS. The interlocks of the matrix words (R78, R111), their completion, replay and saturation (R76, R77, R82, R83, R110, R112):
what names a word's generators, one equation for each end of a run, the two arrays under one name, and from these O23 and O36. -/

namespace Sys2Proof.Machine

/-! Interlocks (R78, R111). -/

/-- The incomplete matrix words are those of the four places. -/
theorem Engines.mem_jobs {e : Engines} {j : Job} :
    j ∈ e.jobs ↔ e.dexec = some j ∨ e.dwait = some j ∨ e.rexec = some j ∨ e.rwait = some j := by
  simp only [Engines.jobs, Engines.draftJobs, Engines.rakeJobs, List.mem_append, Option.mem_toList, or_assoc]

theorem mem_matrixAgs {w a : Nat} :
    a ∈ matrixAgs w ↔ a = bitsOf w 46 44 ∨ a = bitsOf w 43 41 ∨ (bitOf w 37 = true ∧ a = bitsOf w 40 38) ∨
      (bitsOf w 63 58 = 0x19 ∧ a = bitsOf w 11 9) := by
  simp only [matrixAgs, List.mem_append, List.mem_ite_nil_right, List.mem_cons, List.not_mem_nil, or_false, or_assoc]

theorem Stall.interlocked_iff {t : Stall} {ags spaces : List Nat} :
    t.interlocked ags spaces = true ↔ ∃ j ∈ t.eng.jobs, ∃ a ∈ j.ags, a ∈ ags ∨ (t.ag a).space ∈ spaces := by
  simp only [Stall.interlocked, List.any_eq_true, Bool.or_eq_true, List.contains_iff_mem]

/-! The two arrays under one name: the Rake array where `rake`, the Draft array otherwise. -/

/-- The job that executes. -/
def Engines.executing (rake : Bool) (e : Engines) : Option Job := if rake then e.rexec else e.dexec

/-- The job that waits. -/
def Engines.waiting (rake : Bool) (e : Engines) : Option Job := if rake then e.rwait else e.dwait

/-- The engines with another job in execution. -/
def Engines.execute (rake : Bool) (j : Job) (e : Engines) : Engines := if rake then { e with rexec := some j } else { e with dexec := some j }

/-- The stall with both places of an array replaced. -/
def Stall.withPlaces (rake : Bool) (t : Stall) (x w : Option Job) : Stall :=
  if rake then { t with eng := { t.eng with rexec := x, rwait := w } } else { t with eng := { t.eng with dexec := x, dwait := w } }

/-- The stall with what a job's run added in its bank. -/
def Stall.withRun (t : Stall) (sid : Nat) (j : Job) (r : BankRun) : Stall :=
  t.setBank j.bank { (t.bankOf sid j.bank).close r with replays := j.replays }

theorem Stall.withRun_waiting (t : Stall) (sid : Nat) (j : Job) (r : BankRun) (rake : Bool) :
    (t.withRun sid j r).eng.waiting rake = t.eng.waiting rake := rfl

/-- The place of an array handed on. -/
def Stall.handOn (rake : Bool) (sid : Nat) (t : Stall) : Stall := if rake then t.nextRake sid else t.nextDraft sid

/-- The command that completes the executing word. -/
def completion (rake : Bool) (sid : StallId) : Instr := if rake then .rakeCompletion sid else .dmmCompletion sid

section
variable {rake : Bool} {sid : Nat} {t : Stall}

theorem Stall.handOn_of_none_waiting (h : t.eng.waiting rake = none) : t.handOn rake sid = t.withPlaces rake none none := by
  cases rake with
  | false =>
    replace h : t.eng.dwait = none := h
    simp only [Stall.handOn, Stall.withPlaces, Stall.nextDraft, h, Bool.false_eq_true, if_false]
  | true =>
    replace h : t.eng.rwait = none := h
    simp only [Stall.handOn, Stall.withPlaces, Stall.nextRake, h, if_true]

theorem Stall.handOn_of_waiting {y : Job} (h : t.eng.waiting rake = some y) :
    t.handOn rake sid = (t.startJob sid y).withPlaces rake (some { y with started := true }) none := by
  cases rake with
  | false =>
    replace h : t.eng.dwait = some y := h
    simp only [Stall.handOn, Stall.withPlaces, Stall.nextDraft, h, Bool.false_eq_true, if_false]
  | true =>
    replace h : t.eng.rwait = some y := h
    simp only [Stall.handOn, Stall.withPlaces, Stall.nextRake, h, if_true]

end

/-! The ends of a run (R76, R77, R82, R83). -/

section
variable {s : State} {sid : Nat} {j : Job} {next : Stall → Stall} {put : Job → Engines → Engines}

theorem completeJob_of_done {t : Stall} {r : BankRun} {n : Nat} (h : runJob sid j (s.stall sid) = .done t r n) :
    completeJob s sid j next =
      putStall (modShed s (shedOf sid) fun h => { h with maskerr := min (h.maskerr + n) 65535 }) sid
        (next (t.withRun sid j r)) := by
  simp only [completeJob, h]
  rfl

theorem completeJob_of_range {t : Stall} (h : runJob sid j (s.stall sid) = .range t) :
    completeJob s sid j next = stallFault (putStall s sid t) sid 2 j.pc := by
  simp only [completeJob, h, fRange]

theorem completeJob_of_overflow (h : runJob sid j (s.stall sid) = .overflow) : completeJob s sid j next = s := by
  simp only [completeJob, h]

theorem overflowJob_of_done {t : Stall} {r : BankRun} {n : Nat} (h : runJob sid j (s.stall sid) = .done t r n) :
    overflowJob s sid j put = s := by
  simp only [overflowJob, h]

theorem overflowJob_of_range {t : Stall} (h : runJob sid j (s.stall sid) = .range t) : overflowJob s sid j put = s := by
  simp only [overflowJob, h]

/-- A replay may be made: fewer than 4 were, and the exponent stays in range (R82). -/
def MayReplay (b : Bank) (j : Job) : Prop := j.replays < 4 ∧ b.e + 8 ≤ 511

theorem overflowJob_of_replay (h : runJob sid j (s.stall sid) = .overflow) (hr : MayReplay ((s.stall sid).bankOf sid j.bank) j) :
    overflowJob s sid j put =
      let t := (s.stall sid).setBank j.bank (((s.stall sid).bankOf sid j.bank).raise 8)
      putStall (modShed s (shedOf sid) fun h => { h with replays := min (h.replays + 1) (2 ^ 32 - 1) }) sid
        { t with eng := put { j with replays := j.replays + 1 } t.eng } := by
  simp only [overflowJob, h]
  exact if_pos hr

theorem overflowJob_of_saturation (h : runJob sid j (s.stall sid) = .overflow) (hr : ¬ MayReplay ((s.stall sid).bankOf sid j.bank) j) :
    overflowJob s sid j put =
      let t := (s.stall sid).setBank j.bank { (s.stall sid).bankOf sid j.bank with sat := true }
      record (putStall (modShed s (shedOf sid) fun h => { h with sats := min (h.sats + 1) 65535 }) sid
        { t with eng := put { j with saturating := true } t.eng }) 4 (.stall sid) := by
  simp only [overflowJob, h]
  exact if_neg hr

end

/-! The commands (R77, R82, R110, R112). -/

section
variable {s : State} {sid : StallId} {rake : Bool}

theorem exec_completion :
    exec (completion rake sid) s =
      .next (((s.stall sid).eng.executing rake).elim s fun j => completeJob s sid j (Stall.handOn rake sid)) := by
  cases rake with
  | false =>
    show execDmmCompletion sid s = .next ((s.stall sid).eng.dexec.elim s _)
    rw [execDmmCompletion]
    cases (s.stall sid).eng.dexec <;> rfl
  | true =>
    show execRakeCompletion sid s = .next ((s.stall sid).eng.rexec.elim s _)
    rw [execRakeCompletion]
    cases (s.stall sid).eng.rexec <;> rfl

theorem exec_overflowReplay :
    exec (.overflowReplay sid rake) s =
      .next (((s.stall sid).eng.executing rake).elim s fun j => overflowJob s sid j (Engines.execute rake)) := by
  show execOverflowReplay sid rake s = _
  rw [execOverflowReplay]
  cases rake with
  | false =>
    show _ = Host.Outcome.next ((s.stall sid).eng.dexec.elim s _)
    cases (s.stall sid).eng.dexec <;> rfl
  | true =>
    show _ = Host.Outcome.next ((s.stall sid).eng.rexec.elim s _)
    cases (s.stall sid).eng.rexec <;> rfl

theorem exec_completion_of_idle (h : (s.stall sid).eng.executing rake = none) : exec (completion rake sid) s = .next s := by
  rw [exec_completion, h]; rfl

theorem exec_overflowReplay_of_idle (h : (s.stall sid).eng.executing rake = none) : exec (.overflowReplay sid rake) s = .next s := by
  rw [exec_overflowReplay, h]; rfl

variable {s' : State} {j : Job} (h : (s.stall sid).eng.executing rake = some j)
include h

theorem exec_completion_of_executing (hs : completeJob s sid j (Stall.handOn rake sid) = s') :
    exec (completion rake sid) s = .next s' := by
  rw [exec_completion, h, ← hs]; rfl

theorem exec_overflowReplay_of_executing (hs : overflowJob s sid j (Engines.execute rake) = s') :
    exec (.overflowReplay sid rake) s = .next s' := by
  rw [exec_overflowReplay, h, ← hs]; rfl

end

end Sys2Proof.Machine

namespace Sys2Proof.Proofs
open Sys2Proof Sys2Proof.Machine

/-- Settles O23: the interlock ranges over the words of the four places, and each word's generators are those its fields name. -/
theorem matrixInterlocks : Obligations.MatrixInterlocks := by
  intro u ags spaces
  refine Stall.interlocked_iff.trans (exists_congr fun j => and_congr Engines.mem_jobs ?_)
  exact exists_congr fun a => and_congr_left' mem_matrixAgs

/-- Settles O36: each command acts on the word in execution alone, by the equation of the end that its run has. -/
theorem matrixWordsComplete : Obligations.MatrixWordsComplete := by
  intro s sid rake _
  refine ⟨fun hidle => ⟨exec_completion_of_idle hidle, exec_overflowReplay_of_idle hidle⟩, fun j hj =>
    ⟨fun t r n hrun => ⟨fun hnone => ?alone, fun y hy => ?waiting, exec_overflowReplay_of_executing hj (overflowJob_of_done hrun)⟩,
      fun t hrun => ⟨exec_completion_of_executing hj (completeJob_of_range hrun),
        exec_overflowReplay_of_executing hj (overflowJob_of_range hrun)⟩,
      fun hrun => ⟨exec_completion_of_executing hj (completeJob_of_overflow hrun), fun hmay => ?replay, fun hmay => ?saturation⟩⟩⟩
  case alone =>
    have hplaces := Stall.handOn_of_none_waiting (sid := sid) ((t.withRun_waiting sid j r rake).trans hnone)
    exact exec_completion_of_executing hj ((completeJob_of_done hrun).trans (congrArg (putStall _ sid) hplaces))
  case waiting =>
    have hplaces := Stall.handOn_of_waiting (sid := sid) ((t.withRun_waiting sid j r rake).trans hy)
    exact exec_completion_of_executing hj ((completeJob_of_done hrun).trans (congrArg (putStall _ sid) hplaces))
  case replay =>
    have hnext := exec_overflowReplay_of_executing hj (overflowJob_of_replay hrun hmay)
    cases rake <;> exact hnext
  case saturation =>
    have hnext := exec_overflowReplay_of_executing hj (overflowJob_of_saturation hrun hmay)
    cases rake <;> exact hnext

end Sys2Proof.Proofs
end

section
/-! PROOFS. Register and window accesses, PCLR, and management cars with the bridge (R117, R308, R309, R327, R328, R465-R469): one
equation for each answer of an access, by where it lands and who makes it, what a car does by whom it is for, and from these O54. -/

namespace Sys2Proof.Machine

/-! Register accesses: the answer by the address (R465, R466). -/

section
variable {o : Origin} {a data : Nat} {s t : State}

theorem badAddress_iff : badAddress a = true ↔ a % 8 ≠ 0 ∨ whereIs a = .window ∨ whereIs a = .unassigned := decide_eq_true_iff

theorem writeReg_of_badAddress (h : a % 8 ≠ 0 ∨ whereIs a = .window ∨ whereIs a = .unassigned) :
    writeReg o a data s = addressError o a s := if_pos (badAddress_iff.2 h)

theorem writeReg_of_misaligned_or_window (h : a % 8 ≠ 0 ∨ whereIs a = .window) : writeReg o a data s = answer s 4 0 [] := by
  have hno : ¬ (a % 8 = 0 ∧ whereIs a = .unassigned) := by
    rintro ⟨ha, hu⟩
    rcases h with h | h
    · exact h ha
    · exact Where.noConfusion (h.symm.trans hu)
  rw [writeReg_of_badAddress (h.imp_right .inl), addressError, decide_eq_false hno, Bool.and_false]
  rfl

theorem writeReg_of_unassigned (ha : a % 8 = 0) (hu : whereIs a = .unassigned) :
    writeReg o a data s = answer s (if Origin.internal o then 0 else 4) 0 [] := by
  rw [writeReg_of_badAddress (.inr (.inr hu)), addressError, decide_eq_true ⟨ha, hu⟩, Bool.and_true]
  exact (apply_ite (fun st => answer s st 0 []) ..).symm

section
variable (ha : a % 8 = 0) (hw : whereIs a ≠ .window) (hu : whereIs a ≠ .unassigned)
include ha hw hu

theorem badAddress_of_block : ¬ badAddress a = true := by
  rw [badAddress_iff]
  exact not_or.2 ⟨not_not_intro ha, not_or.2 ⟨hw, hu⟩⟩

theorem writeReg_of_taken (h : regWrite o a data s = some t) : writeReg o a data s = answer t 0 0 [] := by
  rw [writeReg, if_neg (badAddress_of_block ha hw hu), h]

theorem writeReg_of_refused (h : regWrite o a data s = none) : writeReg o a data s = answer s 2 0 [] := by
  rw [writeReg, if_neg (badAddress_of_block ha hw hu), h]

theorem readReg_of_block :
    readReg o a s = if readable o a s then answer s 0 (BitVec.ofNat 64 (regRead s a)) [] else answer s 2 0 [] :=
  if_neg (badAddress_of_block ha hw hu)

end

/-! Register writes: who may make them (R328, R334, R409, R468). -/

/-- Outside the mailbox block only an authenticated origin writes (R328). -/
theorem regWrite_of_unauthenticated (ho : Origin.auth o = false) (hw : whereIs a ≠ .window) (hu : whereIs a ≠ .unassigned)
    (hm : ∀ off, whereIs a ≠ .mbx off) : regWrite o a data s = none := by
  unfold regWrite
  cases hat : whereIs a with
  | window => exact absurd hat hw
  | unassigned => exact absurd hat hu
  | mbx off => exact absurd hat (hm off)
  | err off => simp only [ho, Bool.false_eq_true, if_false, ite_self]
  | dev | grm | pwr | thm | sec | gate | port | mars | yard | shed => simp only [ho, Bool.false_eq_true, if_false]

theorem boxReach_of_outside {n : Nat} (hi : Origin.internal o = false) (h : 8 ≤ n ∨ n < 4 ∧ Origin.auth o = false) :
    boxReach o n = false := by
  simp only [boxReach, hi, Bool.false_eq_true, if_false]
  rcases h with h8 | ⟨h4, ho⟩
  · rw [if_pos h8]
  · rw [if_neg (by omega), if_pos h4, ho]

/-- A mailbox that an origin does not reach takes no write of it (R328, R334). -/
theorem regWrite_of_box_out_of_reach {off : Nat} (hat : whereIs a = .mbx off) (hoff : off < 0xA00)
    (hr : boxReach o (off / 0x100) = false) : regWrite o a data s = none := by
  have hbox : boxWrite o (off / 0x100) (off % 0x100) data s = none := by simp only [boxWrite, hr, Bool.not_false, if_true]
  simp only [regWrite, hat, mbxWrite, hoff, if_true, hbox]

theorem regWrite_of_authenticated_dev {off : Nat} (ho : Origin.auth o = true) (hat : whereIs a = .dev off) :
    regWrite o a data s = some (devWrite off data s) := by
  simp only [regWrite, hat, ho, if_true]

/-- A register of ERR outside LCTRL and LREFUSED takes the write of any authenticated origin (R409). -/
theorem regWrite_of_authenticated_err {off : Nat} (ho : Origin.auth o = true) (hat : whereIs a = .err off)
    (hoff : ¬ (off = 0x100 ∨ off = 0x108)) : regWrite o a data s = some (errWrite off data s) := by
  simp only [regWrite, hat, ho, hoff, false_and, if_true, if_false]

end

/-! Windows: where an access lands (R327, R328). -/

/-- The address lies in the window of Hostler memory. -/
def InHostlerWindow (addr : Nat) : Prop := 0x8000000000 ≤ addr ∧ addr < 0x8020000000
/-- The address lies in the Groom's window. -/
def InGroomWindow (addr : Nat) : Prop := 0x8040000000 ≤ addr ∧ addr < 0x8040010000
/-- An access that no origin may make: a wrong length, or bytes outside both windows (R327). -/
def WindowBad (addr n : Nat) : Prop :=
  n < 1 ∨ 224 < n ∨ (¬ InHostlerWindow addr ∧ ¬ InGroomWindow addr) ∨ (InHostlerWindow addr ∧ 0x20000000 < addr - 0x8000000000 + n) ∨
    (InGroomWindow addr ∧ 0x10000 < addr - 0x8040000000 + n)
/-- The origin may make the access (R328, R340). -/
def WindowMay (o : Origin) (s : State) (addr n : Nat) : Prop :=
  (InGroomWindow addr → Origin.auth o = true) ∧
    (InHostlerWindow addr → Origin.internal o = true ∨ s.mbx.prottop * 4096 ≤ addr - 0x8000000000 ∧
      (Origin.auth o = true ∨ s.mbx.nsbase * 4096 ≤ addr - 0x8000000000 ∧
        addr - 0x8000000000 + n ≤ (s.mbx.nsbase + s.mbx.nsblks) * 4096))

theorem hmemReach_iff (o : Origin) (s : State) (a n : Nat) :
    hmemReach o s a n = true ↔ Origin.internal o = true ∨ s.mbx.prottop * 4096 ≤ a ∧
      (Origin.auth o = true ∨ s.mbx.nsbase * 4096 ≤ a ∧ a + n ≤ (s.mbx.nsbase + s.mbx.nsblks) * 4096) := by
  unfold hmemReach
  by_cases hi : Origin.internal o = true
  · simp only [hi, if_true, true_or]
  · by_cases hp : a < s.mbx.prottop * 4096
    · simp only [hi, hp, Nat.not_le.2 hp, if_true, if_false, Bool.false_eq_true, false_and, false_or]
    · simp only [hi, hp, Nat.not_lt.1 hp, if_false, Bool.or_eq_true, Bool.and_eq_true, decide_eq_true_eq, true_and, false_or,
        Bool.false_eq_true]

theorem not_inGroomWindow_of_inHostlerWindow {addr : Nat} (h : InHostlerWindow addr) : ¬ InGroomWindow addr := by
  unfold InHostlerWindow InGroomWindow at *
  omega

section
variable {o : Origin} {s : State} {addr n : Nat}

/-- A window access inside the window of Hostler memory. -/
theorem windowAt_of_inHostlerWindow (hb : ¬ WindowBad addr n) (h : InHostlerWindow addr) :
    windowAt o s addr n = if hmemReach o s (addr - 0x8000000000) n then .hostler (addr - 0x8000000000) else .refused 2 := by
  obtain ⟨h1, h224, -, hend, -⟩ : ¬ n < 1 ∧ ¬ 224 < n ∧ _ := by simpa only [WindowBad, not_or] using hb
  rw [windowAt, if_neg (not_or.2 ⟨h1, h224⟩)]
  exact (if_pos h).trans (if_neg fun hlong => hend ⟨h, hlong⟩)

/-- A window access inside the Groom's window. -/
theorem windowAt_of_inGroomWindow (hb : ¬ WindowBad addr n) (h : InGroomWindow addr) :
    windowAt o s addr n = if Origin.auth o then .groom (addr - 0x8040000000) else .refused 2 := by
  obtain ⟨h1, h224, -, -, hend⟩ : ¬ n < 1 ∧ ¬ 224 < n ∧ _ := by simpa only [WindowBad, not_or] using hb
  have hno : ¬ InHostlerWindow addr := fun hh => not_inGroomWindow_of_inHostlerWindow hh h
  rw [windowAt, if_neg (not_or.2 ⟨h1, h224⟩)]
  exact (if_neg hno).trans ((if_pos h).trans (if_neg fun hlong => hend ⟨h, hlong⟩))

theorem inWindow_of_not_windowBad (hb : ¬ WindowBad addr n) : InHostlerWindow addr ∨ InGroomWindow addr := by
  refine Classical.or_iff_not_imp_left.2 fun hh => ?_
  exact Classical.byContradiction fun hg => hb (.inr (.inr (.inl ⟨hh, hg⟩)))

theorem windowAt_of_bad (hb : WindowBad addr n) : windowAt o s addr n = .refused 4 := by
  unfold windowAt
  by_cases hn : n < 1 ∨ 224 < n
  · exact if_pos hn
  rw [if_neg hn]
  by_cases hh : InHostlerWindow addr
  · have hg := not_inGroomWindow_of_inHostlerWindow hh
    have hend : 0x20000000 < addr - 0x8000000000 + n := by
      simpa only [WindowBad, ← or_assoc, hn, hh, hg, not_true, false_and, true_and, false_or, or_false] using hb
    exact (if_pos hh).trans (if_pos hend)
  refine (if_neg hh).trans ?_
  by_cases hg : InGroomWindow addr
  · have hend : 0x10000 < addr - 0x8040000000 + n := by
      simpa only [WindowBad, ← or_assoc, hn, hh, hg, not_true, and_false, false_and, true_and, false_or] using hb
    exact (if_pos hg).trans (if_pos hend)
  · exact if_neg hg

theorem windowAt_of_not_may (hb : ¬ WindowBad addr n) (hm : ¬ WindowMay o s addr n) : windowAt o s addr n = .refused 2 := by
  rcases inWindow_of_not_windowBad hb with hh | hg
  · rw [windowAt_of_inHostlerWindow hb hh]
    exact if_neg fun hr => hm ⟨fun hg => absurd hg (not_inGroomWindow_of_inHostlerWindow hh), fun _ => (hmemReach_iff ..).1 hr⟩
  · rw [windowAt_of_inGroomWindow hb hg]
    exact if_neg fun ho => hm ⟨fun _ => ho, fun hh => absurd hg (not_inGroomWindow_of_inHostlerWindow hh)⟩

theorem windowAt_of_may_hostler (hb : ¬ WindowBad addr n) (hm : WindowMay o s addr n) (h : InHostlerWindow addr) :
    windowAt o s addr n = .hostler (addr - 0x8000000000) :=
  (windowAt_of_inHostlerWindow hb h).trans (if_pos ((hmemReach_iff ..).2 (hm.2 h)))

theorem windowAt_of_may_groom (hb : ¬ WindowBad addr n) (hm : WindowMay o s addr n) (h : InGroomWindow addr) :
    windowAt o s addr n = .groom (addr - 0x8040000000) :=
  (windowAt_of_inGroomWindow hb h).trans (if_pos (hm.1 h))

/-! What the access then does. -/

theorem readWindow_of_refused {st : Nat} (h : windowAt o s addr n = .refused st) : readWindow o addr n s = answer s st 0 [] := by
  rw [readWindow, h]

theorem readWindow_of_hostler {a : Nat} (h : windowAt o s addr n = .hostler a) :
    readWindow o addr n s = answer s 0 0 (Memory.readBytes s.hmem a n) := by rw [readWindow, h]

theorem readWindow_of_groom {a : Nat} (h : windowAt o s addr n = .groom a) :
    readWindow o addr n s = answer s 0 0 (Memory.readBytes s.gwin a n) := by rw [readWindow, h]

variable {bytes : List Byte}

theorem writeWindow_of_refused {st : Nat} (h : windowAt o s addr bytes.length = .refused st) :
    writeWindow o addr bytes s = answer s st 0 [] := by rw [writeWindow, h]

theorem writeWindow_of_hostler {a : Nat} (h : windowAt o s addr bytes.length = .hostler a) :
    writeWindow o addr bytes s = answer { s with hmem := Memory.writeBytes s.hmem a bytes } 0 0 [] := by rw [writeWindow, h]

theorem writeWindow_of_groom {a : Nat} (h : windowAt o s addr bytes.length = .groom a) :
    writeWindow o addr bytes s = answer { s with gwin := Memory.writeBytes s.gwin a bytes } 0 0 [] := by rw [writeWindow, h]

end

/-! PCLR (R117). -/

theorem asAuth_of_unauthenticated {o : Origin} (ho : Origin.auth o = false) (s : State) (f : State → State) :
    asAuth o s f = answer s 2 0 [] := if_neg (by rw [ho]; exact Bool.false_ne_true)

theorem asAuth_of_authenticated {o : Origin} (ho : Origin.auth o = true) (s : State) (f : State → State) :
    asAuth o s f = answer (f s) 0 0 [] := if_pos ho

/-- A write of PCLR with any MODE: the mode is the one written, and the counters are 0. -/
theorem writePred_clear (k m : Nat) (s : State) :
    writePred k (4 + m % 4) s =
      { s with sheds := gset s.sheds k { s.shed k with predMode := m % 4, made := 0, seen := 0, examined := 0 } } := by
  have hmode : bitsOf (4 + m % 4) 1 0 = m % 4 := by
    simp only [bitsOf, Nat.shiftRight_zero]
    omega
  have hclear : bitOf (4 + m % 4) 2 = true := by
    have hlow : (m % 4).testBit 2 = false := Nat.testBit_lt_two_pow (Nat.mod_lt _ (by decide))
    rw [bitOf, Nat.testBit_two_pow_add_eq (m % 4) 2, hlow, Bool.not_false]
  simp only [writePred, modShed, gmod, hmode, hclear, if_true]
  rfl

/-! Transactions (R308). -/

section
variable {o : Origin} {tr : Trans} {s : State}

theorem transact_of_read (h : tr.op = 0) : transact o tr s = readReg o tr.addr s := if_pos h

theorem transact_of_write (h : tr.op = 1) : transact o tr s = writeReg o tr.addr tr.data s :=
  (if_neg (by omega)).trans (if_pos h)

theorem transact_of_window_read (h : tr.op = 2) : transact o tr s = readWindow o tr.addr tr.wlen s :=
  (if_neg (by omega)).trans ((if_neg (by omega)).trans (if_pos h))

theorem transact_of_window_write (h : tr.op = 3) : transact o tr s =
    if tr.wlen < 1 ∨ 224 < tr.wlen then answer s 4 0 [] else writeWindow o tr.addr (padTo tr.wlen tr.wdata) s :=
  (if_neg (by omega)).trans ((if_neg (by omega)).trans (if_neg (by omega)))

end

/-! The commands that make the accesses, with an address and data given as numbers. -/

section
variable {addr : Nat} (haddr : addr < 2 ^ 40) (o : Origin) (s : State)
include haddr

theorem exec_registerWrite_ofNat {data : Nat} (hdata : data < 2 ^ 64) :
    exec (.registerWrite o (BitVec.ofNat 40 addr) (BitVec.ofNat 64 data)) s = .next (writeReg o addr data s) := by
  have ha : (BitVec.ofNat 40 addr).toNat = addr := Nat.mod_eq_of_lt haddr
  have hd : (BitVec.ofNat 64 data).toNat = data := Nat.mod_eq_of_lt hdata
  show Host.Outcome.next (writeReg o (BitVec.ofNat 40 addr).toNat (BitVec.ofNat 64 data).toNat s) = _
  rw [ha, hd]

theorem exec_windowRead_ofNat (n : Nat) : exec (.windowRead o (BitVec.ofNat 40 addr) n) s = .next (readWindow o addr n s) :=
  congrArg (fun a => Host.Outcome.next (readWindow o a n s)) (Nat.mod_eq_of_lt haddr)

theorem exec_windowWrite_ofNat (bytes : List Byte) :
    exec (.windowWrite o (BitVec.ofNat 40 addr) bytes) s = .next (writeWindow o addr bytes s) :=
  congrArg (fun a => Host.Outcome.next (writeWindow o a bytes s)) (Nat.mod_eq_of_lt haddr)

end

/-! Management cars and the bridge (R308, R309). -/

section
variable {s t : State} {port : PortId} {car : RxCar}

theorem execMgmt_of_take (htyp : car.typ = 6) (ht : receiveCar s port car = .take t) :
    execMgmt port car s = .next (if bitOf car.w1.toNat 18 then takeResponse t port car.w1.toNat car.payload
      else takeRequest t port car.w1.toNat car.payload) := by
  simp only [execMgmt, htyp, ht, ne_eq, not_true, if_false]

theorem execMgmt_of_response (htyp : car.typ = 6) (ht : receiveCar s port car = .take t) (hw : bitOf car.w1.toNat 18 = true) :
    execMgmt port car s = .next (takeResponse t port car.w1.toNat car.payload) := by
  rw [execMgmt_of_take htyp ht, if_pos hw]

theorem execMgmt_of_request (htyp : car.typ = 6) (ht : receiveCar s port car = .take t) (hw : bitOf car.w1.toNat 18 = false) :
    execMgmt port car s = .next (takeRequest t port car.w1.toNat car.payload) := by
  rw [execMgmt_of_take htyp ht, hw]
  rfl

end

section
variable {s : State} {p w1 : Nat} {payload : List Byte}

theorem takeRequest_of_own (h : leAt payload 0 8 = s.fuses.serial) :
    takeRequest s p w1 payload =
      let u := transact (if (s.port p).host then .hostPort else .keadigor (bitOf w1 22)) (transOf (bitsOf w1 17 16) payload) s
      respond u p w1 payload u.resp := if_neg (not_not_intro h)

theorem takeRequest_of_foreign (h : leAt payload 0 8 ≠ s.fuses.serial) :
    takeRequest s p w1 payload = if (s.port p).host then forward s p w1 payload else respond s p w1 payload ⟨1, 0, []⟩ := if_pos h

/-- The port has these requests outstanding. -/
def withBridged (s : State) (p : Nat) (l : List Bridged) : State := { s with ports := gset s.ports p { s.port p with bridged := l } }

theorem forward_of_keadigor {k : Nat} (h : keadigorPort s = some k) :
    forward s p w1 payload =
      sendCar (withBridged s p ((s.port p).bridged ++ [⟨bitsOf w1 15 0, some k, w1, payload⟩])) k (mkCar 6 3 w1 0 0 payload) := by
  simp only [forward, h]
  rfl

theorem dropBridged_of_first {f : Bridged → Bool} {before after : List Bridged} {b : Bridged}
    (hl : (s.port p).bridged = before ++ b :: after) (hbefore : ∀ c ∈ before, ¬ f c = true) (hb : f b = true) :
    dropBridged s p f = withBridged s p (before ++ after) := by
  have herase : (s.port p).bridged.eraseP f = before ++ after := by
    rw [hl, List.eraseP_append_right _ hbefore, List.eraseP_cons_of_pos hb]
  rw [withBridged, ← herase]
  rfl

theorem takeResponse_of_none (h : bridgeOf s p (bitsOf w1 15 0) = none) : takeResponse s p w1 payload = s := by
  simp only [takeResponse, h]

/-- The request went out on this port with this TID. -/
def Bridged.answeredBy (via tid : Nat) (b : Bridged) : Bool := decide (b.via = some via) && decide (b.tid = tid)

theorem Bridged.answeredBy_iff {via tid : Nat} {b : Bridged} : b.answeredBy via tid = true ↔ b.via = some via ∧ b.tid = tid := by
  simp only [Bridged.answeredBy, Bool.and_eq_true, decide_eq_true_eq]

theorem bridgeOf_eq (s : State) (via tid : Nat) :
    bridgeOf s via tid = (List.range 144).find? fun p => (s.port p).host && (s.port p).bridged.any (Bridged.answeredBy via tid) := rfl

theorem exists_bridged_of_bridgeOf {via tid h : Nat} (hb : bridgeOf s via tid = some h) :
    ∃ b ∈ (s.port h).bridged, b.answeredBy via tid = true := by
  rw [bridgeOf_eq] at hb
  have hfound := List.find?_some hb
  exact List.any_eq_true.1 (Bool.and_eq_true_iff.1 hfound).2

/-- A response takes the first request outstanding with its TID and port off the host-mode port's list, and goes on to the host. -/
theorem takeResponse_of_some {h : Nat} (hb : bridgeOf s p (bitsOf w1 15 0) = some h) :
    ∃ before b after, (s.port h).bridged = before ++ b :: after ∧ b.via = some p ∧ b.tid = bitsOf w1 15 0 ∧
      takeResponse s p w1 payload = sendCar (withBridged s h (before ++ after)) h (mkCar 6 3 w1 0 0 payload) := by
  obtain ⟨c, hc, hfc⟩ := exists_bridged_of_bridgeOf hb
  obtain ⟨b, before, after, hbefore, hfb, hl, -⟩ := List.exists_of_eraseP hc hfc
  obtain ⟨hvia, htid⟩ := Bridged.answeredBy_iff.1 hfb
  refine ⟨before, b, after, hl, hvia, htid, ?_⟩
  rw [← dropBridged_of_first hl hbefore hfb]
  simp only [takeResponse, hb]
  rfl

end

section
variable {s : State} {port : PortId} {tid : BitVec 16}

theorem execBridgeTimeout_of_none (h : ∀ b ∈ (s.port port).bridged, b.tid ≠ tid.toNat) : execBridgeTimeout port tid s = .next s := by
  have hfind : (s.port port).bridged.find? (fun b => decide (b.tid = tid.toNat)) = none :=
    List.find?_eq_none.2 fun b hb => mt of_decide_eq_true (h b hb)
  simp only [execBridgeTimeout, hfind]

theorem execBridgeTimeout_of_first {before after : List Bridged} {b : Bridged} (hl : (s.port port).bridged = before ++ b :: after)
    (hbefore : ∀ c ∈ before, c.tid ≠ tid.toNat) (hb : b.tid = tid.toNat) :
    execBridgeTimeout port tid s = .next (respond (withBridged s port (before ++ after)) port b.w1 b.payload ⟨3, 0, []⟩) := by
  have hfind : (s.port port).bridged.find? (fun b => decide (b.tid = tid.toNat)) = some b :=
    List.find?_eq_some_iff_append.2 ⟨decide_eq_true hb, before, after, hl, fun c hc => by rw [decide_eq_false (hbefore c hc)]; rfl⟩
  have hdrop := dropBridged_of_first (f := fun b => decide (b.tid = tid.toNat)) hl (fun c hc => mt of_decide_eq_true (hbefore c hc))
    (decide_eq_true hb)
  simp only [execBridgeTimeout, hfind, hdrop]

end

end Sys2Proof.Machine

namespace Sys2Proof.Proofs
open Sys2Proof Sys2Proof.Machine

/-- Settles O54: each access by the equation of its answer, each car by what it carries and whom it is for; the windows are in
canonical form, so that what a byte reads after a write is known. -/
theorem accessesAndManagement : Obligations.AccessesAndManagement := by
  intro s hs
  refine ⟨fun o addr data => ?register, fun o addr n bytes => ?window, fun o yard shed => ?pclr, fun o tr haddr hdata => ?transaction,
    fun port car t htyp ht => ?car, fun port tid => execBridgeTimeout_of_none, fun port tid before after b => execBridgeTimeout_of_first⟩
  case register =>
    refine ⟨fun h => congrArg _ (writeReg_of_misaligned_or_window h), fun ha hu => congrArg _ (writeReg_of_unassigned ha hu),
      fun ha hw hu => ⟨fun t h => congrArg _ (writeReg_of_taken ha hw hu h), fun h => congrArg _ (writeReg_of_refused ha hw hu h),
        fun ho => regWrite_of_unauthenticated ho hw hu, fun off hat hoff hi hfar => ?reach⟩,
      fun ho => ⟨regWrite_of_authenticated_dev (off := 0) ho rfl, regWrite_of_authenticated_err (off := 0) ho rfl (by decide),
        regWrite_of_authenticated_err (off := 0x18) ho rfl (by decide)⟩⟩
    case reach =>
      exact regWrite_of_box_out_of_reach hat hoff
        (boxReach_of_outside hi (hfar.imp (by omega) fun ⟨hlow, ho⟩ => ⟨by omega, ho⟩))
  case window =>
    exact ⟨fun hb => congrArg _ (readWindow_of_refused (windowAt_of_bad hb)),
      fun hb hm => congrArg _ (readWindow_of_refused (windowAt_of_not_may hb hm)),
      fun hb hm hh => congrArg _ (readWindow_of_hostler (windowAt_of_may_hostler hb hm hh)),
      fun hb hm hg => congrArg _ (readWindow_of_groom (windowAt_of_may_groom hb hm hg)),
      fun hb => congrArg _ (writeWindow_of_refused (windowAt_of_bad hb)),
      fun hb hm => congrArg _ (writeWindow_of_refused (windowAt_of_not_may hb hm)),
      fun hb hm hh => ⟨_, congrArg _ (writeWindow_of_hostler (windowAt_of_may_hostler hb hm hh)),
        fun x => Memory.read_writeBytes hs.hmem _ x bytes⟩,
      fun hb hm hg => ⟨_, congrArg _ (writeWindow_of_groom (windowAt_of_may_groom hb hm hg)),
        fun x => Memory.read_writeBytes hs.gwin _ x bytes⟩⟩
  case pclr =>
    refine ⟨fun ho => congrArg _ (asAuth_of_unauthenticated ho ..), fun ho hk => ?_, fun ho hk => ?_⟩
    all_goals refine congrArg _ ((asAuth_of_authenticated ho ..).trans (congrArg (answer · 0 0 []) ?_))
    · exact if_neg (ne_true_of_eq_false hk)
    · exact (if_pos hk).trans (writePred_clear ..)
  case transaction =>
    refine ⟨fun hop hal hw hu => (transact_of_read hop).trans (readReg_of_block hal hw hu), fun hop => ?write, fun hop => ?read,
      fun hop h1 h224 => ?windowWrite, fun hop hlen => (transact_of_window_write hop).trans (if_pos (hlen.imp_left (by omega)))⟩
    case write => exact (exec_registerWrite_ofNat haddr o s hdata).trans (congrArg _ (transact_of_write hop).symm)
    case read => exact (exec_windowRead_ofNat haddr o s tr.wlen).trans (congrArg _ (transact_of_window_read hop).symm)
    case windowWrite =>
      have htransact := (transact_of_window_write (o := o) (s := s) hop).trans (if_neg (by omega))
      exact (exec_windowWrite_ofNat haddr o s _).trans (congrArg _ htransact.symm)
  case car =>
    refine ⟨fun hw hown => ?own, fun hw hother hkeadigor => ?refused, fun hw hother hhost k hk => ?forwarded,
      fun hw => ⟨fun hb => ?dropped, fun h hb => ?answered⟩⟩
    case own => exact (execMgmt_of_request htyp ht hw).trans (congrArg _ (takeRequest_of_own hown))
    case refused =>
      have hrefused := (takeRequest_of_foreign (w1 := car.w1.toNat) hother).trans (if_neg (ne_true_of_eq_false hkeadigor))
      exact (execMgmt_of_request htyp ht hw).trans (congrArg _ hrefused)
    case forwarded =>
      have hforwarded := (takeRequest_of_foreign (w1 := car.w1.toNat) hother).trans ((if_pos hhost).trans (forward_of_keadigor hk))
      exact (execMgmt_of_request htyp ht hw).trans (congrArg _ hforwarded)
    case dropped => exact (execMgmt_of_response htyp ht hw).trans (congrArg _ (takeResponse_of_none hb))
    case answered =>
      obtain ⟨before, b, after, hl, hvia, htid, hresponse⟩ := takeResponse_of_some (payload := car.payload) hb
      exact ⟨before ++ after, before, b, after, hl, rfl, hvia, htid, (execMgmt_of_response htyp ht hw).trans (congrArg _ hresponse)⟩

end Sys2Proof.Proofs
end

section
/-! PROOFS. What a send puts on the track (R124, R151, R159, R165): which entry of a fence list matches, the message with and without a
match, and from these O33. -/

namespace Sys2Proof.Machine

/-! Fence lists (R158-R160). -/

theorem fenceEntry_iff {w : Word32} {sid tag : Nat} :
    fenceEntry w sid tag = true ↔ w.toNat.testBit 30 = true ∧ bitsOf w.toNat 19 0 = sid ∧ bitsOf w.toNat 29 20 = tag := by
  simp only [fenceEntry, bitOf, Bool.and_eq_true, decide_eq_true_eq, and_assoc]

section
variable {l : GMap Word32} {sid tag : Nat}

/-- The entry that matches is the first that names the stall and the tag. -/
theorem fenceMatch_of_first {i : Nat} (hi : i < 16) (h : fenceEntry (gget l i) sid tag = true)
    (hfirst : ∀ j, j < i → ¬ fenceEntry (gget l j) sid tag = true) : fenceMatch l sid tag = some i :=
  List.find?_range_eq_some.2 ⟨h, List.mem_range.2 hi, fun j hj => (Bool.not_eq_true' _).mpr (Bool.eq_false_iff.2 (hfirst j hj))⟩

theorem fenceMatch_of_none (h : ∀ i, i < 16 → ¬ fenceEntry (gget l i) sid tag = true) : fenceMatch l sid tag = none :=
  List.find?_eq_none.2 fun i hi => h i (List.mem_range.1 hi)

end

/-! One message of a send word (R124, R159). -/

/-- The stall whose fence-out entry `i` has counted one message more. -/
def Stall.countFout (u : Stall) (i : Nat) : Stall :=
  { u with qu := { u.qu with foutCnt := gset u.qu.foutCnt i ((gget u.qu.foutCnt i + 1) % 65536) } }

/-- The header that a send word of a stall of generation `gen` gives its message. -/
def sendHdr (s : State) (gen sid vc : Nat) (f : Bool) (fcount tag dest : Nat) (payload : List Byte) : Hdr :=
  { dest := dest, tag := tag, vc := vc, gen := gen, epoch := s.sec.inj, f := f, fcount := fcount,
    len := ceilDiv payload.length 16, src := sid, srcx := false, rly := false }

section
variable {s : State} (hs : gwf s.stalls = true) {u : Stall} (sid vc : Nat) (f : Bool) {tag dest : Nat} (payload : List Byte)
include hs

theorem sendOne_of_match {i : Nat} (h : fenceMatch u.active.fout dest tag = some i) :
    sendOne (putStall s sid u) sid vc f tag dest payload =
      inject (putStall s sid (u.countFout i))
        (.msg (sendHdr s u.cg sid vc f (if f then gget u.qu.foutCnt i else 0) tag dest payload) payload) sid 4 := by
  simp only [sendOne, putStall_stall hs, h, modQu, modStall_putStall hs]
  rfl

theorem sendOne_of_no_match (h : fenceMatch u.active.fout dest tag = none) :
    sendOne (putStall s sid u) sid vc f tag dest payload =
      inject (putStall s sid u) (.msg (sendHdr s u.cg sid vc f 0 tag dest payload) payload) sid 4 := by
  simp only [sendOne, putStall_stall hs, h, ite_self]
  rfl

end

end Sys2Proof.Machine

namespace Sys2Proof.Proofs
open Sys2Proof Sys2Proof.Machine

/-- Settles O33: the fence-out entry that counts is the first one naming the destination and tag; the message then enters at the
injection input. -/
theorem whatASendPutsOnTheTrack : Obligations.WhatASendPutsOnTheTrack := by
  intro s sid vc f tag dest payload u hs
  refine ⟨fun i hi hnamed hfirst => ?named, fun hnone => ?unnamed⟩
  case named =>
    have hmatch : fenceMatch u.active.fout dest tag = some i :=
      fenceMatch_of_first hi (fenceEntry_iff.2 hnamed) fun j hj h => hfirst j hj (fenceEntry_iff.1 h)
    exact sendOne_of_match hs sid vc f payload hmatch
  case unnamed =>
    have hmatch : fenceMatch u.active.fout dest tag = none :=
      fenceMatch_of_none fun i hi h => hnone i hi (fenceEntry_iff.1 h)
    exact sendOne_of_no_match hs sid vc f payload hmatch

end Sys2Proof.Proofs
end

section
/-! PROOFS. The queue unit (R126-R129, R133-R139, R160, R161, R214): the verdict on a header by the order of its checks, one equation for
each verdict and each event, and from these O41. -/

namespace Sys2Proof.Machine

/-! The verdict on a header, by the order of its checks (R34, R127, R160, R161, R214). -/

/-- The header is of the generation that the open stall runs, and not of the next one. -/
def Stall.Takes (t : Stall) (h : Hdr) : Prop := h.gen ≠ (t.cg + 1) % 4 ∧ t.opened = true ∧ h.gen = t.cg

/-- The message goes to a combining slot, or its queue is large enough to hold it. -/
def Stall.CouldHold (t : Stall) (h : Hdr) : Prop :=
  eCen (t.tagEntry h.tag) = true ∨ 1 + h.len ≤ t.queueSize (eQueue (t.tagEntry h.tag))

/-- The fence-in entry that names a message's source and tag. -/
def Stall.finEntry (t : Stall) (h : Hdr) : Option Nat := if h.srcx then none else fenceMatch t.active.fin h.src h.tag

/-- The message is not fenced, or the count of the entry that names it is met. -/
def Stall.InTurn (t : Stall) (h : Hdr) : Prop := h.f = false ∨ ∀ i, t.finEntry h = some i → gget t.qu.finCnt i = h.fcount

section
variable {t : Stall} {h : Hdr}

theorem verdict_of_next (hg : h.gen = (t.cg + 1) % 4) : verdict t h = .wait := if_pos hg

theorem verdict_of_stale (hg : h.gen ≠ (t.cg + 1) % 4) (hs : t.opened = false ∨ h.gen ≠ t.cg) : verdict t h = .stale := by
  have hstale : (!t.opened || decide (h.gen ≠ t.cg)) = true := by
    simpa only [Bool.or_eq_true, Bool.not_eq_true', decide_eq_true_eq] using hs
  exact (if_neg hg).trans (if_pos hstale)

theorem Stall.CouldHold.not_oversize (hfit : t.CouldHold h) :
    (!eCen (t.tagEntry h.tag) && decide (t.queueSize (eQueue (t.tagEntry h.tag)) < 1 + h.len)) = false := by
  rcases hfit with hc | hlen
  · rw [hc]; rfl
  · rw [decide_eq_false (Nat.not_lt.2 hlen), Bool.and_false]

theorem oversize_of_not_couldHold (hfit : ¬ t.CouldHold h) :
    (!eCen (t.tagEntry h.tag) && decide (t.queueSize (eQueue (t.tagEntry h.tag)) < 1 + h.len)) = true := by
  obtain ⟨hc, hlen⟩ := not_or.1 hfit
  rw [Bool.eq_false_iff.2 hc, decide_eq_true (Nat.not_le.1 hlen)]
  rfl

section
variable (ht : t.Takes h)
include ht

theorem Stall.Takes.not_stale : (!t.opened || decide (h.gen ≠ t.cg)) = false := by
  obtain ⟨-, hopen, hgen⟩ := ht
  rw [hopen, decide_eq_false (not_not_intro hgen)]
  rfl

theorem verdict_of_disabled (hen : eEn (t.tagEntry h.tag) = false) : verdict t h = .fault fTagmiss := by
  simp only [verdict, ht.1, ht.not_stale, hen, Bool.not_false, Bool.false_eq_true, if_true, if_false]

variable (hen : eEn (t.tagEntry h.tag) = true)
include hen

theorem verdict_of_oversize (hfit : ¬ t.CouldHold h) : verdict t h = .fault fOversize := by
  simp only [verdict, ht.1, ht.not_stale, hen, oversize_of_not_couldHold hfit, Bool.not_true, Bool.false_eq_true, if_true, if_false]

variable (hfit : t.CouldHold h)
include hfit

theorem verdict_of_unfenced (hf : h.f = false) :
    verdict t h = if t.hasRoomFor (t.tagEntry h.tag) h.len then .accept false else .wait := by
  simp only [verdict, ht.1, ht.not_stale, hen, hfit.not_oversize, hf, Bool.not_true, Bool.not_false, Bool.false_eq_true, if_true, if_false]

theorem verdict_of_no_entry (hf : h.f = true) (he : t.finEntry h = none) :
    verdict t h = if t.hasRoomFor (t.tagEntry h.tag) h.len then .accept true else .wait := by
  rw [Stall.finEntry] at he
  simp only [verdict, ht.1, ht.not_stale, hen, hfit.not_oversize, hf, he, Bool.not_true, Bool.false_eq_true, if_false]

theorem verdict_of_entry (hf : h.f = true) {i : Nat} (he : t.finEntry h = some i) :
    verdict t h =
      if gget t.qu.finCnt i = h.fcount then (if t.hasRoomFor (t.tagEntry h.tag) h.len then .accept false else .wait)
      else if t.qu.pen.length < 8 ∧ t.qu.penUnits + 1 + h.len ≤ 128 then .pen else .penWait := by
  rw [Stall.finEntry] at he
  simp only [verdict, ht.1, ht.not_stale, hen, hfit.not_oversize, hf, he, Bool.not_true, Bool.false_eq_true, if_false]

/-- A message in its turn is accepted where it has room; a fenced one that no entry names is a miss. -/
theorem verdict_of_inTurn (hturn : t.InTurn h) :
    verdict t h =
      if t.hasRoomFor (t.tagEntry h.tag) h.len then .accept (decide (h.f = true ∧ t.finEntry h = none)) else .wait := by
  cases hf : h.f with
  | false => simp only [verdict_of_unfenced ht hen hfit hf, Bool.false_eq_true, false_and, decide_false]
  | true =>
    have hcount := hturn.resolve_left (ne_false_of_eq_true hf)
    cases he : t.finEntry h with
    | none => simp only [verdict_of_no_entry ht hen hfit hf he, and_self, decide_true]
    | some i => simp only [verdict_of_entry ht hen hfit hf he, hcount i he, if_true, reduceCtorEq, and_false, decide_false]

/-- A message out of its turn goes into the pen or waits. -/
theorem verdict_of_not_inTurn (hturn : ¬ t.InTurn h) :
    verdict t h = if t.qu.pen.length < 8 ∧ t.qu.penUnits + 1 + h.len ≤ 128 then .pen else .penWait := by
  obtain ⟨hf, hcount⟩ := not_or.1 hturn
  obtain ⟨i, hi⟩ := Classical.not_forall.1 hcount
  obtain ⟨he, hne⟩ := Classical.not_imp.1 hi
  rw [verdict_of_entry ht hen hfit (eq_true_of_ne_false hf) he, if_neg hne]

end
end

/-! What each verdict does (R127, R160, R161, R214). -/

/-- The packet on the track of state `s` has the fate `f`, in the state `x`. -/
def withFate (s x : State) (id : Nat) (f : Fate) : State :=
  { x with track := s.track.map fun k => if k.id = id then { k with fate := f } else k }

theorem modTrack_fate {s x : State} (h : x.track = s.track) (id : Nat) (f : Fate) :
    modTrack x id (fun m => { m with fate := f }) = withFate s x id f := by
  rw [modTrack, h]
  rfl

/-- A message begins to be accepted: a fenced one that no entry names is counted, its input is free, the fence has counted it, and its
relay copy is made. -/
def acceptBegun (s : State) (sid vc : Nat) (miss : Bool) (m : TrackMsg) (h : Hdr) (payload : List Byte) : State :=
  relayFor (countFence (clearEj (countMiss s sid miss) sid vc) sid h) sid m.id ((s.stall sid).tagEntry h.tag) h payload

/-- The landing of an accepted message begins. -/
def landingBegun (s x : State) (sid vc id : Nat) (l : Landing) : State :=
  withFate s (modQu x sid fun u => { u with landing := gset u.landing vc (some l) }) id .landing

theorem countMiss_decide (s : State) (sid : Nat) (p : Prop) [Decidable p] :
    countMiss s sid (decide p) =
      if p then { s with yards := gmod s.yards (yardOf sid) fun y => { y with fmiss := min (y.fmiss + 1) 65535 } } else s :=
  ite_congr (propext decide_eq_true_iff) (fun _ => rfl) (fun _ => rfl)

theorem countMiss_track (s : State) (sid : Nat) (miss : Bool) : (countMiss s sid miss).track = s.track := by cases miss <;> rfl

theorem countMiss_clearEj (s : State) (sid vc : Nat) (miss : Bool) :
    countMiss (clearEj s sid vc) sid miss = clearEj (countMiss s sid miss) sid vc := by cases miss <;> rfl

section
variable {s : State} {sid vc : Nat} {m : TrackMsg} {h : Hdr} {payload : List Byte}

theorem enterTarget_track (s : State) (id e : Nat) : (enterTarget s sid id e h payload).track = s.track :=
  (enterTarget_same Same.refl sid id e h payload (List.Subset.refl _)).kept .track (by decide)

theorem acceptHeader_of_wait (hv : verdict (s.stall sid) h = .wait) : acceptHeader s sid vc m h payload = s := by
  simp only [acceptHeader, hv]

theorem acceptHeader_of_stale (hv : verdict (s.stall sid) h = .stale) :
    acceptHeader s sid vc m h payload = clearEj (discardAt (staleDrop s sid) m.id) sid vc := by
  simp only [acceptHeader, hv]

theorem acceptHeader_of_fault {c : Nat} (hv : verdict (s.stall sid) h = .fault c) :
    acceptHeader s sid vc m h payload = stallFault (clearEj (discardAt s m.id) sid vc) sid c (s.stall sid).seq.pc := by
  simp only [acceptHeader, hv]

theorem acceptHeader_of_pen (hv : verdict (s.stall sid) h = .pen) :
    acceptHeader s sid vc m h payload =
      let x := modQu (clearEj s sid vc) sid fun u => { u with pen := u.pen ++ [⟨m.id, h, payload, decide (m.pos.length = 1)⟩] }
      if m.pos.length = 1 then removeTrack x m else withFate s x m.id .penned := by
  simp only [acceptHeader, hv, decide_eq_true_eq]
  rfl

theorem acceptHeader_of_penWait (hv : verdict (s.stall sid) h = .penWait) :
    acceptHeader s sid vc m h payload =
      if m.waited then s
      else modYard (modTrack s m.id fun m => { m with waited := true }) (yardOf sid) fun y =>
        { y with penwait := satAdd 16 y.penwait 1 } := by
  simp only [acceptHeader, hv]

section
variable {miss : Bool} (hv : verdict (s.stall sid) h = .accept miss) (hl : gget (s.stall sid).qu.landing vc = none)
include hv hl

/-- An accepted header lands in the target it has entered. -/
theorem acceptHeader_of_accept :
    acceptHeader s sid vc m h payload =
      let e := (s.stall sid).tagEntry h.tag
      landingBegun s (enterTarget (clearEj (countMiss s sid miss) sid vc) sid m.id e h payload) sid vc m.id
        (if eCen e then .slot m.id (eSlot e) else .queue m.id (eQueue e)) := by
  simp only [acceptHeader, hv, hl, Option.isSome_none, Bool.false_eq_true, if_false, countMiss_clearEj]
  have htrack := (enterTarget_track (sid := sid) (h := h) (payload := payload) (clearEj (countMiss s sid miss) sid vc) m.id
    ((s.stall sid).tagEntry h.tag)).trans (countMiss_track s sid miss)
  exact modTrack_fate (x := modQu _ sid _) htrack m.id .landing

theorem acceptHeader_of_accept_queue (he : eCen ((s.stall sid).tagEntry h.tag) = false) :
    acceptHeader s sid vc m h payload =
      let q := eQueue ((s.stall sid).tagEntry h.tag)
      landingBegun s (modQu (acceptBegun s sid vc miss m h payload) sid fun u =>
        { u with queues := gset u.queues q (u.queue q ++ [⟨m.id, h.tag, payload, h.len, false⟩]) }) sid vc m.id (.queue m.id q) := by
  simp only [acceptHeader_of_accept hv hl, enterTarget, he, Bool.false_eq_true, if_false]
  rfl

theorem acceptHeader_of_accept_slot (he : eCen ((s.stall sid).tagEntry h.tag) = true) :
    acceptHeader s sid vc m h payload =
      let c := eSlot ((s.stall sid).tagEntry h.tag)
      landingBegun s (modQu (acceptBegun s sid vc miss m h payload) sid fun u =>
        { u with slots := gmod u.slots c fun x => { x with accepted := x.accepted + 1 } }) sid vc m.id (.slot m.id c) := by
  simp only [acceptHeader_of_accept hv hl, enterTarget, he, if_true]
  rfl

end
end

/-! The header at an ejection input (R127). -/

theorem shedAbsent_of_live {s : State} {sid : Nat} (h : stallLive s sid = true) : shedAbsent s (shedOf sid) = false := by
  simp only [stallLive, Bool.and_eq_true, Bool.not_eq_true'] at h
  obtain ⟨⟨hpresent, -⟩, -⟩ := h
  exact hpresent

theorem execMessageAcceptance_of_header {s : State} {sid : StallId} {vc : Fin 3} {m : TrackMsg} {h : Hdr} {payload : List Byte}
    (hlive : stallLive s sid = true) (hn : vc = 2 → (s.stall sid).qu.notice = none)
    (hej : (gget (s.stall sid).qu.ej vc).head? = some m.id) (hm : trackMsg s m.id = some m) (hp : m.packet = .msg h payload) :
    execMessageAcceptance sid vc false s = .next (acceptHeader s sid vc m h payload) := by
  have heject : ejectHeader s sid vc = acceptHeader s sid vc m h payload := by
    simp only [ejectHeader, hej, hm, hp, shedAbsent_of_live hlive, hlive, Bool.not_true, Bool.false_eq_true, if_false]
  rw [← heject]
  by_cases hvc : vc = 2
  · simp only [execMessageAcceptance, parity, Bool.false_and, Bool.false_eq_true, if_false, hn hvc, ite_self]
  · simp only [execMessageAcceptance, parity, Bool.false_and, Bool.false_eq_true, if_false, hvc, false_and]

/-! The other events of the queue unit (R128, R135-R139, R161). -/

section
variable {s : State} {sid : StallId}

theorem execMessageComplete_of_last {vc : Fin 3} {m : TrackMsg} {id q : Nat} {h : Hdr} {payload : List Byte}
    (hl : gget (s.stall sid).qu.landing vc = some (.queue id q)) (hm : lastFlit s id = some m) (hp : m.packet = .msg h payload) :
    execMessageComplete sid vc s =
      .next (arrived (modQu (removeTrack s m) sid fun u => { u.markComplete q id with landing := gset u.landing vc none }) sid h.tag) := by
  simp only [execMessageComplete, hl, hm, hp]

theorem execContributionCounted_of_last {vc : Fin 3} {m : TrackMsg} {id c : Nat} {h : Hdr} {payload : List Byte}
    (hl : gget (s.stall sid).qu.landing vc = some (.slot id c)) (hm : lastFlit s id = some m) (hp : m.packet = .msg h payload) :
    execContributionCounted sid vc s =
      .next (addContribution (modQu (removeTrack s m) sid fun u => { u with landing := gset u.landing vc none })
        sid c h.tag h.len payload) := by
  simp only [execContributionCounted, hl, hm, hp]

theorem execRelayCopy_of_free {r : RelayCopy} {rest : List RelayCopy} (hr : (s.stall sid).qu.relays = r :: rest)
    (hb : injectBusy s sid 4 r.hdr.vc false = false) :
    execRelayCopy sid s = .next (inject (modQu s sid fun u => { u with relays := rest }) (.msg r.hdr r.payload) sid 4) := by
  simp only [execRelayCopy, hr, hb, Bool.false_eq_true, if_false]

theorem Stall.slotFull_iff {t : Stall} {c : Nat} :
    t.slotFull c = true ↔ (t.qu.slot c).releasing = false ∧ 0 < t.slotCount c ∧ t.slotCount c ≤ (t.qu.slot c).counted := by
  simp only [Stall.slotFull, Bool.and_eq_true, Bool.not_eq_true', decide_eq_true_eq, and_assoc]

section
variable {c : Fin 8} (hfull : (s.stall sid).slotFull c = true)
include hfull

theorem execReleaseBegin_of_no_units
    (hu : (s.stall sid).hasUnits ((s.stall sid).slotQueue c) (1 + (s.stall sid).releaseLen c) = false) :
    execReleaseBegin sid c s =
      .next (modQu s sid fun u => { u with slots := gmod u.slots c fun x => { x with held := true } }) := by
  simp only [execReleaseBegin, hfull, hu, Bool.not_true, Bool.not_false, Bool.false_eq_true, if_true, if_false]

/-- The release message of a slot, with the identity it is given (R138). -/
def Stall.releaseMsg (t : Stall) (c id : Nat) : QMsg :=
  { id := id, tag := (t.qu.slot c).tag, payload := releasePayload t c, len := t.releaseLen c, complete := false }

theorem execReleaseBegin_of_units (hs : gwf s.stalls = true)
    (hu : (s.stall sid).hasUnits ((s.stall sid).slotQueue c) (1 + (s.stall sid).releaseLen c) = true) :
    execReleaseBegin sid c s =
      let q := (s.stall sid).slotQueue c
      .next (modQu { s with nextId := s.nextId + 1 } sid fun u =>
        { u with slots := gmod u.slots c (fun x => { x with held := false, releasing := true, relId := s.nextId }),
                 queues := gset u.queues q (u.queue q ++ [(s.stall sid).releaseMsg c s.nextId]) }) := by
  simp only [execReleaseBegin, hfull, hu, Bool.not_true, Bool.false_eq_true, if_false, modQu, modStall, gmod_gmod hs]
  rfl

end

theorem execReleaseComplete_of_releasing {c : Fin 8} (hr : ((s.stall sid).qu.slot c).releasing = true) :
    execReleaseComplete sid c s =
      let t := s.stall sid
      .next (progress (modQu s sid fun u =>
        { u.markComplete (t.slotQueue c) (t.qu.slot c).relId with
          slots := gset u.slots c Slot.empty,
          wmsgs := gmodKeys u.wmsgs (watchSlots (s.shed (shedOf sid)) (t.qu.slot c).tag) (fun _ n => satAdd 32 n 1) }) sid) := by
  simp only [execReleaseComplete, hr, Bool.not_true, Bool.false_eq_true, if_false]

theorem execPenLeave_of_ready {p : PenEntry} (hlive : stallLive s sid = true) (ho : (s.stall sid).opened = true)
    (hp : (s.stall sid).qu.pen.find? (penReady (s.stall sid)) = some p) :
    execPenLeave sid s =
      let e := (s.stall sid).tagEntry p.hdr.tag
      .next (finishTarget (enterTarget (modQu s sid fun u => { u with pen := u.pen.filter fun x => decide (x.id ≠ p.id) })
        sid p.id e p.hdr p.payload) sid p.id e p.hdr p.payload) := by
  simp only [execPenLeave, hlive, ho, hp, Bool.not_true, Bool.or_self, Bool.false_eq_true, if_false]

end

end Sys2Proof.Machine

namespace Sys2Proof.Proofs
open Sys2Proof Sys2Proof.Machine

/-- Settles O41: a header by its verdict, and each other event by the equation of its case above. -/
theorem queueUnitEvents : Obligations.QueueUnitEvents := by
  intro s sid vc c hs hlive
  refine ⟨fun m h payload hn hej hm hp => ?header, fun m id q h payload => execMessageComplete_of_last,
    fun m id k h payload => execContributionCounted_of_last, fun r rest => execRelayCopy_of_free,
    ⟨fun hfull => execReleaseBegin_of_no_units (Stall.slotFull_iff.2 hfull),
      fun hfull => execReleaseBegin_of_units (Stall.slotFull_iff.2 hfull) hs.stalls, execReleaseComplete_of_releasing⟩,
    fun p => execPenLeave_of_ready hlive⟩
  case header =>
    have hexec {x : State} (hx : acceptHeader s sid vc m h payload = x) : exec (.messageAcceptance sid vc false) s = .next x :=
      (execMessageAcceptance_of_header hlive hn hej hm hp).trans (congrArg _ hx)
    refine ⟨fun hg => hexec (acceptHeader_of_wait (verdict_of_next hg)),
      fun hg hstale => hexec (acceptHeader_of_stale (verdict_of_stale hg hstale)),
      fun ht hen => hexec (acceptHeader_of_fault (verdict_of_disabled ht hen)),
      fun ht hen hfit => hexec (acceptHeader_of_fault (verdict_of_oversize ht hen hfit)),
      fun ht hen hfit hturn hroom => hexec (acceptHeader_of_wait ?full),
      fun ht hen hfit hturn hroom hland => ?accept,
      fun ht hen hfit hturn => ⟨fun hspace => hexec ?pen, fun hspace => hexec ?penWait⟩⟩
    case full => exact (verdict_of_inTurn ht hen hfit hturn).trans (if_neg (ne_true_of_eq_false hroom))
    case accept =>
      have hv := (verdict_of_inTurn ht hen hfit hturn).trans (if_pos hroom)
      refine ⟨fun he => hexec ((acceptHeader_of_accept_queue hv hland he).trans ?_),
        fun he => hexec ((acceptHeader_of_accept_slot hv hland he).trans ?_)⟩
      all_goals
        rw [acceptBegun, countMiss_decide]
        rfl
    case pen => exact acceptHeader_of_pen ((verdict_of_not_inTurn ht hen hfit hturn).trans (if_pos hspace))
    case penWait => exact acceptHeader_of_penWait ((verdict_of_not_inTurn ht hen hfit hturn).trans (if_neg hspace))

end Sys2Proof.Proofs
end

section
/-! PROOFS. Gate lines and realignment (R179, R187, R189, R191), the progress watchdog (R148, R150), the injection epoch (R164, R166) and the
route tables (R163, R172): what clearing PEND does to a stall, one equation for each case of each command, and from these O43. -/

namespace Sys2Proof.Machine

/-! Realignment (R187). -/

/-- The stall with one tally realigned, if it is of the line. -/
def Stall.realign (bit : Nat) (t : Stall) (k : Nat) : Stall :=
  let d := gget t.active.tdesc k
  if dRline d = bit ∧ t.tally k ≠ dRval d then { t with qu := { t.qu with tallies := gset t.qu.tallies k (dRval d) } } else t

/-- Realignment writes no part of a stall but its tallies. -/
theorem Stall.realign_frame (bit : Nat) (t : Stall) (k : Nat) :
    (t.realign bit k).pend = t.pend ∧ (t.realign bit k).active = t.active := by
  unfold Stall.realign
  dsimp only
  split <;> exact ⟨rfl, rfl⟩

theorem Stall.gwf_realign {t : Stall} (h : gwf t.qu.tallies = true) (bit k : Nat) : gwf (t.realign bit k).qu.tallies = true := by
  unfold Stall.realign
  dsimp only
  split
  · exact gwf_gset h ..
  · exact h

/-- A tally that is realigned, or at RVAL already, is at RVAL; the others are as they were. -/
theorem Stall.realign_tally {t : Stall} (h : gwf t.qu.tallies = true) (bit j k : Nat) :
    (t.realign bit j).tally k = if k = j ∧ dRline (gget t.active.tdesc j) = bit then dRval (gget t.active.tdesc j) else t.tally k := by
  unfold Stall.realign
  dsimp only
  by_cases hline : dRline (gget t.active.tdesc j) = bit
  case neg => rw [if_neg fun hc => hline hc.1, if_neg fun hc => hline hc.2]
  by_cases hval : t.tally j = dRval (gget t.active.tdesc j)
  · rw [if_neg fun hc => hc.2 hval]
    split
    · next hc => rw [hc.1, hval]
    · rfl
  · rw [if_pos ⟨hline, hval⟩]
    simp only [Stall.tally, gget_gset h, hline, and_true]

/-- The stall with the tallies `ks` realigned. -/
def Stall.realignAll (bit : Nat) (t : Stall) (ks : List Nat) : Stall := ks.foldl (Stall.realign bit) t

theorem Stall.realignAll_frame (bit : Nat) (t : Stall) (ks : List Nat) :
    (t.realignAll bit ks).pend = t.pend ∧ (t.realignAll bit ks).active = t.active := by
  unfold Stall.realignAll
  refine List.foldlRecOn (motive := fun u : Stall => u.pend = t.pend ∧ u.active = t.active) ks _ ⟨rfl, rfl⟩ fun u hu k _ => ?_
  obtain ⟨hpend, hactive⟩ := u.realign_frame bit k
  exact ⟨hpend.trans hu.1, hactive.trans hu.2⟩

/-- After realignment every tally of the line stands at RVAL, and the others as they stood. -/
theorem Stall.realignAll_tally {t : Stall} (h : gwf t.qu.tallies = true) (bit : Nat) (ks : List Nat) (k : Nat) :
    (t.realignAll bit ks).tally k =
      if k ∈ ks ∧ dRline (gget t.active.tdesc k) = bit then dRval (gget t.active.tdesc k) else t.tally k := by
  induction ks generalizing t with
  | nil => exact (if_neg fun hc => List.not_mem_nil hc.1).symm
  | cons j ks ih =>
    have hstep : (t.realignAll bit (j :: ks)).tally k = _ := ih (Stall.gwf_realign h bit j)
    rw [hstep, (t.realign_frame bit j).2, Stall.realign_tally h]
    simp only [List.mem_cons]
    by_cases hj : k = j
    · subst hj
      by_cases hline : dRline (gget t.active.tdesc k) = bit <;>
        simp only [hline, true_or, and_true, and_false, if_true, if_false, ite_self]
    · simp only [hj, false_and, false_or, if_false]

/-! What clearing PEND does to the stalls (R179, R182). -/

theorem tallyDrift_stalls (s : State) (sid k : Nat) : (tallyDrift s sid k).stalls = s.stalls :=
  (tallyDrift_same Same.refl sid k (List.Subset.refl _)).kept .stalls (by decide)

/-- A state whose stalls are changed at one key: that stall, and every other. -/
theorem stall_of_stalls_gmod {s t : State} (h : gwf s.stalls = true) {sid : Nat} {f : Stall → Stall} (he : t.stalls = gmod s.stalls sid f) :
    t.stall sid = f (s.stall sid) ∧ ∀ other, other ≠ sid → t.stall other = s.stall other :=
  ⟨(congrArg (gget · sid) he).trans ((gget_gmod h ..).trans (if_pos rfl)),
    fun other ho => (congrArg (gget · other) he).trans (gget_gmod_ne _ _ ho)⟩

/-- Realigning a tally acts on the tally's own stall, and on no other. -/
theorem realignTally_stalls {s : State} (h : gwf s.stalls = true) (bit sid k : Nat) :
    gwf (realignTally bit sid s k).stalls = true ∧ (realignTally bit sid s k).stall sid = (s.stall sid).realign bit k ∧
      ∀ other, other ≠ sid → (realignTally bit sid s k).stall other = s.stall other := by
  unfold realignTally Stall.realign
  dsimp only
  split
  · have hstalls : (setTally (tallyDrift s sid k) sid k (dRval (gget (s.stall sid).active.tdesc k))).stalls =
        gmod s.stalls sid fun u =>
          { u with qu := { u.qu with tallies := gset u.qu.tallies k (dRval (gget (s.stall sid).active.tdesc k)) } } := by
      rw [setTally, modQu_stalls, tallyDrift_stalls]
    exact ⟨hstalls ▸ gwf_gmod h .., stall_of_stalls_gmod h hstalls⟩
  · exact ⟨h, rfl, fun _ _ => rfl⟩

theorem foldl_realignTally_stalls {s : State} (h : gwf s.stalls = true) (bit sid : Nat) (ks : List Nat) :
    (ks.foldl (realignTally bit sid) s).stall sid = (s.stall sid).realignAll bit ks ∧
      ∀ other, other ≠ sid → (ks.foldl (realignTally bit sid) s).stall other = s.stall other := by
  induction ks generalizing s with
  | nil => exact ⟨rfl, fun _ _ => rfl⟩
  | cons k ks ih =>
    obtain ⟨hgwf, hself, hother⟩ := realignTally_stalls h bit sid k
    obtain ⟨hselfs, hothers⟩ := ih hgwf
    exact ⟨hselfs.trans (congrArg (Stall.realignAll bit · ks) hself), fun other ho => (hothers other ho).trans (hother other ho)⟩

/-- The stall with a line's bit of PEND taken off. -/
def Stall.lowerPend (bit : Nat) (t : Stall) : Stall := { t with pend := t.pend - 2 ^ bit }

/-- The shed's wake request is raised where the stall holds on the line in a shed that sleeps (R182). -/
def holderWoken (bit : Nat) (s : State) (sid : Nat) : State :=
  if holdsOnLine (s.stall sid) bit && decide (shedDepth s (shedOf sid) ≠ 0) then requestWake s sid else s

theorem holderWoken_stalls (bit : Nat) (s : State) (sid : Nat) : (holderWoken bit s sid).stalls = s.stalls := by
  unfold holderWoken
  split <;> rfl

theorem clearPend_eq (bit : Nat) (s : State) (sid : Nat) :
    clearPend bit s sid =
      (List.range 32).foldl (realignTally bit sid) (modStall (holderWoken bit s sid) sid (Stall.lowerPend bit)) := rfl

/-- Clearing PEND wakes a shed at most, and otherwise acts on its own stall alone. -/
theorem clearPend_stall {s : State} (h : gwf s.stalls = true) (bit sid : Nat) :
    (clearPend bit s sid).stall sid = ((s.stall sid).lowerPend bit).realignAll bit (List.range 32) ∧
      ∀ other, other ≠ sid → (clearPend bit s sid).stall other = s.stall other := by
  have hlowered : (modStall (holderWoken bit s sid) sid (Stall.lowerPend bit)).stalls = gmod s.stalls sid (Stall.lowerPend bit) := by
    rw [modStall_stalls, holderWoken_stalls]
  obtain ⟨hlower, hkept⟩ := stall_of_stalls_gmod h hlowered
  obtain ⟨hself, hother⟩ := foldl_realignTally_stalls (hlowered ▸ gwf_gmod h ..) bit sid (List.range 32)
  rw [clearPend_eq]
  exact ⟨hself.trans (congrArg (Stall.realignAll bit · _) hlower), fun other ho => (hother other ho).trans (hkept other ho)⟩

theorem clearPend_pend {s : State} (h : gwf s.stalls = true) (bit sid : Nat) :
    ((clearPend bit s sid).stall sid).pend = (s.stall sid).pend - 2 ^ bit := by
  rw [(clearPend_stall h bit sid).1]
  exact (Stall.realignAll_frame bit _ _).1

theorem clearPend_tally {s : State} (h : gwf s.stalls = true) {bit sid k : Nat} (hk : k < 32)
    (ht : gwf (s.stall sid).qu.tallies = true) :
    ((clearPend bit s sid).stall sid).tally k =
      if dRline (gget (s.stall sid).active.tdesc k) = bit then dRval (gget (s.stall sid).active.tdesc k) else (s.stall sid).tally k := by
  have htallies : gwf ((s.stall sid).lowerPend bit).qu.tallies = true := ht
  rw [(clearPend_stall h bit sid).1, Stall.realignAll_tally htallies]
  simp only [List.mem_range.2 hk, true_and]
  rfl

/-! Openings (R179, R189, R191). -/

/-- The state in which every participant's PEND has cleared. -/
def lineCleared (s : State) (scope unit bit : Nat) : State := (participants s scope unit bit).foldl (clearPend bit) s

theorem lineReady_iff {s : State} {scope unit bit : Nat} :
    lineReady s scope unit bit = true ↔
      participants s scope unit bit ≠ [] ∧ ∀ sid, sid ∈ participants s scope unit bit → (s.stall sid).pend.testBit bit = true := by
  simp only [lineReady, bitOf, Bool.and_eq_true, Bool.not_eq_true', List.isEmpty_eq_false_iff, List.all_eq_true]

section
variable {s : State} {unit bit : Nat} {line : Fin 16}

theorem execGateOpening_of_ready {scope : Fin 3} (hb : gateBit scope line = some bit) (hr : lineReady s scope unit bit = true) :
    execGateOpening scope unit line s =
      let x := invertPhase (lineCleared s scope unit bit) scope unit line
      .next (if scope = 2 ∧ x.sec.earm ∧ x.sec.eline = line then switchEpoch x else x) := by
  simp only [execGateOpening, hb, hr, Bool.not_true, Bool.false_eq_true, if_false]
  rfl

theorem execGateOpening_shed (hb : gateBit 0 line = some bit) (hr : lineReady s 0 unit bit = true) :
    execGateOpening 0 unit line s =
      .next (modShed (lineCleared s 0 unit bit) unit fun h => { h with phase := h.phase ^^^ 2 ^ line.val }) :=
  execGateOpening_of_ready hb hr

theorem execGateOpening_yard (hb : gateBit 1 line = some bit) (hr : lineReady s 1 unit bit = true) :
    execGateOpening 1 unit line s =
      .next (modYard (lineCleared s 1 unit bit) unit fun y => { y with phase := y.phase ^^^ 2 ^ line.val }) :=
  execGateOpening_of_ready hb hr

theorem execGateOpening_wafer (hb : gateBit 2 line = some bit) (hr : lineReady s 2 unit bit = true) :
    execGateOpening 2 unit line s =
      let x := lineCleared s 2 unit bit
      let phase := x.sec.gphase ^^^ 2 ^ line.val
      .next (if x.sec.earm = true ∧ x.sec.eline = line then
          { x with sec := { x.sec with gphase := phase, inj := !x.sec.inj, earm := false, drained := false } }
        else { x with sec := { x.sec with gphase := phase } }) := by
  refine (execGateOpening_of_ready hb hr).trans (congrArg _ ?_)
  exact ite_congr (propext (and_iff_right rfl)) (fun _ => rfl) (fun _ => rfl)

end

/-! The progress watchdog (R148, R150). -/

theorem execProgressWatchdogFire_of_due {yard : YardId} {shed : ShedNo} {s : State} (hc : watchdogCounts s (shedKey yard shed) = true)
    (hf : (s.shed (shedKey yard shed)).fired = false ∨ (s.shed (shedKey yard shed)).cause = true) :
    execProgressWatchdogFire yard shed s =
      let k := shedKey yard shed
      .next (hwAbort (record (modShed s k fun h => { h.progFired false (progStall s k) with progCount := 0xFFFFF }) 10 (.shed k)) 2) := by
  have hdue : (!watchdogCounts s (shedKey yard shed) ||
      (s.shed (shedKey yard shed)).fired && !(s.shed (shedKey yard shed)).cause) = false := by
    simpa only [hc, Bool.not_true, Bool.false_or, Bool.and_eq_false_iff, Bool.not_eq_false'] using hf
  simp only [execProgressWatchdogFire, hdue, Bool.false_eq_true, if_false]

/-! The injection epoch (R164, R166). -/

theorem epochEmpty_iff {s : State} {e : Bool} :
    epochEmpty s (!e) = true ↔ ∀ y, y < 64 → (if e then (s.yard y).cnt0 else (s.yard y).cnt1) = 0 := by
  cases e <;>
    simp only [epochEmpty, List.all_eq_true, List.mem_range, Bool.not_true, Bool.not_false, Bool.false_eq_true, if_true, if_false,
      decide_eq_true_eq]

theorem execEpochDrained_of_empty {s : State} (h : epochEmpty s (!s.sec.inj) = true) :
    execEpochDrained s = .next { s with sec := { s.sec with drained := true } } := congrArg _ (if_pos h)

theorem execEpochDrained_of_not_empty {s : State} (h : ¬ epochEmpty s (!s.sec.inj) = true) : execEpochDrained s = .next s :=
  congrArg _ (if_neg h)

/-- A write of SEC.EPOCH takes LINE, and ARM while DRAINED is 1. -/
theorem writeEpoch_eq (data : Nat) (s : State) :
    writeEpoch data s =
      { s with sec := { s.sec with eline := bitsOf data 5 2, earm := if s.sec.drained then bitOf data 1 else s.sec.earm } } := by
  unfold writeEpoch
  dsimp only
  split <;> rfl

/-! The route tables (R163, R172). -/

section
variable {s : State} {v : Bool} {sid : StallId} {es : List Byte}

theorem routeWritable_iff : routeWritable s v = true ↔ v ≠ s.sec.inj ∧ s.sec.drained = true := by
  simp only [routeWritable, Bool.and_eq_true, decide_eq_true_eq]

/-- The table with one router's entries written. -/
def RouteTable.written (r : RouteTable) (sid : Nat) (es : List Byte) : RouteTable :=
  { r with entries := gmodKeys r.entries ((List.range 64).map fun y => sid * 64 + y) fun k _ => some (es.getD (k % 64) 0 &&& 0x7F#8) }

theorem RouteTable.written_dead (r : RouteTable) (sid : Nat) : (r.written sid es).dead = r.dead := by rw [RouteTable.written]

theorem RouteTable.written_entries (r : RouteTable) (sid : Nat) :
    (r.written sid es).entries =
      gmodKeys r.entries ((List.range 64).map fun y => sid * 64 + y) fun k _ => some (es.getD (k % 64) 0 &&& 0x7F#8) := by
  rw [RouteTable.written]

theorem RouteTable.written_entry {r : RouteTable} (h : gwf r.entries = true) {sid y : Nat} (hy : y < 64) :
    gget (r.written sid es).entries (sid * 64 + y) = some (es.getD y 0 &&& 0x7F#8) := by
  have hmod : (sid * 64 + y) % 64 = y := by omega
  rw [RouteTable.written_entries]
  refine gget_gmodKeys_of_mem h (P := (· = some (es.getD y 0 &&& 0x7F#8))) (fun _ => by rw [hmod]) ?_
  exact List.mem_map_of_mem (List.mem_range.2 hy)

theorem RouteTable.written_other (r : RouteTable) {sid k : Nat} (hk : k / 64 ≠ sid) :
    gget (r.written sid es).entries k = gget r.entries k := by
  rw [RouteTable.written_entries]
  refine gget_gmodKeys_of_not_mem _ _ fun hmem => ?_
  obtain ⟨y, hy, rfl⟩ := List.mem_map.1 hmem
  have := List.mem_range.1 hy
  omega

theorem modRoute_eq (f : RouteTable → RouteTable) :
    modRoute s v f = if v then { s with routeB := f (routeTable s v) } else { s with routeA := f (routeTable s v) } := by cases v <;> rfl

theorem execRouteTableWrite_of_writable (hl : es.length = 64) (hw : routeWritable s v = true) :
    execRouteTableWrite v sid es s = .next (modRoute s v (RouteTable.written · sid es)) := by
  have hrefused : ¬ (!routeWritable s v) = true := by rw [hw]; exact Bool.false_ne_true
  rw [execRouteTableWrite, if_neg (not_not_intro hl), if_neg hrefused]
  rfl

theorem execRouteTableWrite_of_refused (hl : es.length = 64) (hw : ¬ routeWritable s v = true) :
    execRouteTableWrite v sid es s = .next (modYard s (yardOf sid) fun y => { y with rtrefuse := satAdd 16 y.rtrefuse 1 }) := by
  have hrefused : (!routeWritable s v) = true := by rw [Bool.eq_false_iff.2 hw]; rfl
  rw [execRouteTableWrite, if_neg (not_not_intro hl), if_pos hrefused]

end

/-- The switch of the injection epoch is armed with LINE 15 (R172). -/
def detourArmed (s : State) : State := { s with sec := { s.sec with earm := true, eline := 15 } }

theorem detourArmed_modRoute (s : State) (v : Bool) (r : RouteTable) :
    detourArmed (modRoute s (!v) fun _ => r) =
      if v then { detourArmed s with routeA := r } else { detourArmed s with routeB := r } := by cases v <;> rfl

theorem execDetourInstall_of_ready {s : State} (hd : deadYards s ≠ []) (hn : (routeTable s s.sec.inj).dead ≠ deadYards s)
    (hdrained : s.sec.drained = true) :
    execDetourInstall s =
      .next (if s.sec.inj then { detourArmed s with routeA := ⟨deadYards s, gconst none⟩ }
        else { detourArmed s with routeB := ⟨deadYards s, gconst none⟩ }) := by
  rw [← detourArmed_modRoute]
  simp only [execDetourInstall, List.isEmpty_eq_false_iff.2 hd, decide_eq_false hn, hdrained, Bool.not_true, Bool.or_self, Bool.false_eq_true,
    if_false]
  rfl

end Sys2Proof.Machine

namespace Sys2Proof.Proofs
open Sys2Proof Sys2Proof.Machine

/-- Settles O43: each command by the equation of its case; what an opening does to a participant is read off its realigned tallies. -/
theorem gatesEpochsAndRoutes : Obligations.GatesEpochsAndRoutes := by
  intro s hs
  refine ⟨fun scope unit line bit hb hne hall => ?opening,
    fun bit sid k hk ht => ⟨clearPend_pend hs.stalls bit sid, clearPend_tally hs.stalls hk ht, (clearPend_stall hs.stalls bit sid).2⟩,
    fun yard shed => execProgressWatchdogFire_of_due,
    fun hempty => execEpochDrained_of_empty (epochEmpty_iff.2 hempty), fun ⟨y, hy, hn⟩ => ?notDrained,
    fun o data => ⟨fun ho => ?taken, fun ho => congrArg _ (asAuth_of_unauthenticated ho ..)⟩,
    fun v sid es hl => ⟨fun hv hd => ?written, fun href => ?refused⟩, execDetourInstall_of_ready⟩
  case opening =>
    have hready : lineReady s scope unit bit = true := lineReady_iff.2 ⟨hne, hall⟩
    match scope, hb, hready with
    | 0, hb, hready => exact execGateOpening_shed hb hready
    | 1, hb, hready => exact execGateOpening_yard hb hready
    | 2, hb, hready => exact execGateOpening_wafer hb hready
  case notDrained => exact execEpochDrained_of_not_empty fun h => hn (epochEmpty_iff.1 h y hy)
  case taken =>
    refine congrArg _ ((asAuth_of_authenticated ho ..).trans ?_)
    rw [writeEpoch_eq]
    rfl
  case written =>
    refine ⟨(routeTable s v).written sid es, ?_, RouteTable.written_dead .., fun hr =>
      ⟨fun y => RouteTable.written_entry hr, fun k => RouteTable.written_other _⟩⟩
    exact (execRouteTableWrite_of_writable hl (routeWritable_iff.2 ⟨hv, hd⟩)).trans (congrArg _ (modRoute_eq _))
  case refused =>
    refine execRouteTableWrite_of_refused hl fun hw => ?_
    obtain ⟨hne, hd⟩ := routeWritable_iff.1 hw
    exact href.elim hne fun hnot => Bool.false_ne_true (hnot.symm.trans hd)

end Sys2Proof.Proofs
end

section
/-! PROOFS. Every command completes (R163, R284, R367): a term that is a command gets a next state and one that is not stops, what any
command keeps of the state (`Keeps`), a step by its two cases, and from these O7. -/

namespace Sys2Proof.Machine

/-! What stops: the four commands whose list operands have a length (R163, R284, R367). -/

theorem wf_sensorSample_iff {sheds : List ShedReading} {supplies : List (YardId × Int)} :
    Instr.wf (.sensorSample sheds supplies) = true ↔
      sheds.any (fun r => decide (r.floor.length ≠ 4 ∨ r.loft.length ≠ 3)) = false := by
  simp only [Instr.wf, ShedReading.wf, List.all_eq_true, List.any_eq_false, Bool.and_eq_true, decide_eq_true_eq, not_or, Decidable.not_not]

theorem wf_berWindow_iff {port : PortId} {errBits : List Nat} {uncorr : Nat} {lost : List Bool} :
    Instr.wf (.berWindow port errBits uncorr lost) = true ↔ ¬ (errBits.length ≠ 8 ∨ lost.length ≠ 8) := by
  simp only [Instr.wf, Bool.and_eq_true, decide_eq_true_eq, not_or, Decidable.not_not]

/-- A command of the table gets a next state: only the four commands with a list of fixed length test anything first. -/
theorem exec_answers {i : Instr} (hw : Instr.wf i = true) (s : State) : ∃ t, exec i s = .next t := by
  cases i with
  | routeTableWrite v sid es =>
    have hlen : es.length = 64 := of_decide_eq_true hw
    by_cases hv : routeWritable s v = true
    · exact ⟨_, execRouteTableWrite_of_writable hlen hv⟩
    · exact ⟨_, execRouteTableWrite_of_refused hlen hv⟩
  | trainingAttemptEnd port lanes =>
    have hlen : ¬ lanes.length ≠ 8 := not_not_intro (of_decide_eq_true hw)
    exact ⟨_, if_neg hlen⟩
  | berWindow port errBits uncorr lost => exact ⟨_, if_neg (wf_berWindow_iff.1 hw)⟩
  | sensorSample sheds supplies => exact ⟨_, if_neg (ne_true_of_eq_false (wf_sensorSample_iff.1 hw))⟩
  | _ => exact ⟨_, rfl⟩

/-- A term that is no command stops: its list operand has another length. -/
theorem exec_of_not_wf {i : Instr} (hw : Instr.wf i = false) (s : State) : exec i s = .fault .malformedCommand := by
  cases i with
  | routeTableWrite v sid es => exact if_pos (of_decide_eq_false hw)
  | trainingAttemptEnd port lanes => exact if_pos (of_decide_eq_false hw)
  | berWindow port errBits uncorr lost =>
    exact if_pos (Decidable.not_not.1 (mt wf_berWindow_iff.2 (ne_true_of_eq_false hw)))
  | sensorSample sheds supplies =>
    exact if_pos (eq_true_of_ne_false (mt wf_sensorSample_iff.2 (ne_true_of_eq_false hw)))
  | _ => cases hw

/-! What every command and every step keeps. -/

theorem Keeps.self {s : State} (hs : Canonical s) (ha : ArbInRange s) : Keeps s s :=
  { pending := rfl, fuses := rfl, arb := fun _ => Nat.le_refl _, inRange := ha, canon := hs }

/-- Stated as an equation because a comparison of the two sides by definition would go into the meaning of ARM_COMPLETE. -/
theorem exec_armComplete (s : State) : exec .armComplete s = execArmComplete s := by rw [exec]

/-- Whatever the command, its next state keeps the queue, the blown fuses and the canonical form. -/
theorem exec_keeps {base s : State} (hk : Keeps base s) : ∀ i : Instr, OutKeeps base (exec i s)
  | .nop sid => execNop_keeps hk sid
  | .endW sid => execEnd_keeps hk sid
  | .loop sid => execLoop_keeps hk sid
  | .brt sid => execBrt_keeps hk sid
  | .brtWaitSatisfied sid => execBrtWaitSatisfied_keeps hk sid
  | .br sid => execBr_keeps hk sid
  | .jmp sid => execJmp_keeps hk sid
  | .waitg sid => execWaitg_keeps hk sid
  | .arrive sid => execArrive_keeps hk sid
  | .mov sid par => execMov_keeps hk sid par
  | .movq sid => execMovq_keeps hk sid
  | .movqs sid => execMovqs_keeps hk sid
  | .qrel sid => execQrel_keeps hk sid
  | .lds sid par => execLds_keeps hk sid par
  | .sts sid => execSts_keeps hk sid
  | .agb sid => execAgb_keeps hk sid
  | .ags sid => execAgs_keeps hk sid
  | .vadd sid res => execVadd_keeps hk sid res
  | .vsub sid res => execVsub_keeps hk sid res
  | .vmul sid res => execVmul_keeps hk sid res
  | .vfma sid res => execVfma_keeps hk sid res
  | .vmax sid res => execVmax_keeps hk sid res
  | .vmin sid res => execVmin_keeps hk sid res
  | .vact sid res => execVact_keeps hk sid res
  | .vexp2 sid res => execVexp2_keeps hk sid res
  | .vlog2 sid res => execVlog2_keeps hk sid res
  | .vrsqrt sid res => execVrsqrt_keeps hk sid res
  | .vrcp sid res => execVrcp_keeps hk sid res
  | .vred sid res => execVred_keeps hk sid res
  | .vcvt sid res => execVcvt_keeps hk sid res
  | .vcmp sid res => execVcmp_keeps hk sid res
  | .vlogic sid => execVlogic_keeps hk sid
  | .vcopy sid => execVcopy_keeps hk sid
  | .send sid => execSend_keeps hk sid
  | .sendl sid => execSendl_keeps hk sid
  | .sends sid => execSends_keeps hk sid
  | .relay sid => execRelay_keeps hk sid
  | .tinc sid => execTinc_keeps hk sid
  | .tdec sid => execTdec_keeps hk sid
  | .trd sid => execTrd_keeps hk sid
  | .tset sid => execTset_keeps hk sid
  | .brand sid => execBrand_keeps hk sid
  | .ballast sid => execBallast_keeps hk sid
  | .salu sid => execSalu_keeps hk sid
  | .sli sid => execSli_keeps hk sid
  | .dmm sid => execDmm_keeps hk sid
  | .drain sid => execDrain_keeps hk sid
  | .dexp sid => execDexp_keeps hk sid
  | .dstat sid => execDstat_keeps hk sid
  | .smm sid => execSmm_keeps hk sid
  | .sdd sid => execSdd_keeps hk sid
  | .psel sid => execPsel_keeps hk sid
  | .pchk sid => execPchk_keeps hk sid
  | .dmmCompletion sid => execDmmCompletion_keeps hk sid
  | .rakeCompletion sid => execRakeCompletion_keeps hk sid
  | .overflowReplay sid rake => execOverflowReplay_keeps hk sid rake
  | .dispatch sid par => execDispatch_keeps hk sid par
  | .messageAcceptance sid vc par => execMessageAcceptance_keeps hk sid vc par
  | .messageComplete sid vc => execMessageComplete_keeps hk sid vc
  | .relayCopy sid => execRelayCopy_keeps hk sid
  | .contributionCounted sid vc => execContributionCounted_keeps hk sid vc
  | .releaseBegin sid slot => execReleaseBegin_keeps hk sid slot
  | .releaseComplete sid slot => execReleaseComplete_keeps hk sid slot
  | .penLeave sid => execPenLeave_keeps hk sid
  | .flitHop mid flit adaptive crcOk => execFlitHop_keeps hk mid flit adaptive crcOk
  | .sidingInjection port what => execSidingInjection_keeps hk port what
  | .progressWatchdogFire yard shed => execProgressWatchdogFire_keeps hk yard shed
  | .gateOpening scope unit line => execGateOpening_keeps hk scope unit line
  | .epochDrained => execEpochDrained_keeps hk
  | .secEpochWrite o data => execSecEpochWrite_keeps hk o data
  | .routeTableWrite version sid entries => execRouteTableWrite_keeps hk version sid entries
  | .detourInstall => execDetourInstall_keeps hk
  | .load o place => execLoad_keeps hk o place
  | .loadComplete place memErr => execLoadComplete_keeps hk place memErr
  | .arm o place auto => execArm_keeps hk o place auto
  | .armComplete => by rw [exec_armComplete]; exact execArmComplete_keeps hk
  | .start o place => execStart_keeps hk o place
  | .abort o => execAbort_keeps hk o
  | .abortedReached => execAbortedReached_keeps hk
  | .disarm o place => execDisarm_keeps hk o place
  | .evict o place => execEvict_keeps hk o place
  | .reload o place => execReload_keeps hk o place
  | .reloadComplete place memErr => execReloadComplete_keeps hk place memErr
  | .endLatch => execEndLatch_keeps hk
  | .startOpening => execStartOpening_keeps hk
  | .loftWriteLanding sid => execLoftWriteLanding_keeps hk sid
  | .streamIssue o port ctx => execStreamIssue_keeps hk o port ctx
  | .streamCancel o port ctx => execStreamCancel_keeps hk o port ctx
  | .sdata port car => execSdata_keeps hk port car
  | .blockRelease port ctx => execBlockRelease_keeps hk port ctx
  | .creditMessage port => execCreditMessage_keeps hk port
  | .ackReport port ctx => execAckReport_keeps hk port ctx
  | .softGap port ctx => execSoftGap_keeps hk port ctx
  | .hardGap port ctx => execHardGap_keeps hk port ctx
  | .marshallingEntryWrite o version index data => execMarshallingEntryWrite_keeps hk o version index data
  | .bucketIssue o ctx => execBucketIssue_keeps hk o ctx
  | .bucketCancel o ctx => execBucketCancel_keeps hk o ctx
  | .gradientPart port => execGradientPart_keeps hk port
  | .bucketSendStart ctx => execBucketSendStart_keeps hk ctx
  | .bucketCloseSent ctx => execBucketCloseSent_keeps hk ctx
  | .gret port car => execGret_keeps hk port car
  | .bucketTimeout ctx => execBucketTimeout_keeps hk ctx
  | .bagree port car => execBagree_keeps hk port car
  | .brsnd port car => execBrsnd_keeps hk port car
  | .basum port car => execBasum_keeps hk port car
  | .ststop port car => execStstop_keeps hk port car
  | .bstop port car => execBstop_keeps hk port car
  | .portCfgWrite o port data => execPortCfgWrite_keeps hk o port data
  | .train o port => execTrain_keeps hk o port
  | .qclr o port => execQclr_keeps hk o port
  | .rekey o port => execRekey_keeps hk o port
  | .drop o port => execDrop_keeps hk o port
  | .trainingAttemptEnd port lanes => execTrainingAttemptEnd_keeps hk port lanes
  | .tryintExpiry port => execTryintExpiry_keeps hk port
  | .hello port car sigsOk => execHello_keeps hk port car sigsOk
  | .kex port car sigsOk => execKex_keeps hk port car sigsOk
  | .handshakeTimeout port => execHandshakeTimeout_keeps hk port
  | .authRetry port => execAuthRetry_keeps hk port
  | .markerCar port good frame => execMarkerCar_keeps hk port good frame
  | .lctl port car => execLctl_keeps hk port car
  | .lctlSend port => execLctlSend_keeps hk port
  | .replayTimeout port => execReplayTimeout_keeps hk port
  | .berWindow port errBits uncorr lost => execBerWindow_keeps hk port errBits uncorr lost
  | .noCarTimeout port => execNoCarTimeout_keeps hk port
  | .retrainTimeout port => execRetrainTimeout_keeps hk port
  | .rekeyTimer port => execRekeyTimer_keeps hk port
  | .beaconSend => execBeaconSend_keeps hk
  | .beacon port car t4 => execBeacon_keeps hk port car t4
  | .mgmt port car => execMgmt_keeps hk port car
  | .bridgeTimeout port tid => execBridgeTimeout_keeps hk port tid
  | .svc port car => execSvc_keeps hk port car
  | .windowRead o addr wlen => execWindowRead_keeps hk o addr wlen
  | .windowWrite o addr data => execWindowWrite_keeps hk o addr data
  | .registerWrite o addr data => execRegisterWrite_keeps hk o addr data
  | .mbxPost o n hi => execMbxPost_keeps hk o n hi
  | .mbxRing o n data => execMbxRing_keeps hk o n data
  | .mbxDoorClear o n data => execMbxDoorClear_keeps hk o n data
  | .mbxMaskWrite o n data => execMbxMaskWrite_keeps hk o n data
  | .pop o n => execPop_keeps hk o n
  | .flush o n => execFlush_keeps hk o n
  | .rxrdy o n value => execRxrdy_keeps hk o n value
  | .crheadWrite o r data => execCrheadWrite_keeps hk o r data
  | .crcfgWrite o r data => execCrcfgWrite_keeps hk o r data
  | .pclr o yard shed => execPclr_keeps hk o yard shed
  | .pwrCapWrite o data => execPwrCapWrite_keeps hk o data
  | .allocatorInterval m => execAllocatorInterval_keeps hk m
  | .rampInterval m => execRampInterval_keeps hk m
  | .idleProposal yard shed cause => execIdleProposal_keeps hk yard shed cause
  | .shedWake yard shed cause => execShedWake_keeps hk yard shed cause
  | .wakeComplete yard shed => execWakeComplete_keeps hk yard shed
  | .yardRailInterval yard watts => execYardRailInterval_keeps hk yard watts
  | .staggerArm o data => execStaggerArm_keeps hk o data
  | .staggerSlotReached => execStaggerSlotReached_keeps hk
  | .nextevWrite o data => execNextevWrite_keeps hk o data
  | .lshedAssert => execLshedAssert_keeps hk
  | .lreq o data => execLreq_keeps hk o data
  | .loadShedEnd => execLoadShedEnd_keeps hk
  | .feedChange feedB present rideThrough => execFeedChange_keeps hk feedB present rideThrough
  | .thmClkWrite o data => execThmClkWrite_keeps hk o data
  | .droopDetect yard shed deep => execDroopDetect_keeps hk yard shed deep
  | .droopRecovery yard shed => execDroopRecovery_keeps hk yard shed
  | .sensorSample sheds supplies => execSensorSample_keeps hk sheds supplies
  | .throttleStep yard shed up => execThrottleStep_keeps hk yard shed up
  | .tripRailOff => execTripRailOff_keeps hk
  | .coreRailTrip yard => execCoreRailTrip_keeps hk yard
  | .trackRailTrip yard => execTrackRailTrip_keeps hk yard
  | .remapFault u => execRemapFault_keeps hk u
  | .remapRun => execRemapRun_keeps hk
  | .remapComplete => execRemapComplete_keeps hk
  | .spareRetirement u => execSpareRetirement_keeps hk u
  | .lungeStart o data => execLungeStart_keeps hk o data
  | .lungeComplete r => execLungeComplete_keeps hk r
  | .studbookCommit r => execStudbookCommit_keeps hk r
  | .lifeUpdate hours hourly => execLifeUpdate_keeps hk hours hourly
  | .attest internal => execAttest_keeps hk internal
  | .keyreg sigOk => execKeyreg_keeps hk sigOk
  | .sbread internal => execSbread_keeps hk internal
  | .suspect => execSuspect_keeps hk
  | .lungeset img => execLungeset_keeps hk img
  | .groomStart g => execGroomStart_keeps hk g
  | .firmwareRecoveryImage last img => execFirmwareRecoveryImage_keeps hk last img
  | .track o auto hsrc => execTrack_keeps hk o auto hsrc
  | .core o auto hsrc => execCore_keeps hk o auto hsrc
  | .clocks o auto hsrc => execClocks_keeps hk o auto hsrc
  | .bist o auto hsrc => execBist_keeps hk o auto hsrc
  | .remap o auto hsrc => execRemap_keeps hk o auto hsrc
  | .loft o auto hsrc => execLoft_keeps hk o auto hsrc
  | .ports o auto hsrc => execPorts_keeps hk o auto hsrc
  | .hostler o auto hsrc => execHostler_keeps hk o auto hsrc
  | .ready o auto hsrc => execReady_keeps hk o auto hsrc
  | .bootStepComplete r => execBootStepComplete_keeps hk r
  | .cold o => execCold_keeps hk o
  | .warm o => execWarm_keeps hk o
  | .resetPin low => execResetPin_keeps hk low
  | .powerOn feedB => execPowerOn_keeps hk feedB
  | .groomLock o data => execGroomLock_keeps hk o data
  | .i3cTransaction op => execI3cTransaction_keeps hk op
  | .extest drive => execExtest_keeps hk drive
  | .idcode => execIdcode_keeps hk
  | .samplePreload preload => execSamplePreload_keeps hk preload
  | .bypass => execBypass_keeps hk
  | .tapReset => execTapReset_keeps hk
  | .rekeyRetry port => execRekeyRetry_keeps hk port
  | .operatorImageLoad img => execOperatorImageLoad_keeps hk img
  | .i3cCcc ccc => execI3cCcc_keeps hk ccc
  | .ballastRunOut sid => execBallastRunOut_keeps hk sid

/-- The canonical form and the range of the thermometers do not look at the queue. -/
theorem Canonical.withPending {s : State} (hs : Canonical s) (q : List Instr) : Canonical { s with pending := q } := by
  obtain ⟨⟩ := hs
  constructor <;> assumption

theorem ArbInRange.withPending {s : State} (ha : ArbInRange s) (q : List Instr) : ArbInRange { s with pending := q } :=
  ⟨ha.wf, ha.bound⟩

theorem exec_completes {i : Instr} {s : State} (hs : Canonical s) (ha : ArbInRange s) (hw : Instr.wf i = true) :
    ∃ t, exec i s = .next t ∧ Keeps s t := by
  obtain ⟨t, ht⟩ := exec_answers hw s
  have hkeeps : OutKeeps s (exec i s) := exec_keeps (Keeps.self hs ha) i
  rw [ht] at hkeeps
  exact ⟨t, ht, hkeeps⟩

/-- A step answers a next state, and takes the front command off the queue. -/
theorem step_completes {s : State} (hs : Canonical s) (ha : ArbInRange s) (hq : QueueWf s) :
    ∃ t, step s = .next t ∧ t.pending = s.pending.tail := by
  cases hp : s.pending with
  | nil =>
    refine ⟨tick s, by rw [step, hp], ?_⟩
    exact (tick_keeps (Keeps.self hs ha)).pending.trans hp
  | cons c r =>
    have hc : Instr.wf c = true := hq c (hp ▸ List.mem_cons_self)
    obtain ⟨t, ht, hkeeps⟩ := exec_completes (hs.withPending r) (ha.withPending r) hc
    exact ⟨t, by rw [step, hp]; exact ht, hkeeps.pending⟩

/-- What is left of a queue of commands is a queue of commands. -/
theorem QueueWf.of_tail {s t : State} (hq : QueueWf s) (ht : t.pending = s.pending.tail) : QueueWf t :=
  fun c hc => hq c (List.mem_of_mem_tail (ht ▸ hc))

end Sys2Proof.Machine

namespace Sys2Proof.Proofs
open Sys2Proof Sys2Proof.Machine

/-- Settles O7: a command by its answer and what it keeps, a term that is none by its list operand, and a step by the queue. -/
theorem everyCommandCompletes : Obligations.EveryCommandCompletes := by
  refine ⟨fun i s hs ha hw => ?command, fun i s hw => exec_of_not_wf hw s, fun s hs ha hq => ?step⟩
  case command =>
    obtain ⟨t, ht, hkeeps⟩ := exec_completes hs ha hw
    exact ⟨t, ht, hkeeps.pending⟩
  case step =>
    obtain ⟨t, ht, htail⟩ := step_completes hs ha hq
    exact ⟨t, ht, htail, hq.of_tail htail⟩

end Sys2Proof.Proofs
end

section
/-! PROOFS. The track (R151, R153-R157, R163, R165, R169-R171, R215): the way of a header by where it stands, one equation for each case of
a hop, the siding link that takes a packet, and from these O42. -/

namespace Sys2Proof.Machine

/-! The way of a header (R154-R156, R163, R171). -/

/-- Across the link in direction `dir` to the router `n`: into its input, or discarded where its yard has no track rail (R171). -/
def crossTo (s : State) (n dir : Nat) (esc : Bool) : Next :=
  if (s.yard (yardOf n)).track then .hop ⟨n, arriveSide dir, esc⟩ else .discard

section
variable {s : State} {m : TrackMsg}

theorem headerNext_of_ejects (hd : m.head = m.packet.dest) (hl : leavesAt m.packet = none) (a : Option (Fin 4)) :
    headerNext s m a = some .eject := by
  simp only [headerNext, hd, hl, if_true]

theorem headerNext_of_leaves {port : Nat} (hd : m.head = m.packet.dest) (hl : leavesAt m.packet = some port) (a : Option (Fin 4)) :
    headerNext s m a = some (.siding port) := by
  simp only [headerNext, hd, hl, if_true]

theorem header_not_unreachable
    (hu : yardOf m.head = yardOf m.packet.dest ∨ bitOf ((routeTable s m.epoch).entry m.head (yardOf m.packet.dest)) 6 = false) :
    ¬ (yardOf m.head ≠ yardOf m.packet.dest ∧ bitOf ((routeTable s m.epoch).entry m.head (yardOf m.packet.dest)) 6 = true) :=
  fun ⟨hy, h6⟩ => hu.elim hy fun h => Bool.false_ne_true (h.symm.trans h6)

section
variable (hd : m.head ≠ m.packet.dest)
include hd

/-- An entry with UNR, in another yard than the destination's, discards (R171). -/
theorem headerNext_of_unreachable (hy : yardOf m.head ≠ yardOf m.packet.dest)
    (hu : bitOf ((routeTable s m.epoch).entry m.head (yardOf m.packet.dest)) 6 = true) (a : Option (Fin 4)) :
    headerNext s m a = some .discard := by
  rw [headerNext, if_neg hd, if_pos ⟨hy, hu⟩]

variable
  (hu : yardOf m.head = yardOf m.packet.dest ∨ bitOf ((routeTable s m.epoch).entry m.head (yardOf m.packet.dest)) 6 = false)
  {dir n : Nat} (hn : neighbour m.head dir = some n)
include hu hn

/-- VC0 and VC2 go X then Y in the destination's yard and the table's direction before it (R154, R156). -/
theorem headerNext_of_plain (hvc : m.vc ≠ 1) (hdir : plainDir s m.head m.packet.dest m.epoch = some dir) :
    headerNext s m none = some (crossTo s n dir false) := by
  simp only [headerNext, if_neg hd, if_neg (header_not_unreachable hu), if_neg hvc, hdir, hn]
  rw [crossTo, apply_ite some]

/-- VC1 takes an adaptive output that is open (R155). -/
theorem headerNext_of_adaptive {f : Fin 4} (hf : f.val = dir) (hvc : m.vc = 1)
    (hopen : adaptiveOpen s m.head m.packet.dest m.epoch dir = true) :
    headerNext s m (some f) = some (crossTo s n dir false) := by
  subst hf
  simp only [headerNext, if_neg hd, if_neg (header_not_unreachable hu), if_pos hvc, if_pos hopen, hn]
  rw [crossTo, apply_ite some]

end
end

/-! In-flight counts (R165, R239). -/

/-- A yard's counts with the packet's header in it. -/
def Packet.enters (p : Packet) (r : Yard) : Yard :=
  if p.isLoft then { r with lwcnt := r.lwcnt + 1 } else if p.epoch then { r with cnt1 := r.cnt1 + 1 } else { r with cnt0 := r.cnt0 + 1 }

/-- A yard's counts without the packet, whose last flit has left it. -/
def Packet.leaves (p : Packet) (r : Yard) : Yard :=
  if p.isLoft then { r with lwcnt := r.lwcnt - 1 } else if p.epoch then { r with cnt1 := r.cnt1 - 1 } else { r with cnt0 := r.cnt0 - 1 }

/-- The counts of the yards when the header of `m` goes on into the yard `y`: a message of one flit leaves its yard with it. -/
def headerCounts (s : State) (m : TrackMsg) (y : Nat) : GMap Yard :=
  if y = yardOf m.head then s.yards
  else if m.pos.length = 1 then gmod (gmod s.yards y m.packet.enters) (yardOf m.head) m.packet.leaves
  else gmod s.yards y m.packet.enters

/-! The hop (R151, R153, R157, R165, R170). -/

theorem vc0_not_before {s : State} {vc : Nat} {h : Hop} (hw : vc ≠ 0 → vc0Waits s h = false) :
    (decide (vc ≠ 0) && vc0Waits s h) = false := by
  by_cases hvc : vc = 0
  · rw [decide_eq_false (not_not_intro hvc), Bool.false_and]
  · rw [hw hvc, Bool.and_false]

section
variable {s : State} {m : TrackMsg} {p : Nat} {x : Hop} (hm : trackMsg s m.id = some m) (hp : p ≠ gone) (hx : m.path[p]? = some x)
  (ht : (s.yard (yardOf x.router)).track = true)
include hm hp hx ht

/-- A header that is moving, in a router with its track rail, takes its step. -/
theorem flitHop_header (hfate : m.fate = .moving) (h0 : m.pos[0]? = some p) (adaptive : Option (Fin 4)) (ok : Bool) :
    flitHop s m.id 0 adaptive ok = headerHop s m adaptive ok := by
  simp only [flitHop, hm, h0, hx, ht, Bool.not_true, Bool.false_eq_true, if_false, if_neg hp, if_true, if_pos hfate]

/-- A flit behind its header, with the flit before it further along the path, takes its step. -/
theorem flitHop_body {i q : Nat} {b : Hop} (hi : 0 < i) (hpos : m.pos[i]? = some p) (hq : m.pos[i - 1]? = some q) (hpq : p < q)
    (hb : m.path[p + 1]? = some b) (adaptive : Option (Fin 4)) (ok : Bool) :
    flitHop s m.id i adaptive ok = bodyHop s m i p ok := by
  obtain ⟨hlen, -⟩ := List.getElem?_eq_some_iff.1 hb
  simp only [flitHop, hm, hpos, hx, ht, Bool.not_true, Bool.false_eq_true, if_false, if_neg hp, if_neg (Nat.ne_of_gt hi), hq,
    if_neg (Nat.not_le.2 hpq), if_pos hlen]

end

section
variable {s : State} {m : TrackMsg} {adaptive : Option (Fin 4)} (hb : behindOther s m = false)
include hb

theorem headerHop_of_discard (hn : headerNext s m adaptive = some .discard) (ok : Bool) :
    headerHop s m adaptive ok = discardAt (countUnreach s (yardOf m.head)) m.id := by
  simp only [headerHop, hb, hn, Bool.false_eq_true, if_false]

theorem headerHop_of_eject (hn : headerNext s m adaptive = some .eject) (he : gget (s.stall m.packet.dest).qu.ej m.vc = [])
    (ok : Bool) :
    headerHop s m adaptive ok =
      modQu (modTrack s m.id fun k => { k with pos := k.pos.set 0 gone, refusals := 0 }) m.packet.dest fun u =>
        { u with ej := gset u.ej m.vc [m.id] } := by
  simp only [headerHop, hb, hn, he, List.isEmpty_nil, Bool.false_eq_true, if_true, if_false]
  rfl

section
variable {h : Hop} (hn : headerNext s m adaptive = some (.hop h)) (hr : hasRoom s h m.vc m.inbound = true)
  (hl : linkTaken s m.id m.vc h.router h.side = false) (hw : m.vc ≠ 0 → vc0Waits s h = false)
include hn hr hl hw

theorem headerHop_of_refused (href : m.refusals < 7) :
    headerHop s m adaptive false =
      modTrack (modYard s (yardOf h.router) fun r => { r with retries := satAdd 32 r.retries 1 }) m.id fun k =>
        { k with refusals := k.refusals + 1 } := by
  simp only [headerHop, hb, hn, hr, hl, vc0_not_before hw, Bool.not_true, Bool.not_false, Bool.or_self, Bool.false_eq_true, if_true,
    if_false, refuseFlit, href]

theorem headerHop_of_crossed :
    headerHop s m adaptive true =
      { requeue s { m with path := m.path ++ [h], pos := m.pos.set 0 m.path.length, refusals := 0 } with
        yards := headerCounts s m (yardOf h.router) } := by
  simp only [headerHop, hb, hn, hr, hl, vc0_not_before hw, Bool.not_true, Bool.or_self, Bool.false_eq_true, if_false, headerCounts]
  by_cases hy : yardOf h.router = yardOf m.head
  · simp only [hy, ne_eq, not_true_eq_false, and_false, if_true, if_false]
    rfl
  · by_cases hlen : m.pos.length = 1
    · simp only [hy, hlen, ne_eq, not_false_eq_true, and_self, if_true, if_false]
      rfl
    · simp only [hy, hlen, ne_eq, not_false_eq_true, false_and, if_true, if_false]
      rfl

end
end

theorem bodyHop_of_crossed {s : State} {m : TrackMsg} {i p : Nat} {a b : Hop} (ha : m.path[p]? = some a) (hb : m.path[p + 1]? = some b)
    (hr : hasRoom s b m.vc m.inbound = true) (hw : m.vc ≠ 0 → vc0Waits s b = false) :
    bodyHop s m i p true =
      { modTrack s m.id (fun _ => { m with pos := m.pos.set i (p + 1), refusals := 0 }) with
        yards := if i + 1 = m.pos.length ∧ yardOf a.router ≠ yardOf b.router then gmod s.yards (yardOf a.router) m.packet.leaves
          else s.yards } := by
  simp only [bodyHop, ha, hb, hr, vc0_not_before hw, Bool.not_true, Bool.or_self, Bool.false_eq_true, if_false]
  split <;> rfl

/-! Sidings (R170, R215). -/

/-- The links of a port's siding that do not refuse a packet's header. -/
def sidingTakers (s : State) (port : Nat) (p : Packet) : List Nat :=
  (List.range 28).filter fun j => !injectBusy s (sidingStall port j) 5 p.vc p.srcx

theorem mem_sidingTakers {s : State} {port : Nat} {p : Packet} {j : Nat} :
    j ∈ sidingTakers s port p ↔ j < 28 ∧ injectBusy s (sidingStall port j) 5 p.vc p.srcx = false := by
  simp only [sidingTakers, List.mem_filter, List.mem_range, Bool.not_eq_true']

/-- The first number is nearer than the second by the distance `d`, or as near and no higher. -/
def NoFarther (d : Nat → Nat) (j k : Nat) : Prop := d j < d k ∨ d j = d k ∧ j ≤ k

theorem NoFarther.refl (d : Nat → Nat) (j : Nat) : NoFarther d j j := .inr ⟨rfl, Nat.le_refl j⟩

theorem NoFarther.trans {d : Nat → Nat} {i j k : Nat} (hij : NoFarther d i j) (hjk : NoFarther d j k) : NoFarther d i k := by
  unfold NoFarther at *
  omega

/-- The better of two links: the second where it is nearer. -/
def nearer (d : Nat → Nat) : Option Nat → Nat → Option Nat
  | none, j => some j
  | some b, j => if d j < d b then some j else some b

theorem sidingLink_eq_foldl (s : State) (port : Nat) (p : Packet) :
    sidingLink s port p = (sidingTakers s port p).foldl (nearer fun j => edgeDist port j p.dest) none := by
  rw [sidingLink, ← sidingTakers]
  congr 1
  funext best j
  cases best <;> rfl

/-- Over rising numbers the better one, kept from the left, is no farther than any. -/
theorem foldl_nearer {d : Nat → Nat} {l : List Nat} {b j : Nat} (hl : (b :: l).Pairwise (· < ·))
    (h : l.foldl (nearer d) (some b) = some j) : j ∈ b :: l ∧ ∀ k, k ∈ b :: l → NoFarther d j k := by
  induction l generalizing b with
  | nil =>
    obtain rfl := Option.some.inj h
    exact ⟨List.mem_cons_self, List.forall_mem_singleton.2 (NoFarther.refl d b)⟩
  | cons x l ih =>
    obtain ⟨hb, hxl⟩ := List.pairwise_cons.1 hl
    obtain ⟨hbx, hbl⟩ := List.forall_mem_cons.1 hb
    rw [List.foldl_cons, nearer] at h
    by_cases hd : d x < d b
    · rw [if_pos hd] at h
      obtain ⟨hj, hmin⟩ := ih hxl h
      have hjb : NoFarther d j b := (hmin x List.mem_cons_self).trans (.inl hd)
      exact ⟨List.mem_cons_of_mem b hj, List.forall_mem_cons.2 ⟨hjb, hmin⟩⟩
    · rw [if_neg hd] at h
      obtain ⟨hj, hmin⟩ := ih (List.pairwise_cons.2 ⟨hbl, hxl.of_cons⟩) h
      obtain ⟨hjb, hjl⟩ := List.forall_mem_cons.1 hmin
      have hx : NoFarther d b x := by
        unfold NoFarther
        omega
      exact ⟨((List.sublist_cons_self x l).cons_cons b).mem hj,
        List.forall_mem_cons.2 ⟨hjb, List.forall_mem_cons.2 ⟨hjb.trans hx, hjl⟩⟩⟩

/-- The link that takes a header is the nearest to its destination, the lower on a tie (R170). -/
theorem sidingLink_nearest {s : State} {port : Nat} {p : Packet} {j : Nat} (h : sidingLink s port p = some j) :
    j ∈ sidingTakers s port p ∧ ∀ k, k ∈ sidingTakers s port p → NoFarther (fun j => edgeDist port j p.dest) j k := by
  have hrising : (sidingTakers s port p).Pairwise (· < ·) := List.pairwise_lt_range.filter _
  rw [sidingLink_eq_foldl] at h
  cases hl : sidingTakers s port p with
  | nil =>
    rw [hl] at h
    cases h
  | cons b l =>
    rw [hl] at h hrising
    exact foldl_nearer hrising h

/-- A packet stamped with an epoch. -/
def Packet.stamped (epoch : Bool) : Packet → Packet
  | .msg h pl => .msg { h with epoch := epoch } pl
  | .loft h pl => .loft { h with epoch := epoch } pl

section
variable {s : State} {port : PortId} {j : Nat}

theorem execSidingInjection_unit_of_link {p : Packet} {rest : List Packet} (ho : (s.port port).outbox = p :: rest)
    (hw : p.isLoft = true → writesHeld s (yardOf p.dest) = false) (hl : sidingLink s port (p.stamped s.sec.inj) = some j) :
    execSidingInjection port .unit s =
      .next (modPort (inject s (p.stamped s.sec.inj) (sidingStall port j) 5) port fun q => { q with outbox := rest }) := by
  have hheld : ¬ (p.isLoft && writesHeld s (yardOf p.dest)) = true := fun h => by
    obtain ⟨hloft, hheld⟩ := Bool.and_eq_true_iff.1 h
    exact Bool.false_ne_true ((hw hloft).symm.trans hheld)
  cases p <;>
  · rw [Packet.stamped] at hl
    simp only [execSidingInjection, ho, if_neg hheld, injectSiding, hl, Option.map_some]
    rfl

/-- The message that a Hostler cluster sends, with the generation `g` (R215). -/
def ringPacket (m : UnitMsg) (g : Nat) (epoch : Bool) : Packet :=
  let len := ceilDiv m.payload.length 16
  .msg { dest := m.dest, tag := m.tag.toNat, vc := m.vc, gen := g, epoch := epoch, f := false, fcount := 0, len := len,
         src := 256 + m.cluster, srcx := true, rly := false } (padTo (16 * len) m.payload)

theorem execSidingInjection_message_of_link {m : UnitMsg} {g : Nat} (hg : ringGen s = some g) (hlen : m.payload.length ≤ 1024)
    (hl : sidingLink s port (ringPacket m g s.sec.inj) = some j) :
    execSidingInjection port (.message m) s = .next (inject s (ringPacket m g s.sec.inj) (sidingStall port j) 5) := by
  rw [ringPacket] at hl
  simp only [execSidingInjection, hg, if_pos hlen, injectSiding, hl, Option.map_some]
  rfl

end

end Sys2Proof.Machine

namespace Sys2Proof.Proofs
open Sys2Proof Sys2Proof.Machine

/-- Settles O42: a flit by the equation of its step, the way of a header by where it stands, a siding by the nearest of the links that
take the packet. -/
theorem trackMoves : Obligations.TrackMoves := by
  refine ⟨fun s m p x adaptive ok hm hfate h0 hp hx ht hb => ?hop, fun s m => ?way, fun s port j p hl => ?nearest,
    fun s port => ⟨fun p rest j ho hw hl => ?unit, fun m g j hg hlen hl => ?message⟩⟩
  case hop =>
    have hexec {ok : Bool} {t : State} (h : headerHop s m adaptive ok = t) : exec (.flitHop m.id 0 adaptive ok) s = .next t :=
      congrArg _ ((flitHop_header hm hp hx ht hfate h0 adaptive ok).trans h)
    refine ⟨fun hn => hexec (headerHop_of_discard hb hn ok), fun hn he => hexec (headerHop_of_eject hb hn he ok),
      fun h hn hr hl hw => ⟨?crossed, ?refused⟩,
      fun i p q a b hi hpos hq hpq hp ha hb ht hr hw =>
        congrArg _ ((flitHop_body hm hp ha ht hi hpos hq hpq hb adaptive true).trans (bodyHop_of_crossed ha hb hr hw))⟩
    case crossed =>
      rintro rfl
      exact hexec (headerHop_of_crossed hb hn hr hl hw)
    case refused =>
      rintro rfl href
      exact hexec (headerHop_of_refused hb hn hr hl hw href)
  case way =>
    refine ⟨fun hd a => ?_, fun hd hy hu => headerNext_of_unreachable hd hy hu, fun hd hu dir n hn =>
      ⟨headerNext_of_plain hd hu hn, fun f => headerNext_of_adaptive hd hu hn⟩⟩
    cases hl : leavesAt m.packet with
    | none => exact headerNext_of_ejects hd hl a
    | some port => exact headerNext_of_leaves hd hl a
  case nearest =>
    obtain ⟨hj, hmin⟩ := sidingLink_nearest hl
    exact ⟨mem_sidingTakers.1 hj, fun k hk => hmin k (mem_sidingTakers.2 hk)⟩
  case unit => cases p <;> exact execSidingInjection_unit_of_link ho hw hl
  case message => exact execSidingInjection_message_of_link hg hlen hl

end Sys2Proof.Proofs
end

section
/-! PROOFS. The commands of SEC.CTRL on a place of the tack rack, and the ends of a load, a reload and an arm (R207-R213, R226, R230,
R232): what the controller does with each command, one equation for each outcome, and from these O44. -/

namespace Sys2Proof.Machine

/-! The place a command names (R208-R210). -/

/-- The place rests: LOADED, ENDED or ABORTED, and no arm of it is under way. -/
def PlaceRests (s : State) (p : Nat) : Prop :=
  ((s.place p).st = 2 ∨ (s.place p).st = 5 ∨ (s.place p).st = 7) ∧ s.sec.arming ≠ some p

theorem resting_iff {s : State} {p : Nat} : resting s p = true ↔ PlaceRests s p := by
  simp only [resting, PlaceRests, Bool.and_eq_true, decide_eq_true_eq]

section
variable {s : State} {p : Nat}

theorem takeLoad_of_free (h : (s.place p).st = 0 ∨ PlaceRests s p) :
    takeLoad p s = modPlace s p fun q => { (q.emptied q.cmderr) with
      st := 1, source := s.sec.loadsrc, rld := decide (s.rm.running ≠ none),
      rldFor := match s.rm.running with | some r => r.stalls | none => [] } := by
  have hcond : (resting s p || decide ((s.place p).st = 0)) = true := by
    rwa [Bool.or_comm, Bool.or_eq_true, decide_eq_true_eq, resting_iff]
  have hremap : s.rm.running.isSome = decide (s.rm.running ≠ none) := by cases s.rm.running <;> rfl
  rw [← hremap]
  exact if_pos hcond

theorem takeLoad_of_taken (h : ¬ ((s.place p).st = 0 ∨ PlaceRests s p)) : takeLoad p s = cmdErr s p 1 := by
  have hcond : ¬ (resting s p || decide ((s.place p).st = 0)) = true := by
    rwa [Bool.or_comm, Bool.or_eq_true, decide_eq_true_eq, resting_iff]
  exact if_neg hcond

theorem takeEvict_of_rests (h : PlaceRests s p) : takeEvict p s = modPlace s p fun q => q.emptied q.cmderr :=
  if_pos (resting_iff.2 h)

theorem takeEvict_of_refused (h : ¬ PlaceRests s p) : takeEvict p s = cmdErr s p 1 := if_neg (mt resting_iff.1 h)

/-- A place is reloaded when it rests, a reload of it is due and none of it runs. -/
theorem reload_due_iff :
    (resting s p && (s.place p).rld && !(s.place p).rldRun) = true ↔
      PlaceRests s p ∧ (s.place p).rld = true ∧ (s.place p).rldRun = false := by
  rw [Bool.and_eq_true, Bool.and_eq_true, resting_iff, Bool.not_eq_true', and_assoc]

theorem takeReload_of_due (h : PlaceRests s p ∧ (s.place p).rld = true ∧ (s.place p).rldRun = false) :
    takeReload p s = modPlace s p fun q => { q with rldRun := true } := if_pos (reload_due_iff.2 h)

theorem takeReload_of_refused (h : ¬ (PlaceRests s p ∧ (s.place p).rld = true ∧ (s.place p).rldRun = false)) :
    takeReload p s = cmdErr s p 1 := if_neg (mt reload_due_iff.1 h)

theorem takeDisarm_of_armed (h : (s.place p).st = 3 ∧ s.sec.openOut = false) : takeDisarm p s = disarmPlace s p :=
  if_pos (by rwa [Bool.not_eq_true'])

theorem takeDisarm_of_refused (h : ¬ ((s.place p).st = 3 ∧ s.sec.openOut = false)) : takeDisarm p s = cmdErr s p 1 :=
  if_neg (by rwa [Bool.not_eq_true'])

/-! ARM: its refusals in the order 1, 2, 7, 6 of their codes (R210-R212). -/

/-- The place is being armed for the next generation (R212). -/
def armBegun (s : State) (p : Nat) (auto : Bool) : State :=
  let t := modPlace s p fun q => { q with gen := (s.sec.cg + 1) % 4 }
  { t with sec := { t.sec with arming := some p, auto := auto } }

theorem takeArm_of_not_rests (h : ¬ PlaceRests s p) {auto : Bool} : takeArm p auto s = cmdErr s p 1 := by
  have hrest : resting s p = false := eq_false_of_ne_true (mt resting_iff.1 h)
  simp only [takeArm, hrest, Bool.not_false, if_true]

/-- No place is ARMED or being armed. -/
theorem noArm_iff : ((armedPlace s).isSome || s.sec.arming.isSome) = false ↔ armedPlace s = none ∧ s.sec.arming = none := by
  simp only [Bool.or_eq_false_iff, Option.isSome_eq_false_iff, Option.isNone_iff_eq_none]

section
variable (hr : PlaceRests s p)
include hr

theorem takeArm_of_other_armed (h : ¬ (armedPlace s = none ∧ s.sec.arming = none)) {auto : Bool} :
    takeArm p auto s = cmdErr s p 2 := by
  have hother := eq_true_of_ne_false (mt noArm_iff.1 h)
  simp only [takeArm, resting_iff.2 hr, hother, Bool.not_true, Bool.false_eq_true, if_false, if_true]

variable (hn : armedPlace s = none ∧ s.sec.arming = none)
include hn

theorem takeArm_of_reload_due (h : (s.place p).rld = true) {auto : Bool} : takeArm p auto s = cmdErr s p 7 := by
  simp only [takeArm, resting_iff.2 hr, noArm_iff.2 hn, h, Bool.not_true, Bool.false_eq_true, if_false, if_true]

variable (hrld : (s.place p).rld = false)
include hrld

theorem takeArm_of_undrained (he : (s.place p).epsw = true) (hd : s.sec.drained = false) {auto : Bool} :
    takeArm p auto s = cmdErr s p 6 := by
  simp only [takeArm, resting_iff.2 hr, noArm_iff.2 hn, hrld, he, hd, Bool.not_true, Bool.not_false, Bool.and_self,
    Bool.false_eq_true, if_false, if_true]

theorem takeArm_of_free (hd : (s.place p).epsw = true → s.sec.drained = true) {auto : Bool} :
    takeArm p auto s = armEndsLunge (armBegun s p auto) p := by
  have hdrain : ((s.place p).epsw && !s.sec.drained) = false := by
    rw [Bool.and_eq_false_imp]
    exact fun he => congrArg not (hd he)
  simp only [takeArm, resting_iff.2 hr, noArm_iff.2 hn, hrld, hdrain, Bool.not_true, Bool.false_eq_true, if_false]
  rfl

end

end

/-- The end of a lunge by an arm does not look at the last answer. -/
theorem armEndsLunge_answer (s : State) (p : Nat) (r : Resp) :
    armEndsLunge { s with resp := r } p = { armEndsLunge s p with resp := r } := by
  have hbusy (k : Nat) : anyBusy { s with resp := r } p k = anyBusy s p k := rfl
  simp only [armEndsLunge, hbusy]
  split
  · split <;> rfl
  · rfl

/-! A command of SEC.CTRL (R226). -/

/-- The fields of a write of SEC.CTRL with GO = 1. -/
theorem secCtrl_fields {cmd place : Nat} (hc : cmd < 8) (hp : place < 8) (auto : Bool) :
    bitsOf (cmd + place * 8 + b2n auto * 64 + 256) 2 0 = cmd ∧ bitsOf (cmd + place * 8 + b2n auto * 64 + 256) 5 3 = place ∧
      bitOf (cmd + place * 8 + b2n auto * 64 + 256) 6 = auto ∧ bitOf (cmd + place * 8 + b2n auto * 64 + 256) 8 = true := by
  have hflag : b2n auto < 2 := by cases auto <;> decide
  have hauto : auto = decide (b2n auto = 1) := by cases auto <;> rfl
  refine ⟨?_, ?_, ?_, ?_⟩
  · simp only [bitsOf, Nat.shiftRight_eq_div_pow]
    omega
  · simp only [bitsOf, Nat.shiftRight_eq_div_pow]
    omega
  · refine Eq.trans ?_ hauto.symm
    rw [bitOf, Nat.testBit_eq_decide_div_mod_eq, decide_eq_decide]
    omega
  · rw [bitOf, Nat.testBit_eq_decide_div_mod_eq, decide_eq_true_eq]
    omega

/-- SEC.CTRL shows the command just written. -/
def secKept (s : State) (cmd place : Nat) (auto : Bool) : State :=
  { s with sec := { s.sec with cmd := cmd, cplace := place, cauto := auto } }

/-- An authenticated command is kept in SEC.CTRL, taken by the controller and answered with STATUS 0. -/
theorem secCommand_of_authenticated {o : Origin} (ho : Origin.auth o = true) {cmd place : Nat} (hc : cmd < 8) (hp : place < 8)
    {auto : Bool} {s t : State} (h : takeSec cmd place auto (secKept s cmd place auto) = t) :
    secCommand o cmd place auto s = .next { t with resp := ⟨0, 0, []⟩ } := by
  obtain ⟨hcmd, hplace, hauto, hgo⟩ := secCtrl_fields hc hp auto
  rw [secCommand, asAuth_of_authenticated ho, writeSecCtrl, hcmd, hplace, hauto, hgo, ← h]
  rfl

section
variable {p : Nat} (hp : p ≠ 7) (auto : Bool) (s : State)
include hp

theorem takeSec_load : takeSec 1 p auto s = takeLoad p s := by simp [takeSec, hp]
theorem takeSec_arm : takeSec 2 p auto s = takeArm p auto s := by simp [takeSec, hp]
theorem takeSec_disarm : takeSec 5 p auto s = takeDisarm p s := by simp [takeSec, hp]
theorem takeSec_evict : takeSec 6 p auto s = takeEvict p s := by simp [takeSec, hp]
theorem takeSec_reload : takeSec 7 p auto s = takeReload p s := by simp [takeSec, hp]

end

section
variable {o : Origin} (ho : Origin.auth o = true) (p : PlaceNo) {s t : State}
include ho

theorem exec_load_of_take (h : takeLoad p (secKept s 1 p false) = t) :
    exec (.load o p) s = .next { t with resp := ⟨0, 0, []⟩ } :=
  secCommand_of_authenticated ho (by decide) (by omega) ((takeSec_load (by omega) false _).trans h)

theorem exec_arm_of_take {auto : Bool} (h : takeArm p auto (secKept s 2 p auto) = t) :
    exec (.arm o p auto) s = .next { t with resp := ⟨0, 0, []⟩ } :=
  secCommand_of_authenticated ho (by decide) (by omega) ((takeSec_arm (by omega) auto _).trans h)

/-- An arm that nothing refuses begins, and ends a lunge of a shed that it makes busy. -/
theorem exec_arm_of_free {auto : Bool} (hr : PlaceRests s p) (hn : armedPlace s = none ∧ s.sec.arming = none)
    (hrld : (s.place p).rld = false) (hd : (s.place p).epsw = true → s.sec.drained = true) :
    exec (.arm o p auto) s = .next (armEndsLunge { armBegun (secKept s 2 p auto) p auto with resp := ⟨0, 0, []⟩ } p) :=
  (exec_arm_of_take ho p (takeArm_of_free (s := secKept s 2 p auto) hr hn hrld hd)).trans
    (congrArg _ (armEndsLunge_answer (armBegun (secKept s 2 p auto) p auto) p _).symm)

theorem exec_disarm_of_take (h : takeDisarm p (secKept s 5 p false) = t) :
    exec (.disarm o p) s = .next { t with resp := ⟨0, 0, []⟩ } :=
  secCommand_of_authenticated ho (by decide) (by omega) ((takeSec_disarm (by omega) false _).trans h)

theorem exec_evict_of_take (h : takeEvict p (secKept s 6 p false) = t) :
    exec (.evict o p) s = .next { t with resp := ⟨0, 0, []⟩ } :=
  secCommand_of_authenticated ho (by decide) (by omega) ((takeSec_evict (by omega) false _).trans h)

theorem exec_reload_of_take (h : takeReload p (secKept s 7 p false) = t) :
    exec (.reload o p) s = .next { t with resp := ⟨0, 0, []⟩ } :=
  secCommand_of_authenticated ho (by decide) (by omega) ((takeSec_reload (by omega) false _).trans h)

end

/-! The rack writes of a load (R207, R208). -/

theorem shedInYard_lt (sid : Nat) : shedInYard sid < 64 := by
  simp only [shedInYard]
  omega

theorem shedOf_lt (sid : Nat) : shedOf sid < 4096 := by
  simp only [shedOf, shedKey, yardOf, shedInYard, xOf, yOf]
  omega

theorem stallInShed_lt (sid : Nat) : stallInShed sid < 256 := by
  simp only [stallInShed]
  omega

/-- The stall of this number in this shed is the stall itself (R4). -/
theorem sidOf_shedOf {sid : Nat} (h : sid < 1048576) : sidOf (shedOf sid) (stallInShed sid) = sid := by
  have hinyard := shedInYard_lt sid
  have hxlt : xOf sid < 1024 := Nat.mod_lt _ (by decide)
  have hyard : shedOf sid / 64 = yardOf sid := by
    simp only [shedOf, shedKey]
    omega
  have hshed : shedOf sid % 64 = shedInYard sid := by
    simp only [shedOf, shedKey]
    omega
  have hx : yardOf sid % 8 * 128 + shedInYard sid % 8 * 16 + stallInShed sid % 16 = xOf sid := by
    simp only [yardOf, shedInYard, stallInShed]
    omega
  have hy : yardOf sid / 8 * 128 + shedInYard sid / 8 * 16 + stallInShed sid / 16 = yOf sid := by
    simp only [yardOf, shedInYard, stallInShed]
    omega
  simp only [sidOf, hyard, hshed, hx, hy, xOf, yOf]
  omega

/-- A stall of an ABSENT shed is among those that the distributor leaves out. -/
theorem mem_absentStalls {s : State} {sid : Nat} (h : sid < 1048576) (ha : shedAbsent s (shedOf sid) = true) : sid ∈ absentStalls s :=
  List.mem_flatMap.2 ⟨shedOf sid, List.mem_filter.2 ⟨List.mem_range.2 (shedOf_lt sid), ha⟩,
    List.mem_map.2 ⟨stallInShed sid, List.mem_range.2 (stallInShed_lt sid), sidOf_shedOf h⟩⟩

/-- A stall that the stall map does not list has entry 0. -/
theorem tackMap_dflt (m : Mem) : (tackMap m).dflt = 0 := by
  unfold tackMap Memory.words
  refine List.foldlRecOn (motive := fun g : GMap Word64 => g.dflt = 0) _ _ rfl fun g hg c _ => ?_
  rw [gmod_dflt, hg]

/-- The rack of every present stall is written with its entry of the stall map; those of absent sheds are left alone. -/
theorem rackAll_stall (s : State) (p : Nat) (m : Mem) {sid : Nat} (h : sid < 1048576) :
    (rackAll s p m).stall sid =
      if shedAbsent s (shedOf sid) then s.stall sid else (s.stall sid).racked p m (gget (tackMap m) sid).toNat := by
  simp only [State.stall, rackAll, gget_gupdate]
  split
  · rfl
  · next hk =>
    simp only [List.mem_append, not_or] at hk
    obtain ⟨hlisted, hmapped, hpresent⟩ := hk
    have hcond : ¬ shedAbsent s (shedOf sid) = true := fun ha => hpresent (mem_absentStalls h ha)
    rw [if_neg hcond, gget_of_not_key hlisted, gget_of_not_key hmapped, tackMap_dflt]
    rfl

/-! The end of a load (R208). -/

section
variable {s : State} {p : PlaceNo} (h : (s.place p).st = 1)
include h

theorem execLoadComplete_of_parity :
    execLoadComplete p true s = .next (modPlace (record s 2 (.ring 256)) p fun q => q.emptied 11) := by
  simp only [execLoadComplete, h, ne_eq, not_true_eq_false, if_false, if_true]
  rfl

theorem execLoadComplete_of_failed (hs : tackSource s (s.place p).source = .failed) :
    execLoadComplete p false s = .next (modPlace s p fun q => q.emptied 11) := by
  simp only [execLoadComplete, h, hs, ne_eq, not_true_eq_false, Bool.false_eq_true, if_false]

variable {m : Mem} {size : Nat} (hs : tackSource s (s.place p).source = .ready m size)
include hs

theorem execLoadComplete_of_refused {code : Nat} (hr : tackRefused m size = some code) :
    execLoadComplete p false s = .next (modPlace s p fun q => q.emptied code) := by
  simp only [execLoadComplete, h, hs, hr, ne_eq, not_true_eq_false, Bool.false_eq_true, if_false]

theorem execLoadComplete_of_taken (hr : tackRefused m size = none) :
    execLoadComplete p false s = .next (modPlace (rackAll s p m) p fun q => q.keep m) := by
  simp only [execLoadComplete, h, hs, hr, ne_eq, not_true_eq_false, Bool.false_eq_true, if_false]

end

/-! The end of a reload (R209). -/

/-- The named stalls of present sheds have their racks written from the tack. -/
def rackNamed (s : State) (p : Nat) (m : Mem) : State :=
  { s with stalls := gmodKeys s.stalls ((s.place p).rldFor.filter fun sid => shedAbsent s (shedOf sid) = false)
                       fun sid u => u.racked p m (gget (tackMap m) sid).toNat }

section
variable {s : State} {p : PlaceNo} (h : (s.place p).rldRun = true)
include h

theorem execReloadComplete_of_parity :
    execReloadComplete p true s = .next (modPlace (record s 2 (.ring 256)) p fun q => q.emptied 11) := by
  simp only [execReloadComplete, h, Bool.not_true, Bool.false_eq_true, if_false, if_true]
  rfl

variable {m : Mem} {size : Nat} (hs : tackSource s (s.place p).source = .ready m size)
include hs

/-- The source no longer holds the tack that was loaded. -/
theorem execReloadComplete_of_other (hr : tackRefused m size ≠ none ∨ hdrField m 0xC0 64 ≠ (s.place p).digest) :
    execReloadComplete p false s = .next (modPlace s p fun q => q.emptied 11) := by
  have hother : ((tackRefused m size).isSome || decide (hdrField m 0xC0 64 ≠ (s.place p).digest)) = true := by
    rwa [Bool.or_eq_true, decide_eq_true_eq, Option.isSome_iff_ne_none]
  simp only [execReloadComplete, h, hs, hother, Bool.not_true, Bool.false_eq_true, if_false, if_true]

/-- The source still holds it; the reload stays due while a remap runs. -/
theorem execReloadComplete_of_same (hr : tackRefused m size = none) (hd : hdrField m 0xC0 64 = (s.place p).digest) :
    execReloadComplete p false s = .next (
      if s.rm.running ≠ none then modPlace (rackNamed s p m) p fun q => { q with rldRun := false }
      else modPlace (rackNamed s p m) p fun q => { q with rldRun := false, rld := false, rldFor := [] }) := by
  have hpresent (sid : Nat) : (!shedAbsent s (shedOf sid)) = decide (shedAbsent s (shedOf sid) = false) := by
    cases shedAbsent s (shedOf sid) <;> rfl
  simp only [execReloadComplete, h, hs, hr, hd, Bool.not_true, Option.isSome_none, ne_eq, not_true_eq_false, decide_false, Bool.or_self,
    Bool.false_eq_true, if_false, hpresent, Option.isSome_iff_ne_none]
  rfl

end

/-! The end of an arm (R212, R213, R230). -/

theorem autoStart_of_not_auto {s : State} (h : s.sec.auto = false) : autoStart s = s := by
  unfold autoStart
  split
  · have hsec : { s.sec with auto := false } = s.sec := by rw [← h]
    rw [hsec]
  · simp only [h, Bool.not_false, Bool.true_or, if_true]

/-- The arm that was under way is over. -/
def armOver (s : State) : State := { s with sec := { s.sec with arming := none } }

/-- The outcome of an arm's checks does not depend on the arm's being noted. -/
theorem armFailure_armOver (s : State) (p : Nat) : armFailure (armOver s) p = armFailure s p := rfl

section
variable {s : State} {p : Nat} (h : s.sec.arming = some p)
include h

theorem execArmComplete_of_failure {sid : Nat} (hf : armFailure s p = some sid) :
    execArmComplete s = .next (
      let why := (s.stall sid).armFails p (s.place p).secid.toNat
      let t := modPlace (armOver s) p fun q => { q with st := 2, cmderr := if why = 5 then 5 else 4 }
      { t with sec := { t.sec with auto := false, afStall := sid, afReason := why } }) := by
  rw [← armFailure_armOver, armOver] at hf
  simp only [execArmComplete, h, hf]
  rfl

/-- Every stall's loader has copied its shadow, and the place is ARMED. -/
theorem execArmComplete_of_armed (hf : armFailure s p = none) (he : (s.place p).epsw = false) (ha : s.sec.auto = false) :
    execArmComplete s = .next (modPlace { armOver s with stalls := gmapAll s.stalls fun u => { u with shadow := u.shadowOf p } } p
      fun q => { q with st := 3 }) := by
  have hplain : ¬ (s.place p).epsw = true := ne_true_of_eq_false he
  rw [← armFailure_armOver, armOver] at hf
  simp only [execArmComplete, h, hf]
  exact congrArg _ ((congrArg autoStart (congrArg (modPlace · p _) (if_neg hplain))).trans (autoStart_of_not_auto ha))

end

end Sys2Proof.Machine

namespace Sys2Proof.Proofs
open Sys2Proof Sys2Proof.Machine

/-- Settles O44: each command by whether its place is fit for it, and each end by the equation of its outcome. -/
theorem placeCommands : Obligations.PlaceCommands := by
  intro s o p _
  refine ⟨fun ho => ⟨?load, ?evict, ?reload, ?disarm, fun auto => ?arm⟩, fun hst => ?loadEnd, fun hrun => ?reloadEnd,
    fun ha => ?armEnd⟩
  case load =>
    split
    · next h => exact exec_load_of_take ho p (takeLoad_of_free h)
    · next h => exact exec_load_of_take ho p (takeLoad_of_taken h)
  case evict =>
    split
    · next h => exact exec_evict_of_take ho p (takeEvict_of_rests h)
    · next h => exact exec_evict_of_take ho p (takeEvict_of_refused h)
  case reload =>
    split
    · next h => exact exec_reload_of_take ho p (takeReload_of_due h)
    · next h => exact exec_reload_of_take ho p (takeReload_of_refused h)
  case disarm =>
    split
    · next h => exact exec_disarm_of_take ho p (takeDisarm_of_armed h)
    · next h => exact exec_disarm_of_take ho p (takeDisarm_of_refused h)
  case arm =>
    have hrefused {code : Nat} (h : takeArm p auto (secKept s 2 p auto) = cmdErr (secKept s 2 p auto) p code) :=
      exec_arm_of_take ho p h
    have hrests (hr : PlaceRests s p) : PlaceRests (secKept s 2 p auto) p := hr
    exact ⟨fun hr => hrefused (takeArm_of_not_rests (s := secKept s 2 p auto) hr),
      fun hr hn => hrefused (takeArm_of_other_armed (hrests hr) hn),
      fun hr hn hrld => hrefused (takeArm_of_reload_due (hrests hr) hn hrld),
      fun hr hn hrld he hd => hrefused (takeArm_of_undrained (hrests hr) hn hrld he hd),
      fun hr hn hrld hd => exec_arm_of_free ho p (s := s) hr hn hrld hd⟩
  case loadEnd =>
    exact ⟨execLoadComplete_of_parity hst, execLoadComplete_of_failed hst, fun m size hm =>
      ⟨fun code => execLoadComplete_of_refused hst hm,
        fun hr => ⟨_, execLoadComplete_of_taken hst hm hr, rfl, fun sid => rackAll_stall s p m⟩⟩⟩
  case reloadEnd =>
    exact ⟨execReloadComplete_of_parity hrun, fun m size hm =>
      ⟨execReloadComplete_of_other hrun hm, execReloadComplete_of_same hrun hm⟩⟩
  case armEnd =>
    rw [exec_armComplete]
    exact ⟨fun sid => execArmComplete_of_failure ha, execArmComplete_of_armed ha⟩

end Sys2Proof.Proofs
end

section
/-! PROOFS. A stream's commands and its cars (R242, R243, R245, R251, R254, R258): what a record leaves alone, the two commands of
PORT.MCTRL, a car by the first check that drops it, the brand of a block then complete, and from these O46. -/

namespace Sys2Proof.Machine

/-! What an error record leaves alone, and what a changed port reads as. -/

theorem record_ports (s : State) (code : Nat) (src : Src) : (record s code src).ports = s.ports :=
  (record_same Same.refl code src (List.Subset.refl _)).kept .ports (by decide)

theorem modPort_port {s : State} (hs : gwf s.ports = true) (p : Nat) (f : Port → Port) : (modPort s p f).port p = f (s.port p) :=
  gget_gset_self hs ..

theorem record_ctx (s : State) (code : Nat) (src : Src) (p c : Nat) : (record s code src).ctx p c = s.ctx p c := by
  simp only [State.ctx, State.port, record_ports]

/-- A change of a port that leaves its contexts alone. -/
theorem modPort_ctx {s : State} (hs : gwf s.ports = true) (p c : Nat) {f : Port → Port} (hf : ∀ q, (f q).ctxs = q.ctxs) :
    (modPort s p f).ctx p c = s.ctx p c := by
  rw [State.ctx, modPort_port hs, hf, State.ctx]

/-- Two changes of one port are one. -/
theorem modPort_modPort {s : State} (hs : gwf s.ports = true) (p : Nat) (f g : Port → Port) :
    modPort (modPort s p f) p g = modPort s p fun q => g (f q) := by
  simp only [modPort, gmod_gmod hs]

/-! The descriptor (R242). -/

/-- A check for each MODE, of which there are three. -/
theorem modeChecks_iff {m : Nat} (hm : m < 3) {a b c : Bool} :
    (if m = 0 then a else if m = 1 then b else c) = true ↔ (m = 0 → a = true) ∧ (m = 1 → b = true) ∧ (m = 2 → c = true) := by
  obtain rfl | rfl | rfl : m = 0 ∨ m = 1 ∨ m = 2 := by omega
  all_goals simp

theorem not_secbind_iff {x : StreamCtx} : (!x.secbind) = true ↔ bitsOf (x.word 0) 36 36 = 0 := by
  have hbit : bitsOf (x.word 0) 36 36 < 2 := Nat.mod_lt _ (by decide)
  rw [StreamCtx.secbind, bit_iff, Bool.not_eq_true', decide_eq_false_iff_not]
  exact ⟨fun h => by have : bitsOf (x.word 0) 36 36 ≠ 1 := h; omega, fun h => by show bitsOf (x.word 0) 36 36 ≠ 1; omega⟩

/-! The commands of PORT.MCTRL (R243, R258). -/

/-- The fields of a command word with GO = 1 and ERR not cleared: the context in `k + 1` bits, CMD in the two above, then GO and ERR. -/
theorem commandWord_fields (k : Nat) {ctx cmd : Nat} (hctx : ctx < 2 ^ (k + 1)) (hcmd : cmd < 4) :
    let v := ctx + 2 ^ (k + 1) * cmd + 2 ^ (k + 1) * 4
    bitsOf v k 0 = ctx ∧ bitsOf v (k + 2) (k + 1) = cmd ∧ bitOf v (k + 3) = true ∧ bitOf v (k + 4) = false := by
  intro v
  have hv : v = ctx + 2 ^ (k + 1) * (cmd + 4) := by rw [Nat.mul_add, ← Nat.add_assoc]
  have hlow : v % 2 ^ (k + 1) = ctx := by rw [hv, Nat.add_mul_mod_self_left, Nat.mod_eq_of_lt hctx]
  have hhigh : v / 2 ^ (k + 1) = cmd + 4 := by
    rw [hv, Nat.add_mul_div_left _ _ (Nat.two_pow_pos _), Nat.div_eq_of_lt hctx, Nat.zero_add]
  have htop (i : Nat) : v / 2 ^ (k + 1 + i) = (cmd + 4) / 2 ^ i := by rw [Nat.pow_add, ← Nat.div_div_eq_div_mul, hhigh]
  refine ⟨hlow, ?_, ?_, ?_⟩
  · rw [bitsOf, Nat.shiftRight_eq_div_pow, hhigh, show k + 2 + 1 - (k + 1) = 2 by omega]
    omega
  · rw [bitOf, Nat.testBit_eq_decide_div_mod_eq, decide_eq_true_eq, show k + 3 = k + 1 + 2 by omega, htop]
    omega
  · rw [bitOf, Nat.testBit_eq_decide_div_mod_eq, decide_eq_false_iff_not, show k + 4 = k + 1 + 3 by omega, htop]
    omega

/-- PORT.MCTRL shows the command just written, and ERR when it was refused. -/
def mctrlWritten (s : State) (p c cmd : Nat) (err : Bool) : State :=
  { s with ports := gset s.ports p { s.port p with mctx := c, mcmd := cmd, merr := (s.port p).merr || err } }

section
variable {s : State} {p c : Nat}

/-- A write of PORT.MCTRL with GO = 1 is kept and taken. -/
theorem writeMctrl_of_go {cmd v : Nat} (hc : c < 32) (hcmd : cmd < 4) (hv : c + 32 * cmd + 128 = v) :
    writeMctrl p v s =
      let w := mctrlWritten s p c cmd false
      if cmd = 1 then takeIssue p c w else if cmd = 2 then takeCancel p c w else w := by
  subst hv
  obtain ⟨hfield, hcommand, hgo, herr⟩ :
      bitsOf (c + 32 * cmd + 128) 4 0 = c ∧ bitsOf (c + 32 * cmd + 128) 6 5 = cmd ∧ bitOf (c + 32 * cmd + 128) 7 = true ∧
        bitOf (c + 32 * cmd + 128) 8 = false := commandWord_fields 4 hc hcmd
  simp only [writeMctrl, hfield, hcommand, hgo, herr, Bool.not_true, Bool.not_false, Bool.and_true, Bool.false_eq_true, if_false,
    mctrlWritten, Bool.or_false]
  rfl

section
variable (hs : gwf s.ports = true)
include hs

theorem mctrlWritten_ctx (cmd : Nat) (err : Bool) : (mctrlWritten s p c cmd err).ctx p c = s.ctx p c :=
  modPort_ctx hs p c (f := fun q => { q with mctx := c, mcmd := cmd, merr := q.merr || err }) fun _ => rfl

/-- A command that the unit refuses sets ERR. -/
theorem mctrlWritten_refused (cmd : Nat) :
    modPort (mctrlWritten s p c cmd false) p (fun q => { q with merr := true }) = mctrlWritten s p c cmd true := by
  simp only [mctrlWritten, modPort, gmod_gset hs, Bool.or_true]

theorem takeIssue_of_refused (h : (s.ctx p c).active = true ∨ (s.ctx p c).valid p c = false) :
    takeIssue p c (mctrlWritten s p c 1 false) = mctrlWritten s p c 1 true := by
  have hcond : ¬ (!(s.ctx p c).active && (s.ctx p c).valid p c) = true := by
    rcases h with h | h <;> simp [h]
  rw [takeIssue, mctrlWritten_ctx hs]
  exact (if_neg hcond).trans (mctrlWritten_refused hs 1)

theorem takeIssue_of_valid (ha : (s.ctx p c).active = false) (hv : (s.ctx p c).valid p c = true) :
    takeIssue p c (mctrlWritten s p c 1 false) =
      let x := s.ctx p c
      sendSctl (modCtx (mctrlWritten s p c 1 false) p c fun x => { x with
          st := 1, ack := 0, credit := 0, released := [], bfails := gconst 0, reported := 0, overrun := none, tackBuf := [] })
        p 1 x.id (bitsOf (x.word 1) 47 0 + bitsOf (x.word 0) 33 32 * 2 ^ 48) x.nblk 0 := by
  rw [takeIssue, mctrlWritten_ctx hs]
  exact if_pos (by rw [ha, hv]; rfl)

theorem takeCancel_of_idle (ha : (s.ctx p c).active = false) :
    takeCancel p c (mctrlWritten s p c 2 false) = mctrlWritten s p c 2 true := by
  rw [takeCancel, mctrlWritten_ctx hs, if_neg (ne_true_of_eq_false ha), mctrlWritten_refused hs]

theorem takeCancel_of_active (ha : (s.ctx p c).active = true) :
    takeCancel p c (mctrlWritten s p c 2 false) = slotFreed (fixHeld (stopStream (mctrlWritten s p c 2 false) p c 6)) p := by
  rw [takeCancel, mctrlWritten_ctx hs, if_pos ha]

end
end

section
variable {o : Origin} (ho : Origin.auth o = true) (port : PortId) (ctx : Fin 32) {s t : State}
include ho

theorem exec_streamIssue_of_take (h : takeIssue port ctx (mctrlWritten s port ctx 1 false) = t) :
    exec (.streamIssue o port ctx) s = .next { t with resp := ⟨0, 0, []⟩ } :=
  congrArg _ ((asAuth_of_authenticated ho ..).trans (congrArg (answer · 0 0 []) ((writeMctrl_of_go ctx.isLt (cmd := 1) (by decide) rfl).trans h)))

theorem exec_streamCancel_of_take (h : takeCancel port ctx (mctrlWritten s port ctx 2 false) = t) :
    exec (.streamCancel o port ctx) s = .next { t with resp := ⟨0, 0, []⟩ } :=
  congrArg _ ((asAuth_of_authenticated ho ..).trans (congrArg (answer · 0 0 []) ((writeMctrl_of_go ctx.isLt (cmd := 2) (by decide) rfl).trans h)))

end

/-! A stream car that the link delivers (R245, R251). -/

section
variable {s t : State} {port : PortId} {car : RxCar} (htyp : car.typ = 1) (ht : receiveCar s port car = .take t)
include htyp ht

theorem execSdata_of_foreign
    (h : (t.ctx port (bitsOf car.w1.toNat 4 0)).id ≠ car.w1.toNat ∨ (t.ctx port (bitsOf car.w1.toNat 4 0)).active = false) :
    execSdata port car s = .next (dupDrop t port) := by
  rw [← Bool.not_eq_true'] at h
  simp only [execSdata, htyp, ht, ne_eq, not_true_eq_false, if_false, if_pos h]

theorem execSdata_of_own (hid : (t.ctx port (bitsOf car.w1.toNat 4 0)).id = car.w1.toNat)
    (ha : (t.ctx port (bitsOf car.w1.toNat 4 0)).active = true) :
    execSdata port car s =
      .next (takeStreamCar t port (bitsOf car.w1.toNat 4 0) (bitsOf car.w2.toNat 23 0) (bitsOf car.w2.toNat 27 24) car) := by
  simp only [execSdata, htyp, ht, hid, ha, ne_eq, not_true_eq_false, Bool.not_true, Bool.false_eq_true, or_self, if_false]

end

/-- The stream of a car that has come is FLOWING. -/
def flowing (s : State) (p c : Nat) : State := if (s.ctx p c).st = 2 then s else fixHeld (modCtx s p c fun x => { x with st := 2 })

/-- The block is below ACK, already released or past the last. -/
def StreamCtx.Stale (x : StreamCtx) (b : Nat) : Prop := b < x.ack ∨ x.released.contains b = true ∨ x.nblk ≤ b

/-- The unit has a free slot for the context. -/
def Port.HasSlot (q : Port) (c : Nat) : Prop := q.slots.length < 64 ∧ (q.slots.filter fun a => decide (a.ctx = c)).length < 32

/-- The slot that a car of a block goes to: the block's own, in which the car is not present, or a new one. -/
def Port.TakesIn (q : Port) (c b k : Nat) (a : ASlot) : Prop :=
  q.slotAt c b = some a ∧ gget a.cars k = none ∨ q.slotAt c b = none ∧ q.HasSlot c ∧ a = ⟨c, b, gconst none, 0, false⟩

section
variable {s : State} {p c b k : Nat} {car : RxCar}

theorem takeStreamCar_of_stale (h : ((flowing s p c).ctx p c).Stale b) :
    takeStreamCar s p c b k car = dupDrop (flowing s p c) p := if_pos h

variable (h : ¬ ((flowing s p c).ctx p c).Stale b)
include h

/-- A car past the window, or one without a slot, is lost. -/
theorem takeStreamCar_of_lost
    (hl : ((flowing s p c).ctx p c).ack + 64 ≤ b ∨ ((flowing s p c).port p).slotAt c b = none ∧ ¬ ((flowing s p c).port p).HasSlot c) :
    takeStreamCar s p c b k car = overrunDrop (flowing s p c) p c b := by
  by_cases hw : ((flowing s p c).ctx p c).ack + 64 ≤ b
  · exact (if_neg h).trans (if_pos hw)
  · obtain ⟨hnone, hfull⟩ := hl.resolve_left hw
    refine (if_neg h).trans ((if_neg hw).trans ?_)
    rw [← flowing, hnone]
    exact if_neg hfull

variable (hw : b < ((flowing s p c).ctx p c).ack + 64)
include hw

theorem takeStreamCar_of_present {a : ASlot} (ha : ((flowing s p c).port p).slotAt c b = some a) (hk : gget a.cars k ≠ none) :
    takeStreamCar s p c b k car = dupDrop (flowing s p c) p := by
  refine (if_neg h).trans ((if_neg (Nat.not_le.2 hw)).trans ?_)
  rw [← flowing, ha]
  exact if_pos (Option.isSome_iff_ne_none.2 hk)

theorem takeStreamCar_of_takesIn {a : ASlot} (ha : ((flowing s p c).port p).TakesIn c b k a) :
    takeStreamCar s p c b k car = placeCar (flowing s p c) p c b k car a := by
  refine (if_neg h).trans ((if_neg (Nat.not_le.2 hw)).trans ?_)
  rcases ha with ⟨hslot, hk⟩ | ⟨hnone, hroom, rfl⟩
  · rw [← flowing, hslot]
    exact if_neg (by rw [hk]; exact Bool.false_ne_true)
  · rw [← flowing, hnone]
    exact if_pos hroom

end

/-! The car in its slot, and the brand of a block then complete (R245). -/

/-- The slot with this car in place `k`; the last car brings the brand. -/
def ASlot.withCar (a : ASlot) (k : Nat) (car : RxCar) : ASlot :=
  { a with cars := gset a.cars k (some car.payload), brand := if k = 15 then car.w3.toNat else a.brand }

/-- The unit holds this slot for the block. -/
def slotKept (s : State) (p c b : Nat) (a : ASlot) : State :=
  { s with ports := gset s.ports p { s.port p with
      slots := (s.port p).slots.filter (fun x => !(decide (x.ctx = c) && decide (x.block = b))) ++ [a] } }

theorem ASlot.complete_iff {a : ASlot} : a.complete = true ↔ ∀ i, i < 16 → gget a.cars i ≠ none := by
  simp only [ASlot.complete, List.all_eq_true, List.mem_range, Option.isSome_iff_ne_none]

theorem placeCar_eq (s : State) (p c b k : Nat) (car : RxCar) (a : ASlot) :
    placeCar s p c b k car a =
      let w := a.withCar k car
      let good := decide (brandOf w.bytes = w.brand)
      let kept := slotKept s p c b { w with ok := w.complete && good }
      if w.complete && !good then blockFailed kept p c b else kept := rfl

section
variable (s : State) (p c b : Nat) {k : Nat} {car : RxCar} {a : ASlot}

theorem placeCar_of_partial (h : ∃ i, i < 16 ∧ gget (a.withCar k car).cars i = none) :
    placeCar s p c b k car a = slotKept s p c b { a.withCar k car with ok := false } := by
  obtain ⟨i, hi, hnone⟩ := h
  have hpartial : (a.withCar k car).complete = false := Bool.eq_false_iff.2 fun hc => ASlot.complete_iff.1 hc i hi hnone
  simp only [placeCar_eq, hpartial, Bool.false_and, Bool.false_eq_true, if_false]

variable (h : ∀ i, i < 16 → gget (a.withCar k car).cars i ≠ none)
include h

theorem placeCar_of_branded (hb : brandOf (a.withCar k car).bytes = (a.withCar k car).brand) :
    placeCar s p c b k car a = slotKept s p c b { a.withCar k car with ok := true } := by
  simp only [placeCar_eq, ASlot.complete_iff.2 h, hb, decide_true, Bool.and_self, Bool.not_true, Bool.and_false, Bool.false_eq_true, if_false]

theorem placeCar_of_misbranded (hb : brandOf (a.withCar k car).bytes ≠ (a.withCar k car).brand) :
    placeCar s p c b k car a = blockFailed (slotKept s p c b { a.withCar k car with ok := false }) p c b := by
  simp only [placeCar_eq, ASlot.complete_iff.2 h, hb, decide_false, Bool.and_false, Bool.not_false, Bool.and_true, if_true]

end

/-! A block that fails its brand check (R245, R254). -/

theorem freeSlot_ctx {s : State} (hs : gwf s.ports = true) (p c b : Nat) : (freeSlot s p c b).ctx p c = s.ctx p c :=
  modPort_ctx hs p c fun _ => rfl

theorem blockFailed_eq {s : State} (hs : gwf s.ports = true) (p c b : Nat) :
    blockFailed s p c b =
      let n := gget (s.ctx p c).bfails b + 1
      let out := record (freeSlot s p c b) 1 (.ring p)
      let counted := modCtx (modPort out p fun q => { q with bfails := satAdd 16 q.bfails 1 }) p c
        fun x => { x with bfail := true, bfails := gset x.bfails b n }
      if n < 3 then slotFreed (sendResend counted p c b) p else loseStream counted p c := by
  simp only [blockFailed]
  rw [record_ctx, freeSlot_ctx hs]
  by_cases hn : gget (s.ctx p c).bfails b + 1 < 3
  · rw [if_pos hn, if_neg (Nat.not_le.2 hn)]
  · rw [if_neg hn, if_pos (Nat.not_lt.1 hn)]

end Sys2Proof.Machine

namespace Sys2Proof.Proofs
open Sys2Proof Sys2Proof.Machine

/-- Settles O46: the commands by whether the context takes them, a car by the first check that drops it, and a block that has failed
by how often it has. -/
theorem streamCommandsAndCars : Obligations.StreamCommandsAndCars := by
  intro s port hs
  refine ⟨fun x c => ?descriptor, fun o ctx ho => ?command, fun car t htyp ht => ⟨execSdata_of_foreign htyp ht, fun hid ha => ?car⟩,
    blockFailed_eq hs.ports port⟩
  case descriptor =>
    simp only [StreamCtx.valid, Bool.and_eq_true, decide_eq_true_eq, and_assoc]
    constructor
    · rintro ⟨hctx, hz0, hport, htier, hmode, hz1, hz2, hpage, hone, hmost, hz3, hsoftMost, hhard, hend, hchecks, hgap⟩
      obtain ⟨h0, h1, h2⟩ := (modeChecks_iff hmode).1 hchecks
      simp only [Bool.and_eq_true, decide_eq_true_eq, not_secbind_iff, and_assoc] at h0 h1 h2
      exact ⟨hctx, hz0, hport, Nat.le_of_lt_succ htier, Nat.le_of_lt_succ hmode, hz1, hz2, hpage, hend, hone, hmost,
        hz3, hsoftMost, hhard, hgap, h0, h1, h2⟩
    · rintro ⟨hctx, hz0, hport, htier, hmode, hz1, hz2, hpage, hend, hone, hmost, hz3, hsoftMost, hhard, hgap, h0, h1, h2⟩
      refine ⟨hctx, hz0, hport, Nat.lt_succ_of_le htier, Nat.lt_succ_of_le hmode, hz1, hz2, hpage, hone, hmost, hz3, hsoftMost, hhard,
        hend, (modeChecks_iff (Nat.lt_succ_of_le hmode)).2 ?_, hgap⟩
      simp only [Bool.and_eq_true, decide_eq_true_eq, not_secbind_iff, and_assoc]
      exact ⟨h0, h1, h2⟩
  case command =>
    exact ⟨fun h => exec_streamIssue_of_take ho port ctx (takeIssue_of_refused hs.ports h),
      fun ha hv => exec_streamIssue_of_take ho port ctx (takeIssue_of_valid hs.ports ha hv),
      fun ha => exec_streamCancel_of_take ho port ctx (takeCancel_of_idle hs.ports ha),
      fun ha => exec_streamCancel_of_take ho port ctx (takeCancel_of_active hs.ports ha)⟩
  case car =>
    have hexec {u : State} (hu : takeStreamCar t port (bitsOf car.w1.toNat 4 0) (bitsOf car.w2.toNat 23 0)
        (bitsOf car.w2.toNat 27 24) car = u) : exec (.sdata port car) s = .next u :=
      (execSdata_of_own htyp ht hid ha).trans (congrArg _ hu)
    refine ⟨fun h => hexec (takeStreamCar_of_stale h), fun h hl => hexec (takeStreamCar_of_lost h hl),
      fun a h hw hslot hk => hexec (takeStreamCar_of_present h hw hslot hk), fun a h hw hslot => ?placed⟩
    have hplaced := takeStreamCar_of_takesIn (car := car) h hw hslot
    exact ⟨fun hpart => hexec (hplaced.trans (placeCar_of_partial _ _ _ _ hpart)), fun hfull =>
      ⟨fun hb => hexec (hplaced.trans (placeCar_of_branded _ _ _ _ hfull hb)),
        fun hb => hexec (hplaced.trans (placeCar_of_misbranded _ _ _ _ hfull hb))⟩⟩

end Sys2Proof.Proofs
end

section
/-! PROOFS. Release, credits, gaps and the landing of a loft write (R237, R238, R244-R254): the verified blocks in ascending order, how
far ACK advances, one equation for each case of each event, and from these O47. -/

namespace Sys2Proof.Machine

/-! The verified blocks of a context, in ascending order (R246). -/

/-- The blocks of the slots that hold a verified block of the context. -/
def Port.okBlocks (q : Port) (c : Nat) : List Nat := (q.slots.filter fun a => decide (a.ctx = c) && a.ok).map (·.block)

theorem Port.mem_okBlocks_iff {q : Port} {c b : Nat} :
    b ∈ q.okBlocks c ↔ ∃ a ∈ q.slots, (a.ctx = c ∧ a.ok = true) ∧ a.block = b := by
  simp only [Port.okBlocks, List.mem_map, List.mem_filter, Bool.and_eq_true, decide_eq_true_eq, and_assoc]

/-- An ascending list with one more block in its place. -/
def putInOrder (l : List Nat) (b : Nat) : List Nat :=
  l.takeWhile (fun k => decide (k < b)) ++ [b] ++ l.dropWhile (fun k => decide (k < b))

theorem putInOrder_cons_of_lt {k b : Nat} (l : List Nat) (h : k < b) : putInOrder (k :: l) b = k :: putInOrder l b := by
  simp only [putInOrder, List.takeWhile_cons, List.dropWhile_cons, h, decide_true, if_true, List.cons_append]

theorem putInOrder_cons_of_le {k b : Nat} (l : List Nat) (h : b ≤ k) : putInOrder (k :: l) b = b :: k :: l := by
  simp only [putInOrder, List.takeWhile_cons, List.dropWhile_cons, Nat.not_lt.2 h, decide_false, Bool.false_eq_true, if_false,
    List.nil_append, List.singleton_append]

theorem mem_putInOrder_iff {l : List Nat} {b k : Nat} : k ∈ putInOrder l b ↔ k = b ∨ k ∈ l := by
  have hparts : k ∈ l ↔ k ∈ l.takeWhile (fun k => decide (k < b)) ∨ k ∈ l.dropWhile (fun k => decide (k < b)) := by
    rw [← List.mem_append, List.takeWhile_append_dropWhile]
  rw [hparts, putInOrder, List.mem_append, List.mem_append, List.mem_singleton, or_comm (a := k ∈ List.takeWhile _ _), or_assoc]

theorem putInOrder_ascends {l : List Nat} (hl : l.Pairwise (· ≤ ·)) (b : Nat) : (putInOrder l b).Pairwise (· ≤ ·) := by
  induction l with
  | nil => exact List.pairwise_singleton _ b
  | cons k l ih =>
    obtain ⟨hk, htail⟩ := List.pairwise_cons.1 hl
    rcases Nat.lt_or_ge k b with hlt | hge
    · rw [putInOrder_cons_of_lt l hlt]
      refine List.pairwise_cons.2 ⟨fun j hj => ?_, ih htail⟩
      rcases mem_putInOrder_iff.1 hj with rfl | hj
      · exact Nat.le_of_lt hlt
      · exact hk j hj
    · rw [putInOrder_cons_of_le l hge]
      refine List.pairwise_cons.2 ⟨fun j hj => ?_, hl⟩
      rcases List.mem_cons.1 hj with rfl | hj
      · exact hge
      · exact Nat.le_trans hge (hk j hj)

theorem mem_foldl_putInOrder_iff {bs l : List Nat} {k : Nat} : k ∈ bs.foldl putInOrder l ↔ k ∈ bs ∨ k ∈ l := by
  induction bs generalizing l with
  | nil => simp only [List.foldl_nil, List.not_mem_nil, false_or]
  | cons b bs ih => rw [List.foldl_cons, ih, mem_putInOrder_iff, List.mem_cons, or_left_comm, or_assoc]

/-- Each block is put in its place of the ascending order. -/
theorem Port.verified_eq (q : Port) (c : Nat) : q.verified c = (q.okBlocks c).foldl putInOrder [] := rfl

theorem Port.mem_verified_iff {q : Port} {c b : Nat} :
    b ∈ q.verified c ↔ ∃ a ∈ q.slots, (a.ctx = c ∧ a.ok = true) ∧ a.block = b := by
  rw [Port.verified_eq, mem_foldl_putInOrder_iff, Port.mem_okBlocks_iff, or_iff_left List.not_mem_nil]

theorem Port.verified_ascends (q : Port) (c : Nat) : (q.verified c).Pairwise (· ≤ ·) :=
  List.foldlRecOn (motive := fun l => l.Pairwise (· ≤ ·)) _ putInOrder List.Pairwise.nil fun _ hl b _ => putInOrder_ascends hl b

/-- The first of an ascending list with a property is the least with it. -/
theorem find?_of_least {l : List Nat} (hl : l.Pairwise (· ≤ ·)) {f : Nat → Bool} {b : Nat} (hb : b ∈ l) (hf : f b = true)
    (hleast : ∀ k ∈ l, f k = true → b ≤ k) : l.find? f = some b := by
  obtain ⟨w, hw⟩ := Option.isSome_iff_exists.1 (List.find?_isSome.2 ⟨b, hb, hf⟩)
  obtain ⟨hfw, before, after, rfl, hbefore⟩ := List.find?_eq_some_iff_append.1 hw
  have hafter : b ∈ w :: after := (List.mem_append.1 hb).resolve_left fun h => by simpa [hf] using hbefore b h
  have hle : w ≤ b := by
    rcases List.mem_cons.1 hafter with rfl | hlater
    · exact Nat.le_refl _
    · obtain ⟨-, htail, -⟩ := List.pairwise_append.1 hl
      exact List.rel_of_pairwise_cons htail hlater
  rw [hw, Nat.le_antisymm (hleast w (List.mem_append_right _ (List.mem_cons_self ..)) hfw) hle]

/-! Where a block goes (R244, R248, R249). -/

section
variable {s : State} {p c b : Nat} {a : ASlot}

theorem deliverBlock_of_entry (hm : (s.ctx p c).mode = 0) (he : entryOk s (entryFor s (s.ctx p c) b) = true) :
    deliverBlock s p c b a =
      modPort s p fun q => { q with outbox := q.outbox ++ [blockWrite s p (s.ctx p c) b (entryFor s (s.ctx p c) b) a] } :=
  (if_pos hm).trans (if_pos he)

theorem deliverBlock_of_miss (hm : (s.ctx p c).mode = 0) (he : entryOk s (entryFor s (s.ctx p c) b) = false) :
    deliverBlock s p c b a =
      modCtx (modPort (record s 13 (.ring p)) p fun q => { q with misses := satAdd 16 q.misses 1 }) p c fun x => { x with miss := true } :=
  (if_pos hm).trans (if_neg (ne_true_of_eq_false he))

theorem deliverBlock_of_hostler (hm : (s.ctx p c).mode = 1) :
    deliverBlock s p c b a =
      { s with hmem := Memory.writeBytes s.hmem ((bitsOf ((s.ctx p c).word 2) 41 25 + b) * 4096) a.bytes } :=
  (if_neg (by omega)).trans (if_pos hm)

theorem deliverBlock_of_tack (hm : (s.ctx p c).mode = 2) :
    deliverBlock s p c b a = modCtx s p c fun x => { x with tackBuf := Memory.writeBytes x.tackBuf (b * 4096) a.bytes } :=
  (if_neg (by omega)).trans (if_neg (by omega))

end

/-- The lowest verified block that may go, once it has reached its place `t`, leaves its slot and counts as released. -/
theorem execBlockRelease_of_least {s t : State} {port : PortId} {ctx : Fin 32} {b : Nat} {a v : ASlot}
    (hx : (s.ctx port ctx).active = true) (ha : (s.port port).slotAt ctx b = some a) (hv : v ∈ (s.port port).slots)
    (hctx : v.ctx = ctx) (hok : v.ok = true) (hblock : v.block = b) (hr : releasable s (s.ctx port ctx) b = true)
    (hleast : ∀ w, w ∈ (s.port port).slots → w.ctx = ctx → w.ok = true → releasable s (s.ctx port ctx) w.block = true → b ≤ w.block)
    (ht : deliverBlock s port ctx b a = t) :
    execBlockRelease port ctx s =
      .next (fixHeld (slotFreed (modCtx (freeSlot t port ctx b) port ctx fun x => countReleased x b) port)) := by
  have hmem : b ∈ (s.port port).verified ctx := Port.mem_verified_iff.2 ⟨v, hv, ⟨hctx, hok⟩, hblock⟩
  have hfind : ((s.port port).verified ctx).find? (fun k => releasable s (s.ctx port ctx) k) = some b := by
    refine find?_of_least (Port.verified_ascends ..) hmem hr fun k hk hrk => ?_
    obtain ⟨w, hw, ⟨hwctx, hwok⟩, rfl⟩ := Port.mem_verified_iff.1 hk
    exact hleast w hw hwctx hwok hrk
  simp only [execBlockRelease, hx, hfind, ha, Bool.not_true, Bool.false_eq_true, if_false, releaseBlock, ht]

/-! How far ACK advances (R251). -/

section
variable (n : Nat) (released : List Nat) (ack : Nat)

theorem le_advanceAck : ack ≤ advanceAck n released ack := by
  induction n generalizing ack with
  | zero => exact Nat.le_refl _
  | succ n ih =>
    rw [advanceAck]
    split
    · exact Nat.le_of_succ_le (ih (ack + 1))
    · exact Nat.le_refl _

/-- ACK passes released blocks only. -/
theorem mem_of_lt_advanceAck {k : Nat} (hle : ack ≤ k) (hlt : k < advanceAck n released ack) : k ∈ released := by
  induction n generalizing ack with
  | zero => exact absurd hlt (Nat.not_lt.2 hle)
  | succ n ih =>
    rw [advanceAck] at hlt
    split at hlt
    · next hack =>
      rcases Nat.eq_or_lt_of_le hle with rfl | hgt
      · exact List.contains_iff_mem.1 hack
      · exact ih (ack + 1) hgt hlt
    · exact absurd hlt (Nat.not_lt.2 hle)

/-- ACK stops at a released block only when the count of steps runs out. -/
theorem advanceAck_of_mem (h : advanceAck n released ack ∈ released) : advanceAck n released ack = ack + n := by
  induction n generalizing ack with
  | zero => rfl
  | succ n ih =>
    rw [advanceAck] at h ⊢
    split at h
    · next hack =>
      rw [if_pos hack, ih (ack + 1) h]
      omega
    · next hack => exact absurd (List.contains_iff_mem.2 h) hack

/-- With as many steps as there are released blocks, ACK stops at a block that is not released: up to a released one it would have
passed more blocks than there are. -/
theorem advanceAck_length_not_mem : advanceAck released.length released ack ∉ released := by
  intro h
  have hend := advanceAck_of_mem _ _ _ h
  have hall : List.range' ack (released.length + 1) ⊆ released := fun k hk => by
    obtain ⟨hle, hk⟩ := List.mem_range'_1.1 hk
    rcases Nat.lt_or_ge k (ack + released.length) with hlt | hge
    · exact mem_of_lt_advanceAck released.length released ack hle (by omega)
    · obtain rfl : k = advanceAck released.length released ack := by omega
      exact h
  have hlen := (List.nodup_range' (step := 1)).length_le_of_subset hall
  rw [List.length_range'] at hlen
  omega

end

theorem mem_append_singleton_iff {l : List Nat} {k b : Nat} : k ∈ l ++ [b] ↔ k = b ∨ k ∈ l := by
  rw [List.mem_append, List.mem_singleton, or_comm]

/-! Credits, acknowledgement and gaps (R250-R254). -/

/-- The message at the head of a port's inbox is taken. -/
def inboxTaken (s : State) (p : Nat) (rest : List (Hdr × List Byte)) : State := modPort s p fun q => { q with inbox := rest }

section
variable {s : State} {port : PortId} {h : Hdr} {payload : List Byte} {rest : List (Hdr × List Byte)}

theorem execCreditMessage_of_head (hi : (s.port port).inbox = (h, payload) :: rest) (ht : h.tag ≠ 2) :
    execCreditMessage port s = .next (takeCredit (inboxTaken s port rest) port h payload) := by
  simp only [execCreditMessage, hi, if_neg ht]
  rfl

/-- The message is a credit of 1 to 4,095 blocks for a stream that is active. -/
def GoodCredit (s : State) (p : Nat) (h : Hdr) (payload : List Byte) : Prop :=
  let x := s.ctx p (bitsOf (leAt payload 0 4) 4 0)
  h.tag = 1 ∧ h.f = false ∧ h.len = 1 ∧ x.id = leAt payload 0 4 ∧ x.active = true ∧ 1 ≤ leAt payload 4 4 ∧ leAt payload 4 4 ≤ 4095

theorem takeCredit_of_good {p : Nat} (hg : GoodCredit s p h payload) :
    takeCredit s p h payload = modCtx s p (bitsOf (leAt payload 0 4) 4 0) fun x => { x with credit := satAdd 25 x.credit (leAt payload 4 4) } := by
  simp only [GoodCredit, ← Bool.not_eq_true'] at hg
  exact if_pos hg

theorem takeCredit_of_bad {p : Nat} (hg : ¬ GoodCredit s p h payload) : takeCredit s p h payload = dupDrop s p := by
  simp only [GoodCredit, ← Bool.not_eq_true'] at hg
  exact if_neg hg

theorem goodCredit_inboxTaken (hs : gwf s.ports = true) (p : Nat) :
    GoodCredit (inboxTaken s p rest) p h payload ↔ GoodCredit s p h payload := by
  have hctx (c : Nat) : (inboxTaken s p rest).ctx p c = s.ctx p c := modPort_ctx hs p c fun _ => rfl
  rw [GoodCredit, GoodCredit, hctx]

end

section
variable {s : State} {port : PortId} {ctx : Fin 32}

theorem execAckReport_of_changed (hne : (s.ctx port ctx).ack ≠ (s.ctx port ctx).reported)
    (h : (s.ctx port ctx).active = true ∨ (s.ctx port ctx).st = 4) :
    execAckReport port ctx s =
      let x := s.ctx port ctx
      .next (sendSctl (modCtx s port ctx fun x => { x with reported := x.ack }) port 2 x.id x.ack 0 0) :=
  congrArg _ (if_pos ⟨hne, h⟩)

theorem runningPlace_congr {s t : State} (h : t.sec = s.sec) : runningPlace t = runningPlace s := by
  simp only [runningPlace, placeIn, State.place, h]

/-- The stream has met its soft gap: it is recorded, in GAP, and asks for block ACK. -/
def gapMet (s : State) (p c : Nat) : State :=
  sendResend (modCtx (record s 11 (.ring p)) p c fun x => { x with st := 3, gapseen := true }) p c (s.ctx p c).ack

theorem gapMet_sec (s : State) (p c : Nat) : (gapMet s p c).sec = s.sec := by
  have hrecord : Same [.grm, .err, .mbx, .sheds, .ports] s (record s 11 (.ring p)) := record_same Same.refl 11 (.ring p) (by decide)
  exact (sendResend_same (modCtx_same hrecord p c _ (by decide)) p c _ (by decide)).kept .sec (by decide)

variable (hx : (s.ctx port ctx).active = true) (hp : gapPaused s port ctx = false)
include hx hp

theorem execSoftGap_of_gap (hst : (s.ctx port ctx).st = 3) :
    execSoftGap port ctx s = .next (sendResend s port ctx (s.ctx port ctx).ack) := by
  simp only [execSoftGap, hx, hp, hst, Bool.not_true, Bool.or_self, Bool.false_eq_true, if_false, if_true]

theorem execSoftGap_of_flowing (hst : (s.ctx port ctx).st ≠ 3) :
    execSoftGap port ctx s =
      let t := gapMet s port ctx
      .next (if (s.ctx port ctx).secbind = true ∧ runningPlace s ≠ none then { t with sec := { t.sec with held := true } } else t) := by
  simp only [execSoftGap, hx, hp, hst, Bool.not_true, Bool.or_self, Bool.false_eq_true, if_false]
  rw [← gapMet, runningPlace_congr (gapMet_sec s port ctx)]
  simp only [Bool.and_eq_true, Option.isSome_iff_ne_none]

theorem execHardGap_of_gap : execHardGap port ctx s = .next (loseStream s port ctx) :=
  congrArg _ (if_pos (by rw [hx, hp]; rfl))

end

/-! The landing of a loft write (R237, R238). -/

section
variable {s : State} {sid : StallId} {id : Nat} {m : TrackMsg} {h : LoftHdr} {payload : List Byte}

section
variable (hej : (gget (s.stall sid).qu.ej 2).head? = some id) (hm : trackMsg s id = some m) (hp : m.packet = .loft h payload)
include hej hm hp

theorem execLoftWriteLanding_of_absent (ha : shedAbsent s (shedOf sid) = true) :
    execLoftWriteLanding sid s = .next (clearEj (discardAt (countUnreach s (yardOf sid)) id) sid 2) := by
  simp only [execLoftWriteLanding, hej, hm, hp, ha, if_true]

variable (ha : shedAbsent s (shedOf sid) = false)
include ha

theorem execLoftWriteLanding_of_asleep (hl : stallLive s sid = false) : execLoftWriteLanding sid s = .next (requestWake s sid) := by
  simp only [execLoftWriteLanding, hej, hm, hp, ha, hl, Bool.not_false, Bool.false_eq_true, if_false, if_true]

variable (hl : stallLive s sid = true)
include hl

theorem execLoftWriteLanding_of_notice (hn : (s.stall sid).qu.notice ≠ none) : execLoftWriteLanding sid s = .next s := by
  simp only [execLoftWriteLanding, hej, hm, hp, ha, hl, Option.isSome_iff_ne_none.2 hn, Bool.not_true, Bool.false_eq_true, if_false, if_true]

variable (hn : (s.stall sid).qu.notice = none)
include hn

theorem execLoftWriteLanding_of_first (hf : lastFlit s id = none) :
    execLoftWriteLanding sid s = .next (modTrack s id fun m => { m with fate := .landing }) := by
  simp only [execLoftWriteLanding, hej, hm, hp, ha, hl, hn, hf, Option.isSome_none, Bool.not_true, Bool.false_eq_true, if_false]

theorem execLoftWriteLanding_of_last (hf : lastFlit s id ≠ none) :
    execLoftWriteLanding sid s = .next (clearEj (landLoft (removeTrack s m) sid h payload) sid 2) := by
  simp only [execLoftWriteLanding, hej, hm, hp, ha, hl, hn, Option.isSome_iff_ne_none.2 hf, Option.isSome_none, Bool.not_true,
    Bool.false_eq_true, if_false, if_true]

end

/-- The bytes of a loft write stand in its stall's memory. -/
def loftWritten (s : State) (sid : Nat) (h : LoftHdr) (payload : List Byte) : State :=
  modMem s sid fun u => u.writeUnits sid h.space h.len (h.uaddr * 64) payload

theorem landLoft_of_rack (hk : h.kind ≠ 0) (hr : ¬ (h.kind = 1 ∧ 0 < h.runm1)) :
    landLoft s sid h payload = loftWritten s sid h payload := (if_pos hk).trans (if_neg hr)

theorem landLoft_of_run (hk : h.kind = 1) (hr : 0 < h.runm1) :
    landLoft s sid h payload =
      inject (loftWritten s sid h payload) (.loft { h with dest := h.dest + 1, runm1 := h.runm1 - 1 } payload) sid 4 :=
  (if_pos (by omega)).trans (if_pos ⟨hk, hr⟩)

/-- The write of a block sets its brand, records a brand that is not that of its bytes, and leaves its notice. -/
theorem landLoft_of_block (hk : h.kind = 0) :
    landLoft s sid h payload =
      let w := loftWritten s sid h payload
      let branded := if h.brd then modMem w sid fun u => u.setBrand h.space (h.uaddr / 64) h.brand else w
      let checked := if h.brd = true ∧ brandOf payload ≠ h.brand then record branded 1 (.stall sid) else branded
      if h.ntf then modQu checked sid fun u => { u with notice := some (noticeOf h (decide (h.brd = true ∧ brandOf payload ≠ h.brand))) }
      else checked := by
  have hbad : (h.brd && decide (brandOf payload ≠ h.brand)) = decide (h.brd = true ∧ brandOf payload ≠ h.brand) := by
    rw [Bool.decide_and, Bool.decide_eq_true]
  refine (if_neg (not_not_intro hk)).trans ?_
  simp only [hbad, decide_eq_true_eq]
  rfl

/-- Bit 7 of the third word of a notice says that the brand is not that of the bytes (R238). -/
theorem noticeOf_decide (bad : Prop) [Decidable bad] :
    noticeOf h (decide bad) =
      (({ dest := h.dest, tag := h.tag, vc := 2, gen := h.ngen, epoch := h.epoch, f := false, fcount := 0, len := 1, src := h.src,
          srcx := true, rly := false } : Hdr),
        leBytes 4 h.stream ++ leBytes 4 h.block ++ leBytes 4 (h.space + h.uaddr / 64 * 4 + if bad then 128 else 0) ++
          List.replicate 4 0#8) := by
  by_cases hb : bad
  · simp only [noticeOf, hb, decide_true, b2n, if_true, Nat.one_mul]
  · simp only [noticeOf, hb, decide_false, b2n, if_false, Bool.false_eq_true, Nat.zero_mul]

end

end Sys2Proof.Machine

namespace Sys2Proof.Proofs
open Sys2Proof Sys2Proof.Machine

/-- Settles O47: a release by where its block goes, ACK by the blocks it passes, and each other event by the equation of its case
above. -/
theorem streamReleaseCreditsAndGaps : Obligations.StreamReleaseCreditsAndGaps := by
  intro s port ctx hs
  refine ⟨fun b a v hx ha hv hctx hok hblock hr hleast => ?release, fun x b => ?ack, fun h payload rest hi ht => ?credit,
    execAckReport_of_changed,
    fun hx hp => ⟨execSoftGap_of_gap hx hp, execSoftGap_of_flowing hx hp, execHardGap_of_gap hx hp⟩,
    fun sid id rest m h payload hej hm hp => ?landing⟩
  case release =>
    have hexec {t : State} (ht : deliverBlock s port ctx b a = t) := execBlockRelease_of_least hx ha hv hctx hok hblock hr hleast ht
    exact ⟨fun hm he => hexec (deliverBlock_of_entry hm he), fun hm he => hexec (deliverBlock_of_miss hm he),
      fun hm => hexec (deliverBlock_of_hostler hm), fun hm => hexec (deliverBlock_of_tack hm)⟩
  case ack =>
    refine ⟨le_advanceAck _ _ _, fun k hle hlt => mem_append_singleton_iff.1 (mem_of_lt_advanceAck _ _ _ hle hlt),
      mt mem_append_singleton_iff.2 (advanceAck_length_not_mem _ _), fun k => ?_, rfl⟩
    simp only [countReleased, List.mem_filter, decide_eq_true_eq, mem_append_singleton_iff, and_comm]
  case credit =>
    have hexec := execCreditMessage_of_head hi ht
    refine ⟨fun hg => hexec.trans (congrArg _ (takeCredit_of_good ((goodCredit_inboxTaken hs.ports port).2 hg))), fun hg => ?_⟩
    rw [takeCredit_of_bad (mt (goodCredit_inboxTaken hs.ports port).1 hg), dupDrop, inboxTaken, modPort_modPort hs.ports] at hexec
    exact hexec
  case landing =>
    have hhead : (gget (s.stall sid).qu.ej 2).head? = some id := by rw [hej]; rfl
    refine ⟨execLoftWriteLanding_of_absent hhead hm hp, execLoftWriteLanding_of_asleep hhead hm hp, fun ha hl =>
      ⟨execLoftWriteLanding_of_notice hhead hm hp ha hl, execLoftWriteLanding_of_first hhead hm hp ha hl, fun hn hf => ?_⟩⟩
    have hexec {t : State} (ht : landLoft (removeTrack s m) sid h payload = t) :
        exec (.loftWriteLanding sid) s = .next (clearEj t sid 2) :=
      (execLoftWriteLanding_of_last hhead hm hp ha hl hn hf).trans (congrArg (fun t => Host.Outcome.next (clearEj t sid 2)) ht)
    refine ⟨fun hk hr => hexec (landLoft_of_rack hk hr), fun hk hr => hexec (landLoft_of_run hk hr), fun hk => hexec ?_⟩
    rw [landLoft_of_block hk, noticeOf_decide]
    rfl

end Sys2Proof.Proofs
end

section
/-! PROOFS. Gradient buckets and the marshalling table (R248, R263-R275, R280): the two commands of MARS.BCTRL, a part by the first
check that fails, the sums of a staged part, the sending, the timeout, and from these O48. -/

namespace Sys2Proof.Machine

/-! What an error record leaves alone, and a bucket context put in its place. -/

theorem recordWith_mars (s : State) (code : Nat) (src : Src) (enters : Bool) : (recordWith s code src enters).mars = s.mars :=
  (recordWith_same Same.refl code src enters (List.Subset.refl _)).kept .mars (by decide)

theorem recordWith_bucket (s : State) (code : Nat) (src : Src) (enters : Bool) (c : Nat) :
    (recordWith s code src enters).bucket c = s.bucket c := by simp only [State.bucket, recordWith_mars]

theorem record_bucket (s : State) (code : Nat) (src : Src) (c : Nat) : (record s code src).bucket c = s.bucket c :=
  recordWith_bucket ..

/-- The bucket context `c` is `b`. -/
def putBucket (s : State) (c : Nat) (b : Bucket) : State := { s with mars := { s.mars with buckets := gset s.mars.buckets c b } }

theorem modBucket_of_bucket {s : State} {c : Nat} {b : Bucket} (h : s.bucket c = b) (f : Bucket → Bucket) :
    modBucket s c f = putBucket s c (f b) := by
  subst h
  rfl

/-! The commands of MARS.BCTRL (R267, R280). -/

/-- MARS.BCTRL shows the command just written, and ERR when it was refused. -/
def bctrlWritten (s : State) (c cmd : Nat) (err : Bool) : State :=
  { s with mars := { s.mars with bctx := c, bcmd := cmd, berr := s.mars.berr || err } }

/-- A bucket that ISSUE takes: IDLE, DONE, FAILED or CANCELLED, with a valid descriptor. -/
def BucketReady (s : State) (b : Bucket) : Prop := (b.st = 0 ∨ b.st = 5 ∨ b.st = 6 ∨ b.st = 7) ∧ bucketValid s b = true

section
variable {s : State} {c : Nat}

/-- A write of MARS.BCTRL with GO = 1 is kept and taken. -/
theorem writeBctrl_of_go {cmd v : Nat} (hc : c < 64) (hcmd : cmd < 4) (hv : c + 64 * cmd + 256 = v) :
    writeBctrl v s =
      let w := bctrlWritten s c cmd false
      if cmd = 1 then takeBucketIssue c w else if cmd = 2 then takeBucketCancel c w else w := by
  subst hv
  obtain ⟨hfield, hcommand, hgo, herr⟩ :
      bitsOf (c + 64 * cmd + 256) 5 0 = c ∧ bitsOf (c + 64 * cmd + 256) 7 6 = cmd ∧ bitOf (c + 64 * cmd + 256) 8 = true ∧
        bitOf (c + 64 * cmd + 256) 9 = false := commandWord_fields 5 hc hcmd
  simp only [writeBctrl, hfield, hcommand, hgo, herr, Bool.not_true, Bool.not_false, Bool.and_true, Bool.false_eq_true, if_false,
    bctrlWritten, Bool.or_false]

/-- A command that the engines refuse sets ERR. -/
theorem bctrlWritten_refused (cmd : Nat) :
    (let w := bctrlWritten s c cmd false; { w with mars := { w.mars with berr := true } }) = bctrlWritten s c cmd true := by
  simp only [bctrlWritten, Bool.or_true]

theorem takeBucketIssue_of_ready (h : BucketReady s (s.bucket c)) :
    takeBucketIssue c (bctrlWritten s c 1 false) =
      sendBucketCtl (sendTable (putBucket (bctrlWritten s c 1 false) c (s.bucket c).issued) c) c 0x11 (s.bucket c).nblk 0 0 :=
  if_pos h

theorem takeBucketIssue_of_refused (h : ¬ BucketReady s (s.bucket c)) :
    takeBucketIssue c (bctrlWritten s c 1 false) = bctrlWritten s c 1 true :=
  (if_neg h).trans (bctrlWritten_refused 1)

theorem takeBucketCancel_of_over (h : (s.bucket c).st = 0 ∨ (s.bucket c).st = 5 ∨ (s.bucket c).st = 6) :
    takeBucketCancel c (bctrlWritten s c 2 false) = bctrlWritten s c 2 true :=
  (if_pos h).trans (bctrlWritten_refused 2)

theorem takeBucketCancel_of_busy (h : ¬ ((s.bucket c).st = 0 ∨ (s.bucket c).st = 5 ∨ (s.bucket c).st = 6)) :
    takeBucketCancel c (bctrlWritten s c 2 false) =
      sendBucketCtl (putBucket (dropWaiting (bctrlWritten s c 2 false) c) c { s.bucket c with st := 7 }) c 0x15 0 0 0 :=
  if_neg h

end

section
variable {o : Origin} (ho : Origin.auth o = true) (ctx : Fin 64) {s t : State}
include ho

theorem exec_bucketIssue_of_take (h : takeBucketIssue ctx (bctrlWritten s ctx 1 false) = t) :
    exec (.bucketIssue o ctx) s = .next { t with resp := ⟨0, 0, []⟩ } :=
  congrArg _ ((asAuth_of_authenticated ho ..).trans (congrArg (answer · 0 0 []) ((writeBctrl_of_go ctx.isLt (cmd := 1) (by decide) rfl).trans h)))

theorem exec_bucketCancel_of_take (h : takeBucketCancel ctx (bctrlWritten s ctx 2 false) = t) :
    exec (.bucketCancel o ctx) s = .next { t with resp := ⟨0, 0, []⟩ } :=
  congrArg _ ((asAuth_of_authenticated ho ..).trans (congrArg (answer · 0 0 []) ((writeBctrl_of_go ctx.isLt (cmd := 2) (by decide) rfl).trans h)))

end

/-! The contribution checksum and the count of elements at an end of their range (R268, R271). -/

theorem csumAdd_csumAdd (acc : Nat) (x y : Int) : csumAdd (csumAdd acc x) y = csumAdd acc (x + y) := by
  have hpos : (0 : Int) ≤ ((acc : Int) + x) % (csumMod : Int) := Int.emod_nonneg _ (by decide)
  rw [csumAdd, csumAdd, Int.toNat_of_nonneg hpos, Int.emod_add_emod, Int.add_assoc, csumAdd]

theorem foldl_csumAdd_from {α : Type} (f : α → Int) (l : List α) (acc : Nat) (x : Int) :
    l.foldl (fun a j => csumAdd a (f j)) (csumAdd acc x) = csumAdd acc (x + (l.map f).sum) := by
  induction l generalizing x with
  | nil => rw [List.foldl_nil, List.map_nil, List.sum_nil, Int.add_zero]
  | cons j l ih => rw [List.foldl_cons, csumAdd_csumAdd, ih, List.map_cons, List.sum_cons, Int.add_assoc]

/-- Terms added one by one modulo p are their sum added modulo p. -/
theorem foldl_csumAdd {α : Type} (f : α → Int) {l : List α} (h : l ≠ []) (acc : Nat) :
    l.foldl (fun a j => csumAdd a (f j)) acc = csumAdd acc (l.map f).sum := by
  obtain ⟨j, l, rfl⟩ := List.exists_cons_of_ne_nil h
  rw [List.foldl_cons, foldl_csumAdd_from, List.map_cons, List.sum_cons]

theorem getD_map_signedOf (es : List Byte) (j : Nat) :
    (es.map fun e => signedOf 8 e.toNat).getD j 0 = signedOf 8 (es.getD j 0).toNat := by
  rw [List.getD_eq_getElem?_getD, List.getElem?_map, List.getD_eq_getElem?_getD]
  exact Option.getD_map (fun e : Byte => signedOf 8 e.toNat) 0 es[j]?

/-- The terms (i + 1) x_i of a part whose first element is `base`. -/
theorem foldl_csumTerm (es : List Byte) (base acc : Nat) :
    (List.range 512).foldl (fun a j => csumAdd a (csumTerm (base + j) ((es.map fun e => signedOf 8 e.toNat).getD j 0))) acc =
      csumAdd acc ((List.range 512).map fun j => ((base + j + 1 : Nat) : Int) * signedOf 8 (es.getD j 0).toNat).sum := by
  have hne : List.range 512 ≠ [] := mt List.range_eq_nil.1 (by decide)
  simp only [foldl_csumAdd _ hne, csumTerm, getD_map_signedOf, Int.natCast_succ]

theorem signedOf_extreme_iff (e : Byte) : signedOf 8 e.toNat = -128 ∨ signedOf 8 e.toNat = 127 ↔ e = 0x80#8 ∨ e = 0x7F#8 := by
  have hlt : e.toNat < 2 ^ 8 := e.isLt
  simp only [signedOf, Nat.mod_eq_of_lt hlt, BitVec.toNat_eq, BitVec.toNat_ofNat]
  split <;> omega

theorem extremes_length (es : List Byte) :
    ((es.map fun e => signedOf 8 e.toNat).filter fun v => decide (v = -128 ∨ v = 127)).length =
      (es.filter fun e => decide (e = 0x80#8 ∨ e = 0x7F#8)).length := by
  simp only [List.filter_map, List.length_map, Function.comp_def, signedOf_extreme_iff]

/-! A part by the first check that fails (R264, R265). -/

/-- A section runs, and the part is of its generation. -/
def PartDue (s : State) (h : Hdr) : Prop := runningPlace s ≠ none ∧ h.gen = s.sec.cg

/-- The part has its length, no reserved bit set, and a block of the bucket. -/
def PartFormed (b : Bucket) (h : Hdr) (pl : List Byte) : Prop :=
  h.len = 33 ∧ bitsOf (leAt pl 0 4) 31 6 = 0 ∧ bitsOf (leAt pl 4 4) 31 17 = 0 ∧ leAt pl 9 7 = 0 ∧ bitsOf (leAt pl 4 4) 15 0 < b.nblk

theorem Part.ofPayload_ok_iff {pl : List Byte} :
    (Part.ofPayload pl).ok = true ↔ bitsOf (leAt pl 0 4) 31 6 = 0 ∧ bitsOf (leAt pl 4 4) 31 17 = 0 ∧ leAt pl 9 7 = 0 := by
  simp only [Part.ofPayload, Bool.and_eq_true, decide_eq_true_eq, and_assoc]

section
variable {s : State} {p c : Nat} {h : Hdr} {pl : List Byte}

theorem partDue_iff : ¬ ((runningPlace s).isNone = true ∨ h.gen ≠ s.sec.cg) ↔ PartDue s h := by
  rw [PartDue, not_or, Decidable.not_not, Option.isNone_iff_eq_none]

theorem partFormed_iff {b : Bucket} :
    ¬ (h.len ≠ 33 ∨ (!(Part.ofPayload pl).ok) = true ∨ b.nblk ≤ (Part.ofPayload pl).block) ↔ PartFormed b h pl := by
  rw [not_or, not_or, Decidable.not_not, Bool.not_eq_true', Bool.not_eq_false, Part.ofPayload_ok_iff, Nat.not_le, and_assoc, and_assoc]
  rfl

variable (hc : (Part.ofPayload pl).ctx = c)
include hc

theorem takePart_of_not_due (hd : ¬ PartDue s h) :
    takePart s p h pl =
      putBucket (record s 9 (.ring p)) c { s.bucket c with late := satAdd 16 (s.bucket c).late 1 } := by
  subst hc
  exact (if_pos (Decidable.not_not.1 (mt partDue_iff.1 hd))).trans (modBucket_of_bucket (record_bucket ..) _)

variable (hd : PartDue s h)
include hd

theorem takePart_of_other (hm : ¬ ((s.bucket c).st = 1 ∧ (s.bucket c).port = p)) :
    takePart s p h pl = putBucket s c { s.bucket c with late := satAdd 16 (s.bucket c).late 1 } := by
  subst hc
  exact (if_neg (partDue_iff.2 hd)).trans (if_pos (Decidable.not_and_iff_not_or_not.1 hm))

variable (hm : (s.bucket c).st = 1 ∧ (s.bucket c).port = p)
include hm

theorem takePart_of_unformed (hf : ¬ PartFormed (s.bucket c) h pl) : takePart s p h pl = gradCheck s c 2 := by
  subst hc
  exact (if_neg (partDue_iff.2 hd)).trans ((if_neg (not_or.2 (hm.imp not_not_intro not_not_intro))).trans
    (if_pos (Decidable.not_not.1 (mt partFormed_iff.1 hf))))

variable (hf : PartFormed (s.bucket c) h pl)
include hf

theorem takePart_of_misscaled (hscale : pl.getD 8 0 ≠ scaleOf s (s.bucket c) (Part.ofPayload pl).block) :
    takePart s p h pl = gradCheck s c 3 := by
  subst hc
  exact (if_neg (partDue_iff.2 hd)).trans ((if_neg (not_or.2 (hm.imp not_not_intro not_not_intro))).trans
    ((if_neg (partFormed_iff.2 hf)).trans (if_pos hscale)))

variable (hscale : pl.getD 8 0 = scaleOf s (s.bucket c) (Part.ofPayload pl).block)
include hscale

/-- A part that is due, of this bucket, well formed and of its block's scale meets the last check. -/
theorem takePart_of_scaled :
    takePart s p h pl =
      if (s.bucket c).halves.contains (2 * (Part.ofPayload pl).block + (Part.ofPayload pl).half) then gradCheck s c 4
      else stagePart s (Part.ofPayload pl) pl := by
  subst hc
  exact (if_neg (partDue_iff.2 hd)).trans ((if_neg (not_or.2 (hm.imp not_not_intro not_not_intro))).trans
    ((if_neg (partFormed_iff.2 hf)).trans (if_neg (not_not_intro hscale))))

theorem takePart_of_again (hagain : 2 * (Part.ofPayload pl).block + (Part.ofPayload pl).half ∈ (s.bucket c).halves) :
    takePart s p h pl = gradCheck s c 4 :=
  (takePart_of_scaled hc hd hm hf hscale).trans (if_pos (List.contains_iff_mem.2 hagain))

theorem takePart_of_fresh (hfresh : 2 * (Part.ofPayload pl).block + (Part.ofPayload pl).half ∉ (s.bucket c).halves) :
    takePart s p h pl = stagePart s (Part.ofPayload pl) pl :=
  (takePart_of_scaled hc hd hm hf hscale).trans (if_neg (mt List.contains_iff_mem.1 hfresh))

end

/-- A part that passes every check is staged at its place (R263, R265, R268, R271). -/
theorem stagePart_eq {s : State} {x : Part} {pl : List Byte} {c : Nat} (hc : x.ctx = c) :
    stagePart s x pl =
      let b := s.bucket c
      let es := slice pl 16 512
      let base := 1024 * x.block + 512 * x.half
      let sum := ((List.range 512).map fun j => ((base + j + 1 : Nat) : Int) * signedOf 8 (es.getD j 0).toNat).sum
      putBucket { s with hmem := Memory.writeBytes s.hmem (b.sbase + base) es } c
        { b with bound := true, halves := b.halves ++ [2 * x.block + x.half], csum := csumAdd b.csum sum,
                 sats := satAdd 32 b.sats (es.filter fun e => decide (e = 0x80#8 ∨ e = 0x7F#8)).length,
                 st := if b.halves.length + 1 = 2 * b.nblk then 2 else 1 } := by
  subst hc
  have hlength (b : Bucket) : (b.halves ++ [2 * x.block + x.half]).length = b.halves.length + 1 := List.length_append
  simp only [stagePart, foldl_csumTerm, extremes_length, hlength]
  rfl

theorem execGradientPart_of_head {s : State} {port : PortId} {h : Hdr} {pl : List Byte} {rest : List (Hdr × List Byte)}
    (hi : (s.port port).inbox = (h, pl) :: rest) (ht : h.tag = 2) :
    execGradientPart port s = .next (takePart (inboxTaken s port rest) port h pl) := by
  simp only [execGradientPart, hi, if_pos ht]
  rfl

/-! The sending, the close and the timeout (R267, R270, R275). -/

section
variable {s : State} {ctx : Fin 64}

theorem execBucketSendStart_of_held (hst : (s.bucket ctx).st = 2) (hclean : (s.bucket ctx).clean = true)
    (hagreed : (s.bucket ctx).agreed = true) (hport : (s.port (s.bucket ctx).port).st = 4) :
    execBucketSendStart ctx s = .next (startRound s ctx) := congrArg _ (if_pos ⟨hst, hclean, hagreed, hport⟩)

theorem allSent_iff {c : Nat} :
    allSent s c = true ↔
      ∀ x, x ∈ (s.port (s.bucket c).port).sess.waiting → ¬ (x.typ = 2 ∧ x.w1 = (s.bucket c).id c) := by
  simp only [allSent, List.all_eq_true, Bool.not_eq_true', Bool.and_eq_false_iff, decide_eq_false_iff_not, Decidable.not_and_iff_not_or_not]

theorem execBucketCloseSent_of_sent (hst : (s.bucket ctx).st = 3) (hsent : allSent s ctx = true) :
    execBucketCloseSent ctx s = .next (putBucket (sendClose s ctx) ctx { s.bucket ctx with st := 4 }) :=
  congrArg _ ((if_pos ⟨hst, hsent⟩).trans (modBucket_of_bucket rfl _))

theorem execBucketTimeout_of_running (hst : (s.bucket ctx).st = 3 ∨ (s.bucket ctx).st = 4) :
    execBucketTimeout ctx s =
      let out := recordWith s 12 (.ring (s.bucket ctx).port) false
      .next (sendBucketCtl (putBucket (dropWaiting out ctx) ctx { s.bucket ctx with st := 6 }) ctx 0x15 0 0 0) := by
  have hbucket (src : Src) : (dropWaiting (recordWith s 12 src false) ctx).bucket ctx = s.bucket ctx := recordWith_bucket ..
  exact congrArg _ ((if_pos hst).trans (congrArg (sendBucketCtl · ctx 0x15 0 0 0) (modBucket_of_bucket (hbucket _) _)))

end

/-! The marshalling table (R248). -/

/-- A write of an entry is the marshalling unit's affair: the version in use counts it as refused, the other takes it. -/
theorem writeEntry_eq (version : Bool) (index : Nat) (data : Word64) (s : State) :
    writeEntry version index data s =
      { s with mars :=
          if version = s.sec.inj then { s.mars with refused := satAdd 16 s.mars.refused 1 }
          else if version then { s.mars with verB := gset s.mars.verB index data }
          else { s.mars with verA := gset s.mars.verA index data } } := by
  unfold writeEntry
  split
  · rfl
  · split <;> rfl

end Sys2Proof.Machine

namespace Sys2Proof.Proofs
open Sys2Proof Sys2Proof.Machine

/-- Settles O48: the commands by whether the bucket takes them, a part by the first check that fails, and each other event by its
equation above. -/
theorem bucketsFillAndSend : Obligations.BucketsFillAndSend := by
  intro s ctx _
  refine ⟨fun o ho => ?command, fun port h pl rest hi ht hc => ?part,
    fun hst hclean hagreed hport => execBucketSendStart_of_held hst hclean hagreed hport,
    fun hst hsent => execBucketCloseSent_of_sent hst (allSent_iff.2 hsent), execBucketTimeout_of_running,
    fun o version index data ho => ?entry⟩
  case command =>
    exact ⟨fun h => exec_bucketIssue_of_take ho ctx (takeBucketIssue_of_ready h),
      fun h => exec_bucketIssue_of_take ho ctx (takeBucketIssue_of_refused h),
      fun h => exec_bucketCancel_of_take ho ctx (takeBucketCancel_of_over h),
      fun h0 h5 h6 => exec_bucketCancel_of_take ho ctx (takeBucketCancel_of_busy (not_or.2 ⟨h0, not_or.2 ⟨h5, h6⟩⟩))⟩
  case part =>
    have hexec {t : State} (htake : takePart (inboxTaken s port rest) port h pl = t) : exec (.gradientPart port) s = .next t :=
      (execGradientPart_of_head hi ht).trans (congrArg _ htake)
    refine ⟨fun hd => hexec (takePart_of_not_due hc hd), fun hd hm => hexec (takePart_of_other hc hd hm),
      fun hd hm hf => hexec (takePart_of_unformed hc hd hm hf), fun hd hm hf hscale => hexec (takePart_of_misscaled hc hd hm hf hscale),
      fun hd hm hf hscale hfresh => hexec (takePart_of_again hc hd hm hf hscale (Decidable.not_not.1 hfresh)),
      fun hd hm hf hscale hfresh _ => hexec ((takePart_of_fresh (s := inboxTaken s port rest) hc hd hm hf hscale hfresh).trans (stagePart_eq hc))⟩
  case entry =>
    exact congrArg _ ((asAuth_of_authenticated ho ..).trans (congrArg (answer · 0 0 []) (writeEntry_eq version index data s)))

end Sys2Proof.Proofs
end

section
/-! PROOFS. The return of a bucket and the control records of the Keadigor (R267, R270, R272-R274, R294): the comparison of R with A and
the end of a round, a returned block by its brand, a GRET car by whether it is due and completes its block, a control record by its kind,
and from these O49. -/

namespace Sys2Proof.Machine

/-! Changes of one bucket context, one after another, and GRAD_CHECK (R265, R277). -/

/-- The bucket shows GRAD_CHECK with this cause. -/
def Bucket.gradChecked (b : Bucket) (cause : Nat) : Bucket := { b with gchk := true, gcause := cause }

section
variable {s : State} (hs : gwf s.mars.buckets = true) (c : Nat) (b : Bucket)
include hs

theorem putBucket_bucket : (putBucket s c b).bucket c = b := gget_gset_self hs c b

theorem putBucket_wf : gwf (putBucket s c b).mars.buckets = true := gwf_gset hs c b

theorem modBucket_putBucket (f : Bucket → Bucket) : modBucket (putBucket s c b) c f = putBucket s c (f b) := by
  simp only [modBucket, putBucket, gmod_gset hs]

theorem modBucket_record_putBucket (code : Nat) (src : Src) (f : Bucket → Bucket) :
    modBucket (record (putBucket s c b) code src) c f = putBucket (record (putBucket s c b) code src) c (f b) :=
  modBucket_of_bucket ((record_bucket ..).trans (putBucket_bucket hs c b)) f

theorem gradCheck_putBucket (cause : Nat) :
    gradCheck (putBucket s c b) c cause = record (putBucket s c (b.gradChecked cause)) 14 (.ring b.port) := by
  rw [gradCheck, modBucket_putBucket hs, putBucket_bucket hs]
  rfl

end

theorem record_buckets_wf {s : State} (hs : gwf s.mars.buckets = true) (code : Nat) (src : Src) :
    gwf (record s code src).mars.buckets = true := by rwa [record, recordWith_mars]

/-! The comparison of R with A, and the end of a round in a mismatch (R267, R273, R274). -/

/-- The bucket as a round begins. -/
def Bucket.started (b : Bucket) : Bucket :=
  { b with st := 3, back := [], cars := gconst none, brands := gconst 0, racc := 0, rfails := gconst 0, haveA := false }

theorem startRound_putBucket {s : State} (hs : gwf s.mars.buckets = true) (c : Nat) (b : Bucket) :
    startRound (putBucket s c b) c = sendBlocks (putBucket s c b.started) c 0 :=
  congrArg (sendBlocks · c 0) (modBucket_putBucket hs c b _)

/-- The bucket as it records a mismatch: R is shown, with GRAD_CHECK. -/
def Bucket.mismatched (b : Bucket) : Bucket := { b with rsum := b.racc }.gradChecked 1

section
variable {s : State} {c : Nat}

/-- A round that fails records GRAD_CHECK; a further one starts from staging, and after the third the bucket is FAILED. -/
theorem roundFailed_eq (hs : gwf s.mars.buckets = true) :
    roundFailed s c =
      let b := s.bucket c
      let failed := record (putBucket s c b.mismatched) 14 (.ring b.port)
      if b.rounds < 2 then sendBlocks (putBucket failed c { b.mismatched with rounds := b.rounds + 1 }.started) c 0
      else putBucket failed c { b.mismatched with st := 6 } := by
  have hfailed : gradCheck (modBucket s c fun b => { b with rsum := b.racc }) c 1 =
      record (putBucket s c (s.bucket c).mismatched) 14 (.ring (s.bucket c).port) := gradCheck_putBucket hs c _ 1
  have hwf := record_buckets_wf (putBucket_wf hs c (s.bucket c).mismatched) 14 (.ring (s.bucket c).port)
  rw [roundFailed, hfailed, modBucket_record_putBucket hs, modBucket_record_putBucket hs, startRound_putBucket hwf, record_bucket,
    putBucket_bucket hs]
  rfl

theorem checkReturn_of_partial (h : ¬ ((s.bucket c).haveA = true ∧ (s.bucket c).back.length = (s.bucket c).nblk)) :
    checkReturn s c = s := if_neg h

variable (ha : (s.bucket c).haveA = true) (hback : (s.bucket c).back.length = (s.bucket c).nblk)
include ha hback

theorem checkReturn_of_equal (h : (s.bucket c).racc = (s.bucket c).asum) :
    checkReturn s c = putBucket s c { s.bucket c with rsum := (s.bucket c).racc, st := 5 } :=
  (if_pos ⟨ha, hback⟩).trans (if_pos h)

theorem checkReturn_of_unequal (h : (s.bucket c).racc ≠ (s.bucket c).asum) : checkReturn s c = roundFailed s c :=
  (if_pos ⟨ha, hback⟩).trans (if_neg h)

end

/-! A complete returned block, by its brand (R273). -/

/-- The bytes of block `k` in the cars that have come. -/
def Bucket.returnBytes (b : Bucket) (k : Nat) : List Byte := (List.range 16).flatMap fun i => (gget b.cars (16 * k + i)).getD []

/-- The bucket without the cars of block `k`. -/
def Bucket.withoutCars (b : Bucket) (k : Nat) : Bucket :=
  { b with cars := gmodKeys b.cars ((List.range 16).map fun i => 16 * k + i) fun _ _ => none }

/-- Under RMODE 0 the block is written to its place. -/
def returnWritten (s : State) (b : Bucket) (k : Nat) (bytes : List Byte) : State :=
  if (gget b.desc 0).toNat.testBit 8 then s else { s with hmem := Memory.writeBytes s.hmem (b.rbase + 4096 * k) bytes }

theorem returnWritten_putBucket (s : State) (c : Nat) (b : Bucket) (k : Nat) (bytes : List Byte) :
    returnWritten (putBucket s c b) b k bytes = putBucket (returnWritten s b k bytes) c b := by
  unfold returnWritten
  split <;> rfl

theorem returnWritten_mars (s : State) (b : Bucket) (k : Nat) (bytes : List Byte) : (returnWritten s b k bytes).mars = s.mars := by
  unfold returnWritten
  split <;> rfl

theorem ite_writes_eq_returnWritten (s : State) (b : Bucket) (k : Nat) (bytes : List Byte) :
    (if b.writes = true then { s with hmem := Memory.writeBytes s.hmem (b.rbase + 4096 * k) bytes } else s) = returnWritten s b k bytes := by
  simp only [Bucket.writes, Bool.not_eq_true', ← Bool.not_eq_true, ite_not]
  rfl

/-- The terms (i + 1) r_i of block `k`. -/
theorem foldl_csumTerm_return (bytes : List Byte) (k acc : Nat) :
    (List.range 1024).foldl (fun a j => csumAdd a (csumTerm (1024 * k + j) (signedOf 32 (leAt bytes (4 * j) 4)))) acc =
      csumAdd acc ((List.range 1024).map fun j => ((1024 * k + j + 1 : Nat) : Int) * signedOf 32 (leAt bytes (4 * j) 4)).sum := by
  have hne : List.range 1024 ≠ [] := mt List.range_eq_nil.1 (by decide)
  simp only [foldl_csumAdd _ hne, csumTerm, Int.natCast_succ]

section
variable {s : State} (hs : gwf s.mars.buckets = true) (p c : Nat) (b : Bucket) {k brand : Nat} {bytes : List Byte}
include hs

theorem takeReturned_of_branded (h : brandOf bytes = brand) :
    takeReturned (putBucket s c b) p c k bytes brand =
      let sum := ((List.range 1024).map fun j => ((1024 * k + j + 1 : Nat) : Int) * signedOf 32 (leAt bytes (4 * j) 4)).sum
      checkReturn (putBucket (returnWritten s b k bytes) c
        { b.withoutCars k with racc := csumAdd b.racc sum, back := b.back ++ [k] }) c := by
  have hwritten : gwf (returnWritten s b k bytes).mars.buckets = true := by
    rw [returnWritten_mars]
    exact hs
  simp only [takeReturned, putBucket_bucket hs, if_pos h, foldl_csumTerm_return]
  rw [ite_writes_eq_returnWritten, returnWritten_putBucket, modBucket_putBucket hwritten]
  rfl

theorem takeReturned_of_misbranded (h : brandOf bytes ≠ brand) :
    takeReturned (putBucket s c b) p c k bytes brand =
      let n := gget b.rfails k + 1
      let r := putBucket (record (putBucket s c b) 1 (.ring p)) c { b.withoutCars k with rfails := gset b.rfails k n }
      if 3 ≤ n then roundFailed r c else sendBucketCtl r c 3 k 0 0 := by
  simp only [takeReturned, putBucket_bucket hs, if_neg h, modBucket_record_putBucket hs]
  rfl

end

/-! A GRET car (R273, R293). -/

/-- The block that a GRET car is of. -/
def retBlock (car : RxCar) : Nat := bitsOf car.w2.toNat 15 0
/-- The part of its block that a GRET car brings. -/
def retPart (car : RxCar) : Nat := bitsOf car.w2.toNat 19 16

/-- The car is of this bucket's REDUCING round, of a block not yet back, and not present. -/
def ReturnDue (b : Bucket) (p c : Nat) (car : RxCar) : Prop :=
  b.st = 4 ∧ b.id c = car.w1.toNat ∧ b.port = p ∧ bitsOf car.w2.toNat 21 20 = b.rounds ∧ retBlock car < b.nblk ∧ retBlock car ∉ b.back ∧
    gget b.cars (16 * retBlock car + retPart car) = none

/-- The bucket with the car in its place; the last car of a block brings its brand. -/
def Bucket.withReturnCar (b : Bucket) (car : RxCar) : Bucket :=
  { b with cars := gset b.cars (16 * retBlock car + retPart car) (some car.payload),
           brands := if retPart car = 15 then gset b.brands (retBlock car) car.w3.toNat else b.brands }

/-- Every car of block `k` has come. -/
def Bucket.ReturnWhole (b : Bucket) (k : Nat) : Prop := ∀ i, i < 16 → gget b.cars (16 * k + i) ≠ none

theorem Bucket.returnWhole_iff {b : Bucket} {k : Nat} :
    ((List.range 16).all fun i => (gget b.cars (16 * k + i)).isSome) = true ↔ b.ReturnWhole k := by
  simp only [Bucket.ReturnWhole, List.all_eq_true, List.mem_range, Option.isSome_iff_ne_none]

section
variable {s : State} {p c : Nat} {car : RxCar}

theorem returnDue_iff {b : Bucket} :
    ¬ (b.st ≠ 4 ∨ b.id c ≠ car.w1.toNat ∨ b.port ≠ p ∨ bitsOf car.w2.toNat 21 20 ≠ b.rounds ∨ b.nblk ≤ retBlock car ∨
        b.back.contains (retBlock car) = true ∨ (gget b.cars (16 * retBlock car + retPart car)).isSome = true) ↔ ReturnDue b p c car := by
  simp only [not_or, Decidable.not_not, ReturnDue, Nat.not_le, List.contains_iff_mem, Option.isSome_iff_ne_none, ne_eq]

variable (hc : bitsOf car.w1.toNat 5 0 = c)
include hc

theorem takeReturnCar_of_not_due (hd : ¬ ReturnDue (s.bucket c) p c car) : takeReturnCar s p car = s := by
  subst hc
  exact if_pos (Decidable.not_not.1 (mt returnDue_iff.1 hd))

variable (hs : gwf s.mars.buckets = true) (hd : ReturnDue (s.bucket c) p c car)
include hs hd

/-- A car that is due is kept, and its block is taken when it is then whole. -/
theorem takeReturnCar_of_due :
    takeReturnCar s p car =
      let a := (s.bucket c).withReturnCar car
      let k := retBlock car
      if (List.range 16).all (fun i => (gget a.cars (16 * k + i)).isSome) = true
        then takeReturned (putBucket s c a) p c k (a.returnBytes k) (gget a.brands k) else putBucket s c a := by
  subst hc
  refine (if_neg (returnDue_iff.2 hd)).trans ?_
  rw [modBucket_of_bucket rfl, putBucket_bucket hs]
  rfl

theorem takeReturnCar_of_partial (hw : ¬ ((s.bucket c).withReturnCar car).ReturnWhole (retBlock car)) :
    takeReturnCar s p car = putBucket s c ((s.bucket c).withReturnCar car) :=
  (takeReturnCar_of_due hc hs hd).trans (if_neg (mt Bucket.returnWhole_iff.1 hw))

theorem takeReturnCar_of_whole (hw : ((s.bucket c).withReturnCar car).ReturnWhole (retBlock car)) :
    takeReturnCar s p car =
      let a := (s.bucket c).withReturnCar car
      takeReturned (putBucket s c a) p c (retBlock car) (a.returnBytes (retBlock car)) (gget a.brands (retBlock car)) :=
  (takeReturnCar_of_due hc hs hd).trans (if_pos (Bucket.returnWhole_iff.2 hw))

end

theorem execGret_of_take {s t : State} {port : PortId} {car : RxCar} (htyp : car.typ = 3) (ht : receiveCar s port car = .take t) :
    execGret port car s = .next (takeReturnCar t port car) := by
  simp only [execGret, htyp, ht, ne_eq, not_true_eq_false, if_false]

/-! A control car (R294). -/

theorem takeSctl_of_take {s t : State} {port : PortId} {kind : Nat} {car : RxCar} (htyp : car.typ = 4)
    (hkind : kind ∈ (ctlRecords car.payload).map (·.kind)) (ht : receiveCar s port car = .take t) :
    takeSctl port kind car s = (ctlRecords car.payload).foldl (takeRecord port) t := by
  have hcar : ctlCar car kind = true := by
    rw [ctlCar, decide_eq_true htyp, Bool.true_and, List.contains_iff_mem.2 hkind, Bool.true_or]
  simp only [takeSctl, hcar, ht, Bool.not_true, Bool.false_eq_true, if_false]

/-! Its records (R267, R270, R273, R294). -/

/-- The record names a bucket of the port that is not IDLE. -/
def CtlOfBucket (s : State) (p : Nat) (r : Ctl) : Prop :=
  let c := bitsOf r.id 5 0
  (s.bucket c).st ≠ 0 ∧ (s.bucket c).id c = r.id ∧ (s.bucket c).port = p

/-- The record names a stream of the port that is not IDLE. -/
def CtlOfStream (s : State) (p : Nat) (r : Ctl) : Prop :=
  let x := s.ctx p (bitsOf r.id 4 0)
  x.id = r.id ∧ x.st ≠ 0

section
variable {s : State} {p : Nat} {r : Ctl}

theorem takeRecord_of_stream (hk : r.kind = 4) (h : CtlOfStream s p r) : takeRecord p s r = s :=
  (if_pos hk).trans (if_pos h)

theorem takeRecord_of_unknown_stream (hk : r.kind = 4) (h : ¬ CtlOfStream s p r) : takeRecord p s r = malformed s p :=
  (if_pos hk).trans (if_neg h)

theorem ctlUnknown_iff {c : Nat} (hc : bitsOf r.id 5 0 = c) :
    (!(ctlKinds.contains r.kind) || !(decide ((s.bucket c).st ≠ 0) && decide ((s.bucket c).id c = r.id) && decide ((s.bucket c).port = p))) = true ↔
      ¬ (r.kind ∈ ctlKinds ∧ CtlOfBucket s p r) := by
  subst hc
  simp only [CtlOfBucket, ← Bool.not_and, Bool.not_eq_true', ← Bool.not_eq_true, Bool.and_eq_true, List.contains_iff_mem, decide_eq_true_eq,
    and_assoc]

theorem takeRecord_of_unknown (hk : r.kind ≠ 4) (h : ¬ (r.kind ∈ ctlKinds ∧ CtlOfBucket s p r)) : takeRecord p s r = malformed s p :=
  (if_neg hk).trans (if_pos ((ctlUnknown_iff rfl).2 h))

/-- A record for a bucket acts by its kind. -/
theorem takeRecord_of_bucket {kind : Nat} (hk : r.kind = kind) (hkinds : kind ≠ 4 ∧ kind ∈ ctlKinds) (hb : CtlOfBucket s p r) :
    takeRecord p s r =
      let c := bitsOf r.id 5 0
      if kind = 0x12 then takeBagree s c r.a0
      else if kind = 0x14 then takeBrsnd s c r.a0 r.a1
      else if kind = 0x16 then takeBasum s c r.a0 r.a1
      else s := by
  subst hk
  exact (if_neg hkinds.1).trans (if_neg (mt (ctlUnknown_iff rfl).1 (not_not_intro ⟨hkinds.2, hb⟩)))

end

section
variable {s : State} {c a0 a1 : Nat}

theorem takeBagree_of_accepted (h0 : a0 = 0) (hst : (s.bucket c).st = 1 ∨ (s.bucket c).st = 2) :
    takeBagree s c a0 = putBucket s c { s.bucket c with agreed := true } := if_pos ⟨h0, hst⟩

theorem takeBagree_of_refused (hs : gwf s.mars.buckets = true) (h1 : a0 = 1) (hst : (s.bucket c).st = 1) :
    takeBagree s c a0 =
      let b := (s.bucket c).gradChecked 6
      putBucket (record (putBucket s c b) 14 (.ring (s.bucket c).port)) c { b with st := 6 } :=
  (if_neg fun h => absurd (h1.symm.trans h.1) (by decide)).trans ((if_pos ⟨h1, hst⟩).trans (modBucket_record_putBucket hs c _ 14 _ _))

theorem takeBrsnd_of_round (hst : (s.bucket c).st = 3 ∨ (s.bucket c).st = 4) (hround : a1 = (s.bucket c).rounds) (hk : a0 < (s.bucket c).nblk) :
    takeBrsnd s c a0 a1 =
      let sent := sendBlocks (putBucket s c { s.bucket c with resends := satAdd 16 (s.bucket c).resends 1 }) c a0
      if (s.bucket c).st = 4 then sendClose sent c else sent := if_pos ⟨hst, hround, hk⟩

theorem takeBasum_of_round (hst : (s.bucket c).st = 4) (hround : a1 = (s.bucket c).rounds) :
    takeBasum s c a0 a1 = checkReturn (putBucket s c { s.bucket c with asum := a0 % 2 ^ 61, haveA := true }) c := if_pos ⟨hst, hround⟩

end
end Sys2Proof.Machine

namespace Sys2Proof.Proofs
open Sys2Proof Sys2Proof.Machine

/-- Settles O49: a GRET car by whether it is due, whether its block is then whole and whether the block's brand agrees, and a control
record by its kind and whether its ID names a context of the port. -/
theorem bucketReturnsAndControl : Obligations.BucketReturnsAndControl := by
  intro s port car t ht hrecv
  have hb := ht.buckets
  refine ⟨fun htyp => ?gret, fun c => ⟨checkReturn_of_partial, checkReturn_of_equal, checkReturn_of_unequal, roundFailed_eq hb⟩,
    fun kind i hi htyp hkind => ?control, fun r => ⟨?malformed, ?stop, fun hk hbucket => ⟨fun h0 hst => ?accepted, fun h1 hst => ?refused⟩,
      fun hk hbucket hst hround hblock => ?resend, fun hk hbucket hst hround => ?sum⟩⟩
  case gret =>
    have hexec {u : State} (htake : takeReturnCar t port car = u) : exec (.gret port car) s = .next u :=
      (execGret_of_take htyp hrecv).trans (congrArg _ htake)
    exact ⟨fun hd => hexec (takeReturnCar_of_not_due rfl hd), fun hd hw => hexec (takeReturnCar_of_partial rfl hb hd hw),
      fun hd hw hbrand => hexec ((takeReturnCar_of_whole rfl hb hd hw).trans (takeReturned_of_branded hb _ _ _ hbrand)),
      fun hd hw hbrand => hexec ((takeReturnCar_of_whole rfl hb hd hw).trans (takeReturned_of_misbranded hb _ _ _ hbrand))⟩
  case control =>
    simp only [List.mem_cons, Prod.mk.injEq, List.not_mem_nil, or_false] at hi
    obtain ⟨rfl, rfl⟩ | ⟨rfl, rfl⟩ | ⟨rfl, rfl⟩ | ⟨rfl, rfl⟩ | ⟨rfl, rfl⟩ := hi
    all_goals exact congrArg _ (takeSctl_of_take htyp hkind hrecv)
  case malformed =>
    rintro (⟨hk, hbucket⟩ | ⟨hk, hstream⟩ | hk)
    · exact takeRecord_of_unknown (ne_of_mem_of_not_mem hk (by decide)) fun h => hbucket h.2
    · exact takeRecord_of_unknown_stream hk hstream
    · exact takeRecord_of_unknown (ne_of_mem_of_not_mem List.mem_cons_self hk).symm fun h => hk h.1
  case stop =>
    rintro (⟨hk, hbucket⟩ | ⟨hk, hstream⟩)
    · exact takeRecord_of_bucket hk (by decide) hbucket
    · exact takeRecord_of_stream hk hstream
  case accepted => exact (takeRecord_of_bucket hk (by decide) hbucket).trans (takeBagree_of_accepted h0 hst)
  case refused => exact (takeRecord_of_bucket hk (by decide) hbucket).trans (takeBagree_of_refused hb h1 hst)
  case resend => exact (takeRecord_of_bucket hk (by decide) hbucket).trans (takeBrsnd_of_round hst hround hblock)
  case sum => exact (takeRecord_of_bucket hk (by decide) hbucket).trans (takeBasum_of_round hst hround)

end Sys2Proof.Proofs
end

section
/-! PROOFS. A step on an empty queue (R310, R444, log 2): which parts a microsecond can change, the wall counter with nothing to slew in,
and from these O2. -/

namespace Sys2Proof.Machine

theorem step_of_empty {s : State} (h : s.pending = []) : step s = .next (tick s) := by rw [step, h]

theorem tick_of_off {s : State} (h : s.dev.st = 0) : tick s = s := if_pos h

theorem tick_of_on {s : State} (h : s.dev.st ≠ 0) : tick s = tickDogs (tickRun (tickWall s)) := if_neg h

theorem wallPlus_natCast (w d : Nat) : wallPlus w (d : Int) = (w + d) % 2 ^ 64 := by
  unfold wallPlus
  omega

theorem tickWall_dev_of_no_slew {s : State} (h : s.dev.slew = 0) :
    (tickWall s).dev = { s.dev with wall := (s.dev.wall + 1000) % 2 ^ 64 } := by
  rw [tickWall, if_pos h, ← wallPlus_natCast]
  rfl

/-- RUNUS and the watchdogs leave the DEV block alone. -/
theorem tickDogs_tickRun_dev (s : State) : (tickDogs (tickRun s)).dev = s.dev :=
  (tickDogs_same (ps := [.sec, .sheds]) (tickRun_same Same.refl (by decide)) (by decide)).kept .dev (by decide)

end Sys2Proof.Machine

namespace Sys2Proof.Proofs
open Sys2Proof Sys2Proof.Machine

/-- Settles O2: the tick by DEV.STATE, and what it leaves alone part by part. -/
theorem stepOnAnEmptyQueue : Obligations.StepOnAnEmptyQueue := by
  intro s hq
  rw [step_of_empty hq]
  refine ⟨fun hoff => congrArg _ (tick_of_off hoff), fun hon => ⟨tick s, rfl, tick_same Same.refl (by decide), fun hslew => ?_⟩⟩
  rw [tick_of_on hon, tickDogs_tickRun_dev, tickWall_dev_of_no_slew hslew]

end Sys2Proof.Proofs
end

section
/-! PROOFS. What the commands of a port share (R288, R289, R296-R298): a port put in its place and changed again, and a received car by the
first check that it fails; O50, O51 and O52 rest on these. -/

namespace Sys2Proof.Machine

/-- A port is put in its place. -/
def putPort (s : State) (p : Nat) (r : Port) : State := { s with ports := gset s.ports p r }

section
variable {s : State} {p : Nat}

theorem modPort_of_port {r : Port} {f : Port → Port} (h : f (s.port p) = r) : modPort s p f = putPort s p r :=
  congrArg (putPort s p) h

theorem portState_of_port {r : Port} {f : Port → Port} (h : f (s.port p) = r) : portState s p f = fixSource (putPort s p r) :=
  congrArg fixSource (modPort_of_port h)

section
variable (hs : gwf s.ports = true) (r : Port)
include hs

theorem putPort_port : (putPort s p r).port p = r := gget_gset_self hs p r

theorem putPort_wf : gwf (putPort s p r).ports = true := gwf_gset hs p r

theorem putPort_putPort (r' : Port) : putPort (putPort s p r) p r' = putPort s p r' := by
  simp only [putPort, gset_gset hs]

theorem modPort_putPort (f : Port → Port) : modPort (putPort s p r) p f = putPort s p (f r) :=
  (modPort_of_port (congrArg f (putPort_port hs r))).trans (putPort_putPort hs r _)

theorem portState_putPort (f : Port → Port) : portState (putPort s p r) p f = fixSource (putPort s p (f r)) :=
  congrArg fixSource (modPort_putPort hs r f)

end

theorem modPort_wf (hs : gwf s.ports = true) (f : Port → Port) : gwf (modPort s p f).ports = true := gwf_gmod hs p f

end

/-! A received car, by the first check that it fails (R296). -/

/-- A port of AUTH or UP, with lock. -/
def Port.Hears (q : Port) : Prop := (q.st = 3 ∨ q.st = 4) ∧ q.locked = true

/-- A HELLO or KEX in the clear in AUTH, and an encrypted car in UP. -/
def Port.Admits (q : Port) (car : RxCar) : Prop :=
  (q.st = 3 → car.enc = false ∧ (car.typ = 9 ∨ car.typ = 10)) ∧ (q.st = 4 → car.enc = true)

theorem Port.not_admits_iff {q : Port} {car : RxCar} :
    (q.st = 3 ∧ (car.enc ∨ (car.typ ≠ 9 ∧ car.typ ≠ 10))) ∨ (q.st = 4 ∧ !car.enc) ↔ ¬ q.Admits car := by
  rw [Port.Admits, Classical.not_and_iff_not_or_not, Classical.not_imp, Classical.not_imp, Classical.not_and_iff_not_or_not, not_or,
    Bool.not_eq_false, Bool.not_eq_true, Bool.not_eq_true']

theorem Port.not_hears_iff {q : Port} : (q.st ≠ 3 ∧ q.st ≠ 4) ∨ !q.locked ↔ ¬ q.Hears := by
  rw [Port.Hears, Classical.not_and_iff_not_or_not, not_or, Bool.not_eq_true, Bool.not_eq_true']

/-- The checks of a car of UP whose tag holds: its sequence number, its form and its credit. -/
def receiveNumbered (s : State) (p : Nat) (car : RxCar) : Got :=
  let q := s.port p
  if 32768 ≤ seqAhead q.sess car then .drop s
  else if 0 < seqAhead q.sess car then .drop (sendNak s p)
  else
    let t := modPort s p fun q => { q with sess := q.sess.accept car.kp }
    if q.wellFormed car && q.creditOk car then .take (modPort t p fun q => { q with sess := q.sess.count car }) else .drop (malformed t p)

section
variable {s : State} {p : Nat} {car : RxCar}

theorem receiveCar_of_deaf (hh : ¬ (s.port p).Hears) : receiveCar s p car = .drop s := if_pos (Port.not_hears_iff.2 hh)

section
variable (hh : (s.port p).Hears)
include hh

theorem receiveCar_of_bad_crc (hc : car.crcOk = false) :
    receiveCar s p car = .drop (sendNak (putPort s p { s.port p with crcfail := min ((s.port p).crcfail + 1) 65535 }) p) := by
  refine (if_neg (mt Port.not_hears_iff.1 (not_not_intro hh))).trans (if_pos ?_)
  rw [hc]
  rfl

variable (hc : car.crcOk = true)
include hc

theorem receiveCar_of_refused (ha : ¬ (s.port p).Admits car) :
    receiveCar s p car = .drop (putPort s p { s.port p with unauth := min ((s.port p).unauth + 1) 65535 }) := by
  refine (if_neg (mt Port.not_hears_iff.1 (not_not_intro hh))).trans ((if_neg ?_).trans (if_pos (Port.not_admits_iff.2 ha)))
  rw [hc]
  decide

variable (ha : (s.port p).Admits car)
include ha

theorem receiveCar_of_admitted :
    receiveCar s p car =
      if (s.port p).st = 3 then (if (s.port p).wellFormed car then .take s else .drop (malformed s p))
      else if !car.tagOk then .drop (gcmFail s p)
      else receiveNumbered s p car := by
  refine (if_neg (mt Port.not_hears_iff.1 (not_not_intro hh))).trans
    ((if_neg ?_).trans (if_neg (mt Port.not_admits_iff.1 (not_not_intro ha))))
  rw [hc]
  decide

theorem receiveCar_of_clear (h3 : (s.port p).st = 3) :
    receiveCar s p car = if (s.port p).wellFormed car then .take s else .drop (malformed s p) :=
  (receiveCar_of_admitted hh hc ha).trans (if_pos h3)

variable (h4 : (s.port p).st = 4)
include h4

theorem receiveCar_of_bad_tag (ht : car.tagOk = false) : receiveCar s p car = .drop (gcmFail s p) := by
  rw [receiveCar_of_admitted hh hc ha, if_neg (by omega), ht]
  rfl

variable (ht : car.tagOk = true)
include ht

theorem receiveCar_of_tagged : receiveCar s p car = receiveNumbered s p car := by
  rw [receiveCar_of_admitted hh hc ha, if_neg (by omega), ht]
  rfl

theorem receiveCar_of_duplicate (hd : 32768 ≤ seqAhead (s.port p).sess car) : receiveCar s p car = .drop s :=
  (receiveCar_of_tagged hh hc ha h4 ht).trans (if_pos hd)

theorem receiveCar_of_gap (hpos : 0 < seqAhead (s.port p).sess car) (hd : seqAhead (s.port p).sess car < 32768) :
    receiveCar s p car = .drop (sendNak s p) :=
  (receiveCar_of_tagged hh hc ha h4 ht).trans ((if_neg (Nat.not_le.2 hd)).trans (if_pos hpos))

theorem receiveCar_of_expected (hs : gwf s.ports = true) (hd : seqAhead (s.port p).sess car = 0) :
    receiveCar s p car =
      let q := s.port p
      let e := q.sess.accept car.kp
      if q.wellFormed car = true ∧ q.creditOk car = true then .take (putPort s p { q with sess := e.count car })
      else .drop (putPort s p { q with sess := e, malform := min (q.malform + 1) 65535 }) := by
  refine (receiveCar_of_tagged hh hc ha h4 ht).trans ((if_neg (by omega)).trans ((if_neg (by omega)).trans ?_))
  simp only [malformed, modPort_modPort hs, Bool.and_eq_true]
  rfl

end

/-- A car of UP that is taken changes its port at most. -/
theorem receiveNumbered_take_frame {t : State} (hs : gwf s.ports = true) (h : receiveNumbered s p car = .take t) :
    gwf t.ports = true ∧ t.dev = s.dev := by
  simp only [receiveNumbered] at h
  split at h
  · cases h
  · split at h
    · cases h
    · split at h
      · cases h
        exact ⟨modPort_wf (modPort_wf hs _) _, rfl⟩
      · cases h

/-- A car that is taken changes its port at most. -/
theorem receiveCar_take_frame {t : State} (hs : gwf s.ports = true) (h : receiveCar s p car = .take t) :
    gwf t.ports = true ∧ t.dev = s.dev := by
  by_cases hh : (s.port p).Hears
  case neg => cases (receiveCar_of_deaf hh).symm.trans h
  cases hc : car.crcOk
  case false => cases (receiveCar_of_bad_crc hh hc).symm.trans h
  by_cases ha : (s.port p).Admits car
  case neg => cases (receiveCar_of_refused hh hc ha).symm.trans h
  obtain ⟨h3 | h4, -⟩ := id hh
  · rw [receiveCar_of_clear hh hc ha h3] at h
    split at h
    · cases h
      exact ⟨hs, rfl⟩
    · cases h
  · cases ht : car.tagOk
    case false => cases (receiveCar_of_bad_tag hh hc ha h4 ht).symm.trans h
    exact receiveNumbered_take_frame hs ((receiveCar_of_tagged hh hc ha h4 ht).symm.trans h)

end

end Sys2Proof.Machine
end

section
/-! PROOFS. A port's configuration and control, its markers and windows, and its training (R284-R289, R305, R313, R314): one equation for
each case of each command, the lanes that an attempt makes ready, the rate it judges, and from these O50. -/

namespace Sys2Proof.Machine

/-! PORT.CFG (R313, R314). -/

theorem bitOf_toNat {w : Nat} (x : BitVec w) (i : Nat) : bitOf x.toNat i = x.getLsbD i := BitVec.testBit_toNat x

theorem otherHost_eq_not_decide (s : State) (p : Nat) :
    (!otherHost s p) = decide (∀ k : Nat, k < 144 → k ≠ p → (s.port k).host = false) := by
  rw [Bool.eq_iff_iff]
  simp only [otherHost, Bool.not_eq_true', List.any_eq_false, List.mem_range, Bool.and_eq_true, decide_eq_true_eq, not_and,
    Bool.not_eq_true]

/-- HOST after a write of PORT.CFG: the lock freezes it, and it stays 0 while another port has it. -/
def hostWritten (s : State) (p : Nat) (data : Word64) : Bool :=
  if s.grm.lock then (s.port p).host else data.getLsbD 5 && decide (∀ k : Nat, k < 144 → k ≠ p → (s.port k).host = false)

/-- The port with the fields of a write of PORT.CFG but EN. -/
def Port.configured (q : Port) (data : Word64) (host : Bool) : Port :=
  { q with maxrate := (data.extractLsb' 1 2).toNat, minw := (data.extractLsb' 3 2).toNat, host := host, tsrc := data.getLsbD 6,
           tryint := (data.extractLsb' 16 8).toNat }

theorem hostWritten_eq (s : State) (p : Nat) (data : Word64) :
    hostWritten s p data = if s.grm.lock then (s.port p).host else bitOf data.toNat 5 && !otherHost s p := by
  rw [hostWritten, bitOf_toNat, otherHost_eq_not_decide]

section
variable {s : State} {p : Nat} {data : Word64}

theorem writePortCfg_of_enabled (h : data.getLsbD 0 = true) :
    writePortCfg p data.toNat s =
      fixSource (putPort s p { (s.port p).configured data (hostWritten s p data) with
        en := true, st := if (s.port p).st = 0 then 1 else (s.port p).st }) := by
  have hen : ¬ (!bitOf data.toNat 0) = true := by rw [bitOf_toNat, h]; decide
  rw [hostWritten_eq]
  exact portState_of_port (if_neg hen)

theorem writePortCfg_of_disabled (h : data.getLsbD 0 = false) :
    writePortCfg p data.toNat s =
      let r := (s.port p).configured data (hostWritten s p data)
      fixSource (putPort s p { (if (s.port p).st = 0 then r else r.endSession 0) with en := false }) := by
  have hen : (!bitOf data.toNat 0) = true := by rw [bitOf_toNat, h]; decide
  rw [hostWritten_eq]
  exact portState_of_port (if_pos hen)

end

/-! PORT.CTRL and the timers of a port's state (R285, R288, R289, R305, R314). -/

section
variable {s : State} {port : PortId} {o : Origin}

theorem takeTrain_of_down (h : (s.port port).st = 1) : takeTrain port s = putPort s port (s.port port).toTrain :=
  modPort_of_port (if_pos h)

theorem takeTrain_of_other (h : (s.port port).st ≠ 1) : takeTrain port s = putPort s port (s.port port) :=
  modPort_of_port (if_neg h)

theorem takeQclr_of_inside (ho : Origin.internal o = true) : takeQclr o port s = s := if_pos ho

theorem takeQclr_of_quarantined (ho : Origin.internal o = false) (h : (s.port port).st = 6) :
    takeQclr o port s = putPort s port { s.port port with st := 1, qcause := 0 } :=
  (if_neg (ne_true_of_eq_false ho)).trans (modPort_of_port (if_pos h))

theorem takeDrop_of_session (h : (s.port port).st = 3 ∨ (s.port port).st = 4 ∨ (s.port port).st = 5) :
    takeDrop port s = fixSource (putPort s port ((s.port port).endSession 1)) :=
  portState_of_port (if_pos h)

/-- An authenticated access whose write ends in `t` answers STATUS 0. -/
theorem next_asAuth {t : State} {f : State → State} (ho : Origin.auth o = true) (h : f s = t) :
    Host.Outcome.next (asAuth o s f) = (.next { t with resp := ⟨0, 0, []⟩ } : Host.Outcome State Fault Refusal) :=
  congrArg _ ((asAuth_of_authenticated ho ..).trans (congrArg (answer · 0 0 []) h))

theorem execTryintExpiry_of_down (h : (s.port port).st = 1) (ht : (s.port port).tryint ≠ 0) :
    execTryintExpiry port s = .next (putPort s port (s.port port).toTrain) :=
  congrArg _ (modPort_of_port (if_pos ⟨h, ht⟩))

theorem execNoCarTimeout_of_up (h : (s.port port).st = 4) :
    execNoCarTimeout port s = .next (fixSource (putPort s port ((s.port port).endSession 1))) :=
  congrArg _ (portState_of_port (if_pos h))

theorem execRetrainTimeout_of_retrain (h : (s.port port).st = 5) :
    execRetrainTimeout port s = .next (fixSource (putPort s port ((s.port port).endSession 1))) :=
  congrArg _ (portState_of_port (if_pos h))

end

/-! Markers (R284). -/

section
variable {s : State} {port : PortId} {good : Bool} {frame : BitVec 32} (hst : (s.port port).st = 3 ∨ (s.port port).st = 4)
include hst

theorem not_out_of_session : ¬ ((s.port port).st ≠ 3 ∧ (s.port port).st ≠ 4) := by omega

theorem execMarkerCar_of_found (hl : (s.port port).locked = false) (hg : good = true) :
    execMarkerCar port good frame s =
      .next (putPort s port { s.port port with locked := true, badMarks := 0, frame := (frame.toNat + 1) % 2 ^ 32 }) := by
  have hunlocked : (!(s.port port).locked) = true := by rw [hl]; decide
  refine congrArg _ (modPort_of_port ?_)
  exact (if_neg (not_out_of_session hst)).trans ((if_pos hunlocked).trans (if_pos hg))

variable (hl : (s.port port).locked = true)
include hl

theorem execMarkerCar_of_hit (hh : good = true ∧ frame.toNat = (s.port port).frame) :
    execMarkerCar port good frame s =
      .next (putPort s port { s.port port with badMarks := 0, frame := ((s.port port).frame + 1) % 2 ^ 32 }) := by
  have hlocked : ¬ (!(s.port port).locked) = true := by rw [hl]; decide
  refine congrArg _ (modPort_of_port ?_)
  exact (if_neg (not_out_of_session hst)).trans ((if_neg hlocked).trans (if_pos hh))

theorem execMarkerCar_of_miss (hh : ¬ (good = true ∧ frame.toNat = (s.port port).frame)) :
    execMarkerCar port good frame s =
      let q := s.port port
      let next := (q.frame + 1) % 2 ^ 32
      .next (putPort s port (if q.badMarks < 2 then { q with badMarks := q.badMarks + 1, frame := next }
        else { q with locked := false, badMarks := 0, frame := next })) := by
  have hlocked : ¬ (!(s.port port).locked) = true := by rw [hl]; decide
  refine congrArg _ (modPort_of_port ?_)
  refine (if_neg (not_out_of_session hst)).trans ((if_neg hlocked).trans ((if_neg hh).trans ?_))
  rcases Nat.lt_or_ge (s.port port).badMarks 2 with hfew | hthird
  · exact (if_neg (Nat.not_le.2 (Nat.succ_lt_succ hfew))).trans (if_pos hfew).symm
  · exact (if_pos (Nat.succ_le_succ hthird)).trans (if_neg (Nat.not_lt.2 hthird)).symm

end

/-! Error windows (R289). -/

/-- The port with the counts of an error window. -/
def Port.windowCounted (q : Port) (errBits : List Nat) (uncorr : Nat) : Port :=
  { q with uncorr := min (q.uncorr + uncorr) 65535,
           errbits := gmodKeys q.errbits (List.range 8) fun i _ => min (errBits.getD i 0) (2 ^ 32 - 1) }

/-- Lane `i` is in use. -/
def Port.InUse (q : Port) (i : Nat) : Prop := i < 8 ∧ q.lanes.testBit i = true

/-- The error window sends an UP port to RETRAIN: a lane in use with too many errors, too many uncorrectable codewords, or lock lost on
some lanes in use and not on all. -/
def Port.WindowBad (q : Port) (errBits : List Nat) (uncorr : Nat) (lost : List Bool) : Prop :=
  (∃ i, q.InUse i ∧ 10 * laneLimit q.rate < errBits.getD i 0) ∨ 100 < uncorr ∨
    ((∃ i, q.InUse i ∧ lost.getD i false = true) ∧ ∃ i, q.InUse i ∧ lost.getD i false = false)

theorem Port.someLane_iff {q : Port} {f : Nat → Bool} : q.someLane f = true ↔ ∃ i, q.InUse i ∧ f i = true := by
  simp only [Port.someLane, Port.InUse, bitOf, List.any_eq_true, List.mem_range, Bool.and_eq_true, and_assoc]

theorem Port.windowBad_iff {q : Port} {errBits : List Nat} {uncorr : Nat} {lost : List Bool} :
    (q.someLane (fun i => decide (10 * laneLimit q.rate < errBits.getD i 0)) || decide (100 < uncorr) ||
      (q.someLane (fun i => lost.getD i false) && !(!q.someLane fun i => !lost.getD i false))) = true ↔
    q.WindowBad errBits uncorr lost := by
  simp only [Port.WindowBad, Bool.or_eq_true, Bool.and_eq_true, Bool.not_not, Port.someLane_iff, decide_eq_true_eq, Bool.not_eq_true',
    or_assoc]

section
variable {s : State} (hs : gwf s.ports = true) {port : PortId} {errBits : List Nat} {uncorr : Nat} {lost : List Bool}
variable (hlen : errBits.length = 8 ∧ lost.length = 8) (hst : (s.port port).st = 4)
include hs hlen hst

theorem execBerWindow_of_good (h : ¬ (s.port port).WindowBad errBits uncorr lost) :
    execBerWindow port errBits uncorr lost s = .next (putPort s port ((s.port port).windowCounted errBits uncorr)) := by
  obtain ⟨herr, hlost⟩ := hlen
  refine (if_neg (by omega)).trans (congrArg _ ((if_neg (not_not_intro hst)).trans ?_))
  simp only [modPort_port hs]
  exact if_neg (mt Port.windowBad_iff.1 h)

theorem execBerWindow_of_bad (h : (s.port port).WindowBad errBits uncorr lost) :
    execBerWindow port errBits uncorr lost s =
      .next (linkBer (fixSource (putPort s port ((s.port port).windowCounted errBits uncorr).toRetrain)) port) := by
  obtain ⟨herr, hlost⟩ := hlen
  refine (if_neg (by omega)).trans (congrArg _ ((if_neg (not_not_intro hst)).trans ?_))
  simp only [modPort_port hs]
  exact (if_pos (Port.windowBad_iff.2 h)).trans (congrArg (linkBer · port) (portState_putPort hs _ Port.toRetrain))

end

/-! A training attempt (R285-R287). -/

/-- Bits set one after another. -/
theorem testBit_foldl_setBit (l : List Nat) (r i : Nat) :
    (l.foldl (fun r k => r ||| 2 ^ k) r).testBit i = (r.testBit i || decide (i ∈ l)) := by
  induction l generalizing r with
  | nil => simp only [List.foldl_nil, List.not_mem_nil, decide_false, Bool.or_false]
  | cons k l ih =>
    rw [List.foldl_cons, ih, Nat.testBit_or, Nat.testBit_two_pow, Bool.or_assoc, ← Bool.decide_or]
    simp only [List.mem_cons, eq_comm]

/-- An attempt makes the lanes ready that pass their test window. -/
theorem Port.tried_ready_testBit {q : Port} {lanes : List LaneResult} (hlen : lanes.length = 8) {i : Nat} {l : LaneResult}
    (hl : lanes[i]? = some l) :
    (q.tried lanes).train.ready.testBit i = (q.train.ready.testBit i || LaneResult.passes q.train.rate l) := by
  have hi : i < 8 := hlen ▸ (List.getElem?_eq_some_iff.1 hl).1
  simp only [Port.tried, testBit_foldl_setBit, List.mem_filter, List.mem_range, hi, hl, bitOf]
  cases q.train.ready.testBit i <;> simp

theorem minWidth_pos (minw : Nat) : 0 < minWidth minw := by
  unfold minWidth
  split
  · decide
  · split <;> decide

/-- What the best rate and width so far pay. -/
def Training.bestPayload (t : Training) : Nat := match t.best with | none => 0 | some b => payloadRate b.1 b.2.1

/-- The rate under test becomes the best where its width is allowed and pays more. -/
theorem Port.judged_eq (q : Port) :
    q.judged =
      let w := laneWidth q.train.ready
      if minWidth q.minw ≤ w ∧ q.train.bestPayload < payloadRate q.train.rate w then
        { q with train := { q.train with best := some (q.train.rate, w, q.train.ready), bestTries := q.attempts } }
      else q := by
  have hpos := minWidth_pos q.minw
  rcases Nat.lt_or_ge (laneWidth q.train.ready) (minWidth q.minw) with hw | hw
  · simp only [Port.judged, if_pos hw, Nat.not_le.2 hw, Nat.lt_irrefl, false_and, if_false]
  · simp only [Port.judged, if_neg (Nat.not_lt.2 hw), hw, Nat.lt_of_lt_of_le hpos hw, true_and]
    rfl

/-- A rate is done: every lane is ready, or four attempts have been made. -/
def Training.RateDone (t : Training) : Prop := t.ready = 0xFF ∨ 4 ≤ t.attempts

/-- No rate follows the one under test: it has the full width, or it is the lowest. -/
def Training.LastRate (t : Training) : Prop := laneWidth t.ready = 8 ∨ 3 ≤ t.rate

/-- The port trains at the next rate down. -/
def Port.nextRate (q : Port) (rate : Nat) : Port :=
  { q with train := { q.train with rate := rate, attempts := 0, ready := 0 }, ready := 0, attempts := gconst 0 }

section
variable {s : State} (hs : gwf s.ports = true) {port : PortId} {lanes : List LaneResult} (hlen : lanes.length = 8)
variable (hst : (s.port port).st = 2 ∨ (s.port port).st = 5)
include hs hlen hst

theorem execTrainingAttemptEnd_of_open (h : ¬ ((s.port port).tried lanes).train.RateDone) :
    execTrainingAttemptEnd port lanes s = .next (putPort s port ((s.port port).tried lanes)) := by
  have hopen : ((s.port port).tried lanes).train.ready ≠ 0xFF ∧ ((s.port port).tried lanes).train.attempts < 4 := by
    rwa [Training.RateDone, not_or, Nat.not_le] at h
  refine (if_neg (not_not_intro hlen)).trans (congrArg _ ((if_neg (by omega)).trans ?_))
  simp only [modPort_port hs]
  exact if_pos hopen

theorem execTrainingAttemptEnd_of_done (h : ((s.port port).tried lanes).train.RateDone) {t : State}
    (ht : (if laneWidth ((s.port port).tried lanes).train.ready = 8 ∨ 3 ≤ ((s.port port).tried lanes).train.rate then
        endTraining (putPort s port ((s.port port).tried lanes).judged) port
      else putPort s port (((s.port port).tried lanes).judged.nextRate (((s.port port).tried lanes).train.rate + 1))) = t) :
    execTrainingAttemptEnd port lanes s = .next t := by
  have hdone : ¬ (((s.port port).tried lanes).train.ready ≠ 0xFF ∧ ((s.port port).tried lanes).train.attempts < 4) := by
    rwa [← Nat.not_le, ← not_or, Classical.not_not]
  refine (if_neg (not_not_intro hlen)).trans (congrArg _ ((if_neg (by omega)).trans ?_))
  simp only [modPort_port hs, modPort_modPort hs]
  exact (if_neg hdone).trans ht

theorem execTrainingAttemptEnd_of_last (h : ((s.port port).tried lanes).train.RateDone)
    (hl : ((s.port port).tried lanes).train.LastRate) :
    execTrainingAttemptEnd port lanes s = .next (endTraining (putPort s port ((s.port port).tried lanes).judged) port) :=
  execTrainingAttemptEnd_of_done hs hlen hst h (if_pos hl)

theorem execTrainingAttemptEnd_of_next (h : ((s.port port).tried lanes).train.RateDone)
    (hl : ¬ ((s.port port).tried lanes).train.LastRate) :
    execTrainingAttemptEnd port lanes s =
      .next (putPort s port (((s.port port).tried lanes).judged.nextRate (((s.port port).tried lanes).train.rate + 1))) :=
  execTrainingAttemptEnd_of_done hs hlen hst h (if_neg hl)

end

/-! The end of training (R285, R286, R288). -/

/-- The port at a rate, width and set of ready lanes that training has found. -/
def Port.trained (q : Port) (rate w ready : Nat) : Port :=
  { q with rate := rate, width := widthCode w, lanes := lanesInUse ready w, ready := ready, attempts := q.train.bestTries, frame := 0,
           badMarks := 0, locked := true }

theorem endTraining_of_none {s : State} {p : Nat} (h : (s.port p).train.best = none) :
    endTraining s p = fixSource (putPort s p { (s.port p).endSession 1 with fails := min ((s.port p).fails + 1) 255 }) := by
  simp only [endTraining, h]
  rfl

theorem endTraining_of_best {s : State} (hs : gwf s.ports = true) {p rate w ready : Nat}
    (h : (s.port p).train.best = some (rate, w, ready)) :
    endTraining s p =
      let r := (s.port p).trained rate w ready
      if (s.port p).st = 5 then fixSource (putPort s p (Port.pump { r with st := 4 })) else startAuth (putPort s p r) p := by
  simp only [endTraining, h]
  exact ite_congr rfl (fun _ => portState_putPort hs ((s.port p).trained rate w ready) _) fun _ => rfl

end Sys2Proof.Machine

namespace Sys2Proof.Proofs
open Sys2Proof Sys2Proof.Machine

/-- Settles O50: each command by the state the port is in, a marker by lock, a window and an attempt by what they find, and the end of
training by the best rate it has. -/
theorem portCommandsAndTraining : Obligations.PortCommandsAndTraining := by
  intro s port hs
  refine ⟨fun o ho => ⟨fun data => ⟨fun hen => next_asAuth ho (writePortCfg_of_enabled hen),
        fun hen => next_asAuth ho (writePortCfg_of_disabled hen)⟩,
      fun h => next_asAuth ho (takeTrain_of_down h), fun h => next_asAuth ho (takeTrain_of_other h),
      fun hi h => next_asAuth ho (takeQclr_of_quarantined hi h), fun hi => next_asAuth ho (takeQclr_of_inside hi),
      fun h => next_asAuth ho (takeDrop_of_session h)⟩,
    execTryintExpiry_of_down, execNoCarTimeout_of_up, execRetrainTimeout_of_retrain,
    fun good frame hst => ⟨execMarkerCar_of_hit hst, execMarkerCar_of_miss hst, execMarkerCar_of_found hst⟩,
    fun errBits uncorr lost herr hlost hst =>
      ⟨execBerWindow_of_good hs.ports ⟨herr, hlost⟩ hst, execBerWindow_of_bad hs.ports ⟨herr, hlost⟩ hst⟩,
    fun lanes hlen hst => ⟨fun i l => Port.tried_ready_testBit hlen, execTrainingAttemptEnd_of_open hs.ports hlen hst,
      execTrainingAttemptEnd_of_last hs.ports hlen hst, execTrainingAttemptEnd_of_next hs.ports hlen hst⟩,
    Port.judged_eq _, endTraining_of_none, fun rate w ready => endTraining_of_best hs.ports⟩

end Sys2Proof.Proofs
end

section
/-! PROOFS. The handshake and the rekey (R292, R300-R305): a chunk by its count and index, a message by its verdict, what the start and the
failure of a handshake leave, the keys that KEX2 gives, and from these O51. -/

namespace Sys2Proof.Machine

/-! Chunks (R301). -/

/-- The car's count and index suit a message of `n` chunks. -/
def ChunkSuits (n : Nat) (car : RxCar) : Prop := bitsOf car.w1.toNat 31 16 = n ∧ bitsOf car.w1.toNat 15 0 < n

/-- The handshake with the car's chunk kept. -/
def Handshake.withChunk (h : Handshake) (car : RxCar) : Handshake :=
  { h with chunks := gset h.chunks (bitsOf car.w1.toNat 15 0) (some car.payload) }

theorem Handshake.chunk_of_suits (h : Handshake) {n : Nat} {car : RxCar} (hc : ChunkSuits n car) : h.chunk n car = some (h.withChunk car) :=
  if_pos hc

theorem Handshake.chunk_of_unsuited (h : Handshake) {n : Nat} {car : RxCar} (hc : ¬ ChunkSuits n car) : h.chunk n car = none := if_neg hc

/-- The port's handshake keeps the car's chunk. -/
def chunkKept (t : State) (p : Nat) (car : RxCar) : State := putPort t p { t.port p with hs := (t.port p).hs.withChunk car }

/-! HELLO (R300, R301, R304). -/

/-- The port with the partner that an accepted HELLO names. -/
def Port.named (q : Port) (msg : List Byte) : Port :=
  { q with hs := { q.hs with peerHello := msg }, role := leAt msg 0 1, peer := BitVec.ofNat 64 (leAt msg 8 8) }

/-- The last chunk of an accepted HELLO is kept and its partner named. -/
def helloTaken (t : State) (p : Nat) (car : RxCar) (msg : List Byte) : State :=
  putPort t p (Port.named { t.port p with hs := (t.port p).hs.withChunk car } msg)

section
variable {s t : State} {port : PortId} {car : RxCar} {sigs : Bool} (ht : receiveCar s port car = .take t) (htyp : car.typ = 9)
include ht htyp

theorem execHello_of_other (h : ¬ ((t.port port).st = 3 ∧ (t.port port).hs.step = 1)) : execHello port car sigs s = .next t := by
  simp only [execHello, htyp, ht, ne_eq, not_true_eq_false, if_false]
  exact congrArg _ (if_pos (Classical.not_and_iff_not_or_not.1 h))

variable (hst : (t.port port).st = 3 ∧ (t.port port).hs.step = 1)
include hst

theorem execHello_of_unsuited (hc : ¬ ChunkSuits 58 car) : execHello port car sigs s = .next (failHandshake t port) := by
  simp only [execHello, htyp, ht, hst, Handshake.chunk_of_unsuited _ hc, ne_eq, not_true_eq_false, or_self, if_false]

variable (hc : ChunkSuits 58 car)
include hc

theorem execHello_of_partial (hm : ((t.port port).hs.withChunk car).message 58 = none) :
    execHello port car sigs s = .next (chunkKept t port car) := by
  simp only [execHello, htyp, ht, hst, Handshake.chunk_of_suits _ hc, hm, ne_eq, not_true_eq_false, or_self, if_false]
  rfl

variable {msg : List Byte} (hm : ((t.port port).hs.withChunk car).message 58 = some msg)
include hm

theorem execHello_of_refused (ha : helloAccepted (chunkKept t port car) port msg sigs = false) :
    execHello port car sigs s = .next (quarantine (linkAuth (chunkKept t port car) port) port 3) := by
  simp only [execHello, htyp, ht, hst, Handshake.chunk_of_suits _ hc, hm, ne_eq, not_true_eq_false, or_self, if_false]
  exact congrArg _ (if_neg (ne_true_of_eq_false ha))

theorem execHello_of_accepted (hp : gwf t.ports = true) (ha : helloAccepted (chunkKept t port car) port msg sigs = true) :
    execHello port car sigs s =
      .next (if t.grm.idok then sendKex1 (helloTaken t port car msg) port 0 else helloTaken t port car msg) := by
  have htaken : modPort (chunkKept t port car) port (Port.named · msg) = helloTaken t port car msg := modPort_putPort hp ..
  simp only [execHello, htyp, ht, hst, Handshake.chunk_of_suits _ hc, hm, ne_eq, not_true_eq_false, or_self, if_false]
  refine congrArg _ ((if_pos ha).trans ?_)
  rw [← htaken]
  rfl

end

/-! KEX (R300, R301, R303). -/

/-- How a failure of the exchange under way is met: in UP as that of a rekey, else as that of the handshake. -/
theorem failExchange_eq (s : State) (p : Nat) : failExchange s p = (if (s.port p).st = 4 then failRekey else failHandshake) s p := by
  unfold failExchange
  split <;> rfl

/-- The KEX2 message has the form of R301 for this epoch, and its signature verifies. -/
def KexFormed (sigs : Bool) (msg : List Byte) (epoch : Nat) : Prop :=
  sigs = true ∧ leAt msg 0 1 = 2 ∧ leAt msg 1 3 = 0 ∧ leAt msg 4 4 = epoch ∧ leAt msg 8 8 = 0

theorem kexFormed_iff {sigs : Bool} {msg : List Byte} {epoch : Nat} :
    sigs = true ∧ kex2Ok msg epoch = true ↔ KexFormed sigs msg epoch := by
  simp only [KexFormed, kex2Ok, Bool.and_eq_true, decide_eq_true_eq, and_assoc]

/-- The epoch that the keys of the exchange under way are for. -/
def Port.kexEpoch (q : Port) : Nat := if q.st = 4 then q.sess.epoch + 1 else 0

section
variable {s t : State} {port : PortId} {car : RxCar} {sigs : Bool} (ht : receiveCar s port car = .take t) (htyp : car.typ = 10)
include ht htyp

theorem execKex_of_other (h : (t.port port).hs.step ≠ 3) : execKex port car sigs s = .next t := by
  simp only [execKex, htyp, ht, ne_eq, not_true_eq_false, if_false]
  exact congrArg _ (if_pos h)

variable (hst : (t.port port).hs.step = 3)
include hst

theorem execKex_of_unsuited (hc : ¬ ChunkSuits 25 car) :
    execKex port car sigs s = .next ((if (t.port port).st = 4 then failRekey else failHandshake) t port) := by
  simp only [execKex, htyp, ht, hst, Handshake.chunk_of_unsuited _ hc, failExchange_eq, ne_eq, not_true_eq_false, if_false]

variable (hc : ChunkSuits 25 car)
include hc

theorem execKex_of_partial (hm : ((t.port port).hs.withChunk car).message 25 = none) :
    execKex port car sigs s = .next (chunkKept t port car) := by
  simp only [execKex, htyp, ht, hst, Handshake.chunk_of_suits _ hc, hm, ne_eq, not_true_eq_false, if_false]
  rfl

variable {msg : List Byte} (hm : ((t.port port).hs.withChunk car).message 25 = some msg)
include hm

theorem execKex_of_formed (hf : KexFormed sigs msg (t.port port).kexEpoch) :
    execKex port car sigs s = .next (takeKex2 (chunkKept t port car) port msg) := by
  simp only [execKex, htyp, ht, hst, Handshake.chunk_of_suits _ hc, hm, ne_eq, not_true_eq_false, if_false]
  exact congrArg _ (if_pos (kexFormed_iff.2 hf))

theorem execKex_of_unformed (hp : gwf t.ports = true) (hf : ¬ KexFormed sigs msg (t.port port).kexEpoch) :
    execKex port car sigs s = .next ((if (t.port port).st = 4 then failRekey else failHandshake) (chunkKept t port car) port) := by
  have hkept : ((chunkKept t port car).port port).st = (t.port port).st := by rw [chunkKept, putPort_port hp]
  have hfail := failExchange_eq (chunkKept t port car) port
  rw [hkept] at hfail
  rw [← hfail]
  simp only [execKex, htyp, ht, hst, Handshake.chunk_of_suits _ hc, hm, ne_eq, not_true_eq_false, if_false]
  exact congrArg _ (if_neg (mt kexFormed_iff.1 hf))

end

/-! Messages in the clear (R292, R300, R301). -/

theorem foldl_sendPlain_putPort {s : State} (hs : gwf s.ports = true) {p : Nat} (cars : List TxCar) (r : Port) :
    cars.foldl (fun t c => sendPlain t p c) (putPort s p r) = putPort s p { r with sent := r.sent ++ cars } := by
  induction cars generalizing r with
  | nil => rw [List.append_nil]; rfl
  | cons c cars ih =>
    have hsend : sendPlain (putPort s p r) p c = putPort s p { r with sent := r.sent ++ [c] } := modPort_putPort hs r _
    rw [List.foldl_cons, hsend, ih, List.append_assoc]
    rfl

theorem sendMessage_putPort_of_clear {s : State} (hs : gwf s.ports = true) {p : Nat} {r : Port} (hr : r.st ≠ 4) (typ n : Nat)
    (msg : List Byte) :
    sendMessage (putPort s p r) p typ n msg = putPort s p { r with sent := r.sent ++ chunkCars typ n false msg } := by
  rw [sendMessage, putPort_port hs, if_neg hr, foldl_sendPlain_putPort hs]

/-- The port enters AUTH with a new session and the device's HELLO. -/
def Port.authBegun (q : Port) (msg : List Byte) : Port :=
  { q with st := 3, sess := Session.new, hs := { Handshake.idle with step := 1, devHello := msg } }

theorem startAuth_eq {s : State} (hs : gwf s.ports = true) (p : Nat) :
    startAuth s p =
      let msg := helloMessage s (Config.random s.fresh)
      let r := (s.port p).authBegun msg
      putPort { s with fresh := s.fresh + 1 } p { r with sent := r.sent ++ chunkCars 9 58 false msg } :=
  sendMessage_putPort_of_clear (s := { s with fresh := s.fresh + 1 }) hs (r := (s.port p).authBegun _) (by decide : (3 : Nat) ≠ 4) 9 58 _

/-! The failure of a handshake (R300, R305). -/

theorem failHandshake_eq (s : State) (p : Nat) :
    failHandshake s p =
      let q := s.port p
      let times := q.hsFails.filter (fun n => decide (s.dev.wall < n + 60000000000)) ++ [s.dev.wall]
      let r := linkAuth (putPort s p { q with hsFails := times, hs := Handshake.idle }) p
      if times.length < 3 then r else quarantine r p 2 := by
  rw [← ite_not]
  exact ite_congr (propext Nat.not_lt.symm) (fun _ => rfl) fun _ => rfl

/-! The keys (R302). -/

/-- The secret of the exchange that KEX2 ends. -/
def Handshake.secretOf (h : Handshake) (msg : List Byte) : List Byte := padTo 32 (Config.mlkemShared h.kemNo (slice msg 16 1568))

/-- h3 of the exchange that KEX2 ends. -/
def Handshake.h3Of (h : Handshake) (msg : List Byte) : List Byte :=
  sha3Bytes (sha3Bytes (h.devHello ++ h.peerHello ++ h.kex1 ++ slice msg 16 1568) ++ slice msg 1584 4627)

/-- The port with the keys of the handshake, in a session that begins with them. -/
def Port.keyed (q : Port) (secret h3 : List Byte) : Port :=
  { q with hs := { q.hs with step := 6 },
           sess := { Session.new with txKey := deriveKey 0 0 secret h3, rxKey := deriveKey 1 0 secret h3 } }

/-- The port with what KEX2 gives, before it answers with KEX3. -/
def Port.kexTaken (q : Port) (msg : List Byte) : Port :=
  { q with hs := { q.hs with
      step := 5, chunks := gconst none, secret := q.hs.secretOf msg, h3 := q.hs.h3Of msg,
      h2 := sha3Bytes (q.hs.devHello ++ q.hs.peerHello ++ q.hs.kex1 ++ slice msg 16 1568) } }

/-- KEX3 goes out in the clear, and the session begins under the new keys with an LCTL. -/
theorem takeKex2_of_auth {s : State} (hs : gwf s.ports = true) {p : Nat} (hst : (s.port p).st = 3) (msg : List Byte) :
    ∃ cars, takeKex2 s p msg =
      let q := s.port p
      let r := q.kexTaken msg
      sendLctl (putPort s p (Port.keyed { r with sent := r.sent ++ cars } (q.hs.secretOf msg) (q.hs.h3Of msg))) p false := by
  have hsend := sendMessage_putPort_of_clear hs (p := p) (r := (s.port p).kexTaken msg) (fun h4 => absurd (hst.symm.trans h4) (by decide)) 10 19
  apply Exists.intro
  refine (if_neg (by omega)).trans (congrArg (sendLctl · p false) ?_)
  exact (congrArg (modPort · p fun q => q.keyed ((s.port p).hs.secretOf msg) ((s.port p).hs.h3Of msg)) (hsend _)).trans
    (modPort_putPort hs _ _)

/-- An LCTL leaves the handshake, the keys and the epoch alone. -/
theorem sendLctl_putPort_frame {s : State} (hs : gwf s.ports = true) (p : Nat) (r : Port) (nak : Bool) :
    ((sendLctl (putPort s p r) p nak).port p).hs = r.hs ∧ ((sendLctl (putPort s p r) p nak).port p).sess.txKey = r.sess.txKey ∧
      ((sendLctl (putPort s p r) p nak).port p).sess.rxKey = r.sess.rxKey ∧
      ((sendLctl (putPort s p r) p nak).port p).sess.epoch = r.sess.epoch := by
  rw [sendLctl, modPort_port (putPort_wf hs r), putPort_port hs]
  exact ⟨rfl, rfl, rfl, rfl⟩

/-! Timers and rekeys (R288, R300, R303). -/

section
variable {s : State} {port : PortId}

theorem execHandshakeTimeout_of_auth (h : (s.port port).st = 3) (hstep : (s.port port).hs.step ≠ 0) :
    execHandshakeTimeout port s = .next (failHandshake s port) := congrArg _ (if_pos ⟨h, hstep⟩)

theorem execHandshakeTimeout_of_up (h : (s.port port).st = 4) (hstep : (s.port port).hs.step = 3) :
    execHandshakeTimeout port s = .next (failRekey s port) := congrArg _ ((if_neg (by omega)).trans (if_pos ⟨h, hstep⟩))

theorem execAuthRetry_of_idle (h : (s.port port).st = 3) (hstep : (s.port port).hs.step = 0) :
    execAuthRetry port s = .next (startAuth s port) := congrArg _ (if_pos ⟨h, hstep⟩)

theorem startRekey_of_ready (h : (s.port port).st = 4) (hstep : (s.port port).hs.step = 6 ∨ (s.port port).hs.step = 7) :
    startRekey s port = sendKex1 s port ((s.port port).sess.epoch + 1) := if_pos ⟨h, hstep⟩

theorem execRekeyTimer_of_unspent (h : (s.port port).sess.keysSpent = false) :
    execRekeyTimer port s = .next (startRekey s port) := congrArg _ (if_neg fun ⟨_, hk⟩ => Bool.noConfusion (h.symm.trans hk))

theorem execRekeyTimer_of_spent (h : (s.port port).st = 4) (hk : (s.port port).sess.keysSpent = true) :
    execRekeyTimer port s = .next (
      let q := s.port port
      let ended := portState (linkAuth s port) port fun r => { r.endSession 3 with rate := q.rate, width := q.width, lanes := q.lanes }
      startAuth ended port) :=
  congrArg _ ((if_pos ⟨h, hk⟩).trans (if_pos ⟨h, hk⟩))

theorem execRekeyRetry_of_failed (h : (s.port port).hs.step = 7) : execRekeyRetry port s = .next (startRekey s port) :=
  congrArg _ (if_pos h)

end

end Sys2Proof.Machine

namespace Sys2Proof.Proofs
open Sys2Proof Sys2Proof.Machine

/-- Settles O51: a HELLO and a KEX by their chunk and the verdict on their message, each event by the equation of its case, and the keys
by the session that KEX2 begins. -/
theorem handshakeAndRekey : Obligations.HandshakeAndRekey := by
  intro s port hs
  refine ⟨fun car sigs t ht => ?car, ?start, failHandshake_eq s port, fun msg hst => ?keys,
    execHandshakeTimeout_of_auth, execHandshakeTimeout_of_up, execAuthRetry_of_idle, fun hst hstep => ?rekey, execRekeyTimer_of_spent⟩
  case car =>
    obtain ⟨hp, -⟩ := receiveCar_take_frame hs.ports ht
    refine ⟨fun htyp hst hstep => ⟨execHello_of_unsuited ht htyp ⟨hst, hstep⟩, execHello_of_partial ht htyp ⟨hst, hstep⟩,
        fun msg hc hm =>
          ⟨execHello_of_refused ht htyp ⟨hst, hstep⟩ hc hm, execHello_of_accepted ht htyp ⟨hst, hstep⟩ hc hm hp⟩⟩,
      execHello_of_other ht,
      fun htyp hstep => ⟨execKex_of_unsuited ht htyp hstep, execKex_of_partial ht htyp hstep,
        fun msg hc hm => ⟨execKex_of_formed ht htyp hstep hc hm, execKex_of_unformed ht htyp hstep hc hm hp⟩⟩, execKex_of_other ht⟩
  case start =>
    rw [startAuth_eq hs.ports]
    exact ⟨rfl, putPort_port (s := { s with fresh := s.fresh + 1 }) hs.ports _⟩
  case keys =>
    obtain ⟨cars, hr⟩ := takeKex2_of_auth hs.ports hst msg
    rw [hr]
    obtain ⟨hhs, htx, hrx, hepoch⟩ := sendLctl_putPort_frame hs.ports port (Port.keyed _ _ _) false
    exact ⟨congrArg Handshake.step hhs, htx, hrx, hepoch⟩
  case rekey =>
    have hstart := startRekey_of_ready hst hstep
    exact ⟨fun o ho => next_asAuth ho hstart, fun hk => (execRekeyTimer_of_unspent hk).trans (congrArg _ hstart),
      fun h7 => (execRekeyRetry_of_failed h7).trans (congrArg _ hstart)⟩

end Sys2Proof.Proofs
end

section
/-! PROOFS. Link control, replay and the time beacons (R295-R299, R310, R311, R316): an LCTL by whether it is new and well formed, the
replay by the count since an advance, the source port as the first that qualifies, the exchange of a beacon and its reply, and from these
and the checks of a received car O52. -/

namespace Sys2Proof.Machine

/-! Link control (R295, R298, R300). -/

/-- The port takes an LCTL that passes its checks: UP, or in AUTH once the keys stand. -/
def Port.TakesLctl (q : Port) : Prop := q.st = 4 ∨ q.st = 3 ∧ q.hs.step = 6

/-- The LCTL passes the checks on its wire bits and its tag. -/
def CarPasses (car : RxCar) : Prop := car.crcOk = true ∧ car.enc = true ∧ car.tagOk = true

/-- The port with one more LCTL counted, its number taken. -/
def Port.lctlCounted (q : Port) (car : RxCar) : Port :=
  { q with sess := { q.sess with lctlRx := (q.sess.lctlRx + lctlAhead q.sess car + 1) % 2 ^ 32, rxLctls := q.sess.rxLctls + 1 } }

/-- The fields of an LCTL take effect, and what follows of them for the keys. -/
def lctlApplied (t : State) (p : Nat) (payload : List Byte) : State := fixKeys (finishRekey (applyLctl t p payload) p) p

section
variable {s : State} {port : PortId} {car : RxCar}
variable (htyp : car.typ = 0) (hl : (s.port port).locked = true) (hst : (s.port port).TakesLctl) (hcar : CarPasses car)
include htyp hl hst hcar

theorem execLctl_of_passed :
    execLctl port car s = .next (
      if 32767 ≤ lctlAhead (s.port port).sess car then s
      else
        let t := putPort s port ((s.port port).lctlCounted car)
        if !(s.port port).wellFormed car then malformed t port
        else lctlApplied (if (s.port port).st = 4 then t else enterUp t port) port car.payload) := by
  obtain ⟨hcrc, henc, htag⟩ := hcar
  have hfirst : (decide ((s.port port).st = 3) && decide ((s.port port).hs.step = 6)) = true ↔ ¬ (s.port port).st = 4 := by
    rw [Bool.and_eq_true, decide_eq_true_eq, decide_eq_true_eq]
    unfold Port.TakesLctl at hst
    omega
  have htaken : ¬ (car.typ ≠ 0 ∨ ((s.port port).st ≠ 3 ∧ !decide ((s.port port).st = 4)) ∨ !(s.port port).locked) := by
    simp only [htyp, hl, ne_eq, not_true_eq_false, Bool.not_true, Bool.false_eq_true, Bool.not_eq_true', decide_eq_false_iff_not,
      false_or, or_false]
    unfold Port.TakesLctl at hst
    omega
  have hsealed : ¬ (!car.enc ∨ (!decide ((s.port port).st = 4) ∧
      !(decide ((s.port port).st = 3) && decide ((s.port port).hs.step = 6)))) := by
    simp only [henc, Bool.not_true, Bool.false_eq_true, false_or, Bool.not_eq_true', Bool.eq_false_iff, ne_eq, hfirst, Classical.not_not,
      decide_eq_true_eq, not_and_self_iff, not_false_iff]
  have hup (t : State) : (if decide ((s.port port).st = 3) && decide ((s.port port).hs.step = 6) then enterUp t port else t) =
      if (s.port port).st = 4 then t else enterUp t port := (ite_congr (propext hfirst) (fun _ => rfl) fun _ => rfl).trans (ite_not ..)
  refine congrArg _ ((if_neg htaken).trans ((if_neg ?_).trans ((if_neg hsealed).trans ((if_neg ?_).trans ?_))))
  · rw [hcrc]
    decide
  · rw [htag]
    decide
  · refine ite_congr rfl (fun _ => rfl) fun _ => ite_congr rfl (fun _ => rfl) fun _ => ?_
    exact congrArg (lctlApplied · port car.payload) (hup _)

theorem execLctl_of_old (hd : 32767 ≤ lctlAhead (s.port port).sess car) : execLctl port car s = .next s :=
  (execLctl_of_passed htyp hl hst hcar).trans (congrArg _ (if_pos hd))

variable (hd : lctlAhead (s.port port).sess car < 32767) (hs : gwf s.ports = true)
include hd hs

theorem execLctl_of_malformed (hw : (s.port port).wellFormed car = false) :
    execLctl port car s =
      .next (putPort s port { (s.port port).lctlCounted car with malform := min ((s.port port).malform + 1) 65535 }) := by
  rw [execLctl_of_passed htyp hl hst hcar, if_neg (Nat.not_le.2 hd), hw]
  exact congrArg _ (modPort_putPort hs ..)

theorem execLctl_of_wellFormed (hw : (s.port port).wellFormed car = true) :
    execLctl port car s = .next (
      let r := (s.port port).lctlCounted car
      lctlApplied (if (s.port port).st = 4 then putPort s port r else fixSource (putPort s port { r with st := 4 })) port car.payload) := by
  have hup : enterUp (putPort s port ((s.port port).lctlCounted car)) port =
      fixSource (putPort s port { (s.port port).lctlCounted car with st := 4 }) := portState_putPort hs ..
  rw [execLctl_of_passed htyp hl hst hcar, if_neg (Nat.not_le.2 hd), hw]
  exact congrArg _ (congrArg (lctlApplied · port car.payload) (ite_congr rfl (fun _ => rfl) fun _ => hup))

end

/-! The port's own link control and replay (R295, R299, R316). -/

section
variable {s : State} {port : PortId} (hst : (s.port port).st = 4)
include hst

theorem execLctlSend_of_up :
    execLctlSend port s = .next (putPort s port (
      let q := s.port port
      let e := q.advertise
      { q with sess := { e with lctlTx := (e.lctlTx + 1) % 2 ^ 32, txLctls := e.txLctls + 1 },
               sent := q.sent ++ [⟨0, 0, true, q.kp, 0, 0, 0, padTo 256 (lctlPayload e false)⟩] })) :=
  congrArg _ (if_pos hst)

theorem execReplayTimeout_of_up :
    execReplayTimeout port s = .next (
      if (s.port port).sess.replay = [] then s
      else
        let q := s.port port
        let t := putPort s port { q with replays := min (q.replays + 1) 65535, sess := { q.sess with resent := q.sess.resent + 1 } }
        if q.sess.resent < 15 then t else linkBer (portState t port Port.toRetrain) port) := by
  refine congrArg _ ((if_pos hst).trans (ite_congr (propext List.isEmpty_iff) (fun _ => rfl) fun _ => ?_))
  rcases Nat.lt_or_ge (s.port port).sess.resent 15 with hfew | hmany
  · exact (if_neg (Nat.not_le.2 (Nat.succ_lt_succ hfew))).trans (if_pos hfew).symm
  · exact (if_pos (Nat.succ_le_succ hmany)).trans (if_neg (Nat.not_lt.2 hmany)).symm

end

/-! The source port of the wall counter (R310). -/

/-- The port can be the source: UP, with TSRC, and its partner marks MASTER. -/
def MasterPort (s : State) (p : Nat) : Prop := p < 144 ∧ (s.port p).st = 4 ∧ (s.port p).tsrc = true ∧ (s.port p).master = true

theorem masterPort_iff {s : State} {p : Nat} :
    MasterPort s p ↔ p < 144 ∧ (decide ((s.port p).st = 4) && (s.port p).tsrc && (s.port p).master) = true := by
  simp only [MasterPort, Bool.and_eq_true, decide_eq_true_eq, and_assoc]

theorem pickSource_of_least {s : State} {p : Nat} (hp : MasterPort s p) (hleast : ∀ k, k < p → ¬ MasterPort s k) :
    pickSource s = p := by
  obtain ⟨hlt, hmaster⟩ := masterPort_iff.1 hp
  have hfind : (List.range 144).find? (fun k => decide ((s.port k).st = 4) && (s.port k).tsrc && (s.port k).master) = some p :=
    find?_of_least (List.pairwise_le_range) (List.mem_range.2 hlt) hmaster fun k hk hmk =>
      Nat.le_of_not_lt fun hkp => hleast k hkp (masterPort_iff.2 ⟨List.mem_range.1 hk, hmk⟩)
  simp only [pickSource, hfind]

theorem pickSource_of_none {s : State} (h : ∀ k, ¬ MasterPort s k) : pickSource s = 255 := by
  have hfind : (List.range 144).find? (fun k => decide ((s.port k).st = 4) && (s.port k).tsrc && (s.port k).master) = none :=
    List.find?_eq_none.2 fun k hk hmk => h k (masterPort_iff.2 ⟨List.mem_range.1 hk, hmk⟩)
  simp only [pickSource, hfind]

/-! Time beacons (R310, R311). -/

theorem execBeaconSend_of_source {s : State} (h : s.dev.srcport < 144) :
    execBeaconSend s = .next (
      let t := sendCar s s.dev.srcport (mkCar 8 0 0 0 0 (leBytes 8 s.dev.wall ++ leBytes 8 0 ++ leBytes 8 0 ++ [1#8]))
      { t with dev := { t.dev with reqT1 := some s.dev.wall } }) :=
  congrArg _ (if_pos h)

/-- Half the sum of the two differences, rounded either way where the sum is odd. -/
theorem exchangeOffset_half (s : State) (t1 t2 t3 t4 : Nat) :
    ∃ offset f, exchangeOffset s t1 t2 t3 t4 = (offset, { s with fresh := f }) ∧ (f = s.fresh ∨ f = s.fresh + 1) ∧
      let sum := ((t2 : Int) - t1) + ((t3 : Int) - t4)
      2 * offset = sum ∨ 2 * offset = sum + 1 ∨ 2 * offset = sum - 1 := by
  by_cases heven : (((t2 : Int) - t1) + ((t3 : Int) - t4)) % 2 = 0
  · exact ⟨_, s.fresh, if_pos heven, .inl rfl, .inl (by omega)⟩
  · refine ⟨_, s.fresh + 1, if_neg heven, .inr rfl, ?_⟩
    omega

/-- The partner's mark of MASTER is taken. -/
def masterMarked (t : State) (p : Nat) (car : RxCar) : State :=
  portState t p fun q => { q with master := (leAt car.payload 24 1).testBit 1 }

/-- The beacon is the reply to the request under way on the source port. -/
def BeaconReply (s : State) (p : Nat) (car : RxCar) : Prop :=
  s.dev.srcport = p ∧ (leAt car.payload 24 1).testBit 0 = false ∧ s.dev.reqT1 = some (leAt car.payload 0 8)

/-- The wall counter's registers after an exchange with this offset. -/
def DevBlock.corrected (d : DevBlock) (offset : Int) : DevBlock :=
  let good := if -100 ≤ offset ∧ offset ≤ 100 then d.goodExch + 1 else 0
  let e := { d with offset := offset, goodExch := min good 16, locked := d.locked || decide (16 ≤ good), reqT1 := none }
  if d.locked = false ∨ 10000 < offset then { e with wall := wallPlus d.wall offset, slew := 0 } else { e with slew := offset }

theorem correctWall_eq (s : State) (offset : Int) : correctWall s offset = { s with dev := s.dev.corrected offset } := by
  simp only [correctWall, DevBlock.corrected, Bool.and_eq_true, Bool.or_eq_true, decide_eq_true_eq, Bool.not_eq_true']
  split <;> rfl

section
variable {s t : State} {port : PortId} {car : RxCar} {t4 : Word64} (htyp : car.typ = 8) (ht : receiveCar s port car = .take t)
include htyp ht

theorem execBeacon_of_other (hr : ¬ BeaconReply t port car) : execBeacon port car t4 s = .next (masterMarked t port car) := by
  simp only [execBeacon, htyp, ht, ne_eq, not_true_eq_false, if_false]
  refine congrArg _ (if_neg fun h => hr ?_)
  obtain ⟨hsource, hflag, hreq⟩ := h
  exact ⟨of_decide_eq_true hsource, (Bool.not_eq_true' _).mp hflag, hreq⟩

theorem execBeacon_of_reply (hr : BeaconReply t port car) {offset : Int} {u : State}
    (hx : exchangeOffset (masterMarked t port car) (leAt car.payload 0 8) (leAt car.payload 8 8) (leAt car.payload 16 8) t4.toNat =
      (offset, u)) :
    execBeacon port car t4 s = .next { u with dev := u.dev.corrected offset } := by
  obtain ⟨hsource, hflag, hreq⟩ := hr
  have hcorrect := (congrArg (fun x : Int × State => correctWall x.2 x.1) hx).trans (correctWall_eq u offset)
  simp only [execBeacon, htyp, ht, ne_eq, not_true_eq_false, if_false]
  exact congrArg _ ((if_pos ⟨decide_eq_true hsource, (Bool.not_eq_true' _).mpr hflag, hreq⟩).trans hcorrect)

end

end Sys2Proof.Machine

namespace Sys2Proof.Proofs
open Sys2Proof Sys2Proof.Machine

/-- Settles O52: a car by the first check that it fails, an LCTL by whether it is new and well formed, the source port as the first that
qualifies, and a beacon by whether it is the reply. -/
theorem receivedCarsAndTime : Obligations.ReceivedCarsAndTime := by
  intro s port hs
  refine ⟨fun car => ⟨receiveCar_of_deaf, receiveCar_of_bad_crc, receiveCar_of_refused,
      fun hh hc h3 ha => ?clear, fun hh hc h4 ha => ?sealed⟩,
    fun car htyp hl hst hcrc henc htag => ?lctl,
    fun hst => ⟨execLctlSend_of_up hst, execReplayTimeout_of_up hst⟩,
    ⟨fun p => pickSource_of_least, pickSource_of_none⟩, execBeaconSend_of_source, fun car t4 t htyp ht => ?beacon⟩
  case clear => exact receiveCar_of_clear hh hc ⟨ha, fun h4 => by omega⟩ h3
  case sealed =>
    have hadmits : (s.port port).Admits car := ⟨fun h3 => by omega, ha⟩
    exact ⟨receiveCar_of_bad_tag hh hc hadmits h4, receiveCar_of_duplicate hh hc hadmits h4, receiveCar_of_gap hh hc hadmits h4,
      fun htag => receiveCar_of_expected hh hc hadmits h4 htag hs.ports⟩
  case lctl =>
    have hcar : CarPasses car := ⟨hcrc, henc, htag⟩
    exact ⟨execLctl_of_old htyp hl hst hcar,
      fun hd => ⟨execLctl_of_malformed htyp hl hst hcar hd hs.ports, execLctl_of_wellFormed htyp hl hst hcar hd hs.ports⟩⟩
  case beacon =>
    obtain ⟨-, hdev⟩ := receiveCar_take_frame hs.ports ht
    have hreply : BeaconReply t port car ↔ BeaconReply s port car := by rw [BeaconReply, BeaconReply, hdev]
    refine ⟨fun hr => execBeacon_of_other htyp ht (mt hreply.1 hr), fun hr => ?_⟩
    obtain ⟨offset, f, hx, hf, hhalf⟩ :=
      exchangeOffset_half (masterMarked t port car) (leAt car.payload 0 8) (leAt car.payload 8 8) (leAt car.payload 16 8) t4.toNat
    refine ⟨offset, f, hhalf, hf, (execBeacon_of_reply htyp ht (hreply.2 hr) hx).trans ?_⟩
    rw [← hdev]
    rfl

end Sys2Proof.Proofs
end

section
/-! PROOFS. Mailboxes, command rings and service cars (R326, R328-R334, R338, R339, R435): who makes a write of a mailbox, what a call of
the receiver does by the receiver, a write of HEAD and of a ring's configuration by whether it is taken, and from these O53. -/

namespace Sys2Proof.Machine

/-! Changes of one mailbox and of one ring. -/

/-- Mailbox `n` is `b`. -/
def putBox (s : State) (n : Nat) (b : Mailbox) : State := { s with mbx := { s.mbx with boxes := gset s.mbx.boxes n b } }

/-- Ring `r` is `k`. -/
def putRing (s : State) (r : Nat) (k : Ring) : State := { s with mbx := { s.mbx with rings := gset s.mbx.rings r k } }

theorem putBox_box {s : State} (hs : gwf s.mbx.boxes = true) (n : Nat) (b : Mailbox) : (putBox s n b).box n = b :=
  gget_gset_self hs n b

theorem putRing_ring {s : State} (hs : gwf s.mbx.rings = true) (r : Nat) (k : Ring) : (putRing s r k).ring r = k :=
  gget_gset_self hs r k

theorem modBox_putBox {s : State} (hs : gwf s.mbx.boxes = true) (n : Nat) (b : Mailbox) (f : Mailbox → Mailbox) :
    modBox (putBox s n b) n f = putBox s n (f b) := by
  simp only [modBox, putBox, gmod_gset hs]

/-! The sides of a mailbox (R328, R329, R334). -/

/-- The origin reaches the mailbox. -/
def BoxReach (o : Origin) (n : Nat) : Prop := Origin.internal o = true ∨ n < 8 ∧ (4 ≤ n ∨ Origin.auth o = true)

/-- The origin reaches the mailbox and is this side of it. -/
def IsSide (o : Origin) (n : Nat) (side : Party) : Prop := BoxReach o n ∧ partyOf o = side

section
variable {o : Origin} {n : Nat} {side : Party}

theorem boxReach_iff : boxReach o n = true ↔ BoxReach o n := by
  unfold boxReach BoxReach
  by_cases hi : Origin.internal o = true
  · simp only [hi, if_true, true_or]
  by_cases h8 : 8 ≤ n
  · simp only [hi, h8, if_true, Bool.false_eq_true, if_false, Nat.not_lt.2 h8, false_and, or_false]
  by_cases h4 : n < 4
  · simp only [hi, h8, h4, Bool.false_eq_true, if_false, if_true, Nat.not_le.1 h8, Nat.not_le.2 h4, true_and, false_or]
  · simp only [hi, h8, h4, Bool.false_eq_true, if_false, Nat.not_le.1 h8, Nat.not_lt.1 h4, true_or, and_true, or_true]

theorem isSide_iff : (boxReach o n && decide (partyOf o = side)) = true ↔ IsSide o n side := by
  rw [Bool.and_eq_true, decide_eq_true_eq, boxReach_iff, IsSide]

theorem asParty_of_side (h : IsSide o n side) (s : State) (f : State → State) : asParty o n side s f = answer (f s) 0 0 [] :=
  if_pos (isSide_iff.2 h)

theorem asParty_of_other (h : ¬ IsSide o n side) (s : State) (f : State → State) : asParty o n side s f = answer s 2 0 [] :=
  if_neg (mt isSide_iff.1 h)

end

theorem receiverOf_eq_hostler_iff : ∀ n : Fin 10, receiverOf n = .hostler ↔ n.val = 2 ∨ n.val = 6 ∨ n.val = 9 := by decide

theorem receiverOf_eq_groom_iff : ∀ n : Fin 10, receiverOf n = .groom ↔ n.val = 0 ∨ n.val = 4 ∨ n.val = 8 := by decide

theorem receiverOf_eq_host_iff : ∀ n : Fin 10, receiverOf n = .host ↔ n.val = 1 ∨ n.val = 3 ∨ n.val = 5 ∨ n.val = 7 := by decide

/-! Notices and doorbells (R330, R331). -/

/-- The doorbell bit that a notice names: its number has 5 bits, so that the bit lies in the register. -/
theorem doorBit_eq (hi : Nat) : 2 ^ bitsOf hi 52 48 % 2 ^ 32 = 2 ^ (hi / 2 ^ 48 % 32) := by
  have hbit : bitsOf hi 52 48 = hi / 2 ^ 48 % 32 := congrArg (· % 32) (Nat.shiftRight_eq_div_pow hi 48)
  rw [hbit, Nat.mod_eq_of_lt]
  exact Nat.pow_lt_pow_right (by decide) (Nat.mod_lt _ (by decide))

/-- The mailbox with one more notice waiting. -/
def Mailbox.queued (b : Mailbox) (hi : Nat) : Mailbox :=
  { b with postHi := BitVec.ofNat 64 (hi % 2 ^ 53), queue := b.queue ++ [(b.postLo, BitVec.ofNat 64 (hi % 2 ^ 53))],
           posted := min (b.posted + 1) 4294967295 }

/-- The mailbox with one more notice waiting and its doorbell bit set. -/
def Mailbox.withNotice (b : Mailbox) (hi : Nat) : Mailbox := { b.queued hi with door := b.door ||| 2 ^ (hi / 2 ^ 48 % 32) }

/-- The mailbox with one more notice refused. -/
def Mailbox.noticeRefused (b : Mailbox) (hi : Nat) : Mailbox :=
  { b with postHi := BitVec.ofNat 64 (hi % 2 ^ 53), refused := min (b.refused + 1) 255 }

section
variable {s : State} (hs : gwf s.mbx.boxes = true) (n : Nat)
include hs

theorem ringBox_putBox (b : Mailbox) (bits : Nat) :
    ringBox (putBox s n b) n bits = callReceiver (putBox s n { b with door := b.door ||| bits % 2 ^ 32 }) n b.calling := by
  rw [ringBox, putBox_box hs, modBox_putBox hs]

theorem post_of_full {hi : Nat} (h : 8 ≤ (s.box n).queue.length) : post n hi s = putBox s n ((s.box n).noticeRefused hi) :=
  (if_pos h).trans (modBox_putBox hs n _ _)

theorem post_of_room {hi : Nat} (h : (s.box n).queue.length < 8) :
    post n hi s = callReceiver (putBox s n ((s.box n).withNotice hi)) n (s.box n).calling := by
  have hring := ringBox_putBox hs n ((s.box n).queued hi) (2 ^ bitsOf hi 52 48)
  rw [doorBit_eq] at hring
  exact (if_neg (Nat.not_le.2 h)).trans ((congrArg (ringBox · n (2 ^ bitsOf hi 52 48)) (modBox_putBox hs n _ _)).trans hring)

end

/-! The call of the receiver (R331, R470). -/

/-- A bit of the mailbox calls that was not in `old`. -/
def NewlyCalls (s : State) (n old : Nat) : Prop := (s.box n).calling &&& (old ^^^ 0xFFFFFFFF) ≠ 0

theorem callReceiver_of_no_new {s : State} {n old : Nat} (h : (s.box n).calling &&& (old ^^^ 0xFFFFFFFF) = 0) :
    callReceiver s n old = s := by
  have hhost : callHost s n old = s := if_pos h
  have hcore : callCore s n old = s := if_pos h
  rw [callReceiver, hhost, hcore, ite_self]

theorem raiseIbi_eq (s : State) :
    raiseIbi s = if s.mbx.ibi = true ∧ s.i3c.ibiEn = true ∧ s.i3c.addr ≠ none
      then { s with i3c := { s.i3c with ibi := some (devAlert s) } } else s := by
  simp only [raiseIbi, Bool.and_eq_true, Option.isSome_iff_ne_none, and_assoc]

theorem raiseIbi_mbx (s : State) : (raiseIbi s).mbx = s.mbx := by rw [raiseIbi]; split <;> rfl

theorem hostPort_raiseIbi (s : State) : hostPort (raiseIbi s) = hostPort s := by rw [raiseIbi]; split <;> rfl

theorem evtPayload_raiseIbi (s : State) (n : Nat) : evtPayload (raiseIbi s) n = evtPayload s n := by rw [raiseIbi]; split <;> rfl

theorem callReceiver_of_host {s : State} {n : Fin 10} {old : Nat} (hr : receiverOf n = .host) : callReceiver s n old = callHost s n old :=
  if_pos ((receiverOf_eq_host_iff n).1 hr)

section
variable {s : State} {n : Fin 10} {old : Nat} (hnew : NewlyCalls s n old)
include hnew

theorem callReceiver_of_hostler (hr : receiverOf n = .hostler) : callReceiver s n old = raiseIrq s s.mbx.hcluster := by
  have hn := (receiverOf_eq_hostler_iff n).1 hr
  exact (if_neg (by omega)).trans ((if_neg hnew).trans (if_pos hn))

theorem callReceiver_of_groom (hr : receiverOf n = .groom) : callReceiver s n old = raiseIrq s 4 := by
  have hn := (receiverOf_eq_groom_iff n).1 hr
  exact (if_neg (by omega)).trans ((if_neg hnew).trans ((if_neg (by omega)).trans (if_pos hn)))

theorem callHost_without_event (h : s.mbx.evt = false ∨ old ≠ 0) : callHost s n old = raiseIbi s := by
  refine (if_neg hnew).trans (if_neg ?_)
  rw [Bool.and_eq_true, decide_eq_true_eq, raiseIbi_mbx]
  rintro ⟨hevt, hold⟩
  exact h.elim (fun hoff => Bool.false_ne_true (hoff.symm.trans hevt)) (absurd hold)

theorem callHost_with_event (hevt : s.mbx.evt = true) (hold : old = 0) {p : Nat} (hp : hostPort s = some p) :
    callHost s n old = sendCar (raiseIbi s) p (mkCar 7 0 0 0 0 (evtPayload s n)) := by
  have hsend : ((raiseIbi s).mbx.evt && decide (old = 0)) = true := by rw [raiseIbi_mbx, hevt, decide_eq_true hold]; rfl
  have hport : evtPort (raiseIbi s) = some p := by rw [evtPort, hostPort_raiseIbi, hp]
  refine (if_neg hnew).trans ((if_pos hsend).trans ?_)
  rw [hport, evtPayload_raiseIbi]

end

/-! Writes of HEAD (R328, R338, R339). -/

/-- The host side, authenticated for a secure ring. -/
def HeadMay (o : Origin) (k : Ring) : Prop := Origin.internal o = false ∧ (Origin.auth o = true ∨ k.sec = false)

theorem headReach_iff {o : Origin} {k : Ring} : headReach o k = true ↔ HeadMay o k := by
  simp only [headReach, HeadMay, Bool.and_eq_true, Bool.or_eq_true, Bool.not_eq_true']

theorem badRecord_iff {s : State} {k : Ring} :
    badRecord s k = true ↔
      let room := 2 ^ k.log2 - k.tail % 2 ^ k.log2
      let a := k.base * 65536 + k.tail % 2 ^ k.log2
      let len := Memory.readLe s.hmem a 2
      if Memory.readLe s.hmem (a + 2) 1 = 0 then len ≠ room else len % 8 ≠ 0 ∨ len < 8 ∨ 4096 < len ∨ room < len := by
  dsimp only [badRecord]
  split <;> exact decide_eq_true_iff

/-- The head is no multiple of 8, or more bytes than the ring holds past TAIL. -/
def Ring.BadHead (k : Ring) (h : Nat) : Prop := h % 8 ≠ 0 ∨ 2 ^ k.log2 < (h + 2 ^ 32 - k.tail) % 2 ^ 32

/-- The ring stops with this head: it is enabled, and its first record is bad. -/
def stopsAt (s : State) (k : Ring) (h : Nat) : Bool := k.en && decide (h ≠ k.tail) && badRecord s k

/-- The ring with this head, stopped where its first record is bad. -/
def headTaken (s : State) (k : Ring) (h : Nat) : Ring := { k with head := h, stopped := k.stopped || stopsAt s k h }

theorem headTaken_of_stop {s : State} {k : Ring} {h : Nat} (hstop : stopsAt s k h = true) :
    headTaken s k h = { k with head := h, stopped := true } := by rw [headTaken, hstop, Bool.or_true]

theorem headTaken_of_go {s : State} {k : Ring} {h : Nat} (hgo : stopsAt s k h = false) : headTaken s k h = { k with head := h } := by
  rw [headTaken, hgo, Bool.or_false]

theorem stopBad_of_ring {t : State} {r : Nat} {k : Ring} (hk : t.ring r = k) :
    stopBad r t = if stopsAt t k k.head then putRing t r { k with stopped := true } else t := by
  subst hk
  rfl

theorem putRing_raiseIrq_putRing {s : State} (hs : gwf s.mbx.rings = true) (r : Nat) (k k' : Ring) (c : Nat) :
    putRing (raiseIrq (putRing s r k) c) r k' = raiseIrq (putRing s r k') c := by
  simp only [putRing, raiseIrq, gset_gset hs]

section
variable {s : State} {r data : Nat}

theorem writeHead_of_bad (h : (s.ring r).BadHead (data % 2 ^ 32)) :
    writeHead r data s = putRing s r { s.ring r with badhead := min ((s.ring r).badhead + 1) 255 } := if_pos h

/-- A head that is taken interrupts the ring's cluster; whether the ring stops is decided by its record at TAIL. -/
theorem writeHead_of_good (hs : gwf s.mbx.rings = true) (h : ¬ (s.ring r).BadHead (data % 2 ^ 32)) :
    writeHead r data s = raiseIrq (putRing s r (headTaken s (s.ring r) (data % 2 ^ 32))) (s.ring r).cluster := by
  have hring : (raiseIrq (putRing s r { s.ring r with head := data % 2 ^ 32 }) (s.ring r).cluster).ring r =
      { s.ring r with head := data % 2 ^ 32 } := putRing_ring hs r _
  refine (if_neg h).trans ((stopBad_of_ring hring).trans ?_)
  by_cases hstop : stopsAt s (s.ring r) (data % 2 ^ 32) = true
  · rw [headTaken_of_stop hstop]
    exact (if_pos hstop).trans (putRing_raiseIrq_putRing hs ..)
  · rw [headTaken_of_go (eq_false_of_ne_true hstop)]
    exact if_neg hstop

end

section
variable {o : Origin} {r : Fin 8} {data : Word64} {s : State}

theorem execCrheadWrite_of_not_may (h : ¬ HeadMay o (s.ring r)) : execCrheadWrite o r data s = .next (answer s 2 0 []) :=
  congrArg _ (if_neg (mt headReach_iff.1 h))

theorem execCrheadWrite_of_may (h : HeadMay o (s.ring r)) :
    execCrheadWrite o r data s = .next (answer (writeHead r data.toNat s) 0 0 []) :=
  congrArg _ (if_pos (headReach_iff.2 h))

end

/-! The configuration of a ring (R339). -/

theorem Ring.configure_of_enabled {k : Ring} (h : k.en = true) (data : Nat) :
    k.configure data = { k with en := data.testBit 0 } := if_pos h

theorem Ring.configure_of_disabled {k : Ring} (h : k.en = false) (data : Nat) :
    k.configure data =
      let en := data.testBit 0
      let k' := { k with en := en, sec := data.testBit 1, log2 := bitsOf data 6 2, cluster := bitsOf data 8 7, base := bitsOf data 28 16 }
      if en then { k' with head := 0, tail := 0 } else k' := by
  refine (if_neg (ne_true_of_eq_false h)).trans ?_
  dsimp only [bitOf]
  by_cases hen : data.testBit 0 = true
  · simp only [hen, if_true]
  · simp only [hen, if_false, Bool.false_eq_true]

theorem execCrcfgWrite_of_internal {o : Origin} {r : Fin 8} {data : Word64} {s : State} (ho : Origin.internal o = true) {k : Ring}
    (hk : (s.ring r).configure data.toNat = k) : execCrcfgWrite o r data s = .next (answer (putRing s r k) 0 0 []) := by
  subst hk
  exact congrArg _ (asHostler_of_internal ho ..)

/-! Service cars (R326). -/

section
variable {s t : State} {port : PortId} {car : RxCar} (htyp : car.typ = 7)
include htyp

theorem execSvc_of_drop (ht : receiveCar s port car = .drop t) : execSvc port car s = .next t := by
  simp only [execSvc, htyp, ht, ne_eq, not_true_eq_false, if_false]

theorem execSvc_of_take (ht : receiveCar s port car = .take t) : execSvc port car s = .next (takeSvc t port car.payload) := by
  simp only [execSvc, htyp, ht, ne_eq, not_true_eq_false, if_false]

end

/-- The slots that firmware has emptied since the last car: never more than were full. -/
def svcEmptied (s : State) : Nat := Config.pick s.fresh % (s.mbx.svcFill + 1)

theorem svcEmptied_le (s : State) : svcEmptied s ≤ s.mbx.svcFill := Nat.lt_succ_iff.1 (Nat.mod_lt _ (Nat.succ_pos _))

/-- A car goes into the slot at the write position with its port number, or is dropped and counted where no slot is empty. -/
theorem takeSvc_eq (s : State) (p : Nat) (payload : List Byte) :
    takeSvc s p payload =
      let fill := s.mbx.svcFill - svcEmptied s
      let u := { s with fresh := s.fresh + 1 }
      if s.mbx.svcSlots ≤ fill then { u with mbx := { s.mbx with svcFill := fill, drops := min (s.mbx.drops + 1) 4294967295 } }
      else { u with
        hmem := Memory.writeBytes s.hmem ((s.mbx.svcBase * 256 + s.mbx.svcPos * 256) % 2 ^ 29) (setAt payload 13 (BitVec.ofNat 8 p)),
        mbx := { s.mbx with svcPos := (s.mbx.svcPos + 1) % s.mbx.svcSlots, svcFill := fill + 1 } } := rfl

end Sys2Proof.Machine

namespace Sys2Proof.Proofs
open Sys2Proof Sys2Proof.Machine

/-- Settles O53: a write of a mailbox by whether its side makes it and what it leaves of the box, a call by whether a bit calls newly and
by the receiver, a write of HEAD by whether it is taken, and a service car by the slots that are full. -/
theorem mailboxesRingsAndServiceCars : Obligations.MailboxesRingsAndServiceCars := by
  intro s hs
  refine ⟨fun o n data v => ⟨fun hno => ?notSender, fun hno => ?notReceiver, fun hyes hfull => ?refused, fun hyes hroom => ?posted,
      fun hyes => congrArg _ (asParty_of_side hyes ..), fun hyes => ?receiver⟩,
    fun n old => ⟨callReceiver_of_no_new, callReceiver_of_hostler, callReceiver_of_groom, fun hnew hr hquiet => ?quiet,
      fun hnew hr hevt hold p hp => ?event⟩,
    fun o r data => ⟨execCrheadWrite_of_not_may, fun hmay hbad => ?badHead, fun hmay hgood => ?goodHead,
      fun ho => congrArg _ (asHostler_of_outside ho ..),
      fun ho hen => execCrcfgWrite_of_internal ho (Ring.configure_of_enabled hen _),
      fun ho hdis => execCrcfgWrite_of_internal ho (Ring.configure_of_disabled hdis _)⟩,
    fun port car htyp => ⟨fun t => execSvc_of_drop htyp, fun t ht =>
      ⟨svcEmptied t, svcEmptied_le t, (execSvc_of_take htyp ht).trans (congrArg _ (takeSvc_eq ..))⟩⟩⟩
  case notSender => refine ⟨?_, ?_⟩ <;> exact congrArg _ (asParty_of_other hno ..)
  case notReceiver => refine ⟨?_, ?_, ?_, ?_, ?_⟩ <;> exact congrArg _ (asParty_of_other hno ..)
  case refused => exact congrArg _ ((asParty_of_side hyes ..).trans (congrArg (answer · 0 0 []) (post_of_full hs.boxes n hfull)))
  case posted => exact congrArg _ ((asParty_of_side hyes ..).trans (congrArg (answer · 0 0 []) (post_of_room hs.boxes n hroom)))
  case receiver => refine ⟨?_, ?_, ?_, ?_, ?_⟩ <;> exact congrArg _ (asParty_of_side hyes ..)
  case quiet => exact (callReceiver_of_host hr).trans ((callHost_without_event hnew hquiet).trans (raiseIbi_eq s))
  case event =>
    exact (callReceiver_of_host hr).trans ((callHost_with_event hnew hevt hold hp).trans
      (congrArg (sendCar · p (mkCar 7 0 0 0 0 (evtPayload s n))) (raiseIbi_eq s)))
  case badHead => exact (execCrheadWrite_of_may hmay).trans (congrArg _ (congrArg (answer · 0 0 []) (writeHead_of_bad hbad)))
  case goodHead =>
    refine ⟨stopsAt s (s.ring r) (data.toNat % 2 ^ 32), ?_,
      (execCrheadWrite_of_may hmay).trans (congrArg _ (congrArg (answer · 0 0 []) (writeHead_of_good hs.rings hgood)))⟩
    rw [stopsAt, Bool.and_eq_true, Bool.and_eq_true, decide_eq_true_eq, and_assoc]
    exact and_congr_right' (and_congr_right' badRecord_iff)

end Sys2Proof.Proofs
end

section
/-! PROOFS. Steps and the reset (R26, R27, R320, R327, R334, R359, R377, R406, R412, R443, R445): which parts of the state a command can
change, what a step keeps and which command it runs, the state after reset, and from these O8, O5, O6, O4, O3 and O1. -/

namespace Sys2Proof.Machine

/-- Whatever the command, its next state is the same outside the parts that its rules name. -/
theorem exec_same (s : State) : ∀ i : Instr, OutSame (touches i) s (exec i s)
  | .nop sid => execNop_same .refl sid (List.Subset.refl _)
  | .endW sid => execEnd_same .refl sid (List.Subset.refl _)
  | .loop sid => execLoop_same .refl sid (List.Subset.refl _)
  | .brt sid => execBrt_same .refl sid (List.Subset.refl _)
  | .brtWaitSatisfied sid => execBrtWaitSatisfied_same .refl sid (List.Subset.refl _)
  | .br sid => execBr_same .refl sid (List.Subset.refl _)
  | .jmp sid => execJmp_same .refl sid (List.Subset.refl _)
  | .waitg sid => execWaitg_same .refl sid (List.Subset.refl _)
  | .arrive sid => execArrive_same .refl sid (List.Subset.refl _)
  | .mov sid par => execMov_same .refl sid par (List.Subset.refl _)
  | .movq sid => execMovq_same .refl sid (List.Subset.refl _)
  | .movqs sid => execMovqs_same .refl sid (List.Subset.refl _)
  | .qrel sid => execQrel_same .refl sid (List.Subset.refl _)
  | .lds sid par => execLds_same .refl sid par (List.Subset.refl _)
  | .sts sid => execSts_same .refl sid (List.Subset.refl _)
  | .agb sid => execAgb_same .refl sid (List.Subset.refl _)
  | .ags sid => execAgs_same .refl sid (List.Subset.refl _)
  | .vadd sid res => execVadd_same .refl sid res (List.Subset.refl _)
  | .vsub sid res => execVsub_same .refl sid res (List.Subset.refl _)
  | .vmul sid res => execVmul_same .refl sid res (List.Subset.refl _)
  | .vfma sid res => execVfma_same .refl sid res (List.Subset.refl _)
  | .vmax sid res => execVmax_same .refl sid res (List.Subset.refl _)
  | .vmin sid res => execVmin_same .refl sid res (List.Subset.refl _)
  | .vact sid res => execVact_same .refl sid res (List.Subset.refl _)
  | .vexp2 sid res => execVexp2_same .refl sid res (List.Subset.refl _)
  | .vlog2 sid res => execVlog2_same .refl sid res (List.Subset.refl _)
  | .vrsqrt sid res => execVrsqrt_same .refl sid res (List.Subset.refl _)
  | .vrcp sid res => execVrcp_same .refl sid res (List.Subset.refl _)
  | .vred sid res => execVred_same .refl sid res (List.Subset.refl _)
  | .vcvt sid res => execVcvt_same .refl sid res (List.Subset.refl _)
  | .vcmp sid res => execVcmp_same .refl sid res (List.Subset.refl _)
  | .vlogic sid => execVlogic_same .refl sid (List.Subset.refl _)
  | .vcopy sid => execVcopy_same .refl sid (List.Subset.refl _)
  | .send sid => execSend_same .refl sid (List.Subset.refl _)
  | .sendl sid => execSendl_same .refl sid (List.Subset.refl _)
  | .sends sid => execSends_same .refl sid (List.Subset.refl _)
  | .relay sid => execRelay_same .refl sid (List.Subset.refl _)
  | .tinc sid => execTinc_same .refl sid (List.Subset.refl _)
  | .tdec sid => execTdec_same .refl sid (List.Subset.refl _)
  | .trd sid => execTrd_same .refl sid (List.Subset.refl _)
  | .tset sid => execTset_same .refl sid (List.Subset.refl _)
  | .brand sid => execBrand_same .refl sid (List.Subset.refl _)
  | .ballast sid => execBallast_same .refl sid (List.Subset.refl _)
  | .salu sid => execSalu_same .refl sid (List.Subset.refl _)
  | .sli sid => execSli_same .refl sid (List.Subset.refl _)
  | .dmm sid => execDmm_same .refl sid (List.Subset.refl _)
  | .drain sid => execDrain_same .refl sid (List.Subset.refl _)
  | .dexp sid => execDexp_same .refl sid (List.Subset.refl _)
  | .dstat sid => execDstat_same .refl sid (List.Subset.refl _)
  | .smm sid => execSmm_same .refl sid (List.Subset.refl _)
  | .sdd sid => execSdd_same .refl sid (List.Subset.refl _)
  | .psel sid => execPsel_same .refl sid (List.Subset.refl _)
  | .pchk sid => execPchk_same .refl sid (List.Subset.refl _)
  | .dmmCompletion sid => execDmmCompletion_same .refl sid (List.Subset.refl _)
  | .rakeCompletion sid => execRakeCompletion_same .refl sid (List.Subset.refl _)
  | .overflowReplay sid rake => execOverflowReplay_same .refl sid rake (List.Subset.refl _)
  | .dispatch sid par => execDispatch_same .refl sid par (List.Subset.refl _)
  | .messageAcceptance sid vc par => execMessageAcceptance_same .refl sid vc par (List.Subset.refl _)
  | .messageComplete sid vc => execMessageComplete_same .refl sid vc (List.Subset.refl _)
  | .relayCopy sid => execRelayCopy_same .refl sid (List.Subset.refl _)
  | .contributionCounted sid vc => execContributionCounted_same .refl sid vc (List.Subset.refl _)
  | .releaseBegin sid slot => execReleaseBegin_same .refl sid slot (List.Subset.refl _)
  | .releaseComplete sid slot => execReleaseComplete_same .refl sid slot (List.Subset.refl _)
  | .penLeave sid => execPenLeave_same .refl sid (List.Subset.refl _)
  | .flitHop mid flit adaptive crcOk => execFlitHop_same .refl mid flit adaptive crcOk (List.Subset.refl _)
  | .sidingInjection port what => execSidingInjection_same .refl port what (List.Subset.refl _)
  | .progressWatchdogFire yard shed => execProgressWatchdogFire_same .refl yard shed (List.Subset.refl _)
  | .gateOpening scope unit line => execGateOpening_same .refl scope unit line (List.Subset.refl _)
  | .epochDrained => execEpochDrained_same .refl (List.Subset.refl _)
  | .secEpochWrite o data => execSecEpochWrite_same .refl o data (List.Subset.refl _)
  | .routeTableWrite version sid entries => execRouteTableWrite_same .refl version sid entries (List.Subset.refl _)
  | .detourInstall => execDetourInstall_same .refl (List.Subset.refl _)
  | .load o place => execLoad_same .refl o place (List.Subset.refl _)
  | .loadComplete place memErr => execLoadComplete_same .refl place memErr (List.Subset.refl _)
  | .arm o place auto => execArm_same .refl o place auto (List.Subset.refl _)
  | .armComplete => by rw [exec_armComplete]; exact execArmComplete_same .refl (List.Subset.refl _)
  | .start o place => execStart_same .refl o place (List.Subset.refl _)
  | .abort o => execAbort_same .refl o (List.Subset.refl _)
  | .abortedReached => execAbortedReached_same .refl (List.Subset.refl _)
  | .disarm o place => execDisarm_same .refl o place (List.Subset.refl _)
  | .evict o place => execEvict_same .refl o place (List.Subset.refl _)
  | .reload o place => execReload_same .refl o place (List.Subset.refl _)
  | .reloadComplete place memErr => execReloadComplete_same .refl place memErr (List.Subset.refl _)
  | .endLatch => execEndLatch_same .refl (List.Subset.refl _)
  | .startOpening => execStartOpening_same .refl (List.Subset.refl _)
  | .loftWriteLanding sid => execLoftWriteLanding_same .refl sid (List.Subset.refl _)
  | .streamIssue o port ctx => execStreamIssue_same .refl o port ctx (List.Subset.refl _)
  | .streamCancel o port ctx => execStreamCancel_same .refl o port ctx (List.Subset.refl _)
  | .sdata port car => execSdata_same .refl port car (List.Subset.refl _)
  | .blockRelease port ctx => execBlockRelease_same .refl port ctx (List.Subset.refl _)
  | .creditMessage port => execCreditMessage_same .refl port (List.Subset.refl _)
  | .ackReport port ctx => execAckReport_same .refl port ctx (List.Subset.refl _)
  | .softGap port ctx => execSoftGap_same .refl port ctx (List.Subset.refl _)
  | .hardGap port ctx => execHardGap_same .refl port ctx (List.Subset.refl _)
  | .marshallingEntryWrite o version index data => execMarshallingEntryWrite_same .refl o version index data (List.Subset.refl _)
  | .bucketIssue o ctx => execBucketIssue_same .refl o ctx (List.Subset.refl _)
  | .bucketCancel o ctx => execBucketCancel_same .refl o ctx (List.Subset.refl _)
  | .gradientPart port => execGradientPart_same .refl port (List.Subset.refl _)
  | .bucketSendStart ctx => execBucketSendStart_same .refl ctx (List.Subset.refl _)
  | .bucketCloseSent ctx => execBucketCloseSent_same .refl ctx (List.Subset.refl _)
  | .gret port car => execGret_same .refl port car (List.Subset.refl _)
  | .bucketTimeout ctx => execBucketTimeout_same .refl ctx (List.Subset.refl _)
  | .bagree port car => execBagree_same .refl port car (List.Subset.refl _)
  | .brsnd port car => execBrsnd_same .refl port car (List.Subset.refl _)
  | .basum port car => execBasum_same .refl port car (List.Subset.refl _)
  | .ststop port car => execStstop_same .refl port car (List.Subset.refl _)
  | .bstop port car => execBstop_same .refl port car (List.Subset.refl _)
  | .portCfgWrite o port data => execPortCfgWrite_same .refl o port data (List.Subset.refl _)
  | .train o port => execTrain_same .refl o port (List.Subset.refl _)
  | .qclr o port => execQclr_same .refl o port (List.Subset.refl _)
  | .rekey o port => execRekey_same .refl o port (List.Subset.refl _)
  | .drop o port => execDrop_same .refl o port (List.Subset.refl _)
  | .trainingAttemptEnd port lanes => execTrainingAttemptEnd_same .refl port lanes (List.Subset.refl _)
  | .tryintExpiry port => execTryintExpiry_same .refl port (List.Subset.refl _)
  | .hello port car sigsOk => execHello_same .refl port car sigsOk (List.Subset.refl _)
  | .kex port car sigsOk => execKex_same .refl port car sigsOk (List.Subset.refl _)
  | .handshakeTimeout port => execHandshakeTimeout_same .refl port (List.Subset.refl _)
  | .authRetry port => execAuthRetry_same .refl port (List.Subset.refl _)
  | .markerCar port good frame => execMarkerCar_same .refl port good frame (List.Subset.refl _)
  | .lctl port car => execLctl_same .refl port car (List.Subset.refl _)
  | .lctlSend port => execLctlSend_same .refl port (List.Subset.refl _)
  | .replayTimeout port => execReplayTimeout_same .refl port (List.Subset.refl _)
  | .berWindow port errBits uncorr lost => execBerWindow_same .refl port errBits uncorr lost (List.Subset.refl _)
  | .noCarTimeout port => execNoCarTimeout_same .refl port (List.Subset.refl _)
  | .retrainTimeout port => execRetrainTimeout_same .refl port (List.Subset.refl _)
  | .rekeyTimer port => execRekeyTimer_same .refl port (List.Subset.refl _)
  | .beaconSend => execBeaconSend_same .refl (List.Subset.refl _)
  | .beacon port car t4 => execBeacon_same .refl port car t4 (List.Subset.refl _)
  | .mgmt port car => execMgmt_same .refl port car (List.Subset.refl _)
  | .bridgeTimeout port tid => execBridgeTimeout_same .refl port tid (List.Subset.refl _)
  | .svc port car => execSvc_same .refl port car (List.Subset.refl _)
  | .windowRead o addr wlen => execWindowRead_same .refl o addr wlen (List.Subset.refl _)
  | .windowWrite o addr data => execWindowWrite_same .refl o addr data (List.Subset.refl _)
  | .registerWrite o addr data => execRegisterWrite_same .refl o addr data (List.Subset.refl _)
  | .mbxPost o n hi => execMbxPost_same .refl o n hi (List.Subset.refl _)
  | .mbxRing o n data => execMbxRing_same .refl o n data (List.Subset.refl _)
  | .mbxDoorClear o n data => execMbxDoorClear_same .refl o n data (List.Subset.refl _)
  | .mbxMaskWrite o n data => execMbxMaskWrite_same .refl o n data (List.Subset.refl _)
  | .pop o n => execPop_same .refl o n (List.Subset.refl _)
  | .flush o n => execFlush_same .refl o n (List.Subset.refl _)
  | .rxrdy o n value => execRxrdy_same .refl o n value (List.Subset.refl _)
  | .crheadWrite o r data => execCrheadWrite_same .refl o r data (List.Subset.refl _)
  | .crcfgWrite o r data => execCrcfgWrite_same .refl o r data (List.Subset.refl _)
  | .pclr o yard shed => execPclr_same .refl o yard shed (List.Subset.refl _)
  | .pwrCapWrite o data => execPwrCapWrite_same .refl o data (List.Subset.refl _)
  | .allocatorInterval m => execAllocatorInterval_same .refl m (List.Subset.refl _)
  | .rampInterval m => execRampInterval_same .refl m (List.Subset.refl _)
  | .idleProposal yard shed cause => execIdleProposal_same .refl yard shed cause (List.Subset.refl _)
  | .shedWake yard shed cause => execShedWake_same .refl yard shed cause (List.Subset.refl _)
  | .wakeComplete yard shed => execWakeComplete_same .refl yard shed (List.Subset.refl _)
  | .yardRailInterval yard watts => execYardRailInterval_same .refl yard watts (List.Subset.refl _)
  | .staggerArm o data => execStaggerArm_same .refl o data (List.Subset.refl _)
  | .staggerSlotReached => execStaggerSlotReached_same .refl (List.Subset.refl _)
  | .nextevWrite o data => execNextevWrite_same .refl o data (List.Subset.refl _)
  | .lshedAssert => execLshedAssert_same .refl (List.Subset.refl _)
  | .lreq o data => execLreq_same .refl o data (List.Subset.refl _)
  | .loadShedEnd => execLoadShedEnd_same .refl (List.Subset.refl _)
  | .feedChange feedB present rideThrough => execFeedChange_same .refl feedB present rideThrough (List.Subset.refl _)
  | .thmClkWrite o data => execThmClkWrite_same .refl o data (List.Subset.refl _)
  | .droopDetect yard shed deep => execDroopDetect_same .refl yard shed deep (List.Subset.refl _)
  | .droopRecovery yard shed => execDroopRecovery_same .refl yard shed (List.Subset.refl _)
  | .sensorSample sheds supplies => execSensorSample_same .refl sheds supplies (List.Subset.refl _)
  | .throttleStep yard shed up => execThrottleStep_same .refl yard shed up (List.Subset.refl _)
  | .tripRailOff => execTripRailOff_same .refl (List.Subset.refl _)
  | .coreRailTrip yard => execCoreRailTrip_same .refl yard (List.Subset.refl _)
  | .trackRailTrip yard => execTrackRailTrip_same .refl yard (List.Subset.refl _)
  | .remapFault u => execRemapFault_same .refl u (List.Subset.refl _)
  | .remapRun => execRemapRun_same .refl (List.Subset.refl _)
  | .remapComplete => execRemapComplete_same .refl (List.Subset.refl _)
  | .spareRetirement u => execSpareRetirement_same .refl u (List.Subset.refl _)
  | .lungeStart o data => execLungeStart_same .refl o data (List.Subset.refl _)
  | .lungeComplete r => execLungeComplete_same .refl r (List.Subset.refl _)
  | .studbookCommit r => execStudbookCommit_same .refl r (List.Subset.refl _)
  | .lifeUpdate hours hourly => execLifeUpdate_same .refl hours hourly (List.Subset.refl _)
  | .attest internal => execAttest_same .refl internal (List.Subset.refl _)
  | .keyreg sigOk => execKeyreg_same .refl sigOk (List.Subset.refl _)
  | .sbread internal => execSbread_same .refl internal (List.Subset.refl _)
  | .suspect => execSuspect_same .refl (List.Subset.refl _)
  | .lungeset img => execLungeset_same .refl img (List.Subset.refl _)
  | .groomStart g => execGroomStart_same .refl g (List.Subset.refl _)
  | .firmwareRecoveryImage last img => execFirmwareRecoveryImage_same .refl last img (List.Subset.refl _)
  | .track o auto hsrc => execTrack_same .refl o auto hsrc (List.Subset.refl _)
  | .core o auto hsrc => execCore_same .refl o auto hsrc (List.Subset.refl _)
  | .clocks o auto hsrc => execClocks_same .refl o auto hsrc (List.Subset.refl _)
  | .bist o auto hsrc => execBist_same .refl o auto hsrc (List.Subset.refl _)
  | .remap o auto hsrc => execRemap_same .refl o auto hsrc (List.Subset.refl _)
  | .loft o auto hsrc => execLoft_same .refl o auto hsrc (List.Subset.refl _)
  | .ports o auto hsrc => execPorts_same .refl o auto hsrc (List.Subset.refl _)
  | .hostler o auto hsrc => execHostler_same .refl o auto hsrc (List.Subset.refl _)
  | .ready o auto hsrc => execReady_same .refl o auto hsrc (List.Subset.refl _)
  | .bootStepComplete r => execBootStepComplete_same .refl r (List.Subset.refl _)
  | .cold o => execCold_same .refl o (List.Subset.refl _)
  | .warm o => execWarm_same .refl o (List.Subset.refl _)
  | .resetPin low => execResetPin_same .refl low (List.Subset.refl _)
  | .powerOn feedB => execPowerOn_same .refl feedB (List.Subset.refl _)
  | .groomLock o data => execGroomLock_same .refl o data (List.Subset.refl _)
  | .i3cTransaction op => execI3cTransaction_same .refl op (List.Subset.refl _)
  | .extest drive => execExtest_same .refl drive (List.Subset.refl _)
  | .idcode => execIdcode_same .refl (List.Subset.refl _)
  | .samplePreload preload => execSamplePreload_same .refl preload (List.Subset.refl _)
  | .bypass => execBypass_same .refl (List.Subset.refl _)
  | .tapReset => execTapReset_same .refl (List.Subset.refl _)
  | .rekeyRetry port => execRekeyRetry_same .refl port (List.Subset.refl _)
  | .operatorImageLoad img => execOperatorImageLoad_same .refl img (List.Subset.refl _)
  | .i3cCcc ccc => execI3cCcc_same .refl ccc (List.Subset.refl _)
  | .ballastRunOut sid => execBallastRunOut_same .refl sid (List.Subset.refl _)

/-! Steps. -/

theorem step_of_front {s : State} {c : Instr} {r : List Instr} (h : s.pending = c :: r) :
    step s = exec c { s with pending := r } := by rw [step, h]

/-- Whatever runs, a tick or the front command with the rest of the queue, a step keeps what every command keeps. -/
theorem step_keeps {s t : State} (hs : Canonical s) (ha : ArbInRange s) (h : step s = .next t) : ∃ c : State, c.fuses = s.fuses ∧ Keeps c t := by
  cases hp : s.pending with
  | nil =>
    obtain rfl : tick s = t := Host.Outcome.next.inj ((step_of_empty hp).symm.trans h)
    exact ⟨s, rfl, tick_keeps (Keeps.self hs ha)⟩
  | cons c r =>
    have hkeeps : OutKeeps { s with pending := r } (step s) :=
      step_of_front hp ▸ exec_keeps (Keeps.self (hs.withPending r) (ha.withPending r)) c
    rw [h] at hkeeps
    exact ⟨{ s with pending := r }, rfl, hkeeps⟩

/-! The state after reset. -/

theorem canonical_reset : Canonical State.reset :=
  { stalls := gwf_gconst _, sheds := gwf_gconst _, yards := gwf_gconst _, psheds := gwf_gconst _, ports := gwf_gconst _,
    places := gwf_gconst _, buckets := gwf_gconst _, boxes := gwf_gconst _, rings := gwf_gconst _, hmem := Memory.wf_nil, gwin := Memory.wf_nil }

theorem arbInRange_reset : ArbInRange State.reset := ⟨gwf_gconst _, fun _ => Nat.zero_le _⟩

end Sys2Proof.Machine

namespace Sys2Proof.Proofs
open Sys2Proof Sys2Proof.Machine

/-- Settles O8: each command by the lemma that says which parts it can change. -/
theorem whatACommandLeavesAlone : Obligations.WhatACommandLeavesAlone := by
  intro i s t ht
  have hsame : OutSame (touches i) s (exec i s) := exec_same s i
  rw [ht] at hsame
  exact hsame

/-- Settles O5: what a step keeps includes the canonical form and the range of the thermometers. -/
theorem stepKeepsTheCanonicalForm : Obligations.StepKeepsTheCanonicalForm := by
  intro s t hs ha ht
  obtain ⟨c, _, hkeeps⟩ := step_keeps hs ha ht
  exact ⟨hkeeps.canon, hkeeps.inRange⟩

/-- Settles O6: what a step keeps includes the blown fuses, and the commands before it have left the fuses alone. -/
theorem stepNeverUnblowsAFuse : Obligations.StepNeverUnblowsAFuse := by
  intro s t hs ha ht
  obtain ⟨c, hc, hkeeps⟩ := step_keeps hs ha ht
  exact hc ▸ ⟨hkeeps.fuses, hkeeps.arb⟩

/-- Settles O4: every map after reset is constant, every memory and the queue are empty, and no thermometer has a level. -/
theorem resetMeetsTheInvariants : Obligations.ResetMeetsTheInvariants :=
  ⟨canonical_reset, arbInRange_reset, fun _ hc => nomatch hc⟩

/-- Settles O3: the registers of the reset state one by one; the units of a constant map all read as its constant. -/
theorem resetRegisters : Obligations.ResetRegisters := by
  unfold Obligations.ResetRegisters
  exact ⟨rfl, rfl, rfl, rfl, rfl, rfl, rfl, rfl, rfl, rfl, rfl, rfl, rfl, rfl, rfl, rfl, fun _ => ⟨rfl, rfl, rfl, rfl⟩, rfl, fun _ => rfl,
    fun _ => ⟨rfl, rfl⟩, fun _ => ⟨rfl, fun _ => rfl⟩, fun _ _ => rfl, rfl⟩

/-- Settles O1: the step looks at the queue alone, and its front is the command. -/
theorem stepRunsTheCommand : Obligations.StepRunsTheCommand := fun _ _ _ => step_of_front

end Sys2Proof.Proofs
end

section
/-! PROOFS. Power (R341-R357): the cap, an allocator interval by whether the input overshoots, the depth that a shed selects, the ramp by
where the draw lies, load shed by whether it was and is active, and from these O55. -/

namespace Sys2Proof.Machine

/-! The cap (R1, R2, R343, R352, R359). -/

theorem loadShed_iff {s : State} : loadShed s = true ↔ s.pwr.pin = true ∨ s.pwr.lreq = true := by rw [loadShed, Bool.or_eq_true]

/-- LIMIT after something it depends on was written. -/
def limitFixed (s : State) : Nat :=
  if s.pwr.pin = true ∨ s.pwr.lreq = true then 100 * min (levelClamped s) (capClamped s)
  else if s.pwr.limit ≤ 100 * capClamped s then 100 * capClamped s else s.pwr.limit

theorem fixLimit_eq (s : State) : fixLimit s = { s with pwr := { s.pwr with limit := limitFixed s } } := by
  simp only [fixLimit, limitFixed, loadShed_iff]
  split
  · rfl
  · split <;> rfl

theorem bitsOf_low (v n : Nat) : bitsOf v n 0 = v % 2 ^ (n + 1) := by rw [bitsOf, Nat.shiftRight_zero, Nat.sub_zero]

theorem writeCap_eq (data : Nat) (s : State) :
    writeCap data s =
      let u := { s with pwr := { s.pwr with capw := clampNat (data % 65536) 8000 (s.dev.maxkw * 1000) } }
      { u with pwr := { u.pwr with limit := limitFixed u } } := by
  rw [writeCap, bitsOf_low]
  exact fixLimit_eq _

/-! The allocator (R343, R345, R346, R361). -/

/-- The overshoots of the section that still count, this one included. -/
def recentShoots (s : State) : List Nat := s.pwr.shoots.filter (fun t => decide (s.dev.wall ≤ t + 100000000)) ++ [s.dev.wall]

/-- The power block with one overshoot more. -/
def PwrBlock.overshot (p : PwrBlock) : PwrBlock := { p with overshoot := min (p.overshoot + 1) 65535 }

theorem countOvershoot_of_unplanned {s : State} (h : runningPlace s = none ∨ s.pwr.learning = true) :
    countOvershoot s = { s with pwr := s.pwr.overshot } := by
  have hcond : ((runningPlace s).isNone || s.pwr.learning) = true := by rwa [Bool.or_eq_true, Option.isNone_iff_eq_none]
  exact if_pos hcond

section
variable {s : State} (hr : runningPlace s ≠ none) (hl : s.pwr.learning = false)
include hr hl

theorem overshoot_planned : ¬ ((runningPlace s).isNone || s.pwr.learning) = true := by
  rw [hl, Bool.or_false, Option.isNone_iff_eq_none]
  exact hr

theorem countOvershoot_of_few (hfew : (recentShoots s).length < 3) :
    countOvershoot s = { s with pwr := { s.pwr.overshot with shoots := recentShoots s } } :=
  (if_neg (overshoot_planned hr hl)).trans (if_pos hfew)

theorem countOvershoot_of_third (hthird : 3 ≤ (recentShoots s).length) :
    countOvershoot s = { s with pwr := { s.pwr.overshot with
      shoots := [], learning := true, fallback := min (s.pwr.fallback + 1) 65535 } } :=
  (if_neg (overshoot_planned hr hl)).trans (if_neg (Nat.not_lt.2 hthird))

end

/-- Counting an overshoot changes OVERSHOOT and what the learning mode rests on. -/
theorem countOvershoot_eq (s : State) : ∃ shoots learning fallback,
    countOvershoot s = { s with pwr := { s.pwr.overshot with shoots := shoots, learning := learning, fallback := fallback } } := by
  by_cases h : runningPlace s = none ∨ s.pwr.learning = true
  · exact ⟨_, _, _, countOvershoot_of_unplanned h⟩
  · obtain ⟨hr, hl⟩ := not_or.1 h
    rw [Bool.not_eq_true] at hl
    by_cases hfew : (recentShoots s).length < 3
    · exact ⟨_, _, _, countOvershoot_of_few hr hl hfew⟩
    · exact ⟨_, _, _, countOvershoot_of_third hr hl (Nat.not_lt.1 hfew)⟩

/-- LIMIT after an interval (R343). -/
def limitSlewed (s : State) : Nat :=
  if (s.pwr.pin = true ∨ s.pwr.lreq = true) ∨ s.pwr.limit ≤ 100 * capClamped s then s.pwr.limit
  else max (100 * capClamped s) (s.pwr.limit - slopeOf s.pwr.down)

theorem slewLimit_eq (s : State) : slewLimit s = { s with pwr := { s.pwr with limit := limitSlewed s } } := by
  simp only [slewLimit, limitSlewed, loadShed_iff]
  split <;> rfl

/-- The peak of the section and the measurements of the interval. -/
def intervalMeasured (m : PowerMeas) (s : State) : State :=
  let p := s.pwr.measured m
  let peak := (m.input - (m.links + m.lofts + m.standing)) * 16 / nSet s
  { s with pwr := if (runningPlace s).isSome then { p with peak := max p.peak peak } else p }

/-- What an interval finds is noted: the measurements, the peak, an overshoot. -/
def intervalNoted (m : PowerMeas) (s : State) : State :=
  if s.pwr.limit < 100 * m.input then countOvershoot (intervalMeasured m s) else intervalMeasured m s

/-- n as an interval allots it from the state in which its findings and the new LIMIT stand (R345, R346). -/
def intervalAllots (m : PowerMeas) (last : Nat) (above : Prop) [Decidable above] (u : State) : Nat :=
  let base := m.links + m.lofts + m.standing
  let n := nFrom (p16Of u base m.compute) u.pwr.limit base
  if above then min n (max 1 (last - 1)) else n

theorem execAllocatorInterval_eq (m : PowerMeas) (s : State) :
    execAllocatorInterval m s = .next (
      let u := slewLimit (intervalNoted m s)
      { u with pwr := { u.pwr with
          nAlloc := intervalAllots m (nSet s) (s.pwr.limit < 100 * m.input) u,
          unmet := decide (nSet s = 1 ∧ s.pwr.limit < 100 * (m.input - m.ballast)), alloc := inLearning u } }) := by
  have hmeasured : (if (runningPlace s).isSome then
      { s with pwr := { s.pwr.measured m with peak := max (s.pwr.measured m).peak ((m.input - (m.links + m.lofts + m.standing)) * 16 / nSet s) } }
      else { s with pwr := s.pwr.measured m }) = intervalMeasured m s := by
    unfold intervalMeasured
    split <;> rfl
  simp only [execAllocatorInterval, intervalNoted, intervalAllots, ← hmeasured, decide_eq_true_eq]
  rfl

theorem nFrom_bounds (p16 : Int × Nat) (limit base : Nat) : 1 ≤ nFrom p16 limit base ∧ nFrom p16 limit base ≤ 16 := by
  unfold nFrom clampInt
  split
  · omega
  · split
    · decide
    · split <;> omega

theorem intervalAllots_bounds (m : PowerMeas) (last : Nat) (above : Prop) [Decidable above] (u : State) :
    1 ≤ intervalAllots m last above u ∧ intervalAllots m last above u ≤ 16 := by
  obtain ⟨hlo, hhi⟩ := nFrom_bounds (p16Of u (m.links + m.lofts + m.standing) m.compute) u.pwr.limit (m.links + m.lofts + m.standing)
  simp only [intervalAllots]
  split <;> omega

theorem intervalAllots_of_above {m : PowerMeas} {last : Nat} {above : Prop} [Decidable above] {u : State} (h : above) :
    intervalAllots m last above u ≤ max 1 (last - 1) := by
  simp only [intervalAllots, if_pos h]
  exact Nat.min_le_right ..

/-- With no section running n follows from the measured compute draw (R345). -/
theorem intervalAllots_of_idle {m : PowerMeas} {last : Nat} {above : Prop} [Decidable above] {u : State} (h : ¬ above)
    (hr : runningPlace u = none) (hc : 0 < m.compute) :
    (intervalAllots m last above u : Int) =
      clampInt (Int.fdiv (16 * ((u.pwr.limit : Int) - 100 * ((m.links + m.lofts + m.standing : Nat) : Int)) * nSet u)
        (100 * (m.compute * 16 : Nat))) 1 16 := by
  have hpos : ¬ ((m.compute * 16 : Nat) : Int) ≤ 0 := by omega
  have htoNat : ∀ x : Int, ((clampInt x 1 16).toNat : Int) = clampInt x 1 16 := by
    intro x
    refine Int.toNat_of_nonneg ?_
    unfold clampInt
    split
    · decide
    · split <;> omega
  simp only [intervalAllots, if_neg h, p16Of, hr, nFrom, if_neg hpos, htoNat]

/-- What an interval's findings leave of the power block. -/
structure Noted (m : PowerMeas) (s u : State) : Prop where
  rest : u = { s with pwr := u.pwr }
  capw : u.pwr.capw = s.pwr.capw
  limit : u.pwr.limit = s.pwr.limit
  down : u.pwr.down = s.pwr.down
  pin : u.pwr.pin = s.pwr.pin
  lreq : u.pwr.lreq = s.pwr.lreq
  nAlloc : u.pwr.nAlloc = s.pwr.nAlloc
  nRamp : u.pwr.nRamp = s.pwr.nRamp
  inw : u.pwr.inw = min m.input 65535
  mj : u.pwr.mj = s.pwr.mj + (s.pwr.uj + 10 * m.input) / 1000
  uj : u.pwr.uj = (s.pwr.uj + 10 * m.input) % 1000

theorem noted_intervalMeasured (m : PowerMeas) (s : State) : Noted m s (intervalMeasured m s) := by
  unfold intervalMeasured PwrBlock.measured
  split <;> exact ⟨rfl, rfl, rfl, rfl, rfl, rfl, rfl, rfl, rfl, rfl, rfl⟩

theorem Noted.countOvershoot {m : PowerMeas} {s u : State} (h : Noted m s u) : Noted m s (countOvershoot u) := by
  obtain ⟨shoots, learning, fallback, he⟩ := countOvershoot_eq u
  rw [he]
  obtain ⟨hrest, h1, h2, h3, h4, h5, h6, h7, h8, h9, h10⟩ := h
  refine ⟨?_, h1, h2, h3, h4, h5, h6, h7, h8, h9, h10⟩
  conv_lhs => rw [hrest]

theorem noted_intervalNoted (m : PowerMeas) (s : State) : Noted m s (intervalNoted m s) := by
  unfold intervalNoted
  split
  · exact (noted_intervalMeasured m s).countOvershoot
  · exact noted_intervalMeasured m s

/-- OVERSHOOT counts an interval above LIMIT (R343). -/
theorem intervalNoted_overshoot (m : PowerMeas) (s : State) :
    (intervalNoted m s).pwr.overshoot = if s.pwr.limit < 100 * m.input then min (s.pwr.overshoot + 1) 65535 else s.pwr.overshoot := by
  have hm : (intervalMeasured m s).pwr.overshoot = s.pwr.overshoot := by
    unfold intervalMeasured PwrBlock.measured
    split <;> rfl
  unfold intervalNoted
  split
  · obtain ⟨shoots, learning, fallback, he⟩ := countOvershoot_eq (intervalMeasured m s)
    rw [he, ← hm]
    rfl
  · exact hm

theorem intervalMeasured_learning (m : PowerMeas) (s : State) :
    (intervalMeasured m s).pwr.learning = s.pwr.learning ∧ (intervalMeasured m s).pwr.fallback = s.pwr.fallback ∧
      recentShoots (intervalMeasured m s) = recentShoots s := by
  unfold recentShoots intervalMeasured PwrBlock.measured
  split <;> exact ⟨rfl, rfl, rfl⟩

section
variable {m : PowerMeas} {s : State} (hr : runningPlace s ≠ none) (hl : s.pwr.learning = false) (ha : s.pwr.limit < 100 * m.input)
include hr hl ha

theorem intervalNoted_of_few (hfew : (recentShoots s).length < 3) :
    (intervalNoted m s).pwr.shoots = recentShoots s ∧ (intervalNoted m s).pwr.learning = false := by
  obtain ⟨hlearn, _, hrecent⟩ := intervalMeasured_learning m s
  have hcount := countOvershoot_of_few (s := intervalMeasured m s) hr (hlearn.trans hl) (hrecent ▸ hfew)
  rw [intervalNoted, if_pos ha, hcount]
  exact ⟨hrecent, hlearn.trans hl⟩

theorem intervalNoted_of_third (hthird : 3 ≤ (recentShoots s).length) :
    (intervalNoted m s).pwr.shoots = [] ∧ (intervalNoted m s).pwr.learning = true ∧
      (intervalNoted m s).pwr.fallback = min (s.pwr.fallback + 1) 65535 := by
  obtain ⟨hlearn, hfall, hrecent⟩ := intervalMeasured_learning m s
  have hcount := countOvershoot_of_third (s := intervalMeasured m s) hr (hlearn.trans hl) (hrecent ▸ hthird)
  rw [intervalNoted, if_pos ha, hcount, ← hfall]
  exact ⟨rfl, rfl, rfl⟩

end

/-- The power block after an interval. -/
def allocated (m : PowerMeas) (s : State) : PwrBlock :=
  let u := slewLimit (intervalNoted m s)
  { u.pwr with
    nAlloc := intervalAllots m (nSet s) (s.pwr.limit < 100 * m.input) u,
    unmet := decide (nSet s = 1 ∧ s.pwr.limit < 100 * (m.input - m.ballast)), alloc := inLearning u }

theorem execAllocatorInterval_frame (m : PowerMeas) (s : State) : execAllocatorInterval m s = .next { s with pwr := allocated m s } := by
  rw [execAllocatorInterval_eq, slewLimit_eq, (noted_intervalNoted m s).rest]
  simp only [allocated, slewLimit_eq]
  rw [(noted_intervalNoted m s).rest]

theorem Noted.limitSlewed {m : PowerMeas} {s u : State} (h : Noted m s u) : limitSlewed u = limitSlewed s := by
  have hcap : capClamped u = capClamped s := by rw [capClamped, capClamped, h.capw, h.rest]
  simp only [Sys2Proof.Machine.limitSlewed, hcap, h.limit, h.down, h.pin, h.lreq]

theorem allocated_eq (m : PowerMeas) (s : State) : ∃ n unmet alloc,
    allocated m s = { (intervalNoted m s).pwr with limit := limitSlewed s, nAlloc := n, unmet := unmet, alloc := alloc } := by
  simp only [allocated, slewLimit_eq, (noted_intervalNoted m s).limitSlewed]
  exact ⟨_, _, _, rfl⟩

theorem allocated_limit (m : PowerMeas) (s : State) : (allocated m s).limit = limitSlewed s := by
  simp only [allocated, slewLimit_eq, (noted_intervalNoted m s).limitSlewed]

/-- The input after LIMIT has moved, as the allotment reads it. -/
theorem slewed_noted (m : PowerMeas) (s : State) :
    nSet (slewLimit (intervalNoted m s)) = nSet s ∧ runningPlace (slewLimit (intervalNoted m s)) = runningPlace s ∧
      (slewLimit (intervalNoted m s)).pwr.limit = (allocated m s).limit := by
  have hn := noted_intervalNoted m s
  refine ⟨?_, ?_, rfl⟩
  · simp only [slewLimit_eq, nSet, hn.nAlloc, hn.nRamp]
  · rw [slewLimit_eq, hn.rest]
    rfl

theorem allocated_nAlloc_of_idle {m : PowerMeas} {s : State} (hr : runningPlace s = none) (ha : ¬ s.pwr.limit < 100 * m.input)
    (hc : 0 < m.compute) :
    ((allocated m s).nAlloc : Int) =
      clampInt (Int.fdiv (16 * (((allocated m s).limit : Int) - 100 * ((m.links + m.lofts + m.standing : Nat) : Int)) * nSet s)
        (100 * (m.compute * 16 : Nat))) 1 16 := by
  obtain ⟨hset, hrun, hlimit⟩ := slewed_noted m s
  rw [← hset, ← hlimit]
  exact intervalAllots_of_idle ha (hrun.trans hr) hc

/-! Idle depths (R354-R357). -/

theorem depthLimit_le (s : State) (k : Nat) : depthLimit s k ≤ 4 := by
  have least {a b : Nat} (h : a ≤ 4) : min a b ≤ 4 := (Nat.min_le_left ..).trans h
  have hmax : min s.pwr.maxdepth 4 ≤ 4 := Nat.min_le_right ..
  have hbusy : (match activePlace s with
      | some p => if anyBusy s p k then min (min s.pwr.maxdepth 4) 2 else min s.pwr.maxdepth 4
      | none => min s.pwr.maxdepth 4) ≤ 4 := by
    split
    · split
      · exact least hmax
      · exact hmax
    · exact hmax
  unfold depthLimit
  dsimp only
  split
  · split
    · exact least hbusy
    · exact hbusy
  · exact hbusy

theorem selectDepth_of_busy {s : State} {k : Nat} (h : quietShed s k = false) : selectDepth s k = 0 := by
  simp only [selectDepth, h, Bool.not_false, if_true]

theorem selectDepth_of_no_event {s : State} {k : Nat} (h : quietShed s k = true) (he : nextEvent s k = none) :
    selectDepth s k = min 1 (depthLimit s k) := by
  simp only [selectDepth, h, Bool.not_true, Bool.false_eq_true, if_false, he]

/-- The last element of a rising list is its greatest. -/
theorem le_getLastD_of_rising {l : List Nat} (hl : l.Pairwise (· < ·)) {e : Nat} (he : e ∈ l) : e ≤ l.getLastD 0 := by
  obtain rfl | ⟨init, x, rfl⟩ := List.eq_nil_or_concat l
  · cases he
  · rw [List.concat_eq_append] at hl he ⊢
    rw [List.mem_append, List.mem_singleton] at he
    rw [List.getLastD_concat]
    obtain he | rfl := he
    · exact Nat.le_of_lt ((List.pairwise_append.1 hl).2.2 e he x (List.mem_singleton.2 rfl))
    · exact Nat.le_refl e

theorem getLastD_eq_or_mem (l : List Nat) : l.getLastD 0 = 0 ∨ l.getLastD 0 ∈ l := by
  obtain rfl | ⟨init, x, rfl⟩ := List.eq_nil_or_concat l
  · exact .inl rfl
  · rw [List.concat_eq_append, List.getLastD_concat]
    exact .inr (List.mem_append_right _ (List.mem_singleton.2 rfl))

/-- A depth is worth entering before an event: its wake and its break-even time fit before it (R356). -/
def FitsBefore (s : State) (t d : Nat) : Prop := s.dev.wall + wakeLatency d + breakEven d ≤ t

/-- With an event ahead the deepest depth that fits before it is selected, and depth 0 where none does. -/
theorem selectDepth_of_event {s : State} {k t : Nat} (h : quietShed s k = true) (he : nextEvent s k = some t) :
    (selectDepth s k = 0 ∨ selectDepth s k ≤ depthLimit s k ∧ FitsBefore s t (selectDepth s k)) ∧
      ∀ e, e ≤ depthLimit s k → FitsBefore s t e → e ≤ selectDepth s k := by
  let fits := (List.range (depthLimit s k + 1)).filter (fun d => decide (s.dev.wall + wakeLatency d + breakEven d ≤ t))
  have hsel : selectDepth s k = fits.getLastD 0 := by
    simp only [selectDepth, h, Bool.not_true, Bool.false_eq_true, if_false, he, fits]
  have hmem : ∀ {d : Nat}, d ∈ fits ↔ d ≤ depthLimit s k ∧ FitsBefore s t d := by
    intro d
    rw [List.mem_filter, List.mem_range, Nat.lt_succ_iff, decide_eq_true_eq]
    rfl
  rw [hsel]
  exact ⟨(getLastD_eq_or_mem fits).imp_right hmem.1,
    fun e hle hfit => le_getLastD_of_rising (List.pairwise_lt_range.filter _) (hmem.2 ⟨hle, hfit⟩)⟩

theorem wakeLatency_eq : ∀ d, d ≤ 4 → [0, 20, 1500, 40000, 350000].getD d 0 = wakeLatency d := by decide

theorem breakEven_eq : ∀ d, d ≤ 4 → [0, 100, 20000, 400000, 5000000].getD d 0 = breakEven d := by decide

theorem propose_of_absent {s : State} {k : Nat} (h : shedAbsent s k = true) : propose s k = s := if_pos h

theorem propose_of_present {s : State} {k : Nat} (h : shedAbsent s k = false) :
    propose s k = modPShed s (pshedOf s k) fun p =>
      { p with proposed := selectDepth s k, vetoed := p.vetoed && decide (p.depth < selectDepth s k) } :=
  if_neg (ne_true_of_eq_false h)

section
variable {s : State} {yard : YardId} {shed : ShedNo}

/-- A shed that can wake and is asked to (R357, R371). -/
def WakeMay (s : State) (k : Nat) (cause : WakeCause) : Prop :=
  let h := s.pshed (pshedOf s k)
  shedAbsent s k = false ∧ s.thm.tripped = false ∧ h.parked = false ∧ h.waking = false ∧ h.depth ≠ 0 ∧
    (if cause = .planned then wakeDue s k else h.wakeReq) = true

theorem execShedWake_eq (cause : WakeCause) :
    execShedWake yard shed cause s = .next (
      let k := shedKey yard shed
      let p := s.pshed (pshedOf s k)
      let asked := if cause = .planned then wakeDue s k else p.wakeReq
      if shedAbsent s k || s.thm.tripped || p.parked || p.waking || decide (p.depth = 0) || !asked then s
      else modPShed s (pshedOf s k) PShed.beginWake) := by
  cases cause <;> rfl

theorem wakeMay_iff {k : Nat} {cause : WakeCause} :
    (shedAbsent s k || s.thm.tripped || (s.pshed (pshedOf s k)).parked || (s.pshed (pshedOf s k)).waking ||
      decide ((s.pshed (pshedOf s k)).depth = 0) || !(if cause = .planned then wakeDue s k else (s.pshed (pshedOf s k)).wakeReq)) = false ↔
      WakeMay s k cause := by
  simp only [WakeMay, Bool.or_eq_false_iff, decide_eq_false_iff_not, Bool.not_eq_false', and_assoc, ne_eq]

theorem execShedWake_of_may {cause : WakeCause} (h : WakeMay s (shedKey yard shed) cause) :
    execShedWake yard shed cause s = .next (modPShed s (pshedOf s (shedKey yard shed)) PShed.beginWake) :=
  (execShedWake_eq cause).trans (congrArg _ (if_neg (ne_true_of_eq_false (wakeMay_iff.2 h))))

theorem execShedWake_of_not {cause : WakeCause} (h : ¬ WakeMay s (shedKey yard shed) cause) : execShedWake yard shed cause s = .next s :=
  (execShedWake_eq cause).trans (congrArg _ (if_pos (eq_true_of_ne_false (mt wakeMay_iff.1 h))))

theorem execWakeComplete_of_not_waking (h : (s.pshed (pshedOf s (shedKey yard shed))).waking = false ∨ shedAbsent s (shedKey yard shed) = true) :
    execWakeComplete yard shed s = .next s :=
  congrArg _ (if_pos (by rwa [Bool.or_eq_true, Bool.not_eq_true']))

theorem modPShed_pshed {s : State} (hs : gwf s.psheds = true) (n : Nat) (f : PShed → PShed) : (modPShed s n f).pshed n = f (s.pshed n) :=
  gget_gset_self hs ..

/-- A shed that has woken stands at D0 and has nothing proposed. -/
def PShed.woken (p : PShed) : PShed := { p with depth := 0, waking := false, parked := false, proposed := 0, vetoed := false }

theorem execWakeComplete_of_waking (hs : gwf s.psheds = true) (hw : (s.pshed (pshedOf s (shedKey yard shed))).waking = true)
    (ha : shedAbsent s (shedKey yard shed) = false) :
    execWakeComplete yard shed s = .next (
      let k := shedKey yard shed
      let n := pshedOf s k
      let up := modPShed s n PShed.woken
      propose (if (s.pshed n).openLatched then flipShed up k else up) k) := by
  have hgo : ¬ (!(s.pshed (pshedOf s (shedKey yard shed))).waking || shedAbsent s (shedKey yard shed)) = true := by
    rw [hw, ha]
    exact Bool.false_ne_true
  have hlatched : ((modPShed s (pshedOf s (shedKey yard shed)) PShed.woken).pshed (pshedOf s (shedKey yard shed))).openLatched =
      (s.pshed (pshedOf s (shedKey yard shed))).openLatched := (congrArg PShed.openLatched (modPShed_pshed hs _ PShed.woken)).trans rfl
  refine congrArg _ ((if_neg hgo).trans ?_)
  dsimp only
  rw [← hlatched]
  rfl

end

/-! The ramp governor (R347-R350, R372). -/

/-- The ramp's limits are suspended: load shed is active, or the device has tripped (R352, R372). -/
def RampOff (s : State) : Prop := (s.pwr.pin = true ∨ s.pwr.lreq = true) ∨ s.thm.tripped = true

theorem rampOff_iff {s : State} : (loadShed s || s.thm.tripped) = true ↔ RampOff s := by
  rw [Bool.or_eq_true, loadShed_iff]
  rfl

theorem rampTarget_of_off {s : State} (h : RampOff s) (demand : Nat) :
    rampTarget s demand = min (100 * (demand : Int)) s.pwr.limit := if_pos (rampOff_iff.2 h)

/-- The demand as far as the slopes let the target follow it in one interval. -/
def slopedDemand (s : State) (demand : Nat) : Int :=
  clampInt (100 * (demand : Int)) (s.pwr.gprev - slopeOf s.pwr.down) (s.pwr.gprev + slopeOf s.pwr.up)

section
variable {s : State} (h : ¬ RampOff s)
include h

theorem rampTarget_of_plain (hn : moduleEvent s = none ∨ expectedDraw s = none) (demand : Nat) :
    rampTarget s demand = min (slopedDemand s demand) s.pwr.limit := by
  refine (if_neg (mt rampOff_iff.1 h)).trans ?_
  obtain hn | hn := hn
  · simp only [hn, slopedDemand]
  · simp only [hn, slopedDemand]
    cases moduleEvent s <;> rfl

theorem rampTarget_of_event {e w : Nat} (he : moduleEvent s = some e) (hw : expectedDraw s = some w) (demand : Nat) :
    rampTarget s demand =
      min (max (slopedDemand s demand) (100 * (w : Int) - ((slopeOf s.pwr.up * (e - s.dev.wall) / 10000 : Nat) : Int))) s.pwr.limit := by
  refine (if_neg (mt rampOff_iff.1 h)).trans ?_
  simp only [he, hw, slopedDemand]

end

theorem rampTarget_le (s : State) (demand : Nat) : rampTarget s demand ≤ s.pwr.limit := by
  unfold rampTarget
  dsimp only
  split <;> exact Int.min_le_right ..

/-- The new target stands in the power block. -/
def rampAimed (m : RampMeas) (s : State) : State :=
  { s with pwr := { s.pwr with gprev := rampTarget s m.demand, target := (Int.fdiv (rampTarget s m.demand) 100).toNat % 65536 } }

/-- What the governor does once its target stands. -/
def rampActed (m : RampMeas) (s : State) : State :=
  let u := rampAimed m s
  if loadShed s || s.thm.tripped then admitAll (dropBallast u)
  else if rampTarget s m.demand < 100 * (m.draw : Int) then drawAbove u
  else if 100 * (m.draw : Int) < rampTarget s m.demand then drawBelow u m.short
  else u

theorem execRampInterval_eq (m : RampMeas) (s : State) :
    execRampInterval m s = .next { rampActed m s with pwr := { (rampActed m s).pwr with veto := anyVetoed (rampActed m s) } } := rfl

theorem admitAll_pwr (s : State) : (admitAll s).pwr = s.pwr := (admitAll_same Same.refl (List.Subset.refl _)).kept .pwr (by decide)
theorem admitSheds_pwr (s : State) (ns : List Nat) : (admitSheds s ns).pwr = s.pwr :=
  (admitSheds_same Same.refl ns (List.Subset.refl _)).kept .pwr (by decide)
theorem setBallast_pwr (s : State) : (setBallast s).pwr = s.pwr := (setBallast_same Same.refl (List.Subset.refl _)).kept .pwr (by decide)
theorem wakeSome_pwr (s : State) (ns : List Nat) : (wakeSome s ns).pwr = s.pwr :=
  (wakeSome_same Same.refl ns (List.Subset.refl _)).kept .pwr (by decide)
theorem record_pwr (s : State) (code : Nat) (src : Src) : (record s code src).pwr = s.pwr :=
  (record_same Same.refl code src (List.Subset.refl _)).kept .pwr (by decide)

theorem withhold_pwr (s : State) : ∃ v, (withhold s).pwr = { s.pwr with vetoes := v } := by
  unfold withhold
  dsimp only
  split
  · exact ⟨_, rfl⟩
  · exact ⟨_, record_pwr ..⟩

/-- With the draw above the target only n falls in the power block. -/
theorem drawAbove_pwr (s : State) : ∃ w, (drawAbove s).pwr = { s.pwr with nRamp := 1 + w % s.pwr.nRamp } :=
  ⟨_, (setBallast_pwr _).trans (admitSheds_pwr ..)⟩

/-- With the draw below the target n rises, entries are vetoed, and a draw that stays short is counted. -/
theorem drawBelow_pwr (s : State) (short : Bool) : ∃ w v,
    (drawBelow s short).pwr = { s.pwr with
      nRamp := s.pwr.nRamp + w % (17 - s.pwr.nRamp), vetoes := v,
      slopemiss := if short then min (s.pwr.slopemiss + 1) 65535 else s.pwr.slopemiss } := by
  obtain ⟨v, hv⟩ := withhold_pwr { s with
    fresh := s.fresh + 1, pwr := { s.pwr with nRamp := s.pwr.nRamp + Config.pick s.fresh % (17 - s.pwr.nRamp) } }
  refine ⟨Config.pick s.fresh, v, ?_⟩
  cases short <;>
    simp only [drawBelow, takeFresh, Bool.false_eq_true, if_false, if_true, wakeSome_pwr, setBallast_pwr, hv, satAdd, Nat.reducePow, Nat.reduceSub]

/-- What the governor's action leaves of the power block: the target stands, and n and the count of short intervals move with the draw. -/
theorem rampActed_pwr (m : RampMeas) (s : State) : ∃ n v sl, (rampActed m s).pwr = { (rampAimed m s).pwr with nRamp := n, vetoes := v, slopemiss := sl } ∧
    (RampOff s ∨ rampTarget s m.demand = 100 * (m.draw : Int) → n = s.pwr.nRamp) ∧
    (¬ RampOff s → rampTarget s m.demand < 100 * (m.draw : Int) → ∃ w, n = 1 + w % s.pwr.nRamp) ∧
    (¬ RampOff s → 100 * (m.draw : Int) < rampTarget s m.demand →
      (∃ w, n = s.pwr.nRamp + w % (17 - s.pwr.nRamp)) ∧ sl = if m.short then min (s.pwr.slopemiss + 1) 65535 else s.pwr.slopemiss) := by
  unfold rampActed
  dsimp only
  by_cases hoff : RampOff s
  · rw [if_pos (rampOff_iff.2 hoff)]
    exact ⟨_, _, _, admitAll_pwr _, fun _ => rfl, fun h => absurd hoff h, fun h => absurd hoff h⟩
  · rw [if_neg (mt rampOff_iff.1 hoff)]
    by_cases hlt : rampTarget s m.demand < 100 * (m.draw : Int)
    · rw [if_pos hlt]
      obtain ⟨w, hw⟩ := drawAbove_pwr (rampAimed m s)
      exact ⟨_, _, _, hw, fun h => absurd hlt (h.resolve_left hoff).not_lt, fun _ _ => ⟨w, rfl⟩, fun _ h => absurd hlt h.asymm⟩
    · rw [if_neg hlt]
      by_cases hgt : 100 * (m.draw : Int) < rampTarget s m.demand
      · rw [if_pos hgt]
        obtain ⟨w, v, hw⟩ := drawBelow_pwr (rampAimed m s) m.short
        exact ⟨_, _, _, hw, fun h => absurd hgt (h.resolve_left hoff).not_gt, fun _ h => absurd h hlt, fun _ _ => ⟨⟨w, rfl⟩, rfl⟩⟩
      · rw [if_neg hgt]
        exact ⟨_, _, _, rfl, fun _ => rfl, fun _ h => absurd h hlt, fun _ h => absurd h hgt⟩

theorem anyVetoed_iff {s : State} : anyVetoed s = true ↔ ∃ c ∈ presented s, (s.pshed c.1).vetoed = true := by
  simp only [anyVetoed, List.any_map, List.any_eq_true, Function.comp_apply]

/-! Load shed (R352, R353). -/

/-- A physical shed that has entered a depth. -/
def PShed.entered (d : Nat) (p : PShed) : PShed := { p with depth := d, vetoed := false, bduty := 0 }

/-- A physical shed whose proposal has been admitted. -/
def PShed.admitted (p : PShed) : PShed := p.entered p.proposed

theorem enterDepth_pshed {s : State} (h : gwf s.psheds = true) (n d j : Nat) :
    (enterDepth s n d).pshed j = if j = n then (s.pshed n).entered d else s.pshed j := by
  unfold State.pshed
  rw [enterDepth_psheds, gget_gmod h]
  rfl

/-- The sheds of a list are admitted to the depths they proposed, every other shed stays. -/
theorem admitSheds_pshed {s : State} (h : gwf s.psheds = true) (l : List Nat) (j : Nat) :
    (admitSheds s l).pshed j = if j ∈ l then (s.pshed j).admitted else s.pshed j := by
  induction l generalizing s with
  | nil => rfl
  | cons n l ih =>
    have hwf : gwf (enterDepth s n (s.pshed n).proposed).psheds = true := by
      rw [enterDepth_psheds]
      exact gwf_gmod h ..
    have hstep : admitSheds s (n :: l) = admitSheds (enterDepth s n (s.pshed n).proposed) l := rfl
    rw [hstep, ih hwf, enterDepth_pshed h]
    by_cases hj : j = n
    · subst hj
      rw [if_pos rfl, if_pos (List.mem_cons_self (a := j) (l := l))]
      exact ite_self _
    · rw [if_neg hj]
      exact if_congr (List.mem_cons.trans (or_iff_right hj)).symm rfl rfl

theorem dropBallast_pshed {s : State} (h : gwf s.psheds = true) (j : Nat) : (dropBallast s).pshed j = { s.pshed j with bduty := 0 } :=
  gget_gmapAll (β := PShed) h (fun p : PShed => { p with bduty := 0 }) j

theorem waitingSheds_dropBallast {s : State} (h : gwf s.psheds = true) : waitingSheds (dropBallast s) = waitingSheds s := by
  have hwaits (n : Nat) : ((dropBallast s).pshed n).waits = (s.pshed n).waits := by rw [dropBallast_pshed h, PShed.waits, PShed.waits]
  simp only [waitingSheds, hwaits]
  rfl

/-- When load shed begins ballast stops everywhere and every waiting shed is admitted. -/
theorem shedBegin_pshed {s : State} (h : gwf s.psheds = true) (n : Nat) :
    ((shedBegin s).pshed n).bduty = 0 ∧
      ((shedBegin s).pshed n).depth = if n ∈ waitingSheds s then (s.pshed n).proposed else (s.pshed n).depth := by
  have hfix : (fixLimit s).psheds = s.psheds := by rw [fixLimit_eq]
  have hwait : waitingSheds (fixLimit s) = waitingSheds s := by rw [fixLimit_eq]; rfl
  have hwf : gwf (fixLimit s).psheds = true := hfix ▸ h
  have hread : (shedBegin s).pshed n = (admitAll (dropBallast (fixLimit s))).pshed n := by simp only [shedBegin, State.pshed]
  have hsame : (fixLimit s).pshed n = s.pshed n := by rw [State.pshed, hfix, State.pshed]
  rw [hread, admitAll, admitSheds_pshed (gwf_gmapAll hwf _), waitingSheds_dropBallast hwf, hwait, dropBallast_pshed hwf, hsame]
  split <;> exact ⟨rfl, rfl⟩

theorem shedBegin_pwr (s : State) : (shedBegin s).pwr = { s.pwr with limit := limitFixed s, veto := false } := by
  have hread : (shedBegin s).pwr = { (admitAll (dropBallast (fixLimit s))).pwr with veto := false } := rfl
  have hdrop : (dropBallast (fixLimit s)).pwr = (fixLimit s).pwr := rfl
  rw [hread, admitAll_pwr, hdrop, fixLimit_eq]

/-- Load shed is active. -/
def Shedding (p : PwrBlock) : Prop := p.pin = true ∨ p.lreq = true

/-- What a change of the pin or of LREQ, from `s` to `u`, leaves: nothing, the end, a new LEVEL, or the begin of load shed. -/
structure ShedChanged (s u t : State) : Prop where
  off : ¬ Shedding u.pwr → ¬ Shedding s.pwr → t = u
  ended : ¬ Shedding u.pwr → Shedding s.pwr →
    t = { u with pwr := { u.pwr with limit := 100 * capClamped s, gprev := 100 * s.pwr.inw } }
  going : Shedding u.pwr → Shedding s.pwr →
    t = { u with pwr := { u.pwr with limit := 100 * min (clampNat u.pwr.level 8000 (capClamped s)) (capClamped s) } }
  begun : Shedding u.pwr → ¬ Shedding s.pwr →
    t.pwr = { u.pwr with limit := 100 * min (clampNat u.pwr.level 8000 (capClamped s)) (capClamped s), veto := false } ∧
      ∀ n, (t.pshed n).bduty = 0 ∧ (t.pshed n).depth = if n ∈ waitingSheds s then (s.pshed n).proposed else (s.pshed n).depth

theorem shedChange_changed {s : State} (hs : gwf s.psheds = true) {p : PwrBlock} {pins : Pins} (hcapw : p.capw = s.pwr.capw) (hinw : p.inw = s.pwr.inw) :
    ShedChanged s { s with pwr := p, pins := pins } (shedChange (loadShed s) { s with pwr := p, pins := pins }) := by
  let u : State := { s with pwr := p, pins := pins }
  have hcap : capClamped u = capClamped s := by rw [capClamped, capClamped, ← hcapw]
  have hnow : loadShed u = true ↔ Shedding p := loadShed_iff
  have hold : loadShed s = true ↔ Shedding s.pwr := loadShed_iff
  have hlimit (h : Shedding p) : limitFixed u = 100 * min (clampNat p.level 8000 (capClamped s)) (capClamped s) := by
    rw [limitFixed, if_pos (show u.pwr.pin = true ∨ u.pwr.lreq = true from h), levelClamped, hcap]
  unfold shedChange
  refine ⟨fun hn ho => ?_, fun hn ho => ?_, fun hn ho => ?_, fun hn ho => ?_⟩
  · rw [if_neg (mt hnow.1 hn), if_neg (mt hold.1 ho)]
  · rw [if_neg (mt hnow.1 hn), if_pos (hold.2 ho), ← hcap, ← hinw]
    rfl
  · rw [if_pos (hnow.2 hn), if_pos (hold.2 ho), fixLimit_eq, ← hlimit hn]
  · rw [if_pos (hnow.2 hn), if_neg (mt hold.1 ho), ← hlimit hn]
    exact ⟨shedBegin_pwr u, shedBegin_pshed (s := u) hs⟩

/-! The staggered start (R351). -/

theorem execStaggerSlotReached_of_early {s : State} (h : s.pwr.pend = false ∨ s.dev.wall < s.pwr.tslot) : execStaggerSlotReached s = .next s :=
  congrArg _ (if_pos (by rwa [Bool.or_eq_true, Bool.not_eq_true', decide_eq_true_eq]))

section
variable {s : State} (hp : s.pwr.pend = true) (ht : s.pwr.tslot ≤ s.dev.wall)
include hp ht

theorem stagger_due : ¬ (!s.pwr.pend || decide (s.dev.wall < s.pwr.tslot)) = true := by
  rw [hp, Bool.not_true, Bool.false_or, decide_eq_true_eq]
  exact Nat.not_lt.2 ht

theorem execStaggerSlotReached_of_unarmed (h : armedPlace s = none) :
    execStaggerSlotReached s = .next { s with pwr := { s.pwr with pend := false } } :=
  congrArg _ ((if_neg (stagger_due hp ht)).trans (if_pos (Option.isNone_iff_eq_none.2 h)))

theorem execStaggerSlotReached_of_armed (h : armedPlace s ≠ none) : execStaggerSlotReached s = .next (releaseStart s) :=
  congrArg _ ((if_neg (stagger_due hp ht)).trans (if_neg (mt Option.isNone_iff_eq_none.1 h)))

end

theorem execNextevWrite_of_authenticated {o : Origin} {data : Word64} {s : State} (ho : Origin.auth o = true) :
    execNextevWrite o data s = .next (
      let u := { s with pwr := { s.pwr with nextev := data.toNat } }
      { (List.range 4096).foldl propose u with resp := ⟨0, 0, []⟩ }) := by
  rw [execNextevWrite, asAuth_of_authenticated ho, writeNextev, answer]

end Sys2Proof.Machine

namespace Sys2Proof.Proofs
open Sys2Proof Sys2Proof.Machine

/-- Settles O55: each command by the equation of its case; the interval of the allocator is read off what it notes before LIMIT moves. -/
theorem powerCapRampAndShedding : Obligations.PowerCapRampAndShedding := by
  intro s hs
  refine ⟨fun o data ho => ?unauthenticated, fun o data ho => ?capWrite, fun m => ?allocator, fun _ _ => rfl, fun yard shed cause => ?proposal,
    fun o data ho => ?nextev, fun yard shed cause => ?wake, fun m => ?ramp,
    fun o data ho => congrArg _ (asAuth_of_authenticated ho ..), execStaggerSlotReached_of_early,
    fun hp ht => ⟨execStaggerSlotReached_of_unarmed hp ht, execStaggerSlotReached_of_armed hp ht⟩, ?loadShed⟩
  case unauthenticated => refine ⟨?_, ?_, ?_, ?_⟩ <;> exact congrArg _ (asAuth_of_unauthenticated ho ..)
  case capWrite =>
    refine congrArg _ ((asAuth_of_authenticated ho ..).trans ?_)
    rw [writeCap_eq]
    rfl
  case allocator =>
    have hnoted := noted_intervalNoted m s
    obtain ⟨n, unmet, alloc, hq⟩ := allocated_eq m s
    refine ⟨allocated m s, execAllocatorInterval_frame m s, allocated_limit m s, ?inw, ?energy, ?uj, ?unmet, ?overshoot,
      (intervalAllots_bounds ..).1, (intervalAllots_bounds ..).2, intervalAllots_of_above, allocated_nAlloc_of_idle, ?few, ?third⟩
    case inw => rw [hq]; exact hnoted.inw
    case energy => rw [hq]; have := hnoted.mj; have := hnoted.uj; simp only [*]; omega
    case uj => rw [hq]; simp only [hnoted.uj]; omega
    case unmet => exact decide_eq_true_iff
    case overshoot => rw [hq]; exact intervalNoted_overshoot m s
    case few => intro hr hl ha hfew; rw [hq]; exact intervalNoted_of_few hr hl ha hfew
    case third => intro hr hl ha hthird; rw [hq]; exact intervalNoted_of_third hr hl ha hthird
  case proposal =>
    refine ⟨rfl, propose_of_absent, propose_of_present, selectDepth_of_busy, selectDepth_of_no_event, fun t hq he => ?_⟩
    obtain ⟨hfits, hdeepest⟩ := selectDepth_of_event hq he
    have hlimit := depthLimit_le s (shedKey yard shed)
    have hfit {d : Nat} (hd : d ≤ 4) : FitsBefore s t d ↔
        s.dev.wall + [0, 20, 1500, 40000, 350000].getD d 0 + [0, 100, 20000, 400000, 5000000].getD d 0 ≤ t := by
      rw [wakeLatency_eq d hd, breakEven_eq d hd]
      rfl
    exact ⟨hfits.imp_right fun ⟨hle, h⟩ => ⟨hle, (hfit (hle.trans hlimit)).1 h⟩, fun e hle h4 h => hdeepest e hle ((hfit h4).2 h)⟩
  case nextev => exact execNextevWrite_of_authenticated ho
  case wake =>
    exact ⟨execShedWake_of_may, execShedWake_of_not, execWakeComplete_of_not_waking, execWakeComplete_of_waking hs.psheds⟩
  case ramp =>
    obtain ⟨n, v, sl, hp, hstays, habove, hbelow⟩ := rampActed_pwr m s
    refine ⟨_, execRampInterval_eq m s, ?_⟩
    simp only [hp]
    exact ⟨fun h => rampTarget_of_off h _, rampTarget_le s _, fun h hn => rampTarget_of_plain h hn _,
      fun h e w he hw => rampTarget_of_event h he hw _, rfl, anyVetoed_iff, hstays, habove, hbelow⟩
  case loadShed =>
    have hchanged {u : State} (hu : u = { s with pwr := u.pwr, pins := u.pins }) (hcapw : u.pwr.capw = s.pwr.capw) (hinw : u.pwr.inw = s.pwr.inw) :
        ShedChanged s u (shedChange (loadShed s) u) := by
      rw [hu]
      exact shedChange_changed hs.psheds hcapw hinw
    refine ⟨?asserted, ?ended, fun o data ho => ?requested⟩
    case asserted =>
      obtain ⟨h1, h2, h3, h4⟩ := hchanged (u := { s with pwr := { s.pwr with pin := true }, pins := { s.pins with lshedN := false } }) rfl rfl rfl
      exact ⟨_, rfl, h1, h2, h3, h4⟩
    case ended =>
      obtain ⟨h1, h2, h3, h4⟩ := hchanged (u := { s with pwr := { s.pwr with pin := false }, pins := { s.pins with lshedN := true } }) rfl rfl rfl
      exact ⟨_, rfl, h1, h2, h3, h4⟩
    case requested =>
      obtain ⟨h1, h2, h3, h4⟩ :=
        hchanged (u := { s with pwr := { s.pwr with level := data.toNat % 65536, lreq := data.toNat.testBit 16 } }) rfl rfl rfl
      refine ⟨_, congrArg _ ((asAuth_of_authenticated ho ..).trans ?_), h1, h2, h3, h4⟩
      rw [writeLshed, bitsOf_low]
      rfl

end Sys2Proof.Proofs
end

section
/-! PROOFS. Clocks, heat and supply faults (R363-R378): a sample of one shed by its failures and by whether it enters or leaves hold, the
hottest reading of a sample, what a trip, a dead core rail and a dead track rail leave, and from these O56. -/

namespace Sys2Proof.Machine

/-! Throttle steps (R369). -/

section
variable {s : State} {yard : YardId} {shed : ShedNo}

theorem execThrottleStep_of_sensorless (h : (s.pshed (pshedOf s (shedKey yard shed))).sfail = 15) (up : Bool) :
    execThrottleStep yard shed up s = .next s := congrArg _ (if_pos h)

variable (h : (s.pshed (pshedOf s (shedKey yard shed))).sfail ≠ 15)
include h

theorem execThrottleStep_up :
    execThrottleStep yard shed true s = .next (
      let p := s.pshed (pshedOf s (shedKey yard shed))
      if p.tfloor < (s.thm.throttle : Int) - 3 ∧ p.tloft < 92 then
        modPShed s (pshedOf s (shedKey yard shed)) fun p => p.limited (min 16 (p.tlim + 1)) else s) :=
  congrArg _ ((if_neg h).trans (if_pos rfl))

theorem execThrottleStep_down :
    execThrottleStep yard shed false s = .next (
      let p := s.pshed (pshedOf s (shedKey yard shed))
      if (s.thm.throttle : Int) ≤ p.tfloor ∨ 95 ≤ p.tloft then
        modPShed s (pshedOf s (shedKey yard shed)) fun p => p.limited (max 1 (p.tlim - 1)) else s) :=
  congrArg _ ((if_neg h).trans (if_neg Bool.false_ne_true))

end

/-! Frames of the operations that a sample and a trip share. -/

theorem record_psheds (s : State) (code : Nat) (src : Src) : (record s code src).psheds = s.psheds :=
  (record_same Same.refl code src (List.Subset.refl _)).kept .psheds (by decide)
theorem failUnit_psheds (s : State) (u : FailUnit) (source : Nat) : (failUnit s u source).psheds = s.psheds :=
  (failUnit_same Same.refl u source (List.Subset.refl _)).kept .psheds (by decide)
theorem fixHeld_psheds (s : State) : (fixHeld s).psheds = s.psheds :=
  (fixHeld_same Same.refl (List.Subset.refl _)).kept .psheds (by decide)

/-! One shed's sample (R367, R370, R371). -/

theorem failBits_testBit (old : Nat) (rs : List (Option Int)) (i : Nat) :
    (failBits old rs).testBit i = true ↔ i < rs.length ∧ (old.testBit i = true ∨ badReading (rs.getD i none) = true) := by
  rw [failBits, testBit_foldl_setBit, Nat.zero_testBit, Bool.false_or, decide_eq_true_eq, List.mem_filter, List.mem_range, Bool.or_eq_true]
  rfl

/-- A shed whose last Floor sensor fails is held at 4/16 (R367). -/
def PShed.settled (old : Nat) (p : PShed) : PShed := if old ≠ 15 ∧ p.sfail = 15 then p.limited 4 else p

/-- A shed reaches HOLD, or is back at RELEASE (R370, R371). -/
def PShed.AtHold (t : ThmBlock) (p : PShed) : Prop := (t.hold : Int) ≤ p.tfloor ∨ (t.hold : Int) ≤ p.tloft
def PShed.AtRelease (t : ThmBlock) (p : PShed) : Prop := p.tfloor ≤ (t.release : Int) ∧ p.tloft ≤ (t.release : Int)

/-- A shed enters hold. -/
def PShed.heldHot (p : PShed) : PShed := { p with hold := true }

/-- A shed leaves hold, and one that was parked wakes. -/
def PShed.released (p : PShed) : PShed :=
  { (p.limited (if p.sfail = 15 then 4 else 8)) with hold := false, waking := p.waking || p.parked, parked := false }

section
variable {s : State} {n : Nat}

theorem holdStep_of_unpresented (h : logicalShed s n = none) : (holdStep s n).pshed n = s.pshed n := by
  unfold holdStep
  rw [if_pos (Option.isNone_iff_eq_none.2 h)]

theorem holdStep_of_stays (hl : logicalShed s n ≠ none) (hot : (s.pshed n).hold = false → ¬ (s.pshed n).AtHold s.thm)
    (cool : (s.pshed n).hold = true → ¬ (s.pshed n).AtRelease s.thm) : (holdStep s n).pshed n = s.pshed n := by
  unfold holdStep
  dsimp only
  rw [if_neg (mt Option.isNone_iff_eq_none.1 hl), if_neg (fun h => hot (by simpa using h.1) h.2), if_neg (fun h => cool h.1 h.2)]

variable (hs : gwf s.psheds = true)
include hs

theorem sensorless_pshed (n : PShedNo) :
    (sensorless s n).pshed n = if (s.pshed n).sfail = 15 then (s.pshed n).limited 4 else s.pshed n := by
  unfold sensorless
  split
  · have hf : gwf (failUnit s (.shed n) 2).psheds = true := by rwa [failUnit_psheds]
    rw [modPShed_pshed hf, State.pshed, failUnit_psheds, State.pshed]
  · rfl

variable (hl : logicalShed s n ≠ none)
include hl

theorem holdStep_of_hot (hh : (s.pshed n).hold = false) (hot : (s.pshed n).AtHold s.thm) : (holdStep s n).pshed n = (s.pshed n).heldHot := by
  have hread : (record (modPShed s n PShed.heldHot) 19 .device).pshed n = (s.pshed n).heldHot := by
    rw [State.pshed, record_psheds]
    exact modPShed_pshed hs n PShed.heldHot
  unfold holdStep
  dsimp only
  rw [if_neg (mt Option.isNone_iff_eq_none.1 hl), if_pos ⟨by rw [hh]; rfl, hot⟩]
  split <;> exact hread

theorem holdStep_of_cool (hh : (s.pshed n).hold = true) (cool : (s.pshed n).AtRelease s.thm) : (holdStep s n).pshed n = (s.pshed n).released := by
  unfold holdStep
  dsimp only
  rw [if_neg (mt Option.isNone_iff_eq_none.1 hl), if_neg (by simp [hh]), if_pos ⟨hh, cool⟩, State.pshed, fixHeld_psheds]
  exact modPShed_pshed hs n _

end

/-- The state in which a shed's readings and its failed sensors are noted. -/
def sampleNoted (s : State) (r : ShedReading) : State :=
  let old := s.pshed r.shed
  let t := modPShed s r.shed (PShed.sampled r)
  let new := t.pshed r.shed
  let failed := popCount 4 new.sfail + popCount 3 new.lfail - popCount 4 old.sfail - popCount 3 old.lfail
  { t with thm := { s.thm with sensfail := satAdd 16 s.thm.sensfail failed } }

/-- The state in which a shed's readings are taken and nothing is decided on hold yet. -/
def sampleTaken (s : State) (r : ShedReading) : State :=
  if (s.pshed r.shed).sfail ≠ 15 then sensorless (sampleNoted s r) r.shed else sampleNoted s r

theorem sampleShed_eq (s : State) (r : ShedReading) : sampleShed s r = holdStep (sampleTaken s r) r.shed := rfl

/-- A physical shed after its readings, before anything is decided on hold. -/
def PShed.read (r : ShedReading) (p : PShed) : PShed := (p.sampled r).settled p.sfail

theorem sensorless_frame (s : State) (n : PShedNo) :
    (sensorless s n).thm = s.thm ∧ (sensorless s n).yards = s.yards :=
  have h : Same [.grm, .psheds, .rm] s (sensorless s n) := sensorless_same Same.refl n (List.Subset.refl _)
  ⟨h.kept .thm (by decide), h.kept .yards (by decide)⟩

theorem gwf_sensorless {s : State} (hs : gwf s.psheds = true) (n : PShedNo) : gwf (sensorless s n).psheds = true := by
  unfold sensorless
  split
  · rw [modPShed_psheds, failUnit_psheds]
    exact gwf_gmod hs ..
  · exact hs

section
variable {s : State} (hs : gwf s.psheds = true) (r : ShedReading)

theorem sampleTaken_frame :
    (sampleTaken s r).thm.hold = s.thm.hold ∧ (sampleTaken s r).thm.release = s.thm.release ∧
      logicalShed (sampleTaken s r) r.shed = logicalShed s r.shed := by
  unfold sampleTaken
  split
  · obtain ⟨hthm, hyards⟩ := sensorless_frame (sampleNoted s r) r.shed
    rw [hthm]
    refine ⟨rfl, rfl, ?_⟩
    simp only [logicalShed, State.yard, hyards]
    rfl
  · exact ⟨rfl, rfl, rfl⟩

include hs

theorem gwf_sampleNoted : gwf (sampleNoted s r).psheds = true := gwf_gmod hs ..

theorem gwf_sampleTaken : gwf (sampleTaken s r).psheds = true := by
  unfold sampleTaken
  split
  · exact gwf_sensorless (gwf_sampleNoted hs r) _
  · exact gwf_sampleNoted hs r

theorem sampleTaken_pshed : (sampleTaken s r).pshed r.shed = (s.pshed r.shed).read r := by
  have hnoted : (sampleNoted s r).pshed r.shed = (s.pshed r.shed).sampled r := modPShed_pshed hs _ _
  unfold sampleTaken PShed.read PShed.settled
  split
  · next hold => simp only [sensorless_pshed (gwf_sampleNoted hs r), hnoted, hold, ne_eq, not_false_eq_true, true_and]
  · next hold => exact hnoted.trans (if_neg fun h => hold h.1).symm

end

/-- What a sample of a shed's readings leaves of the physical shed (R367, R370, R371): what it read, and hold entered or left. -/
theorem sampleShed_pshed {s : State} (hs : gwf s.psheds = true) (r : ShedReading) :
    let b := (s.pshed r.shed).read r
    let q := (sampleShed s r).pshed r.shed
    (logicalShed s r.shed = none → q = b) ∧
      (logicalShed s r.shed ≠ none →
        (b.hold = false → b.AtHold s.thm → q = b.heldHot) ∧ (b.hold = true → b.AtRelease s.thm → q = b.released) ∧
          ((b.hold = false → ¬ b.AtHold s.thm) → (b.hold = true → ¬ b.AtRelease s.thm) → q = b)) := by
  obtain ⟨hhold, hrelease, hlogical⟩ := sampleTaken_frame (s := s) r
  have hwf := gwf_sampleTaken hs r
  have hread := sampleTaken_pshed hs r
  have hathold (p : PShed) : p.AtHold (sampleTaken s r).thm ↔ p.AtHold s.thm := by rw [PShed.AtHold, PShed.AtHold, hhold]
  have hatrelease (p : PShed) : p.AtRelease (sampleTaken s r).thm ↔ p.AtRelease s.thm := by
    rw [PShed.AtRelease, PShed.AtRelease, hrelease]
  simp only [sampleShed_eq, ← hread, ← hlogical]
  refine ⟨holdStep_of_unpresented, fun hl => ⟨fun hh hot => ?_, fun hh cool => ?_, fun hot cool => ?_⟩⟩
  · exact holdStep_of_hot hwf hl hh ((hathold _).2 hot)
  · exact holdStep_of_cool hwf hl hh ((hatrelease _).2 cool)
  · exact holdStep_of_stays hl (fun hh => mt (hathold _).1 (hot hh)) (fun hh => mt (hatrelease _).1 (cool hh))

/-- The readings of a shed are those of its sample, whatever happens to its limit and its hold. -/
structure PShed.ReadAs (a q : PShed) : Prop where
  sfail : q.sfail = a.sfail
  lfail : q.lfail = a.lfail
  tfloor : q.tfloor = a.tfloor
  tloft : q.tloft = a.tloft

theorem PShed.ReadAs.heldHot {a q : PShed} (h : a.ReadAs q) : a.ReadAs q.heldHot := ⟨h.sfail, h.lfail, h.tfloor, h.tloft⟩

theorem PShed.ReadAs.released {a q : PShed} (h : a.ReadAs q) : a.ReadAs q.released := ⟨h.sfail, h.lfail, h.tfloor, h.tloft⟩

theorem PShed.readAs_read (r : ShedReading) (p : PShed) : (p.sampled r).ReadAs (p.read r) := by
  unfold PShed.read PShed.settled
  split <;> exact ⟨rfl, rfl, rfl, rfl⟩

theorem PShed.read_hold (r : ShedReading) (p : PShed) :
    (p.read r).hold = p.hold ∧ (p.read r).waking = p.waking ∧ (p.read r).parked = p.parked := by
  unfold PShed.read PShed.settled
  split <;> exact ⟨rfl, rfl, rfl⟩

/-- A shed in hold leaves it at RELEASE and nowhere else; another enters it at HOLD and nowhere else. -/
theorem sampleShed_hold {s : State} (hs : gwf s.psheds = true) (r : ShedReading) :
    let p := s.pshed r.shed
    let q := (sampleShed s r).pshed r.shed
    (p.sampled r).ReadAs q ∧
      (q.hold = true ↔ if logicalShed s r.shed = none then p.hold = true else if p.hold then ¬ q.AtRelease s.thm else q.AtHold s.thm) ∧
      (logicalShed s r.shed ≠ none → p.hold = true → q.AtRelease s.thm → q = (p.read r).released) := by
  intro p q
  obtain ⟨hnone, hsome⟩ := sampleShed_pshed hs r
  obtain ⟨hhold, -, -⟩ := p.read_hold r
  have hread := p.readAs_read r
  by_cases hl : logicalShed s r.shed = none
  · have hq : q = p.read r := hnone hl
    rw [hq, if_pos hl, hhold]
    exact ⟨hread, Iff.rfl, fun h => absurd hl h⟩
  · obtain ⟨hhot, hcool, hstays⟩ := hsome hl
    rw [if_neg hl]
    cases hp : p.hold with
    | false =>
      rw [hp] at hhold
      by_cases hot : (p.read r).AtHold s.thm
      · have hq : q = (p.read r).heldHot := hhot hhold hot
        rw [hq]
        exact ⟨hread.heldHot, iff_of_true rfl hot, fun _ h => absurd h Bool.false_ne_true⟩
      · have hq : q = p.read r := hstays (fun _ => hot) fun h => absurd (hhold.symm.trans h) Bool.false_ne_true
        rw [hq, hhold]
        exact ⟨hread, iff_of_false Bool.false_ne_true hot, fun _ h => absurd h Bool.false_ne_true⟩
    | true =>
      rw [hp] at hhold
      by_cases cool : (p.read r).AtRelease s.thm
      · have hq : q = (p.read r).released := hcool hhold cool
        rw [hq]
        exact ⟨hread.released, iff_of_false Bool.false_ne_true (not_not_intro cool), fun _ _ _ => rfl⟩
      · have hq : q = p.read r := hstays (fun h => absurd (h.symm.trans hhold) Bool.false_ne_true) fun _ => cool
        rw [hq]
        exact ⟨hread, iff_of_true hhold cool, fun _ _ h => absurd h cool⟩

theorem PShed.sampled_tloft_of_some {r : ShedReading} {p : PShed} {t : Int}
    (h : (goodReadings (p.sampled r).lfail r.loft).max? = some t) : (p.sampled r).tloft = t := by
  have hl : (goodReadings (failBits p.lfail r.loft) r.loft).max? = some t := h
  simp only [PShed.sampled, hl]

theorem PShed.sampled_tloft_of_none {r : ShedReading} {p : PShed}
    (h : (goodReadings (p.sampled r).lfail r.loft).max? = none) (h7 : (p.sampled r).lfail = 7) :
    (p.sampled r).tloft = (p.sampled r).tfloor := by
  have hl : (goodReadings (failBits p.lfail r.loft) r.loft).max? = none := h
  have h7' : failBits p.lfail r.loft = 7 := h7
  simp only [PShed.sampled, hl]
  exact if_pos h7'

/-! A whole sample (R367, R372, R378). -/

/-- The better of the highest reading so far and a shed's. -/
def hotter (s : State) (best : Option (Int × Nat)) (r : ShedReading) : Option (Int × Nat) :=
  match peakOf s r, best with
  | none, b => b
  | some t, none => some (t, r.shed.val)
  | some t, some b => if b.1 < t then some (t, r.shed.val) else some b

theorem hottest_concat (s : State) (rs : List ShedReading) (r : ShedReading) : hottest s (rs ++ [r]) = hotter s (hottest s rs) r :=
  List.foldl_concat ..

/-- The highest reading of a sample is that of one of its sheds, and no shed reads higher. -/
theorem hottest_spec (s : State) (rs : List ShedReading) :
    (hottest s rs = none → ∀ r ∈ rs, peakOf s r = none) ∧
      ∀ t n, hottest s rs = some (t, n) →
        (∃ r ∈ rs, r.shed.val = n ∧ peakOf s r = some t) ∧ ∀ r ∈ rs, ∀ t', peakOf s r = some t' → t' ≤ t := by
  induction rs using List.reverseRecOn with
  | nil => exact ⟨fun _ _ hr => absurd hr List.not_mem_nil, fun t n h => by cases h⟩
  | append_singleton rs r ih =>
    obtain ⟨ihnone, ihsome⟩ := ih
    have hmem {x : ShedReading} : x ∈ rs ++ [r] ↔ x ∈ rs ∨ x = r := by rw [List.mem_append, List.mem_singleton]
    simp only [hottest_concat, hotter, hmem]
    cases hp : peakOf s r with
    | none =>
      refine ⟨fun h x hx => hx.elim (ihnone h x) fun he => he ▸ hp, fun t n h => ?_⟩
      obtain ⟨⟨x, hx, hn, ht⟩, hle⟩ := ihsome t n h
      refine ⟨⟨x, .inl hx, hn, ht⟩, fun x hx t' ht' => hx.elim (fun hx => hle x hx t' ht') fun he => ?_⟩
      rw [he, hp] at ht'
      cases ht'
    | some t₀ =>
      cases hb : hottest s rs with
      | none =>
        refine ⟨fun h => by simp at h, fun t n h => ?_⟩
        obtain ⟨rfl, rfl⟩ := Prod.mk.inj (Option.some.inj h)
        refine ⟨⟨r, .inr rfl, rfl, hp⟩, fun x hx t' ht' => hx.elim (fun hx => ?_) fun he => ?_⟩
        · rw [ihnone hb x hx] at ht'
          cases ht'
        · rw [he, hp] at ht'
          exact (Option.some.inj ht').ge
      | some b =>
        obtain ⟨⟨x, hx, hn, ht⟩, hle⟩ := ihsome b.1 b.2 hb
        dsimp only
        by_cases hlt : b.1 < t₀
        · rw [if_pos hlt]
          refine ⟨fun h => by simp at h, fun t n h => ?_⟩
          obtain ⟨rfl, rfl⟩ := Prod.mk.inj (Option.some.inj h)
          refine ⟨⟨r, .inr rfl, rfl, hp⟩, fun x hx t' ht' => hx.elim (fun hx => (hle x hx t' ht').trans hlt.le) fun he => ?_⟩
          rw [he, hp] at ht'
          exact (Option.some.inj ht').ge
        · rw [if_neg hlt]
          refine ⟨fun h => by simp at h, fun t n h => ?_⟩
          obtain rfl : b = (t, n) := Option.some.inj h
          refine ⟨⟨x, .inl hx, hn, ht⟩, fun x hx t' ht' => hx.elim (fun hx => hle x hx t' ht') fun he => ?_⟩
          rw [he, hp] at ht'
          exact (Option.some.inj ht') ▸ not_lt.1 hlt

theorem setPeak_thm (s : State) (t : Int) (n : Nat) :
    (setPeak s t n).thm = { s.thm with tmax := min 255 t.toNat, tyard := n / 72, tshed := (setPeak s t n).thm.tshed } := by
  cases h : logicalShed s n <;> simp only [setPeak, h, takeFresh]

section
variable {s : State} {sheds : List ShedReading} {supplies : List (YardId × Int)}
  (hlen : ∀ r ∈ sheds, r.floor.length = 4 ∧ r.loft.length = 3)
include hlen

/-- The supplies act first, then the sheds one by one, then the highest reading. -/
theorem execSensorSample_eq :
    execSensorSample sheds supplies s = .next (
      let u := sheds.foldl sampleShed (supplies.foldl sampleSupply s)
      match hottest u sheds with
      | none => u
      | some (t, n) =>
        let v := setPeak u t n
        let w := if 110 ≤ t ∧ v.thm.tripped = false then thermTrip v t else v
        if 115 ≤ t ∧ w.thm.railsOff = false then tripRails w else w) := by
  have hwhole : ¬ sheds.any (fun r => decide (r.floor.length ≠ 4 ∨ r.loft.length ≠ 3)) = true := by
    simp only [List.any_eq_true, decide_eq_true_eq, not_exists, not_and, not_or, Decidable.not_not]
    exact hlen
  unfold execSensorSample
  rw [if_neg hwhole]
  simp only [Bool.not_eq_true'] <;> rfl

theorem execSensorSample_of_none (h : hottest (sheds.foldl sampleShed (supplies.foldl sampleSupply s)) sheds = none) :
    execSensorSample sheds supplies s = .next (sheds.foldl sampleShed (supplies.foldl sampleSupply s)) := by
  simp only [execSensorSample_eq hlen, h]

theorem execSensorSample_of_some {t : Int} {n : Nat} {u : State} (hu : sheds.foldl sampleShed (supplies.foldl sampleSupply s) = u)
    (h : hottest u sheds = some (t, n)) :
    execSensorSample sheds supplies s = .next (
      let v := setPeak u t n
      let w := if 110 ≤ t ∧ v.thm.tripped = false then thermTrip v t else v
      if 115 ≤ t ∧ w.thm.railsOff = false then tripRails w else w) := by
  subst hu
  simp only [execSensorSample_eq hlen, h]

end

/-! The thermal trip (R372). -/

/-- What every change establishes holds of every value of a map that is changed everywhere, canonical or not. -/
theorem gget_gmapAll_of_all {α β : Type} [DecidableEq β] (m : GMap α) {f : α → β} {P : β → Prop} (hP : ∀ x, P (f x)) (k : Nat) :
    P (gget (gmapAll m f) k) := by
  have key : ∀ l : List (Nat × α),
      P ((lookupKey k ((l.map fun c => (c.1, f c.2)).filter fun c => decide (c.2 ≠ f m.dflt))).getD (f m.dflt)) := by
    intro l
    induction l with
    | nil => exact hP _
    | cons c l ih =>
      rw [List.map_cons, List.filter_cons]
      split
      · rw [lookupKey]
        split
        · exact hP _
        · exact ih
      · exact ih
  exact key m.cells

/-- The trip with its record, its journal entry and the abort request, before any shed is taken to D4. -/
def tripNoted (s : State) (t : Int) : State :=
  let u := record { s with thm := { s.thm with tripped := true } } 20 .device
  hwAbort (journal u 11 [0, t.toNat, u.thm.tyard, u.thm.tshed]) 6

theorem thermTrip_eq (s : State) (t : Int) :
    thermTrip s t = 
      let u := allToD4 (dropBallast (tripNoted s t))
      { u with pwr := { u.pwr with veto := false } } := by
  rw [thermTrip, tripNoted]

/-- A trip itself only marks the thermal block; its record, the abort and the darkness touch no other part of it nor of the power block. -/
theorem tripTaken_same (s : State) (t : Int) :
    Same [.grm, .err, .sec, .mbx, .mars, .ports, .sheds, .psheds, .stalls, .track, .fresh]
      { s with thm := { s.thm with tripped := true } } (allToD4 (dropBallast (tripNoted s t))) :=
  allToD4_same (dropBallast_same (hwAbort_same (journal_same (record_same Same.refl 20 .device (by decide)) 11 _ (by decide)) 6 (by decide))
    (by decide)) (by decide)

/-- A shed at D4 with no ballast and nothing withheld. -/
def PShed.Dark (p : PShed) : Prop := p.depth = 4 ∧ p.bduty = 0 ∧ p.vetoed = false

theorem thermTrip_pshed (s : State) (t : Int) (n : Nat) : ((thermTrip s t).pshed n).Dark := by
  rw [thermTrip_eq]
  exact gget_gmapAll_of_all (P := PShed.Dark) _ (fun _ => ⟨rfl, rfl, rfl⟩) n

theorem thermTrip_manger (s : State) (t : Int) (sid : Nat) : ((thermTrip s t).stall sid).mem.manger = [] := by
  rw [thermTrip_eq]
  exact gget_gmapAll_of_all (P := fun u : Stall => u.mem.manger = []) _ (fun _ => rfl) sid

theorem thermTrip_thm (s : State) (t : Int) : (thermTrip s t).thm = { s.thm with tripped := true } := by
  rw [thermTrip_eq]
  exact (tripTaken_same s t).kept .thm (by decide)

theorem thermTrip_lastsec (s : State) (t : Int) : (thermTrip s t).sec.lastsec = 0 := by rw [thermTrip_eq, allToD4]

theorem thermTrip_pwr (s : State) (t : Int) : (thermTrip s t).pwr = { s.pwr with veto := false } := by
  rw [thermTrip_eq]
  exact congrArg (fun p : PwrBlock => { p with veto := false }) ((tripTaken_same s t).kept .pwr (by decide))

/-! Every core rail goes off (R372, R445). -/

/-- A port whose session, if it has one, has ended. -/
def Port.dropped (q : Port) : Port := if q.st = 3 ∨ q.st = 4 ∨ q.st = 5 then q.endSession 1 else q

theorem Port.dropped_not_up (q : Port) : q.dropped.st ≠ 4 := by
  unfold Port.dropped
  split
  · exact fun h => absurd (show (1 : Nat) = 4 from h) (by decide)
  · omega

theorem foldl_takeDrop_ports (s : State) (ps : List Nat) :
    (ps.foldl (fun s p => takeDrop p s) s).ports = gmodKeys s.ports ps fun _ => Port.dropped := by
  induction ps generalizing s with
  | nil => rfl
  | cons p ps ih => exact ih (takeDrop p s)

theorem foldl_takeDrop_same (s : State) (ps : List Nat) : Same [.dev, .ports] s (ps.foldl (fun s p => takeDrop p s) s) :=
  Same.refl.foldl fun _ p h => takeDrop_same h p (List.Subset.refl _)

/-- Dropping sessions moves only the source of the wall counter in the DEV block. -/
theorem foldl_takeDrop_dev (s : State) (ps : List Nat) : ∃ src, (ps.foldl (fun s p => takeDrop p s) s).dev = { s.dev with srcport := src } := by
  induction ps generalizing s with
  | nil => exact ⟨_, rfl⟩
  | cons p ps ih =>
    obtain ⟨src, h⟩ := ih (takeDrop p s)
    exact ⟨src, h⟩

/-- The rails are off and the device is HALTED, before the ports leave UP. -/
def railsDown (s : State) : State :=
  { s with yards := gmapAll s.yards (fun y => { y with core := false }), stalls := gmapAll s.stalls Stall.powerless,
           dev := { s.dev with st := 6, hcause := 1, busy := false, runStep := 0 }, thm := { s.thm with railsOff := true } }

theorem tripRails_eq (s : State) : tripRails s = (List.range 144).foldl (fun s p => takeDrop p s) (railsDown s) := by rw [tripRails, railsDown]

theorem tripRails_dev (s : State) : (tripRails s).dev.st = 6 ∧ (tripRails s).dev.hcause = 1 := by
  obtain ⟨src, h⟩ := foldl_takeDrop_dev (railsDown s) (List.range 144)
  rw [tripRails_eq, h]
  exact ⟨rfl, rfl⟩

theorem tripRails_thm (s : State) : (tripRails s).thm = { s.thm with railsOff := true } := by
  rw [tripRails_eq]
  exact (foldl_takeDrop_same _ _).kept .thm (by decide)

theorem tripRails_core (s : State) (y : Nat) : ((tripRails s).yard y).core = false := by
  have hyards : (tripRails s).yards = gmapAll s.yards (fun y => { y with core := false }) := by
    rw [tripRails_eq]
    exact (foldl_takeDrop_same _ _).kept .yards (by decide)
  rw [State.yard, hyards]
  exact gget_gmapAll_of_all (P := fun r : Yard => r.core = false) _ (fun _ => rfl) y

theorem tripRails_port {s : State} (hs : gwf s.ports = true) {p : Nat} (hp : p < 144) : ((tripRails s).port p).st ≠ 4 := by
  rw [State.port, tripRails_eq, foldl_takeDrop_ports]
  exact gget_gmodKeys_of_mem (m := (railsDown s).ports) hs (P := fun q : Port => q.st ≠ 4) (fun q => q.dropped_not_up) (List.mem_range.2 hp)

theorem execTripRailOff_of_due {s : State} (h : s.thm.tripped = true ∧ s.thm.railsOff = false) : execTripRailOff s = .next (tripRails s) := by
  rw [execTripRailOff, if_pos (by rwa [Bool.not_eq_true'])]

theorem execTripRailOff_of_not_due {s : State} (h : ¬ (s.thm.tripped = true ∧ s.thm.railsOff = false)) : execTripRailOff s = .next s := by
  rw [execTripRailOff, if_neg (by rwa [Bool.not_eq_true'])]

/-! A dead core rail (R374, R376). -/

/-- The yard is ABSENT and has lost what it held; the rail is off. -/
def yardDark (s : State) (y : Nat) : State :=
  modYard { s with
    sheds := gmodKeys s.sheds (shedsOfYard y) (fun _ h => { h with absent := true }),
    psheds := gmodKeys s.psheds (pshedsOfYard y) (fun _ p =>
      { p with parked := false, hold := false, waking := false, wakeReq := false, openLatched := false, proposed := 0,
               vetoed := false, bduty := 0 }),
    stalls := gmodKeys s.stalls (stallsOfYard y) (fun _ t => t.powerless),
    sec := { s.sec with lastsec := 0 } } y fun r => { r with core := false }

/-- The yard is dark, its remaps are dropped and the device is DEGRADED; a start that was held may go on from here. -/
def coreDead (s : State) (y : Nat) : State := degrade (fixHeld (dropRemaps (yardDark s y) y))

theorem coreLost_eq (s : State) (y : Nat) : coreLost s y = releaseStart (coreDead s y) := by
  rw [coreLost, coreDead, degrade, yardDark]

/-- After the yard went dark only the remap engine, a hold and DEV.STATE move. -/
theorem coreDead_same (s : State) (y : Nat) : Same [.sec, .rm, .dev] (yardDark s y) (coreDead s y) :=
  degrade_same (fixHeld_same (dropRemaps_same Same.refl y (by decide)) (by decide)) (by decide)

/-! What a dead yard has left (R374, R376). -/

/-- A change that does nothing the second time is made once at a listed key, however often the key is listed. -/
theorem gget_gmodKeys_of_idem {α : Type} [DecidableEq α] {m : GMap α} (h : gwf m = true) {ks : List Nat} {f : Nat → α → α} {k : Nat}
    (hf : ∀ x, f k (f k x) = f k x) (hk : k ∈ ks) : gget (gmodKeys m ks f) k = f k (gget m k) := by
  obtain ⟨x, hx⟩ := gget_gmodKeys_of_mem h (P := fun v => ∃ x, v = f k x) (fun x => ⟨x, rfl⟩) hk
  have hkept := gget_gmodKeys_keeps h ks (P := fun v => f k v = f k (gget m k)) (fun v hv => (hf v).trans hv) rfl
  rw [hx, hf] at hkept
  exact hx.trans hkept

theorem yardOf_sidOf {y k n : Nat} (hy : y < 64) (hk : k < 64) (hn : n < 256) : yardOf (sidOf (y * 64 + k) n) = y := by
  have hyard : (y * 64 + k) / 64 = y := by omega
  have hshed : (y * 64 + k) % 64 = k := by omega
  have hx : y % 8 * 128 + k % 8 * 16 + n % 16 < 1024 := by omega
  have hy : y / 8 * 128 + k / 8 * 16 + n / 16 < 1024 := by omega
  have hxOf : xOf (sidOf (y * 64 + k) n) = y % 8 * 128 + k % 8 * 16 + n % 16 := by
    rw [xOf, sidOf, hyard, hshed, Nat.mul_comm, Nat.mul_add_mod, Nat.mod_eq_of_lt hx]
  have hyOf : yOf (sidOf (y * 64 + k) n) = y / 8 * 128 + k / 8 * 16 + n / 16 := by
    rw [yOf, sidOf, hyard, hshed, Nat.mul_comm, Nat.mul_add_div (by decide), Nat.div_eq_of_lt hx, Nat.add_zero, Nat.mod_eq_of_lt hy]
  rw [yardOf, hxOf, hyOf]
  omega

theorem mem_stallsOfYard {y sid : Nat} (hy : y < 64) (hsid : sid < 1048576) : sid ∈ stallsOfYard y ↔ yardOf sid = y := by
  constructor
  · intro h
    obtain ⟨j, hj, hsid⟩ := List.mem_flatMap.1 h
    obtain ⟨k, hk, rfl⟩ := List.mem_map.1 hj
    obtain ⟨n, hn, rfl⟩ := List.mem_map.1 hsid
    exact yardOf_sidOf hy (List.mem_range.1 hk) (List.mem_range.1 hn)
  · rintro rfl
    exact List.mem_flatMap.2 ⟨shedOf sid, mem_shedsOfYard _ (shedInYard_lt sid),
      List.mem_map.2 ⟨stallInShed sid, List.mem_range.2 (stallInShed_lt sid), sidOf_shedOf hsid⟩⟩

theorem yardDark_sheds (s : State) (y : Nat) :
    (yardDark s y).sheds = gmodKeys s.sheds (shedsOfYard y) (fun _ h => { h with absent := true }) := by
  rw [yardDark, modYard]

theorem yardDark_stalls (s : State) (y : Nat) : (yardDark s y).stalls = gmodKeys s.stalls (stallsOfYard y) (fun _ t => t.powerless) := by
  rw [yardDark, modYard]

section
variable {s : State} (hs : Canonical s) (y : YardId)
include hs

theorem coreDead_core : ((coreDead s y).yard y).core = false := by
  rw [State.yard, (coreDead_same s y).kept .yards (by decide), yardDark, modYard, gget_gmod hs.yards, if_pos rfl]

theorem coreDead_absent {k : Nat} (hk : k < 64) : ((coreDead s y).shed (y * 64 + k)).absent = true := by
  rw [State.shed, (coreDead_same s y).kept .sheds (by decide), yardDark_sheds]
  exact gget_gmodKeys_of_mem hs.sheds (P := fun h : Shed => h.absent = true) (fun _ => rfl) (mem_shedsOfYard y hk)

theorem coreDead_stall {sid : Nat} (hsid : sid < 1048576) :
    (coreDead s y).stall sid = if yardOf sid = y then (s.stall sid).powerless else s.stall sid := by
  rw [State.stall, (coreDead_same s y).kept .stalls (by decide), yardDark_stalls]
  split
  · next h => exact gget_gmodKeys_of_idem hs.stalls (fun _ => rfl) ((mem_stallsOfYard y.isLt hsid).2 h)
  · next h => exact gget_gmodKeys_of_not_mem _ _ (mt (mem_stallsOfYard y.isLt hsid).1 h)

end

theorem fixHeld_lastsec (s : State) : (fixHeld s).sec.lastsec = s.sec.lastsec := by
  rw [fixHeld]
  split <;> rfl

theorem coreDead_lastsec (s : State) (y : Nat) : (coreDead s y).sec.lastsec = 0 := by
  rw [coreDead, (degrade_same Same.refl (List.Subset.refl _)).kept .sec (by decide), fixHeld_lastsec]
  rfl

theorem coreDead_dev (s : State) (y : Nat) :
    (coreDead s y).dev = if s.dev.st = 3 ∨ s.dev.st = 4 then { s.dev with st := 5 } else s.dev := by
  have hdev : (fixHeld (dropRemaps (yardDark s y) y)).dev = s.dev :=
    ((fixHeld_same Same.refl (List.Subset.refl _)).kept .dev (by decide)).trans rfl
  rw [coreDead, degrade, hdev]
  split
  · rfl
  · exact hdev

/-! A dead track rail (R375). -/

theorem discardCaught_track (s : State) (c : TrackMsg) : (discardCaught s c).track = s.track.filter fun x => decide (x.id ≠ c.id) := by
  rw [discardCaught, modQu_track]
  exact (Same.refl.foldl fun _ y h => countOut_same h c.packet y (List.Subset.refl _)).kept .track (by decide)

/-- What is left on the track after messages are discarded was there before, and is none of them. -/
theorem mem_foldl_discardCaught {s : State} {cs : List TrackMsg} {m : TrackMsg} (h : m ∈ (cs.foldl discardCaught s).track) :
    m ∈ s.track ∧ ∀ c ∈ cs, m.id ≠ c.id := by
  induction cs generalizing s with
  | nil => exact ⟨h, fun _ hc => absurd hc List.not_mem_nil⟩
  | cons c cs ih =>
    obtain ⟨hm, hcs⟩ := ih h
    rw [discardCaught_track] at hm
    obtain ⟨hm, hc⟩ := List.mem_filter.1 hm
    exact ⟨hm, List.forall_mem_cons.2 ⟨of_decide_eq_true hc, hcs⟩⟩

theorem trackLost_not_crosses {s : State} {y : Nat} {m : TrackMsg} (h : m ∈ (trackLost s y).track) : m.crosses y = false := by
  obtain ⟨hm, hnone⟩ := mem_foldl_discardCaught h
  exact Bool.eq_false_iff.2 fun hc => hnone m (List.mem_filter.2 ⟨hm, hc⟩) rfl

theorem gwf_foldl_countOut {s : State} (hs : gwf s.yards = true) (p : Packet) (ys : List Nat) :
    gwf (ys.foldl (fun s y => countOut s p y) s).yards = true := by
  induction ys generalizing s with
  | nil => exact hs
  | cons y ys ih => exact ih (gwf_gmod hs ..)

theorem gwf_foldl_discardCaught {s : State} (hs : gwf s.yards = true) (cs : List TrackMsg) :
    gwf (cs.foldl discardCaught s).yards = true := by
  induction cs generalizing s with
  | nil => exact hs
  | cons c cs ih =>
    refine ih ?_
    rw [discardCaught, modQu_yards]
    exact gwf_foldl_countOut (s := { s with track := s.track.filter _ }) hs _ _

/-- A yard that counts nothing. -/
def Yard.Uncounted (r : Yard) : Prop := r.cnt0 = 0 ∧ r.cnt1 = 0 ∧ r.lwcnt = 0

theorem trackLost_uncounted {s : State} (hs : gwf s.yards = true) (y : Nat) : ((trackLost s y).yard y).Uncounted := by
  rw [trackLost, modYard, State.yard, gget_gmod (gwf_foldl_discardCaught hs _), if_pos rfl]
  exact ⟨rfl, rfl, rfl⟩

theorem supplyTrip_yards (s : State) (y cause : Nat) : (supplyTrip s y cause).yards = s.yards :=
  (supplyTrip_same Same.refl y cause (List.Subset.refl _)).kept .yards (by decide)

/-- The yard's track rail has shorted and is off. -/
def trackShorted (s : State) (y : Nat) : State := modYard s y fun r => { r with tracktrip := true, tcause := 1, track := false }

theorem trackTrip_eq (s : State) (y : Nat) :
    trackTrip s y =
      let v := trackLost (supplyTrip (trackShorted s y) y 1) y
      if (v.yard y).core then coreLost v y
      else { v with sheds := gmodKeys v.sheds (shedsOfYard y) (fun _ h => { h with absent := true }) } := by
  rw [trackTrip, trackShorted]

theorem trackShorted_uncounted {s : State} (hs : gwf s.yards = true) (y : Nat) :
    ((trackLost (supplyTrip (trackShorted s y) y 1) y).yard y).Uncounted := by
  refine trackLost_uncounted ?_ y
  rw [supplyTrip_yards]
  exact gwf_gmod hs ..

section
variable {s : State} {y : YardId}

theorem execCoreRailTrip_of_off (h : (s.yard y).core = false) : execCoreRailTrip y s = .next s := by
  rw [execCoreRailTrip, if_neg (by rw [h]; decide)]

theorem execCoreRailTrip_of_on (h : (s.yard y).core = true) : execCoreRailTrip y s = .next (coreTrip s y 1) := by
  rw [execCoreRailTrip, if_pos h]

theorem execTrackRailTrip_of_off (h : (s.yard y).track = false) : execTrackRailTrip y s = .next s := by
  rw [execTrackRailTrip, if_neg (by rw [h]; decide)]

theorem execTrackRailTrip_of_on (h : (s.yard y).track = true) : execTrackRailTrip y s = .next (trackTrip s y) := by
  rw [execTrackRailTrip, if_pos h]

end

/-- A supply's reading is noted with its hysteresis, and at 125 C the core rail trips. -/
theorem sampleSupply_eq {s : State} (hs : gwf s.yards = true) (y : YardId) (deg : Int) :
    sampleSupply s (y, deg) =
      let r := s.yard y
      let u := { s with yards := gset s.yards y { r with
        vrmt := min 255 deg.toNat, hot := if 115 ≤ deg then true else if deg < 110 then false else r.hot } }
      if 125 ≤ deg ∧ r.core = true then coreTrip u y 2 else u := by
  rw [sampleSupply]
  simp only [modYard, gmod, State.yard, gget_gset_self hs] <;> rfl

end Sys2Proof.Machine

namespace Sys2Proof.Proofs
open Sys2Proof Sys2Proof.Machine

/-- Settles O56: each operation goes by its own equation; the trip, the rails and the lost rails are told part by part through the frame of what comes after the part was written. -/
theorem heatAndSupplyTrips : Obligations.HeatAndSupplyTrips := by
  unfold Obligations.HeatAndSupplyTrips
  intro s hs
  refine ⟨?clock, ?shed, ?sample, ?reading, fun y deg => sampleSupply_eq hs.yards y deg, ?trip, ?rails, ?core, ?supply⟩
  case clock =>
    refine fun o data => ⟨fun ho => congrArg _ (asAuth_of_unauthenticated ho ..), fun ho => congrArg _ ((asAuth_of_authenticated ho ..).trans ?_)⟩
    rw [writeThmClk, bitsOf_low]
    rfl
  case shed =>
    refine fun yard shed => ⟨fun deep => ⟨Config.freeCycles s.fresh, rfl⟩, rfl, fun up h => execThrottleStep_of_sensorless h up, fun h => ?_⟩
    exact ⟨fun hc => (execThrottleStep_up h).trans (congrArg _ (if_pos hc)), fun hc => (execThrottleStep_up h).trans (congrArg _ (if_neg hc)),
      fun hc => (execThrottleStep_down h).trans (congrArg _ (if_pos hc)),
      fun hc => (execThrottleStep_down h).trans (congrArg _ (if_neg hc))⟩
  case sample =>
    refine fun sheds supplies hlen => ⟨execSensorSample_of_none hlen, fun t n h => ?_⟩
    obtain ⟨hin, hmost⟩ := (hottest_spec _ _).2 t n h
    exact ⟨hin, hmost, _, rfl, setPeak_thm _ t n, execSensorSample_of_some hlen rfl h⟩
  case reading =>
    intro r hfloor hloft
    obtain ⟨hread, hhold, hrelease⟩ := sampleShed_hold hs.psheds r
    refine ⟨fun i => ?_, fun i => ?_, ?_, fun t ht => ?_, fun hnone h7 => ?_, hhold, fun hl hp cool => ?_⟩
    · rw [hread.sfail, ← hfloor]
      exact failBits_testBit ..
    · rw [hread.lfail, ← hloft]
      exact failBits_testBit ..
    · rw [hread.tfloor, hread.sfail]
      rfl
    · rw [hread.lfail] at ht
      exact hread.tloft.trans (PShed.sampled_tloft_of_some ht)
    · rw [hread.lfail] at hnone h7
      rw [hread.tloft, hread.tfloor]
      exact PShed.sampled_tloft_of_none hnone h7
    · obtain ⟨-, hwaking, hparked⟩ := (s.pshed r.shed).read_hold r
      rw [hrelease hl hp cool, ← hwaking, ← hparked]
      exact ⟨rfl, rfl, rfl, rfl⟩
  case trip =>
    intro t
    exact ⟨thermTrip_thm s t, thermTrip_lastsec s t, thermTrip_pwr s t, thermTrip_pshed s t, thermTrip_manger s t⟩
  case rails =>
    obtain ⟨hst, hcause⟩ := tripRails_dev s
    exact ⟨hst, hcause, tripRails_thm s, tripRails_core s, fun p hp => tripRails_port hs.ports hp,
      execTripRailOff_of_due, execTripRailOff_of_not_due⟩
  case core =>
    rintro y t rfl
    exact ⟨coreDead s y, coreLost_eq s y, coreDead_core hs y, fun k hk => coreDead_absent hs y hk, coreDead_lastsec s y,
      fun sid hsid => coreDead_stall hs y hsid, coreDead_dev s y⟩
  case supply =>
    refine fun y => ⟨execCoreRailTrip_of_off, fun h => ?_, execTrackRailTrip_of_off, fun h => ?_⟩
    · refine (execCoreRailTrip_of_on h).trans ?_
      rw [coreTrip, supplyTrip, modYard, gmod]
      rfl
    · obtain ⟨hcnt0, hcnt1, hlwcnt⟩ := trackShorted_uncounted hs.yards y
      refine ⟨trackLost (supplyTrip (trackShorted s y) y 1) y, ?_, fun m hm => trackLost_not_crosses hm, hcnt0, hcnt1, hlwcnt,
        (execTrackRailTrip_of_on h).trans (congrArg _ (trackTrip_eq s y))⟩
      rw [supplyTrip, trackShorted, modYard, gmod]
      rfl

end Sys2Proof.Proofs
end

section
/-! PROOFS. Services and images of the Groom (R401, R419-R447): a service by the request at the head of its mailbox, a commit and the
Groom's start by the fields of the GRM block that they leave, and from these O58. -/

namespace Sys2Proof.Machine

/-! Services (R438). -/

/-- A service takes this request: it stands at the head of the mailbox, and the Groom is ready and owes no answer. -/
def Served (s : State) (b typ ptr : Nat) : Prop :=
  ∃ p hi rest, (s.box b).queue = (p, hi) :: rest ∧ ptr = p.toNat ∧ bitsOf hi.toNat 47 32 = typ ∧ s.grm.ready = true ∧ s.grm.due = none

section
variable {s : State} {b typ ptr : Nat}

theorem serve_of_served (h : Served s b typ ptr) (f : Nat → State → State) : serve s b typ f = f ptr (popBox b s) := by
  obtain ⟨p, hi, rest, hqueue, rfl, rfl, hready, hdue⟩ := h
  simp [serve, hqueue, hready, hdue]

theorem serve_of_idle (h : ∀ ptr, ¬ Served s b typ ptr) (f : Nat → State → State) : serve s b typ f = s := by
  rw [serve]
  split
  · rfl
  · next p hi hhead =>
    obtain ⟨rest, hqueue⟩ := List.head?_eq_some_iff.1 hhead
    refine if_pos ?_
    by_contra hc
    simp only [Bool.or_eq_true, Bool.not_eq_true', decide_eq_true_eq, not_or, Bool.not_eq_false, Bool.not_eq_true, Option.isSome_eq_false_iff,
      Option.isNone_iff_eq_none, not_not] at hc
    obtain ⟨⟨hready, hdue⟩, htyp⟩ := hc
    exact h _ ⟨p, hi, rest, hqueue, rfl, htyp, hready, hdue⟩

end

section
variable {s : State} {internal sigOk : Bool} {img : ImageCheck} {ptr : Nat}

theorem execAttest_of_served (h : Served s (if internal then 8 else 0) 0x10 ptr) :
    execAttest internal s = .next (
      let b := if internal then 8 else 0
      let t := popBox b s
      if svcSize b < ptr + 0x40 + 20256 then svcAnswer t b ptr 0x10 false
      else svcAnswer (svcWrite t b (ptr + 0x40) (report t (Memory.readBytes (svcMem s b) ptr 64))) b ptr 0x10 true) :=
  congrArg _ (serve_of_served h _)

theorem execSbread_of_served (h : Served s (if internal then 8 else 0) 0x12 ptr) :
    execSbread internal s = .next (
      let b := if internal then 8 else 0
      let t := popBox b s
      let lim := Memory.readLe (svcMem s b) (ptr + 8) 4
      if svcSize b < ptr + 0x10 + lim then svcAnswer t b ptr 0x12 false
      else svcAnswer (svcWrite t b (ptr + 0x10)
        (wholeRecords lim (s.grm.recs.filter fun r => decide (Memory.readLe (svcMem s b) ptr 8 ≤ r.seq)))) b ptr 0x12 true) :=
  congrArg _ (serve_of_served h _)

/-- What KEYREG journals of an accepted registration record. -/
def keyBody (m : Mem) (ptr : Nat) : List Nat :=
  let f := fun (o n : Nat) => Memory.readLe m (ptr + o) n
  [f 4 1, f 5 1, f 6 1 % 2, f 6 1 / 2 % 2, f 0x10 4, leNat (Memory.readBytes m (ptr + 0x20) 2592)]

theorem execKeyreg_of_served (h : Served s 0 0x11 ptr) :
    execKeyreg sigOk s = .next (
      if 0x10000 < ptr + 0xA40 + 4627 || !keyRecordOk s s.gwin ptr sigOk then svcAnswer (popBox 0 s) 0 ptr 0x11 false
      else owe (popBox 0 s) 0 ptr 0x11 9 (keyBody s.gwin ptr)) := by
  have hkey : keyRecordOk (popBox 0 s) (popBox 0 s).gwin ptr sigOk = keyRecordOk s s.gwin ptr sigOk := rfl
  rw [execKeyreg, serve_of_served h, hkey, keyBody]
  rfl

theorem execLungeset_of_served (h : Served s 8 0x14 ptr) :
    execLungeset img s = .next (
      if !imageOk s 3 img then svcAnswer (popBox 8 s) 8 ptr 0x14 false
      else owe (popBox 8 s) 8 ptr 0x14 12 [(s.grm.recs.filter fun r => decide (r.kind = 12)).length % 2, img.digest.toNat, img.arb]) :=
  congrArg _ (serve_of_served h _)

/-- The units that a SUSPECT request names. -/
def suspects (m : Mem) (ptr : Nat) : List (Option FailUnit) :=
  (List.range (Memory.readLe m ptr 4)).map fun i => suspectUnit (Memory.readLe m (ptr + 4 + 4 * i) 4)

/-- The state after the units of a SUSPECT request are put on probation. -/
def suspected (s : State) (ptr : Nat) : State := ((suspects s.hmem ptr).filterMap id).foldl suspectOne (popBox 8 s)

/-- The answer of SUSPECT, or the record that it waits for. -/
def suspectAnswer (s : State) (ptr : Nat) : State :=
  let t := suspected s ptr
  if t.grm.queue.length = s.grm.queue.length then svcAnswer t 8 ptr 0x13 true
  else match t.grm.queue.getLast? with
    | some r => { t with grm := { t.grm with due := some ⟨8, ptr, 0x13, r.kind, r.body⟩ } }
    | none => t

theorem execSuspect_of_served (h : Served s 8 0x13 ptr) :
    execSuspect s = .next (
      if 0x20000000 < ptr + 4 + 4 * Memory.readLe s.hmem ptr 4 then svcAnswer (popBox 8 s) 8 ptr 0x13 false
      else if (suspects s.hmem ptr).any Option.isNone then svcAnswer (popBox 8 s) 8 ptr 0x13 false
      else suspectAnswer s ptr) := by
  have hmem : (popBox 8 s).hmem = s.hmem := rfl
  have hqueue : (popBox 8 s).grm.queue = s.grm.queue := rfl
  rw [execSuspect, serve_of_served h]
  simp only [hmem, hqueue, suspectAnswer, suspected, suspects] <;> rfl

theorem suspectAnswer_of_unchanged (h : (suspected s ptr).grm.queue.length = s.grm.queue.length) :
    suspectAnswer s ptr = svcAnswer (suspected s ptr) 8 ptr 0x13 true := if_pos h

theorem suspectAnswer_of_journalled {r : SbRec} (h : (suspected s ptr).grm.queue.length ≠ s.grm.queue.length)
    (hr : (suspected s ptr).grm.queue.getLast? = some r) :
    suspectAnswer s ptr =
      { suspected s ptr with grm := { (suspected s ptr).grm with due := some ⟨8, ptr, 0x13, r.kind, r.body⟩ } } := by
  rw [suspectAnswer, if_neg h, hr]

end

/-! Probation and images (R401, R427, R436). -/

section
variable {s : State} {u : FailUnit}

/-- The unit is acquired, bad or retired already. -/
def SuspectKnown (s : State) (u : FailUnit) : Prop := s.grm.acquired.contains u = true ∨ s.grm.bad.contains u = true ∨ unitRetired s u = true

theorem suspectOne_of_known (h : SuspectKnown s u) : suspectOne s u = s := by
  rw [suspectOne, if_pos (by simpa only [SuspectKnown, Bool.or_eq_true, or_assoc] using h)]

theorem suspectOne_of_unknown (h : ¬ SuspectKnown s u) :
    suspectOne s u = if s.grm.prob.any (fun b => decide (b.unit = u)) then probationFail s u 2 else journalProb s u 0 := by
  rw [suspectOne, if_neg (by simpa only [SuspectKnown, Bool.or_eq_true, or_assoc] using h)]

theorem any_unit {ps : List Probation} : ps.any (fun b => decide (b.unit = u)) = true ↔ ∃ b ∈ ps, b.unit = u := by
  simp only [List.any_eq_true, decide_eq_true_eq]

end

theorem execOperatorImageLoad_of_refused {s : State} {img : ImageCheck} (h : s.dev.hostlerUp = false ∨ imageOk s 4 img = false) :
    execOperatorImageLoad img s = .next s := by
  rw [execOperatorImageLoad, if_pos (by simpa only [Bool.or_eq_true, Bool.not_eq_true'] using h)]

/-- An operator image with this measurement has run. -/
def operTaken (s : State) (m : Nat) : State := { s with grm := { s.grm with moper := m, operRuns := s.grm.operRuns + 1 } }

theorem raiseArb_operTaken (s : State) (m level : Nat) :
    raiseArb (operTaken s m) 4 level = if gget s.grm.pendArb 4 < level then journal (operTaken s m) 10 [4, level] else operTaken s m := by
  rw [raiseArb]
  rfl

theorem execOperatorImageLoad_of_taken {s : State} {img : ImageCheck} (hup : s.dev.hostlerUp = true) (hok : imageOk s 4 img = true) :
    execOperatorImageLoad img s = .next (
      let t := operTaken s (sha3 (leBytes 64 s.grm.moper ++ leBytes 64 img.digest.toNat))
      if gget s.grm.pendArb 4 < img.arb then journal t 10 [4, img.arb] else t) := by
  rw [execOperatorImageLoad, if_neg (by simp [hup, hok]), ← raiseArb_operTaken, operTaken]

/-! What the GRM block keeps while records are journalled and committed (R417-R420). -/

theorem journal_grm (s : State) (kind : Nat) (body : List Nat) : ∃ q, (journal s kind body).grm = { s.grm with queue := q } := ⟨_, rfl⟩

/-- An error record only journals, as far as the GRM block goes. -/
theorem record_grm (s : State) (code : Nat) (src : Src) : ∃ q, (record s code src).grm = { s.grm with queue := q } := by
  have hmark (t : State) : (markSheds t code src).grm = t.grm :=
    (markSheds_same Same.refl code src (List.Subset.refl _)).kept .grm (by decide)
  have hcalls (t : State) (newly captured : Bool) : ∃ q, (recordCalls t newly captured code src).grm = { t.grm with queue := q } := by
    unfold recordCalls
    split
    · split
      · exact ⟨_, (ringCore_same Same.refl 9 1 (List.Subset.refl _)).kept .grm (by decide)⟩
      · exact ⟨_, rfl⟩
    · exact ⟨_, rfl⟩
  obtain ⟨q, h⟩ := hcalls (markSheds { s with err := s.err.record code src _ s.dev.wall } code src) _ _
  exact ⟨q, h.trans (by rw [hmark])⟩

theorem studbookRepair_grm (s : State) : ∃ q, (studbookRepair s).grm = { s.grm with repair := true, queue := q } := by
  obtain ⟨q, h⟩ := record_grm { s with grm := { s.grm with repair := true } } 22 .device
  obtain ⟨q', h'⟩ := journal_grm (record { s with grm := { s.grm with repair := true } } 22 .device) 11 [3]
  exact ⟨q', by rw [studbookRepair, h', h]⟩

theorem raiseArb_grm (s : State) (kind level : Nat) : ∃ q, (raiseArb s kind level).grm = { s.grm with queue := q } := by
  rw [raiseArb]
  split
  · exact journal_grm ..
  · exact ⟨_, rfl⟩

/-- What a committed record records never concerns the journal itself or the boot count. -/
theorem GrmBlock.effect_journal (g : GrmBlock) (r : SbRec) : (g.effect r).recs = g.recs ∧ (g.effect r).boots = g.boots := by
  rw [GrmBlock.effect]
  split
  case h_1 | h_2 => split <;> exact ⟨rfl, rfl⟩
  all_goals exact ⟨rfl, rfl⟩

theorem GrmBlock.rebuild_boots (g : GrmBlock) (rs : List SbRec) : (g.rebuild rs).boots = g.boots :=
  List.foldlRecOn (motive := fun h : GrmBlock => h.boots = g.boots) _ _ rfl fun h hh r _ => (h.effect_journal r).2.trans hh

/-- A committed lunge set raises its level. -/
def lungeRaised (s : State) (r : SbRec) : State :=
  match r.kind, r.body with
  | 12, [_, _, arb] => raiseArb s 3 arb
  | _, _ => s

theorem lungeRaised_grm (s : State) (r : SbRec) : ∃ q, (lungeRaised s r).grm = { s.grm with queue := q } := by
  rw [lungeRaised]
  split
  · exact raiseArb_grm ..
  · exact ⟨_, rfl⟩

theorem afterCommit_eq (s : State) (r : SbRec) :
    afterCommit s r =
      let t := lungeRaised s r
      match t.grm.due with
      | some d => if d.kind = r.kind ∧ d.body = r.body then svcAnswer { t with grm := { t.grm with due := none } } d.box d.ptr d.typ true else t
      | none => t := rfl

/-- After a commit only the queue and the answer owed move. -/
theorem afterCommit_grm (s : State) (r : SbRec) : ∃ q d, (afterCommit s r).grm = { s.grm with queue := q, due := d } := by
  obtain ⟨q, hq⟩ := lungeRaised_grm s r
  have hanswer (t : State) (d : Due) : (svcAnswer t d.box d.ptr d.typ true).grm = t.grm :=
    (svcAnswer_same Same.refl d.box d.ptr d.typ true (List.Subset.refl _)).kept .grm (by decide)
  rw [afterCommit_eq]
  dsimp only
  split
  · split
    · exact ⟨q, none, by rw [hanswer, hq]⟩
    · exact ⟨q, _, hq⟩
  · exact ⟨q, _, hq⟩

/-! A commit (R419, R422, R425). -/

/-- The state after a failed programming has made its sector bad (R422). -/
def sectorNoted (s : State) (r : CommitResult) : State :=
  if 4 ≤ r.failures then studbookRepair { s with grm := { s.grm with badsect := s.grm.badsect + 1 } } else s

/-- The state after a copy has been found bad (R425). -/
def copyNoted (s : State) (r : CommitResult) : State :=
  if r.copyBad = true ∧ s.grm.onecopy = false then studbookRepair { sectorNoted s r with grm := { (sectorNoted s r).grm with onecopy := true } }
  else sectorNoted s r

theorem sectorNoted_onecopy (s : State) (r : CommitResult) : (sectorNoted s r).grm.onecopy = s.grm.onecopy := by
  rw [sectorNoted]
  split
  · obtain ⟨q, h⟩ := studbookRepair_grm { s with grm := { s.grm with badsect := s.grm.badsect + 1 } }
    rw [h]
  · rfl

theorem copyNoted_eq (s : State) (r : CommitResult) :
    copyNoted s r =
      let t := sectorNoted s r
      if r.copyBad ∧ !t.grm.onecopy then studbookRepair { t with grm := { t.grm with onecopy := true } } else t := by
  simp only [sectorNoted_onecopy, Bool.not_eq_true'] <;> rfl

theorem execStudbookCommit_of_unready {s : State} (h : s.grm.ready = false) (r : CommitResult) : execStudbookCommit r s = .next s := by
  rw [execStudbookCommit, h]
  rfl

theorem execStudbookCommit_of_ready {s : State} (h : s.grm.ready = true) (r : CommitResult) :
    execStudbookCommit r s = .next (commitNext (copyNoted s r)) := by
  rw [copyNoted_eq, sectorNoted, execStudbookCommit, if_neg (by simp [h])]

theorem commitNext_of_none {s : State} (h : nextRecord s.grm.budget s.grm.queue = none) :
    commitNext s = { s with grm := { s.grm with throttled := !s.grm.queue.isEmpty, queue := trimDeferred s.grm.queue } } := by
  rw [commitNext, h]

/-- A record that may be written is appended with the next sequence number, and its effect stands in the GRM block. -/
theorem commitNext_grm {s : State} {r : SbRec} {rest : List SbRec} (h : nextRecord s.grm.budget s.grm.queue = some (r, rest)) :
    let q := { r with seq := s.grm.seq + 1, boots := s.grm.boots, wall := s.dev.wall }
    let g := (commitNext s).grm
    g.recs = s.grm.recs ++ [q] ∧ g.seq = q.seq ∧ g.acquired = (s.grm.effect q).acquired ∧ g.prob = (s.grm.effect q).prob ∧
      g.keys = (s.grm.effect q).keys ∧ g.pendArb = (s.grm.effect q).pendArb := by
  obtain ⟨queue, due, hgrm⟩ := afterCommit_grm (commitRecord s r rest) r
  obtain ⟨hrecs, -⟩ := s.grm.effect_journal { r with seq := s.grm.seq + 1, boots := s.grm.boots, wall := s.dev.wall }
  simp only [commitNext, h, hgrm]
  exact ⟨congrArg (· ++ _) hrecs, rfl, rfl, rfl, rfl, rfl⟩

/-! The Groom's start (R420, R441-R447). -/

theorem pickSlot_spec {s : State} {a b : Option Nat} {second : Bool} {arb : Nat} (h : pickSlot s a b = some (second, arb)) :
    arbLevel s 1 ≤ arb ∧ (if second then b else a) = some arb := by
  have hslot {o : Option Nat} (ho : slotOk s o = true) : arbLevel s 1 ≤ o.getD 0 ∧ o = some (o.getD 0) := by
    cases o with
    | none => exact absurd ho Bool.false_ne_true
    | some l => exact ⟨of_decide_eq_true (Bool.and_eq_true_iff.1 ho).1, rfl⟩
  simp only [pickSlot] at h
  split at h
  · next hb =>
    cases h
    exact hslot (Bool.and_eq_true_iff.1 hb).1
  · split at h
    · next ha =>
      cases h
      exact hslot ha
    · cases h

/-- The Groom may start. -/
def CanStart (s : State) (g : GroomInputs) : Prop := s.dev.st = 1 ∧ s.grm.ready = false ∧ s.grm.fwerr = false ∧ g.selfCheck = true

/-- The ROM has blown the pending levels, read the variant and seen both slots. -/
def romRead (s : State) (g : GroomInputs) : State :=
  let u := blowArb (readVariant { s with pins := { s.pins with pwrGood := true } })
  { u with grm := { u.grm with slotArb0 := g.slot0, slotArb1 := g.slot1 } }

section
variable {s : State} {g : GroomInputs}

theorem execGroomStart_of_not (h : ¬ CanStart s g) : execGroomStart g s = .next s := by
  rw [execGroomStart, if_pos]
  by_contra hc
  simp only [not_or, not_not, Bool.not_eq_true, Bool.not_eq_true', Bool.not_eq_false] at hc
  exact h hc

theorem execGroomStart_of_can (h : CanStart s g) :
    execGroomStart g s = .next (
      let v := romRead s g
      match pickSlot v g.slot0 g.slot1 with
      | none => { v with grm := { v.grm with fwerr := true } }
      | some (b, arb) => startFirmware g { v with grm := { v.grm with fwslot := b, garb := arb, mgroom := g.mgroom.toNat } }) := by
  obtain ⟨hst, hready, hfwerr, hself⟩ := h
  rw [execGroomStart, if_neg (by simp [hst, hready, hfwerr, hself])]
  rfl

theorem execGroomStart_of_no_slot (h : CanStart s g) (hpick : pickSlot (romRead s g) g.slot0 g.slot1 = none) :
    execGroomStart g s = .next { romRead s g with grm := { (romRead s g).grm with fwerr := true } } := by
  rw [execGroomStart_of_can h]
  simp only [hpick]

theorem execGroomStart_of_slot {b : Bool} {arb : Nat} (h : CanStart s g) (hpick : pickSlot (romRead s g) g.slot0 g.slot1 = some (b, arb)) :
    execGroomStart g s = .next (startFirmware g
      { romRead s g with grm := { (romRead s g).grm with fwslot := b, garb := arb, mgroom := g.mgroom.toNat } }) := by
  rw [execGroomStart_of_can h]
  simp only [hpick]

theorem startFirmware_of_no_copy (ha : g.copyA = false) (hb : g.copyB = false) :
    startFirmware g s = { s with dev := { s.dev with st := 6, hcause := 3 } } := by
  rw [startFirmware, ha, hb]
  rfl

theorem recoverStudbook_boots : (recoverStudbook g s).grm.boots = s.grm.boots := by
  have hrepair (t : State) : (studbookRepair t).grm.boots = t.grm.boots := by
    obtain ⟨q, h⟩ := studbookRepair_grm t
    rw [h]
  simp only [recoverStudbook, takeFresh]
  split <;> split <;> simp only [hrepair, GrmBlock.rebuild_boots]

/-- The firmware runs with the recovered studbook and has verified the device's identity, before it raises its level. -/
def firmwareUp (g : GroomInputs) (s : State) : State :=
  let u := blowArb (recoverStudbook g s)
  { u with grm := { u.grm with
    boots := u.grm.boots + 1, ready := true, idok := g.keyMatch && g.chainOk, keymis := !g.keyMatch, chainfail := !g.chainOk } }

theorem blowArb_grm (s : State) : (blowArb s).grm = s.grm := by rw [blowArb]

theorem firmwareUp_boots : (firmwareUp g s).grm.boots = s.grm.boots + 1 := by
  simp only [firmwareUp, blowArb_grm, recoverStudbook_boots]

theorem startFirmware_eq (h : g.copyA = true ∨ g.copyB = true) :
    startFirmware g s =
      let t := raiseArb (firmwareUp g s) 1 (firmwareUp g s).grm.garb
      if g.keyMatch && g.chainOk then t else { t with dev := { t.dev with st := 6, hcause := 2 } } := by
  have hcopy : ¬ ((!g.copyA && !g.copyB) = true) := by rcases h with h | h <;> simp [h]
  rw [startFirmware, if_neg hcopy, firmwareUp]

theorem startFirmware_of_copy (h : g.copyA = true ∨ g.copyB = true) :
    let t := startFirmware g s
    t.grm.ready = true ∧ (t.grm.idok = true ↔ g.keyMatch = true ∧ g.chainOk = true) ∧ t.grm.boots = s.grm.boots + 1 ∧
      (t.grm.idok = false → t.dev.st = 6 ∧ t.dev.hcause = 2) := by
  intro t
  obtain ⟨queue, hgrm⟩ := raiseArb_grm (firmwareUp g s) 1 (firmwareUp g s).grm.garb
  have ht : t = _ := startFirmware_eq h
  have hidok : (firmwareUp g s).grm.idok = (g.keyMatch && g.chainOk) := rfl
  dsimp only at ht
  rw [ht, ← Bool.and_eq_true]
  split
  · next hok =>
    rw [hgrm, ← firmwareUp_boots]
    exact ⟨rfl, Iff.rfl, rfl, fun hno => absurd (hok.symm.trans (hidok.symm.trans hno)) Bool.true_eq_false.mp⟩
  · rw [hgrm, ← firmwareUp_boots]
    exact ⟨rfl, Iff.rfl, rfl, fun _ => ⟨rfl, rfl⟩⟩

end

/-! Firmware images (R447). -/

section
variable {s : State} {last : Bool} {img : Option ImageCheck}

theorem execFirmwareRecoveryImage_of_idle (h : (s.box 0).queue = [] ∨ ¬ (s.dev.st = 1 ∧ s.grm.fwerr = true)) :
    execFirmwareRecoveryImage last img s = .next s := by
  rw [execFirmwareRecoveryImage]
  split
  · rfl
  · next hhead =>
    have hwant : ¬ (s.dev.st = 1 ∧ s.grm.fwerr = true) := h.resolve_left fun hq => by rw [hq] at hhead; cases hhead
    rw [if_pos]
    simpa only [Bool.not_eq_true', Bool.not_eq_true, not_and_or] using hwant

/-- The level of a firmware image that the ROM accepts. -/
def firmwareLevel (s : State) (img : Option ImageCheck) : Option Nat :=
  match img with
  | some i => if imageOk s 1 i then some i.arb else none
  | none => none

theorem execFirmwareRecoveryImage_of_wanted {p hi : Word64} {rest : List (Word64 × Word64)} (hq : (s.box 0).queue = (p, hi) :: rest)
    (h : s.dev.st = 1 ∧ s.grm.fwerr = true) :
    execFirmwareRecoveryImage last img s = .next (
      let buf := s.grm.fwBuf ++ Memory.readBytes s.gwin p.toNat (bitsOf hi.toNat 31 0)
      let t := popBox 0 s
      if last = false then { t with grm := { s.grm with fwBuf := buf } }
      else if s.grm.slotArb0.getD 0 < s.grm.slotArb1.getD 0 then
        { t with grm := { s.grm with fwerr := false, fwBuf := [], slotArb0 := firmwareLevel s img } }
      else { t with grm := { s.grm with fwerr := false, fwBuf := [], slotArb1 := firmwareLevel s img } }) := by
  obtain ⟨hst, herr⟩ := h
  simp only [execFirmwareRecoveryImage, hq, List.head?_cons]
  rw [if_neg (by simp [hst, herr])]
  cases last with
  | false => rfl
  | true =>
    simp only [Bool.not_true, Bool.false_eq_true, Bool.true_eq_false, if_false, popBox, modBox]
    by_cases hold : s.grm.slotArb0.getD 0 < s.grm.slotArb1.getD 0
    · simp only [hold, decide_true, if_true] <;> rfl
    · simp only [hold, decide_false, Bool.false_eq_true, if_false] <;> rfl

end

end Sys2Proof.Machine

namespace Sys2Proof.Proofs
open Sys2Proof Sys2Proof.Machine

/-- Settles O58: a service goes by the request that it takes, the commit and the start by the fields of the GRM block, and the rest by their own equations. -/
theorem groomServicesAndImages : Obligations.GroomServicesAndImages := by
  unfold Obligations.GroomServicesAndImages
  intro s hs
  refine ⟨fun t b ptr typ ok => ⟨Config.pick t.fresh, Config.pick (t.fresh + 1) % 32, Nat.mod_lt _ (by decide), rfl⟩, ?reports, ?keys, ?images,
    fun h => congrArg _ (serve_of_idle h _), ?suspects, ?unit, ?commit, fun hours hourly => ⟨?_, ?_⟩, ?lock, ?start, ?recovery⟩
  case reports =>
    refine fun internal => ⟨fun h => congrArg _ (serve_of_idle h _), fun h => congrArg _ (serve_of_idle h _), fun ptr h hlong => ?_,
      fun ptr h hfits => ?_, fun ptr h => ⟨fun hlong => ?_, fun hfits => ?_⟩⟩
    · exact (execAttest_of_served h).trans (congrArg _ (if_pos hlong))
    · exact (execAttest_of_served h).trans (congrArg _ (if_neg (Nat.not_lt.2 hfits)))
    · exact (execSbread_of_served h).trans (congrArg _ (if_pos hlong))
    · exact (execSbread_of_served h).trans (congrArg _ (if_neg (Nat.not_lt.2 hfits)))
  case keys =>
    refine fun sigOk => ⟨fun h => congrArg _ (serve_of_idle h _), fun ptr h => ⟨fun hno => ?_, fun hok => ?_⟩⟩
    · refine (execKeyreg_of_served h).trans (congrArg _ (if_pos ?_))
      simpa only [Bool.or_eq_true, decide_eq_true_eq, Bool.not_eq_true', not_and_or, Nat.not_le, Bool.not_eq_true] using hno
    · refine (execKeyreg_of_served h).trans (congrArg _ (if_neg ?_))
      simpa only [Bool.or_eq_true, decide_eq_true_eq, Bool.not_eq_true', not_or, Nat.not_lt, Bool.not_eq_false] using hok
  case images =>
    refine fun img => ⟨fun h => congrArg _ (serve_of_idle h _), fun ptr h hno => ?_, fun ptr h hok => ?_,
      execOperatorImageLoad_of_refused, fun hup hok => execOperatorImageLoad_of_taken hup hok⟩
    · exact (execLungeset_of_served h).trans (congrArg _ (if_pos (by rw [hno]; rfl)))
    · exact (execLungeset_of_served h).trans (congrArg _ (if_neg (by rw [hok]; decide)))
  case suspects =>
    intro ptr h n us t
    have ht : t = suspected s ptr := rfl
    clear_value t
    subst ht
    refine ⟨fun hno => ?_, fun hfits hall => ⟨fun hlen => ?_, fun r hlen hr => ?_⟩⟩
    · refine (execSuspect_of_served h).trans (congrArg _ ?_)
      split
      · rfl
      · next hlong => exact if_pos (hno.resolve_left hlong)
    all_goals
      refine (execSuspect_of_served h).trans (congrArg _ ((if_neg (Nat.not_lt.2 hfits)).trans ((if_neg (Bool.eq_false_iff.1 hall)).trans ?_)))
    · exact suspectAnswer_of_unchanged hlen
    · exact suspectAnswer_of_journalled hlen hr
  case unit =>
    refine fun u => ⟨suspectOne_of_known, fun h hprob => ?_, fun h hprob => ?_⟩
    · exact (suspectOne_of_unknown h).trans (if_pos (any_unit.2 hprob))
    · refine (suspectOne_of_unknown h).trans (if_neg (mt any_unit.1 ?_))
      rintro ⟨b, hb, hu⟩
      exact hprob b hb hu
  case commit =>
    refine fun r => ⟨fun h => execStudbookCommit_of_unready h r, fun h hnone => ?_, fun q rest h hnext => ?_⟩
    · exact (execStudbookCommit_of_ready h r).trans (congrArg _ (commitNext_of_none hnone))
    · exact ⟨_, execStudbookCommit_of_ready h r, commitNext_grm hnext⟩
  · rintro rfl
    rfl
  · rintro rfl
    rfl
  case lock =>
    exact fun o data => ⟨fun ho => congrArg _ (asAuth_of_unauthenticated ho ..), fun ho => congrArg _ (asAuth_of_authenticated ho ..)⟩
  case start =>
    intro g can u v
    have hv : v = romRead s g := rfl
    clear_value v
    subst hv
    refine ⟨execGroomStart_of_not, execGroomStart_of_no_slot, fun b arb h hpick => ?_, startFirmware_of_no_copy,
      fun h => ⟨_, rfl, startFirmware_of_copy h⟩⟩
    obtain ⟨hlevel, hslot⟩ := pickSlot_spec hpick
    exact ⟨hlevel, hslot, execGroomStart_of_slot h hpick⟩
  case recovery =>
    refine fun last img => ⟨execFirmwareRecoveryImage_of_idle, fun p hi rest hq hwant => ⟨fun hlast => ?_, fun hlast hold => ?_, fun hlast hold => ?_⟩⟩
    · exact (execFirmwareRecoveryImage_of_wanted hq hwant).trans (congrArg _ (if_pos hlast))
    · exact (execFirmwareRecoveryImage_of_wanted hq hwant).trans (congrArg _ ((if_neg (ne_of_eq_of_ne hlast Bool.true_eq_false.mp)).trans (if_pos hold)))
    · exact (execFirmwareRecoveryImage_of_wanted hq hwant).trans (congrArg _ ((if_neg (ne_of_eq_of_ne hlast Bool.true_eq_false.mp)).trans (if_neg hold)))

end Sys2Proof.Proofs
end

section
/-! PROOFS. Bring-up (R444-R462): the write that starts a step by its fields and its checks, the end of each step by what it leaves, and
from these O59. -/

namespace Sys2Proof.Machine

/-! What starts a step (R449, R454). -/

/-- The word that a step's command writes to DEV.BOOTCTL. -/
def stepWord (k : Nat) (auto hsrc : Bool) : Nat := k + 16 + 32 * b2n auto + 64 * b2n hsrc

theorem b2n_lt_two (b : Bool) : b2n b < 2 := by cases b <;> decide

theorem decide_b2n_eq_one (b : Bool) : decide (b2n b = 1) = b := by cases b <;> rfl

theorem stepWord_fields {k : Nat} (hk : k < 16) (auto hsrc : Bool) :
    bitsOf (stepWord k auto hsrc) 3 0 = k ∧ bitOf (stepWord k auto hsrc) 4 = true ∧ bitOf (stepWord k auto hsrc) 5 = auto ∧
      bitOf (stepWord k auto hsrc) 6 = hsrc := by
  have hauto := b2n_lt_two auto
  have hhsrc := b2n_lt_two hsrc
  have hbit5 : stepWord k auto hsrc / 2 ^ 5 % 2 = b2n auto := by rw [stepWord]; omega
  have hbit6 : stepWord k auto hsrc / 2 ^ 6 % 2 = b2n hsrc := by rw [stepWord]; omega
  simp only [bitsOf_low, bitOf, Nat.testBit_eq_decide_div_mod_eq, hbit5, hbit6, decide_b2n_eq_one, decide_eq_true_eq, and_true]
  rw [stepWord]
  omega

/-- The step may start. -/
def StepReady (s : State) (k : Nat) : Prop :=
  s.dev.busy = false ∧ k = s.dev.done + 1 ∧ (s.dev.st = 1 ∨ s.dev.st = 2) ∧ s.grm.idok = true ∧ s.grm.ready = true

/-- DEV.BOOTCTL holds the step's number and options. -/
def bootctlNoted (s : State) (k : Nat) (auto hsrc : Bool) : State := { s with dev := { s.dev with step := k, auto := auto, hsrc := hsrc } }

section
variable {s : State} {k : Nat} {auto hsrc : Bool}

theorem writeBootctl_step (hk : k ≤ 9) :
    writeBootctl (stepWord k auto hsrc) s =
      if s.dev.busy ∨ k ≠ s.dev.done + 1 ∨ (s.dev.st ≠ 1 ∧ s.dev.st ≠ 2) ∨ !s.grm.idok ∨ !s.grm.ready then
        { s with dev := { s.dev with bootErr := 1 } }
      else beginStep (bootctlNoted s k auto hsrc) k := by
  obtain ⟨hstep, hgo, hauto, hhsrc⟩ := stepWord_fields (Nat.lt_of_le_of_lt hk (by decide)) auto hsrc
  simp only [writeBootctl, hstep, hgo, hauto, hhsrc, Bool.not_true, Bool.false_eq_true, if_false, Nat.not_lt.2 hk, false_or, bootctlNoted]

theorem writeBootctl_of_ready (hk : k ≤ 9) (h : StepReady s k) :
    writeBootctl (stepWord k auto hsrc) s = beginStep (bootctlNoted s k auto hsrc) k := by
  obtain ⟨hbusy, hdone, hst, hidok, hready⟩ := h
  rw [writeBootctl_step hk, if_neg]
  simp only [hbusy, ← hdone, hidok, hready]
  simpa [or_iff_not_imp_left] using hst

theorem writeBootctl_of_unready (hk : k ≤ 9) (h : ¬ StepReady s k) :
    writeBootctl (stepWord k auto hsrc) s = { s with dev := { s.dev with bootErr := 1 } } := by
  rw [writeBootctl_step hk, if_pos]
  by_contra hc
  simp only [not_or, not_and_or, not_not, Bool.not_eq_true, Bool.not_eq_true', Bool.not_eq_false] at hc
  exact h hc

theorem beginStep_of_ne (hk : k ≠ 7) : beginStep s k = { s with dev := { s.dev with runStep := k, busy := true, phase := 0, st := 2 } } := by
  rw [beginStep, if_pos hk]

end

/-- The nine commands that start a step write DEV.BOOTCTL, each with its number. -/
theorem exec_step {o : Origin} {auto hsrc : Bool} {k : Nat} {c : Instr} (s : State)
    (h : (k, c) ∈ ([(1, .track o auto hsrc), (2, .core o auto hsrc), (3, .clocks o auto hsrc), (4, .bist o auto hsrc), (5, .remap o auto hsrc),
      (6, .loft o auto hsrc), (7, .ports o auto hsrc), (8, .hostler o auto hsrc), (9, .ready o auto hsrc)] : List (Nat × Instr))) :
    k ≤ 9 ∧ exec c s = .next (asAuth o s (writeBootctl (stepWord k auto hsrc))) := by
  simp only [List.mem_cons, Prod.mk.injEq, List.not_mem_nil, or_false] at h
  rcases h with ⟨rfl, rfl⟩ | ⟨rfl, rfl⟩ | ⟨rfl, rfl⟩ | ⟨rfl, rfl⟩ | ⟨rfl, rfl⟩ | ⟨rfl, rfl⟩ | ⟨rfl, rfl⟩ | ⟨rfl, rfl⟩ | ⟨rfl, rfl⟩
  all_goals exact ⟨by decide, rfl⟩

/-! PORTS trains the bridge port, or every port (R454). -/

/-- The bridge port that PORTS trains first. -/
def bridgePort (s : State) : Option Nat := (List.range 144).find? fun p => (s.port p).host && (s.port p).en

theorem trainOthers_eq (s : State) :
    trainOthers s = { s with
      ports := gmodKeys s.ports (List.range 144) (fun _ q => if q.en = true ∧ q.host = false ∧ q.st = 1 then q.toTrain else q),
      dev := { s.dev with phase := 2 } } := by
  simp only [trainOthers, Bool.and_eq_true, Bool.not_eq_true', decide_eq_true_eq, and_assoc]

section
variable {s : State}

theorem bridgePort_none (h : ∀ p : Nat, p < 144 → ¬ ((s.port p).host = true ∧ (s.port p).en = true)) : bridgePort s = none :=
  List.find?_eq_none.2 fun p hp => by
    rw [Bool.and_eq_true]
    exact h p (List.mem_range.1 hp)

theorem bridgePort_some {p : Nat} (hp : p < 144) (hhost : (s.port p).host = true) (hen : (s.port p).en = true)
    (hfirst : ∀ j : Nat, j < p → ¬ ((s.port j).host = true ∧ (s.port j).en = true)) : bridgePort s = some p := by
  rw [bridgePort, List.find?_range_eq_some]
  refine ⟨by rw [hhost, hen]; rfl, List.mem_range.2 hp, fun j hj => ?_⟩
  rw [Bool.not_eq_true', ← Bool.not_eq_true, Bool.and_eq_true]
  exact hfirst j hj

theorem beginStep_seven :
    beginStep s 7 =
      let u := { s with dev := { s.dev with runStep := 7, busy := true, phase := 0, st := 2 } }
      match bridgePort s with
      | some p => { (modPort u p fun q => if q.st = 1 then q.toTrain else q) with dev := { u.dev with phase := 1 } }
      | none => trainOthers u := rfl

theorem beginStep_of_no_bridge (h : bridgePort s = none) :
    beginStep s 7 = trainOthers { s with dev := { s.dev with runStep := 7, busy := true, phase := 0, st := 2 } } := by
  rw [beginStep_seven, h]

theorem beginStep_of_bridge (hs : gwf s.ports = true) {p : Nat} (h : bridgePort s = some p) :
    (beginStep s 7).dev = { s.dev with runStep := 7, busy := true, phase := 1, st := 2 } ∧
      (beginStep s 7).port p = (if (s.port p).st = 1 then (s.port p).toTrain else s.port p) ∧
      ∀ j, j ≠ p → (beginStep s 7).port j = s.port j := by
  rw [beginStep_seven, h]
  exact ⟨rfl, gget_gset_self hs .., fun j hj => gget_gmod_ne _ _ hj⟩

/-! The end of a step (R449). -/

/-- The step is over: DONE moves. -/
def stepOver (s : State) (k : Nat) : State := { s with dev := { s.dev with done := k, busy := false, runStep := 0, phase := 0 } }

theorem doneStep_of_last {k : Nat} (h : s.dev.auto = false ∨ 9 ≤ k) : doneStep s k = stepOver s k := by
  rw [doneStep, stepOver, if_neg]
  rintro ⟨hauto, hk⟩
  rcases h with h | h
  · exact absurd (hauto.symm.trans h) Bool.true_eq_false.mp
  · exact absurd hk (Nat.not_lt.2 h)

theorem doneStep_of_auto {k : Nat} (hauto : s.dev.auto = true) (hk : k < 9) : doneStep s k = beginStep (stepOver s k) (k + 1) := by
  rw [doneStep, stepOver, if_pos ⟨hauto, hk⟩]

/-- What the end of a running step does, by its number. -/
def stepEnd (r : StepResult) (s : State) : Nat → State
  | 1 => doneStep (finishTrack s r.trips) 1
  | 2 => if loadShed s then s else doneStep (finishCore s r.trips) 2
  | 3 => doneStep (finishClocks s) 3
  | 4 => doneStep (finishBist s r) 4
  | 5 => doneStep (buildRoutes (buildRemap s)) 5
  | 6 => doneStep (finishLoft s r) 6
  | 7 => finishPorts s r.timedOut
  | 8 => finishHostler s r.image r.timedOut
  | 9 => finishReady s r.elapsedMs
  | _ => s

theorem execBootStepComplete_of_idle (h : s.dev.busy = false) (r : StepResult) : execBootStepComplete r s = .next s := by
  rw [execBootStepComplete, if_pos (by rw [h]; rfl)]

theorem execBootStepComplete_of_running {k : Nat} (h : s.dev.busy = true ∧ s.dev.runStep = k) (r : StepResult) :
    execBootStepComplete r s = .next (stepEnd r s k) := by
  obtain ⟨hbusy, rfl⟩ := h
  rw [execBootStepComplete, if_neg (by rw [hbusy]; decide)]
  rfl

end

/-! TRACK, CORE and CLOCKS (R450, R451). -/

/-- A read after all of a block's numbers have been changed alike. -/
theorem gget_gmodKeys_range {α : Type} [DecidableEq α] {m : GMap α} (h : gwf m = true) (f : Nat → α → α) {n k : Nat} (hk : k < n) :
    gget (gmodKeys m (List.range n) f) k = f k (gget m k) :=
  (gget_gmodKeys h List.nodup_range f k).trans (if_pos (List.mem_range.2 hk))

/-- Every track rail is on. -/
def trackOn (s : State) : State := { s with yards := gmodKeys s.yards (List.range 64) fun _ y => { y with track := true } }

/-- Every core rail whose track rail is on is on. -/
def coreOn (s : State) : State := { s with yards := gmodKeys s.yards (List.range 64) fun _ y => if y.track then { y with core := true } else y }

theorem trackOn_yard {s : State} (hs : gwf s.yards = true) {y : Nat} (hy : y < 64) :
    (trackOn s).yard y = { s.yard y with track := true } := by
  rw [State.yard, trackOn, gget_gmodKeys_range hs _ hy, State.yard]

theorem trackOn_dev (s : State) : (trackOn s).dev = s.dev := by rw [trackOn]

theorem coreOn_yard {s : State} (hs : gwf s.yards = true) {y : Nat} (hy : y < 64) :
    (coreOn s).yard y = if (s.yard y).track then { s.yard y with core := true } else s.yard y := by
  rw [State.yard, coreOn, gget_gmodKeys_range hs _ hy, State.yard]

theorem finishClocks_dev (s : State) : (finishClocks s).dev = s.dev := by rw [finishClocks]

theorem finishTrack_eq (s : State) (trips : List YardId) : finishTrack s trips = trips.foldl (fun s (y : YardId) => trackTrip s y) (trackOn s) := rfl

theorem finishClocks_pshed {s : State} (hs : gwf s.psheds = true) {n : Nat} (hn : n < 4608) :
    (finishClocks s).pshed n =
      { s.pshed n with depth := if (s.yard (n / 72)).core then 1 else 4, live := (s.yard (n / 72)).core } := by
  rw [State.pshed, finishClocks, gget_gmodKeys_range hs _ hn]
  cases (s.yard (n / 72)).core <;> rfl

/-! BIST, REMAP and LOFT (R426, R452, R453). -/

section
variable {s : State} {u : FailUnit}

theorem testFail_of_bad (h : s.grm.bad.contains u = true) : testFail s u = s := if_pos h

theorem testFail_bad (h : s.grm.bad.contains u = false) : (testFail s u).grm.bad = s.grm.bad ++ [u] := by
  rw [testFail, if_neg (Bool.eq_false_iff.1 h)]
  dsimp only
  split <;> rfl

end

/-- The retired columns of sheds and yards as the bad set makes them (R452). -/
def remapColumns (s : State) : State :=
  { s with psheds := buildSheds s, yards := gmodKeys s.yards (List.range 64) fun k y => buildYard (buildSheds s) k y }

theorem buildRemap_yards (s : State) : (buildRemap s).yards = (remapColumns s).yards := by rw [buildRemap, remapColumns]

theorem buildRemap_sheds (s : State) :
    (buildRemap s).sheds = gmodKeys s.sheds (List.range 4096) fun k h => { h with
      pscol := pshedOf (remapColumns s) k % 9, valid := true,
      absent := ((remapColumns s).yard (k / 64)).lame || !((remapColumns s).yard (k / 64)).core } := by
  rw [buildRemap, remapColumns]

section
variable {s : State}

theorem buildRemap_yard (hs : gwf s.yards = true) {y : Nat} (hy : y < 64) :
    (buildRemap s).yard y = buildYard (buildSheds s) y (s.yard y) := by
  rw [State.yard, buildRemap_yards, remapColumns, gget_gmodKeys_range hs _ hy, State.yard]

/-- A yard is lame where a row is exhausted, and all of them count so without the core rail. -/
theorem buildYard_lame (g : GMap PShed) (k : Nat) (y : Yard) :
    (buildYard g k y).valid = true ∧ ((buildYard g k y).lame = true ↔ (buildYard g k y).exh ≠ 0) ∧
      (y.core = false → (buildYard g k y).lame = true) := by
  simp only [buildYard]
  refine ⟨trivial, decide_eq_true_iff, fun h => ?_⟩
  rw [h, if_neg Bool.false_ne_true]
  decide

/-- The sheds of a remapped device are valid, and ABSENT where their yard is lame or has no core rail. -/
theorem buildRemap_shed (hs : gwf s.sheds = true) {k : Nat} (hk : k < 4096) :
    ((buildRemap s).shed k).valid = true ∧
      (((buildRemap s).shed k).absent = true ↔ ((buildRemap s).yard (k / 64)).lame = true ∨ ((buildRemap s).yard (k / 64)).core = false) := by
  have hyard : (buildRemap s).yard (k / 64) = (remapColumns s).yard (k / 64) := congrArg (gget · (k / 64)) (buildRemap_yards s)
  rw [hyard, State.shed, buildRemap_sheds, gget_gmodKeys_range hs _ hk]
  exact ⟨rfl, by rw [Bool.or_eq_true, Bool.not_eq_true']⟩

end

/-- Both versions of the route tables are plain and alike, and nothing is injected. -/
theorem buildRoutes_routes (s : State) :
    (buildRoutes s).routeA = ⟨deadYards (buildRoutes s), gconst none⟩ ∧ (buildRoutes s).routeB = (buildRoutes s).routeA ∧
      (buildRoutes s).sec.inj = false ∧ (buildRoutes s).sec.drained = true := by
  rw [buildRoutes]
  exact ⟨rfl, rfl, rfl, rfl⟩

theorem buildRoutes_yard (s : State) (y : Nat) : (buildRoutes s).yard y = s.yard y := by rw [buildRoutes, State.yard, State.yard]
theorem buildRoutes_shed (s : State) (k : Nat) : (buildRoutes s).shed k = s.shed k := by rw [buildRoutes, State.shed, State.shed]

/-- A stall's memory with its lofts and brands cleared. -/
def StallMem.Cleared (m : StallMem) : Prop := m.loftA = [] ∧ m.loftB = [] ∧ m.loftC = [] ∧ ∀ j, gget m.brands j = 0

theorem finishLoft_cleared (s : State) (r : StepResult) (k : Nat) : ((finishLoft s r).stall k).mem.Cleared := by
  rw [State.stall, finishLoft, (commitAll_same Same.refl (List.Subset.refl _)).kept .stalls (by decide)]
  exact gget_gmapAll_of_all (P := fun t : Stall => t.mem.Cleared) _ (fun _ => ⟨rfl, rfl, rfl, fun _ => rfl⟩) k

/-! PORTS (R454). -/

section
variable {s : State} {timedOut : Bool}

theorem finishPorts_of_bridge (hphase : s.dev.phase = 1) :
    finishPorts s timedOut = if (hostPort s).isSome then trainOthers s else if timedOut then failStep s 4 else s := by
  rw [finishPorts, if_pos hphase]

/-- A port is still in TRAIN or AUTH. -/
def PortTraining (s : State) : Prop := ∃ p : Nat, p < 144 ∧ ((s.port p).st = 2 ∨ (s.port p).st = 3)

theorem anyTraining_iff : (List.range 144).any (fun p => decide ((s.port p).st = 2 ∨ (s.port p).st = 3)) = true ↔ PortTraining s := by
  simp only [List.any_eq_true, List.mem_range, decide_eq_true_eq, PortTraining]

theorem finishPorts_of_training (hphase : s.dev.phase ≠ 1) (h : PortTraining s) : finishPorts s timedOut = s := by
  rw [finishPorts, if_neg hphase, if_pos (anyTraining_iff.2 h)]

/-- The ports that are enabled and not UP are counted in DEV.PORTSDOWN. -/
def portsCounted (s : State) : State :=
  { s with dev := { s.dev with portsdown := ((List.range 144).filter fun p => (s.port p).en && decide ((s.port p).st ≠ 4)).length } }

theorem finishPorts_of_trained (hphase : s.dev.phase ≠ 1) (h : ¬ PortTraining s) :
    finishPorts s timedOut = doneStep (laneChars (portsCounted s)) 7 := by
  rw [finishPorts, if_neg hphase, if_neg (mt anyTraining_iff.1 h), portsCounted]

theorem laneChars_dev (s : State) : (laneChars s).dev = s.dev := (laneChars_same Same.refl (List.Subset.refl _)).kept .dev (by decide)
theorem laneChars_ports (s : State) : (laneChars s).ports = s.ports := (laneChars_same Same.refl (List.Subset.refl _)).kept .ports (by decide)

end

/-! HOSTLER and READY (R455, R456). -/

/-- The Hostler starts with this image, and RXRDY of its mailboxes is clear. -/
def hostlerStarted (s : State) (i : ImageCheck) : State :=
  let u := loadHostler s
  { u with grm := { u.grm with harb := i.arb, mhostler := i.digest.toNat }, dev := { u.dev with phase := 1, hostlerUp := true },
           mbx := { u.mbx with boxes := gmodKeys u.mbx.boxes [2, 6, 9] (fun _ b => { b with rxrdy := false }) } }

section
variable {s : State} {timedOut : Bool}

theorem finishHostler_of_none (hphase : s.dev.phase = 0) : finishHostler s none timedOut = s := by rw [finishHostler, if_pos hphase]

theorem finishHostler_of_bad {i : ImageCheck} (hphase : s.dev.phase = 0) (h : imageOk s 2 i = false) :
    finishHostler s (some i) timedOut = failStep s 5 := by
  simp only [finishHostler, if_pos hphase, h, Bool.not_false, if_true]

theorem finishHostler_of_good {i : ImageCheck} (hphase : s.dev.phase = 0) (h : imageOk s 2 i = true) :
    finishHostler s (some i) timedOut = hostlerStarted s i := by
  simp only [finishHostler, if_pos hphase, h, Bool.not_true, Bool.false_eq_true, if_false, hostlerStarted]

theorem hostlerStarted_rxrdy (hs : gwf s.mbx.boxes = true) (i : ImageCheck) : ((hostlerStarted s i).box 9).rxrdy = false := by
  have hboxes : (loadHostler s).mbx = s.mbx := (loadHostler_same Same.refl (List.Subset.refl _)).kept .mbx (by decide)
  refine gget_gmodKeys_of_mem (P := fun b : Mailbox => b.rxrdy = false) ?_ (fun _ => rfl) (by decide)
  rwa [hboxes]

theorem finishHostler_of_started {image : Option ImageCheck} (hphase : s.dev.phase ≠ 0) :
    finishHostler s image timedOut = if (s.box 9).rxrdy then doneStep s 8 else if timedOut then failStep s 6 else s := by
  unfold finishHostler
  rw [if_neg hphase]

/-- A yard is lame or a shed ABSENT. -/
def Broken (s : State) : Prop := (∃ y : Nat, y < 64 ∧ (s.yard y).lame = true) ∨ (∃ k : Nat, k < 4096 ∧ (s.shed k).absent = true)

theorem broken_iff :
    ((List.range 64).any (fun y => (s.yard y).lame) || (List.range 4096).any (fun k => (s.shed k).absent)) = true ↔ Broken s := by
  simp only [Bool.or_eq_true, List.any_eq_true, List.mem_range, Broken]

/-- The device has come up in this state: the lock is set and the time taken is noted. -/
def readyIn (s : State) (ms st : Nat) : State :=
  { s with
    dev := { s.dev with st := st, btime := ms % 2 ^ 32, done := 9, busy := false, runStep := 0, phase := 0 }, grm := { s.grm with lock := true } }

theorem finishReady_of_broken (h : Broken s) (ms : Nat) : finishReady s ms = readyIn s ms 5 := by
  simp only [finishReady, if_pos (broken_iff.2 h)]
  exact doneStep_of_last (Or.inr (Nat.le_refl 9))

theorem finishReady_of_whole (h : ¬ Broken s) (ms : Nat) : finishReady s ms = readyIn s ms 3 := by
  simp only [finishReady, if_neg (mt broken_iff.1 h)]
  exact doneStep_of_last (Or.inr (Nat.le_refl 9))

end

end Sys2Proof.Machine

namespace Sys2Proof.Proofs
open Sys2Proof Sys2Proof.Machine

/-- Settles O59: a command by the checks of the word that it writes, the end of a step by the step's own equation. -/
theorem bringUpSteps : Obligations.BringUpSteps := by
  unfold Obligations.BringUpSteps
  intro s hs started begun failed trains ends nextOf
  refine ⟨?start, fun k hk => beginStep_of_ne hk, ?bridgeless, ?bridge, fun k => ⟨doneStep_of_last, doneStep_of_auto⟩,
    fun r h => execBootStepComplete_of_idle h r, ?trackQuiet, ?track, ?coreShed, ?core, ?clocks,
    fun r h => execBootStepComplete_of_running h r, ?test, ?remap, ?loft, ?portsBridge, ?ports, ?hostler, ?hostlerUp, ?ready⟩
  case start =>
    intro o auto hsrc k c hc
    obtain ⟨hk, hexec⟩ := exec_step s hc
    rw [hexec]
    refine ⟨fun ho => congrArg _ (asAuth_of_unauthenticated ho ..), fun ho hno => ?_, fun ho hok h7 => ?_, fun ho hok h7 => ?_⟩
    all_goals rw [asAuth_of_authenticated ho]
    · rw [writeBootctl_of_unready hk hno, answer]
    · rw [writeBootctl_of_ready hk hok, beginStep_of_ne h7]
      rfl
    · subst h7
      rw [writeBootctl_of_ready hk hok, beginStep_seven, beginStep_seven]
      rfl
  case bridgeless => exact fun h => (beginStep_of_no_bridge (bridgePort_none h)).trans (trainOthers_eq _)
  case bridge => exact fun p hp hhost hen hfirst => beginStep_of_bridge hs.ports (bridgePort_some hp hhost hen hfirst)
  case trackQuiet =>
    intro r h htrips
    refine ⟨trackOn s, (execBootStepComplete_of_running h r).trans ?_, fun y hy => trackOn_yard hs.yards hy, trackOn_dev s⟩
    simp only [stepEnd, finishTrack_eq, htrips, List.foldl_nil]
  case track =>
    refine fun r h => ⟨trackOn s, fun y hy => trackOn_yard hs.yards hy, ?_⟩
    rw [← finishTrack_eq]
    exact execBootStepComplete_of_running h r
  case coreShed => exact fun r h hshed => (execBootStepComplete_of_running h r).trans (congrArg _ (if_pos hshed))
  case core =>
    exact fun r h hshed => ⟨coreOn s, fun y hy => coreOn_yard hs.yards hy,
      (execBootStepComplete_of_running h r).trans (congrArg _ (if_neg (Bool.eq_false_iff.1 hshed)))⟩
  case clocks => exact fun r h => ⟨finishClocks s, execBootStepComplete_of_running h r, finishClocks_dev s, fun n hn => finishClocks_pshed hs.psheds hn⟩
  case test =>
    refine fun u => ⟨testFail_of_bad, fun h => ?_⟩
    rw [testFail_bad h]
    exact ⟨List.mem_append_right _ (List.mem_singleton_self u), fun v hv => List.mem_append_left _ hv⟩
  case remap =>
    intro r h
    obtain ⟨hA, hB, hinj, hdrained⟩ := buildRoutes_routes (buildRemap s)
    refine ⟨_, execBootStepComplete_of_running h r, hA, hB, hinj, hdrained, fun y hy => ?_, fun k hk => ?_⟩
    · rw [buildRoutes_yard, buildRemap_yard hs.yards hy]
      exact buildYard_lame ..
    · rw [buildRoutes_shed, buildRoutes_yard]
      exact buildRemap_shed hs.sheds hk
  case loft => exact fun r h => ⟨_, execBootStepComplete_of_running h r, finishLoft_cleared s r⟩
  case portsBridge =>
    intro r h hphase
    have hends : ends r = .next (finishPorts s r.timedOut) := execBootStepComplete_of_running h r
    rw [hends, finishPorts_of_bridge hphase]
    refine ⟨fun hup => ?_, fun hno hin => ?_, fun hno hout => ?_⟩
    · rw [if_pos hup, trainOthers_eq]
    · rw [hno, hin]
      rfl
    · rw [hno, hout]
      rfl
  case ports =>
    intro r h hphase
    have hends : ends r = .next (finishPorts s r.timedOut) := execBootStepComplete_of_running h r
    rw [hends]
    refine ⟨fun htrain => congrArg _ (finishPorts_of_training hphase htrain), fun hall => ?_⟩
    refine ⟨_, congrArg _ (finishPorts_of_trained hphase ?_), laneChars_ports _, laneChars_dev _⟩
    rintro ⟨p, hp, h2 | h3⟩
    · exact (hall p hp).1 h2
    · exact (hall p hp).2 h3
  case hostler =>
    intro r h hphase
    have hends : ends r = .next (finishHostler s r.image r.timedOut) := execBootStepComplete_of_running h r
    rw [hends]
    refine ⟨fun hi => ?_, fun i hi hbad => ?_, fun i hi hgood => ?_⟩
    · rw [hi, finishHostler_of_none hphase]
    · rw [hi, finishHostler_of_bad hphase hbad, failStep]
    · rw [hi, finishHostler_of_good hphase hgood]
      exact ⟨_, rfl, rfl, rfl, rfl, rfl, hostlerStarted_rxrdy hs.boxes i⟩
  case hostlerUp =>
    intro r h hphase
    have hends : ends r = .next (finishHostler s r.image r.timedOut) := execBootStepComplete_of_running h r
    rw [hends, finishHostler_of_started hphase]
    refine ⟨fun hrx => ?_, fun hrx hout => ?_, fun hrx hin => ?_⟩
    · rw [if_pos hrx]
    · rw [hrx, hout]
      rfl
    · rw [hrx, hin]
      rfl
  case ready =>
    intro r h
    have hends : ends r = .next (finishReady s r.elapsedMs) := execBootStepComplete_of_running h r
    rw [hends]
    exact ⟨fun hbroken => congrArg _ (finishReady_of_broken hbroken _), fun hwhole => congrArg _ (finishReady_of_whole hwhole _)⟩

end Sys2Proof.Proofs
end

section
/-! PROOFS. Resets, power, the I3C target and the TAP (R444-R479): a warm reset by the section it finds, what a warm reset leaves block by
block, a private write by its length, and from these O60. -/

namespace Sys2Proof.Machine

/-! What asks for a reset (R457-R461). -/

theorem placeIn_none_of_subset {s : State} {as bs : List Nat} (hab : as ⊆ bs) (h : placeIn s bs = none) : placeIn s as = none := by
  rw [placeIn, List.find?_eq_none] at h ⊢
  intro p hp ha
  exact h p hp (List.contains_iff_mem.2 (hab (List.contains_iff_mem.1 ha)))

theorem runningPlace_none_of_activePlace {s : State} (h : activePlace s = none) : runningPlace s = none :=
  placeIn_none_of_subset (by decide) h

/-- A warm reset goes on at once, or waits for the end of ABORTING. -/
def warmGo (s : State) : State := if (activePlace s).isSome then { s with dev := { s.dev with warmBusy := true } } else finishWarm s

section
variable {s : State}

theorem writeReset_warm : writeReset 1 s = warmReset s := rfl

theorem warmReset_of_early (h3 : s.dev.st ≠ 3) (h4 : s.dev.st ≠ 4) (h5 : s.dev.st ≠ 5) :
    warmReset s = { s with dev := { s.dev with resetRefused := true } } := by
  rw [warmReset, if_pos ⟨h3, h4, h5⟩]

section
variable (h : s.dev.st = 3 ∨ s.dev.st = 4 ∨ s.dev.st = 5)
include h

theorem warmReset_of_running {p : Nat} (hp : runningPlace s = some p) : warmReset s = warmGo (abortNow s p 1) := by
  rw [warmReset, if_neg (by omega), hp, warmGo]

theorem warmReset_of_not_running (hp : runningPlace s = none) : warmReset s = warmGo s := by
  rw [warmReset, if_neg (by omega), hp, warmGo]

end

theorem warmGo_of_active (h : (activePlace s).isSome = true) : warmGo s = { s with dev := { s.dev with warmBusy := true } } := if_pos h

theorem warmGo_of_inactive (h : activePlace s = none) : warmGo s = finishWarm s := by
  rw [warmGo, h]
  rfl

end

/-! What a warm reset leaves (R460). -/

section
variable {s : State}

theorem finishWarm_yard (hs : gwf s.yards = true) (y : Nat) : (finishWarm s).yard y = (s.yard y).opened := gget_gmapAll hs ..

theorem finishWarm_shed (hs : gwf s.sheds = true) (k : Nat) : (finishWarm s).shed k = (s.shed k).warm := gget_gmapAll hs ..

/-- A physical shed after a warm reset: it has passed through D4. -/
def PShed.warm (p : PShed) : PShed :=
  { p with depth := if p.live then 4 else p.depth, waking := false, wakeReq := false, openLatched := false, parked := false, proposed := 0,
           vetoed := false, bduty := 0, droops := 0, stretch := 0 }

theorem finishWarm_pshed (hs : gwf s.psheds = true) (n : Nat) : (finishWarm s).pshed n = (s.pshed n).warm := gget_gmapAll hs ..

theorem finishWarm_stall (hs : gwf s.stalls = true) (k : Nat) : (finishWarm s).stall k = (s.stall k).warm := gget_gmapAll hs ..

theorem finishWarm_port (hs : gwf s.ports = true) (p : Nat) : (finishWarm s).port p = (s.port p).warm := gget_gmapAll hs ..

end

/-- A byte with VALID cleared. -/
def byteUnvalid (c : Mem) (a : Nat) : Mem := Memory.write c a (Memory.read c a &&& 0xFE#8)

/-- Clearing VALID at an address leaves it clear there, and wherever it was clear. -/
theorem byteUnvalid_valid {c : Mem} (h : Memory.wf c = true) (a b : Nat) (hb : a = b ∨ (Memory.read c b).getLsbD 0 = false) :
    (Memory.read (byteUnvalid c a) b).getLsbD 0 = false := by
  rw [byteUnvalid, Memory.read_write h]
  split
  · simp
  · next hne => exact hb.resolve_left (Ne.symm hne)

theorem foldl_byteUnvalid_valid {c : Mem} (h : Memory.wf c = true) (a : Nat → Nat) (ps : List Nat) (b : Nat)
    (hb : (∃ p ∈ ps, a p = b) ∨ (Memory.read c b).getLsbD 0 = false) :
    (Memory.read (ps.foldl (fun c p => byteUnvalid c (a p)) c) b).getLsbD 0 = false := by
  induction ps generalizing c with
  | nil => exact hb.resolve_left fun ⟨_, hp, _⟩ => List.not_mem_nil hp
  | cons q ps ih =>
    refine ih (Memory.wf_write h ..) ?_
    rcases hb with ⟨p, hp, hab⟩ | hb
    · rcases List.mem_cons.1 hp with rfl | hp
      · exact Or.inr (byteUnvalid_valid h _ _ (Or.inl hab))
      · exact Or.inl ⟨p, hp, hab⟩
    · exact Or.inr (byteUnvalid_valid h _ _ (Or.inr hb))

/-- No rack entry of an unracked stall is valid. -/
theorem unracked_valid {m : StallMem} (h : Memory.wf m.loftC = true) {p : Nat} (hp : p < 7) :
    (Memory.read m.unracked.loftC (0x1FC4A + p * 0x80)).getLsbD 0 = false :=
  foldl_byteUnvalid_valid h (fun p => 0x1FC4A + p * 0x80) _ _ (Or.inl ⟨p, List.mem_range.2 hp, rfl⟩)

/-! I3C (R477, R478). -/

theorem padTo_length (n : Nat) (bs : List Byte) : (padTo n bs).length = n := by
  rw [padTo, List.length_take, List.length_append, List.length_replicate]
  omega

/-- The lengths of a private write that carries a transaction, with the WLEN it may name. -/
def I3cFits (op wlen len : Nat) : Prop :=
  op = 0 ∧ len = 6 ∨ op = 1 ∧ len = 14 ∨ op = 2 ∧ len = 8 ∧ 1 ≤ wlen ∧ wlen ≤ 224 ∨ op = 3 ∧ len = 8 + wlen ∧ 1 ≤ wlen ∧ wlen ≤ 224

theorem i3cRefused_iff {op wlen len : Nat} :
    (3 < op ∨ len ≠ (if op = 0 then 6 else if op = 1 then 14 else if op = 2 then 8 else 8 + wlen) ∨ (2 ≤ op ∧ (wlen < 1 ∨ 224 < wlen))) ↔
      ¬ I3cFits op wlen len := by
  unfold I3cFits
  split_ifs <;> omega

theorem i3cTrans_eq_some {bytes : List Byte} {t : Trans} :
    i3cTrans bytes = some t ↔
      I3cFits (leAt bytes 0 1) (leAt bytes 6 2) bytes.length ∧
        t = { op := leAt bytes 0 1, addr := leAt bytes 1 5, data := leAt bytes 6 8, wlen := leAt bytes 6 2, wdata := bytes.drop 8 } := by
  rw [i3cTrans]
  by_cases hfits : I3cFits (leAt bytes 0 1) (leAt bytes 6 2) bytes.length
  · rw [if_neg (mt i3cRefused_iff.1 (not_not_intro hfits)), Option.some_inj, and_iff_right hfits, eq_comm]
  · rw [if_pos (i3cRefused_iff.2 hfits)]
    exact iff_of_false nofun fun h => hfits h.1

/-- SETDASA and ENTDAA leave a target the address that it has, or else the one they carry. -/
theorem i3cCommand_address (i : I3c) (a : BitVec 7) :
    (if i.addr.isSome then i else { i with addr := some a }) = { i with addr := some (i.addr.getD a) } := by
  obtain ⟨_ | b⟩ := i <;> rfl

section
variable {s : State}

theorem execI3cTransaction_of_off (h : s.dev.st = 0) (op : I3cOp) : execI3cTransaction op s = .next s := congrArg _ (if_pos h)

theorem execI3cCcc_of_off (h : s.dev.st = 0) (c : I3cCcc) : execI3cCcc c s = .next s := by rw [execI3cCcc, if_pos h]

theorem execI3cTransaction_read (h : s.dev.st ≠ 0) : execI3cTransaction .privateRead s = .next (i3cRead s) := by
  rw [execI3cTransaction, if_neg h]

theorem execI3cTransaction_write (h : s.dev.st ≠ 0) (bytes : List Byte) :
    execI3cTransaction (.privateWrite bytes) s = .next (i3cWrite bytes s) := by
  rw [execI3cTransaction, if_neg h]

theorem i3cWrite_of_none {bytes : List Byte} (ht : i3cTrans bytes = none) :
    i3cWrite bytes s = { s with i3c := { s.i3c with unread := some [4] } } := by
  rw [i3cWrite, ht]

theorem i3cWrite_of_some {bytes : List Byte} {t : Trans} (ht : i3cTrans bytes = some t) :
    i3cWrite bytes s =
      let u := transact .i3c t s
      { u with i3c := { u.i3c with unread := some (i3cAnswer t u.resp) } } := by
  rw [i3cWrite, ht]

theorem execI3cCcc_of_on (h : s.dev.st ≠ 0) (c : I3cCcc) :
    execI3cCcc c s = .next { s with fresh := s.fresh + 1, i3c := i3cCommand c s.fresh s.i3c } := by
  rw [execI3cCcc, if_neg h, takeFresh]

/-! Power, the reset pin and the TAP (R444, R474, R475, R479). -/

theorem execResetPin_of_off (h : s.dev.st = 0) (low : LowTime) : execResetPin low s = .next s := congrArg _ (if_pos h)

theorem execResetPin_long (h : s.dev.st ≠ 0) : execResetPin .long s = .next s.cold := by rw [execResetPin, if_neg h]

theorem execResetPin_short (h : s.dev.st ≠ 0) : execResetPin .short s = .next s := by rw [execResetPin, if_neg h]

/-- Between 8 and 10 us a low RESET# is free to reset or not. -/
theorem execResetPin_between (h : s.dev.st ≠ 0) :
    execResetPin .between s = .next { s with fresh := s.fresh + 1 } ∨ execResetPin .between s = .next { s with fresh := s.fresh + 1 }.cold := by
  have hexec : execResetPin .between s = .next (
      if Config.freeReset s.fresh then { s with fresh := s.fresh + 1 }.cold else { s with fresh := s.fresh + 1 }) := congrArg _ (if_neg h)
  rw [hexec]
  by_cases hfree : Config.freeReset s.fresh = true
  · exact Or.inr (congrArg _ (if_pos hfree))
  · exact Or.inl (congrArg _ (if_neg hfree))

/-- The presence of the feeds is as given. -/
def fed (s : State) (a b : Bool) : State := { s with pwr := { s.pwr with feeda := a, feedb := b } }

theorem execFeedChange_eq (feedB present rideThrough : Bool) :
    execFeedChange feedB present rideThrough s = .next (
      let a := if feedB then s.pwr.feeda else present
      let b := if feedB then present else s.pwr.feedb
      if a = true ∨ b = true ∨ rideThrough = true ∨ s.dev.st = 0 then fed s a b else (fed s a b).off) := by
  cases feedB <;> simp [execFeedChange, fed, or_assoc]

theorem execPowerOn_of_on (h : s.dev.st ≠ 0) (feedB : Bool) : execPowerOn feedB s = .next s := by rw [execPowerOn, if_pos h]

theorem execPowerOn_of_off (h : s.dev.st = 0) (feedB : Bool) :
    execPowerOn feedB s = .next (
      let t := fed s (s.pwr.feeda || !feedB) (s.pwr.feedb || feedB)
      if s.pins.resetN then t.cold else t) := by
  cases feedB <;> simp [execPowerOn, fed, h]

theorem execExtest_of_not_boot {bits : List Bool} (h : s.dev.st ≠ 1) : execExtest bits s = execBypass s := congrArg _ (if_pos h)

theorem execExtest_of_boot {bits : List Bool} (h : s.dev.st = 1) :
    execExtest bits s = .next { s with
      fresh := s.fresh + 1, tap := { ir := 3, bsr := scanPad bits, driving := true, out := bitsNat (scanLevels { s with fresh := s.fresh + 1 } s.fresh) } } :=
  congrArg _ (if_neg (not_not_intro h))

end

end Sys2Proof.Machine

namespace Sys2Proof.Proofs
open Sys2Proof Sys2Proof.Machine

/-- Settles O60: a warm reset goes by the section that it finds and is told block by block; the pins and the management ports go by their own equations. -/
theorem resetsPinsAndManagementPorts : Obligations.ResetsPinsAndManagementPorts := by
  unfold Obligations.ResetsPinsAndManagementPorts
  intro s hs
  refine ⟨?asked, ?cold, ?warm, ?pin, ?feed, ⟨rfl, rfl, rfl, rfl, rfl, rfl, rfl, rfl⟩, ?power, ?busOff, ?bus, fun _ _ => i3cTrans_eq_some,
    ?tap, rfl, rfl, rfl⟩
  case asked =>
    intro o
    refine ⟨fun ho => ⟨congrArg _ (asAuth_of_unauthenticated ho ..), congrArg _ (asAuth_of_unauthenticated ho ..)⟩,
      fun ho => congrArg _ (asAuth_of_authenticated ho ..), fun ho h3 h4 h5 => ?_, fun ho hup => ⟨fun hnone => ?_, fun hrun hact => ?_, fun p hp => ?_⟩⟩
    · refine congrArg _ ((asAuth_of_authenticated ho ..).trans ?_)
      rw [writeReset_warm, warmReset_of_early h3 h4 h5, answer]
    · refine congrArg _ ((asAuth_of_authenticated ho ..).trans ?_)
      rw [writeReset_warm, warmReset_of_not_running hup (runningPlace_none_of_activePlace hnone), warmGo_of_inactive hnone, answer]
    · refine congrArg _ ((asAuth_of_authenticated ho ..).trans ?_)
      rw [writeReset_warm, warmReset_of_not_running hup hrun, warmGo_of_active hact, answer]
    · intro a
      have hwarm : writeReset 1 s = warmGo a := warmReset_of_running hup hp
      clear_value a
      refine ⟨fun hnone => ?_, fun hact => ?_⟩
      · refine congrArg _ ((asAuth_of_authenticated ho ..).trans ?_)
        rw [hwarm, warmGo_of_inactive hnone, answer]
      · refine congrArg _ ((asAuth_of_authenticated ho ..).trans ?_)
        rw [hwarm, warmGo_of_active hact, answer]
  case cold =>
    exact ⟨rfl, rfl, rfl, rfl, rfl, rfl, rfl, rfl, rfl, rfl, rfl, rfl, rfl, rfl, rfl, rfl, rfl, rfl, rfl, rfl, rfl, rfl, rfl, rfl, rfl, rfl, rfl, rfl, rfl⟩
  case warm =>
    refine ⟨rfl, rfl, rfl, rfl, rfl, rfl, rfl, rfl, rfl, rfl, rfl, rfl, rfl, rfl, rfl, rfl, rfl, rfl, rfl, rfl, rfl, fun y => ?_, fun k => ?_, fun n => ?_,
      fun k => ?_, fun p => ?_, fun _ => rfl, fun _ => rfl⟩
    · rw [finishWarm_yard hs.yards]
      exact ⟨rfl, rfl, rfl, rfl⟩
    · rw [finishWarm_shed hs.sheds]
      exact ⟨rfl, rfl⟩
    · rw [finishWarm_pshed hs.psheds]
      exact ⟨rfl, rfl, fun hlive => if_pos hlive⟩
    · rw [finishWarm_stall hs.stalls]
      exact ⟨rfl, rfl, rfl, rfl, fun hwf p hp => unracked_valid hwf hp⟩
    · rw [finishWarm_port hs.ports]
      exact ⟨rfl, rfl, fun _ => rfl⟩
  case pin =>
    exact ⟨fun h low => execResetPin_of_off h low, fun h => ⟨execResetPin_long h, execResetPin_short h, execResetPin_between h⟩⟩
  case feed =>
    refine fun feedB present rideThrough => ⟨fun h => ?_, fun ha hb hride hst => ?_⟩
    · exact (execFeedChange_eq ..).trans (congrArg _ (if_pos h))
    · refine (execFeedChange_eq ..).trans (congrArg _ (if_neg ?_))
      rw [ha, hb, hride]
      simpa using hst
  case power =>
    refine fun feedB => ⟨fun h => execPowerOn_of_on h feedB, fun h hreset => ?_, fun h hreset => ?_⟩
    · exact (execPowerOn_of_off h feedB).trans (congrArg _ (if_pos hreset))
    · exact (execPowerOn_of_off h feedB).trans (congrArg _ (if_neg (Bool.eq_false_iff.1 hreset)))
  case busOff => exact fun h => ⟨execI3cTransaction_of_off h, execI3cCcc_of_off h⟩
  case bus =>
    refine fun h => ⟨execI3cTransaction_read h, fun bytes ht => ?_, fun bytes t ht => ?_, fun a => ⟨_, ⟨?_, ?_⟩, rfl⟩, execI3cCcc_of_on h _,
      execI3cCcc_of_on h _, execI3cCcc_of_on h _, fun c hc => ?_⟩
    · exact (execI3cTransaction_write h bytes).trans (congrArg _ (i3cWrite_of_none ht))
    · exact (execI3cTransaction_write h bytes).trans (congrArg _ (i3cWrite_of_some ht))
    · rw [← i3cCommand_address]
      exact execI3cCcc_of_on h _
    · rw [← i3cCommand_address]
      exact execI3cCcc_of_on h _
    · simp only [List.mem_cons, List.not_mem_nil, or_false] at hc
      rcases hc with rfl | rfl | rfl | rfl
      · exact ⟨_, padTo_length 6 Config.i3cPid, execI3cCcc_of_on h _⟩
      · exact ⟨[Config.i3cBcr], rfl, execI3cCcc_of_on h _⟩
      · exact ⟨[Config.i3cDcr], rfl, execI3cCcc_of_on h _⟩
      · exact ⟨leBytes 2 (Config.freeWord s.fresh).toNat, rfl, execI3cCcc_of_on h _⟩
  case tap =>
    refine fun bits => ⟨execExtest_of_not_boot, ?_, ⟨_, rfl, rfl, rfl, rfl, rfl⟩⟩
    by_cases h : s.dev.st = 1
    · exact ⟨_, execExtest_of_boot h, rfl, iff_of_true rfl h, fun _ => ⟨rfl, rfl⟩⟩
    · exact ⟨_, execExtest_of_not_boot h, rfl, iff_of_false Bool.false_ne_true h, fun h1 => absurd h1 h⟩

end Sys2Proof.Proofs
end

section
/-! PROOFS. The issue of a routine word and its ends (R45, R46, R65), scalar registers (R41) and the control words (R46-R49): what each word
ends in, by its operands, and from these O9 to O15. -/

namespace Sys2Proof.Machine

/-! The issue of a word: the word ends as its body says. -/

section
variable {s : State} {sid op : Nat} {fs : List (Nat × Nat)} {body : Stall → Nat → WordEnd}

/-- A word that the sequencer issues leaves what the end of its body leaves. -/
theorem Issues.next (h : Issues s sid op fs) (hop : unassignedOp op = false) {e : WordEnd} {t : State}
    (he : body (s.stall sid) (wordAt (s.stall sid)) = e) (ht : finishWord sid (s.stall sid).seq.pc e = t) :
    (Host.Outcome.next (issueWord s sid op body) : Host.Outcome State Fault Refusal) = .next t := by
  rw [issueWord_of_issues h hop, he, ht]

/-- A word retires with a stall beside records that leave the stalls alone. -/
theorem finish_retire_beside (hs : gwf s.stalls = true) {x : State} (hx : x.stalls = s.stalls) (u : Stall) (cost : Nat) (port : Bool) :
    finishWord sid (s.stall sid).seq.pc (.retire (putStall x sid u) cost port) = afterPort x sid u port cost := by
  rw [← stall_eq hx sid]
  exact finish_retire_port (hx ▸ hs) sid u cost port

/-- A word retires beside records that leave its stall alone. -/
theorem finish_retire_beside_self (hs : gwf s.stalls = true) {x : State} (hx : x.stalls = s.stalls) (cost : Nat) :
    finishWord sid (s.stall sid).seq.pc (.retire x cost false) = after x sid (s.stall sid) cost := by
  rw [← stall_eq hx sid]
  exact finish_retire_self (hx ▸ hs) sid cost

end

/-! Fields and bits. -/

theorem bitsOf_lt (v hi lo : Nat) : bitsOf v hi lo < 2 ^ (hi + 1 - lo) := Nat.mod_lt _ (Nat.two_pow_pos _)

/-- The signed value of a number is that of its low bits as a bit vector. -/
theorem signedOf_eq_toInt (w v : Nat) : signedOf w v = (BitVec.ofNat w v).toInt := by
  rw [BitVec.toInt_eq_toNat_cond, BitVec.toNat_ofNat]
  rfl

/-! Scalar registers (R41). -/

theorem Stall.setSreg_of_fixed {t : Stall} {i v : Nat} (h : i = 0 ∨ i = 27 ∨ i = 31) : t.setSreg i v = t := if_pos h

theorem Stall.setSreg_of_free {t : Stall} {i v : Nat} (h : ¬ (i = 0 ∨ i = 27 ∨ i = 31)) :
    t.setSreg i v = { t with seq := { t.seq with sregs := gset t.seq.sregs i (BitVec.ofNat 32 v) } } := if_neg h

/-- A write of a scalar register changes the registers alone. -/
theorem Stall.setSreg_frame (t : Stall) (i v : Nat) : ∃ r, t.setSreg i v = { t with seq := { t.seq with sregs := r } } := by
  by_cases h : i = 0 ∨ i = 27 ∨ i = 31
  · exact ⟨_, Stall.setSreg_of_fixed h⟩
  · exact ⟨_, Stall.setSreg_of_free h⟩

theorem Stall.sreg_lt (t : Stall) {sid : Nat} (hsid : sid < 1048576) (i : Nat) : t.sreg sid i < 2 ^ 32 := by
  unfold Stall.sreg
  split
  · decide
  split
  · omega
  split
  · exact Nat.mod_lt _ (by decide)
  · exact BitVec.isLt _

theorem Stall.sreg_setSreg {t : Stall} (h : gwf t.seq.sregs = true) (sid i v j : Nat) :
    (t.setSreg i v).sreg sid j = if j = 0 then 0 else if j = 27 then sid else if j = 31 then t.seq.cyc % 2 ^ 32
      else if j = i then v % 2 ^ 32 else t.sreg sid j := by
  by_cases hj : j = 0 ∨ j = 27 ∨ j = 31
  · obtain ⟨r, hr⟩ := t.setSreg_frame i v
    rw [hr]
    rcases hj with rfl | rfl | rfl <;> rfl
  obtain ⟨h0, hrest⟩ := not_or.1 hj
  obtain ⟨h27, h31⟩ := not_or.1 hrest
  rw [if_neg h0, if_neg h27, if_neg h31]
  by_cases hi : i = 0 ∨ i = 27 ∨ i = 31
  · rw [Stall.setSreg_of_fixed hi, if_neg fun (hji : j = i) => hj (hji ▸ hi)]
  · rw [Stall.setSreg_of_free hi]
    simp only [Stall.sreg, if_neg h0, if_neg h27, if_neg h31, gget_gset h]
    by_cases hji : j = i
    · rw [if_pos hji, if_pos hji, BitVec.toNat_ofNat]
    · rw [if_neg hji, if_neg hji]

/-! Branches and loops (R46, R47). -/

/-- What a taken branch leaves: the sequencer at the target, out of every loop whose body does not contain it. -/
def branched (s : State) (sid target : Nat) : State :=
  retired s sid (s.stall sid) target ((s.stall sid).seq.loops.filter fun l => l.first ≤ target ∧ target ≤ l.last) 2

theorem finish_jump_eq_branched {s : State} (h : gwf s.stalls = true) (sid target : Nat) :
    finishWord sid (s.stall sid).seq.pc (.jump s target 2) = branched s sid target := by
  rw [finish_jump h, branched]
  simp only [popLoops, Bool.decide_and]

theorem advance_of_end {pc : Nat} {l : Loop} (r : List Loop) (h : pc = l.last) :
    advance pc (l :: r) = if 0 < l.left then (l.first, { l with left := l.left - 1 } :: r) else advance pc r := if_pos h

theorem brCond_iff {a b : Nat} (ha : a < 2 ^ 32) (hb : b < 2 ^ 32) {cond : Nat} {c : Bool} (hc : cond < 6)
    (h : (cond, c) ∈ [(0, decide (BitVec.ofNat 32 a = BitVec.ofNat 32 b)), (1, decide (BitVec.ofNat 32 a ≠ BitVec.ofNat 32 b)),
      (2, (BitVec.ofNat 32 a).slt (BitVec.ofNat 32 b)), (3, !(BitVec.ofNat 32 a).slt (BitVec.ofNat 32 b)),
      (4, (BitVec.ofNat 32 a).ult (BitVec.ofNat 32 b)), (5, !(BitVec.ofNat 32 a).ult (BitVec.ofNat 32 b)), (6, c), (7, c)]) :
    brCond cond a b = c := by
  have heq : BitVec.ofNat 32 a = BitVec.ofNat 32 b ↔ a = b := by
    rw [← BitVec.toNat_inj, BitVec.toNat_ofNat, BitVec.toNat_ofNat, Nat.mod_eq_of_lt ha, Nat.mod_eq_of_lt hb]
  simp only [List.mem_cons, Prod.mk.injEq, List.not_mem_nil, or_false] at h
  rcases h with ⟨rfl, rfl⟩ | ⟨rfl, rfl⟩ | ⟨rfl, rfl⟩ | ⟨rfl, rfl⟩ | ⟨rfl, rfl⟩ | ⟨rfl, rfl⟩ | ⟨rfl, -⟩ | ⟨rfl, -⟩
  · simp only [brCond, heq]
  · simp only [brCond, ne_eq, heq]
  · simp only [brCond, BitVec.slt, signedOf_eq_toInt]
  · simp only [brCond, BitVec.slt, signedOf_eq_toInt, ← decide_not, Int.not_lt]
  · simp only [brCond, BitVec.ult, BitVec.toNat_ofNat, Nat.mod_eq_of_lt ha, Nat.mod_eq_of_lt hb]
  · simp only [brCond, BitVec.ult, BitVec.toNat_ofNat, Nat.mod_eq_of_lt ha, Nat.mod_eq_of_lt hb, ← decide_not, Nat.not_lt]
  · omega
  · omega

theorem exec_br_of_no_cond {s : State} {sid : StallId} (h : Issues s sid 0x06 [(57, 55), (54, 50), (49, 45), (8, 0)])
    (hc : 6 ≤ s.fld sid 57 55) : exec (.br sid) s = .next (stallFault s sid 1 (s.stall sid).seq.pc) := by
  have hcond : 5 < bitsOf (wordAt (s.stall sid)) 57 55 := hc
  refine h.next (e := .fault s fIllegal) rfl ?_ rfl
  simp only [hcond, decide_true, Bool.or_true, if_true]

section
variable {s : State} (hs : gwf s.stalls = true) {sid : StallId}
include hs

theorem exec_nop (h : Issues s sid 0x00 []) : exec (.nop sid) s = .next (after s sid (s.stall sid) 1) :=
  h.next rfl (if_pos h.fields) (finish_retire_self hs sid 1)

theorem exec_jmp (h : Issues s sid 0x07 [(57, 57), (54, 50), (8, 0)]) :
    exec (.jmp sid) s = .next (branched s sid (if s.fld sid 57 57 = 1 then s.reg sid (s.fld sid 54 50) % 512 else s.fld sid 8 0)) := by
  refine h.next (e := .jump s _ 2) rfl ?_ (finish_jump_eq_branched hs sid _)
  simp only [h.fields, bit_iff, decide_eq_true_eq, Bool.not_true, Bool.false_eq_true, if_false]
  rfl

theorem exec_br_of_cond (h : Issues s sid 0x06 [(57, 55), (54, 50), (49, 45), (8, 0)]) (hc : s.fld sid 57 55 < 6) :
    exec (.br sid) s = .next (
      if brCond (s.fld sid 57 55) (s.reg sid (s.fld sid 54 50)) (s.reg sid (s.fld sid 49 45)) then branched s sid (s.fld sid 8 0)
      else after s sid (s.stall sid) 1) := by
  have hcond : ¬ 5 < bitsOf (wordAt (s.stall sid)) 57 55 := Nat.not_lt.2 (Nat.le_of_lt_succ hc)
  refine h.next rfl (e := if brCond (s.fld sid 57 55) (s.reg sid (s.fld sid 54 50)) (s.reg sid (s.fld sid 49 45)) then
    .jump s (s.fld sid 8 0) 2 else .retire s 1 false) ?_ ?_
  · simp only [h.fields, hcond, decide_false, Bool.not_true, Bool.or_false, Bool.false_eq_true, if_false]
    rfl
  · split
    · exact finish_jump_eq_branched hs sid _
    · exact finish_retire_self hs sid 1

end

/-! LOOP (R47). -/

/-- The stack allows no loop to LAST here: LAST is not beyond the word, it lies beyond the enclosing loop, or the stack is full. -/
def Stall.NoLoopTo (t : Stall) (last : Nat) : Prop :=
  last ≤ t.seq.pc ∨ (∃ l r, t.seq.loops = l :: r ∧ l.last < last) ∨ 4 ≤ t.seq.loops.length

theorem Stall.noLoopTo_iff {t : Stall} {last : Nat} (hlast : last ≤ 511) :
    last ≤ t.seq.pc ∨ (match t.seq.loops with | [] => 511 | l :: _ => l.last) < last ∨ 4 ≤ t.seq.loops.length ↔ t.NoLoopTo last := by
  refine or_congr_right (or_congr_left ?_)
  cases t.seq.loops with
  | nil => exact iff_of_false (Nat.not_lt.2 hlast) fun ⟨_, _, h, _⟩ => nomatch h
  | cons l r => exact ⟨fun h => ⟨l, r, rfl, h⟩, fun ⟨_, _, h, hlt⟩ => (List.cons.inj h).1 ▸ hlt⟩

/-- The loop that LOOP pushes on the stack of its stall. -/
def Stall.pushLoop (t : Stall) (last count : Nat) : Stall :=
  { t with seq := { t.seq with loops := ⟨t.seq.pc + 1, last, count - 1⟩ :: t.seq.loops } }

section
variable {s : State} {sid : StallId} (h : Issues s sid 0x02 [(57, 57), (56, 52), (51, 36), (8, 0)])
include h

theorem exec_loop_of_noLoop (hno : (s.stall sid).NoLoopTo (s.fld sid 8 0)) :
    exec (.loop sid) s = .next (stallFault s sid 4 (s.stall sid).seq.pc) := by
  refine h.next (e := .fault s fLoop) rfl ?_ rfl
  have hlast : s.fld sid 8 0 ≤ 511 := Nat.le_of_lt_succ (bitsOf_lt _ 8 0)
  simp only [h.fields, Bool.not_true, Bool.false_eq_true, if_false]
  exact if_pos ((Stall.noLoopTo_iff hlast).2 hno)

theorem exec_loop_of_loop (hs : gwf s.stalls = true) (hno : ¬ (s.stall sid).NoLoopTo (s.fld sid 8 0)) {count : Nat}
    (hcount : (if s.fld sid 57 57 = 1 then s.reg sid (s.fld sid 56 52) else s.fld sid 51 36) = count) :
    exec (.loop sid) s = .next (
      if count = 0 then goesOn s sid (s.stall sid) (s.fld sid 8 0) 1
      else after s sid ((s.stall sid).pushLoop (s.fld sid 8 0) count) 1) := by
  have hlast : s.fld sid 8 0 ≤ 511 := Nat.le_of_lt_succ (bitsOf_lt _ 8 0)
  refine h.next rfl (e := if count = 0 then .skipTo s (s.fld sid 8 0) 1
    else .retire (putStall s sid ((s.stall sid).pushLoop (s.fld sid 8 0) count)) 1 false) ?_ ?_
  · simp only [h.fields, bit_iff, decide_eq_true_eq, Bool.not_true, Bool.false_eq_true, if_false, ← hcount]
    exact if_neg fun hnot => hno ((Stall.noLoopTo_iff hlast).1 hnot)
  · split
    · exact finish_skip hs sid _ 1
    · exact finish_retire hs sid _ 1

end

/-! END (R33, R46, R66, R67, R144, R150). -/

/-- The queue unit with a bound message released, where one is bound. -/
def QueueUnit.releaseOf (u : QueueUnit) (bound : Option Nat) : QueueUnit := bound.elim u u.release

section
variable {u : QueueUnit} (bound : Option Nat)

theorem QueueUnit.gwf_releaseOf (h : gwf u.queues = true) : gwf (u.releaseOf bound).queues = true := by
  cases bound with
  | none => exact h
  | some id => exact gwf_gmapAll h _

/-- A queue holds what it held, without the released message. -/
theorem QueueUnit.mem_releaseOf (h : gwf u.queues = true) (n : Nat) (m : QMsg) :
    m ∈ gget (u.releaseOf bound).queues n ↔ m ∈ gget u.queues n ∧ bound ≠ some m.id := by
  cases bound with
  | none => exact (and_iff_left nofun).symm
  | some id =>
    rw [show (u.releaseOf (some id)).queues = gmapAll u.queues fun l => l.filter fun m => decide (m.id ≠ id) from rfl, gget_gmapAll h,
      List.mem_filter, decide_eq_true_iff]
    exact and_congr_right' (not_congr ⟨fun he => congrArg some he.symm, fun he => (Option.some.inj he).symm⟩)

theorem QueueUnit.releaseOf_frame (u : QueueUnit) :
    (u.releaseOf bound).slots = u.slots ∧ (u.releaseOf bound).pen = u.pen ∧ (u.releaseOf bound).tallies = u.tallies ∧
      (u.releaseOf bound).ej = u.ej ∧ (u.releaseOf bound).landing = u.landing := by
  cases bound <;> exact ⟨rfl, rfl, rfl, rfl, rfl⟩

end

theorem Stall.releaseBound_zero (t : Stall) :
    t.releaseBound 0 = { t with seq := { t.seq with bound0 := none }, qu := t.qu.releaseOf t.seq.bound0 } := by
  rw [Stall.releaseBound, if_pos rfl]
  cases hb : t.seq.bound0 with
  | none =>
    have hself : t.seq = { t.seq with bound0 := none } := by rw [← hb]
    exact congrArg (fun q => { t with seq := q }) hself
  | some id => rfl

theorem Stall.releaseBound_one (t : Stall) :
    t.releaseBound 1 = { t with seq := { t.seq with bound1 := none }, qu := t.qu.releaseOf t.seq.bound1 } := by
  rw [Stall.releaseBound, if_neg Nat.one_ne_zero]
  cases hb : t.seq.bound1 with
  | none =>
    have hself : t.seq = { t.seq with bound1 := none } := by rw [← hb]
    exact congrArg (fun q => { t with seq := q }) hself
  | some id => rfl

/-- The queue unit that END leaves: both bound messages released, and the CYCLES of the routine's watch slots counted. -/
def Stall.endedQu (t : Stall) (h : Shed) : QueueUnit :=
  { (t.qu.releaseOf t.seq.bound0).releaseOf t.seq.bound1 with
    wcycles := match t.seq.dispCyc with
      | none => t.qu.wcycles
      | some c0 => gmodKeys t.qu.wcycles (watchSlots h t.seq.tag) fun _ n => satAdd 32 n (t.seq.cyc + 1 - c0) }

theorem Stall.ended_eq (t : Stall) (h : Shed) (fin : Bool) :
    t.ended h fin = { t with
      seq := { t.seq with loops := [], fin := t.seq.fin || fin, run := if t.seq.fin || fin then 6 else 0, cyc := t.seq.cyc + 1, dispCyc := none,
                          retired := (t.seq.retired + 1) % 2 ^ 48, bound0 := none, bound1 := none }
      qu := t.endedQu h } := by
  rw [Stall.ended, Stall.releaseBound_zero, Stall.releaseBound_one]
  rfl

theorem Stall.mem_endedQu {t : Stall} (hq : gwf t.qu.queues = true) (h : Shed) (n : Nat) (m : QMsg) :
    m ∈ gget (t.endedQu h).queues n ↔ m ∈ gget t.qu.queues n ∧ ¬ (t.seq.bound0 = some m.id ∨ t.seq.bound1 = some m.id) := by
  show m ∈ gget ((t.qu.releaseOf t.seq.bound0).releaseOf t.seq.bound1).queues n ↔ _
  rw [QueueUnit.mem_releaseOf _ (QueueUnit.gwf_releaseOf _ hq), QueueUnit.mem_releaseOf _ hq, and_assoc, not_or]

theorem Stall.endedQu_frame (t : Stall) (h : Shed) :
    (t.endedQu h).slots = t.qu.slots ∧ (t.endedQu h).pen = t.qu.pen ∧ (t.endedQu h).tallies = t.qu.tallies ∧
      (t.endedQu h).ej = t.qu.ej ∧ (t.endedQu h).landing = t.qu.landing := by
  obtain ⟨hslots, hpen, htallies, hej, hlanding⟩ := t.qu.releaseOf_frame t.seq.bound0
  obtain ⟨hslots', hpen', htallies', hej', hlanding'⟩ := (t.qu.releaseOf t.seq.bound0).releaseOf_frame t.seq.bound1
  exact ⟨hslots'.trans hslots, hpen'.trans hpen, htallies'.trans htallies, hej'.trans hej, hlanding'.trans hlanding⟩

/-- A shed's watchdog starts again unless it holds after firing (R148, R150). -/
def Shed.restarted (h : Shed) : Shed := if h.fired && !h.cause then h else { h with progCount := 0 }

theorem Shed.restarted_eq (h : Shed) :
    h.restarted = if h.fired = true ∧ h.cause = false then h else { h with progCount := 0 } :=
  ite_congr (by rw [Bool.and_eq_true, Bool.not_eq_true']) (fun _ => rfl) (fun _ => rfl)

section
variable {s : State} {sid : StallId} (h : Issues s sid 0x01 [(0, 0)])
include h

theorem exec_end_of_busy (hs : gwf s.stalls = true) (hjobs : (s.stall sid).eng.jobs ≠ []) : exec (.endW sid) s = .next (holds s sid 1) := by
  have hbusy : (s.stall sid).eng.jobs.isEmpty = false := List.isEmpty_eq_false_iff.2 hjobs
  refine h.next (e := .hold s 1) rfl ?_ (finish_hold hs sid 1)
  simp only [h.fields, hbusy, Bool.not_true, Bool.not_false, Bool.false_eq_true, if_false, if_true]

theorem exec_end_of_idle (hjobs : (s.stall sid).eng.jobs = []) :
    exec (.endW sid) s = .next { s with
      sheds := gmod s.sheds (shedOf sid) Shed.restarted,
      stalls := gset s.stalls sid ((s.stall sid).ended (s.shed (shedOf sid)) (decide (s.fld sid 0 0 = 1))) } := by
  refine h.next (e := .done _) rfl ?_ rfl
  simp only [h.fields, hjobs, bit_iff, List.isEmpty_nil, Bool.not_true, Bool.false_eq_true, if_false]
  rfl

end

/-! BRT (R46, R48). -/

/-- The operand of the BRT at a stall's PC. -/
def brtOperand (s : State) (sid : Nat) : Nat := if s.fld sid 54 54 = 1 then s.reg sid (s.fld sid 48 44) else s.fld sid 31 16

/-- The BRT at a stall's PC is legal: neither operand is above 32,767, and one that waits has no target. -/
def BrtLegal (s : State) (sid : Nat) : Prop :=
  s.fld sid 31 16 ≤ 32767 ∧ brtOperand s sid ≤ 32767 ∧ (s.fld sid 57 57 = 1 → s.fld sid 8 0 = 0)

/-- The comparison of the BRT at a stall's PC. -/
def brtMet (s : State) (sid : Nat) : Bool :=
  brtCond (s.fld sid 56 55) (gget (s.stall sid).qu.tallies (s.fld sid 53 49)) (brtOperand s sid)

theorem brtCond_iff {cond v x : Nat} (h : cond < 4) :
    brtCond cond v x = true ↔ (cond = 0 ∧ v ≥ x) ∨ (cond = 1 ∧ v < x) ∨ (cond = 2 ∧ v = x) ∨ (cond = 3 ∧ v ≠ x) := by
  have hcases : cond = 0 ∨ cond = 1 ∨ cond = 2 ∨ cond = 3 := by omega
  rcases hcases with rfl | rfl | rfl | rfl <;> simp [brtCond]

section
variable {s : State} {sid : StallId}
  (h : Issues s sid 0x03 [(57, 57), (56, 55), (54, 54), (53, 49), (48, 44), (31, 16), (8, 0)])
include h

theorem brtWord_of_illegal (hl : ¬ BrtLegal s sid) : brtWord s sid (s.stall sid) (wordAt (s.stall sid)) = .fault s fIllegal := by
  simp only [brtWord, h.fields, bit_iff, decide_eq_true_eq, Bool.not_true, Bool.false_eq_true, if_false]
  refine if_pos (by_contra fun hno => hl ?_)
  obtain ⟨hx, hrest⟩ := not_or.1 hno
  obtain ⟨himm, hwait⟩ := not_or.1 hrest
  exact ⟨Nat.not_lt.1 himm, Nat.not_lt.1 hx, fun hw => by_contra fun ht => hwait ⟨hw, ht⟩⟩

theorem brtWord_of_legal (hl : BrtLegal s sid) :
    brtWord s sid (s.stall sid) (wordAt (s.stall sid)) =
      if s.fld sid 57 57 = 1 then (if brtMet s sid then .retire s 1 false else .hold s 3)
      else if brtMet s sid then .jump s (s.fld sid 8 0) 2 else .retire s 1 false := by
  obtain ⟨himm, hx, hwait⟩ := hl
  simp only [brtWord, h.fields, bit_iff, decide_eq_true_eq, Bool.not_true, Bool.false_eq_true, if_false]
  refine if_neg ?_
  rintro (hlt | hlt | ⟨hw, ht⟩)
  · exact Nat.not_lt.2 hx hlt
  · exact Nat.not_lt.2 himm hlt
  · exact ht (hwait hw)

/-- At its issue BRT ends as its word says. -/
theorem exec_brt_next (hr : (s.stall sid).seq.run ≠ 3) {e : WordEnd} {t : State}
    (he : brtWord s sid (s.stall sid) (wordAt (s.stall sid)) = e) (ht : finishWord sid (s.stall sid).seq.pc e = t) :
    exec (.brt sid) s = .next t := by
  rw [← h.next rfl he ht]
  exact congrArg _ (if_neg hr)

theorem exec_brtWaitSatisfied_of_retire (hr : (s.stall sid).seq.run = 3) (hs : gwf s.stalls = true)
    (he : brtWord s sid (s.stall sid) (wordAt (s.stall sid)) = .retire s 1 false) :
    exec (.brtWaitSatisfied sid) s = .next (after s sid (s.stall sid) 1) := by
  refine (congrArg _ (if_pos hr)).trans (h.next (e := .retire s 1 false) rfl ?_ (finish_retire_self hs sid 1))
  rw [he]

theorem exec_brtWaitSatisfied_of_hold (hr : (s.stall sid).seq.run = 3)
    (he : brtWord s sid (s.stall sid) (wordAt (s.stall sid)) = .hold s 3) : exec (.brtWaitSatisfied sid) s = .next s := by
  refine (congrArg _ (if_pos hr)).trans (h.next (e := .done s) rfl ?_ rfl)
  rw [he]

end

theorem exec_brt_of_waiting {s : State} {sid : StallId} (hr : (s.stall sid).seq.run = 3) : exec (.brt sid) s = .next s :=
  congrArg _ (if_pos hr)

/-! Gates (R49, R179, R180). -/

theorem gateBit_of_line {scope line b : Nat}
    (h : (scope = 0 ∧ line < 4 ∧ b = line) ∨ (scope = 1 ∧ line < 8 ∧ b = 4 + line) ∨ (scope = 2 ∧ line < 15 ∧ b = 12 + line)) :
    gateBit scope line = some b := by
  rcases h with ⟨rfl, hl, rfl⟩ | ⟨rfl, hl, rfl⟩ | ⟨rfl, hl, rfl⟩ <;> exact if_pos hl

theorem gateBit_of_no_line {scope line : Nat} (h0 : scope = 0 → 4 ≤ line) (h1 : scope = 1 → 8 ≤ line) (h2 : scope = 2 → 15 ≤ line) :
    gateBit scope line = none := by
  unfold gateBit
  split
  · exact if_neg (Nat.not_lt.2 (h0 ‹_›))
  split
  · exact if_neg (Nat.not_lt.2 (h1 ‹_›))
  split
  · exact if_neg (Nat.not_lt.2 (h2 ‹_›))
  · rfl

/-- ARRIVE or WAITG of a stall. -/
def gateWord (arrives : Bool) (sid : StallId) : Instr := if arrives then .arrive sid else .waitg sid

section
variable {s : State} {sid : StallId} {arrives : Bool} (h : Issues s sid (if arrives then 0x05 else 0x04) [(57, 56), (55, 52)])
include h

theorem exec_gateWord_of_no_line (hline : gateBit (s.fld sid 57 56) (s.fld sid 55 52) = none) :
    exec (gateWord arrives sid) s = .next (stallFault s sid 10 (s.stall sid).seq.pc) := by
  rw [State.fld, State.fld] at hline
  cases arrives <;>
  · refine h.next (e := .fault s fGateop) rfl ?_ rfl
    simp only [h.fields, hline, Bool.not_true, Bool.false_eq_true, if_false]

section
variable (hs : gwf s.stalls = true) {b : Nat} (hline : gateBit (s.fld sid 57 56) (s.fld sid 55 52) = some b)
include hs hline

theorem exec_gateWord_of_no_part (hmask : bitOf (s.stall sid).active.mask.toNat b = false) :
    exec (gateWord arrives sid) s = .next (after (countNopart s sid) sid (s.stall sid) 1) := by
  rw [State.fld, State.fld] at hline
  cases arrives <;>
  · refine h.next (e := .retire (countNopart s sid) 1 false) rfl ?_ 
      (finish_retire_beside_self hs (x := countNopart s sid) rfl 1)
    simp only [h.fields, hline, hmask, Bool.not_true, Bool.not_false, Bool.false_eq_true, if_false, if_true]

variable (hmask : bitOf (s.stall sid).active.mask.toNat b = true)
include hmask

theorem exec_gateWord_of_pending (hpend : bitOf (s.stall sid).pend b = true) : exec (gateWord arrives sid) s = .next (holds s sid 2) := by
  rw [State.fld, State.fld] at hline
  cases arrives <;>
  · refine h.next (e := .hold s 2) rfl ?_ (finish_hold hs sid 2)
    simp only [h.fields, hline, hmask, hpend, Bool.not_true, Bool.false_eq_true, if_false, if_true]

theorem exec_gateWord_of_not_pending (hpend : bitOf (s.stall sid).pend b = false) :
    exec (gateWord arrives sid) s = .next (after s sid
      (if arrives then { s.stall sid with pend := (s.stall sid).pend + 2 ^ b } else s.stall sid) 1) := by
  rw [State.fld, State.fld] at hline
  cases arrives with
  | false =>
    refine h.next (e := .retire s 1 false) rfl ?_ (finish_retire_self hs sid 1)
    simp only [h.fields, hline, hmask, hpend, Bool.not_true, Bool.false_eq_true, if_false]
  | true =>
    refine h.next (e := .retire (putStall s sid { s.stall sid with pend := (s.stall sid).pend + 2 ^ b }) 1 false) rfl ?_
      (finish_retire hs sid _ 1)
    simp only [h.fields, hline, hmask, hpend, putStall_self_mod, Bool.not_true, Bool.false_eq_true, if_false]

end
end

end Sys2Proof.Machine

namespace Sys2Proof.Proofs
open Sys2Proof Sys2Proof.Machine

/-- Settles O9: a write reaches the registers alone, and none of s0, s27 and s31. -/
theorem scalarRegisters : Obligations.ScalarRegisters :=
  fun u sid i v j h => ⟨u.sreg_setSreg h sid i v j, Stall.setSreg_of_fixed, u.setSreg_frame i v⟩

/-- Settles O10: each word retires, branches or faults by its operands. -/
theorem jumpsAndBranches : Obligations.JumpsAndBranches := by
  intro s sid hs
  refine ⟨exec_nop hs.stalls, exec_jmp hs.stalls, fun h c hc => ?_⟩
  by_cases hcond : 6 ≤ s.fld sid 57 55
  · exact (exec_br_of_no_cond h hcond).trans (congrArg _ (if_pos hcond).symm)
  · have hlt := Nat.lt_of_not_le hcond
    have hreg (i : Nat) : s.reg sid i < 2 ^ 32 := (s.stall sid).sreg_lt sid.isLt i
    rw [exec_br_of_cond hs.stalls h hlt, if_neg hcond, brCond_iff (hreg _) (hreg _) hlt hc]
    rfl

/-- Settles O11: the stack allows the loop or LOOP faults; a count of 0 skips the loop. -/
theorem loopPushesOrFaults : Obligations.LoopPushesOrFaults := by
  intro s sid hs h
  refine ⟨exec_loop_of_noLoop h, fun hpc hinner hlen => exec_loop_of_loop h hs.stalls ?_ rfl⟩
  rintro (hle | ⟨l, r, hloops, hlt⟩ | hfull)
  · exact Nat.not_lt.2 hle hpc
  · exact Nat.not_lt.2 (hinner l r hloops) hlt
  · exact Nat.not_lt.2 hfull hlen

/-- Settles O12: by the definition of the loop stack's walk, one clause for each of its branches. -/
theorem whereAWordLeaves : Obligations.WhereAWordLeaves := by
  intro pc l r
  refine ⟨rfl, fun h => if_neg h, fun h hleft => ?_, fun h hleft => ?_⟩
  · rw [advance_of_end r h, if_pos hleft]
  · rw [advance_of_end r h, hleft, if_neg (Nat.lt_irrefl 0)]

/-- Settles O13: END releases what is bound and idles the sequencer, or holds while a matrix word is incomplete. -/
theorem endReturnsToDispatch : Obligations.EndReturnsToDispatch := by
  intro s sid hs h
  refine ⟨fun hjobs hq => ?_, exec_end_of_busy h hs.stalls⟩
  obtain ⟨hslots, hpen, htallies, hej, hlanding⟩ := (s.stall sid).endedQu_frame (s.shed (shedOf sid))
  refine ⟨(s.stall sid).endedQu (s.shed (shedOf sid)), gmod s.sheds (shedOf sid) Shed.restarted, ?_, Stall.mem_endedQu hq _, hslots, hpen,
    htallies, hej, hlanding, fun k hk => gget_gmod_ne _ _ hk, ?_⟩
  · rw [exec_end_of_idle h hjobs, Stall.ended_eq]
  · rw [gget_gmod hs.sheds, if_pos rfl]
    exact Shed.restarted_eq _

/-- Settles O14: at its issue BRT faults, branches, retires or waits by its operands; a wait ends once the comparison holds. -/
theorem branchOnTally : Obligations.BranchOnTally := by
  intro s sid hs h u wait cond imm x v target holdsNow legal jumped
  have hmet : brtMet s sid = true ↔ holdsNow := brtCond_iff (bitsOf_lt _ 56 55)
  have hno (hn : ¬ holdsNow) : ¬ brtMet s sid = true := fun hm => hn (hmet.1 hm)
  have hword (hl : legal) := brtWord_of_legal h hl
  refine ⟨fun hr => ⟨fun hl => exec_brt_next h hr (brtWord_of_illegal h hl) rfl, fun hl hw hc => ?branches,
      fun hl hw hc => ?falls, fun hl hw hc => ?retires, fun hl hw hc => ?waits⟩,
    fun hr => ⟨exec_brt_of_waiting hr, fun hl hw hc => ?ends, fun hl hw hc => ?goesOn⟩⟩
  case branches => exact exec_brt_next h hr ((hword hl).trans ((if_neg hw).trans (if_pos (hmet.2 hc)))) (finish_jump_eq_branched hs.stalls sid _)
  case falls => exact exec_brt_next h hr ((hword hl).trans ((if_neg hw).trans (if_neg (hno hc)))) (finish_retire_self hs.stalls sid 1)
  case retires => exact exec_brt_next h hr ((hword hl).trans ((if_pos hw).trans (if_pos (hmet.2 hc)))) (finish_retire_self hs.stalls sid 1)
  case waits => exact exec_brt_next h hr ((hword hl).trans ((if_pos hw).trans (if_neg (hno hc)))) (finish_hold hs.stalls sid 3)
  case ends => exact exec_brtWaitSatisfied_of_retire h hr hs.stalls ((hword hl).trans ((if_pos hw).trans (if_pos (hmet.2 hc))))
  case goesOn => exact exec_brtWaitSatisfied_of_hold h hr ((hword hl).trans ((if_pos hw).trans (if_neg (hno hc))))

/-- Settles O15: the line a gate word names, then the stall's part in it and its PEND. -/
theorem gateWords : Obligations.GateWords := by
  intro s sid arrives hs h u scope line word gone
  refine ⟨fun b hb => ?_, fun h0 h1 h2 => exec_gateWord_of_no_line h (gateBit_of_no_line h0 h1 h2)⟩
  have hline := gateBit_of_line hb
  exact ⟨exec_gateWord_of_no_part h hs.stalls hline, exec_gateWord_of_pending h hs.stalls hline,
    exec_gateWord_of_not_pending h hs.stalls hline⟩

end Sys2Proof.Proofs
end

section
/-! PROOFS. Scalar arithmetic (R61, R64), the tally words (R59, R60, R186, R192) and routine ballast (R61, R63, R349, R369): the integer
operations as those of bit vectors, what each word ends in, and from these O16, O20 and O29. -/

namespace Sys2Proof.Machine

/-! Integers and bit vectors. -/

theorem patternOf_eq_toNat (w : Nat) (x : Int) : patternOf w x = (BitVec.ofInt w x).toNat := (BitVec.toNat_ofInt x).symm

@[simp] theorem signedOf_toNat {w : Nat} (a : BitVec w) : signedOf w a.toNat = a.toInt := by
  rw [signedOf_eq_toInt, BitVec.ofNat_toNat, BitVec.setWidth_eq]

theorem floorShift_eq_shiftRight (x : Int) (k : Nat) : floorShift x k = x >>> k := by
  rw [floorShift, Int.shiftRight_eq_div_pow, Int.fdiv_eq_ediv_of_nonneg _ (Int.natCast_nonneg _)]

/-- SALU's operation is that of 32-bit vectors (R64). -/
theorem salu_toNat (a b : BitVec 32) {fn : Nat} {r : BitVec 32}
    (h : (fn, r) ∈ [(0, a + b), (1, a - b), (2, a &&& b), (3, a ||| b), (4, a ^^^ b), (5, a <<< (b.toNat % 32)), (6, a >>> (b.toNat % 32)),
      (7, a.sshiftRight (b.toNat % 32)), (8, a * b), (9, if a.sle b then a else b), (10, if a.sle b then b else a),
      (11, if a.slt b then 1 else 0), (12, if a.ult b then 1 else 0)]) : salu fn a.toNat b.toNat = r.toNat := by
  have flag (c : Bool) : b2n c = (if c then (1 : BitVec 32) else 0).toNat := by cases c <;> rfl
  simp only [List.mem_cons, Prod.mk.injEq, List.not_mem_nil, or_false] at h
  rcases h with ⟨rfl, rfl⟩ | ⟨rfl, rfl⟩ | ⟨rfl, rfl⟩ | ⟨rfl, rfl⟩ | ⟨rfl, rfl⟩ | ⟨rfl, rfl⟩ | ⟨rfl, rfl⟩ | ⟨rfl, rfl⟩ | ⟨rfl, rfl⟩ | ⟨rfl, rfl⟩ |
    ⟨rfl, rfl⟩ | ⟨rfl, rfl⟩ | ⟨rfl, rfl⟩
  all_goals simp only [salu, signedOf_toNat, OfNat.ofNat_ne_zero, OfNat.ofNat_ne_one, Nat.one_ne_zero, Nat.reduceEqDiff, if_true, if_false]
  · exact (BitVec.toNat_add a b).symm
  · rw [BitVec.toNat_sub, Nat.add_comm, Nat.sub_add_comm (Nat.le_of_lt b.isLt)]
  · exact (BitVec.toNat_and a b).symm
  · exact (BitVec.toNat_or a b).symm
  · exact (BitVec.toNat_xor a b).symm
  · rw [BitVec.toNat_shiftLeft, Nat.shiftLeft_eq]
  · rw [BitVec.toNat_ushiftRight, Nat.shiftRight_eq_div_pow]
  · rw [floorShift_eq_shiftRight, patternOf_eq_toNat, BitVec.sshiftRight]
  · exact (BitVec.toNat_mul a b).symm
  · rw [apply_ite BitVec.toNat]
    simp only [BitVec.sle, decide_eq_true_eq]
  · rw [apply_ite BitVec.toNat]
    simp only [BitVec.sle, decide_eq_true_eq]
  · exact flag _
  · exact flag _

/-! SALU and SLI (R61, R64). -/

/-- The second operand of the SALU at a stall's PC. -/
def saluOperand (s : State) (sid : Nat) : BitVec 32 :=
  if s.fld sid 38 38 = 1 then (BitVec.ofNat 16 (s.fld sid 15 0)).signExtend 32 else BitVec.ofNat 32 (s.reg sid (s.fld sid 43 39))

theorem State.reg_toNat (s : State) (sid : StallId) (i : Nat) : s.reg sid i = (BitVec.ofNat 32 (s.reg sid i)).toNat :=
  (Nat.mod_eq_of_lt ((s.stall sid).sreg_lt sid.isLt i)).symm.trans (BitVec.toNat_ofNat _ 32).symm

theorem saluOperand_toNat (s : State) (sid : StallId) :
    (saluOperand s sid).toNat = if s.fld sid 38 38 = 1 then patternOf 32 (signedOf 16 (s.fld sid 15 0)) else s.reg sid (s.fld sid 43 39) := by
  rw [saluOperand, apply_ite BitVec.toNat, ← State.reg_toNat, patternOf_eq_toNat, signedOf_eq_toInt]
  rfl

section
variable {s : State} {sid : StallId}

section
variable (h : Issues s sid 0x3E [(57, 54), (53, 49), (48, 44), (43, 39), (38, 38), (15, 0)])
include h

theorem exec_salu_of_no_fn (hfn : 13 ≤ s.fld sid 57 54) : exec (.salu sid) s = .next (stallFault s sid 1 (s.stall sid).seq.pc) := by
  have hno : 12 < bitsOf (wordAt (s.stall sid)) 57 54 := hfn
  refine h.next (e := .fault s fIllegal) rfl ?_ rfl
  simp only [hno, decide_true, Bool.or_true, if_true]

theorem exec_salu_of_fn (hs : gwf s.stalls = true) (hfn : s.fld sid 57 54 ≤ 12) :
    exec (.salu sid) s = .next (after s sid ((s.stall sid).setSreg (s.fld sid 53 49)
      (salu (s.fld sid 57 54) (s.reg sid (s.fld sid 48 44)) (saluOperand s sid).toNat)) (if s.fld sid 57 54 = 8 then 2 else 1)) := by
  have hyes : ¬ 12 < bitsOf (wordAt (s.stall sid)) 57 54 := Nat.not_lt.2 hfn
  refine h.next (e := .retire (putStall s sid _) _ false) rfl ?_ (finish_retire hs sid _ _)
  simp only [h.fields, hyes, bit_iff, saluOperand_toNat, decide_eq_true_eq, decide_false, Bool.not_true, Bool.or_false, Bool.false_eq_true, if_false]
  rfl

end

theorem exec_sli (hs : gwf s.stalls = true) (h : Issues s sid 0x3F [(57, 53), (31, 0)]) :
    exec (.sli sid) s = .next (after s sid ((s.stall sid).setSreg (s.fld sid 57 53) (s.fld sid 31 0)) 1) := by
  refine h.next (e := .retire (putStall s sid _) 1 false) rfl ?_ (finish_retire hs sid _ 1)
  simp only [h.fields, Bool.not_true, Bool.false_eq_true, if_false]
  rfl

end

/-! BALLAST (R61, R63, R349, R369). -/

theorem governorBallast_iff {s : State} {sid : Nat} :
    governorBallast s sid = true ↔ 0 < (s.pshed (pshedOf s (shedOf sid))).bduty ∨ (s.pshed (pshedOf s (shedOf sid))).tlim < 16 := by
  simp only [governorBallast, Bool.or_eq_true, decide_eq_true_eq]

section
variable {s : State} {sid : StallId} (h : Issues s sid 0x3D [(57, 53), (52, 52), (51, 47), (23, 0)])
include h

theorem exec_ballast_of_over (hduty : 16 < s.fld sid 57 53) : exec (.ballast sid) s = .next (stallFault s sid 1 (s.stall sid).seq.pc) := by
  have hno : 16 < bitsOf (wordAt (s.stall sid)) 57 53 := hduty
  refine h.next (e := .fault s fIllegal) rfl ?_ rfl
  simp only [hno, decide_true, Bool.or_true, if_true]

variable (hs : gwf s.stalls = true) (hduty : ¬ 16 < s.fld sid 57 53)
include hs hduty

theorem exec_ballast_of_governed (hg : governorBallast s sid = true) : exec (.ballast sid) s = .next (after s sid (s.stall sid) 1) := by
  rw [State.fld] at hduty
  refine h.next (e := .retire s 1 false) rfl ?_ (finish_retire_self hs sid 1)
  simp only [h.fields, hduty, hg, decide_false, Bool.not_true, Bool.or_false, Bool.false_eq_true, if_false, if_true]

theorem exec_ballast_of_free (hg : governorBallast s sid = false) {n : Nat}
    (hn : (if s.fld sid 52 52 = 1 then s.reg sid (s.fld sid 51 47) else s.fld sid 23 0) = n) :
    exec (.ballast sid) s = .next (after s sid { s.stall sid with eng :=
      { (s.stall sid).eng with ballast := if s.fld sid 57 53 = 0 ∨ n = 0 then none else some (s.fld sid 57 53, n) } } 1) := by
  rw [State.fld] at hduty
  refine h.next (e := .retire (putStall s sid _) 1 false) rfl ?_ (finish_retire hs sid _ 1)
  simp only [h.fields, hduty, hg, bit_iff, ← hn, decide_eq_true_eq, decide_false, Bool.not_true, Bool.or_false, Bool.false_eq_true, if_false]
  rfl

end

/-! Tallies (R59, R60, R186, R192). -/

/-- The stall with a tally set. -/
def Stall.putTally (t : Stall) (k x : Nat) : Stall := { t with qu := { t.qu with tallies := gset t.qu.tallies k x } }

/-- What the first drift of a shed captures. -/
def GateCheck.sawDrift (sid k : Nat) (g : GateCheck) : GateCheck :=
  if g.drift then g else { g with drift := true, dstall := stallInShed sid, dtally := k }

/-- What the first step below zero of a shed captures. -/
def GateCheck.sawUnder (sid k : Nat) (g : GateCheck) : GateCheck :=
  if g.under then g else { g with under := true, ustall := stallInShed sid, utally := k }

/-- The state with a shed's SHED.GCHK changed. -/
def captured (s : State) (sid : Nat) (f : GateCheck → GateCheck) : State := modShed s (shedOf sid) fun h => { h with gchk := f h.gchk }

theorem tallyDrift_eq (s : State) (sid k : Nat) : tallyDrift s sid k = record (captured s sid (GateCheck.sawDrift sid k)) 7 (.stall sid) := by
  refine congrArg (fun f => record (modShed s (shedOf sid) f) 7 (.stall sid)) (funext fun h => ?_)
  by_cases hd : h.gchk.drift = true <;> simp only [GateCheck.sawDrift, hd, if_true, Bool.false_eq_true, if_false]

theorem tallyUnder_eq (s : State) (sid k : Nat) : tallyUnder s sid k = record (captured s sid (GateCheck.sawUnder sid k)) 6 (.stall sid) := by
  refine congrArg (fun f => record (modShed s (shedOf sid) f) 6 (.stall sid)) (funext fun h => ?_)
  by_cases hd : h.gchk.under = true <;> simp only [GateCheck.sawUnder, hd, if_true, Bool.false_eq_true, if_false]

theorem setTally_eq (s : State) (sid k v : Nat) : setTally s sid k v = putStall s sid ((s.stall sid).putTally k v) := rfl

theorem captured_put (s : State) (sid : Nat) (u : Stall) (f : GateCheck → GateCheck) :
    captured (putStall s sid u) sid f = putStall (captured s sid f) sid u := rfl

theorem captured_record_stalls (s : State) (sid : Nat) (f : GateCheck → GateCheck) (c : Nat) (src : Src) :
    (record (captured s sid f) c src).stalls = s.stalls := record_stalls ..

/-- The operand of the TINC or TDEC at a stall's PC. -/
def tallyOperand (s : State) (sid : Nat) : Nat := if s.fld sid 57 57 = 1 then s.reg sid (s.fld sid 48 44) else s.fld sid 15 0

/-- What a change of a tally leaves, once its word has retired. -/
def tallyRaised (s : State) (sid k n : Nat) : State :=
  if gget (s.stall sid).qu.tallies k + n ≤ 32767 then after s sid ((s.stall sid).putTally k (gget (s.stall sid).qu.tallies k + n)) 1
  else after (record (captured s sid (GateCheck.sawDrift sid k)) 7 (.stall sid)) sid ((s.stall sid).putTally k 32767) 1

@[inherit_doc tallyRaised]
def tallyLowered (s : State) (sid k n : Nat) : State :=
  if n ≤ gget (s.stall sid).qu.tallies k then after s sid ((s.stall sid).putTally k (gget (s.stall sid).qu.tallies k - n)) 1
  else after (record (captured s sid (GateCheck.sawUnder sid k)) 6 (.stall sid)) sid (s.stall sid) 1

section
variable {s : State} {sid : Nat} (hs : gwf s.stalls = true) (k n : Nat)
include hs

theorem finish_tallyUp : finishWord sid (s.stall sid).seq.pc (.retire (tallyUp s sid k n) 1 false) = tallyRaised s sid k n := by
  unfold tallyUp tallyRaised
  by_cases hle : gget (s.stall sid).qu.tallies k + n ≤ 32767
  · rw [if_pos hle, show (s.stall sid).tally k = gget (s.stall sid).qu.tallies k from rfl, if_neg (Nat.not_lt.2 hle)]
    exact finish_retire hs sid _ 1
  · rw [if_neg hle, show (s.stall sid).tally k = gget (s.stall sid).qu.tallies k from rfl, if_pos (Nat.lt_of_not_le hle), tallyDrift_eq,
      setTally_eq, captured_put, record_put]
    exact finish_retire_beside hs (captured_record_stalls s sid _ 7 _) _ 1 false

theorem finish_tallyDown : finishWord sid (s.stall sid).seq.pc (.retire (tallyDown s sid k n) 1 false) = tallyLowered s sid k n := by
  unfold tallyDown tallyLowered
  by_cases hle : n ≤ gget (s.stall sid).qu.tallies k
  · rw [if_pos hle, show (s.stall sid).tally k = gget (s.stall sid).qu.tallies k from rfl, if_neg (Nat.not_lt.2 hle)]
    exact finish_retire hs sid _ 1
  · rw [if_neg hle, show (s.stall sid).tally k = gget (s.stall sid).qu.tallies k from rfl, if_pos (Nat.lt_of_not_le hle), tallyUnder_eq]
    exact finish_retire_beside_self hs (captured_record_stalls s sid _ 6 _) 1

end

section
variable {s : State} {sid : StallId}

/-- TINC and TDEC at their issue: ILLEGAL for an immediate above 32,767, else the change of the tally. -/
theorem tallyWord_of_fields (change : State → Nat → Nat → Nat → State)
    (h : onlyFields (wordAt (s.stall sid)) [(57, 57), (53, 49), (48, 44), (15, 0)] = true) :
    tallyWord s sid change (s.stall sid) (wordAt (s.stall sid)) =
      if 32767 < s.fld sid 15 0 then .fault s fIllegal else .retire (change s sid (s.fld sid 53 49) (tallyOperand s sid)) 1 false := by
  simp only [tallyWord, h, bit_iff, decide_eq_true_eq, Bool.not_true, Bool.false_or]
  rfl

theorem exec_tinc (hs : gwf s.stalls = true) (h : Issues s sid 0x38 [(57, 57), (53, 49), (48, 44), (15, 0)]) :
    exec (.tinc sid) s = .next (if 32767 < s.fld sid 15 0 then stallFault s sid 1 (s.stall sid).seq.pc
      else tallyRaised s sid (s.fld sid 53 49) (tallyOperand s sid)) := by
  refine h.next rfl (tallyWord_of_fields tallyUp h.fields) ?_
  split
  · rfl
  · exact finish_tallyUp hs _ _

theorem exec_tdec (hs : gwf s.stalls = true) (h : Issues s sid 0x39 [(57, 57), (53, 49), (48, 44), (15, 0)]) :
    exec (.tdec sid) s = .next (if 32767 < s.fld sid 15 0 then stallFault s sid 1 (s.stall sid).seq.pc
      else tallyLowered s sid (s.fld sid 53 49) (tallyOperand s sid)) := by
  refine h.next rfl (tallyWord_of_fields tallyDown h.fields) ?_
  split
  · rfl
  · exact finish_tallyDown hs _ _

theorem exec_trd (hs : gwf s.stalls = true) (h : Issues s sid 0x3A [(53, 49), (48, 44)]) :
    exec (.trd sid) s = .next (after s sid ((s.stall sid).setSreg (s.fld sid 48 44) (gget (s.stall sid).qu.tallies (s.fld sid 53 49))) 1) := by
  refine h.next (e := .retire (putStall s sid _) 1 false) rfl ?_ (finish_retire hs sid _ 1)
  simp only [h.fields, Bool.not_true, Bool.false_eq_true, if_false]
  rfl

theorem exec_tset (hs : gwf s.stalls = true) (h : Issues s sid 0x3B [(53, 49), (15, 0)]) :
    exec (.tset sid) s = .next (if 32767 < s.fld sid 15 0 then stallFault s sid 1 (s.stall sid).seq.pc
      else after s sid ((s.stall sid).putTally (s.fld sid 53 49) (s.fld sid 15 0)) 1) := by
  refine h.next rfl (e := if 32767 < s.fld sid 15 0 then .fault s fIllegal
    else .retire (putStall s sid ((s.stall sid).putTally (s.fld sid 53 49) (s.fld sid 15 0))) 1 false) ?_ ?_
  · simp only [h.fields, decide_eq_true_eq, Bool.not_true, Bool.false_or]
    rfl
  · split
    · rfl
    · exact finish_retire hs sid _ 1

end

end Sys2Proof.Machine

namespace Sys2Proof.Proofs
open Sys2Proof Sys2Proof.Machine

/-- Settles O16: SALU's operation is that of 32-bit vectors. -/
theorem scalarArithmetic : Obligations.ScalarArithmetic := by
  intro s sid hs
  refine ⟨fun h => ⟨fun r hr => ?_, exec_salu_of_no_fn h⟩, exec_sli hs.stalls⟩
  have hfn : s.fld sid 57 54 ≤ 12 := by
    simp only [List.mem_cons, Prod.mk.injEq, List.not_mem_nil, or_false] at hr
    omega
  rw [exec_salu_of_fn h hs.stalls hfn, State.reg_toNat, salu_toNat _ (saluOperand s sid) hr]

/-- Settles O20: each word by its immediate, then by the bound its tally meets. -/
theorem tallyWords : Obligations.TallyWords := by
  intro s sid hs
  exact ⟨exec_tinc hs.stalls, exec_tdec hs.stalls, exec_trd hs.stalls, exec_tset hs.stalls⟩

/-- Settles O29: DUTY, the shed's governor and its limit, then what is kept. -/
theorem ballastWords : Obligations.BallastWords := by
  intro s sid hs
  refine ⟨fun h => ?_, fun b hb => congrArg _ (if_pos (Option.isSome_iff_exists.2 ⟨b, hb⟩)), fun hb => congrArg _ (if_neg ?_)⟩
  · by_cases hduty : 16 < s.fld sid 57 53
    · exact (exec_ballast_of_over h hduty).trans (congrArg _ (if_pos hduty).symm)
    refine Eq.trans ?_ (congrArg _ (if_neg hduty).symm)
    by_cases hg : governorBallast s sid = true
    · exact (exec_ballast_of_governed h hs.stalls hduty hg).trans (congrArg _ (if_pos (governorBallast_iff.1 hg)).symm)
    · refine Eq.trans ?_ (congrArg _ (if_neg (hg ∘ governorBallast_iff.2)).symm)
      exact exec_ballast_of_free h hs.stalls hduty (Bool.eq_false_iff.2 hg) rfl
  · rw [hb]
    exact Bool.false_ne_true

end Sys2Proof.Proofs
end

section
/-! PROOFS. A stall's memory (R43, R233, R486), the routine's loads and stores (R43, R50, R52) and the address generators (R44, R50, R52):
what a byte reads after a write, what each word ends in, and from these O17 to O19. -/

namespace Sys2Proof.Machine

/-! The spaces of a stall's memory (R43). -/

theorem spaceLimit_eq_getD (sp : Nat) : spaceLimit sp = [0xC000, 0x20000, 0x20000, 0x10000].getD sp 0x20000 := by
  match sp with
  | 0 | 1 | 2 | 3 => rfl
  | n + 4 => exact (if_neg (by omega)).trans (if_neg (by omega))

theorem spaceLimit_of_lt {sp : Nat} (h : sp < 4) : spaceLimit sp = [0xC000, 0x20000, 0x20000, 0x10000].getD sp 0 := by
  match sp, h with
  | 0, _ | 1, _ | 2, _ | 3, _ => rfl

theorem spaceLimit_cast_of_lt {sp : Nat} (h : sp < 4) : (spaceLimit sp : Int) = [0xC000, 0x20000, 0x20000, 0x10000].getD sp 0 := by
  match sp, h with
  | 0, _ | 1, _ | 2, _ | 3, _ => rfl

theorem reach_eq_getD (sp : Nat) : reach sp = [1, 3, 5, 6].getD sp 6 := by
  match sp with
  | 0 | 1 | 2 | 3 => rfl
  | n + 4 => exact (if_neg (by omega)).trans ((if_neg (by omega)).trans (if_neg (by omega)))

theorem reach_of_lt {sp : Nat} (h : sp < 4) : reach sp = [1, 3, 5, 6].getD sp 0 := by
  match sp, h with
  | 0, _ | 1, _ | 2, _ | 3, _ => rfl

/-- The memories of a stall in canonical form (log 5). -/
structure StallMem.Wf (m : StallMem) : Prop where
  space : ∀ sp, sp < 4 → Memory.wf (m.space sp) = true
  undef : gwf m.undef = true

section
variable {m : StallMem}

theorem StallMem.Wf.of_parts (h0 : Memory.wf m.manger = true) (h1 : Memory.wf m.loftA = true) (h2 : Memory.wf m.loftB = true)
    (h3 : Memory.wf m.loftC = true) (hu : gwf m.undef = true) : m.Wf := by
  refine ⟨fun sp hsp => ?_, hu⟩
  match sp, hsp with
  | 0, _ => exact h0
  | 1, _ => exact h1
  | 2, _ => exact h2
  | 3, _ => exact h3

theorem StallMem.space_setSpace {sp sp' : Nat} (h : sp < 4) (h' : sp' < 4) (x : Mem) :
    (m.setSpace sp x).space sp' = if sp' = sp then x else m.space sp' := by
  match sp, h, sp', h' with
  | 0, _, 0, _ | 0, _, 1, _ | 0, _, 2, _ | 0, _, 3, _ | 1, _, 0, _ | 1, _, 1, _ | 1, _, 2, _ | 1, _, 3, _
  | 2, _, 0, _ | 2, _, 1, _ | 2, _, 2, _ | 2, _, 3, _ | 3, _, 0, _ | 3, _, 1, _ | 3, _, 2, _ | 3, _, 3, _ => rfl

/-- The memory with a space replaced keeps its undefined blocks and its brand words. -/
theorem StallMem.setSpace_frame (m : StallMem) (sp : Nat) (x : Mem) :
    (m.setSpace sp x).undef = m.undef ∧ (m.setSpace sp x).brands = m.brands := by
  unfold StallMem.setSpace
  split
  · exact ⟨rfl, rfl⟩
  split
  · exact ⟨rfl, rfl⟩
  split <;> exact ⟨rfl, rfl⟩

theorem StallMem.undefAt_setSpace (sp : Nat) (x : Mem) (sp' a : Nat) : (m.setSpace sp x).undefAt sp' a = m.undefAt sp' a := by
  obtain ⟨hundef, -⟩ := m.setSpace_frame sp x
  rw [StallMem.undefAt, StallMem.undefAt, hundef]

theorem StallMem.readByte_of_undef {sid sp a ev : Nat} (h : m.undefAt sp a = some ev) :
    m.readByte sid sp a = Config.freeByte ev (sid * 2 ^ 20 + sp * 2 ^ 17 + a) := by
  rw [StallMem.readByte, h]

theorem StallMem.readByte_of_def {sid sp a : Nat} (h : m.undefAt sp a = none) : m.readByte sid sp a = Memory.read (m.space sp) a := by
  rw [StallMem.readByte, h]

theorem StallMem.undefAt_manger (a : Nat) : m.undefAt 0 a = none := rfl

theorem StallMem.undefAt_loft {sp : Nat} (h : sp ≠ 0) (a : Nat) : m.undefAt sp a = gget m.undef (sp * 32 + a / 4096) := if_neg h

/-- Blocks of different numbers, of one space or of two, have different keys. -/
theorem blockKey_eq_iff {sp sp' blk blk' : Nat} (h : blk < 32) (h' : blk' < 32) : sp' * 32 + blk' = sp * 32 + blk ↔ sp' = sp ∧ blk' = blk := by
  omega

/-! A write (R486): a block with undefined contents is written out first, which no read sees. -/

section
variable {sid sp blk : Nat}

theorem StallMem.settle_of_def (h : m.undefAt sp (blk * 4096) = none) : m.settle sid sp blk = m := by
  rw [StallMem.settle, h]

theorem StallMem.settle_of_undef {ev : Nat} (h : m.undefAt sp (blk * 4096) = some ev) :
    m.settle sid sp blk = { (m.setSpace sp (Memory.writeBytes (m.space sp) (blk * 4096) (m.readBytes sid sp (blk * 4096) 4096))) with
      undef := gset m.undef (sp * 32 + blk) none } := by
  rw [StallMem.settle, h]

theorem StallMem.settle_brands : (m.settle sid sp blk).brands = m.brands := by
  cases h : m.undefAt sp (blk * 4096) with
  | none => rw [StallMem.settle_of_def h]
  | some ev =>
    rw [StallMem.settle_of_undef h]
    exact (m.setSpace_frame sp _).2

variable (hm : m.Wf) (hsp : sp < 4)
include hm hsp

theorem StallMem.Wf.settle : (m.settle sid sp blk).Wf := by
  cases h : m.undefAt sp (blk * 4096) with
  | none => rwa [StallMem.settle_of_def h]
  | some ev =>
    rw [StallMem.settle_of_undef h]
    refine ⟨fun sp' hsp' => ?_, gwf_gset hm.undef _ _⟩
    show Memory.wf ((m.setSpace sp _).space sp') = true
    rw [StallMem.space_setSpace hsp hsp']
    split
    · exact Memory.wf_writeBytes (hm.space sp hsp) _ _
    · exact hm.space sp' hsp'

variable (hblk : blk < 32)
include hblk

theorem StallMem.undefAt_settle {sp' b : Nat} (hb : b / 4096 < 32) :
    (m.settle sid sp blk).undefAt sp' b = if sp' = sp ∧ b / 4096 = blk then none else m.undefAt sp' b := by
  cases h : m.undefAt sp (blk * 4096) with
  | none =>
    rw [StallMem.settle_of_def h]
    split
    · next heq =>
      obtain ⟨rfl, rfl⟩ := heq
      rw [← h, StallMem.undefAt, StallMem.undefAt, Nat.mul_div_cancel _ (by decide)]
    · rfl
  | some ev =>
    rw [StallMem.settle_of_undef h]
    by_cases h0 : sp' = 0
    · subst h0
      exact (ite_self _).symm
    · rw [StallMem.undefAt_loft h0, StallMem.undefAt_loft h0, gget_gset hm.undef]
      exact ite_congr (propext (blockKey_eq_iff hblk hb)) (fun _ => rfl) (fun _ => rfl)

/-- Writing out an undefined block changes no byte. -/
theorem StallMem.readByte_settle {sp' b : Nat} (hsp' : sp' < 4) (hb : b / 4096 < 32) :
    (m.settle sid sp blk).readByte sid sp' b = m.readByte sid sp' b := by
  cases h : m.undefAt sp (blk * 4096) with
  | none => rw [StallMem.settle_of_def h]
  | some ev =>
    have hundef := StallMem.undefAt_settle (sid := sid) hm hsp hblk (sp' := sp') hb
    have hspace : (m.settle sid sp blk).space sp' =
        if sp' = sp then Memory.writeBytes (m.space sp) (blk * 4096) (m.readBytes sid sp (blk * 4096) 4096) else m.space sp' := by
      rw [StallMem.settle_of_undef h]
      exact StallMem.space_setSpace hsp hsp' _
    have hlen : (m.readBytes sid sp (blk * 4096) 4096).length = 4096 := (List.length_map ..).trans List.length_range
    by_cases hin : sp' = sp ∧ b / 4096 = blk
    · obtain ⟨rfl, rfl⟩ := hin
      rw [if_pos ⟨rfl, rfl⟩] at hundef
      rw [StallMem.readByte_of_def hundef, hspace, if_pos rfl, Memory.read_writeBytes (hm.space sp' hsp), hlen, if_pos (by omega),
        StallMem.readBytes, List.getD_eq_getElem?_getD, List.getElem?_map, List.getElem?_range (by omega)]
      show m.readByte sid sp' (b / 4096 * 4096 + (b - b / 4096 * 4096)) = _
      rw [Nat.add_sub_cancel' (Nat.div_mul_le_self b 4096)]
    · rw [if_neg hin] at hundef
      cases hb' : m.undefAt sp' b with
      | some ev' => rw [StallMem.readByte_of_undef (hundef.trans hb'), StallMem.readByte_of_undef hb']
      | none =>
        rw [StallMem.readByte_of_def (hundef.trans hb'), StallMem.readByte_of_def hb', hspace]
        split
        · next heq =>
          subst heq
          rw [Memory.read_writeBytes (hm.space sp' hsp), hlen, if_neg fun hrange => hin ⟨rfl, by omega⟩]
        · rfl

end

section
variable {sid sp a : Nat} {bs : List Byte} (hm : m.Wf) (hsp : sp < 4) (ha : a < 0x20000) (hblock : a % 4096 + bs.length ≤ 4096)

theorem StallMem.writeBytes_brands : (m.writeBytes sid sp a bs).brands = m.brands :=
  ((m.settle sid sp (a / 4096)).setSpace_frame sp _).2.trans StallMem.settle_brands

include hm hsp ha hblock

/-- A byte of a space after a write inside one of its blocks (R233). -/
theorem StallMem.readByte_writeBytes {sp' b : Nat} (hsp' : sp' < 4) (hb : b < 0x20000) :
    (m.writeBytes sid sp a bs).readByte sid sp' b =
      if sp' = sp ∧ a ≤ b ∧ b < a + bs.length then bs.getD (b - a) 0#8 else m.readByte sid sp' b := by
  have hblk : a / 4096 < 32 := by omega
  have hb' : b / 4096 < 32 := by omega
  have hwf : (m.settle sid sp (a / 4096)).Wf := hm.settle hsp
  have hundef : (m.writeBytes sid sp a bs).undefAt sp' b = (m.settle sid sp (a / 4096)).undefAt sp' b := StallMem.undefAt_setSpace ..
  have hspace : (m.writeBytes sid sp a bs).space sp' =
      if sp' = sp then Memory.writeBytes ((m.settle sid sp (a / 4096)).space sp) a bs else (m.settle sid sp (a / 4096)).space sp' :=
    StallMem.space_setSpace hsp hsp' _
  rw [← StallMem.readByte_settle hm hsp hblk hsp' hb']
  cases h : (m.settle sid sp (a / 4096)).undefAt sp' b with
  | some ev =>
    have hout : ¬ (sp' = sp ∧ a ≤ b ∧ b < a + bs.length) := by
      rintro ⟨rfl, hle, hlt⟩
      rw [StallMem.undefAt_settle hm hsp hblk hb', if_pos ⟨rfl, by omega⟩] at h
      exact nomatch h
    rw [if_neg hout, StallMem.readByte_of_undef (hundef.trans h), StallMem.readByte_of_undef h]
  | none =>
    rw [StallMem.readByte_of_def (hundef.trans h), StallMem.readByte_of_def h, hspace]
    by_cases heq : sp' = sp
    · subst heq
      simp only [if_pos, Memory.read_writeBytes (hwf.space sp' hsp), true_and]
    · rw [if_neg heq, if_neg fun hin => heq hin.1]

end
end

/-! LDS and STS (R50, R52). -/

section
variable {sp a : Nat}

theorem wordAccessFault_of_range (h : spaceLimit sp ≤ a) : wordAccessFault sp a = some 2 := if_pos h

theorem wordAccessFault_of_align (h : a < spaceLimit sp) (ha : a % 4 ≠ 0) : wordAccessFault sp a = some 3 :=
  (if_neg (Nat.not_le.2 h)).trans (if_pos ha)

theorem wordAccessFault_of_word (h : a < spaceLimit sp) (ha : a % 4 = 0) : wordAccessFault sp a = none :=
  (if_neg (Nat.not_le.2 h)).trans (if_neg (not_not_intro ha))

end

section
variable {s : State} {sid : StallId}

/-- The space that the LDS or STS at a stall's PC names. -/
def accessSpace (s : State) (sid : Nat) : Nat := s.fld sid 57 56

/-- The byte address of the LDS or STS at a stall's PC. -/
def accessAt (s : State) (sid : Nat) : Nat := s.reg sid (s.fld sid 50 46) + s.fld sid 16 0

theorem accessSpace_lt (s : State) (sid : Nat) : accessSpace s sid < 4 := bitsOf_lt _ 57 56

section
variable {par : Bool} (h : Issues s sid 0x0A [(57, 56), (55, 51), (50, 46), (16, 0)])
include h

theorem exec_lds_of_fault {c : Nat} (hc : wordAccessFault (accessSpace s sid) (accessAt s sid) = some c) :
    exec (.lds sid par) s = .next (stallFault s sid c (s.stall sid).seq.pc) := by
  refine h.next (e := .fault s c) rfl ?_ rfl
  simp only [accessSpace, accessAt, State.fld, State.reg] at hc
  simp only [h.fields, hc, Bool.not_true, Bool.false_eq_true, if_false]

theorem exec_lds_of_word (hs : gwf s.stalls = true) (hc : wordAccessFault (accessSpace s sid) (accessAt s sid) = none) :
    exec (.lds sid par) s = .next (afterPort (parity s sid par) sid
      ((s.stall sid).setSreg (s.fld sid 55 51) (leNat ((s.stall sid).mem.readBytes sid (accessSpace s sid) (accessAt s sid) 4)))
      (decide (accessSpace s sid ≠ 0)) (reach (accessSpace s sid))) := by
  refine h.next (e := .retire (putStall (parity s sid par) sid _) _ _) rfl ?_ (finish_retire_beside hs (parity_stalls s sid par) _ _ _)
  simp only [accessSpace, accessAt, State.fld, State.reg] at hc ⊢
  simp only [h.fields, hc, parity_put, Bool.not_true, Bool.false_eq_true, if_false]
  rfl

end

section
variable (h : Issues s sid 0x0B [(57, 56), (55, 51), (50, 46), (16, 0)])
include h

theorem exec_sts_of_interlock (hs : gwf s.stalls = true) (hi : (s.stall sid).interlocked [] [accessSpace s sid] = true) :
    exec (.sts sid) s = .next (holds s sid 1) := by
  refine h.next (e := .hold s 1) rfl ?_ (finish_hold hs sid 1)
  simp only [accessSpace, State.fld] at hi
  simp only [h.fields, hi, Bool.not_true, Bool.false_eq_true, if_false, if_true]

variable (hi : (s.stall sid).interlocked [] [accessSpace s sid] = false)
include hi

theorem exec_sts_of_fault {c : Nat} (hc : wordAccessFault (accessSpace s sid) (accessAt s sid) = some c) :
    exec (.sts sid) s = .next (stallFault s sid c (s.stall sid).seq.pc) := by
  refine h.next (e := .fault s c) rfl ?_ rfl
  simp only [accessSpace, accessAt, State.fld, State.reg] at hc hi
  simp only [h.fields, hi, hc, Bool.not_true, Bool.false_eq_true, if_false]

theorem exec_sts_of_word (hs : gwf s.stalls = true) (hc : wordAccessFault (accessSpace s sid) (accessAt s sid) = none) :
    exec (.sts sid) s = .next (afterPort s sid
      { s.stall sid with mem := (s.stall sid).mem.writeBytes sid (accessSpace s sid) (accessAt s sid) (leBytes 4 (s.reg sid (s.fld sid 55 51))) }
      (decide (accessSpace s sid ≠ 0)) 1) := by
  refine h.next (e := .retire (putStall s sid _) 1 _) rfl ?_ (finish_retire_port hs sid _ 1 _)
  simp only [accessSpace, accessAt, State.fld, State.reg] at hc hi ⊢
  simp only [h.fields, hi, hc, Bool.not_true, Bool.false_eq_true, if_false]
  rfl

end
end

/-! Address generators (R44). -/

section
variable {g : AddrGen}

theorem AddrGen.yields_eq (hsp : g.space < 4) :
    g.yields = if 0 ≤ g.addr ∧ g.addr * 64 < [0xC000, 0x20000, 0x20000, 0x10000].getD g.space 0 then some (g.addr * 64).toNat else none := by
  rw [← spaceLimit_cast_of_lt hsp]
  by_cases hneg : g.addr < 0
  · exact (if_pos (by omega)).trans (if_neg (by omega)).symm
  refine (if_neg (by omega)).trans ?_
  by_cases hlim : g.addr * 64 < (spaceLimit g.space : Nat)
  · exact (if_neg (by omega)).trans (if_pos ⟨by omega, hlim⟩).symm
  · exact (if_pos (by omega)).trans (if_neg fun hin => hlim hin.2).symm

/-- A generator stands at the place that its two indices give. -/
def AddrGen.InStep (g : AddrGen) : Prop := g.row = g.base + g.j * g.str1 ∧ g.addr = g.row + g.i * g.str0

theorem AddrGen.step_of_inner (hi : g.i + 1 < g.cnt0) : g.step = { g with i := g.i + 1, addr := g.addr + g.str0 } := if_pos hi

theorem AddrGen.step_of_outer (hi : ¬ g.i + 1 < g.cnt0) (hj : g.j + 1 < g.cnt1) :
    g.step = { g with i := 0, j := g.j + 1, row := g.row + g.str1, addr := g.row + g.str1 } := (if_neg hi).trans (if_pos hj)

theorem AddrGen.step_of_last (hi : ¬ g.i + 1 < g.cnt0) (hj : ¬ g.j + 1 < g.cnt1) :
    g.step = { g with i := 0, j := 0, row := g.base, addr := g.base } := (if_neg hi).trans (if_neg hj)

/-- A use moves the inner index, past its count the outer one, and past both counts back to the base (R44). -/
theorem AddrGen.step_indices (hi : g.i < g.cnt0) (hj : g.j < g.cnt1) :
    g.step.i = (if g.i + 1 = g.cnt0 then 0 else g.i + 1) ∧
      g.step.j = if g.i + 1 = g.cnt0 ∧ g.j + 1 = g.cnt1 then 0 else if g.i + 1 = g.cnt0 then g.j + 1 else g.j := by
  by_cases hinner : g.i + 1 < g.cnt0
  · have hno : ¬ g.i + 1 = g.cnt0 := by omega
    rw [AddrGen.step_of_inner hinner, if_neg hno, if_neg fun h => hno h.1, if_neg hno]
    exact ⟨rfl, rfl⟩
  have hwrap : g.i + 1 = g.cnt0 := by omega
  by_cases houter : g.j + 1 < g.cnt1
  · have hno : ¬ g.j + 1 = g.cnt1 := by omega
    rw [AddrGen.step_of_outer hinner houter, if_pos hwrap, if_neg fun h => hno h.2, if_pos hwrap]
    exact ⟨rfl, rfl⟩
  · rw [AddrGen.step_of_last hinner houter, if_pos hwrap, if_pos ⟨hwrap, by omega⟩]
    exact ⟨rfl, rfl⟩

theorem AddrGen.step_base (g : AddrGen) : g.step.base = g.base ∧ g.step.str0 = g.str0 ∧ g.step.str1 = g.str1 := by
  unfold AddrGen.step
  split
  · exact ⟨rfl, rfl, rfl⟩
  split <;> exact ⟨rfl, rfl, rfl⟩

theorem AddrGen.InStep.step (h : g.InStep) : g.step.InStep := by
  obtain ⟨hrow, haddr⟩ := h
  unfold AddrGen.step AddrGen.InStep
  split
  · refine ⟨hrow, ?_⟩
    show g.addr + g.str0 = g.row + ((g.i + 1 : Nat) : Int) * g.str0
    rw [haddr]
    push_cast
    ring
  split
  · refine ⟨?_, ?_⟩
    · show g.row + g.str1 = g.base + ((g.j + 1 : Nat) : Int) * g.str1
      rw [hrow]
      push_cast
      ring
    · show g.row + g.str1 = g.row + g.str1 + ((0 : Nat) : Int) * g.str0
      simp only [Nat.cast_zero, zero_mul, add_zero]
  · refine ⟨?_, ?_⟩
    · show g.base = g.base + ((0 : Nat) : Int) * g.str1
      simp only [Nat.cast_zero, zero_mul, add_zero]
    · show g.base = g.base + ((0 : Nat) : Int) * g.str0
      simp only [Nat.cast_zero, zero_mul, add_zero]

end

section
variable {s : State} {sid : StallId}

section
variable (h : Issues s sid 0x0C [(57, 55), (54, 53), (52, 42), (41, 26), (25, 14)])
include h

theorem exec_agb (hs : gwf s.stalls = true) {g : AddrGen}
    (hg : AddrGen.restart { (s.stall sid).ag (s.fld sid 57 55) with
      space := s.fld sid 54 53, str0 := signedOf 16 (s.fld sid 41 26), cnt0 := cnt12 (s.fld sid 25 14) } (s.fld sid 52 42 : Nat) = g) :
    exec (.agb sid) s = .next (
      if spaceLimit (s.fld sid 54 53) ≤ 64 * s.fld sid 52 42 then stallFault s sid 2 (s.stall sid).seq.pc
      else if (s.stall sid).interlocked [s.fld sid 57 55] [] then holds s sid 1
      else after s sid ((s.stall sid).setAg (s.fld sid 57 55) g) 1) := by
  refine h.next rfl (e := if spaceLimit (s.fld sid 54 53) ≤ 64 * s.fld sid 52 42 then .fault s fRange
    else if (s.stall sid).interlocked [s.fld sid 57 55] [] then .hold s 1
    else .retire (putStall s sid ((s.stall sid).setAg (s.fld sid 57 55) g)) 1 false) ?_ ?_
  · simp only [h.fields, ← hg, Bool.not_true, Bool.false_eq_true, if_false]
    rfl
  · split
    · rfl
    split
    · exact finish_hold hs sid 1
    · exact finish_retire hs sid _ 1

end

theorem exec_ags (hs : gwf s.stalls = true) (h : Issues s sid 0x0D [(57, 55), (54, 54), (53, 49), (48, 33), (32, 21)]) {v : Nat} {g : AddrGen}
    (hv : s.reg sid (s.fld sid 53 49) = v)
    (hg : { (s.stall sid).ag (s.fld sid 57 55) with str1 := signedOf 16 (s.fld sid 48 33), cnt1 := cnt12 (s.fld sid 32 21) } = g) :
    exec (.ags sid) s = .next (
      if s.fld sid 54 54 = 1 ∧ spaceLimit g.space ≤ v / 64 * 64 then stallFault s sid 2 (s.stall sid).seq.pc
      else if s.fld sid 54 54 = 1 ∧ v % 64 ≠ 0 then stallFault s sid 3 (s.stall sid).seq.pc
      else if (s.stall sid).interlocked [s.fld sid 57 55] [] then holds s sid 1
      else after s sid ((s.stall sid).setAg (s.fld sid 57 55) (if s.fld sid 54 54 = 1 then g.restart ((v / 64 : Nat) : Int) else g)) 1) := by
  refine h.next rfl (e := if s.fld sid 54 54 = 1 ∧ spaceLimit g.space ≤ v / 64 * 64 then .fault s fRange
    else if s.fld sid 54 54 = 1 ∧ v % 64 ≠ 0 then .fault s fAlign
    else if (s.stall sid).interlocked [s.fld sid 57 55] [] then .hold s 1
    else .retire (putStall s sid ((s.stall sid).setAg (s.fld sid 57 55)
      (if s.fld sid 54 54 = 1 then g.restart ((v / 64 : Nat) : Int) else g))) 1 false) ?_ ?_
  · simp only [h.fields, ← hg, ← hv, bit_iff, decide_eq_true_eq, Bool.and_eq_true, Bool.not_true, Bool.false_eq_true, if_false]
    rfl
  · split
    · rfl
    split
    · rfl
    split
    · exact finish_hold hs sid 1
    · exact finish_retire hs sid _ 1

end

end Sys2Proof.Machine

namespace Sys2Proof.Proofs
open Sys2Proof Sys2Proof.Machine

/-- Settles O17: the fault of the access, RANGE before ALIGN, or the word read or written. -/
theorem routineLoadsAndStores : Obligations.RoutineLoadsAndStores := by
  intro s sid hs
  have hlim := spaceLimit_of_lt (accessSpace_lt s sid)
  have hrange (hle : [0xC000, 0x20000, 0x20000, 0x10000].getD (accessSpace s sid) 0 ≤ accessAt s sid) :=
    wordAccessFault_of_range (hlim.trans_le hle)
  have halign (hlt : accessAt s sid < [0xC000, 0x20000, 0x20000, 0x10000].getD (accessSpace s sid) 0) (ha : accessAt s sid % 4 ≠ 0) :=
    wordAccessFault_of_align (hlt.trans_eq hlim.symm) ha
  have hword (hlt : accessAt s sid < [0xC000, 0x20000, 0x20000, 0x10000].getD (accessSpace s sid) 0) (ha : accessAt s sid % 4 = 0) :=
    wordAccessFault_of_word (hlt.trans_eq hlim.symm) ha
  refine ⟨fun par h => ?_, fun h => ⟨exec_sts_of_interlock h hs.stalls, fun hi hle => exec_sts_of_fault h hi (hrange hle),
    fun hi hlt ha => exec_sts_of_fault h hi (halign hlt ha), fun hi hlt ha => exec_sts_of_word h hi hs.stalls (hword hlt ha)⟩⟩
  by_cases hle : [0xC000, 0x20000, 0x20000, 0x10000].getD (accessSpace s sid) 0 ≤ accessAt s sid
  · exact (exec_lds_of_fault h (hrange hle)).trans (congrArg _ (if_pos hle).symm)
  refine Eq.trans ?_ (congrArg _ (if_neg hle).symm)
  by_cases ha : accessAt s sid % 4 ≠ 0
  · exact (exec_lds_of_fault h (halign (Nat.lt_of_not_le hle) ha)).trans (congrArg _ (if_pos ha).symm)
  · refine Eq.trans ?_ (congrArg _ (if_neg ha).symm)
    rw [exec_lds_of_word h hs.stalls (hword (Nat.lt_of_not_le hle) (not_not.1 ha)), reach_of_lt (accessSpace_lt s sid)]
    rfl

/-- Settles O18: a write puts its bytes into its own block, whose other bytes it leaves, and touches no brand word. -/
theorem aStoreWritesItsBytesAlone : Obligations.AStoreWritesItsBytesAlone := by
  intro m sid sp a bs hsp h0 h1 h2 h3 hu hblock ha m'
  have hm : m.Wf := .of_parts h0 h1 h2 h3 hu
  have hread {sp' b : Nat} := StallMem.readByte_writeBytes (sid := sid) hm hsp ha hblock (sp' := sp') (b := b)
  refine ⟨StallMem.writeBytes_brands, fun i hi => ?_, fun sp' b hsp' hb hout => ?_⟩
  · rw [hread hsp (by omega), if_pos ⟨rfl, by omega, by omega⟩, Nat.add_sub_cancel_left, List.getD_eq_getElem _ _ hi]
  · rw [hread hsp' hb, if_neg]
    rintro ⟨heq, hle, hlt⟩
    rcases hout heq with h | h <;> omega

/-- Settles O19: AGB and AGS by their checks in order, and a use by the bounds its indices meet. -/
theorem addressGenerators : Obligations.AddressGenerators := by
  intro s sid hs
  refine ⟨fun h => ?_, fun h => ?_, fun g hi hj hsp => ⟨AddrGen.yields_eq hsp, fun hrow haddr => ?_⟩⟩
  · refine (exec_agb h hs.stalls rfl).trans ?_
    rw [spaceLimit_of_lt (show s.fld sid 54 53 < 4 from bitsOf_lt _ 54 53), signedOf_eq_toInt]
    rfl
  · refine (exec_ags hs.stalls h rfl rfl).trans ?_
    rw [spaceLimit_eq_getD, signedOf_eq_toInt]
    rfl
  · obtain ⟨hstepi, hstepj⟩ := AddrGen.step_indices hi hj
    obtain ⟨hbase, hstr0, hstr1⟩ := g.step_base
    obtain ⟨hsrow, hsaddr⟩ := AddrGen.InStep.step ⟨hrow, haddr⟩
    rw [hbase, hstr1] at hsrow
    rw [hstr0] at hsaddr
    exact ⟨hstepi, hstepj, hsrow, hsaddr, hbase⟩

end Sys2Proof.Proofs
end

section
/-! PROOFS. The moves (R50-R53, R386, R387), the words on bound messages (R33, R51) and BRAND (R61, R62, R385-R387): what a unit, a block
and each word leave, and from these O24 to O28. -/

namespace Sys2Proof.Machine

/-! One unit of a MOV (R53). -/

/-- What a MOV keeps after a unit from address `x` of generator `a` to address `y` of generator `d`; `first` says that the unit begins a
block. -/
def MovAcc.copied (sid a d : Nat) (first : Bool) (x y : Nat) (m : MovAcc) : MovAcc :=
  let ga := m.t.ag a
  let t := m.t.setAg a ga.step
  let gd := t.ag d
  let bytes := m.t.mem.readBytes sid ga.space x 64
  let t := t.setAg d gd.step
  { m with
    t := { t with mem := t.mem.writeBytes sid gd.space y bytes }, bytes := m.bytes ++ bytes,
    stored := if first then m.t.mem.brand ga.space (x / 4096) else m.stored,
    dspace := if first then gd.space else m.dspace, dblk := if first then y / 4096 else m.dblk }

section
variable {sid a d k : Nat} {brd : Bool} {m : MovAcc}

theorem movUnit_of_source_out (hx : (m.t.ag a).yields = none) : movUnit sid a d brd k m = (m, some 2) := by
  simp only [movUnit, hx, fRange]

/-- The unit begins a block of a MOV with BRD = 1. -/
abbrev Begins (brd : Bool) (k : Nat) : Prop := brd = true ∧ k % 64 = 0

theorem begins_iff : Begins brd k ↔ (brd && decide (k % 64 = 0)) = true := by
  rw [Bool.and_eq_true, decide_eq_true_iff]

theorem not_misaligned {x : Nat} (ha : Begins brd k → x % 4096 = 0) :
    ((brd && decide (k % 64 = 0)) && decide (x % 4096 ≠ 0)) = false := by
  rw [Bool.eq_false_iff, ne_eq, Bool.and_eq_true, decide_eq_true_iff, ← begins_iff]
  exact fun hno => hno.2 (ha hno.1)

section
variable {x : Nat} (hx : (m.t.ag a).yields = some x)
include hx

theorem movUnit_of_source_unaligned (hf : Begins brd k) (ha : x % 4096 ≠ 0) : movUnit sid a d brd k m = (m, some 3) := by
  simp only [movUnit, hx, Bool.and_eq_true, decide_eq_true_eq]
  exact if_pos ⟨hf, ha⟩

variable (ha : Begins brd k → x % 4096 = 0)
include ha

theorem movUnit_of_dest_out (hy : ((m.t.setAg a (m.t.ag a).step).ag d).yields = none) :
    movUnit sid a d brd k m = ({ m with t := m.t.setAg a (m.t.ag a).step }, some 2) := by
  simp only [movUnit, hx, not_misaligned ha, hy, fRange, Bool.false_eq_true, if_false]

variable {y : Nat} (hy : ((m.t.setAg a (m.t.ag a).step).ag d).yields = some y)
include hy

theorem movUnit_of_dest_unaligned (hf : Begins brd k) (hb : y % 4096 ≠ 0) :
    movUnit sid a d brd k m = ({ m with t := m.t.setAg a (m.t.ag a).step }, some 3) := by
  simp only [movUnit, hx, not_misaligned ha, hy, Bool.false_eq_true, if_false]
  exact if_pos (by rw [begins_iff.1 hf, decide_eq_true hb]; rfl)

theorem movUnit_of_uses (hb : Begins brd k → y % 4096 = 0) :
    movUnit sid a d brd k m =
      (if brd && decide (k % 64 = 63) then (m.copied sid a d (brd && decide (k % 64 = 0)) x y).closeBlock (m.t.ag a).space
        else m.copied sid a d (brd && decide (k % 64 = 0)) x y, none) := by
  simp only [movUnit, hx, not_misaligned ha, hy, not_misaligned hb, Bool.false_eq_true, if_false, MovAcc.copied]

end

/-- The check at the end of a block of a MOV with BRD = 1 passes (R53, R387): the manger has no brands. -/
def MovAcc.Good (m : MovAcc) (ssp : Nat) : Prop := ssp = 0 ∨ (brandOf m.bytes = m.stored ∧ m.stored.testBit 31 = false)

theorem brandOk_iff {computed stored : Nat} : brandOk computed stored = true ↔ computed = stored ∧ stored.testBit 31 = false := by
  simp only [brandOk, bitOf, Bool.and_eq_true, decide_eq_true_eq, Bool.not_eq_true']

theorem MovAcc.good_iff {ssp : Nat} : (ssp = 0 ∨ brandOk (brandOf m.bytes) m.stored = true) ↔ m.Good ssp := or_congr_right brandOk_iff

theorem MovAcc.closeBlock_bytes (m : MovAcc) (ssp : Nat) : (m.closeBlock ssp).bytes = [] := rfl

theorem MovAcc.closeBlock_seq (m : MovAcc) (ssp : Nat) : (m.closeBlock ssp).t.seq = m.t.seq := by
  unfold MovAcc.closeBlock
  dsimp only
  split <;> rfl

theorem MovAcc.closeBlock_fails_of_good {ssp : Nat} (h : m.Good ssp) : (m.closeBlock ssp).fails = m.fails := if_pos (good_iff.2 h)

theorem MovAcc.closeBlock_fails_of_bad {ssp : Nat} (h : ¬ m.Good ssp) : (m.closeBlock ssp).fails = m.fails + 1 := if_neg (h ∘ good_iff.1)

theorem MovAcc.closeBlock_mem_of_manger {ssp : Nat} (h : m.dspace = 0) : (m.closeBlock ssp).t.mem = m.t.mem :=
  congrArg Stall.mem (if_pos h)

theorem MovAcc.closeBlock_mem_of_loft {ssp v : Nat} (h : m.dspace ≠ 0)
    (hv : (m.Good ssp ∧ v = brandOf m.bytes) ∨ (¬ m.Good ssp ∧ v = 0x80000000)) :
    (m.closeBlock ssp).t.mem = m.t.mem.setBrand m.dspace m.dblk v := by
  have hword : (if ssp = 0 ∨ brandOk (brandOf m.bytes) m.stored = true then brandOf m.bytes else 0x80000000) = v := by
    rcases hv with ⟨hg, hv⟩ | ⟨hb, hv⟩
    · exact (if_pos (good_iff.2 hg)).trans hv.symm
    · exact (if_neg (hb ∘ good_iff.1)).trans hv.symm
  rw [← hword]
  exact congrArg Stall.mem (if_neg h)

end

/-! Records of a failing check (R387). -/

theorem foldl_range_succ {α : Type} (f : α → α) (a : α) (n : Nat) :
    (List.range (n + 1)).foldl (fun x _ => f x) a = (List.range n).foldl (fun x _ => f x) (f a) := by
  rw [List.range_succ_eq_map, List.foldl_cons, List.foldl_map]

theorem brandFails_eq (s : State) (sid n : Nat) : brandFails s sid n = (List.range n).foldl (fun x _ => record x 1 (.stall sid)) s := by
  induction n generalizing s with
  | zero => rfl
  | succ n ih => rw [brandFails, ih, foldl_range_succ]

theorem brandFails_put (s : State) (sid n j : Nat) (u : Stall) : brandFails (putStall s j u) sid n = putStall (brandFails s sid n) j u := by
  induction n generalizing s with
  | zero => rfl
  | succ n ih => rw [brandFails, brandFails, record_put, ih]

theorem brandFails_stalls (s : State) (sid n : Nat) : (brandFails s sid n).stalls = s.stalls := by
  induction n generalizing s with
  | zero => rfl
  | succ n ih => exact (ih _).trans (record_stalls ..)

/-! MOV (R50, R53). -/

section
variable {s : State} {sid : StallId} {par : Bool} (h : Issues s sid 0x08 [(57, 57), (56, 54), (53, 51), (50, 39)])
include h

theorem exec_mov_of_none (hn : s.fld sid 50 39 = 0) : exec (.mov sid par) s = .next (stallFault s sid 1 (s.stall sid).seq.pc) := by
  rw [State.fld] at hn
  refine h.next (e := .fault s fIllegal) rfl ?_ rfl
  simp only [hn, decide_true, Bool.or_true, if_true]

variable (hn : s.fld sid 50 39 ≠ 0)
include hn

theorem exec_mov_of_part (hb : decide (s.fld sid 57 57 = 1) = true) (hp : s.fld sid 50 39 % 64 ≠ 0) :
    exec (.mov sid par) s = .next (stallFault s sid 3 (s.stall sid).seq.pc) := by
  refine h.next (e := .fault s fAlign) rfl ?_ rfl
  simp only [h.fields, bit_iff, Bool.not_true, Bool.false_or, Bool.and_eq_true, decide_eq_true_eq]
  exact (if_neg hn).trans (if_pos ⟨of_decide_eq_true hb, hp⟩)

variable (hp : decide (s.fld sid 57 57 = 1) = true → s.fld sid 50 39 % 64 = 0)
include hp

/-- Past its checks MOV holds or makes its units. -/
theorem exec_mov_next {e : WordEnd} {t : State} (he :
    (let a := s.fld sid 56 54
     let d := s.fld sid 53 51
     let n := s.fld sid 50 39
     if (s.stall sid).interlocked [a, d] [((s.stall sid).ag d).space] then .hold s 1
     else
       let sa := ((s.stall sid).ag a).space
       let sd := ((s.stall sid).ag d).space
       let r := movUnits sid a d (decide (s.fld sid 57 57 = 1)) n 0 ⟨s.stall sid, [], 0, 0, 0, 0⟩
       let x := putStall (brandFails (parity s sid par) sid r.1.fails) sid r.1.t
       match r.2 with
       | some c => .fault x c
       | none => .retire x (reach sa + (if sa ≠ 0 ∧ sd ≠ 0 then 2 * n else n)) (decide (sa ≠ 0 ∨ sd ≠ 0))) = e)
    (ht : finishWord sid (s.stall sid).seq.pc e = t) : exec (.mov sid par) s = .next t := by
  refine h.next rfl ?_ ht
  have hw : ¬ (bitsOf (wordAt (s.stall sid)) 57 57 = 1 ∧ bitsOf (wordAt (s.stall sid)) 50 39 % 64 ≠ 0) := fun hno =>
    hno.2 (hp (decide_eq_true hno.1))
  rw [← he]
  simp only [h.fields, bit_iff, Bool.not_true, Bool.false_or, Bool.and_eq_true, decide_eq_true_eq, parity_put, brandFails_put]
  exact (if_neg hn).trans (if_neg hw)

theorem exec_mov_of_interlock (hs : gwf s.stalls = true)
    (hi : (s.stall sid).interlocked [s.fld sid 56 54, s.fld sid 53 51] [((s.stall sid).ag (s.fld sid 53 51)).space] = true) :
    exec (.mov sid par) s = .next (holds s sid 1) :=
  exec_mov_next h hn hp (if_pos hi) (finish_hold hs sid 1)

variable (hi : (s.stall sid).interlocked [s.fld sid 56 54, s.fld sid 53 51] [((s.stall sid).ag (s.fld sid 53 51)).space] = false) {m : MovAcc}
include hi

theorem exec_mov_of_moved (hs : gwf s.stalls = true)
    (hr : movUnits sid (s.fld sid 56 54) (s.fld sid 53 51) (decide (s.fld sid 57 57 = 1)) (s.fld sid 50 39) 0 ⟨s.stall sid, [], 0, 0, 0, 0⟩ = (m, none)) :
    exec (.mov sid par) s =
      let sa := ((s.stall sid).ag (s.fld sid 56 54)).space
      let sd := ((s.stall sid).ag (s.fld sid 53 51)).space
      .next (afterPort (brandFails (parity s sid par) sid m.fails) sid m.t (decide (sa ≠ 0 ∨ sd ≠ 0))
        (reach sa + if sa ≠ 0 ∧ sd ≠ 0 then 2 * s.fld sid 50 39 else s.fld sid 50 39)) := by
  have hx : (brandFails (parity s sid par) sid m.fails).stalls = s.stalls := (brandFails_stalls ..).trans (parity_stalls ..)
  refine exec_mov_next h hn hp ?_ (finish_retire_beside hs hx _ _ _)
  simp only [hi, hr, Bool.false_eq_true, if_false]

theorem exec_mov_of_fault {c : Nat}
    (hr : movUnits sid (s.fld sid 56 54) (s.fld sid 53 51) (decide (s.fld sid 57 57 = 1)) (s.fld sid 50 39) 0 ⟨s.stall sid, [], 0, 0, 0, 0⟩ = (m, some c)) :
    exec (.mov sid par) s = .next (stallFault (putStall (brandFails (parity s sid par) sid m.fails) sid m.t) sid c (s.stall sid).seq.pc) := by
  refine exec_mov_next h hn hp (e := .fault _ c) ?_ rfl
  simp only [hi, hr, Bool.false_eq_true, if_false]

end

/-- A state with a stall replaced, beside records that leave the stalls alone. -/
theorem putStall_eq_of_stalls {s x : State} (hx : x.stalls = s.stalls) (sid : Nat) (u : Stall) :
    putStall x sid u = { x with stalls := gset s.stalls sid u } := by
  rw [putStall, hx]

/-! Bound messages (R33, R51). -/

theorem b2n_bitOf (v i : Nat) : b2n (bitOf v i) = bitsOf v i i := by
  have hlt : bitsOf v i i < 2 ^ (i + 1 - i) := bitsOf_lt v i i
  rw [Nat.add_sub_cancel_left] at hlt
  rw [bit_iff]
  by_cases h : bitsOf v i i = 1
  · rw [h]; rfl
  · rw [decide_eq_false h]
    exact (show bitsOf v i i = 0 by omega).symm

theorem slice_eq_map (bs : List Byte) (off n : Nat) : slice bs off n = (List.range n).map fun i => bs.getD (off + i) 0#8 := by
  refine List.ext_getElem ?_ fun i hi hi' => ?_
  · simp only [slice, padTo, List.length_take, List.length_append, List.length_replicate, List.length_drop, List.length_map, List.length_range]
    omega
  · simp only [slice, padTo, List.getElem_take, List.getElem_append, List.getElem_drop, List.getElem_replicate, List.getElem_map,
      List.getElem_range, List.length_drop, List.getD_eq_getElem?_getD]
    split
    · rw [List.getElem?_eq_getElem]
      rfl
    · rw [List.getElem?_eq_none (by omega)]
      rfl

theorem leAt_eq_map (bs : List Byte) (off n : Nat) : leAt bs off n = leNat ((List.range n).map fun i => bs.getD (off + i) 0#8) :=
  congrArg leNat (slice_eq_map bs off n)

theorem Stall.releaseBound_of_none {t : Stall} {q : Nat} (h : (if q = 0 then t.seq.bound0 else t.seq.bound1) = none) :
    t.releaseBound q = t := by
  rw [Stall.releaseBound, h]

theorem Stall.releaseBound_of_some {t : Stall} {q id : Nat} (h : (if q = 0 then t.seq.bound0 else t.seq.bound1) = some id) :
    t.releaseBound q = { t with
      seq := if q = 0 then { t.seq with bound0 := none } else { t.seq with bound1 := none }, qu := t.qu.release id } := by
  rw [Stall.releaseBound, h]
  dsimp only
  split <;> rfl

section
variable {s : State} {sid : StallId}

section
variable (h : Issues s sid 0x0E [(57, 57), (55, 51), (45, 38)])
include h

theorem exec_movqs_of_unbound (hm : (s.stall sid).boundMsg (s.fld sid 57 57) = none) :
    exec (.movqs sid) s = .next (stallFault s sid 6 (s.stall sid).seq.pc) := by
  rw [State.fld] at hm
  refine h.next (e := .fault s fQread) rfl ?_ rfl
  simp only [h.fields, b2n_bitOf, hm, Bool.not_true, Bool.false_eq_true, if_false]

theorem exec_movqs_of_bound (hs : gwf s.stalls = true) {m : QMsg} (hm : (s.stall sid).boundMsg (s.fld sid 57 57) = some m) :
    exec (.movqs sid) s = .next (
      if 16 * m.len < 4 * s.fld sid 45 38 + 4 then stallFault s sid 6 (s.stall sid).seq.pc
      else after s sid ((s.stall sid).setSreg (s.fld sid 55 51) (leAt m.payload (4 * s.fld sid 45 38) 4)) 2) := by
  rw [State.fld] at hm
  refine h.next rfl (e := if 16 * m.len < 4 * s.fld sid 45 38 + 4 then .fault s fQread
    else .retire (putStall s sid ((s.stall sid).setSreg (s.fld sid 55 51) (leAt m.payload (4 * s.fld sid 45 38) 4))) 2 false) ?_ ?_
  · simp only [h.fields, b2n_bitOf, hm, Bool.not_true, Bool.false_eq_true, if_false]
    rfl
  · split
    · rfl
    · exact finish_retire hs sid _ 2

end

theorem exec_qrel (hs : gwf s.stalls = true) (h : Issues s sid 0x0F [(57, 57)]) :
    exec (.qrel sid) s = .next (after s sid ((s.stall sid).releaseBound (s.fld sid 57 57)) 1) := by
  refine h.next (e := .retire (putStall s sid _) 1 false) rfl ?_ (finish_retire hs sid _ 1)
  simp only [h.fields, b2n_bitOf, Bool.not_true, Bool.false_eq_true, if_false]
  rfl

end

/-! MOVQ (R51). -/

section
variable {sid d len : Nat} {payload : List Byte} {fuel n off : Nat} {t : Stall} (hn : 0 < n)
include hn

theorem movqUnits_of_past (hlen : len < off + min n 4) : movqUnits sid d len payload (fuel + 1) n off t = (t, some 6) := by
  simp only [movqUnits, if_neg (Nat.pos_iff_ne_zero.1 hn), hlen, fQread, if_true]

variable (hlen : off + min n 4 ≤ len)
include hlen

theorem movqUnits_of_out (hy : (t.ag d).yields = none) :
    movqUnits sid d len payload (fuel + 1) n off t = (t.setAg d (t.ag d).step, some 2) := by
  simp only [movqUnits, if_neg (Nat.pos_iff_ne_zero.1 hn), if_neg (Nat.not_lt.2 hlen), Stall.writeUnit, Stall.useAg, hy, fRange]

theorem movqUnits_of_use {a : Nat} (hy : (t.ag d).yields = some a) :
    movqUnits sid d len payload (fuel + 1) n off t = movqUnits sid d len payload fuel (n - min n 4) (off + min n 4)
      { t.setAg d (t.ag d).step with mem := t.mem.writeBytes sid (t.ag d).space a (slice payload (16 * off) (16 * min n 4)) } := by
  simp only [movqUnits, if_neg (Nat.pos_iff_ne_zero.1 hn), if_neg (Nat.not_lt.2 hlen), Stall.writeUnit, Stall.useAg, hy]
  rfl

end

section
variable {s : State} {sid : StallId} (h : Issues s sid 0x09 [(57, 57), (53, 51), (45, 39), (37, 32)])
include h

theorem exec_movq_of_no_count (hn : s.fld sid 45 39 = 0 ∨ 64 < s.fld sid 45 39) :
    exec (.movq sid) s = .next (stallFault s sid 1 (s.stall sid).seq.pc) := by
  rw [State.fld] at hn
  refine h.next (e := .fault s fIllegal) rfl ?_ rfl
  simp only [hn, decide_true, Bool.or_true, if_true]

variable (hn : ¬ (s.fld sid 45 39 = 0 ∨ 64 < s.fld sid 45 39))
include hn

theorem exec_movq_of_interlock (hs : gwf s.stalls = true)
    (hi : (s.stall sid).interlocked [s.fld sid 53 51] [((s.stall sid).ag (s.fld sid 53 51)).space] = true) :
    exec (.movq sid) s = .next (holds s sid 1) := by
  rw [State.fld] at hn hi
  refine h.next (e := .hold s 1) rfl ?_ (finish_hold hs sid 1)
  simp only [h.fields, hn, hi, decide_false, Bool.not_true, Bool.or_self, Bool.false_eq_true, if_false, if_true]

variable (hi : (s.stall sid).interlocked [s.fld sid 53 51] [((s.stall sid).ag (s.fld sid 53 51)).space] = false)
include hi

theorem exec_movq_of_unbound (hm : (s.stall sid).boundMsg (s.fld sid 57 57) = none) :
    exec (.movq sid) s = .next (stallFault s sid 6 (s.stall sid).seq.pc) := by
  rw [State.fld] at hn hi hm
  refine h.next (e := .fault s fQread) rfl ?_ rfl
  simp only [h.fields, hn, hi, b2n_bitOf, hm, decide_false, Bool.not_true, Bool.or_self, Bool.false_eq_true, if_false]

variable {m : QMsg} (hm : (s.stall sid).boundMsg (s.fld sid 57 57) = some m) {t : Stall}
include hm

theorem exec_movq_of_copied (hs : gwf s.stalls = true)
    (hr : movqUnits sid (s.fld sid 53 51) m.len m.payload (s.fld sid 45 39) (s.fld sid 45 39) (s.fld sid 37 32) (s.stall sid) = (t, none)) :
    exec (.movq sid) s = .next (afterPort s sid t (decide (((s.stall sid).ag (s.fld sid 53 51)).space ≠ 0)) (1 + ceilDiv (s.fld sid 45 39) 4)) := by
  simp only [State.fld] at hn hi hm hr
  refine h.next (e := .retire (putStall s sid t) _ _) rfl ?_ (finish_retire_port hs sid _ _ _)
  simp only [h.fields, hn, hi, b2n_bitOf, hm, hr, decide_false, Bool.not_true, Bool.or_self, Bool.false_eq_true, if_false]
  rfl

theorem exec_movq_of_fault {c : Nat}
    (hr : movqUnits sid (s.fld sid 53 51) m.len m.payload (s.fld sid 45 39) (s.fld sid 45 39) (s.fld sid 37 32) (s.stall sid) = (t, some c)) :
    exec (.movq sid) s = .next (stallFault (putStall s sid t) sid c (s.stall sid).seq.pc) := by
  simp only [State.fld] at hn hi hm hr
  refine h.next (e := .fault (putStall s sid t) c) rfl ?_ rfl
  simp only [h.fields, hn, hi, b2n_bitOf, hm, hr, decide_false, Bool.not_true, Bool.or_self, Bool.false_eq_true, if_false]

end

/-! BRAND (R61, R62). -/

section
variable {sid k mode n : Nat} {b : BrandAcc}

theorem brandBlocks_of_out (hy : (b.t.ag k).yields = none) : (brandBlocks sid k mode (n + 1) b).2 = some 2 := by
  simp only [brandBlocks, brandBlock, hy, fRange]

section
variable {a : Nat} (hy : (b.t.ag k).yields = some a)
include hy

theorem brandBlocks_of_unaligned (ha : a % 4096 ≠ 0) : (brandBlocks sid k mode (n + 1) b).2 = some 3 := by
  simp only [brandBlocks, brandBlock, hy, ha, ne_eq, not_false_eq_true, if_true, fAlign]

theorem brandBlocks_of_block (ha : a % 4096 = 0) {t : Stall} {bytes : List Byte} (hr : Stall.readUnits sid k 64 b.t = (t, some bytes)) :
    brandBlocks sid k mode (n + 1) b =
      brandBlocks sid k mode n
        ⟨if mode = 0 then { t with mem := t.mem.setBrand (b.t.ag k).space (a / 4096) (brandOf bytes) } else t, brandOf bytes,
          if mode = 1 ∧ ¬ (brandOf bytes = t.mem.brand (b.t.ag k).space (a / 4096) ∧
            (t.mem.brand (b.t.ag k).space (a / 4096)).testBit 31 = false) then b.fails + 1 else b.fails⟩ := by
  simp only [brandBlocks, brandBlock, hy, ha, ne_eq, not_true_eq_false, if_false, hr]
  refine congrArg _ (congrArg (BrandAcc.mk _ _) ?_)
  by_cases hmode : mode = 1
  · subst hmode
    rw [if_neg Nat.one_ne_zero, decide_eq_true rfl, Bool.true_and]
    by_cases hok : brandOk (brandOf bytes) (t.mem.brand (b.t.ag k).space (a / 4096)) = true
    · rw [hok]
      exact (if_neg fun hbad => hbad.2 (brandOk_iff.1 hok)).symm
    · rw [Bool.eq_false_iff.2 hok]
      exact (if_pos ⟨rfl, hok ∘ brandOk_iff.2⟩).symm
  · rw [decide_eq_false hmode, Bool.false_and]
    exact (if_neg fun hbad => hmode hbad.1).symm

end
end

/-- The BRAND at a stall's PC is legal (R61): it has blocks, a mode, one block to hand out, and a loft to store or check in. -/
def BrandLegal (s : State) (sid : Nat) : Prop :=
  s.fld sid 52 45 ≠ 0 ∧ s.fld sid 57 56 ≠ 3 ∧ (s.fld sid 57 56 = 2 → s.fld sid 52 45 = 1) ∧
    (s.fld sid 57 56 = 0 ∨ s.fld sid 57 56 = 1 → ((s.stall sid).ag (s.fld sid 55 53)).space ≠ 0)

theorem brandLegal_iff {s : State} {sid : Nat} :
    BrandLegal s sid ↔ ¬ (s.fld sid 52 45 = 0 ∨ s.fld sid 57 56 = 3 ∨ (s.fld sid 57 56 = 2 ∧ s.fld sid 52 45 ≠ 1) ∨
      (s.fld sid 57 56 < 2 ∧ ((s.stall sid).ag (s.fld sid 55 53)).space = 0)) := by
  unfold BrandLegal
  omega

section
variable {s : State} {sid : StallId} (h : Issues s sid 0x3C [(57, 56), (55, 53), (52, 45), (44, 40)])
include h

theorem exec_brand_of_illegal (hl : ¬ BrandLegal s sid) : exec (.brand sid) s = .next (stallFault s sid 1 (s.stall sid).seq.pc) := by
  rw [brandLegal_iff, not_not] at hl
  simp only [State.fld] at hl
  refine h.next (e := .fault s fIllegal) rfl ?_ rfl
  simp only [hl, decide_true, Bool.or_true, if_true]

variable (hl : BrandLegal s sid)
include hl

theorem exec_brand_of_interlock (hs : gwf s.stalls = true) (hi : (s.stall sid).interlocked [s.fld sid 55 53] [] = true) :
    exec (.brand sid) s = .next (holds s sid 1) := by
  rw [brandLegal_iff] at hl
  simp only [State.fld] at hl hi
  refine h.next (e := .hold s 1) rfl ?_ (finish_hold hs sid 1)
  simp only [h.fields, hl, hi, decide_false, Bool.not_true, Bool.or_self, Bool.false_eq_true, if_false, if_true]

variable (hi : (s.stall sid).interlocked [s.fld sid 55 53] [] = false) {b : BrandAcc}
include hi

theorem exec_brand_of_blocks (hs : gwf s.stalls = true)
    (hr : brandBlocks sid (s.fld sid 55 53) (s.fld sid 57 56) (s.fld sid 52 45) ⟨s.stall sid, 0, 0⟩ = (b, none)) :
    exec (.brand sid) s = .next (afterPort (brandFails s sid b.fails) sid
      (if s.fld sid 57 56 = 2 then b.t.setSreg (s.fld sid 44 40) b.last else b.t)
      (decide (((s.stall sid).ag (s.fld sid 55 53)).space ≠ 0)) (reach ((s.stall sid).ag (s.fld sid 55 53)).space + 64 * s.fld sid 52 45)) := by
  rw [brandLegal_iff] at hl
  simp only [State.fld] at hl hi hr
  have hx : (brandFails s sid b.fails).stalls = s.stalls := brandFails_stalls ..
  have hput : (if s.fld sid 57 56 = 2 then modStall (putStall (brandFails s sid b.fails) sid b.t) sid fun t => t.setSreg (s.fld sid 44 40) b.last
      else putStall (brandFails s sid b.fails) sid b.t) =
      putStall (brandFails s sid b.fails) sid (if s.fld sid 57 56 = 2 then b.t.setSreg (s.fld sid 44 40) b.last else b.t) := by
    split
    · exact modStall_putStall (hx ▸ hs) sid b.t _
    · rfl
  refine h.next (e := .retire (putStall (brandFails s sid b.fails) sid _) _ _) rfl ?_ (finish_retire_beside hs hx _ _ _)
  rw [← hput]
  simp only [h.fields, hl, hi, hr, brandFails_put, decide_false, Bool.not_true, Bool.or_self, Bool.false_eq_true, if_false]
  rfl

theorem exec_brand_of_fault {c : Nat}
    (hr : brandBlocks sid (s.fld sid 55 53) (s.fld sid 57 56) (s.fld sid 52 45) ⟨s.stall sid, 0, 0⟩ = (b, some c)) :
    exec (.brand sid) s = .next (stallFault (putStall (brandFails s sid b.fails) sid b.t) sid c (s.stall sid).seq.pc) := by
  rw [brandLegal_iff] at hl
  simp only [State.fld] at hl hi hr
  refine h.next (e := .fault (putStall (brandFails s sid b.fails) sid b.t) c) rfl ?_ rfl
  simp only [h.fields, hl, hi, hr, brandFails_put, decide_false, Bool.not_true, Bool.or_self, Bool.false_eq_true, if_false]

end

end Sys2Proof.Machine

namespace Sys2Proof.Proofs
open Sys2Proof Sys2Proof.Machine

/-- Settles O24: a unit by its two uses and, at the end of a block, its check. -/
theorem aUnitOfAMove : Obligations.AUnitOfAMove := by
  intro sid a d k brd m first ga t1 gd
  have hbegins : Begins brd k ↔ first = true := begins_iff
  refine ⟨fun hx => ?_, fun x hx hf hu => ?_, fun x hx ha hy => ?_, fun x y hx ha hy hf hu => ?_, fun x y hx ha hy hb => ?_⟩
  · rw [movUnit_of_source_out hx]
  · rw [movUnit_of_source_unaligned hx (hbegins.2 hf) hu]
  · rw [movUnit_of_dest_out hx (ha ∘ hbegins.1) hy]
  · rw [movUnit_of_dest_unaligned hx (ha ∘ hbegins.1) hy (hbegins.2 hf) hu]
  intro bytes mem stored dspace dblk block good r
  have hr : r = _ := movUnit_of_uses hx (ha ∘ hbegins.1) hy (hb ∘ hbegins.1)
  obtain ⟨c, hc⟩ : ∃ c, m.copied sid a d first x y = c := ⟨_, rfl⟩
  obtain ⟨hseq, hmem, hfails, hbytes, hstored, hdspace, hdblk⟩ :
      c.t.seq = { t1.seq with ags := gset t1.seq.ags d gd.step } ∧ c.t.mem = mem ∧ c.fails = m.fails ∧ c.bytes = block ∧
        c.stored = stored ∧ c.dspace = dspace ∧ c.dblk = dblk := by
    rw [← hc]
    exact ⟨rfl, rfl, rfl, rfl, rfl, rfl, rfl⟩
  rw [show m.copied sid a d (brd && decide (k % 64 = 0)) x y = c from hc] at hr
  by_cases hend : (brd && decide (k % 64 = 63)) = true
  · rw [if_pos hend] at hr
    rw [Bool.and_eq_true, decide_eq_true_iff] at hend
    obtain ⟨hbrd, hk⟩ := hend
    have hgood : c.Good ga.space ↔ good := by rw [MovAcc.Good, hbytes, hstored]
    rw [hr]
    refine ⟨rfl, (c.closeBlock_seq _).trans hseq, fun hno => ?_, fun _ _ => ⟨c.closeBlock_bytes _,
      fun hg => (MovAcc.closeBlock_fails_of_good (hgood.2 hg)).trans hfails,
      fun hg => (MovAcc.closeBlock_fails_of_bad (hg ∘ hgood.1)).trans (congrArg _ hfails),
      fun hd => (MovAcc.closeBlock_mem_of_manger (hdspace.trans hd)).trans hmem, fun hd v hv => ?_⟩⟩
    · exact hno.elim (fun hfalse => absurd (hbrd.symm.trans hfalse) nofun) fun hne => absurd hk hne
    · rw [← hgood, ← hbytes] at hv
      have hd' : c.dspace ≠ 0 := by rwa [hdspace]
      refine (MovAcc.closeBlock_mem_of_loft hd' hv).trans ?_
      rw [hmem, hdspace, hdblk]
      rfl
  · rw [if_neg hend] at hr
    rw [hr]
    refine ⟨rfl, hseq, fun _ => ⟨hmem, hfails, hbytes, hstored, hdspace, hdblk⟩, fun hbrd hk => absurd ?_ hend⟩
    rw [hbrd, hk]
    rfl

/-- Settles O25: the checks in order, then the units and the records of what they met. -/
theorem moveWords : Obligations.MoveWords := by
  intro s sid par hs h
  refine ⟨exec_mov_of_none h, exec_mov_of_part h, fun hn hp => ⟨exec_mov_of_interlock h hn hp hs.stalls, fun hi m => ⟨fun hr => ?_, fun c hr => ?_⟩⟩⟩
  · rw [exec_mov_of_moved h hn hp hi hs.stalls hr, brandFails_eq, ← reach_eq_getD]
    rfl
  · rw [exec_mov_of_fault h hn hp hi hr, putStall_eq_of_stalls ((brandFails_stalls ..).trans (parity_stalls ..)), brandFails_eq]
    rfl

/-- Settles O26: MOVQS by the message bound and its length, QREL by what is bound. -/
theorem messageMoves : Obligations.MessageMoves := by
  intro s sid hs
  refine ⟨fun h => ⟨exec_movqs_of_unbound h, fun m hm => ?_⟩, fun h => ⟨fun hb => ?_, fun id hb => ?_⟩⟩
  · rw [exec_movqs_of_bound h hs.stalls hm, leAt_eq_map]
    rfl
  · rw [exec_qrel hs.stalls h, Stall.releaseBound_of_none hb]
  · rw [exec_qrel hs.stalls h, Stall.releaseBound_of_some hb]
    rfl

/-- Settles O27: the checks in order, then a unit by the payload's end and its use. -/
theorem messageCopies : Obligations.MessageCopies := by
  refine ⟨fun s sid hs h => ⟨exec_movq_of_no_count h, fun h1 h64 hi => exec_movq_of_interlock h (by omega) hs.stalls hi,
    fun h1 h64 hi => ⟨exec_movq_of_unbound h (by omega) hi, fun m t hm => ⟨exec_movq_of_copied h (by omega) hi hm hs.stalls,
      fun c => exec_movq_of_fault h (by omega) hi hm⟩⟩⟩,
    fun sid d len payload fuel n off t hn => ⟨movqUnits_of_past hn, movqUnits_of_out hn, fun a hlen hy => ?_⟩⟩
  rw [movqUnits_of_use hn hlen hy, slice_eq_map]
  rfl

/-- Settles O28: the checks in order, then the blocks, one by one. -/
theorem brandWord : Obligations.BrandWord := by
  refine ⟨fun s sid hs h => ⟨exec_brand_of_illegal h, fun hl => exec_brand_of_interlock h hl hs.stalls, fun hl hi b => ⟨fun hr => ?_, fun c hr => ?_⟩⟩,
    fun sid k mode n b => ⟨brandBlocks_of_out, fun a => brandBlocks_of_unaligned, fun a t bytes hy ha hr => brandBlocks_of_block hy ha hr⟩⟩
  · rw [exec_brand_of_blocks h hl hi hs.stalls hr, brandFails_eq, ← reach_eq_getD]
    rfl
  · rw [exec_brand_of_fault h hl hi hr, putStall_eq_of_stalls (brandFails_stalls ..), brandFails_eq]

end Sys2Proof.Proofs
end

section
/-! PROOFS. The stall fault (R65, R150, R220-R222, R391): what its record and the abort it asks for do to its stall, its shed, the sticky
codes and the running place, and from these O22. -/

namespace Sys2Proof.Machine

/-! A record (R391-R394): the sticky code it sets, the sheds it marks, and what it leaves alone. -/

theorem recordCalls_same (s : State) (newly cap : Bool) (code : Nat) (src : Src) : Same [.grm, .mbx] s (recordCalls s newly cap code src) := by
  have hj : Same [.grm, .mbx] s (journal s 8 [code, b2n cap, src.kind, src.loc, 1]) := journal_same Same.refl _ _ (by decide)
  exact Same.ite (Same.ite (ringCore_same (raiseIrq_same hj _ (by decide)) _ _ (by decide)) hj) Same.refl

theorem markSheds_same' (s : State) (code : Nat) (src : Src) : Same [.sheds] s (markSheds s code src) :=
  markSheds_same Same.refl code src (by decide)

theorem record_sticky (s : State) (code : Nat) (src : Src) : (record s code src).err.sticky = s.err.sticky ||| 2 ^ code := by
  rw [record, recordWith_eq, show (recordCalls _ _ _ _ _).err = _ from (recordCalls_same _ _ _ _ _).kept .err (by decide),
    show (markSheds _ _ _).err = _ from (markSheds_same' _ _ _).kept .err (by decide)]
  unfold ErrBlock.record
  dsimp only
  split <;> split <;> rfl

theorem record_sheds_of_shed (s : State) (code k : Nat) :
    (record s code (.shed k)).sheds = gmod s.sheds k fun h => { h with err := h.err ||| 2 ^ code } := by
  rw [record, recordWith_eq]
  exact (recordCalls_same _ _ _ _ _).kept .sheds (by decide)

/-! The abort (R220-R222, R243, R255, R269): the place it stops. -/

theorem bucketsEnd_false_same (s : State) : Same [.mars] s (bucketsEnd s false) := by
  refine Same.foldl Same.refl fun t c ht => ?_
  unfold bucketEnd
  dsimp only
  refine Same.ite ht (Same.ite ?_ (Same.ite ?_ ht))
  · exact modBucket_same ht _ _ (by decide)
  · exact modBucket_same ht _ _ (by decide)

/-- Nothing of the section controller differs but its places, and of these not place `p`. -/
structure KeepsPlace (p : Nat) (s t : State) : Prop where
  sec   : ∃ pl, t.sec = { s.sec with places := pl }
  wf    : gwf t.sec.places = true
  place : t.place p = s.place p

theorem KeepsPlace.of_sec {p : Nat} {s t u : State} (h : KeepsPlace p s t) (hsec : u.sec = t.sec) : KeepsPlace p s u :=
  ⟨hsec ▸ h.sec, hsec ▸ h.wf, (show u.place p = t.place p by rw [State.place, hsec]; rfl).trans h.place⟩

/-- A place that neither loads nor reloads outlives the streams that stop. -/
theorem KeepsPlace.failLoads {p : Nat} {s t : State} (h : KeepsPlace p s t) (hst : (s.place p).st ≠ 1) (hrld : (s.place p).rldRun = false)
    (id : Nat) : KeepsPlace p s (failLoads t id) := by
  obtain ⟨pl, hpl⟩ := h.sec
  have hsec : (Machine.failLoads t id).sec = { t.sec with places := (Machine.failLoads t id).sec.places } := rfl
  refine ⟨⟨(Machine.failLoads t id).sec.places, hsec.trans (by rw [hpl])⟩, gwf_gmapAll h.wf _, ?_⟩
  refine (gget_gmapAll h.wf _ p).trans (Eq.trans (if_neg ?_) h.place)
  rw [show gget t.sec.places p = s.place p from h.place]
  rintro ⟨-, h1 | h1⟩
  · exact hst h1
  · exact Bool.false_ne_true (hrld.symm.trans h1)

theorem KeepsPlace.stopStream {p : Nat} {s t : State} (h : KeepsPlace p s t) (hst : (s.place p).st ≠ 1) (hrld : (s.place p).rldRun = false)
    (q c st : Nat) : KeepsPlace p s (stopStream t q c st) := by
  have hport (f : StreamCtx → StreamCtx) (g : Port → Port) (id : Nat) :
      KeepsPlace p s (sendSctl (modPort (modCtx t q c f) q g) q 4 id 0 0 0) :=
    h.of_sec ((sendSctl_same (ps := [.ports]) (modPort_same (modCtx_same Same.refl _ _ _ (by decide)) _ _ (by decide)) _ _ _ _ _ _
      (by decide)).kept .sec (by decide))
  unfold Machine.stopStream
  dsimp only
  split
  · exact (hport _ _ _).failLoads hst hrld _
  · exact hport _ _ _

theorem KeepsPlace.cancelBound {p : Nat} {s : State} (hwf : gwf s.sec.places = true) (hst : (s.place p).st ≠ 1)
    (hrld : (s.place p).rldRun = false) : KeepsPlace p s (cancelBound s) := by
  unfold Machine.cancelBound
  refine List.foldlRecOn _ _ (List.foldlRecOn _ _ ⟨⟨_, rfl⟩, hwf, rfl⟩ fun t ht pc _ => ht.stopStream hst hrld _ _ _) fun t ht pc _ => ?_
  exact ht.of_sec ((slotFreed_same (ps := [.ports]) Same.refl _ (by decide)).kept .sec (by decide))

/-- The state in which an abort has marked its place and its result. -/
def abortMarked (s : State) (p cause : Nat) : State :=
  { s with
    fresh := s.fresh + 1,
    sec := { s.sec with places := gmod s.sec.places p (fun q => { q with st := 6 }), valid := true, outcome := true, closeerr := false,
                        acause := cause, rplace := p, auto := false, held := false } }

/-- The state in which an abort has also stopped the section's streams and emptied its buckets. -/
def abortEmptied (s : State) (p cause : Nat) : State := bucketsEnd (cancelBound (abortMarked s p cause)) false

theorem abortNow_eq (s : State) (p cause : Nat) :
    abortNow s p cause =
      { abortEmptied s p cause with
        stalls := gmapAll (abortEmptied s p cause).stalls fun t => t.aborted s.fresh (isLoft (abortEmptied s p cause).track),
        track := dropArrived (abortEmptied s p cause) } := rfl

theorem abortEmptied_same (s : State) (p cause : Nat) : Same [.sec, .mars, .ports] (abortMarked s p cause) (abortEmptied s p cause) := by
  have hcancel : Same [.sec, .mars, .ports] (abortMarked s p cause) (cancelBound (abortMarked s p cause)) :=
    cancelBound_same Same.refl (by decide)
  refine ⟨fun q hq => ?_⟩
  have h1 := hcancel.kept q hq
  have h2 := (bucketsEnd_false_same (cancelBound (abortMarked s p cause))).kept q (by cases q <;> simp_all)
  cases q <;> exact h2.trans h1

section
variable (s : State) (p cause : Nat)

theorem abortNow_err : (abortNow s p cause).err = s.err := by
  rw [abortNow_eq]
  dsimp only
  exact (abortEmptied_same s p cause).kept .err (by decide)

theorem abortNow_sheds : (abortNow s p cause).sheds = s.sheds := by
  rw [abortNow_eq]
  dsimp only
  exact (abortEmptied_same s p cause).kept .sheds (by decide)

/-- Every stall stops as an abort stops it. -/
theorem abortNow_stall (hs : gwf s.stalls = true) (sid : Nat) :
    (abortNow s p cause).stall sid = (s.stall sid).aborted s.fresh (isLoft (abortEmptied s p cause).track) := by
  have hstalls : (abortEmptied s p cause).stalls = s.stalls := (abortEmptied_same s p cause).kept .stalls (by decide)
  rw [abortNow_eq]
  dsimp only [State.stall]
  rw [hstalls, gget_gmapAll hs]

/-- The place that an abort stops is ABORTING, and the result names it and the cause. -/
theorem abortNow_place (hp : gwf s.sec.places = true) (hrld : (s.place p).rldRun = false) :
    ((abortNow s p cause).place p).st = 6 ∧ (abortNow s p cause).sec.outcome = true ∧ (abortNow s p cause).sec.acause = cause ∧
      (abortNow s p cause).sec.rplace = p := by
  have hplace : (abortMarked s p cause).place p = { s.place p with st := 6 } := (gget_gmod hp p p _).trans (if_pos rfl)
  have hkeeps : KeepsPlace p (abortMarked s p cause) (abortEmptied s p cause) :=
    (KeepsPlace.cancelBound (gwf_gmod hp _ _) (by rw [hplace]; exact nofun) (by rw [hplace]; exact hrld)).of_sec
      ((bucketsEnd_false_same _).kept .sec (by decide))
  obtain ⟨pl, hsec⟩ := hkeeps.sec
  have hst : ((abortEmptied s p cause).place p).st = 6 := by rw [hkeeps.place, hplace]
  rw [abortNow_eq]
  dsimp only [State.place] at hst ⊢
  rw [hsec] at hst ⊢
  exact ⟨hst, rfl, rfl, rfl⟩

end

/-! The stall fault (R65). -/

/-- A stall's own part of its fault. -/
def Stall.faulted (t : Stall) (code pc ev : Nat) : Stall :=
  { t with
    seq := { t.seq with run := 5, fcode := code, fpc := pc },
    eng := ⟨gmapAll t.eng.banks fun b => { b with undef := some ev }, none, none, none, none, none⟩ }

/-- The state in which a stall has stopped at its fault and NO_PROGRESS is recorded. -/
def faultRecorded (s : State) (sid code pc : Nat) : State :=
  record (modShed (modStall { s with fresh := s.fresh + 1 } sid fun t => t.faulted code pc s.fresh) (shedOf sid) fun h =>
    h.progFired true (stallInShed sid)) 10 (.shed (shedOf sid))

theorem stallFault_of_faulted {s : State} {sid code pc : Nat} (h : (s.stall sid).seq.run = 5) : stallFault s sid code pc = s := if_pos h

section
variable {s : State} {sid code pc : Nat}

theorem faultRecorded_sec : (faultRecorded s sid code pc).sec = s.sec :=
  (record_same (ps := [.grm, .err, .mbx, .sheds]) Same.refl _ _ (by decide)).kept .sec (by decide)

theorem faultRecorded_fresh : (faultRecorded s sid code pc).fresh = s.fresh + 1 :=
  (record_same (ps := [.grm, .err, .mbx, .sheds]) Same.refl _ _ (by decide)).kept .fresh (by decide)

theorem faultRecorded_stalls : (faultRecorded s sid code pc).stalls = gmod s.stalls sid fun t => t.faulted code pc s.fresh := record_stalls ..

theorem faultRecorded_sheds :
    (faultRecorded s sid code pc).sheds =
      gmod (gmod s.sheds (shedOf sid) fun h => h.progFired true (stallInShed sid)) (shedOf sid) fun h => { h with err := h.err ||| 2 ^ 10 } :=
  record_sheds_of_shed ..

theorem faultRecorded_sticky : (faultRecorded s sid code pc).err.sticky = s.err.sticky ||| 2 ^ 10 := record_sticky ..

variable (h : (s.stall sid).seq.run ≠ 5)
include h

theorem stallFault_of_none (hp : runningPlace s = none) : stallFault s sid code pc = faultRecorded s sid code pc := by
  have habort : hwAbort (faultRecorded s sid code pc) 3 = faultRecorded s sid code pc := by
    rw [hwAbort, runningPlace_congr faultRecorded_sec, hp]
  exact (if_neg h).trans habort

theorem stallFault_of_running {p : Nat} (hp : runningPlace s = some p) :
    stallFault s sid code pc = abortNow (faultRecorded s sid code pc) p 3 := by
  have habort : hwAbort (faultRecorded s sid code pc) 3 = abortNow (faultRecorded s sid code pc) p 3 := by
    rw [hwAbort, runningPlace_congr faultRecorded_sec, hp]
  exact (if_neg h).trans habort

/-- A stall fault's records stand whether or not it aborts a section. -/
theorem stallFault_records (hs : gwf s.stalls = true) :
    (stallFault s sid code pc).err = (faultRecorded s sid code pc).err ∧ (stallFault s sid code pc).sheds = (faultRecorded s sid code pc).sheds ∧
      ((stallFault s sid code pc).stall sid).seq.run = 5 ∧ ((stallFault s sid code pc).stall sid).seq.fcode = code ∧
      ((stallFault s sid code pc).stall sid).seq.fpc = pc ∧ ((stallFault s sid code pc).stall sid).seq.pc = (s.stall sid).seq.pc ∧
      ((stallFault s sid code pc).stall sid).seq.retired = (s.stall sid).seq.retired ∧
      ((stallFault s sid code pc).stall sid).seq.sregs = (s.stall sid).seq.sregs := by
  have hwf : gwf (faultRecorded s sid code pc).stalls = true := faultRecorded_stalls ▸ gwf_gmod hs _ _
  have hstall : (faultRecorded s sid code pc).stall sid = (s.stall sid).faulted code pc s.fresh := by
    rw [State.stall, faultRecorded_stalls, gget_gmod hs, if_pos rfl]
    rfl
  cases hp : runningPlace s with
  | none =>
    rw [stallFault_of_none h hp, hstall]
    exact ⟨rfl, rfl, rfl, rfl, rfl, rfl, rfl, rfl⟩
  | some p =>
    rw [stallFault_of_running h hp, abortNow_err, abortNow_sheds, abortNow_stall _ _ _ hwf, hstall]
    exact ⟨rfl, rfl, rfl, rfl, rfl, rfl, rfl, rfl⟩

theorem stallFault_shed (hs : gwf s.stalls = true) (hk : gwf s.sheds = true) :
    (stallFault s sid code pc).shed (shedOf sid) =
      { (s.shed (shedOf sid)).progFired true (stallInShed sid) with err := ((s.shed (shedOf sid)).progFired true (stallInShed sid)).err ||| 2 ^ 10 } := by
  obtain ⟨-, hsheds, -⟩ := stallFault_records (code := code) (pc := pc) h hs
  rw [State.shed, hsheds, faultRecorded_sheds, gget_gmod (gwf_gmod hk _ _), if_pos rfl, gget_gmod hk, if_pos rfl]
  rfl

end

theorem Shed.progFired_of_first {h : Shed} (hf : h.fired = false) (cause : Bool) (stall : Nat) :
    h.progFired cause stall = { h with fired := true, cause := cause, progStall := stall } := if_neg (Bool.eq_false_iff.1 hf)

theorem Shed.progFired_of_fired {h : Shed} (hf : h.fired = true) (cause : Bool) (stall : Nat) : h.progFired cause stall = h := if_pos hf

end Sys2Proof.Machine

namespace Sys2Proof.Proofs
open Sys2Proof Sys2Proof.Machine

/-- Settles O22: the fault's records, and the abort of the section where one runs. -/
theorem whatAStallFaultDoes : Obligations.WhatAStallFaultDoes := by
  intro s sid code pc hs t u
  refine ⟨stallFault_of_faulted, fun hrun => ?_⟩
  obtain ⟨herr, -, hrun5, hfcode, hfpc, hpc, hretired, hsregs⟩ := stallFault_records (code := code) (pc := pc) hrun hs.stalls
  have hshed : t.shed (shedOf sid) = _ := stallFault_shed hrun hs.stalls hs.sheds
  refine ⟨hrun5, hfcode, hfpc, hpc, hretired, hsregs, (congrArg ErrBlock.sticky herr).trans faultRecorded_sticky, fun hf => ?_, fun hf => ?_,
    fun p hp hrld => ?_, fun hp => ?_⟩
  · rw [hshed, Shed.progFired_of_first hf]
    exact ⟨rfl, rfl, rfl⟩
  · rw [hshed, Shed.progFired_of_fired hf]
    exact ⟨rfl, rfl⟩
  · have hsec : (faultRecorded s sid code pc).sec = s.sec := faultRecorded_sec
    rw [show t = _ from stallFault_of_running hrun hp]
    refine abortNow_place _ p 3 (hsec ▸ hs.places) ?_
    rwa [State.place, hsec]
  · rw [show t = _ from stallFault_of_none hrun hp]
    exact ⟨faultRecorded_sec, faultRecorded_fresh⟩

end Sys2Proof.Proofs
end

section
/-! PROOFS. Malformed words (R45, R65, R75, R105; log 12): each row's command issues its word, whose body refuses a bit outside the row's
fields, and from these O21. -/

namespace Sys2Proof.Machine

theorem unassignedOp_iff {o : Nat} :
    unassignedOp o = true ↔ o ∈ [0x11, 0x15, 0x16, 0x17, 0x1C, 0x1D, 0x1E, 0x1F, 0x34, 0x35, 0x36, 0x37] := by
  simp only [unassignedOp, Bool.or_eq_true, Bool.and_eq_true, decide_eq_true_eq, List.mem_cons, List.not_mem_nil, or_false]
  omega

/-- The fields of a matrix word are the bits from `lo` up. -/
theorem onlyFields_high {w lo : Nat} (h : lo ≤ 57) : onlyFields w [(57, lo)] = true ↔ w % 2 ^ lo = 0 := by
  have hpow : (2 : Nat) ^ 58 = 2 ^ lo * 2 ^ (58 - lo) := by rw [← Nat.pow_add]; congr 1; omega
  rw [onlyFields, decide_eq_true_iff, List.foldl_cons, List.foldl_nil, bitsOf, Nat.zero_add, Nat.shiftRight_eq_div_pow, hpow, Nat.mod_mul,
    Nat.mul_comm (2 ^ lo)]
  show w % 2 ^ lo + w / 2 ^ lo % 2 ^ (58 - lo) * 2 ^ lo = w / 2 ^ lo % 2 ^ (58 - lo) * 2 ^ lo ↔ _
  omega

theorem bitsOf_low_ne_zero {w lo : Nat} (h : lo + 1 ≤ 57) (hw : onlyFields w [(57, lo + 1)] = false) : bitsOf w lo 0 ≠ 0 := by
  rw [bitsOf_low]
  exact fun h0 => Bool.eq_false_iff.1 hw ((onlyFields_high h).2 h0)

/-- The body of a word refuses a bit outside its fields. -/
def RefusesStrayBits (s : State) (fs : List (Nat × Nat)) (body : Stall → Nat → WordEnd) : Prop :=
  ∀ t w, onlyFields w fs = false → body t w = .fault s fIllegal

theorem VF.valid_of_stray_bits {v : VF} {w : Nat} (h : onlyFields w vecFields = false) : v.valid w = false := by
  rw [vecFields] at h
  simp only [VF.valid, h, Bool.false_and]

theorem vecWord_refuses (s : State) (sid : Nat) (res : Bool) : RefusesStrayBits s vecFields (vecWord s sid res) := by
  intro t w hw
  simp only [vecWord, VF.valid_of_stray_bits hw, Bool.not_false, if_true]

theorem tallyWord_refuses (s : State) (sid : Nat) (change : State → Nat → Nat → Nat → State) :
    RefusesStrayBits s [(57, 57), (53, 49), (48, 44), (15, 0)] (tallyWord s sid change) := by
  intro t w hw
  simp only [tallyWord, hw, Bool.not_false, Bool.true_or, if_true]

theorem brtWord_refuses (s : State) (sid : Nat) :
    RefusesStrayBits s [(57, 57), (56, 55), (54, 54), (53, 49), (48, 44), (31, 16), (8, 0)] (brtWord s sid) := by
  intro t w hw
  simp only [brtWord, hw, Bool.not_false, if_true]

/-- The command of every row issues its word, and the word's body refuses stray bits. -/
theorem exec_wordRow {i : Instr} {sid : StallId} {op : Nat} {fs : List (Nat × Nat)} {s : State} (h : wordRow i = some (sid, op, fs))
    (hbrt : i = .brt sid → (s.stall sid).seq.run ≠ 3) :
    ∃ body, exec i s = .next (issueWord s sid op body) ∧ RefusesStrayBits s fs body := by
  cases i with
  | brt _ => cases h; exact ⟨_, congrArg _ (if_neg (hbrt rfl)), brtWord_refuses s sid⟩
  | nop _ => cases h; exact ⟨_, rfl, fun t w hw => if_neg (Bool.eq_false_iff.1 hw)⟩
  | dmm _ | smm _ | sdd _ =>
    cases h
    refine ⟨_, rfl, fun t w hw => ?_⟩
    simp only [bitsOf_low_ne_zero (by decide) hw, ne_eq, not_false_eq_true, decide_true, Bool.true_or, if_true]
  | tinc _ | tdec _ => cases h; exact ⟨_, rfl, tallyWord_refuses s sid _⟩
  | vadd _ _ | vsub _ _ | vmul _ _ | vfma _ _ | vmax _ _ | vmin _ _ | vact _ _ | vexp2 _ _ | vlog2 _ _ | vrsqrt _ _ | vrcp _ _ | vred _ _
  | vcvt _ _ | vcmp _ _ | vlogic _ | vcopy _ => cases h; exact ⟨_, rfl, vecWord_refuses s sid _⟩
  | endW _ | loop _ | waitg _ | arrive _ | br _ | jmp _ | mov _ _ | movq _ | lds _ _ | sts _ | agb _ | ags _ | movqs _ | qrel _ | drain _
  | dexp _ | dstat _ | psel _ | pchk _ | send _ | sendl _ | sends _ | relay _ | trd _ | tset _ | brand _ | ballast _ | salu _ | sli _ =>
    cases h
    refine ⟨_, rfl, fun t w hw => ?_⟩
    simp only [hw, Bool.not_false, Bool.true_or, if_true]
  | _ => exact nomatch h

section
variable {s : State} {sid op : Nat} {body : Stall → Nat → WordEnd} (hi : canIssue s sid = true)
include hi

theorem issueWord_of_unassigned (ho : unassignedOp (s.fld sid 63 58) = true) :
    issueWord s sid op body = stallFault s sid 1 (s.stall sid).seq.pc := by
  rw [State.fld] at ho
  simp only [issueWord, hi, ho, if_true, fIllegal]

theorem issueWord_of_fault (hop : s.fld sid 63 58 = op) (hb : body (s.stall sid) (wordAt (s.stall sid)) = .fault s fIllegal) :
    issueWord s sid op body = stallFault s sid 1 (s.stall sid).seq.pc := by
  rw [State.fld] at hop
  simp only [issueWord, hi, hop, hb, if_true, finishWord, fIllegal, ite_self]

theorem issueWord_of_other (ho : unassignedOp (s.fld sid 63 58) = false) (hop : s.fld sid 63 58 ≠ op) : issueWord s sid op body = s := by
  rw [State.fld] at ho hop
  simp only [issueWord, hi, ho, hop, Bool.false_eq_true, if_true, if_false]

end

end Sys2Proof.Machine

namespace Sys2Proof.Proofs
open Sys2Proof Sys2Proof.Machine

/-- Settles O21: every row issues its word, and what the opcode and the fields at the PC are decides. -/
theorem malformedWordsFault : Obligations.MalformedWordsFault := by
  intro i sid op fs s hrow hi hbrt
  obtain ⟨body, hexec, hrefuses⟩ := exec_wordRow hrow hbrt
  refine ⟨fun ho => ?_, fun hop hw => ?_, fun hno => ?_⟩
  · rw [hexec, issueWord_of_unassigned hi (unassignedOp_iff.2 ho)]
  · rw [hexec, issueWord_of_fault hi hop (hrefuses _ _ hw)]
  · obtain ⟨hop, ho⟩ := not_or.1 (hno ∘ List.mem_cons.2)
    rw [hexec, issueWord_of_other hi (Bool.eq_false_iff.2 (ho ∘ unassignedOp_iff.1)) hop]

end Sys2Proof.Proofs
end

section
/-! PROOFS. The vector words (R54-R56, R72, R389, R487): the order of a word's schedule, the integer elements, what a word ends in, and
from these O30 to O32. -/

namespace Sys2Proof.Machine

/-! The schedule (R56). -/

/-- One event takes effect no later than another. -/
def VEvent.NotAfter (x y : VEvent) : Prop := x.cycle < y.cycle ∨ (x.cycle = y.cycle ∧ x.rank ≤ y.rank)

theorem VEvent.NotAfter.trans {x y z : VEvent} (h : x.NotAfter y) (h' : y.NotAfter z) : x.NotAfter z := by
  unfold VEvent.NotAfter at *
  omega

theorem VEvent.notAfter_of_not {x y : VEvent} (h : ¬ x.NotAfter y) : y.NotAfter x := by
  unfold VEvent.NotAfter at *
  omega

theorem insertEvent_perm (e : VEvent) (l : List VEvent) : (insertEvent e l).Perm (e :: l) := by
  induction l with
  | nil => exact .refl _
  | cons x xs ih =>
    unfold insertEvent
    split
    · exact .refl _
    · exact (ih.cons x).trans (.swap e x xs)

theorem insertEvent_pairwise {e : VEvent} {l : List VEvent} (h : l.Pairwise VEvent.NotAfter) : (insertEvent e l).Pairwise VEvent.NotAfter := by
  induction l with
  | nil => exact List.pairwise_singleton ..
  | cons x xs ih =>
    obtain ⟨hx, hxs⟩ := List.pairwise_cons.1 h
    unfold insertEvent
    by_cases he : e.NotAfter x
    · refine (if_pos he) ▸ List.pairwise_cons.2 ⟨fun y hy => ?_, h⟩
      rcases List.mem_cons.1 hy with rfl | hy
      · exact he
      · exact he.trans (hx y hy)
    · refine (if_neg he) ▸ List.pairwise_cons.2 ⟨fun y hy => ?_, ih hxs⟩
      rcases List.mem_cons.1 ((insertEvent_perm e xs).mem_iff.1 hy) with rfl | hy
      · exact VEvent.notAfter_of_not he
      · exact hx y hy

theorem foldr_insertEvent_perm (l : List VEvent) : (l.foldr insertEvent []).Perm l := by
  induction l with
  | nil => exact .refl _
  | cons e l ih => exact (insertEvent_perm e _).trans (ih.cons e)

theorem foldr_insertEvent_pairwise (l : List VEvent) : (l.foldr insertEvent []).Pairwise VEvent.NotAfter := by
  induction l with
  | nil => exact .nil
  | cons e l ih => exact insertEvent_pairwise ih

/-- The place of an event among those of its cycle. -/
def VEv.place : VEv → Nat
  | .scale => 0
  | .readA => 1
  | .readB => 2
  | .readD => 3
  | .write => 4

/-- An event of a kind, in a cycle, of a chunk or a use. -/
def VEv.inCycle (ev : VEv) (cycle k : Nat) : VEvent := ⟨cycle, ev.place, ev, k⟩

/-- The reads, writes and scale uses of a word before they are put in order. -/
def VF.rawEvents (v : VF) (u : Stall) (fresh : Nat) : List VEvent :=
  let c := v.factor u
  let l := v.slow u
  let at' := fun (k o : Nat) => v.moved c l (l + c * k) + within c (fresh + 3 * k + o)
  ((List.range v.n).flatMap fun k =>
    (if v.readsA then [VEv.readA.inCycle (at' k 0) k] else []) ++ (if v.readsB then [VEv.readB.inCycle (at' k 1) k] else []) ++
      (if v.readsD then [VEv.readD.inCycle (at' k 2) k] else [])) ++
  (List.range v.dstUnits).map (fun j => VEv.write.inCycle (v.writeCycle c l j) j) ++
  (List.range v.scaleUses).map fun u => VEv.scale.inCycle (v.scaleCycle c l u + 1 + u) u

theorem VF.events_eq (v : VF) (u : Stall) (fresh : Nat) : v.events u fresh = (v.rawEvents u fresh).foldr insertEvent [] := rfl

theorem VF.rawEvents_place (v : VF) (u : Stall) (fresh : Nat) : ∀ x ∈ v.rawEvents u fresh, x.rank = x.ev.place := by
  intro x hx
  simp only [VF.rawEvents, List.mem_append, List.mem_flatMap, List.mem_map, List.mem_ite_nil_right, List.mem_singleton] at hx
  rcases hx with (⟨k, -, (⟨-, rfl⟩ | ⟨-, rfl⟩) | ⟨-, rfl⟩⟩ | ⟨j, -, rfl⟩) | ⟨j, -, rfl⟩ <;> rfl

theorem VF.rawEvents_map (v : VF) (u : Stall) (fresh : Nat) :
    (v.rawEvents u fresh).map (fun x => (x.ev, x.k)) =
      (List.range v.n).flatMap (fun k => (if v.readsA then [(VEv.readA, k)] else []) ++ (if v.readsB then [(VEv.readB, k)] else []) ++
        (if v.readsD then [(VEv.readD, k)] else [])) ++
      (List.range v.dstUnits).map (fun j => (VEv.write, j)) ++ (List.range v.scaleUses).map (fun k => (VEv.scale, k)) := by
  simp only [VF.rawEvents, List.map_append, List.map_flatMap, List.map_map, apply_ite (List.map _), List.map_cons, List.map_nil]
  rfl

/-! Integer elements (R55, R70, R487). -/

theorem readFmt_of_int {code : Nat} (h : fltOf code = none) (p : Nat) : readFmt code p = .ofInt (BitVec.ofNat (widthOf code) p).toInt := by
  rw [readFmt, h, signedOf_eq_toInt]

theorem writeFmt_of_int {code : Nat} (h : fltOf code = none) (rnd : Rnd) (x : FV) : writeFmt code rnd x = writeInt (widthOf code) rnd x := by
  rw [writeFmt, h]

/-- The integer of a finite value of exponent 0. -/
def signedInt (neg : Bool) (m : Nat) : Int := if neg then -(m : Int) else m

theorem signedInt_natAbs (x : Int) : signedInt (decide (x < 0)) x.natAbs = x := by
  unfold signedInt
  split
  · next h => have := of_decide_eq_true h; omega
  · next h => have := mt decide_eq_true h; omega

theorem unitsAt_zero (n : Bool) (m : Nat) : unitsAt n m 0 0 = signedInt n m := by
  simp only [unitsAt, signedInt, sub_self, Int.toNat_zero, pow_zero, mul_one]

theorem FV.add_of_ints (n k : Bool) (m q : Nat) (h : ¬ (n = true ∧ m = 0)) :
    (FV.fin n m 0).add (.fin k q 0) = .ofInt (signedInt n m + signedInt k q) := by
  simp only [FV.add, min_self, unitsAt_zero]
  split
  · next hx =>
    rw [hx]
    refine congrArg (fun c => FV.fin c 0 0) ?_
    cases n with
    | false => simp only [Bool.and_false, Bool.false_and]; rfl
    | true => simp only [decide_eq_false fun hm => h ⟨rfl, hm⟩, Bool.false_and]; rfl
  · rfl

theorem FV.ofInt_not_negZero (x : Int) : ¬ (decide (x < 0) = true ∧ x.natAbs = 0) := by
  rw [decide_eq_true_iff]
  omega

theorem FV.add_ofInt (a b : Int) : (FV.ofInt a).add (.ofInt b) = .ofInt (a + b) := by
  refine (FV.add_of_ints _ _ _ _ (FV.ofInt_not_negZero a)).trans ?_
  rw [signedInt_natAbs, signedInt_natAbs]

theorem FV.sub_ofInt (a b : Int) : (FV.ofInt a).sub (.ofInt b) = .ofInt (a - b) := by
  refine (FV.add_of_ints _ _ _ _ (FV.ofInt_not_negZero a)).trans ?_
  have hneg : signedInt (!decide (b < 0)) b.natAbs = -b := by
    unfold signedInt
    by_cases hb : b < 0
    · rw [decide_eq_true hb, Bool.not_true, if_neg Bool.false_ne_true]
      omega
    · rw [decide_eq_false hb, Bool.not_false, if_pos rfl]
      omega
  rw [signedInt_natAbs, hneg, sub_eq_add_neg]

theorem FV.mul_ofInt (a b : Int) : (FV.ofInt a).mul (.ofInt b) = .fin (decide (a < 0) != decide (b < 0)) (a.natAbs * b.natAbs) 0 := rfl

theorem signedInt_mul (a b : Int) : signedInt (decide (a < 0) != decide (b < 0)) (a.natAbs * b.natAbs) = a * b := by
  have hprod (n k : Bool) (m q : Nat) : signedInt (n != k) (m * q) = signedInt n m * signedInt k q := by
    cases n <;> cases k <;> simp [signedInt]
  rw [hprod, signedInt_natAbs, signedInt_natAbs]

theorem FV.compare_ofInt (a b : Int) : (FV.ofInt a).compare (.ofInt b) = some (Ord.compare a b) := by
  simp only [FV.compare, FV.ofInt, min_self, unitsAt_zero, signedInt_natAbs]

theorem FV.below_ofInt (a b : Int) : (FV.ofInt a).below (.ofInt b) = decide (a < b) := by
  simp only [FV.below, FV.ofInt, min_self, unitsAt_zero, signedInt_natAbs]
  by_cases ha : a = 0
  · simp [ha]
  · simp [ha]

theorem FV.max_ofInt (a b : Int) : (FV.ofInt a).max (.ofInt b) = .ofInt (if a < b then b else a) := by
  show (if (FV.ofInt a).below (.ofInt b) then _ else _) = _
  rw [FV.below_ofInt, apply_ite FV.ofInt]
  simp only [decide_eq_true_eq]

theorem FV.min_ofInt (a b : Int) : (FV.ofInt a).min (.ofInt b) = .ofInt (if b < a then b else a) := by
  show (if (FV.ofInt b).below (.ofInt a) then _ else _) = _
  rw [FV.below_ofInt, apply_ite FV.ofInt]
  simp only [decide_eq_true_eq]

theorem clampInt_eq_max_min {lo hi : Int} (h : lo ≤ hi) (x : Int) : clampInt x lo hi = max lo (min x hi) := by
  unfold clampInt
  split
  · omega
  split <;> omega

/-- An integer result saturates to the format (R70). -/
theorem writeInt_fin (w : Nat) (rnd : Rnd) (n : Bool) (m : Nat) :
    writeInt w rnd (.fin n m 0) = (BitVec.ofInt w (max (-(2 ^ (w - 1))) (min (signedInt n m) (2 ^ (w - 1) - 1)))).toNat := by
  have hpos : (0 : Int) < ((2 ^ (w - 1) : Nat) : Int) := by exact_mod_cast Nat.two_pow_pos _
  have hq : roundUnits rnd m 0 0 = m := by simp only [roundUnits, le_refl, if_true, sub_self, Int.toNat_zero, pow_zero, mul_one]
  simp only [writeInt, hq]
  rw [clampInt_eq_max_min (by omega), patternOf_eq_toNat]
  push_cast
  rfl

theorem writeInt_ofInt (w : Nat) (rnd : Rnd) (x : Int) :
    writeInt w rnd (.ofInt x) = (BitVec.ofInt w (max (-(2 ^ (w - 1))) (min x (2 ^ (w - 1) - 1)))).toNat := by
  rw [FV.ofInt, writeInt_fin, signedInt_natAbs]

/-- An element's own value is its own result. -/
theorem writeInt_toInt {w : Nat} (rnd : Rnd) {p : Nat} (hp : p < 2 ^ w) : writeInt w rnd (.ofInt (BitVec.ofNat w p).toInt) = p := by
  have hlo := BitVec.le_toInt (BitVec.ofNat w p)
  have hhi := BitVec.toInt_lt (x := BitVec.ofNat w p)
  rw [writeInt_ofInt, min_eq_left (by omega), max_eq_right hlo, BitVec.ofInt_toInt, BitVec.toNat_ofNat, Nat.mod_eq_of_lt hp]

theorem writeInt_flag {w : Nat} (hw : 1 < w) (rnd : Rnd) (c : Bool) : writeInt w rnd (.fin false (b2n c) 0) = b2n c := by
  have hlt : b2n c < 2 ^ (w - 1) := (show b2n c < 2 by cases c <;> decide).trans_le (Nat.le_self_pow (by omega) 2)
  have hlt' : (b2n c : Int) < 2 ^ (w - 1) := by exact_mod_cast hlt
  rw [writeInt_fin, signedInt, if_neg Bool.false_ne_true, min_eq_left (by omega), max_eq_right (by omega), BitVec.toNat_ofInt,
    Int.emod_eq_of_lt (by omega) (by exact_mod_cast hlt.trans_le (Nat.pow_le_pow_right (by decide) (by omega)))]
  rfl

/-- A signed element of the word. -/
def VF.int (v : VF) (p : Nat) : Int := (BitVec.ofNat (widthOf v.fmt) p).toInt

/-- A value saturated to the word's format. -/
def VF.saturated (v : VF) (x : Int) : Nat :=
  (BitVec.ofInt (widthOf v.fmt) (max (-(2 ^ (widthOf v.fmt - 1))) (min x (2 ^ (widthOf v.fmt - 1) - 1)))).toNat

theorem VF.int_inj {v : VF} {p q : Nat} (hp : p < 2 ^ widthOf v.fmt) (hq : q < 2 ^ widthOf v.fmt) (h : v.int p = v.int q) : p = q := by
  have heq := congrArg BitVec.toNat (BitVec.eq_of_toInt_eq h)
  rwa [BitVec.toNat_ofNat, BitVec.toNat_ofNat, Nat.mod_eq_of_lt hp, Nat.mod_eq_of_lt hq] at heq

/-- The comparison of VCMP by its sub-operation. -/
def VF.compares (v : VF) (x y : Int) : Bool :=
  if v.sub = 0 then decide (x = y) else if v.sub = 1 then decide (x ≠ y) else if v.sub = 2 then decide (x < y) else decide (y ≤ x)

theorem VF.compares_eq (v : VF) (x y : Int) : v.compares x y =
    let c := some (Ord.compare x y)
    if v.sub = 0 then decide (c = some .eq) else if v.sub = 1 then decide (c ≠ some .eq) else if v.sub = 2 then decide (c = some .lt)
    else decide (c = some .gt ∨ c = some .eq) := by
  simp only [VF.compares, Option.some.injEq, ne_eq, compare_eq_iff_eq, compare_lt_iff_lt, compare_gt_iff_gt, le_iff_lt_or_eq, eq_comm (a := y)]

section
variable {v : VF} (env : ElemEnv) (pa pb pd : Nat) (hv : v.fmt = 3 ∨ v.fmt = 4)
include hv

theorem fltOf_of_integer : fltOf v.fmt = none := by
  rcases hv with h | h <;> rw [h] <;> rfl

theorem one_lt_widthOf : 1 < widthOf v.fmt := by
  rcases hv with h | h <;> rw [h] <;> decide

theorem vElem_add (hop : v.op = 0x20) : vElem v env pa pb pd = v.saturated (v.int pa + v.int pb) := by
  have hf := fltOf_of_integer hv
  simp only [vElem, hop, readFmt_of_int hf, FV.add_ofInt, writeFmt_of_int hf, writeInt_ofInt]
  rfl

theorem vElem_sub (hop : v.op = 0x21) : vElem v env pa pb pd = v.saturated (v.int pa - v.int pb) := by
  have hf := fltOf_of_integer hv
  simp only [vElem, hop, readFmt_of_int hf, FV.sub_ofInt, writeFmt_of_int hf, writeInt_ofInt]
  rfl

theorem vElem_mul (hop : v.op = 0x22) : vElem v env pa pb pd = v.saturated (v.int pa * v.int pb) := by
  have hf := fltOf_of_integer hv
  simp only [vElem, hop, readFmt_of_int hf, FV.mul_ofInt, writeFmt_of_int hf, writeInt_fin, signedInt_mul]
  rfl

theorem vElem_max (hop : v.op = 0x24) (ha : pa < 2 ^ widthOf v.fmt) (hb : pb < 2 ^ widthOf v.fmt) :
    vElem v env pa pb pd = if v.int pa < v.int pb then pb else pa := by
  have hf := fltOf_of_integer hv
  simp only [vElem, hop, readFmt_of_int hf, FV.max_ofInt, writeFmt_of_int hf, apply_ite FV.ofInt, apply_ite (writeInt _ _), writeInt_toInt _ ha,
    writeInt_toInt _ hb]
  rfl

theorem vElem_min (hop : v.op = 0x25) (ha : pa < 2 ^ widthOf v.fmt) (hb : pb < 2 ^ widthOf v.fmt) :
    vElem v env pa pb pd = if v.int pb < v.int pa then pb else pa := by
  have hf := fltOf_of_integer hv
  simp only [vElem, hop, readFmt_of_int hf, FV.min_ofInt, writeFmt_of_int hf, apply_ite FV.ofInt, apply_ite (writeInt _ _), writeInt_toInt _ ha,
    writeInt_toInt _ hb]
  rfl

theorem vElem_compare (hop : v.op = 0x2D) : vElem v env pa pb pd = b2n (v.compares (v.int pa) (v.int pb)) := by
  have hf := fltOf_of_integer hv
  simp only [vElem, hop, readFmt_of_int hf, FV.compare_ofInt, writeFmt_of_int hf, writeInt_flag (one_lt_widthOf hv)]
  rw [VF.compares_eq]
  rfl

omit hv

theorem vElem_logic (hop : v.op = 0x2E) : vElem v env pa pb pd =
    (if v.sub = 0 then pa &&& pb else if v.sub = 1 then pa ||| pb else if v.sub = 2 then pa ^^^ pb else 2 ^ widthOf v.fmt - 1 - pa) %
      2 ^ widthOf v.fmt := by
  simp only [vElem, hop]

theorem vElem_copy (hop : v.op = 0x2F) (hbs : v.bs = false) : vElem v env pa pb pd = pa := by
  simp only [vElem, hop, hbs, Bool.false_eq_true, if_false]

end

/-! What a vector word ends in (R54, R65, R389). -/

theorem exec_vector {i : Instr} {sid : StallId} {op : Nat} {s : State} (h : wordRow i = some (sid, op, vecFields)) :
    exec i s = .next (issueWord s sid op (vecWord s sid (residueFailed i))) := by
  cases i with
  | vadd _ _ | vsub _ _ | vmul _ _ | vfma _ _ | vmax _ _ | vmin _ _ | vact _ _ | vexp2 _ _ | vlog2 _ _ | vrsqrt _ _ | vrcp _ _ | vred _ _
  | vcvt _ _ | vcmp _ _ | vlogic _ | vcopy _ => cases h; rfl
  | _ => exact nomatch h

theorem unassignedOp_of_vector {op : Nat} (hlo : 0x20 ≤ op) (hhi : op ≤ 0x2F) : unassignedOp op = false := by
  refine Bool.eq_false_iff.2 fun h => ?_
  have := unassignedOp_iff.1 h
  simp only [List.mem_cons, List.not_mem_nil, or_false] at this
  omega

/-- The stall under a vector word whose schedule has run. -/
def VF.ran (v : VF) (s : State) (sid : Nat) (bad : Bool) (u : Stall) : VRun :=
  (v.events u s.fresh).foldl (VRun.step sid v (roundings v.rnd (u.sreg sid v.ss) s.fresh v.elems) (u.sreg sid v.ss) s.fresh bad)
    ⟨u, [], [], [], [], [], none⟩

/-- The state beside a vector word's stall: its free values drawn, and a failed residue check recorded. -/
def VF.beside (v : VF) (s : State) (sid : Nat) (bad : Bool) : State :=
  if bad then record (takeMany s (4 * v.elems + 1)) 3 (.stall sid) else takeMany s (4 * v.elems + 1)

theorem VF.beside_stalls (v : VF) (s : State) (sid : Nat) (bad : Bool) : (v.beside s sid bad).stalls = s.stalls := by
  cases bad
  · rfl
  · exact record_stalls ..

theorem VF.beside_put (v : VF) (s : State) (sid : Nat) (bad : Bool) (t : Stall) :
    (if bad then record (takeMany (putStall s sid t) (4 * v.elems + 1)) 3 (.stall sid) else takeMany (putStall s sid t) (4 * v.elems + 1)) =
      putStall (v.beside s sid bad) sid t := by
  cases bad
  · rfl
  · exact record_put (takeMany s _) ..

section
variable {s : State} {sid : Nat} {bad : Bool} {u : Stall} {w : Nat} (hvalid : (VF.of w).valid w = true)
  (hfree : u.interlocked (VF.of w).ags ((VF.of w).writeSpaces u) = false)
include hvalid

theorem vecWord_hold (hlock : u.interlocked (VF.of w).ags ((VF.of w).writeSpaces u) = true) : vecWord s sid bad u w = .hold s 1 := by
  simp only [vecWord, hvalid, hlock, Bool.not_true, Bool.false_eq_true, if_true, if_false]

include hfree

theorem vecWord_retire {op : Nat} (hop : (VF.of w).op = op) (herr : ((VF.of w).ran s sid bad u).err = none) :
    let v := VF.of w
    let r := v.ran s sid bad u
    vecWord s sid bad u w = .retire (putStall (v.beside s sid bad) sid
      (if op = 0x2B then r.t.setSreg v.ss (if bad then (Config.freeWord s.fresh).toNat else
        vRed v r.as (roundings v.rnd (u.sreg sid v.ss) s.fresh v.elems)) else r.t))
      (v.cost u) (decide ((u.ag v.a).space ≠ 0 ∨ 0 < v.lofts u)) := by
  rw [VF.ran] at herr
  simp only [vecWord, hvalid, hfree, herr, hop, VF.beside_put, Option.isNone_none, and_true, Bool.not_true, Bool.false_eq_true, if_false,
    Bool.decide_or]
  rfl

theorem vecWord_fault {c : Nat} (herr : ((VF.of w).ran s sid bad u).err = some c) :
    vecWord s sid bad u w = .fault (putStall ((VF.of w).beside s sid bad) sid ((VF.of w).ran s sid bad u).t) c := by
  rw [VF.ran] at herr
  simp only [vecWord, hvalid, hfree, herr, VF.beside_put, Option.isNone_some, Bool.false_eq_true, and_false, Bool.not_true, if_false]
  rfl

end

end Sys2Proof.Machine

namespace Sys2Proof.Proofs
open Sys2Proof Sys2Proof.Machine

/-- Settles O31: the schedule is the insertion sort of the word's events, which keeps their number and orders them. -/
theorem vectorReadsSeeEarlierWrites : Obligations.VectorReadsSeeEarlierWrites := by
  intro v u fresh
  rw [VF.events_eq]
  have hperm := foldr_insertEvent_perm (v.rawEvents u fresh)
  refine ⟨foldr_insertEvent_pairwise _, fun x hx => ?_, ?_⟩
  · exact (v.rawEvents_place u fresh x (hperm.mem_iff.1 hx)).trans (by cases x.ev <;> rfl)
  · rw [← v.rawEvents_map u fresh]
    exact hperm.map _

/-- Settles O32: an integer element is its own value, and its result is written back saturated. -/
theorem vectorIntegerElements : Obligations.VectorIntegerElements := by
  intro v env pa pb pd hv hbs w a b sat of ha hb
  have hle : (if a ≤ b then pb else pa) = if a < b then pb else pa := by
    rcases lt_trichotomy a b with h | h | h
    · rw [if_pos h.le, if_pos h]
    · rw [if_pos h.le, if_neg h.not_lt, VF.int_inj (v := v) ha hb h]
    · rw [if_neg h.not_ge, if_neg h.not_gt]
  have hcmp (k : Nat) (hop : v.op = 0x2D) (hsub : v.sub = k) : vElem v env pa pb pd =
      b2n (if k = 0 then decide (a = b) else if k = 1 then decide (a ≠ b) else if k = 2 then decide (a < b) else decide (b ≤ a)) :=
    hsub ▸ vElem_compare env pa pb pd hv hop
  have hlogic (k : Nat) (hop : v.op = 0x2E) (hsub : v.sub = k) : vElem v env pa pb pd =
      (if k = 0 then pa &&& pb else if k = 1 then pa ||| pb else if k = 2 then pa ^^^ pb else 2 ^ w - 1 - pa) % 2 ^ w :=
    hsub ▸ vElem_logic env pa pb pd hop
  refine ⟨fun hop _ => vElem_add env pa pb pd hv hop, fun hop _ => vElem_sub env pa pb pd hv hop, fun hop _ => vElem_mul env pa pb pd hv hop,
    fun hop _ => ?_, fun hop _ => ?_, fun hop hsub => ?_, fun hop hsub => ?_, fun hop hsub => ?_, fun hop hsub => ?_, fun hop hsub => ?_,
    fun hop hsub => ?_, fun hop hsub => ?_, fun hop hsub => ?_, fun hop _ => vElem_copy env pa pb pd hop hbs⟩
  · rw [hle]
    exact vElem_max env pa pb pd hv hop ha hb
  · have hmin : (if a ≤ b then pa else pb) = if b < a then pb else pa := by simp only [← not_lt, ite_not]
    rw [hmin]
    exact vElem_min env pa pb pd hv hop ha hb
  · rw [hcmp 0 hop hsub, if_pos rfl, b2n]
    simp only [decide_eq_true_eq]
  · rw [hcmp 1 hop hsub, if_neg (by decide), if_pos rfl, b2n]
    simp only [decide_eq_true_eq, ne_eq, ite_not]
  · rw [hcmp 2 hop hsub, if_neg (by decide), if_neg (by decide), if_pos rfl, b2n]
    simp only [decide_eq_true_eq]
  · rw [hcmp 3 hop hsub, if_neg (by decide), if_neg (by decide), if_neg (by decide), b2n]
    simp only [decide_eq_true_eq, ← not_lt, ite_not]
  · rw [hlogic 0 hop hsub]
    exact Nat.mod_eq_of_lt (Nat.and_lt_two_pow _ hb)
  · rw [hlogic 1 hop hsub]
    exact Nat.mod_eq_of_lt (Nat.or_lt_two_pow ha hb)
  · rw [hlogic 2 hop hsub]
    exact Nat.mod_eq_of_lt (Nat.xor_lt_two_pow ha hb)
  · rw [hlogic 3 hop hsub, BitVec.toNat_not, BitVec.toNat_ofNat, Nat.mod_eq_of_lt ha]
    exact Nat.mod_eq_of_lt (by have := Nat.two_pow_pos w; show 2 ^ w - 1 - pa < 2 ^ w; omega)

/-- Settles O30: every vector command issues the word's body, which refuses, holds, or runs its schedule to its end or to its first fault. -/
theorem vectorWordsRun : Obligations.VectorWordsRun := by
  intro i sid op s hc hrow hlo hhi h u v bad rs run s1 s2 red port
  have hs := hc.stalls
  have hop := unassignedOp_of_vector hlo hhi
  have hbeside : s2 = v.beside s sid bad := rfl
  rw [exec_vector hrow]
  refine ⟨fun hv => ?_, fun hv hlock => ?_, fun hv hfree => ⟨fun herr => ?_, fun c herr => ?_⟩⟩
  · refine h.next hop (e := .fault s 1) ?_ rfl
    simp only [vecWord, show (VF.of (wordAt (s.stall sid))).valid (wordAt (s.stall sid)) = false from hv, Bool.not_false, if_true]
    rfl
  · exact h.next hop (vecWord_hold hv hlock) (finish_hold hs sid 1)
  · rw [hbeside]
    exact h.next hop (vecWord_retire hv hfree h.opcode herr) (finish_retire_beside hs (v.beside_stalls s sid bad) _ _ _)
  · refine h.next hop (vecWord_fault hv hfree herr) ?_
    rw [putStall_eq_of_stalls (v.beside_stalls s sid bad), hbeside]
    rfl

end Sys2Proof.Proofs
end

section
/-! PROOFS. The send words (R57, R58, R78, R131, R135, R159): when a fenced send is allowed and the injection port refuses, the sequencer
beside the messages a word sends, one equation for each of a word's outcomes, and from these O34. -/

namespace Sys2Proof.Machine

/-! Fields of a word (R50, R58). -/

theorem setBits_eq (v x : Nat) {hi lo : Nat} :
    setBits v hi lo x = 2 ^ lo * (2 ^ (hi + 1 - lo) * (v / 2 ^ lo / 2 ^ (hi + 1 - lo)) + x % 2 ^ (hi + 1 - lo)) + v % 2 ^ lo := by
  have hlow := Nat.div_add_mod v (2 ^ lo)
  have hhigh := Nat.div_add_mod (v / 2 ^ lo) (2 ^ (hi + 1 - lo))
  have hcut : v - v / 2 ^ lo % 2 ^ (hi + 1 - lo) * 2 ^ lo =
      2 ^ lo * (2 ^ (hi + 1 - lo) * (v / 2 ^ lo / 2 ^ (hi + 1 - lo))) + v % 2 ^ lo := by
    refine Nat.sub_eq_of_eq_add ?_
    calc v = 2 ^ lo * (v / 2 ^ lo) + v % 2 ^ lo := hlow.symm
      _ = 2 ^ lo * (2 ^ (hi + 1 - lo) * (v / 2 ^ lo / 2 ^ (hi + 1 - lo)) + v / 2 ^ lo % 2 ^ (hi + 1 - lo)) + v % 2 ^ lo := by rw [hhigh]
      _ = _ := by ring
  rw [setBits, bitsOf, Nat.shiftRight_eq_div_pow, hcut]
  ring

/-- A field of a number is set alone. -/
theorem testBit_setBits (v x : Nat) {hi lo : Nat} (h : lo ≤ hi) (i : Nat) :
    (setBits v hi lo x).testBit i = if lo ≤ i ∧ i ≤ hi then x.testBit (i - lo) else v.testBit i := by
  rw [setBits_eq, Nat.testBit_two_pow_mul_add _ (Nat.mod_lt _ (Nat.two_pow_pos _))]
  by_cases hlow : i < lo
  · rw [if_pos hlow, if_neg (by omega), Nat.testBit_mod_two_pow, decide_eq_true hlow, Bool.true_and]
  rw [if_neg hlow, Nat.testBit_two_pow_mul_add _ (Nat.mod_lt _ (Nat.two_pow_pos _))]
  by_cases hhigh : i ≤ hi
  · rw [if_pos (by omega), if_pos ⟨by omega, hhigh⟩, Nat.testBit_mod_two_pow, decide_eq_true (by omega), Bool.true_and]
  · rw [if_neg (by omega), if_neg (by omega), Nat.testBit_div_two_pow, Nat.testBit_div_two_pow]
    congr 1
    omega

/-! Fences and the injection port (R57, R135, R159). -/

theorem fenceOk_iff {t : Stall} {f : Bool} {dest tag : Nat} :
    fenceOk t f dest tag = true ↔ f = false ∨ ∃ i, i < 16 ∧ fenceEntry (gget t.active.fout i) dest tag = true := by
  simp only [fenceOk, fenceMatch, Bool.or_eq_true, Bool.not_eq_true', List.find?_isSome, List.mem_range]

theorem sendRefused_iff {s : State} {sid vc : Nat} {t : Stall} :
    sendRefused s sid vc t = true ↔ t.qu.relays ≠ [] ∨ injectBusy s sid 4 vc false = true := by
  simp only [sendRefused, Bool.or_eq_true, Bool.not_eq_true', List.isEmpty_eq_false_iff, or_comm]

/-! The sequencer of a stall whose messages enter the track. -/

/-- The state's stalls are in canonical form, and a stall's sequencer stands at this address. -/
structure StandsAt (s : State) (sid pc : Nat) : Prop where
  canonical : gwf s.stalls = true
  address   : (s.stall sid).seq.pc = pc

theorem StandsAt.put {s : State} (hs : gwf s.stalls = true) {sid pc : Nat} {u : Stall} (hu : u.seq.pc = pc) :
    StandsAt (putStall s sid u) sid pc :=
  ⟨gwf_gset hs sid u, (congrArg (·.seq.pc) (putStall_stall hs sid u)).trans hu⟩

theorem inject_stalls (s : State) (p : Packet) (router side : Nat) : (inject s p router side).stalls = s.stalls :=
  (inject_same (ps := [.yards, .track, .nextId]) Same.refl p router side (by decide)).kept .stalls (by decide)

theorem StandsAt.inject {s : State} {sid pc : Nat} (h : StandsAt s sid pc) (p : Packet) (router side : Nat) :
    StandsAt (inject s p router side) sid pc := by
  obtain ⟨hs, hpc⟩ := h
  rw [State.stall] at hpc
  refine ⟨?_, ?_⟩
  · rwa [inject_stalls]
  · rwa [State.stall, inject_stalls]

theorem StandsAt.sendOne {s : State} {sid pc : Nat} (h : StandsAt s sid pc) (vc : Nat) (f : Bool) (tag dest : Nat) (payload : List Byte) :
    StandsAt (sendOne s sid vc f tag dest payload) sid pc := by
  obtain ⟨hs, hpc⟩ := h
  rw [← putStall_stall_self hs sid]
  cases hmatch : fenceMatch (s.stall sid).active.fout dest tag with
  | none => rw [sendOne_of_no_match hs sid vc f payload hmatch]; exact (StandsAt.put hs (by exact hpc)).inject ..
  | some i => rw [sendOne_of_match hs sid vc f payload hmatch]; exact (StandsAt.put hs (by exact hpc)).inject ..

theorem StandsAt.foldl {α : Type} {g : State → α → State} {sid pc : Nat} (hg : ∀ s x, StandsAt s sid pc → StandsAt (g s x) sid pc) (l : List α)
    {s : State} (h : StandsAt s sid pc) : StandsAt (l.foldl g s) sid pc := by
  induction l generalizing s with
  | nil => exact h
  | cons x l ih => exact ih (hg s x h)

/-- A word retires in a state that its messages have changed. -/
theorem StandsAt.finish {s : State} {sid pc : Nat} (h : StandsAt s sid pc) (cost : Nat) (port : Bool) :
    finishWord sid pc (.retire s cost port) = afterPort s sid (s.stall sid) port cost := by
  have hretire := finish_retire_port h.canonical sid (s.stall sid) cost port
  rwa [putStall_stall_self h.canonical, h.address] at hretire

/-- Reading units through a generator leaves what does not depend on its generators. -/
theorem Stall.readUnits_keeps {α : Type} (g : Stall → α) {k : Nat} (hg : ∀ (u : Stall) (x : AddrGen), g (u.setAg k x) = g u) (sid n : Nat)
    (u : Stall) : g (Stall.readUnits sid k n u).1 = g u := by
  have hunit (u : Stall) : g (u.readUnit sid k).1 = g u := by
    unfold Stall.readUnit Stall.useAg
    cases (u.ag k).yields <;> exact hg ..
  induction n generalizing u with
  | zero => rfl
  | succ n ih =>
    have hfirst := hunit u
    rw [Stall.readUnits]
    generalize u.readUnit sid k = r at hfirst ⊢
    obtain ⟨t, _ | b⟩ := r
    · exact hfirst
    · have hrest := (ih t).trans hfirst
      dsimp only
      generalize Stall.readUnits sid k n t = r' at hrest ⊢
      obtain ⟨t', _ | bs⟩ := r' <;> exact hrest

theorem readUnits_pc {sid k n : Nat} {u t : Stall} {r : Option (List Byte)} (h : Stall.readUnits sid k n u = (t, r)) :
    t.seq.pc = u.seq.pc :=
  congrArg (·.1.seq.pc) h ▸ Stall.readUnits_keeps (·.seq.pc) (fun _ _ => rfl) sid n u

theorem readUnits_eng {sid k n : Nat} {u t : Stall} {r : Option (List Byte)} (h : Stall.readUnits sid k n u = (t, r)) : t.eng = u.eng :=
  congrArg (·.1.eng) h ▸ Stall.readUnits_keeps (·.eng) (fun _ _ => rfl) sid n u

/-! SEND. -/

/-- A send word's destination is allowed: not fenced, or in the fence-out list. -/
def Fenced (s : State) (sid dest : Nat) : Prop :=
  decide (s.fld sid 55 55 = 1) = false ∨ ∃ i, i < 16 ∧ fenceEntry (gget (s.stall sid).active.fout i) dest (s.fld sid 49 40) = true

/-- The injection port of a send word's stall refuses it now. -/
def PortBusy (s : State) (sid : Nat) : Prop := (s.stall sid).qu.relays ≠ [] ∨ injectBusy s sid 4 (s.fld sid 57 56) false = true

theorem fenceOk_iff_fenced {s : State} {sid dest : Nat} :
    fenceOk (s.stall sid) (bitOf (wordAt (s.stall sid)) 55) dest (bitsOf (wordAt (s.stall sid)) 49 40) = true ↔ Fenced s sid dest := by
  rw [bit_iff, fenceOk_iff]
  rfl

theorem fenceOk_of_not {s : State} {sid dest : Nat} (h : ¬ Fenced s sid dest) :
    fenceOk (s.stall sid) (bitOf (wordAt (s.stall sid)) 55) dest (bitsOf (wordAt (s.stall sid)) 49 40) = false :=
  Bool.eq_false_iff.2 (mt fenceOk_iff_fenced.1 h)

theorem sendRefused_of_busy {s : State} {sid : Nat} (h : PortBusy s sid) :
    sendRefused s sid (bitsOf (wordAt (s.stall sid)) 57 56) (s.stall sid) = true := sendRefused_iff.2 h

theorem sendRefused_of_not_busy {s : State} {sid : Nat} (h : ¬ PortBusy s sid) :
    sendRefused s sid (bitsOf (wordAt (s.stall sid)) 57 56) (s.stall sid) = false := Bool.eq_false_iff.2 (mt sendRefused_iff.1 h)

/-- The register that names a send word's destination or list. -/
def sendReg (s : State) (sid : Nat) : Nat := s.reg sid (s.fld sid 54 50)

/-- A SEND that no rule refuses. -/
def SendLegal (s : State) (sid : Nat) : Prop := s.fld sid 57 56 ≠ 3 ∧ s.fld sid 36 30 ≤ 64 ∧ Fenced s sid (sendReg s sid % 2 ^ 20)

section
variable {s : State} {sid : StallId} (h : Issues s sid 0x30 [(57, 56), (55, 55), (54, 50), (49, 40), (39, 37), (36, 30)])
include h

theorem exec_send_of_illegal (hl : ¬ SendLegal s sid) : exec (.send sid) s = .next (stallFault s sid 1 (s.stall sid).seq.pc) := by
  refine h.next (e := .fault s fIllegal) rfl ?_ rfl
  refine if_pos ?_
  by_contra hno
  simp only [Bool.or_eq_true, Bool.not_eq_true', decide_eq_true_eq, not_or, Bool.not_eq_false] at hno
  obtain ⟨⟨⟨-, hvc⟩, hlen⟩, hf⟩ := hno
  exact hl ⟨hvc, Nat.le_of_not_lt hlen, fenceOk_iff_fenced.1 hf⟩

variable (hl : SendLegal s sid)
include hl

theorem exec_send_of_interlock (hs : gwf s.stalls = true) (hi : (s.stall sid).interlocked [s.fld sid 39 37] [] = true) :
    exec (.send sid) s = .next (holds s sid 1) := by
  obtain ⟨hvc, hlen, hf⟩ := hl
  simp only [State.fld, ← fenceOk_iff_fenced, sendReg, State.reg] at hvc hlen hf hi
  refine h.next (e := .hold s 1) rfl ?_ (finish_hold hs sid 1)
  simp only [h.fields, hvc, Nat.not_lt.2 hlen, hf, hi, decide_false, Bool.not_true, Bool.or_self, Bool.false_eq_true, if_false, if_true]

variable (hi : (s.stall sid).interlocked [s.fld sid 39 37] [] = false)
include hi

theorem exec_send_of_busy (hs : gwf s.stalls = true) (hb : PortBusy s sid) : exec (.send sid) s = .next (holds s sid 4) := by
  obtain ⟨hvc, hlen, hf⟩ := hl
  simp only [State.fld, ← fenceOk_iff_fenced, sendReg, State.reg] at hvc hlen hf hi
  refine h.next (e := .hold s 4) rfl ?_ (finish_hold hs sid 4)
  simp only [h.fields, hvc, Nat.not_lt.2 hlen, hf, hi, sendRefused_of_busy hb, decide_false, Bool.not_true, Bool.or_self, Bool.false_eq_true,
    if_false, if_true]

variable (hb : ¬ PortBusy s sid) {t : Stall}
include hb

theorem exec_send_of_sent (hs : gwf s.stalls = true) {bytes : List Byte}
    (hr : Stall.readUnits sid (s.fld sid 39 37) (ceilDiv (s.fld sid 36 30) 4) (s.stall sid) = (t, some bytes)) :
    let s' := sendOne (putStall s sid t) sid (s.fld sid 57 56) (decide (s.fld sid 55 55 = 1)) (s.fld sid 49 40) (sendReg s sid % 2 ^ 20)
      (padTo (16 * s.fld sid 36 30) bytes)
    exec (.send sid) s = .next (afterPort s' sid (s'.stall sid) (decide (((s.stall sid).ag (s.fld sid 39 37)).space ≠ 0))
      (reach ((s.stall sid).ag (s.fld sid 39 37)).space + 1 + s.fld sid 36 30)) := by
  have hpc : t.seq.pc = (s.stall sid).seq.pc := readUnits_pc hr
  obtain ⟨hvc, hlen, hf⟩ := hl
  simp only [State.fld, ← fenceOk_iff_fenced, sendReg, State.reg] at hvc hlen hf hi hr
  refine h.next (e := .retire (sendOne ..) _ _) rfl ?_ (((StandsAt.put hs hpc).sendOne ..).finish _ _)
  simp only [h.fields, hvc, Nat.not_lt.2 hlen, hf, hi, hr, sendRefused_of_not_busy hb, decide_false, Bool.not_true, Bool.or_self,
    Bool.false_eq_true, if_false]
  rw [bit_iff]
  rfl

theorem exec_send_of_out_of_range
    (hr : Stall.readUnits sid (s.fld sid 39 37) (ceilDiv (s.fld sid 36 30) 4) (s.stall sid) = (t, none)) :
    exec (.send sid) s = .next (stallFault (putStall s sid t) sid 2 (s.stall sid).seq.pc) := by
  obtain ⟨hvc, hlen, hf⟩ := hl
  simp only [State.fld, ← fenceOk_iff_fenced, sendReg, State.reg] at hvc hlen hf hi hr
  refine h.next (e := .fault (putStall s sid t) fRange) rfl ?_ rfl
  simp only [h.fields, hvc, Nat.not_lt.2 hlen, hf, hi, hr, sendRefused_of_not_busy hb, decide_false, Bool.not_true, Bool.or_self,
    Bool.false_eq_true, if_false]

end

/-! SENDL. -/

/-- The destinations of a SENDL's list. -/
def sendDests (s : State) (sid : Nat) : List Nat := sendList (s.stall sid) sid (sendReg s sid) (s.fld sid 29 24)

/-- A SENDL with a list that its word allows. -/
def Listed (s : State) (sid : Nat) : Prop :=
  1 ≤ s.fld sid 29 24 ∧ s.fld sid 29 24 ≤ 32 ∧ sendReg s sid % 4 = 0 ∧ sendReg s sid + 4 * s.fld sid 29 24 ≤ 0xC000

theorem not_bad_list {s : State} {sid : Nat} (hl : Listed s sid) : ¬ (bitsOf (wordAt (s.stall sid)) 29 24 = 0 ∨ 32 < bitsOf (wordAt (s.stall sid)) 29 24 ∨
    (s.stall sid).sreg sid (bitsOf (wordAt (s.stall sid)) 54 50) % 4 ≠ 0 ∨
    0xC000 < (s.stall sid).sreg sid (bitsOf (wordAt (s.stall sid)) 54 50) + 4 * bitsOf (wordAt (s.stall sid)) 29 24) := by
  simp only [Listed, sendReg, State.reg, State.fld] at hl
  omega

theorem all_fenceOk {s : State} {sid : Nat} (hd : ∀ d ∈ sendDests s sid, Fenced s sid d) : (sendDests s sid).all (fun d =>
    fenceOk (s.stall sid) (bitOf (wordAt (s.stall sid)) 55) d (bitsOf (wordAt (s.stall sid)) 49 40)) = true :=
  List.all_eq_true.2 fun d hmem => fenceOk_iff_fenced.2 (hd d hmem)

section
variable {s : State} {sid : StallId} (h : Issues s sid 0x31 [(57, 56), (55, 55), (54, 50), (49, 40), (39, 37), (36, 30), (29, 24)])
include h

theorem exec_sendl_of_illegal (hl : ¬ (s.fld sid 57 56 ≠ 3 ∧ s.fld sid 36 30 ≤ 64)) :
    exec (.sendl sid) s = .next (stallFault s sid 1 (s.stall sid).seq.pc) := by
  refine h.next (e := .fault s fIllegal) rfl ?_ rfl
  refine if_pos ?_
  by_contra hno
  simp only [Bool.or_eq_true, Bool.not_eq_true', decide_eq_true_eq, not_or, Bool.not_eq_false] at hno
  obtain ⟨⟨-, hvc⟩, hlen⟩ := hno
  exact hl ⟨hvc, Nat.le_of_not_lt hlen⟩

variable (hvc : s.fld sid 57 56 ≠ 3) (hlen : s.fld sid 36 30 ≤ 64)
include hvc hlen

theorem exec_sendl_of_bad_list (hl : ¬ Listed s sid) : exec (.sendl sid) s = .next (stallFault s sid 7 (s.stall sid).seq.pc) := by
  have hbad : s.fld sid 29 24 = 0 ∨ 32 < s.fld sid 29 24 ∨ sendReg s sid % 4 ≠ 0 ∨ 0xC000 < sendReg s sid + 4 * s.fld sid 29 24 := by
    unfold Listed at hl
    omega
  simp only [State.fld, sendReg, State.reg] at hvc hlen hbad
  refine h.next (e := .fault s fSendlist) rfl ?_ rfl
  simp only [h.fields, hvc, Nat.not_lt.2 hlen, hbad, decide_false, Bool.not_true, Bool.or_self, Bool.false_eq_true, if_false, if_true]

variable (hl : Listed s sid)
include hl

theorem exec_sendl_of_unfenced (hd : ∃ d ∈ sendDests s sid, ¬ Fenced s sid d) :
    exec (.sendl sid) s = .next (stallFault s sid 1 (s.stall sid).seq.pc) := by
  obtain ⟨d, hmem, hd⟩ := hd
  have hall : (sendDests s sid).all (fun d => fenceOk (s.stall sid) (bitOf (wordAt (s.stall sid)) 55) d (bitsOf (wordAt (s.stall sid)) 49 40)) =
      false := List.all_eq_false.2 ⟨d, hmem, mt fenceOk_iff_fenced.1 hd⟩
  have hlist := not_bad_list hl
  simp only [sendDests, State.fld, sendReg, State.reg] at hvc hlen hall
  refine h.next (e := .fault s fIllegal) rfl ?_ rfl
  simp only [h.fields, hvc, Nat.not_lt.2 hlen, hlist, hall, decide_false, Bool.not_true, Bool.not_false, Bool.or_self, Bool.false_eq_true, if_false,
    if_true]

variable (hd : ∀ d ∈ sendDests s sid, Fenced s sid d)
include hd

theorem exec_sendl_of_interlock (hs : gwf s.stalls = true) (hi : (s.stall sid).interlocked [s.fld sid 39 37] [] = true) :
    exec (.sendl sid) s = .next (holds s sid 1) := by
  have hlist := not_bad_list hl
  have hall := all_fenceOk hd
  simp only [sendDests, State.fld, sendReg, State.reg] at hvc hlen hall hi
  refine h.next (e := .hold s 1) rfl ?_ (finish_hold hs sid 1)
  simp only [h.fields, hvc, Nat.not_lt.2 hlen, hlist, hall, hi, decide_false, Bool.not_true, Bool.or_self, Bool.false_eq_true, if_false, if_true]

variable (hi : (s.stall sid).interlocked [s.fld sid 39 37] [] = false)
include hi

theorem exec_sendl_of_busy (hs : gwf s.stalls = true) (hb : PortBusy s sid) : exec (.sendl sid) s = .next (holds s sid 4) := by
  have hlist := not_bad_list hl
  have hall := all_fenceOk hd
  simp only [sendDests, State.fld, sendReg, State.reg] at hvc hlen hall hi
  refine h.next (e := .hold s 4) rfl ?_ (finish_hold hs sid 4)
  simp only [h.fields, hvc, Nat.not_lt.2 hlen, hlist, hall, hi, sendRefused_of_busy hb, decide_false, Bool.not_true, Bool.or_self,
    Bool.false_eq_true, if_false, if_true]

variable (hb : ¬ PortBusy s sid) {t : Stall}
include hb

theorem exec_sendl_of_sent (hs : gwf s.stalls = true) {bytes : List Byte}
    (hr : Stall.readUnits sid (s.fld sid 39 37) (ceilDiv (s.fld sid 36 30) 4) (s.stall sid) = (t, some bytes)) :
    let s' := (sendDests s sid).foldl (fun x d => sendOne x sid (s.fld sid 57 56) (decide (s.fld sid 55 55 = 1)) (s.fld sid 49 40) d
      (padTo (16 * s.fld sid 36 30) bytes)) (putStall s sid t)
    exec (.sendl sid) s = .next (afterPort s' sid (s'.stall sid) (decide (((s.stall sid).ag (s.fld sid 39 37)).space ≠ 0))
      (1 + reach ((s.stall sid).ag (s.fld sid 39 37)).space + ceilDiv (s.fld sid 36 30) 4 + s.fld sid 29 24 * (1 + s.fld sid 36 30))) := by
  have hpc : t.seq.pc = (s.stall sid).seq.pc := readUnits_pc hr
  have hlist := not_bad_list hl
  have hall := all_fenceOk hd
  simp only [sendDests, State.fld, sendReg, State.reg] at hvc hlen hall hi hr
  refine h.next (e := .retire (List.foldl ..) _ _) rfl ?_
    (((StandsAt.put hs hpc).foldl (fun _ _ hx => hx.sendOne ..) (sendDests s sid)).finish _ _)
  simp only [h.fields, hvc, Nat.not_lt.2 hlen, hlist, hall, hi, hr, sendRefused_of_not_busy hb, decide_false, Bool.not_true, Bool.or_self,
    Bool.false_eq_true, if_false]
  rw [bit_iff]
  rfl

theorem exec_sendl_of_out_of_range
    (hr : Stall.readUnits sid (s.fld sid 39 37) (ceilDiv (s.fld sid 36 30) 4) (s.stall sid) = (t, none)) :
    exec (.sendl sid) s = .next (stallFault (putStall s sid t) sid 2 (s.stall sid).seq.pc) := by
  have hlist := not_bad_list hl
  have hall := all_fenceOk hd
  simp only [sendDests, State.fld, sendReg, State.reg] at hvc hlen hall hi hr
  refine h.next (e := .fault (putStall s sid t) fRange) rfl ?_ rfl
  simp only [h.fields, hvc, Nat.not_lt.2 hlen, hlist, hall, hi, hr, sendRefused_of_not_busy hb, decide_false, Bool.not_true, Bool.or_self,
    Bool.false_eq_true, if_false]

end

/-! SENDS. -/

/-- A SENDS that no rule refuses. -/
def SendsLegal (s : State) (sid : Nat) : Prop :=
  s.fld sid 57 56 ≠ 3 ∧ s.fld sid 39 35 + (s.fld sid 34 33 + 1) ≤ 32 ∧ Fenced s sid (sendReg s sid % 2 ^ 20)

section
variable {s : State} {sid : StallId} (h : Issues s sid 0x32 [(57, 56), (55, 55), (54, 50), (49, 40), (39, 35), (34, 33)])
include h

theorem exec_sends_of_illegal (hl : ¬ SendsLegal s sid) : exec (.sends sid) s = .next (stallFault s sid 1 (s.stall sid).seq.pc) := by
  refine h.next (e := .fault s fIllegal) rfl ?_ rfl
  refine if_pos ?_
  by_contra hno
  simp only [Bool.or_eq_true, Bool.not_eq_true', decide_eq_true_eq, not_or, Bool.not_eq_false] at hno
  obtain ⟨⟨⟨-, hvc⟩, hregs⟩, hf⟩ := hno
  exact hl ⟨hvc, Nat.le_of_not_lt hregs, fenceOk_iff_fenced.1 hf⟩

variable (hl : SendsLegal s sid) (hs : gwf s.stalls = true)
include hl hs

theorem exec_sends_of_busy (hb : PortBusy s sid) : exec (.sends sid) s = .next (holds s sid 4) := by
  obtain ⟨hvc, hregs, hf⟩ := hl
  simp only [State.fld, ← fenceOk_iff_fenced, sendReg, State.reg] at hvc hregs hf
  refine h.next (e := .hold s 4) rfl ?_ (finish_hold hs sid 4)
  simp only [h.fields, hvc, Nat.not_lt.2 hregs, hf, sendRefused_of_busy hb, decide_false, Bool.not_true, Bool.or_self, Bool.false_eq_true,
    if_false, if_true]

theorem exec_sends_of_sent (hb : ¬ PortBusy s sid) :
    let s' := sendOne s sid (s.fld sid 57 56) (decide (s.fld sid 55 55 = 1)) (s.fld sid 49 40) (sendReg s sid % 2 ^ 20)
      (padTo 16 ((List.range (s.fld sid 34 33 + 1)).flatMap fun i => leBytes 4 (s.reg sid (s.fld sid 39 35 + i))))
    exec (.sends sid) s = .next (after s' sid (s'.stall sid) 2) := by
  obtain ⟨hvc, hregs, hf⟩ := hl
  have hat : StandsAt s sid (s.stall sid).seq.pc := ⟨hs, rfl⟩
  simp only [State.fld, ← fenceOk_iff_fenced, sendReg, State.reg] at hvc hregs hf
  refine h.next (e := .retire (sendOne ..) 2 false) rfl ?_ ((hat.sendOne ..).finish 2 false)
  simp only [h.fields, hvc, Nat.not_lt.2 hregs, hf, sendRefused_of_not_busy hb, decide_false, Bool.not_true, Bool.or_self, Bool.false_eq_true,
    if_false]
  rw [bit_iff]
  rfl

end

/-! RELAY. -/

/-- A tag's entry with its RPROF set. -/
def withRprof (e : Word32) (rprof : Nat) : Word32 := BitVec.ofNat 32 (setBits e.toNat 21 20 rprof)

theorem withRprof_getLsbD (e : Word32) (rprof i : Nat) :
    (withRprof e rprof).getLsbD i = if i = 20 then rprof.testBit 0 else if i = 21 then rprof.testBit 1 else e.getLsbD i := by
  rw [withRprof, BitVec.getLsbD_ofNat, testBit_setBits _ _ (by decide)]
  by_cases h20 : i = 20
  · subst h20; rfl
  by_cases h21 : i = 21
  · subst h21; rfl
  rw [if_neg (by omega), if_neg h20, if_neg h21]
  by_cases hi : i < 32
  · rw [decide_eq_true hi, Bool.true_and]; rfl
  · rw [decide_eq_false hi, Bool.false_and, BitVec.getLsbD_of_ge _ _ (Nat.le_of_not_lt hi)]

theorem exec_relay {s : State} {sid : StallId} (hs : gwf s.stalls = true) (h : Issues s sid 0x33 [(57, 56), (49, 40)]) :
    let u := s.stall sid
    let tag := s.fld sid 49 40
    exec (.relay sid) s = .next (after s sid { u with active := { u.active with
      tags := gset u.active.tags tag (withRprof (gget u.active.tags tag) (s.fld sid 57 56)) } } 1) := by
  refine h.next (e := .retire (putStall s sid _) 1 false) rfl ?_ (finish_retire hs sid _ 1)
  simp only [h.fields, Bool.not_true, Bool.false_eq_true, if_false]
  rfl

end Sys2Proof.Machine

namespace Sys2Proof.Proofs
open Sys2Proof Sys2Proof.Machine

/-- Settles O34: each send word's outcomes in the order of its checks. -/
theorem sendWords : Obligations.SendWords := by
  intro s sid hc u vc f reg tag a len sp fenced busy ill
  have hs := hc.stalls
  refine ⟨fun h => ⟨exec_send_of_illegal h, fun hl => exec_send_of_interlock h hl hs, fun hl hi => exec_send_of_busy h hl hi hs,
      fun hl hi hb t => ⟨fun bytes hr => ?send, exec_send_of_out_of_range h hl hi hb⟩⟩,
    fun h => ⟨exec_sendl_of_illegal h, fun hl => exec_sendl_of_bad_list h hl.1 hl.2, fun hl => exec_sendl_of_unfenced h hl.1 hl.2,
      fun ⟨hl, hlist, hd⟩ => exec_sendl_of_interlock h hl.1 hl.2 hlist hd hs,
      fun ⟨hl, hlist, hd⟩ hi => exec_sendl_of_busy h hl.1 hl.2 hlist hd hi hs,
      fun ⟨hl, hlist, hd⟩ hi hb t => ⟨fun bytes hr => ?sendl, exec_sendl_of_out_of_range h hl.1 hl.2 hlist hd hi hb⟩⟩,
    fun h => ⟨exec_sends_of_illegal h, fun hl => exec_sends_of_busy h hl hs, fun hl => exec_sends_of_sent h hl hs⟩,
    fun h => ⟨_, withRprof_getLsbD _ _, exec_relay hs h⟩⟩
  case send =>
    rw [← reach_eq_getD]
    exact exec_send_of_sent h hl hi hb hs hr
  case sendl =>
    rw [← reach_eq_getD]
    exact exec_sendl_of_sent h hl.1 hl.2 hlist hd hi hb hs hr

end Sys2Proof.Proofs
end

section
/-! PROOFS. The matrix words at their issue (R45, R63, R73, R76-R78, R82, R104, R105, R110, R111): what they refuse, what makes them wait,
the place that accepts them, and from these O35. -/

namespace Sys2Proof.Machine

/-! What a matrix word refuses (R73, R76, R104, R105). -/

/-- The conditions that DMM, SMM and SDD share beyond the format pairing. -/
def MatrixCommon (s : State) (sid : Nat) : Prop :=
  let fp : Bool := decide (s.fld sid 54 51 = 1 ∨ s.fld sid 54 51 = 2)
  s.fld sid 26 15 ≠ 0 ∧ (s.fld sid 37 37 = 1 → fp = false) ∧ (¬ s.fld sid 37 37 = 1 → s.fld sid 40 38 = 0) ∧
    (s.fld sid 57 57 = 1 → (s.stall sid).modeOf sid (s.fld sid 56 55) = fp)

theorem matrixIllegal_eq_false {s : State} {sid : Nat} :
    matrixIllegal (s.stall sid) sid (wordAt (s.stall sid)) = false ↔ MatrixCommon s sid := by
  simp only [matrixIllegal, Bool.or_eq_false_iff, Bool.and_eq_false_iff, decide_eq_false_iff_not, Bool.not_eq_false', ne_eq, not_not, and_assoc]
  simp only [wNg, wMx, wFp, wFa, wAgs, wAcc, bit_iff, decide_eq_false_iff_not, decide_eq_true_eq, bne_eq_false_iff_eq, MatrixCommon, State.fld,
    imp_iff_not_or, not_not, ne_eq]
  rfl

theorem wFp_iff {w : Nat} : wFp w = true ↔ bitsOf w 54 51 = 1 ∨ bitsOf w 54 51 = 2 := decide_eq_true_iff

/-- A narrow format of the 64-multiplier path. -/
def Narrow (f : Nat) : Prop := f = 3 ∨ f = 5 ∨ f = 6 ∨ f = 7 ∨ f = 8

theorem rakeFmt_iff {f : Nat} : rakeFmt f = true ↔ Narrow f := by
  simp only [rakeFmt, List.contains_iff_mem, List.mem_cons, List.not_mem_nil, or_false, Narrow]

theorem dmmPair_iff {fa fb : Nat} :
    dmmPair fa fb = true ↔ ((Narrow fa ∨ fa = 9) ∧ (Narrow fb ∨ fb = 9)) ∨ (decide (fa = 1 ∨ fa = 2) = true ∧ (fb = 1 ∨ fb = 2)) := by
  simp only [dmmPair, Bool.or_eq_true, Bool.and_eq_true, List.contains_iff_mem, List.mem_cons, List.not_mem_nil, or_false, Narrow, or_assoc,
    decide_eq_true_eq]

/-- The bits below the fields of a matrix word are 0. -/
theorem bitsOf_low_of_fields {w lo : Nat} (h : lo + 1 ≤ 57) (hw : onlyFields w [(57, lo + 1)] = true) : ¬ bitsOf w lo 0 ≠ 0 := by
  rw [bitsOf_low, not_not]
  exact (onlyFields_high h).1 hw

/-! The words of the other array (R78, R111). -/

/-- An incomplete word among `js` names the word's bank or a generator of it. -/
def MatrixClash (s : State) (sid : Nat) (js : List Job) : Prop :=
  ∃ j ∈ js, j.bank = s.fld sid 56 55 ∨ ∃ g ∈ j.ags, g ∈ matrixAgs (wordAt (s.stall sid))

theorem holdsOn_iff {s : State} {sid : Nat} {js : List Job} :
    holdsOn js (bitsOf (wordAt (s.stall sid)) 56 55) (matrixAgs (wordAt (s.stall sid))) = true ↔ MatrixClash s sid js := by
  simp only [holdsOn, List.any_eq_true, Bool.or_eq_true, decide_eq_true_eq, List.contains_iff_mem]
  rfl

/-! The place that accepts a word (R77, R82, R110). -/

/-- The stall without its routine ballast (R63). -/
def Stall.calm (t : Stall) : Stall := { t with eng := { t.eng with ballast := none } }

/-- The job of the word at a stall's PC. -/
def newJob (u : Stall) (codes : List Byte) (started : Bool) : Job := ⟨BitVec.ofNat 64 (wordAt u), u.seq.pc, started, 0, false, codes⟩

theorem newJob_word (u : Stall) (codes : List Byte) (started : Bool) : (newJob u codes started).word.toNat = wordAt u := by
  rw [newJob, wordAt, BitVec.ofNat_toNat, BitVec.setWidth_eq]

/-- A stall in which the word at the PC takes its executing place: with ACC 0 it overwrites its bank. -/
def matrixStart (s : State) (sid : Nat) (t : Stall) : Stall :=
  let fp : Bool := decide (s.fld sid 54 51 = 1 ∨ s.fld sid 54 51 = 2)
  let b := (s.stall sid).bankOf sid (s.fld sid 56 55)
  if s.fld sid 57 57 = 1 then t
  else t.setBank (s.fld sid 56 55) (b.cleared fp (if fp then b.e else (BitVec.ofNat 10 (s.fld sid 36 27)).toInt))

theorem startJob_newJob {s : State} {sid : Nat} {t : Stall} (ht : t.eng.banks = (s.stall sid).eng.banks) (codes : List Byte) (started : Bool) :
    t.startJob sid (newJob (s.stall sid) codes started) = matrixStart s sid t := by
  have hbank (b : Nat) : t.bankOf sid b = (s.stall sid).bankOf sid b := by rw [Stall.bankOf, ht, Stall.bankOf]
  simp only [Stall.startJob, Job.bank, newJob_word, hbank, wAcc, wFp, wFa, bit_iff, decide_eq_true_eq, wExp, signedOf_eq_toInt, matrixStart]
  rfl

section
variable {t : Stall} {sid : Nat} {j : Job}

theorem acceptDraft_of_free (h : t.eng.dexec = none) :
    t.acceptDraft sid j =
      some { t.startJob sid j with eng := { (t.startJob sid j).eng with dexec := some { j with started := true } } } := by
  rw [Stall.acceptDraft, h]

theorem acceptDraft_of_executing {x : Job} (h : t.eng.dexec = some x) (hw : t.eng.dwait = none) :
    t.acceptDraft sid j = some { t with eng := { t.eng with dwait := some j } } := by rw [Stall.acceptDraft, h, hw]

theorem acceptDraft_of_full {x y : Job} (h : t.eng.dexec = some x) (hw : t.eng.dwait = some y) : t.acceptDraft sid j = none := by
  rw [Stall.acceptDraft, h, hw]

theorem acceptRake_of_free (h : t.eng.rexec = none) :
    t.acceptRake sid j =
      some { t.startJob sid j with eng := { (t.startJob sid j).eng with rexec := some { j with started := true } } } := by
  rw [Stall.acceptRake, h]

theorem acceptRake_of_executing {x : Job} (h : t.eng.rexec = some x) (hw : t.eng.rwait = none) :
    t.acceptRake sid j = some { t with eng := { t.eng with rwait := some j } } := by rw [Stall.acceptRake, h, hw]

theorem acceptRake_of_full {x y : Job} (h : t.eng.rexec = some x) (hw : t.eng.rwait = some y) : t.acceptRake sid j = none := by
  rw [Stall.acceptRake, h, hw]

end

/-- An accepted word's end: it retires in the stall that took it, or holds. -/
def acceptEnd (x : State) (sid : Nat) : Option Stall → WordEnd
  | none => .hold x 1
  | some t => .retire (putStall x sid t) 1 false

section
variable {s : State} (hs : gwf s.stalls = true) (sid : Nat)
include hs

theorem stopBallast_stall : (modEng s sid Engines.stopBallast).stall sid = (s.stall sid).calm := putStall_stall hs sid _

theorem putStall_stopBallast (t : Stall) : putStall (modEng s sid Engines.stopBallast) sid t = putStall s sid t :=
  congrArg (fun m => ({ s with stalls := m } : State)) (gset_gset hs sid _ t)

theorem finish_calm_hold (pc : Nat) :
    finishWord sid pc (.hold (modEng s sid Engines.stopBallast) 1) = holds (putStall s sid (s.stall sid).calm) sid 1 :=
  finish_hold (s := putStall s sid (s.stall sid).calm) (gwf_gset hs sid _) sid 1

theorem finish_calm_retire (t : Stall) :
    finishWord sid (s.stall sid).seq.pc (.retire (putStall (modEng s sid Engines.stopBallast) sid t) 1 false) = after s sid t 1 := by
  rw [putStall_stopBallast hs]
  exact finish_retire hs sid t 1

theorem finish_acceptEnd_none (pc : Nat) :
    finishWord sid pc (acceptEnd (modEng s sid Engines.stopBallast) sid none) = holds (putStall s sid (s.stall sid).calm) sid 1 :=
  finish_calm_hold hs sid pc

theorem finish_acceptEnd_some (t : Stall) :
    finishWord sid (s.stall sid).seq.pc (acceptEnd (modEng s sid Engines.stopBallast) sid (some t)) = after s sid t 1 :=
  finish_calm_retire hs sid t

end

/-! DMM. -/

/-- A DMM that no rule refuses. -/
def DmmLegal (s : State) (sid : Nat) : Prop :=
  (((Narrow (s.fld sid 54 51) ∨ s.fld sid 54 51 = 9) ∧ (Narrow (s.fld sid 50 47) ∨ s.fld sid 50 47 = 9)) ∨
    (decide (s.fld sid 54 51 = 1 ∨ s.fld sid 54 51 = 2) = true ∧ (s.fld sid 50 47 = 1 ∨ s.fld sid 50 47 = 2))) ∧ MatrixCommon s sid

section
variable {s : State} {sid : StallId} (h : Issues s sid 0x10 [(57, 15)])
include h

theorem dmm_refused_iff : let w := wordAt (s.stall sid)
    (decide (bitsOf w 14 0 ≠ 0) || !dmmPair (wFa w) (wFb w) || matrixIllegal (s.stall sid) sid w) = true ↔ ¬ DmmLegal s sid := by
  intro w
  rw [decide_eq_false (bitsOf_low_of_fields (by decide) h.fields), Bool.false_or, ← Bool.not_eq_false, Bool.or_eq_false_iff,
    Bool.not_eq_false', matrixIllegal_eq_false, dmmPair_iff]
  rfl

theorem exec_dmm_of_illegal (hl : ¬ DmmLegal s sid) : exec (.dmm sid) s = .next (stallFault s sid 1 (s.stall sid).seq.pc) :=
  h.next (e := .fault s fIllegal) rfl (if_pos ((dmm_refused_iff h).2 hl)) rfl

variable (hs : gwf s.stalls = true) (hl : DmmLegal s sid)
include hs hl

theorem exec_dmm_of_clash (hc : MatrixClash s sid (s.stall sid).eng.rakeJobs) :
    exec (.dmm sid) s = .next (holds (putStall s sid (s.stall sid).calm) sid 1) :=
  h.next (e := .hold (modEng s sid Engines.stopBallast) 1) rfl
    ((if_neg (mt (dmm_refused_iff h).1 (not_not.2 hl))).trans (if_pos (holdsOn_iff.2 hc))) (finish_calm_hold hs sid _)

theorem exec_dmm_of_accept (hc : ¬ MatrixClash s sid (s.stall sid).eng.rakeJobs) {r : Option Stall} {x : State}
    (hr : (s.stall sid).calm.acceptDraft sid (newJob (s.stall sid) [] false) = r)
    (hx : finishWord sid (s.stall sid).seq.pc (acceptEnd (modEng s sid Engines.stopBallast) sid r) = x) : exec (.dmm sid) s = .next x := by
  refine h.next (e := acceptEnd (modEng s sid Engines.stopBallast) sid r) rfl
    ((if_neg (mt (dmm_refused_iff h).1 (not_not.2 hl))).trans ((if_neg (mt holdsOn_iff.1 hc)).trans ?_)) hx
  rw [stopBallast_stall hs, ← hr]
  unfold newJob
  cases Stall.acceptDraft .. <;> rfl

end

/-! SMM. -/

/-- An SMM that no rule refuses. -/
def SmmLegal (s : State) (sid : Nat) : Prop :=
  ((Narrow (s.fld sid 54 51) ∧ Narrow (s.fld sid 50 47)) ∨
    (decide (s.fld sid 54 51 = 1 ∨ s.fld sid 54 51 = 2) = true ∧ (s.fld sid 50 47 = 1 ∨ s.fld sid 50 47 = 2))) ∧
  MatrixCommon s sid ∧ s.fld sid 14 13 ≠ 3 ∧ (s.fld sid 11 11 = 1 → s.fld sid 12 12 = 1)

section
variable {s : State} {sid : StallId} (h : Issues s sid 0x18 [(57, 11)])
include h

theorem smm_refused_iff : let w := wordAt (s.stall sid)
    (decide (bitsOf w 10 0 ≠ 0) || !((rakeFmt (wFa w) && rakeFmt (wFb w)) || (wFp w && decide (wFb w = 1 ∨ wFb w = 2))) ||
      decide (bitsOf w 14 13 = 3) || (!bitOf w 12 && bitOf w 11) || matrixIllegal (s.stall sid) sid w) = true ↔ ¬ SmmLegal s sid := by
  dsimp only
  rw [decide_eq_false (bitsOf_low_of_fields (by decide) h.fields), Bool.false_or, ← Bool.not_eq_false, not_iff_not]
  simp only [Bool.or_eq_false_iff, Bool.not_eq_false', matrixIllegal_eq_false, Bool.or_eq_true, Bool.and_eq_true, rakeFmt_iff, wFp_iff,
    decide_eq_false_iff_not, Bool.and_eq_false_iff, bit_iff, decide_eq_true_eq, SmmLegal]
  simp only [wFa, wFb, State.fld, imp_iff_not_or]
  tauto

theorem exec_smm_of_illegal (hl : ¬ SmmLegal s sid) : exec (.smm sid) s = .next (stallFault s sid 1 (s.stall sid).seq.pc) :=
  h.next (e := .fault s fIllegal) rfl (if_pos ((smm_refused_iff h).2 hl)) rfl

variable (hs : gwf s.stalls = true) (hl : SmmLegal s sid)
include hs hl

theorem exec_smm_of_clash (hc : MatrixClash s sid (s.stall sid).eng.draftJobs) :
    exec (.smm sid) s = .next (holds (putStall s sid (s.stall sid).calm) sid 1) :=
  h.next (e := .hold (modEng s sid Engines.stopBallast) 1) rfl
    ((if_neg (mt (smm_refused_iff h).1 (not_not.2 hl))).trans (if_pos (holdsOn_iff.2 hc))) (finish_calm_hold hs sid _)

theorem exec_smm_of_accept (hc : ¬ MatrixClash s sid (s.stall sid).eng.draftJobs) {r : Option Stall} {x : State}
    (hr : (s.stall sid).calm.acceptRake sid (newJob (s.stall sid) [] false) = r)
    (hx : finishWord sid (s.stall sid).seq.pc (acceptEnd (modEng s sid Engines.stopBallast) sid r) = x) : exec (.smm sid) s = .next x := by
  refine h.next (e := acceptEnd (modEng s sid Engines.stopBallast) sid r) rfl
    ((if_neg (mt (smm_refused_iff h).1 (not_not.2 hl))).trans ((if_neg (mt holdsOn_iff.1 hc)).trans ?_)) hx
  rw [stopBallast_stall hs, ← hr]
  unfold newJob
  cases Stall.acceptRake .. <;> rfl

end

/-! SDD. -/

/-- An SDD that no rule refuses. -/
def SddLegal (s : State) (sid : Nat) : Prop :=
  Narrow (s.fld sid 54 51) ∧ Narrow (s.fld sid 50 47) ∧ MatrixCommon s sid ∧ s.fld sid 14 13 ≠ 3 ∧
    (s.fld sid 12 12 = 1 → s.fld sid 14 13 = 0)

/-- An earlier Rake word reads an operand through the generator of an SDD's codes. -/
def SharesCodes (s : State) (sid : Nat) : Prop :=
  let c := s.fld sid 11 9
  ∃ j ∈ (s.stall sid).eng.rakeJobs, c = wAga j.word.toNat ∨ c = wAgb j.word.toNat ∨ (wMx j.word.toNat = true ∧ c = wAgs j.word.toNat)

/-- An SDD that its rules keep from acceptance. -/
def SddStays (s : State) (sid : Nat) : Prop :=
  MatrixClash s sid (s.stall sid).eng.draftJobs ∨ SharesCodes s sid ∨ ((s.stall sid).eng.rexec ≠ none ∧ (s.stall sid).eng.rwait ≠ none)

theorem sdd_stays_iff {s : State} {sid : Nat} : let w := wordAt (s.stall sid)
    (holdsOn (s.stall sid).eng.draftJobs (bitsOf w 56 55) (matrixAgs w) ||
      (s.stall sid).eng.rakeJobs.any (fun j => ([wAga j.word.toNat, wAgb j.word.toNat] ++
        (if wMx j.word.toNat then [wAgs j.word.toNat] else [])).contains (bitsOf w 11 9)) ||
      ((s.stall sid).eng.rexec.isSome && (s.stall sid).eng.rwait.isSome)) = true ↔ SddStays s sid := by
  simp only [Bool.or_eq_true, holdsOn_iff, List.any_eq_true, List.contains_iff_mem, List.mem_append, List.mem_cons, List.not_mem_nil, or_false,
    List.mem_ite_nil_right, Bool.and_eq_true, Option.isSome_iff_ne_none, or_assoc]
  rfl

/-- The blocks of an SDD's code segment with an uneven row view. -/
def unevenBlocks (s : State) (sid : Nat) (codes : List Byte) : Nat :=
  ((List.range 8).filter fun b => blockUneven (wN (wordAt (s.stall sid))) (leNat codes) b).length

/-- The shed with an SDD's uneven blocks counted. -/
def countUneven (s : State) (sid : Nat) (codes : List Byte) : State :=
  modShed s (shedOf sid) fun h => { h with maskerr := satAdd 16 h.maskerr (unevenBlocks s sid codes) }

section
variable {s : State} {sid : StallId} (h : Issues s sid 0x19 [(57, 9)])
include h

theorem sdd_refused_iff : let w := wordAt (s.stall sid)
    (decide (bitsOf w 8 0 ≠ 0) || !(rakeFmt (wFa w) && rakeFmt (wFb w)) || decide (bitsOf w 14 13 = 3) ||
      (bitOf w 12 && decide (bitsOf w 14 13 ≠ 0)) || matrixIllegal (s.stall sid) sid w) = true ↔ ¬ SddLegal s sid := by
  dsimp only
  rw [decide_eq_false (bitsOf_low_of_fields (by decide) h.fields), Bool.false_or, ← Bool.not_eq_false, not_iff_not]
  simp only [Bool.or_eq_false_iff, Bool.not_eq_false', matrixIllegal_eq_false, Bool.and_eq_true, rakeFmt_iff, decide_eq_false_iff_not,
    Bool.and_eq_false_iff, bit_iff, SddLegal, wFa, wFb, State.fld, imp_iff_not_or, ne_eq, not_not]
  tauto

theorem exec_sdd_of_illegal (hl : ¬ SddLegal s sid) : exec (.sdd sid) s = .next (stallFault s sid 1 (s.stall sid).seq.pc) :=
  h.next (e := .fault s fIllegal) rfl (if_pos ((sdd_refused_iff h).2 hl)) rfl

variable (hs : gwf s.stalls = true) (hl : SddLegal s sid)
include hs hl

theorem exec_sdd_of_stays (hc : SddStays s sid) :
    exec (.sdd sid) s = .next (holds (putStall s sid (s.stall sid).calm) sid 1) :=
  h.next (e := .hold (modEng s sid Engines.stopBallast) 1) rfl
    ((if_neg (mt (sdd_refused_iff h).1 (not_not.2 hl))).trans (if_pos (sdd_stays_iff.2 hc))) (finish_calm_hold hs sid _)

variable (hc : ¬ SddStays s sid) {t : Stall}
include hc

theorem exec_sdd_of_out_of_range
    (hr : Stall.readUnits sid (s.fld sid 11 9) (codeUnits (wordAt (s.stall sid))) (s.stall sid).calm = (t, none)) :
    exec (.sdd sid) s = .next (stallFault (putStall s sid t) sid 2 (s.stall sid).seq.pc) := by
  rw [State.fld] at hr
  refine h.next (e := .fault (putStall (modEng s sid Engines.stopBallast) sid t) fRange) rfl
    ((if_neg (mt (sdd_refused_iff h).1 (not_not.2 hl))).trans ((if_neg (mt sdd_stays_iff.1 hc)).trans ?_)) ?_
  · rw [stopBallast_stall hs, hr]
  · rw [putStall_stopBallast hs]
    rfl

theorem exec_sdd_of_accept {codes : List Byte} {t' : Stall}
    (hr : Stall.readUnits sid (s.fld sid 11 9) (codeUnits (wordAt (s.stall sid))) (s.stall sid).calm = (t, some codes))
    (ha : t.acceptRake sid (newJob (s.stall sid) codes false) = some t') :
    exec (.sdd sid) s = .next (after (countUneven s sid codes) sid t' 1) := by
  have hpc : (s.stall sid).seq.pc = t.seq.pc := (readUnits_pc hr).symm
  rw [State.fld] at hr
  refine h.next (e := .retire (putStall (countUneven s sid codes) sid t') 1 false) rfl
    ((if_neg (mt (sdd_refused_iff h).1 (not_not.2 hl))).trans ((if_neg (mt sdd_stays_iff.1 hc)).trans ?_))
    (finish_retire_beside hs (x := countUneven s sid codes) rfl t' 1 false)
  rw [stopBallast_stall hs, hr]
  rw [newJob, hpc] at ha
  dsimp only
  rw [ha]
  dsimp only
  rw [putStall_stopBallast hs]
  rfl

end

end Sys2Proof.Machine

namespace Sys2Proof.Proofs
open Sys2Proof Sys2Proof.Machine

/-- Settles O35: what a matrix word refuses, what keeps it waiting, and the place that its array has free. -/
theorem matrixWordsIssue : Obligations.MatrixWordsIssue := by
  intro s sid hc u w bank acc fa fb mx npat fp common calm job fresh started clash ill wait narrow
  have hs := hc.stalls
  have hstart := startJob_newJob (s := s) (sid := sid) (t := (s.stall sid).calm) rfl [] false
  refine ⟨fun h => ⟨exec_dmm_of_illegal h, fun hp hcm hcl => exec_dmm_of_clash h hs ⟨hp, hcm⟩ hcl, fun hp hcm hcl hx => ?draftFree,
      fun hp hcm hcl x hx => ⟨fun hw => ?draftWaits, fun y hw => ?draftFull⟩⟩,
    fun h => ⟨exec_smm_of_illegal h, fun hl hcl => exec_smm_of_clash h hs hl hcl, fun hl hcl hx => ?rakeFree,
      fun hl hcl x hx => ⟨fun hw => ?rakeWaits, fun y hw => ?rakeFull⟩⟩,
    fun h => ⟨exec_sdd_of_illegal h, fun hl hst => exec_sdd_of_stays h hs hl hst, fun hl hst t =>
      ⟨fun hr => exec_sdd_of_out_of_range h hs hl hst hr, fun codes hr => ⟨fun hx => ?sddFree, fun hx => ?sddWaits⟩⟩⟩⟩
  case draftFree =>
    refine exec_dmm_of_accept h hs ⟨hp, hcm⟩ hcl (acceptDraft_of_free hx) ?_
    rw [hstart]
    exact finish_acceptEnd_some hs sid _
  case draftWaits => exact exec_dmm_of_accept h hs ⟨hp, hcm⟩ hcl (acceptDraft_of_executing hx hw) (finish_acceptEnd_some hs sid _)
  case draftFull => exact exec_dmm_of_accept h hs ⟨hp, hcm⟩ hcl (acceptDraft_of_full hx hw) (finish_acceptEnd_none hs sid _)
  case rakeFree =>
    refine exec_smm_of_accept h hs hl hcl (acceptRake_of_free hx) ?_
    rw [hstart]
    exact finish_acceptEnd_some hs sid _
  case rakeWaits => exact exec_smm_of_accept h hs hl hcl (acceptRake_of_executing hx hw) (finish_acceptEnd_some hs sid _)
  case rakeFull => exact exec_smm_of_accept h hs hl hcl (acceptRake_of_full hx hw) (finish_acceptEnd_none hs sid _)
  case sddFree =>
    have heng : t.eng = calm.eng := readUnits_eng hr
    have haccept := acceptRake_of_free (sid := sid) (j := newJob u codes false) ((congrArg Engines.rexec heng).trans hx)
    rw [startJob_newJob (s := s) ((congrArg Engines.banks heng).trans rfl)] at haccept
    exact exec_sdd_of_accept h hs hl hst hr haccept
  case sddWaits =>
    have heng : t.eng = calm.eng := readUnits_eng hr
    obtain ⟨x, hx'⟩ := Option.ne_none_iff_exists'.1 hx
    have hw : u.eng.rwait = none := by_contra fun hw => hst (.inr (.inr ⟨hx, hw⟩))
    exact exec_sdd_of_accept h hs hl hst hr
      (acceptRake_of_executing ((congrArg Engines.rexec heng).trans hx') ((congrArg Engines.rwait heng).trans hw))

end Sys2Proof.Proofs
end

section
/-! PROOFS. The bank words (R86-R90) and the predictor words (R116-R119): the records and the status word beside a bank, positions and values
paired by index, one equation for each of a word's outcomes, and from these O38 and O39. -/

namespace Sys2Proof.Machine

/-! Records beside a bank's tile (R88, R90). -/

theorem dataChecks_eq (s : State) (sid n : Nat) : dataChecks s sid n = (List.range n).foldl (fun x _ => record x 0 (.stall sid)) s := by
  induction n generalizing s with
  | zero => rfl
  | succ n ih => rw [dataChecks, ih, foldl_range_succ]

theorem dataChecks_stalls (s : State) (sid n : Nat) : (dataChecks s sid n).stalls = s.stalls := by
  induction n generalizing s with
  | zero => rfl
  | succ n ih => exact (ih _).trans (record_stalls ..)

theorem b2n_mul (x : Bool) (n : Nat) : b2n x * n = if x then n else 0 := by cases x <;> simp [b2n]

theorem tileUnits_eq {fmt : Nat} (h : fmt ≤ 6) : tileUnits fmt = [8, 4, 4, 2, 8, 2, 2].getD fmt 0 := by
  interval_cases fmt <;> rfl

/-! DEXP (R86). -/

/-- The bank that a bank word names. -/
def namedBank (s : State) (sid : Nat) : Bank := (s.stall sid).bankOf sid (s.fld sid 56 55)

/-- The stall with the bank that its word names replaced. -/
def withBank (s : State) (sid : Nat) (b : Bank) : Stall := (s.stall sid).setBank (s.fld sid 56 55) b

/-- The exponent of a DEXP. -/
def newExp (s : State) (sid : Nat) : Int := (BitVec.ofNat 10 (s.fld sid 36 27)).toInt

theorem wExp_eq (s : State) (sid : Nat) : wExp (wordAt (s.stall sid)) = newExp s sid := signedOf_eq_toInt ..

theorem wAcc_iff {s : State} {sid : Nat} : wAcc (wordAt (s.stall sid)) = true ↔ ¬ s.fld sid 57 57 = 0 := by
  have hlt := bitsOf_lt (wordAt (s.stall sid)) 57 57
  rw [wAcc, bit_iff, decide_eq_true_iff, State.fld]
  omega

/-- The state beside a bank that a left shift has changed: ACC_OVERFLOW where a cell saturated. -/
def besideLower (s : State) (sid : Nat) (hit : Bool) : State := if hit then record s 4 (.stall sid) else s

section
variable {s : State} {sid : StallId} (h : Issues s sid 0x13 [(57, 57), (56, 55), (36, 27)])
include h

theorem exec_dexp_of_busy (hs : gwf s.stalls = true) (hb : (s.stall sid).bankBusy (s.fld sid 56 55) = true) : exec (.dexp sid) s = .next (holds s sid 1) := by
  rw [State.fld] at hb
  refine h.next (e := .hold s 1) rfl ?_ (finish_hold hs sid 1)
  simp only [h.fields, hb, Bool.not_true, Bool.false_eq_true, if_false, if_true]

variable (hb : ¬ (s.stall sid).bankBusy (s.fld sid 56 55) = true)
include hb

theorem exec_dexp_of_clear (hs : gwf s.stalls = true) (ha : s.fld sid 57 57 = 0) :
    exec (.dexp sid) s = .next (after s sid (withBank s sid ((namedBank s sid).cleared false (newExp s sid))) 1) := by
  have hacc := Bool.eq_false_iff.2 (mt wAcc_iff.1 (not_not.2 ha))
  rw [State.fld] at hb
  refine h.next (e := .retire (putStall s sid _) 1 false) rfl ?_ (finish_retire hs sid _ 1)
  simp only [h.fields, hb, hacc, Bool.not_true, Bool.not_false, Bool.false_eq_true, if_false, if_true]
  rfl

variable (ha : ¬ s.fld sid 57 57 = 0)
include ha

theorem exec_dexp_of_fp32 (hf : (namedBank s sid).fp32 = true) : exec (.dexp sid) s = .next (stallFault s sid 1 (s.stall sid).seq.pc) := by
  rw [State.fld] at hb
  rw [namedBank, State.fld] at hf
  refine h.next (e := .fault s fIllegal) rfl ?_ rfl
  simp only [h.fields, hb, wAcc_iff.2 ha, hf, Bool.not_true, Bool.false_eq_true, if_false, if_true]

variable (hf : ¬ (namedBank s sid).fp32 = true)
include hf

theorem exec_dexp_of_raise (hs : gwf s.stalls = true) (he : (namedBank s sid).e ≤ newExp s sid) :
    exec (.dexp sid) s = .next (after s sid (withBank s sid ((namedBank s sid).raise (newExp s sid - (namedBank s sid).e).toNat)) 2) := by
  rw [State.fld] at hb
  rw [namedBank, State.fld] at hf
  rw [namedBank, State.fld, ← wExp_eq] at he
  refine h.next (e := .retire (putStall s sid _) 2 false) rfl ?_ (finish_retire hs sid _ 2)
  simp only [h.fields, hb, wAcc_iff.2 ha, hf, he, Bool.not_true, Bool.false_eq_true, if_false, if_true]
  rw [wExp_eq]
  rfl

theorem exec_dexp_of_lower (hs : gwf s.stalls = true) (he : ¬ (namedBank s sid).e ≤ newExp s sid) :
    let r := (namedBank s sid).lower ((namedBank s sid).e - newExp s sid).toNat
    exec (.dexp sid) s = .next (after (besideLower s sid r.2) sid (withBank s sid r.1) 2) := by
  intro r
  have hput : (if r.2 then record (putStall s sid (withBank s sid r.1)) 4 (.stall sid) else putStall s sid (withBank s sid r.1)) =
      putStall (besideLower s sid r.2) sid (withBank s sid r.1) := by
    cases hit : r.2 with
    | false => rfl
    | true => exact record_put ..
  have hstalls : (besideLower s sid r.2).stalls = s.stalls := by
    cases hit : r.2 with
    | false => rfl
    | true => exact record_stalls ..
  rw [State.fld] at hb
  rw [namedBank, State.fld] at hf
  rw [namedBank, State.fld, ← wExp_eq] at he
  refine h.next (e := .retire (putStall (besideLower s sid r.2) sid (withBank s sid r.1)) 2 false) rfl ?_
    (finish_retire_beside hs hstalls _ 2 false)
  simp only [h.fields, hb, wAcc_iff.2 ha, hf, he, Bool.not_true, Bool.false_eq_true, if_false]
  rw [wExp_eq, ← hput]
  rfl

end

/-! DSTAT (R87). -/

section
variable {s : State} {sid : StallId} (hs : gwf s.stalls = true) (h : Issues s sid 0x14 [(56, 55), (54, 50)])
include hs h

theorem exec_dstat_of_busy (hb : (s.stall sid).bankBusy (s.fld sid 56 55) = true) : exec (.dstat sid) s = .next (holds s sid 1) := by
  rw [State.fld] at hb
  refine h.next (e := .hold s 1) rfl ?_ (finish_hold hs sid 1)
  simp only [h.fields, hb, Bool.not_true, Bool.false_eq_true, if_false, if_true]

theorem exec_dstat_of_free (hb : ¬ (s.stall sid).bankBusy (s.fld sid 56 55) = true) :
    let b := namedBank s sid
    exec (.dstat sid) s = .next (after s sid ((s.stall sid).setSreg (s.fld sid 54 50) ((BitVec.ofInt 10 b.e).toNat +
      (if b.inexact then 2 ^ 10 else 0) + (if b.sat then 2 ^ 11 else 0) + (if b.nan then 2 ^ 12 else 0) + (if b.fp32 then 2 ^ 13 else 0) +
      b.replays % 8 * 2 ^ 14)) 1) := by
  rw [State.fld] at hb
  refine h.next (e := .retire (putStall s sid _) 1 false) rfl ?_ (finish_retire hs sid _ 1)
  simp only [h.fields, hb, patternOf_eq_toNat, b2n_mul, Bool.not_true, Bool.false_eq_true, if_false]
  rfl

end

/-! DRAIN (R88-R90). -/

/-- The state beside a DRAIN's tile: its failed rows and INEXACT recorded, its roundings drawn. -/
def drained (s : State) (sid : Nat) : State :=
  let b := namedBank s sid
  let h := s.shed (shedOf sid)
  let checked := dataChecks s sid (b.failing h.tolInx h.tolF32)
  let shown := if b.inexact then record checked 5 (.stall sid) else checked
  { shown with fresh := shown.fresh + 128 }

/-- The tile of a DRAIN. -/
def drainTile (s : State) (sid : Nat) : List Byte :=
  (namedBank s sid).tile (s.fld sid 54 51) (BitVec.ofNat 8 (s.fld sid 40 33)).toInt
    (roundings (s.fld sid 47 46) (s.reg sid (s.fld sid 45 41)) s.fresh 128)

theorem drained_stalls (s : State) (sid : Nat) : (drained s sid).stalls = s.stalls := by
  have hchecks := dataChecks_stalls s sid ((namedBank s sid).failing (s.shed (shedOf sid)).tolInx (s.shed (shedOf sid)).tolF32)
  dsimp only [drained]
  split
  · exact (record_stalls ..).trans hchecks
  · exact hchecks

section
variable {s : State} {sid : StallId} (h : Issues s sid 0x12 [(56, 55), (54, 51), (50, 48), (47, 46), (45, 41), (40, 33)])
include h

theorem exec_drain_of_bad_format (hf : 6 < s.fld sid 54 51) : exec (.drain sid) s = .next (stallFault s sid 1 (s.stall sid).seq.pc) := by
  rw [State.fld] at hf
  refine h.next (e := .fault s fIllegal) rfl ?_ rfl
  simp only [hf, decide_true, Bool.or_true, if_true]

variable (hf : s.fld sid 54 51 ≤ 6)
include hf

theorem exec_drain_of_busy (hs : gwf s.stalls = true) (hb : (s.stall sid).bankBusy (s.fld sid 56 55) = true ∨
      (s.stall sid).interlocked [s.fld sid 50 48] [((s.stall sid).ag (s.fld sid 50 48)).space] = true) :
    exec (.drain sid) s = .next (holds s sid 1) := by
  simp only [State.fld, ← Bool.or_eq_true] at hf hb
  refine h.next (e := .hold s 1) rfl ?_ (finish_hold hs sid 1)
  simp only [h.fields, Nat.not_lt.2 hf, hb, decide_false, Bool.not_true, Bool.or_self, Bool.false_eq_true, if_false, if_true]

variable (hb : (s.stall sid).bankBusy (s.fld sid 56 55) = false)
  (hi : (s.stall sid).interlocked [s.fld sid 50 48] [((s.stall sid).ag (s.fld sid 50 48)).space] = false) {t : Stall} {ok : Bool}
include hb hi

theorem exec_drain_next {e : WordEnd} {x : State}
    (hw : Stall.writeUnits sid (s.fld sid 50 48) (tileUnits (s.fld sid 54 51)) (drainTile s sid) (s.stall sid) = (t, ok))
    (he : (if ok then .retire (putStall (drained s sid) sid t) (3 + tileUnits (s.fld sid 54 51))
      (decide (((s.stall sid).ag (s.fld sid 50 48)).space ≠ 0)) else .fault (putStall (drained s sid) sid t) fRange) = e)
    (hx : finishWord sid (s.stall sid).seq.pc e = x) : exec (.drain sid) s = .next x := by
  refine h.next rfl ?_ hx
  rw [drainTile, namedBank, ← signedOf_eq_toInt] at hw
  simp only [State.fld, State.reg] at hf hb hi hw
  simp only [h.fields, Nat.not_lt.2 hf, hb, hi, hw, decide_false, Bool.not_true, Bool.or_self, Bool.false_eq_true, if_false]
  exact he

theorem exec_drain_of_drained (hs : gwf s.stalls = true)
    (hw : Stall.writeUnits sid (s.fld sid 50 48) (tileUnits (s.fld sid 54 51)) (drainTile s sid) (s.stall sid) = (t, true)) :
    exec (.drain sid) s = .next (afterPort (drained s sid) sid t (decide (((s.stall sid).ag (s.fld sid 50 48)).space ≠ 0))
      (3 + tileUnits (s.fld sid 54 51))) :=
  exec_drain_next h hf hb hi hw rfl (finish_retire_beside hs (drained_stalls s sid) t _ _)

theorem exec_drain_of_out_of_range
    (hw : Stall.writeUnits sid (s.fld sid 50 48) (tileUnits (s.fld sid 54 51)) (drainTile s sid) (s.stall sid) = (t, false)) :
    exec (.drain sid) s = .next (stallFault (putStall (drained s sid) sid t) sid 2 (s.stall sid).seq.pc) :=
  exec_drain_next h hf hb hi hw rfl rfl

end

/-! Positions and values (R118, R119). -/

theorem unpack_length (w n : Nat) (bs : List Byte) : (unpack w n bs).length = n := by
  rw [unpack, List.length_map, List.length_range]

/-- Two lists of `n` elements paired by index. -/
theorem zip_eq_map_range {α β : Type} (a : α) (b : β) {n : Nat} {xs : List α} {ys : List β} (hx : xs.length = n) (hy : ys.length = n) :
    xs.zip ys = (List.range n).map fun q => (xs.getD q a, ys.getD q b) := by
  refine List.ext_getElem (by rw [List.length_zip, hx, hy, List.length_map, List.length_range, min_self]) fun i hi _ => ?_
  rw [List.length_zip, lt_min_iff] at hi
  rw [List.getElem_zip, List.getElem_map, List.getElem_range, List.getD_eq_getElem _ _ hi.1, List.getD_eq_getElem _ _ hi.2]

theorem filterMap_range_if {α : Type} (p : Nat → Bool) (f : Nat → α) (n : Nat) :
    (List.range n).filterMap (fun q => if p q then some (f q) else none) = ((List.range n).filter p).map f := by
  rw [← List.filterMap_eq_map, List.filterMap_filter]
  rfl

theorem getD_range {n q : Nat} (h : q < n) : (List.range n).getD q 0 = q := by
  rw [List.getD_eq_getElem _ _ (by rwa [List.length_range]), List.getElem_range]

/-- The positions of the values that a test takes. -/
theorem filterMap_positions (p : Nat → Bool) {n : Nat} {xs : List Nat} (hx : xs.length = n) :
    ((List.range n).zip xs).filterMap (fun y => if p y.2 then some y.1 else none) = (List.range n).filter fun q => p (xs.getD q 0) := by
  rw [zip_eq_map_range 0 0 List.length_range hx, List.filterMap_map]
  refine (filterMap_range_if (fun q => p (xs.getD q 0)) (fun q => (List.range n).getD q 0) n).trans ?_
  refine (List.map_congr_left fun q hq => getD_range (List.mem_range.1 (List.mem_filter.1 hq).1)).trans (List.map_id _)

/-- The positions of the values that a test leaves. -/
theorem filterMap_positions_not (p : Nat → Bool) {n : Nat} {xs : List Nat} (hx : xs.length = n) :
    ((List.range n).zip xs).filterMap (fun y => if p y.2 then none else some y.1) = (List.range n).filter fun q => !p (xs.getD q 0) := by
  refine (List.filterMap_congr fun y _ => ?_).trans (filterMap_positions (fun v => !p v) hx)
  cases p y.2 <;> rfl

theorem sampled_eq (phase : Nat) (l : List Nat) :
    sampled phase l = (List.range l.length).filterMap fun q => if q % 16 = phase then l[q]? else none := by
  rw [sampled, zip_eq_map_range 0 0 List.length_range rfl, List.filterMap_map]
  refine List.filterMap_congr fun q hq => ?_
  have hlt := List.mem_range.1 hq
  rw [Function.comp_apply, getD_range hlt, List.getElem?_eq_getElem hlt, List.getD_eq_getElem _ _ hlt]

/-! PSEL (R118). -/

/-- The state beside a PSEL: in mode 1 a phase is drawn. -/
def besidePsel (s : State) (sid : Nat) : State := if predictor (s.shed (shedOf sid)) = 1 then { s with fresh := s.fresh + 1 } else s

theorem besidePsel_stalls (s : State) (sid : Nat) : (besidePsel s sid).stalls = s.stalls := by
  rw [besidePsel, apply_ite State.stalls, ite_self]

/-- The positions that a PSEL keeps, by the threshold and the bytes of the scores. -/
def pselKeep (th n : Nat) (bytes : List Byte) : List Nat :=
  (List.range (16 * n)).filter fun p => kept th ((unpack 32 (16 * n) bytes).getD p 0)

/-- The positions that a PSEL skips. -/
def pselSkip (th n : Nat) (bytes : List Byte) : List Nat :=
  (List.range (16 * n)).filter fun p => !kept th ((unpack 32 (16 * n) bytes).getD p 0)

/-- The check list of a PSEL, by the mode and the phase. -/
def pselCheck (mode phase : Nat) (skip : List Nat) : List Nat :=
  if mode = 0 then skip
  else if mode = 1 then (List.range skip.length).filterMap fun q => if q % 16 = phase then skip[q]? else none
  else []

theorem filterMap_kept (th n : Nat) (bytes : List Byte) :
    ((List.range (16 * n)).zip (unpack 32 (16 * n) bytes)).filterMap (fun p => if kept th p.2 then some p.1 else none) = pselKeep th n bytes :=
  filterMap_positions (kept th) (unpack_length ..)

theorem filterMap_skipped (th n : Nat) (bytes : List Byte) :
    ((List.range (16 * n)).zip (unpack 32 (16 * n) bytes)).filterMap (fun p => if kept th p.2 then none else some p.1) = pselSkip th n bytes :=
  filterMap_positions_not (kept th) (unpack_length ..)

theorem pselCheck_eq (mode phase : Nat) (skip : List Nat) :
    (if mode = 0 then skip else if mode = 1 then sampled phase skip else []) = pselCheck mode phase skip := by rw [pselCheck, sampled_eq]

section
variable {s : State} {sid : StallId} (h : Issues s sid 0x1A [(54, 52), (51, 49), (48, 46), (45, 35), (31, 27), (26, 22)])
include h

theorem exec_psel_of_no_count (hn : s.fld sid 45 35 = 0) : exec (.psel sid) s = .next (stallFault s sid 1 (s.stall sid).seq.pc) := by
  rw [State.fld] at hn
  refine h.next (e := .fault s fIllegal) rfl ?_ rfl
  simp only [hn, decide_true, Bool.or_true, if_true]

variable (hn : s.fld sid 45 35 ≠ 0)
include hn

theorem exec_psel_of_interlock (hs : gwf s.stalls = true) (hi : (s.stall sid).interlocked [s.fld sid 54 52, s.fld sid 51 49, s.fld sid 48 46]
      [((s.stall sid).ag (s.fld sid 51 49)).space, ((s.stall sid).ag (s.fld sid 48 46)).space] = true) :
    exec (.psel sid) s = .next (holds s sid 1) := by
  simp only [State.fld] at hn hi
  refine h.next (e := .hold s 1) rfl ?_ (finish_hold hs sid 1)
  simp only [h.fields, hn, hi, decide_false, Bool.not_true, Bool.or_self, Bool.false_eq_true, if_false, if_true]

variable (hi : (s.stall sid).interlocked [s.fld sid 54 52, s.fld sid 51 49, s.fld sid 48 46]
  [((s.stall sid).ag (s.fld sid 51 49)).space, ((s.stall sid).ag (s.fld sid 48 46)).space] = false) {t : Stall}
include hi

theorem exec_psel_of_out_of_range (hr : Stall.readUnits sid (s.fld sid 54 52) (s.fld sid 45 35) (s.stall sid) = (t, none)) :
    exec (.psel sid) s = .next (stallFault (putStall (besidePsel s sid) sid t) sid 2 (s.stall sid).seq.pc) := by
  simp only [State.fld] at hn hi hr
  refine h.next (e := .fault (putStall (besidePsel s sid) sid t) fRange) rfl ?_ rfl
  simp only [h.fields, hn, hi, hr, decide_false, Bool.not_true, Bool.or_self, Bool.false_eq_true, if_false]
  rfl

section
variable {bytes : List Byte} {t1 t2 : Stall} {ok : Bool} {keep check : List Nat}
  (hr : Stall.readUnits sid (s.fld sid 54 52) (s.fld sid 45 35) (s.stall sid) = (t, some bytes))
  (hkeep : pselKeep (t.sreg sid (s.fld sid 31 27)) (s.fld sid 45 35) bytes = keep)
  (hcheck : pselCheck (predictor (s.shed (shedOf sid))) (Config.phase s.fresh).toNat (pselSkip (t.sreg sid (s.fld sid 31 27)) (s.fld sid 45 35) bytes) = check)
  (hw : Stall.writeUnits sid (s.fld sid 51 49) (ceilDiv keep.length 32) (entries16 keep) t = (t1, true))
  (hc : Stall.writeUnits sid (s.fld sid 48 46) (ceilDiv check.length 32) (entries16 check) t1 = (t2, ok))
include hr hkeep hcheck hw hc

theorem exec_psel_next {e : WordEnd} {x : State}
    (he : (if ok then .retire (putStall (besidePsel s sid) sid (t2.setSreg (s.fld sid 26 22) (keep.length + 65536 * check.length)))
      (reach ((s.stall sid).ag (s.fld sid 54 52)).space + 4 + s.fld sid 45 35) true else .fault (putStall (besidePsel s sid) sid t2) fRange) = e)
    (hx : finishWord sid (s.stall sid).seq.pc e = x) : exec (.psel sid) s = .next x := by
  refine h.next rfl ?_ hx
  simp only [State.fld] at hn hi hr hkeep hcheck hw hc
  simp only [h.fields, hn, hi, hr, filterMap_kept, hkeep, filterMap_skipped, pselCheck_eq, hcheck, hw, hc, decide_false, Bool.not_true,
    Bool.or_self, Bool.false_eq_true, if_false]
  rw [← he]
  cases ok <;> rfl

end

end

/-! PCHK (R119). -/

/-- The list entries whose value is a stray, by the margin and the bytes of the list and the values. -/
def pchkStrays (margin n : Nat) (ls vs : List Byte) : List Nat :=
  ((List.range n).filter fun q => isStray margin ((unpack 32 n vs).getD q 0)).map fun q => (unpack 16 n ls).getD q 0

theorem filterMap_strays (margin n : Nat) (ls vs : List Byte) :
    ((unpack 16 n ls).zip (unpack 32 n vs)).filterMap (fun p => if isStray margin p.2 then some p.1 else none) = pchkStrays margin n ls vs := by
  rw [zip_eq_map_range 0 0 (unpack_length ..) (unpack_length ..), List.filterMap_map]
  exact filterMap_range_if ..

/-- The counts of a PCHK in its shed, by the mode. -/
def pchkCounted (mode n count : Nat) (h : Shed) : Shed :=
  { h with examined := satAdd 32 h.examined n, made := if mode = 0 then satAdd 16 h.made count else h.made,
           seen := if mode = 1 then satAdd 16 h.seen count else h.seen }

/-- The state beside a PCHK: its counts, and a stray recorded where the mode counts it. -/
def besidePchk (mode : Nat) (s : State) (sid n count : Nat) : State :=
  if mode < 2 ∧ 0 < count then record (modShed s (shedOf sid) (pchkCounted mode n count)) 15 (.stall sid)
  else modShed s (shedOf sid) (pchkCounted mode n count)

theorem besidePchk_stalls (mode : Nat) (s : State) (sid n count : Nat) : (besidePchk mode s sid n count).stalls = s.stalls := by
  unfold besidePchk
  split
  · exact record_stalls ..
  · rfl

theorem modShed_put (s : State) (sid h : Nat) (t : Stall) (f : Shed → Shed) : modShed (putStall s sid t) h f = putStall (modShed s h f) sid t := rfl

theorem besidePchk_put (mode : Nat) (s : State) (sid n count : Nat) (t : Stall) :
    besidePchk mode (putStall s sid t) sid n count = putStall (besidePchk mode s sid n count) sid t := by
  unfold besidePchk
  rw [modShed_put, record_put]
  split <;> rfl

section
variable {s : State} {sid : StallId} (h : Issues s sid 0x1B [(54, 52), (51, 49), (48, 46), (45, 31), (30, 26), (25, 21)])
include h

theorem exec_pchk_of_bad_count (hn : s.fld sid 45 31 = 0 ∨ 32752 < s.fld sid 45 31) :
    exec (.pchk sid) s = .next (stallFault s sid 1 (s.stall sid).seq.pc) := by
  rw [State.fld] at hn
  refine h.next (e := .fault s fIllegal) rfl ?_ rfl
  simp only [hn, decide_true, Bool.or_true, if_true]

variable (hn : ¬ (s.fld sid 45 31 = 0 ∨ 32752 < s.fld sid 45 31))
include hn

theorem exec_pchk_of_interlock (hs : gwf s.stalls = true) (hi : (s.stall sid).interlocked [s.fld sid 54 52, s.fld sid 51 49, s.fld sid 48 46]
      [((s.stall sid).ag (s.fld sid 48 46)).space] = true) :
    exec (.pchk sid) s = .next (holds s sid 1) := by
  simp only [State.fld] at hn hi
  refine h.next (e := .hold s 1) rfl ?_ (finish_hold hs sid 1)
  simp only [h.fields, hn, hi, decide_false, Bool.not_true, Bool.or_self, Bool.false_eq_true, if_false, if_true]

variable (hi : (s.stall sid).interlocked [s.fld sid 54 52, s.fld sid 51 49, s.fld sid 48 46]
    [((s.stall sid).ag (s.fld sid 48 46)).space] = false) {t1 t2 t3 : Stall} {ls vs : List Byte} {strays : List Nat}
  (hl : Stall.readUnits sid (s.fld sid 51 49) (ceilDiv (s.fld sid 45 31) 32) (s.stall sid) = (t1, some ls))
  (hv : Stall.readUnits sid (s.fld sid 54 52) (ceilDiv (s.fld sid 45 31) 16) t1 = (t2, some vs))
  (hstrays : pchkStrays (t2.sreg sid (s.fld sid 30 26)) (s.fld sid 45 31) ls vs = strays)
include hi hl hv hstrays

theorem exec_pchk_of_checked (hs : gwf s.stalls = true)
    (hw : Stall.writeUnits sid (s.fld sid 48 46) (if predictor (s.shed (shedOf sid)) = 0 then ceilDiv strays.length 32 else 0)
      (entries16 strays) t2 = (t3, true)) :
    exec (.pchk sid) s = .next (afterPort (besidePchk (predictor (s.shed (shedOf sid))) s sid (s.fld sid 45 31) strays.length) sid
      (t3.setSreg (s.fld sid 25 21) (if predictor (s.shed (shedOf sid)) = 0 then strays.length else 0)) true
      (reach ((s.stall sid).ag (s.fld sid 54 52)).space + 4 + ceilDiv (s.fld sid 45 31) 16)) := by
  refine h.next (e := .retire (putStall (besidePchk (predictor (s.shed (shedOf sid))) s sid (s.fld sid 45 31) strays.length) sid _) _ true) rfl ?_
    (finish_retire_beside hs (besidePchk_stalls ..) _ _ true)
  simp only [State.fld] at hn hi hl hv hstrays hw
  simp only [h.fields, hn, hi, hl, hv, filterMap_strays, hstrays, hw, decide_false, Bool.not_true, Bool.or_self, Bool.false_eq_true, if_false]
  exact congrArg (fun x => WordEnd.retire x _ true) (besidePchk_put ..)

theorem exec_pchk_of_out_of_range
    (hw : Stall.writeUnits sid (s.fld sid 48 46) (if predictor (s.shed (shedOf sid)) = 0 then ceilDiv strays.length 32 else 0)
      (entries16 strays) t2 = (t3, false)) :
    exec (.pchk sid) s = .next (stallFault (putStall s sid t3) sid 2 (s.stall sid).seq.pc) := by
  refine h.next (e := .fault (putStall s sid t3) fRange) rfl ?_ rfl
  simp only [State.fld] at hn hi hl hv hstrays hw
  simp only [h.fields, hn, hi, hl, hv, filterMap_strays, hstrays, hw, decide_false, Bool.not_true, Bool.or_self, Bool.false_eq_true, if_false]

end

end Sys2Proof.Machine

namespace Sys2Proof.Proofs
open Sys2Proof Sys2Proof.Machine

/-- Settles O38: each bank word's outcomes in the order of its checks. -/
theorem bankWords : Obligations.BankWords := by
  intro s sid hc u i b
  have hs := hc.stalls
  refine ⟨fun h => ?dexp, fun h => ?dstat, fun h => ?drain⟩
  case dexp =>
    intro e put none' zeroed
    by_cases hb : u.bankBusy i = true
    · rw [if_pos hb]
      exact exec_dexp_of_busy h hs hb
    rw [if_neg hb]
    by_cases ha : s.fld sid 57 57 = 0
    · rw [if_pos ha]
      exact exec_dexp_of_clear h hb hs ha
    rw [if_neg ha]
    by_cases hf : b.fp32 = true
    · rw [if_pos hf]
      exact exec_dexp_of_fp32 h hb ha hf
    rw [if_neg hf]
    by_cases he : b.e ≤ e
    · rw [if_pos he]
      exact exec_dexp_of_raise h hb ha hf hs he
    · rw [if_neg he]
      exact exec_dexp_of_lower h hb ha hf hs he
  case dstat =>
    intro bit
    by_cases hb : u.bankBusy i = true
    · rw [if_pos hb]
      exact exec_dstat_of_busy hs h hb
    · rw [if_neg hb]
      exact exec_dstat_of_free hs h hb
  case drain =>
    intro fmt k sp sh rs units tile checked shown spent
    refine ⟨exec_drain_of_bad_format h, fun hf => exec_drain_of_busy h hf hs, fun hf hb hi t => ?_⟩
    have hspent : spent = drained s sid := by
      simp only [drained, dataChecks_eq]
      rfl
    have hunits : units = tileUnits fmt := (tileUnits_eq hf).symm
    rw [hspent, hunits]
    exact ⟨exec_drain_of_drained h hf hb hi hs, exec_drain_of_out_of_range h hf hb hi⟩

/-- Settles O39: each predictor word's outcomes in the order of its checks, its lists taken by position. -/
theorem predictorWords : Obligations.PredictorWords := by
  intro s sid hc u now mode
  have hs := hc.stalls
  refine ⟨fun h => ?psel, fun h => ?pchk⟩
  case psel =>
    intro a d e n s1
    refine ⟨exec_psel_of_no_count h, fun hn => exec_psel_of_interlock h hn hs, fun hn hi t => ⟨exec_psel_of_out_of_range h hn hi, ?_⟩⟩
    intro bytes hr score keep skip check t1 t2 ok hw hc
    rw [← reach_eq_getD]
    cases ok with
    | true => exact exec_psel_next h hn hi hr rfl rfl hw hc rfl (finish_retire_beside hs (besidePsel_stalls s sid) _ _ true)
    | false => exact exec_psel_next h hn hi hr rfl rfl hw hc rfl rfl
  case pchk =>
    intro a l d n
    have hcount (h1 : 1 ≤ n) (hn : n ≤ 32752) : ¬ (n = 0 ∨ 32752 < n) := by omega
    refine ⟨exec_pchk_of_bad_count h, fun h1 hn => exec_pchk_of_interlock h (hcount h1 hn) hs, fun h1 hn hi t1 t2 t3 ls vs hl hv => ?_⟩
    intro value strays count units shedNow
    rw [← reach_eq_getD]
    exact ⟨exec_pchk_of_checked h (hcount h1 hn) hi hl hv rfl hs, exec_pchk_of_out_of_range h (hcount h1 hn) hi hl hv rfl⟩

end Sys2Proof.Proofs
end

section
/-! PROOFS. Dispatch (R32, R38, R41): which queues are eligible, the queue that is picked, the sequencer that starts, and from these O40. -/

namespace Sys2Proof.Machine

/-! Eligible queues (R32, R38). -/

section
variable {t : Stall} {q : Nat}

theorem headMsg_of_empty (h : t.qu.queue q = []) : t.headMsg q = none := by rw [Stall.headMsg, h]

theorem headMsg_of_cons {m : QMsg} {rest : List QMsg} (h : t.qu.queue q = m :: rest) : t.headMsg q = if m.complete then some m else none := by
  rw [Stall.headMsg, h]

theorem eligible_of_no_head (h : t.headMsg q = none) : t.eligible q = none := by rw [Stall.eligible, h]

variable {m : QMsg} (h : t.headMsg q = some m)
include h

theorem eligible_of_single (hp : ePair (t.tagEntry m.tag) = false) : t.eligible q = some ((m, q), none) := by
  simp only [Stall.eligible, h, hp, Bool.not_false, if_true]

variable (hp : ePair (t.tagEntry m.tag) = true)
include hp

theorem eligible_of_no_partner (hn : t.headMsg (eQueue (t.tagEntry (m.tag ^^^ 1))) = none) : t.eligible q = none := by
  simp only [Stall.eligible, h, hp, hn, Bool.not_true, Bool.false_eq_true, if_false]

theorem eligible_of_partner {n : QMsg} (hn : t.headMsg (eQueue (t.tagEntry (m.tag ^^^ 1))) = some n) :
    t.eligible q = if n.tag = m.tag ^^^ 1 ∧ eQueue (t.tagEntry (m.tag ^^^ 1)) ≠ q
      then some (if m.tag % 2 = 0 then ((m, q), some n) else ((n, eQueue (t.tagEntry (m.tag ^^^ 1))), some m)) else none := by
  simp only [Stall.eligible, h, hp, hn, Bool.not_true, Bool.false_eq_true, if_false]
  by_cases hpair : n.tag = m.tag ^^^ 1 ∧ eQueue (t.tagEntry (m.tag ^^^ 1)) ≠ q
  · rw [if_pos hpair, if_neg (by tauto), apply_ite some]
  · rw [if_neg hpair, if_pos (by tauto)]

end

/-! The queue picked (R32). -/

theorem findSome_range_of_first {α : Type} {f : Nat → Option α} {n k : Nat} {r : α} (hk : k < n) (h : f k = some r)
    (hfirst : ∀ j, j < k → f j = none) : (List.range n).findSome? f = some r := by
  obtain ⟨d, rfl⟩ := Nat.exists_eq_add_of_lt hk
  rw [Nat.add_assoc, List.range_add, List.range_succ_eq_map, List.map_cons, List.findSome?_append,
    List.findSome?_eq_none_iff.2 fun j hj => hfirst j (List.mem_range.1 hj), List.findSome?_cons, Nat.add_zero, h]
  rfl

theorem pick_of_first {t : Stall} {k : Nat} {r : (QMsg × Nat) × Option QMsg} (hk : k < 32)
    (h : t.eligible ((t.seq.last + 1 + k) % 32) = some r) (hfirst : ∀ j, j < k → t.eligible ((t.seq.last + 1 + j) % 32) = none) :
    t.pick = some ((t.seq.last + 1 + k) % 32, r) :=
  findSome_range_of_first hk (by dsimp only; rw [h]; rfl) fun j hj => by dsimp only; rw [hfirst j hj]; rfl

/-! The sequencer that starts (R32, R41). -/

theorem Seq.settle_of_kept {q : Seq} (h : q.lost = none) (sid : Nat) : q.settle sid = q := by rw [Seq.settle, h]

theorem Stall.settle_of_kept {t : Stall} (h : t.seq.lost = none) (sid : Nat) : t.settle sid = t := by
  rw [Stall.settle, Seq.settle_of_kept h]

theorem parity_fresh (s : State) (sid : Nat) (par : Bool) : (parity s sid par).fresh = s.fresh := by
  cases par
  · rfl
  · exact (record_same (ps := [.grm, .err, .mbx, .sheds]) (Same.refl (s := s)) 2 (.stall sid) (by decide)).kept .fresh (by decide)

theorem modSeq_passFree {s : State} (hs : gwf s.stalls = true) (sid : Nat) (f : Seq → Seq) :
    modSeq (passFree s sid) sid f = putStall { s with fresh := s.fresh + 1 } sid
      { s.stall sid with seq := f { (s.stall sid).seq with cyc := (s.stall sid).seq.cyc + Config.freeCycles s.fresh } } := by
  rw [passFree_self hs]
  exact modStall_putStall (s := { s with fresh := s.fresh + 1 }) hs sid _ _

theorem exec_dispatch_of_pick {s : State} {sid : StallId} {par : Bool} (hs : gwf s.stalls = true) (ho : (s.stall sid).opened = true)
    (hl : stallLive s sid = true) (hp : runningPlace s ≠ none) (hr : (s.stall sid).seq.run = 0 ∨ (s.stall sid).seq.run = 6)
    (hk : (s.stall sid).seq.lost = none) {q mq : Nat} {m : QMsg} {partner : Option QMsg}
    (hpick : (s.stall sid).pick = some (q, (m, mq), partner)) :
    let t := s.stall sid
    exec (.dispatch sid par) s = .next (putStall { parity s sid par with fresh := s.fresh + 1 } sid { t with
      seq := ({ t.seq with cyc := t.seq.cyc + Config.freeCycles s.fresh } : Seq).dispatch q m mq partner (bitsOf (t.tagEntry m.tag) 8 0) }) := by
  have hx : (parity s sid par).stalls = s.stalls := parity_stalls ..
  have hrun : ¬ ((s.stall sid).seq.run ≠ 0 ∧ (s.stall sid).seq.run ≠ 6) := by omega
  refine congrArg Host.Outcome.next ((if_neg ?_).trans ?_)
  · simp only [ho, hl, hrun, Option.isNone_eq_false_iff.2 (Option.isSome_iff_ne_none.2 hp), decide_false, Bool.not_true, Bool.or_self,
      Bool.false_eq_true, not_false_eq_true]
  · rw [Stall.settle_of_kept hk, hpick]
    dsimp only
    rw [modSeq_passFree (hx ▸ hs), stall_eq hx, parity_fresh,
      Seq.settle_of_kept (q := { (s.stall sid).seq with cyc := (s.stall sid).seq.cyc + Config.freeCycles s.fresh }) hk]

end Sys2Proof.Machine

namespace Sys2Proof.Proofs
open Sys2Proof Sys2Proof.Machine

/-- Settles O40: dispatch picks the first eligible queue, and eligibility is decided by the queue's head and its partner's. -/
theorem dispatchStartsARoutine : Obligations.DispatchStartsARoutine := by
  refine ⟨fun s sid par k m mq partner hc => ?starts, fun t q => ?eligible⟩
  case starts =>
    intro t ho hl hp hr hlost hk he hfirst at' s28 s29 s30 seq
    have hseq : ({ t.seq with cyc := at' } : Seq).dispatch ((t.seq.last + 1 + k) % 32) m mq partner (bitsOf (t.tagEntry m.tag) 8 0) = seq := by
      have hflag : b2n partner.isSome * 2 ^ 15 = if partner ≠ none then 32768 else 0 := by
        cases partner with
        | none => exact (show b2n false * 2 ^ 15 = 0 by decide).trans (if_neg (not_not.2 rfl)).symm
        | some n => exact (show b2n true * 2 ^ 15 = 32768 by decide).trans (if_pos (Option.some_ne_none n)).symm
      simp only [Seq.dispatch, hflag]
      rfl
    have hstalls : ({ parity s sid par with fresh := s.fresh + 1 } : State).stalls = s.stalls := parity_stalls ..
    rw [exec_dispatch_of_pick hc.stalls ho hl hp hr hlost (pick_of_first hk he hfirst), putStall_eq_of_stalls hstalls, ← hseq]
    rfl
  case eligible =>
    have hcomplete {q : Nat} {n : QMsg} {rest : List QMsg} (h : t.qu.queue q = n :: rest) (hn : n.complete = true) : t.headMsg q = some n :=
      (headMsg_of_cons h).trans (if_pos hn)
    have hpartial {q : Nat} {n : QMsg} {rest : List QMsg} (h : t.qu.queue q = n :: rest) (hn : ¬ n.complete = true) : t.headMsg q = none :=
      (headMsg_of_cons h).trans (if_neg hn)
    refine ⟨fun h => eligible_of_no_head (headMsg_of_empty h), fun m rest h =>
      ⟨fun hm => eligible_of_no_head (hpartial h (Bool.eq_false_iff.1 hm)), fun hm hp => eligible_of_single (hcomplete h hm) hp, fun hm hp =>
        ⟨fun hq => eligible_of_no_partner (hcomplete h hm) hp (headMsg_of_empty hq), fun n rest' hq =>
          ⟨fun ⟨hn, htag, hne⟩ => ?bound, fun hno => ?unbound⟩⟩⟩⟩
    case bound => exact (eligible_of_partner (hcomplete h hm) hp (hcomplete hq hn)).trans (if_pos ⟨htag, hne⟩)
    case unbound =>
      by_cases hn : n.complete = true
      · exact (eligible_of_partner (hcomplete h hm) hp (hcomplete hq hn)).trans (if_neg fun hpair => hno ⟨hn, hpair⟩)
      · exact eligible_of_no_partner (hcomplete h hm) hp (hpartial hq hn)

end Sys2Proof.Proofs
end

section
/-! PROOFS. The run of a section (R211, R216-R222, R224, R229, R444): the stalls that satisfy a condition, the open and the flip at each stall,
START and ABORT by their checks, the start opening, the close and the abort's end, and from these O45. -/

namespace Sys2Proof.Machine

/-! The keys of a map in canonical form. -/

theorem keysRise_nodup {α : Type} {lo : Nat} {l : List (Nat × α)} (h : keysRise lo l = true) : (l.map (·.1)).Nodup := by
  induction l generalizing lo with
  | nil => exact .nil
  | cons c r ih =>
    obtain ⟨k, v⟩ := c
    rw [keysRise, Bool.and_eq_true] at h
    refine List.nodup_cons.2 ⟨fun hk => ?_, ih h.2⟩
    obtain ⟨d, hd, hdk⟩ := List.mem_map.1 hk
    have hge := keysRise_mem h.2 d hd
    dsimp only at hdk
    omega

theorem lookupKey_of_mem {α : Type} {lo : Nat} {l : List (Nat × α)} (h : keysRise lo l = true) {k : Nat} {v : α} (hm : (k, v) ∈ l) :
    lookupKey k l = some v := by
  induction l generalizing lo with
  | nil => cases hm
  | cons c r ih =>
    obtain ⟨j, x⟩ := c
    rw [keysRise, Bool.and_eq_true] at h
    rcases List.mem_cons.1 hm with heq | hr
    · cases heq
      exact if_pos rfl
    · have hge := keysRise_mem h.2 _ hr
      exact (if_neg (by dsimp only at hge; omega)).trans (ih h.2 hr)

theorem gget_of_mem_cells {α : Type} [DecidableEq α] {m : GMap α} (h : gwf m = true) {k : Nat} {v : α} (hm : (k, v) ∈ m.cells) : gget m k = v := by
  rw [gget, lookupKey_of_mem (gwf_rise h) hm]
  rfl

/-! The stalls that satisfy a condition (R181, R188). -/

section
variable {s : State} (hs : gwf s.stalls = true) (p : Stall → Bool)
include hs

theorem stallsWhere_nodup : (stallsWhere s p).Nodup := by
  unfold stallsWhere
  split
  · exact List.nodup_range.filter _
  · exact (keysRise_nodup (gwf_rise hs)).sublist (List.filter_sublist.map _)

theorem mem_stallsWhere {sid : Nat} (h : sid < 1048576) :
    sid ∈ stallsWhere s p ↔ p (s.stall sid) = true ∧ shedAbsent s (shedOf sid) = false := by
  unfold stallsWhere
  split
  · rw [List.mem_filter, List.mem_range, Bool.and_eq_true, Bool.not_eq_true']
    exact and_iff_right h
  next hd =>
    rw [List.mem_map]
    constructor
    · rintro ⟨⟨k, v⟩, hc, rfl⟩
      obtain ⟨hmem, hp⟩ := List.mem_filter.1 hc
      rw [Bool.and_eq_true, Bool.not_eq_true'] at hp
      rwa [State.stall, gget_of_mem_cells hs hmem]
    · rintro ⟨hp, ha⟩
      have hkey : sid ∈ gkeys s.stalls := by
        by_contra hno
        rw [State.stall, gget_of_not_key hno] at hp
        exact hd hp
      obtain ⟨⟨k, v⟩, hmem, rfl⟩ := List.mem_map.1 hkey
      rw [State.stall, gget_of_mem_cells hs hmem] at hp
      exact ⟨(k, v), List.mem_filter.2 ⟨hmem, by rw [Bool.and_eq_true, Bool.not_eq_true']; exact ⟨hp, ha⟩⟩, rfl⟩

end

/-! The open and the flip (R218). -/

/-- The open as its sheds see it: the controller has sent it, and the yards have begun their counts again. -/
def openSent (s : State) (p : Nat) : State :=
  { s with sec := { s.sec with openOut := true, auto := false, wantStart := none, cg := (s.place p).gen },
           pwr := { s.pwr with pend := false }, yards := gmapAll s.yards Yard.opened }

theorem sendOpen_eq (s : State) (p : Nat) : sendOpen s p = openSheds (openSent s p) := rfl

section
variable {s : State} (hy : gwf s.yards = true) (p k : Nat)
include hy

theorem openSent_yard (y : Nat) : (openSent s p).yard y = (s.yard y).opened := gget_gmapAll hy _ y

theorem openSent_shedAbsent : shedAbsent (openSent s p) k = shedAbsent s k := by
  rw [shedAbsent, openSent_yard hy]
  rfl

theorem openSent_flipsNow : flipsNow (openSent s p) k = flipsNow s k := by
  rw [flipsNow, pshedOf, openSent_yard hy]
  rfl

end

theorem openSheds_sec (s : State) : (openSheds s).sec = s.sec :=
  (openSheds_same (ps := [.sheds, .psheds, .stalls]) Same.refl (by decide)).kept .sec (by decide)

theorem foldl_modPShed_stalls (l : List Nat) (s : State) (f : PShed → PShed) :
    (l.foldl (fun s k => modPShed s (pshedOf s k) f) s).stalls = s.stalls := by
  induction l generalizing s with
  | nil => rfl
  | cons k l ih => exact ih (modPShed s (pshedOf s k) f)

/-- The stalls that do not flip at once: those of sheds that are not ready, and of ABSENT sheds. -/
def flipLate (s : State) : List Nat :=
  (((List.range 4096).filter (fun k => !shedAbsent s k)).filter (fun k => !flipsNow s k) ++ (List.range 4096).filter (fun k => shedAbsent s k)).flatMap
    fun k => (List.range 256).map (sidOf k)

theorem openSheds_stalls (s : State) : (openSheds s).stalls = gupdate s.stalls (flipLate s)
    (fun sid t => if shedAbsent s (shedOf sid) || !flipsNow s (shedOf sid) then t else t.flipped s.sec.cg) (fun t => t.flipped s.sec.cg) := by
  unfold openSheds
  dsimp only
  rw [foldl_modPShed_stalls, foldl_modPShed_stalls]
  rfl

theorem mem_flipLate {s : State} {sid : Nat} (h : sid < 1048576) (hl : (shedAbsent s (shedOf sid) || !flipsNow s (shedOf sid)) = true) :
    sid ∈ flipLate s := by
  have hshed : shedOf sid ∈ List.range 4096 := List.mem_range.2 (shedOf_lt sid)
  refine List.mem_flatMap.2 ⟨shedOf sid, ?_, List.mem_map.2 ⟨stallInShed sid, List.mem_range.2 (stallInShed_lt sid), sidOf_shedOf h⟩⟩
  rw [List.mem_append, List.mem_filter, List.mem_filter, List.mem_filter]
  cases ha : shedAbsent s (shedOf sid) with
  | true => exact .inr ⟨hshed, rfl⟩
  | false =>
    rw [ha, Bool.false_or] at hl
    exact .inl ⟨⟨hshed, rfl⟩, hl⟩

/-- The stalls of present sheds that are ready flip; the others are left alone. -/
theorem openSheds_stall (s : State) {sid : Nat} (h : sid < 1048576) :
    (openSheds s).stall sid =
      if shedAbsent s (shedOf sid) = false ∧ flipsNow s (shedOf sid) = true then (s.stall sid).flipped s.sec.cg else s.stall sid := by
  have hiff : (shedAbsent s (shedOf sid) || !flipsNow s (shedOf sid)) = true ↔
      ¬ (shedAbsent s (shedOf sid) = false ∧ flipsNow s (shedOf sid) = true) := by
    cases shedAbsent s (shedOf sid) <;> cases flipsNow s (shedOf sid) <;> decide
  rw [State.stall, openSheds_stalls, gget_gupdate]
  by_cases hready : shedAbsent s (shedOf sid) = false ∧ flipsNow s (shedOf sid) = true
  · rw [if_pos hready]
    split
    · exact if_neg fun hl => hiff.1 hl hready
    · next hk => rw [State.stall, gget_of_not_key fun hlisted => hk (List.mem_append_left _ hlisted)]
  · rw [if_neg hready, if_pos (List.mem_append_right _ (mem_flipLate h (hiff.2 hready)))]
    exact if_pos (hiff.2 hready)

theorem sendOpen_stall {s : State} (hy : gwf s.yards = true) (p : Nat) {sid : Nat} (h : sid < 1048576) :
    (sendOpen s p).stall sid =
      if shedAbsent s (shedOf sid) = false ∧ flipsNow s (shedOf sid) = true then (s.stall sid).flipped (s.place p).gen else s.stall sid := by
  rw [sendOpen_eq, openSheds_stall _ h, openSent_shedAbsent hy, openSent_flipsNow hy]
  rfl

theorem answered_stall (s : State) (r : Resp) (sid : Nat) : ({ s with resp := r } : State).stall sid = s.stall sid := rfl

/-! START by its checks (R210, R211, R219, R224). -/

theorem predOk_iff {s : State} {p : Nat} : predOk s p = true ↔ (s.place p).predsec = 0 ∨ (s.place p).predsec = s.sec.lastsec := by
  rw [predOk, Bool.or_eq_true, decide_eq_true_eq, decide_eq_true_eq]

section
variable {s : State} {p : Nat}

theorem takeStart_of_not_armed (h : (s.place p).st ≠ 3 ∨ s.sec.openOut = true) : takeStart p s = cmdErr s p 1 := if_pos h

variable (h3 : (s.place p).st = 3) (ho : s.sec.openOut = false)
include h3 ho

theorem armed_and_shut : ¬ ((s.place p).st ≠ 3 ∨ s.sec.openOut = true) := by
  rw [h3, ho]
  decide

theorem takeStart_of_active (ha : activePlace s ≠ none) : takeStart p s = cmdErr s p 2 :=
  (if_neg (armed_and_shut h3 ho)).trans (if_pos (Option.isSome_iff_ne_none.2 ha))

variable (ha : activePlace s = none)
include ha

theorem takeStart_of_pred (hp : ¬ ((s.place p).predsec = 0 ∨ (s.place p).predsec = s.sec.lastsec)) : takeStart p s = cmdErr s p 3 := by
  have hpred := Bool.eq_false_iff.2 (mt predOk_iff.1 hp)
  simp only [takeStart, armed_and_shut h3 ho, ha, hpred, Option.isSome_none, Bool.not_false, Bool.false_eq_true, if_false, if_true]

variable (hp : (s.place p).predsec = 0 ∨ (s.place p).predsec = s.sec.lastsec)
include hp

theorem takeStart_of_held (hh : startHeld s = true) : takeStart p s = { s with sec := { s.sec with wantStart := some p } } := by
  simp only [takeStart, armed_and_shut h3 ho, ha, predOk_iff.2 hp, hh, Option.isSome_none, Bool.not_true, Bool.false_eq_true, if_false, if_true]

theorem takeStart_of_free (hh : startHeld s = false) : takeStart p s = sendOpen s p := by
  simp only [takeStart, armed_and_shut h3 ho, ha, predOk_iff.2 hp, hh, Option.isSome_none, Bool.not_true, Bool.false_eq_true, if_false]

end

/-! START and ABORT as commands (R219-R221, R226). -/

theorem takeSec_start {p : Nat} (hp : p ≠ 7) (auto : Bool) (s : State) : takeSec 3 p auto s = takeStart p s := by simp [takeSec, hp]

theorem takeSec_abort (p : Nat) (auto : Bool) (s : State) : takeSec 4 p auto s = requestAbort s 1 := by simp [takeSec]

section
variable {o : Origin} (ho : Origin.auth o = true) {s t : State}
include ho

theorem exec_start_of_take (p : PlaceNo) (h : takeStart p (secKept s 3 p false) = t) :
    exec (.start o p) s = .next { t with resp := ⟨0, 0, []⟩ } :=
  secCommand_of_authenticated ho (by decide) (by omega) ((takeSec_start (by omega) false _).trans h)

theorem exec_abort_of_request (hp : s.sec.cplace < 8) (h : requestAbort (secKept s 4 s.sec.cplace false) 1 = t) :
    exec (.abort o) s = .next { t with resp := ⟨0, 0, []⟩ } :=
  secCommand_of_authenticated ho (by decide) hp ((takeSec_abort _ false _).trans h)

end

theorem requestAbort_of_running {s : State} {r : Nat} (h : runningPlace s = some r) (cause : Nat) : requestAbort s cause = abortNow s r cause := by
  rw [requestAbort, h]

theorem requestAbort_of_none {s : State} (h : runningPlace s = none) (cause : Nat) : requestAbort s cause = abortLate s cause := by
  rw [requestAbort, h]

/-! The start opening (R39, R41, R164, R218). -/

/-- The section at its start opening: its place RUNNING, G15's phase inverted, and the epoch switched where it is armed for this line. -/
def sectionOpened (s : State) (r : Nat) : State :=
  let switch := s.sec.earm = true ∧ s.sec.eline = 15
  { s with
    sec := { s.sec with
      places := gset s.sec.places r { s.place r with st := 4, ranGen := some (s.place r).gen }, openOut := false, runus := 0,
      gphase := s.sec.gphase ^^^ 2 ^ 15, inj := if switch then !s.sec.inj else s.sec.inj, earm := if switch then false else s.sec.earm,
      drained := if switch then false else s.sec.drained },
    err := { s.err with secrec := 0 } }

theorem exec_startOpening_of_arrived {s : State} {r : Nat} (hr : armedPlace s = some r) (ho : s.sec.openOut = true) (ha : allArrived s = true) :
    exec .startOpening s = .next (fixDevState (startPower (beginStalls (sectionOpened s r)) r)) := by
  have hexec : exec .startOpening s = execStartOpening s := rfl
  rw [hexec]
  simp only [execStartOpening, hr, ho, ha, Bool.not_true, Bool.or_self, Bool.false_eq_true, if_false]
  refine congrArg (fun x => Host.Outcome.next (fixDevState (startPower (beginStalls x) r))) ?_
  by_cases hswitch : s.sec.earm = true ∧ s.sec.eline = 15
  · rw [sectionOpened]
    simp only [if_pos hswitch]
    exact (if_pos hswitch).trans rfl
  · rw [sectionOpened]
    simp only [if_neg hswitch]
    exact (if_neg hswitch).trans rfl

theorem beginStalls_stall {s : State} (hs : gwf s.stalls = true) {sid : Nat} (h : sid < 1048576) (ha : shedAbsent s (shedOf sid) = false) :
    (beginStalls s).stall sid = if (s.stall sid).opened = true ∧ (s.stall sid).sen = true then
      ((s.stall sid).settle sid).begin (Config.freeCycles (s.fresh + sid)) else s.stall sid := by
  have hmem := mem_stallsWhere hs (fun t => t.opened && t.sen) h
  rw [ha, Bool.and_eq_true] at hmem
  refine (gget_gmodKeys hs (stallsWhere_nodup hs _) _ sid).trans ?_
  simp only [hmem, and_true]
  rfl

/-! The close (R188, R217, R229). -/

/-- The stalls have been checked and closed, and the section's place is ENDED. -/
def sectionClosed (s : State) (r : Nat) : State := modPlace (closeStalls ((closeFailures s).foldl closeStall s)) r fun q => { q with st := 5 }

/-- The result of a COMPLETED section. -/
def completed (t : State) (r : Nat) (failed : Bool) : State :=
  { t with sec := { t.sec with valid := true, outcome := false, closeerr := failed, rplace := r, acause := 0, lastsec := (t.place r).secid } }

/-- The records of the section are its last ones. -/
def lastRecorded (t : State) : State := { t with err := { t.err with lastrec := t.err.secrec } }

/-- The end of a section after its result. -/
def afterResult (t : State) (r : Nat) : State :=
  parkHeld (lastRecorded (learnEnd (endHeld (bucketsEnd t (!needsRecovery t))) r))

theorem completeSection_eq (s : State) (r : Nat) :
    completeSection s r = afterResult (completed (sectionClosed s r) r (!(closeFailures s).isEmpty)) r := by
  unfold completeSection afterResult completed sectionClosed lastRecorded
  with_reducible rfl

theorem afterResult_sec (t : State) (r : Nat) : (afterResult t r).sec = { t.sec with held := false } :=
  calc (afterResult t r).sec
    _ = (learnEnd (endHeld (bucketsEnd t (!needsRecovery t))) r).sec :=
      (parkHeld_same (ps := [.psheds]) Same.refl (by decide)).kept .sec (by decide)
    _ = { (bucketsEnd t (!needsRecovery t)).sec with held := false } :=
      (learnEnd_same (ps := [.pwr]) Same.refl r (by decide)).kept .sec (by decide)
    _ = { t.sec with held := false } := congrArg (fun x : SecBlock => { x with held := false })
      ((bucketsEnd_same (ps := [.grm, .err, .mbx, .mars, .sheds]) Same.refl _ (by decide)).kept .sec (by decide))

theorem lastRecorded_stalls (t : State) : (lastRecorded t).stalls = t.stalls := rfl

theorem endHeld_stalls (t : State) : (endHeld t).stalls = t.stalls := rfl

theorem afterResult_stalls (t : State) (r : Nat) : (afterResult t r).stalls = t.stalls := by
  have hbuckets : (bucketsEnd t (!needsRecovery t)).stalls = t.stalls :=
    (bucketsEnd_same (ps := [.grm, .err, .mbx, .mars, .sheds]) Same.refl _ (by decide)).kept .stalls (by decide)
  have hlearn (x : State) : (learnEnd x r).stalls = x.stalls := (learnEnd_same (ps := [.pwr]) Same.refl r (by decide)).kept .stalls (by decide)
  have hpark (x : State) : (parkHeld x).stalls = x.stalls := (parkHeld_same (ps := [.psheds]) Same.refl (by decide)).kept .stalls (by decide)
  rw [afterResult, hpark, lastRecorded_stalls, hlearn, endHeld_stalls, hbuckets]

theorem sectionClosed_sec (s : State) (r : Nat) :
    (sectionClosed s r).sec = { s.sec with places := gmod s.sec.places r fun q => { q with st := 5 } } :=
  congrArg (fun x : SecBlock => { x with places := gmod x.places r fun q => { q with st := 5 } })
    ((Same.foldl (ps := [.grm, .err, .mbx, .sheds]) Same.refl fun t k ht => closeStall_same ht k (by decide)).kept .sec (by decide))

theorem sectionClosed_stall (s : State) (r sid : Nat) : ((sectionClosed s r).stall sid).opened = false :=
  gget_gmapAll_of_all _ (P := fun t : Stall => t.opened = false) (fun _ => rfl) sid

theorem completeSection_sec (s : State) (r : Nat) :
    (completeSection s r).sec = { s.sec with
      places := gmod s.sec.places r fun q => { q with st := 5 }, valid := true, outcome := false, closeerr := !(closeFailures s).isEmpty,
      rplace := r, acause := 0, lastsec := ((sectionClosed s r).place r).secid, held := false } := by
  rw [completeSection_eq, afterResult_sec, completed]
  dsimp only
  rw [sectionClosed_sec]

theorem completeSection_stall (s : State) (r sid : Nat) : ((completeSection s r).stall sid).opened = false := by
  rw [completeSection_eq, State.stall, afterResult_stalls]
  exact sectionClosed_stall s r sid

/-! What follows the end of a section (R211, R222). -/

/-- The AUTO start that follows the end of a section, unless an error calls for recovery. -/
def thenAuto (e : State) : State := if needsRecovery e then { e with sec := { e.sec with auto := false } } else if e.sec.auto then autoStart e else e

theorem exec_endLatch_of_all {s : State} {r : Nat} (hr : runningPlace s = some r) (he : endAll s = true) :
    exec .endLatch s = .next (thenAuto (fixDevState (completeSection s r))) := by
  have hexec : exec .endLatch s = execEndLatch s := rfl
  rw [hexec]
  simp only [execEndLatch, hr, he, Bool.not_true, Bool.false_eq_true, if_false]
  rfl

/-- The place that was aborting is ABORTED. -/
def abortEnded (s : State) (r : Nat) : State :=
  { s with sec := { s.sec with places := gset s.sec.places r { s.place r with st := 7 } }, err := { s.err with lastrec := s.err.secrec },
           pwr := { s.pwr with learning := false } }

theorem abortedReached_of_drained {s : State} {r : Nat} (hr : placeIn s [6] = some r) (hd : abortDrained s = true) :
    abortedReached s = thenAuto (fixDevState (abortEnded s r)) := by
  simp only [abortedReached, hr, hd, Bool.not_true, Bool.false_eq_true, if_false]
  rfl

theorem fixDevState_warmBusy (s : State) : (fixDevState s).dev.warmBusy = s.dev.warmBusy := by
  unfold fixDevState
  split
  · rfl
  · split <;> rfl

theorem thenAuto_dev (e : State) : (thenAuto e).dev = e.dev := by
  unfold thenAuto
  split
  · rfl
  · split
    · exact (autoStart_same (ps := [.pwr, .sec, .yards, .sheds, .psheds, .stalls]) Same.refl (by decide)).kept .dev (by decide)
    · rfl

theorem exec_abortedReached_of_drained {s : State} {r : Nat} (hr : placeIn s [6] = some r) (hd : abortDrained s = true)
    (hw : s.dev.warmBusy = false) : exec .abortedReached s = .next (thenAuto (fixDevState (abortEnded s r))) := by
  have hwarm : (abortedReached s).dev.warmBusy = false := by
    rw [abortedReached_of_drained hr hd, thenAuto_dev, fixDevState_warmBusy]
    exact hw
  have hexec : exec .abortedReached s = execAbortedReached s := rfl
  rw [hexec]
  simp only [execAbortedReached, hwarm, Bool.false_and, Bool.false_eq_true, if_false]
  rw [abortedReached_of_drained hr hd]

end Sys2Proof.Machine

namespace Sys2Proof.Proofs
open Sys2Proof Sys2Proof.Machine

/-- Settles O45: each command by its checks, and each end by the equation of its outcome. -/
theorem sectionRuns : Obligations.SectionRuns := by
  intro s o p hc q sent refuse
  have hs := hc.stalls
  refine ⟨fun ho => ⟨fun h => ?notArmed, fun h3 hopen => ⟨fun ha => ?active, fun ha hp => ?pred, fun ha hp => ⟨fun hh => ?held, fun hh => ?opens⟩⟩,
      fun hcp => ⟨fun r hr => ?abort, fun hr => ?abortLate⟩⟩,
    fun r => exec_startOpening_of_arrived, fun sid h ha => beginStalls_stall hs h ha, fun r hr he => ?endLatch, fun r => exec_abortedReached_of_drained⟩
  case notArmed => exact exec_start_of_take ho p (takeStart_of_not_armed (s := secKept s 3 p false) h)
  case active => exact exec_start_of_take ho p (takeStart_of_active (s := secKept s 3 p false) h3 hopen ha)
  case pred => exact exec_start_of_take ho p (takeStart_of_pred (s := secKept s 3 p false) h3 hopen ha hp)
  case held => exact exec_start_of_take ho p (takeStart_of_held (s := secKept s 3 p false) h3 hopen ha hp hh)
  case opens =>
    refine ⟨_, exec_start_of_take ho p (takeStart_of_free (s := secKept s 3 p false) h3 hopen ha hp hh), ?_, fun sid h => ?_⟩
    · dsimp only
      rw [sendOpen_eq, openSheds_sec]
      rfl
    · rw [answered_stall, sendOpen_stall (s := secKept s 3 p false) hc.yards p h]
      rfl
  case abort => exact exec_abort_of_request ho hcp (requestAbort_of_running (s := secKept s 4 s.sec.cplace false) hr 1)
  case abortLate => exact exec_abort_of_request ho hcp (requestAbort_of_none (s := secKept s 4 s.sec.cplace false) hr 1)
  case endLatch =>
    dsimp only
    have hsec := completeSection_sec s r
    have hplace : (completeSection s r).place r = { s.place r with st := 5 } := by
      rw [State.place, hsec]
      exact gget_gset_self hc.places ..
    have hclosed : ((sectionClosed s r).place r).secid = (s.place r).secid := by
      rw [State.place, sectionClosed_sec]
      exact congrArg Place.secid (a₂ := { s.place r with st := 5 }) (gget_gset_self hc.places ..)
    have hfailed : (!(closeFailures s).isEmpty) = decide (closeFailures s ≠ []) := by cases closeFailures s <;> rfl
    refine ⟨by rw [exec_endLatch_of_all hr he, thenAuto], congrArg Place.st hplace, ?_⟩
    rw [hsec]
    exact ⟨rfl, rfl, rfl, rfl, hclosed, hfailed, rfl, completeSection_stall s r⟩

end Sys2Proof.Proofs
end
